-- ==== Sys2Proof/Word.lean ====
section
/-! DEFINITION. Words, bytes, addresses and keyed lists: the plain types that every other file uses. -/

namespace Sys2Proof

/-- A 32-bit word of a lane register (00_scope.md R5, 03_encoding.md R63). -/
abbrev Word := BitVec 32

/-- A 64-bit word of an s-register or of a device register. -/
abbrev Word64 := BitVec 64

/-- A byte of memory. -/
abbrev Byte := BitVec 8

/-- A virtual address: 56 bits (01_machine.md R21). -/
abbrev Addr := BitVec 56

/-- Sparse data by key: a list of keys and values, keys rising, no key twice.
A key that is not listed reads as the default that its reader names. -/
abbrev SMap (α : Type) := List (Nat × α)

/-- The value listed at a key, if any. -/
def SMap.find? {α : Type} : SMap α → Nat → Option α
  | [], _ => none
  | (k, v) :: r, n => if k = n then some v else SMap.find? r n

/-- The value at a key, or the default. -/
def SMap.get {α : Type} (d : α) (m : SMap α) (n : Nat) : α := (SMap.find? m n).getD d

/-- Put a value at a key, keeping the keys rising. -/
def SMap.set {α : Type} : SMap α → Nat → α → SMap α
  | [], n, v => [(n, v)]
  | (k, w) :: r, n, v =>
    if n < k then (n, v) :: (k, w) :: r
    else if n = k then (n, v) :: r
    else (k, w) :: SMap.set r n v

/-- Take a key out. -/
def SMap.del {α : Type} : SMap α → Nat → SMap α
  | [], _ => []
  | (k, w) :: r, n => if n = k then r else (k, w) :: SMap.del r n

/-- The keys are strictly rising. -/
def SMap.rising {α : Type} : SMap α → Bool
  | [] => true
  | [_] => true
  | (k, _) :: (k', w) :: r => decide (k < k') && SMap.rising ((k', w) :: r)

/-- The listed keys. -/
def SMap.keys {α : Type} (m : SMap α) : List Nat := m.map (·.1)

/-- A bit of a word as a truth value. -/
def bitAt {w : Nat} (v : BitVec w) (n : Nat) : Bool := v.getLsbD n

/-- Bits hi to lo of a word as a number (00_scope.md R8). -/
def field {w : Nat} (v : BitVec w) (hi lo : Nat) : Nat := v.toNat / 2 ^ lo % 2 ^ (hi + 1 - lo)

/-- Set one bit of a word. -/
def setBit {w : Nat} (v : BitVec w) (n : Nat) (b : Bool) : BitVec w :=
  if b then v ||| BitVec.twoPow w n else v &&& ~~~ (BitVec.twoPow w n)

/-- The 32 lane numbers in ascending order. -/
def laneList : List Nat := List.range 32

/-- The lanes of a mask in ascending order (00_scope.md R8). -/
def lanesOf (m : Word) : List Nat := laneList.filter (bitAt m)

/-- A mask from a test of each lane. -/
def maskOf (f : Nat → Bool) : Word := laneList.foldl (fun m i => setBit m i (f i)) 0

/-- Bytes of a number, low byte first: the order of multi-byte values (00_scope.md R5). -/
def bytesOf : Nat → Nat → List Byte
  | 0, _ => []
  | k + 1, v => BitVec.ofNat 8 v :: bytesOf k (v / 256)

/-- The number that bytes hold, low byte first (00_scope.md R5). -/
def ofBytes : List Byte → Nat
  | [] => 0
  | b :: r => b.toNat + 256 * ofBytes r

end Sys2Proof
end

