-- ==== Sys2Proof/Config.lean ====
section
/-! DEFINITION. What one device fixes, and the free values: constants without a body, so no proof can see a value. -/

namespace Sys2Proof.Config

/-- A free choice between two permitted values (03_encoding.md R75, 12_memory_instr.md R322).
Applied to the counter State.tick. UNVERIFIED value; log entry 2. Safe. -/
opaque freeBool : Nat → Bool

/-- A free amount, never negative: the core cycles that the manual does not count (17_system_instr.md R476).
Applied to State.tick; log entry 2. Safe. -/
opaque freeDelay : Nat → Nat

/-- A free 64-bit value. Applied to State.tick; log entry 2. Safe. -/
opaque freeWord64 : Nat → BitVec 64

/-- The set of a line in its L2 slice, modulo 1,024, which no rule gives (10_memory.md R255). Log entry 20. Safe. -/
opaque l2Set : Nat → Nat

/-- The set of a line in L1, modulo 256, which no rule gives (10_memory.md R253). Log entry 20. Safe. -/
opaque l1Set : Nat → Nat

/-- What a fabric peer or the host answers to a read of quarter 11 (10_memory.md R262, 11_ordering.md R308, 15_isolation.md R433):
partition, node, offset, length and State.tick. Log entry 2. Safe. -/
opaque peerRead : Nat → Nat → Nat → Nat → Nat → Nat

/-- The SHAKE256 digest of a list of bytes, as a list of bytes (15_isolation.md R436): a function of its input
that the manual takes from FIPS 202. Log entry 7. Safe. -/
opaque shake256 : Nat → List (BitVec 8) → List (BitVec 8)

/-- The attestation key that the device secret and a measurement of the microcontroller's firmware give, by its public key, if
the microcontroller can make one (15_isolation.md R435, R437). Log entries 7 and 137. Safe. -/
opaque attestKey : List (BitVec 8) → Option (List (BitVec 8))

/-- The signature of a report by the attestation key of a public key (15_isolation.md R435, R436). Log entry 7. Safe. -/
opaque sign : List (BitVec 8) → List (BitVec 8) → List (BitVec 8)

/-- The certificate of a public key by the identity key, and that of the identity key by Dormais (15_isolation.md R435, R437).
Log entry 7. Safe. -/
opaque certificate : Option (List (BitVec 8)) → List (BitVec 8)

/-- Whether an image of the given bytes passes SLH-DSA verification (25_physical.md R527). Log entry 7. Safe. -/
opaque verifies : List (BitVec 8) → Bool

/-- The security version that an image carries, and the minimum in the fuses (25_physical.md R527). Log entries 4 and 7. Safe. -/
opaque imageVersion : List (BitVec 8) → Nat
opaque minVersion : Nat

/-- The firmware image that is staged in the microcontroller's SRAM, by State.tick: no rule says who puts it there
(16_recovery.md R471). Log entry 122. Safe. -/
opaque stagedImage : Nat → List (BitVec 8)

/-- Product form and stepping in HKID (25_physical.md R530): FORM. Log entry 4. Safe. -/
opaque form : Nat

/-- Product form and stepping in HKID (25_physical.md R530): STEP. Log entry 4. Safe. -/
opaque stepping : Nat

/-- The serial number (25_physical.md R530): SERIAL. Log entry 4. Safe. -/
opaque serial : BitVec 64

/-- The firmware image of a kind that the package was made with, which may be absent (25_physical.md R527). Log entry 4. Safe. -/
opaque factoryImage : Nat → Option (List (BitVec 8))

/-- Whether a spare cluster position sits on the strait edge: 4 × die + spare (01_machine.md R16). Log entry 45. Safe. -/
opaque spareAtStrait : Nat → Bool

/-- The masked stage of a core in the fuses, by register address (25_physical.md R526). Log entry 4. Safe. -/
opaque fuseMap : Nat → Nat

/-- The logical cluster that a spare of a die replaces in the fuses, by 4 × die + spare; 64 and above for none (01_machine.md R14, R16,
25_physical.md R526). Log entries 4 and 45. Safe. -/
opaque fuseRepair : Nat → Nat

/-- Off-package ports that have light at bring-up (25_physical.md R526, R529). Log entry 4. Safe. -/
opaque portsUp : BitVec 64

end Sys2Proof.Config
end

