-- ==== Sys2Proof/Syntax.lean ====
section
/-! DEFINITION. The instructions and the device events: one constructor of Instr for each row of the opcode table. -/

namespace Sys2Proof

/-- A source operand of an L-set field (03_encoding.md R67). Every 5-bit code is one. -/
inductive Src where
  | o (n : BitVec 4)   -- codes 0 to 15
  | l0                 -- code 16
  | l1                 -- code 17
  | zero               -- code 18
  | lane               -- code 19
  | x (n : BitVec 2)   -- codes 20 to 23
  | u (n : BitVec 3)   -- codes 24 to 31: s56 to s63
  deriving DecidableEq, Repr

/-- A destination operand of an L-set field (03_encoding.md R67). -/
inductive Dst where
  | o (n : BitVec 4)
  | zero
  deriving DecidableEq, Repr

/-- Stall field (03_encoding.md R71). -/
abbrev Stall := BitVec 3

/-- Conditions of cmp (03_encoding.md R79, opcode 0x09). -/
inductive IntCond where
  | eq | ne | lt | le | gt | ge | ltu | leu | gtu | geu
  deriving DecidableEq, Repr

/-- Conditions of fcmp (07_lane_arith.md R163). -/
inductive FloatCond where
  | eq | ne | lt | le | gt | ge | un | ord
  deriving DecidableEq, Repr

/-- Conditions of scmp (03_encoding.md R82, opcode 0x03). -/
inductive SCond where
  | eq | ne | lt | le | ltu | leu
  deriving DecidableEq, Repr

/-- Functions of fsfu (07_lane_arith.md R164). -/
inductive SfuFn where
  | rcp | rsq | ex2 | lg2 | sin | cos
  deriving DecidableEq, Repr

/-- Formats of fcvt (03_encoding.md R80). -/
inductive Fmt where
  | fp32 | fp16 | bf16 | e4m3 | e5m2 | int32 | uint32 | int8
  deriving DecidableEq, Repr

/-- Rounding modes of fcvt (03_encoding.md R80). -/
inductive Rnd where
  | nearest | zero | up | down
  deriving DecidableEq, Repr

/-- Modes of shfl (07_lane_arith.md R169). -/
inductive ShflMode where
  | idx | up | down | xor
  deriving DecidableEq, Repr

/-- Kinds of vote (07_lane_arith.md R170). -/
inductive VoteKind where
  | all | any | uni | ballot
  deriving DecidableEq, Repr

/-- Operations of wred (03_encoding.md R80). -/
inductive WredOp where
  | add | fadd | mins | maxs | minu | maxu | and | or | xor | fmin | fmax
  deriving DecidableEq, Repr

/-- Four-bit code types (03_encoding.md R80, 06_square_tiles.md R100). -/
inductive CodeType where
  | int | e2m1 | pow2 | hyb
  deriving DecidableEq, Repr

/-- Access widths (03_encoding.md R80). -/
inductive Width where
  | u8 | s8 | u16 | s16 | w32 | w64 | w128
  deriving DecidableEq, Repr

/-- Operations of atom and red (03_encoding.md R80). -/
inductive AtomOp where
  | add32 | add64 | fadd32 | mins32 | maxs32 | minu32 | maxu32 | and32 | or32 | xor32
  | swap32 | swap64 | cas32 | cas64
  deriving DecidableEq, Repr

/-- Operations of gred (12_memory_instr.md R342). -/
inductive GredOp where
  | add | fadd | min | max | and | or | xor
  deriving DecidableEq, Repr

/-- Scopes (03_encoding.md R70, 11_ordering.md R282). -/
inductive Scope where
  | lane | warp | core | cluster | die | device | system
  deriving DecidableEq, Repr

/-- Semantics of fence (12_memory_instr.md R328). -/
inductive FenceSem where
  | acq | rel | acqRel | sc
  deriving DecidableEq, Repr

/-- SEM of a memory access (03_encoding.md R81). -/
inductive Sem where
  | plain | acquire | release | acqRel
  deriving DecidableEq, Repr

/-- CACHE of a memory access (03_encoding.md R81). The value 3 is rejected. -/
inductive CacheMode where
  | normal | streaming | l2only
  deriving DecidableEq, Repr

/-- The extension word of ld, st, atom, red and prf (03_encoding.md R81). -/
structure MemExt where
  base : BitVec 6
  cls : BitVec 2
  scope : Scope
  sem : Sem
  cache : CacheMode
  slack : BitVec 4
  off : BitVec 13
  deriving DecidableEq, Repr

/-- What a host or peer request does to memory (11_ordering.md R308, 15_isolation.md R432, R434). -/
inductive ReqOp where
  | read (len : Nat)
  | write (data : List Byte)
  | atomic (op : AtomOp) (b c : BitVec 64)
  deriving DecidableEq, Repr

/-- A host request to device memory: the function it comes from and the physical address (15_isolation.md R432); rel is set where
the host releases with it, acq where it acquires, both at system scope (11_ordering.md R308). -/
structure HostReq where
  fn : Nat
  addr : Nat
  op : ReqOp
  rel : Bool := false
  acq : Bool := false
  deriving DecidableEq, Repr

/-- A fabric peer's request: the port, the partition and the offset within its outward window (15_isolation.md R434). -/
structure PeerReq where
  port : Nat
  off : Nat
  op : ReqOp
  rel : Bool := false
  acq : Bool := false
  deriving DecidableEq, Repr

/-- What a pass of the 1 ms loop measures and what its firmware decides (15_isolation.md R427):
the highest point that keeps each domain within 1,600 A, the module power in watts, the dies above 95 °C, the hottest die
and stack, and the budgets it writes, by 128 × arbiter + cluster. -/
structure Sensors where
  caps : List Nat
  power : Nat
  hot : List Nat
  tempDie : Nat
  tempStack : Nat
  budgets : List (Nat × Nat)
  deriving DecidableEq, Repr

/-- Every instruction word of the two maps (03_encoding.md R79, R82) and every event that a device agent
or the outside world makes (the rows of the opcode table that have no word). The agent that an event acts for stands in State.cur,
as the issuer of a word does. -/
inductive Instr where
  /-- ADD: Each executing lane writes a + b modulo 2^32. (07_lane_arith.md R150) -/
  | add (n : Stall) (d : Dst) (a : Src) (b : Src)
  /-- SUB: Each executing lane writes a − b modulo 2^32. (07_lane_arith.md R150) -/
  | sub (n : Stall) (d : Dst) (a : Src) (b : Src)
  /-- MUL: Each executing lane writes the low 32 bits of a × b. (07_lane_arith.md R150) -/
  | mul (n : Stall) (d : Dst) (a : Src) (b : Src)
  /-- MULH: Each executing lane writes the high 32 bits of the signed product. (07_lane_arith.md R150) -/
  | mulh (n : Stall) (d : Dst) (a : Src) (b : Src)
  /-- MULH_U: Each executing lane writes the high 32 bits of the unsigned product. (07_lane_arith.md R150) -/
  | mulhU (n : Stall) (d : Dst) (a : Src) (b : Src)
  /-- AND: Each executing lane writes a AND b. (07_lane_arith.md R150) -/
  | and (n : Stall) (d : Dst) (a : Src) (b : Src)
  /-- OR: Each executing lane writes a OR b. (07_lane_arith.md R150) -/
  | or (n : Stall) (d : Dst) (a : Src) (b : Src)
  /-- XOR: Each executing lane writes a XOR b. (07_lane_arith.md R150) -/
  | xor (n : Stall) (d : Dst) (a : Src) (b : Src)
  /-- ANDN: Each executing lane writes a AND NOT b. (07_lane_arith.md R150) -/
  | andn (n : Stall) (d : Dst) (a : Src) (b : Src)
  /-- SHL: Each executing lane shifts a left by b[4:0] with zero fill. (07_lane_arith.md R150) -/
  | shl (n : Stall) (d : Dst) (a : Src) (b : Src)
  /-- SHR: Each executing lane shifts a right by b[4:0] with zero fill. (07_lane_arith.md R150) -/
  | shr (n : Stall) (d : Dst) (a : Src) (b : Src)
  /-- SAR: Each executing lane shifts a right by b[4:0] filling with a[31]. (07_lane_arith.md R150) -/
  | sar (n : Stall) (d : Dst) (a : Src) (b : Src)
  /-- ROTL: Each executing lane rotates a left by b[4:0]. (07_lane_arith.md R150) -/
  | rotl (n : Stall) (d : Dst) (a : Src) (b : Src)
  /-- MIN: Each executing lane writes the signed minimum of a and b. (07_lane_arith.md R150) -/
  | min (n : Stall) (d : Dst) (a : Src) (b : Src)
  /-- MAX: Each executing lane writes the signed maximum of a and b. (07_lane_arith.md R150) -/
  | max (n : Stall) (d : Dst) (a : Src) (b : Src)
  /-- MIN_U: Each executing lane writes the unsigned minimum of a and b. (07_lane_arith.md R150) -/
  | minU (n : Stall) (d : Dst) (a : Src) (b : Src)
  /-- MAX_U: Each executing lane writes the unsigned maximum of a and b. (07_lane_arith.md R150) -/
  | maxU (n : Stall) (d : Dst) (a : Src) (b : Src)
  /-- NEG: Each executing lane writes 0 − a modulo 2^32. (07_lane_arith.md R151) -/
  | neg (n : Stall) (d : Dst) (a : Src)
  /-- ABS: Each executing lane writes the absolute value of signed a modulo 2^32. (07_lane_arith.md R151) -/
  | abs (n : Stall) (d : Dst) (a : Src)
  /-- NOT: Each executing lane writes NOT a. (07_lane_arith.md R151) -/
  | not (n : Stall) (d : Dst) (a : Src)
  /-- CLZ: Each executing lane writes the count of leading zero bits of a. (07_lane_arith.md R151) -/
  | clz (n : Stall) (d : Dst) (a : Src)
  /-- POPC: Each executing lane writes the count of one bits of a. (07_lane_arith.md R151) -/
  | popc (n : Stall) (d : Dst) (a : Src)
  /-- BREV: Each executing lane writes a with its bit order reversed. (07_lane_arith.md R151) -/
  | brev (n : Stall) (d : Dst) (a : Src)
  /-- MOV: Each executing lane copies a to d. (07_lane_arith.md R151) -/
  | mov (n : Stall) (d : Dst) (a : Src)
  /-- MAD: Each executing lane writes (a × b + c) modulo 2^32. (07_lane_arith.md R152) -/
  | mad (n : Stall) (d : Dst) (a : Src) (b : Src) (c : Src)
  /-- ADDW: Each executing lane adds two 64-bit register pairs into an even pair. (07_lane_arith.md R153) -/
  | addw (n : Stall) (d : Dst) (a : Src) (b : Src)
  /-- LEA: Each executing lane writes a + b × 2^sh modulo 2^32. (07_lane_arith.md R154) -/
  | lea (n : Stall) (d : Dst) (a : Src) (b : Src) (h : BitVec 6)
  /-- BFX: Each executing lane extracts an unsigned bit field of a. (07_lane_arith.md R155) -/
  | bfx (n : Stall) (d : Dst) (a : Src) (l : BitVec 5) (p : BitVec 5)
  /-- BFX_SIGNED: Each executing lane extracts a sign-extended bit field of a. (07_lane_arith.md R155) -/
  | bfxSigned (n : Stall) (d : Dst) (a : Src) (l : BitVec 5) (p : BitVec 5)
  /-- BFI: Each executing lane inserts low bits of a into a field of d. (07_lane_arith.md R155) -/
  | bfi (n : Stall) (d : Dst) (a : Src) (l : BitVec 5) (p : BitVec 5)
  /-- SEL: Each executing lane writes a or b as its bit of the named mask selects. (07_lane_arith.md R156) -/
  | sel (n : Stall) (d : Dst) (a : Src) (b : Src) (k : BitVec 4)
  /-- CMP: Each executing lane writes its bit of a mask from an integer comparison of a and b. (07_lane_arith.md R157) -/
  | cmp (n : Stall) (k : BitVec 4) (a : Src) (b : Src) (c : IntCond)
  /-- MOVI: Each executing lane writes the sign-extended imm11 constant. (07_lane_arith.md R158) -/
  | movi (n : Stall) (d : Dst) (i : BitVec 11)
  /-- MOVI_WIDE: Each executing lane writes the 32-bit constant of the extension word. (07_lane_arith.md R158) -/
  | moviWide (n : Stall) (d : Dst) (v : BitVec 32)
  /-- ADD_IMM: Each executing lane writes a + sext(imm11). (07_lane_arith.md R150) -/
  | addImm (n : Stall) (d : Dst) (a : Src) (i : BitVec 11)
  /-- MUL_IMM: Each executing lane writes the low 32 bits of a × sext(imm11). (07_lane_arith.md R150) -/
  | mulImm (n : Stall) (d : Dst) (a : Src) (i : BitVec 11)
  /-- AND_IMM: Each executing lane writes a AND sext(imm11). (07_lane_arith.md R150) -/
  | andImm (n : Stall) (d : Dst) (a : Src) (i : BitVec 11)
  /-- OR_IMM: Each executing lane writes a OR sext(imm11). (07_lane_arith.md R150) -/
  | orImm (n : Stall) (d : Dst) (a : Src) (i : BitVec 11)
  /-- XOR_IMM: Each executing lane writes a XOR sext(imm11). (07_lane_arith.md R150) -/
  | xorImm (n : Stall) (d : Dst) (a : Src) (i : BitVec 11)
  /-- SHL_IMM: Each executing lane shifts a left by an immediate amount. (07_lane_arith.md R150) -/
  | shlImm (n : Stall) (d : Dst) (a : Src) (p : BitVec 5)
  /-- SHR_IMM: Each executing lane shifts a right logically by an immediate amount. (07_lane_arith.md R150) -/
  | shrImm (n : Stall) (d : Dst) (a : Src) (p : BitVec 5)
  /-- SAR_IMM: Each executing lane shifts a right arithmetically by an immediate amount. (07_lane_arith.md R150) -/
  | sarImm (n : Stall) (d : Dst) (a : Src) (p : BitVec 5)
  /-- ROTL_IMM: Each executing lane rotates a left by an immediate amount. (07_lane_arith.md R150) -/
  | rotlImm (n : Stall) (d : Dst) (a : Src) (p : BitVec 5)
  /-- MIN_IMM: Each executing lane writes the signed minimum of a and sext(imm11). (07_lane_arith.md R150) -/
  | minImm (n : Stall) (d : Dst) (a : Src) (i : BitVec 11)
  /-- MAX_IMM: Each executing lane writes the signed maximum of a and sext(imm11). (07_lane_arith.md R150) -/
  | maxImm (n : Stall) (d : Dst) (a : Src) (i : BitVec 11)
  /-- HADD2: Each executing lane adds the two 16-bit halves separately, wrapping. (07_lane_arith.md R159) -/
  | hadd2 (n : Stall) (d : Dst) (a : Src) (b : Src)
  /-- HSUB2: Each executing lane subtracts the two 16-bit halves separately, wrapping. (07_lane_arith.md R159) -/
  | hsub2 (n : Stall) (d : Dst) (a : Src) (b : Src)
  /-- HMIN2: Each executing lane takes the signed minimum of each half. (07_lane_arith.md R159) -/
  | hmin2 (n : Stall) (d : Dst) (a : Src) (b : Src)
  /-- HMAX2: Each executing lane takes the signed maximum of each half. (07_lane_arith.md R159) -/
  | hmax2 (n : Stall) (d : Dst) (a : Src) (b : Src)
  /-- HADD2_SAT: Each executing lane adds each signed half with saturation. (07_lane_arith.md R159) -/
  | hadd2Sat (n : Stall) (d : Dst) (a : Src) (b : Src)
  /-- HSUB2_SAT: Each executing lane subtracts each signed half with saturation. (07_lane_arith.md R159) -/
  | hsub2Sat (n : Stall) (d : Dst) (a : Src) (b : Src)
  /-- HMIN2_U: Each executing lane takes the unsigned minimum of each half. (07_lane_arith.md R159) -/
  | hmin2U (n : Stall) (d : Dst) (a : Src) (b : Src)
  /-- HMAX2_U: Each executing lane takes the unsigned maximum of each half. (07_lane_arith.md R159) -/
  | hmax2U (n : Stall) (d : Dst) (a : Src) (b : Src)
  /-- ACS2: Each executing lane performs a butterfly add-compare-select on both halves and writes decisions to two masks. (07_lane_arith.md R160) -/
  | acs2 (n : Stall) (d : Dst) (a : Src) (b : Src) (k : BitVec 4)
  /-- FADD: Each executing lane writes rne_fp32(a + b) and sets flags. (07_lane_arith.md R161) -/
  | fadd (n : Stall) (d : Dst) (a : Src) (b : Src)
  /-- FSUB: Each executing lane writes rne_fp32(a − b) and sets flags. (07_lane_arith.md R161) -/
  | fsub (n : Stall) (d : Dst) (a : Src) (b : Src)
  /-- FMUL: Each executing lane writes rne_fp32(a × b) and sets flags. (07_lane_arith.md R161) -/
  | fmul (n : Stall) (d : Dst) (a : Src) (b : Src)
  /-- FMIN: Each executing lane writes the smaller FP32 operand. (07_lane_arith.md R161) -/
  | fmin (n : Stall) (d : Dst) (a : Src) (b : Src)
  /-- FMAX: Each executing lane writes the larger FP32 operand. (07_lane_arith.md R161) -/
  | fmax (n : Stall) (d : Dst) (a : Src) (b : Src)
  /-- FFMA: Each executing lane writes rne_fp32(a × b + c) with one rounding. (07_lane_arith.md R162) -/
  | ffma (n : Stall) (d : Dst) (a : Src) (b : Src) (c : Src)
  /-- FCMP: Each executing lane writes its mask bit from an FP32 comparison. (07_lane_arith.md R163) -/
  | fcmp (n : Stall) (k : BitVec 4) (a : Src) (b : Src) (c : FloatCond)
  /-- FSFU: Each executing lane computes a correctly rounded special function of a on the special-function unit. (07_lane_arith.md R164) -/
  | fsfu (n : Stall) (d : Dst) (a : Src) (f : SfuFn)
  /-- FCVT: Each executing lane converts a between formats with the chosen rounding and overflow mode. (07_lane_arith.md R165) -/
  | fcvt (n : Stall) (d : Dst) (a : Src) (v : BitVec 1) (r : Rnd) (t : Fmt) (u : Fmt)
  /-- FQ4: Each executing lane codes one FP32 element into a four-bit code under a scale exponent. (07_lane_arith.md R166) -/
  | fq4 (n : Stall) (d : Dst) (a : Src) (b : Src) (t : CodeType)
  /-- FDQ4: Each executing lane decodes one four-bit code under a scale exponent to FP32. (07_lane_arith.md R167) -/
  | fdq4 (n : Stall) (d : Dst) (a : Src) (b : Src) (t : CodeType)
  /-- SHFL: Lanes of the round exchange values by index, up, down or xor once every present lane of the mask has arrived. (07_lane_arith.md R169) -/
  | shfl (n : Stall) (d : Dst) (a : Src) (b : Src) (m : ShflMode) (k : BitVec 4)
  /-- VOTE: Lanes of the round receive an all, any, uni or ballot vote over a. (07_lane_arith.md R170) -/
  | vote (n : Stall) (d : Dst) (a : Src) (m : VoteKind) (k : BitVec 4)
  /-- WRED: Lanes of the round receive a reduction over the fixed pairwise tree of R121. (07_lane_arith.md R171) -/
  | wred (n : Stall) (d : Dst) (a : Src) (p : WredOp) (k : BitVec 4)
  /-- RGN: Each executing lane fills up to four o-registers from main registers. (07_lane_arith.md R172) -/
  | rgn (n : Stall) (k : BitVec 4) (c : BitVec 2) (j3 : BitVec 7) (j2 : BitVec 7) (j1 : BitVec 7) (j0 : BitVec 7)
  /-- WBK: Each executing lane writes up to four o-registers back to main registers. (07_lane_arith.md R173) -/
  | wbk (n : Stall) (k : BitVec 4) (c : BitVec 2) (j3 : BitVec 7) (j2 : BitVec 7) (j1 : BitVec 7) (j0 : BitVec 7)
  /-- MVM_FROM_MAIN: Each executing lane copies one main register into d. (07_lane_arith.md R174) -/
  | mvmFromMain (n : Stall) (d : Dst) (m : BitVec 7)
  /-- MVM_TO_MAIN: Each executing lane copies d into one main register. (07_lane_arith.md R174) -/
  | mvmToMain (n : Stall) (d : Src) (m : BitVec 7)
  /-- XBND: Each executing lane sets its main-file array bounds. (07_lane_arith.md R175) -/
  | xbnd (n : Stall) (h : BitVec 7) (l : BitVec 7)
  /-- XSET: Each executing lane writes an index register with a + sext(imm11). (07_lane_arith.md R176) -/
  | xset (n : Stall) (x : BitVec 2) (a : Src) (i : BitVec 11)
  /-- LDX: Each executing lane reads a bounds-checked indexed main register. (07_lane_arith.md R177) -/
  | ldx (n : Stall) (d : Dst) (x : BitVec 2) (i : BitVec 11)
  /-- STX: Each executing lane writes a bounds-checked indexed main register. (07_lane_arith.md R177) -/
  | stx (n : Stall) (d : Src) (x : BitVec 2) (i : BitVec 11)
  /-- LD: Each executing lane loads from a virtual address with width, semantics, class, cache and slack. (12_memory_instr.md R313) -/
  | ld (n : Stall) (d : Dst) (a : Src) (w : Width) (x : MemExt)
  /-- ST: Each executing lane stores to a virtual address with width, semantics, class, cache and slack. (12_memory_instr.md R313) -/
  | st (n : Stall) (d : Src) (a : Src) (w : Width) (x : MemExt)
  /-- ATOM: Each executing lane sends an atomic to the home synchronisation engine and receives the old value. (12_memory_instr.md R316) -/
  | atom (n : Stall) (d : Dst) (a : Src) (b : Src) (p : AtomOp) (x : MemExt)
  /-- RED: Each executing lane places a reduction into the task's q6 without waiting. (12_memory_instr.md R318) -/
  | red (n : Stall) (a : Src) (b : Src) (p : AtomOp) (x : MemExt)
  /-- PRF: Each executing lane prefetches a line into L1 and L2 or into L2 only. (12_memory_instr.md R320) -/
  | prf (n : Stall) (a : Src) (q : BitVec 1) (x : MemExt)
  /-- FENCE: Each executing lane orders its accesses with the given semantics and scope. (12_memory_instr.md R328) -/
  | fence (n : Stall) (e : FenceSem) (o : Scope)
  /-- LDS: Each executing lane loads from the core scratchpad. (12_memory_instr.md R321) -/
  | lds (n : Stall) (d : Dst) (a : Src) (b : Src) (w : Width)
  /-- STS: Each executing lane stores to the core scratchpad. (12_memory_instr.md R321) -/
  | sts (n : Stall) (d : Src) (a : Src) (b : Src) (w : Width)
  /-- LDA: Each executing lane reads one granted accumulator word. (12_memory_instr.md R322) -/
  | lda (n : Stall) (d : Dst) (a : Src) (b : Src)
  /-- STA: Each executing lane writes one granted accumulator word. (12_memory_instr.md R322) -/
  | sta (n : Stall) (d : Src) (a : Src) (b : Src)
  /-- LDT: Each executing lane reads one word of a ready tile, waiting while it fills or drains. (09_tensor_instr.md R223) -/
  | ldt (n : Stall) (d : Dst) (a : Src) (t : BitVec 6)
  /-- TWAIT: The lane group waits for a tile entry to become ready and acquires its bytes. (09_tensor_instr.md R222) -/
  | twait (n : Stall) (t : BitVec 6)
  /-- LDP: Each executing lane reads a parameter-window word, returning 0 with POVR beyond the bound. (12_memory_instr.md R326) -/
  | ldp (n : Stall) (d : Dst) (a : Src) (w : BitVec 3) (i : BitVec 8)
  /-- BRA: Every executing lane moves to the branch target. (14_control_instr.md R380) -/
  | bra (n : Stall) (o : BitVec 21)
  /-- BRC: Executing lanes whose mask bit equals the sense move to the target. (14_control_instr.md R381) -/
  | brc (n : Stall) (e : BitVec 1) (k : BitVec 4) (o : BitVec 16)
  /-- CALL: Each executing lane pushes its return address and moves to the target. (14_control_instr.md R383) -/
  | call (n : Stall) (o : BitVec 21)
  /-- BRX: Each executing lane moves by its own signed word offset. (14_control_instr.md R382) -/
  | brx (n : Stall) (a : Src)
  /-- NOP: No effect beyond the stall count. (14_control_instr.md R387) -/
  | nop (n : Stall)
  /-- EXIT: Each executing lane becomes exited; the task may end or refill. (14_control_instr.md R386) -/
  | exit (n : Stall)
  /-- RET: Each executing lane pops its return stack and moves to the entry. (14_control_instr.md R383) -/
  | ret (n : Stall)
  /-- VAC: Each executing lane becomes vacant and empties its return stack. (14_control_instr.md R395) -/
  | vac (n : Stall)
  /-- YLD: The executing lanes open a yield window. (14_control_instr.md R387) -/
  | yld (n : Stall)
  /-- MAND: Executing lanes write mkA AND mkB into mkD. (14_control_instr.md R388) -/
  | mand (n : Stall) (d : BitVec 4) (a : BitVec 4) (b : BitVec 4)
  /-- MOR: Executing lanes write mkA OR mkB into mkD. (14_control_instr.md R388) -/
  | mor (n : Stall) (d : BitVec 4) (a : BitVec 4) (b : BitVec 4)
  /-- MNOT: Executing lanes write NOT mkA into mkD. (14_control_instr.md R388) -/
  | mnot (n : Stall) (d : BitVec 4) (a : BitVec 4)
  /-- MSET: Executing lanes write bit i of a into mkD. (14_control_instr.md R388) -/
  | mset (n : Stall) (d : BitVec 4) (a : Src)
  /-- MPOP: Executing lanes write the population count of a mask. (14_control_instr.md R388) -/
  | mpop (n : Stall) (d : Dst) (k : BitVec 4)
  /-- MFIRST: Executing lanes write the lowest set lane of a mask, or 32. (14_control_instr.md R388) -/
  | mfirst (n : Stall) (d : Dst) (k : BitVec 4)
  /-- MJOIN: Lanes wait until every present lane of the mask is at mjoin, then continue and may reconverge. (14_control_instr.md R391) -/
  | mjoin (n : Stall) (k : BitVec 4)
  /-- MLEAVE: Executing lanes clear their bits of the mask, possibly completing a waiting round. (14_control_instr.md R392) -/
  | mleave (n : Stall) (k : BitVec 4)
  /-- MWAIT: Lanes wait until every present lane of the mask is at an mwait, without reconverging. (14_control_instr.md R393) -/
  | mwait (n : Stall) (k : BitVec 4)
  /-- REFILL: The executing group pops items atomically and hands them to vacant lanes, or ends the task. (14_control_instr.md R396) -/
  | refill (n : Stall) (d : Dst)
  /-- SPAWNL: Each executing lane creates one child task from a template record. (14_control_instr.md R398) -/
  | spawnl (n : Stall) (a : Src) (b : Src) (r : BitVec 6)
  /-- GBAR: The whole live warp arrives at the group's next barrier round. (14_control_instr.md R400) -/
  | gbar (n : Stall) (g : BitVec 2)
  /-- LBAR: The warp arrives at the launch barrier of a co-resident launch. (14_control_instr.md R401) -/
  | lbar (n : Stall)
  /-- TRAP: Each executing lane raises trap 0x12 with the argument. (17_system_instr.md R483) -/
  | trap (n : Stall) (g : BitVec 8)
  /-- TRET: Each executing lane leaves the handler and resumes at trap.pc. (17_system_instr.md R485) -/
  | tret (n : Stall)
  /-- ESC: Executing lanes halt and the launch is killed and rolled back for replay. (17_system_instr.md R486) -/
  | esc (n : Stall) (g : BitVec 8)
  /-- BRK: Each executing lane raises trap 0x11 with the argument. (17_system_instr.md R483) -/
  | brk (n : Stall) (g : BitVec 8)
  /-- RDSR: Each executing lane reads a special register by number. (17_system_instr.md R482) -/
  | rdsr (n : Stall) (d : Dst) (r : BitVec 10)
  /-- WRSR: Executing lanes write a special register by number. (17_system_instr.md R482) -/
  | wrsr (n : Stall) (d : Src) (r : BitVec 10)
  /-- SADD: The strand writes a + b modulo 2^64. (07_lane_arith.md R178) -/
  | sadd (n : Stall) (d : BitVec 6) (a : BitVec 6) (b : BitVec 6)
  /-- SSUB: The strand writes a − b modulo 2^64. (07_lane_arith.md R178) -/
  | ssub (n : Stall) (d : BitVec 6) (a : BitVec 6) (b : BitVec 6)
  /-- SMUL: The strand writes the low 64 bits of a × b. (07_lane_arith.md R178) -/
  | smul (n : Stall) (d : BitVec 6) (a : BitVec 6) (b : BitVec 6)
  /-- SAND: The strand writes a AND b. (07_lane_arith.md R178) -/
  | sand (n : Stall) (d : BitVec 6) (a : BitVec 6) (b : BitVec 6)
  /-- SOR: The strand writes a OR b. (07_lane_arith.md R178) -/
  | sor (n : Stall) (d : BitVec 6) (a : BitVec 6) (b : BitVec 6)
  /-- SXOR: The strand writes a XOR b. (07_lane_arith.md R178) -/
  | sxor (n : Stall) (d : BitVec 6) (a : BitVec 6) (b : BitVec 6)
  /-- SMIN: The strand writes the signed minimum. (07_lane_arith.md R178) -/
  | smin (n : Stall) (d : BitVec 6) (a : BitVec 6) (b : BitVec 6)
  /-- SMAX: The strand writes the signed maximum. (07_lane_arith.md R178) -/
  | smax (n : Stall) (d : BitVec 6) (a : BitVec 6) (b : BitVec 6)
  /-- SSHL: The strand shifts a left by b[5:0]. (07_lane_arith.md R178) -/
  | sshl (n : Stall) (d : BitVec 6) (a : BitVec 6) (b : BitVec 6)
  /-- SSHR: The strand shifts a right logically by b[5:0]. (07_lane_arith.md R178) -/
  | sshr (n : Stall) (d : BitVec 6) (a : BitVec 6) (b : BitVec 6)
  /-- SSAR: The strand shifts a right arithmetically by b[5:0]. (07_lane_arith.md R178) -/
  | ssar (n : Stall) (d : BitVec 6) (a : BitVec 6) (b : BitVec 6)
  /-- SMOV: The strand copies a to d. (07_lane_arith.md R178) -/
  | smov (n : Stall) (d : BitVec 6) (a : BitVec 6)
  /-- SMIN_U: The strand writes the unsigned minimum. (07_lane_arith.md R178) -/
  | sminU (n : Stall) (d : BitVec 6) (a : BitVec 6) (b : BitVec 6)
  /-- SMAX_U: The strand writes the unsigned maximum. (07_lane_arith.md R178) -/
  | smaxU (n : Stall) (d : BitVec 6) (a : BitVec 6) (b : BitVec 6)
  /-- SCMP: The strand writes 1 or 0 from a comparison of a and b. (07_lane_arith.md R178) -/
  | scmp (n : Stall) (d : BitVec 6) (a : BitVec 6) (b : BitVec 6) (c : SCond)
  /-- SSEL: The strand writes a or b as a condition register is non-zero or zero. (07_lane_arith.md R179) -/
  | ssel (n : Stall) (d : BitVec 6) (a : BitVec 6) (b : BitVec 6) (c : BitVec 6)
  /-- SADD_IMM: The strand writes a + sext(imm9). (07_lane_arith.md R178) -/
  | saddImm (n : Stall) (d : BitVec 6) (a : BitVec 6) (i : BitVec 9)
  /-- SMUL_IMM: The strand writes the low 64 bits of a × sext(imm9). (07_lane_arith.md R178) -/
  | smulImm (n : Stall) (d : BitVec 6) (a : BitVec 6) (i : BitVec 9)
  /-- SAND_IMM: The strand writes a AND sext(imm9). (07_lane_arith.md R178) -/
  | sandImm (n : Stall) (d : BitVec 6) (a : BitVec 6) (i : BitVec 9)
  /-- SOR_IMM: The strand writes a OR sext(imm9). (07_lane_arith.md R178) -/
  | sorImm (n : Stall) (d : BitVec 6) (a : BitVec 6) (i : BitVec 9)
  /-- SXOR_IMM: The strand writes a XOR sext(imm9). (07_lane_arith.md R178) -/
  | sxorImm (n : Stall) (d : BitVec 6) (a : BitVec 6) (i : BitVec 9)
  /-- SSHL_IMM: The strand shifts a left by an immediate amount. (07_lane_arith.md R178) -/
  | sshlImm (n : Stall) (d : BitVec 6) (a : BitVec 6) (p : BitVec 6)
  /-- SSHR_IMM: The strand shifts a right logically by an immediate amount. (07_lane_arith.md R178) -/
  | sshrImm (n : Stall) (d : BitVec 6) (a : BitVec 6) (p : BitVec 6)
  /-- SSAR_IMM: The strand shifts a right arithmetically by an immediate amount. (07_lane_arith.md R178) -/
  | ssarImm (n : Stall) (d : BitVec 6) (a : BitVec 6) (p : BitVec 6)
  /-- SMIN_IMM: The strand writes the signed minimum of a and sext(imm9). (07_lane_arith.md R178) -/
  | sminImm (n : Stall) (d : BitVec 6) (a : BitVec 6) (i : BitVec 9)
  /-- SMAX_IMM: The strand writes the signed maximum of a and sext(imm9). (07_lane_arith.md R178) -/
  | smaxImm (n : Stall) (d : BitVec 6) (a : BitVec 6) (i : BitVec 9)
  /-- SMOVI: The strand writes the sign-extended imm9 constant. (07_lane_arith.md R180) -/
  | smovi (n : Stall) (d : BitVec 6) (i : BitVec 9)
  /-- SMOVI_32: The strand writes a sign-extended 32-bit extension constant. (07_lane_arith.md R180) -/
  | smovi32 (n : Stall) (d : BitVec 6) (v : BitVec 32)
  /-- SMOVI_64: The strand writes a 64-bit constant from two extension words. (07_lane_arith.md R180) -/
  | smovi64 (n : Stall) (d : BitVec 6) (lo : BitVec 32) (hi : BitVec 32)
  /-- BOND: The strand requests a lease of an aligned core rectangle for a cluster-bound group and receives a status. (09_tensor_instr.md R237) -/
  | bond (n : Stall) (d : BitVec 6) (k : BitVec 2) (c : BitVec 2) (r : BitVec 2)
  /-- BOND_STRAIT: The strand requests a 4×8 strait lease over a seam pair and receives a status. (09_tensor_instr.md R237) -/
  | bondStrait (n : Stall) (d : BitVec 6) (k : BitVec 2)
  /-- UNBOND: The strand releases the group's lease after its q0 operations, or clears a revoked mark. (09_tensor_instr.md R238) -/
  | unbond (n : Stall) (k : BitVec 2)
  /-- MMA: The strand reads and checks a matrix parameter block and places the product in q0. (09_tensor_instr.md R239) -/
  | mma (n : Stall) (a : BitVec 6)
  /-- TALLOC: The strand allocates a tile entry from a descriptor. (09_tensor_instr.md R220) -/
  | talloc (n : Stall) (t : BitVec 6) (a : BitVec 6)
  /-- TFREE: The strand frees a tile entry now or marks it FREEING. (09_tensor_instr.md R221) -/
  | tfree (n : Stall) (t : BitVec 6)
  /-- TCOPY: The strand places a copy parameter block in queue q1 to q4. (09_tensor_instr.md R224) -/
  | tcopy (n : Stall) (q : BitVec 3) (a : BitVec 6)
  /-- TQUANT: The strand places a quantising copy in queue q1 to q4. (09_tensor_instr.md R234) -/
  | tquant (n : Stall) (q : BitVec 3) (a : BitVec 6)
  /-- AALLOC: The strand requests accumulator words for a holder, waiting until they can be granted. (09_tensor_instr.md R235) -/
  | aalloc (n : Stall) (d : BitVec 6) (a : BitVec 6) (k : BitVec 2)
  /-- AFREE: The strand releases the holder's grant after its q0 writers complete. (09_tensor_instr.md R236) -/
  | afree (n : Stall) (k : BitVec 2)
  /-- SLD: The strand loads 8 bytes into an s-register. (12_memory_instr.md R324) -/
  | sld (n : Stall) (d : BitVec 6) (a : BitVec 6) (i : BitVec 9)
  /-- SST: The strand stores an s-register as 8 bytes. (12_memory_instr.md R324) -/
  | sst (n : Stall) (d : BitVec 6) (a : BitVec 6) (i : BitVec 9)
  /-- LDP_UNIFORM: The strand reads a parameter-window doubleword, returning 0 with POVR beyond the bound. (12_memory_instr.md R327) -/
  | ldpUniform (n : Stall) (d : BitVec 6) (a : BitVec 6) (w : BitVec 3) (i : BitVec 6)
  /-- GRED: The strand joins the group's next reduction round and receives its result. (12_memory_instr.md R342) -/
  | gred (n : Stall) (d : BitVec 6) (a : BitVec 6) (k : BitVec 2) (p : GredOp)
  /-- QFENCE: Later operations in the queue set begin only after earlier ones complete. (11_ordering.md R304) -/
  | qfence (n : Stall) (q : BitVec 8)
  /-- QWAIT: The strand waits for the warp's earlier operations in the queue set and acquires their writes. (11_ordering.md R305) -/
  | qwait (n : Stall) (q : BitVec 8)
  /-- TTAG: The strand sets the warp's current tensor id. (12_memory_instr.md R332) -/
  | ttag (n : Stall) (a : BitVec 6)
  /-- TDISC: The strand discards every line of a tensor id in the partition and waits for the discard to pass. (12_memory_instr.md R333) -/
  | tdisc (n : Stall) (a : BitVec 6)
  /-- GATH: The strand places a gather block in the task's q5. (12_memory_instr.md R334) -/
  | gath (n : Stall) (a : BitVec 6)
  /-- SCAT: The strand places a scatter block in the task's q5. (12_memory_instr.md R334) -/
  | scat (n : Stall) (a : BitVec 6)
  /-- PROM: The strand translates an address and places a row promotion, optionally pinned, in q7. (12_memory_instr.md R338) -/
  | prom (n : Stall) (a : BitVec 6) (p : BitVec 1)
  /-- DEM: The strand translates an address and places a row demotion in q7. (12_memory_instr.md R338) -/
  | dem (n : Stall) (a : BitVec 6)
  /-- UBRA: The strand moves the converged warp's PC to the target. (14_control_instr.md R384) -/
  | ubra (n : Stall) (o : BitVec 21)
  /-- UBRC: The strand branches when the condition register's non-zero state equals the sense. (14_control_instr.md R384) -/
  | ubrc (n : Stall) (c : BitVec 6) (e : BitVec 1) (o : BitVec 14)
  /-- UCALL: The strand pushes its return address and branches. (14_control_instr.md R385) -/
  | ucall (n : Stall) (o : BitVec 21)
  /-- URET: The strand pops its stack and branches. (14_control_instr.md R385) -/
  | uret (n : Stall)
  /-- SPAWN: The strand creates one child task from a template record. (14_control_instr.md R397) -/
  | spawn (n : Stall) (a : BitVec 6) (b : BitVec 6)
  /-- CONT: The task ends and writes a continuation record held on or released by a join counter. (14_control_instr.md R399) -/
  | cont (n : Stall) (a : BitVec 6)
  /-- PHASE: The strand sets the cluster's phase marker. (14_control_instr.md R402) -/
  | phase (n : Stall) (m : BitVec 8)
  /-- PERF: The strand sets the task's operating-point floor request. (14_control_instr.md R403) -/
  | perf (n : Stall) (l : BitVec 4)
  /-- CARVE: The strand makes a carve-out request for its core. (14_control_instr.md R404) -/
  | carve (n : Stall) (k : BitVec 3)
  /-- RDSR_UNIFORM: The strand reads a special register into an s-register. (17_system_instr.md R482) -/
  | rdsrUniform (n : Stall) (d : BitVec 6) (r : BitVec 10)
  /-- WRSR_UNIFORM: The strand writes a special register from an s-register. (17_system_instr.md R482) -/
  | wrsrUniform (n : Stall) (d : BitVec 6) (r : BitVec 10)
  /-- QUEUE_DOORBELL: The host writes a command queue's TAIL through its doorbell register. (13_scheduling.md R345) -/
  | queueDoorbell (fn : Nat) (die : Nat) (q : Nat) (tail : BitVec 32)
  /-- SNAPSHOT_COPY: A launch's first write to a 64 KiB page copies the page into a snapshot frame before the write is performed. (16_recovery.md R463) -/
  | snapshotCopy (lid : Nat) (page : Nat)
  /-- BOUND_GROUP_PLACEMENT: The scheduler places a whole bound group once every member can be resident at once. (13_scheduling.md R353) -/
  | boundGroupPlacement (lid : Nat) (grp : Nat)
  /-- FILL_LANDING: A fill's writes land in a tile entry, and the entry becomes ready with release when the landed count reaches EXPECT. (09_tensor_instr.md R217) -/
  | fillLanding (k : Nat)
  /-- MMA_OP: q0 waits for its operand tiles, then streams the product's passes and updates accumulator words. (09_tensor_instr.md R242) -/
  | mmaOp (rows : Nat)
  /-- SYNC_OVERFLOW_MOVE: The synchronisation engine moves granules between SRAM, its overflow area and their addresses. (11_ordering.md R298) -/
  | syncOverflowMove (die : Nat) (granule : Nat)
  /-- CHANNEL_ARRIVAL: A request arrives at its memory channel and receives its deadline. (10_memory.md R273) -/
  | channelArrival (stack : Nat) (chan : Nat) (cyc : Nat)
  /-- CHANNEL_SERVICE: The channel scheduler picks one request by class, deadline, arrival and requester id and performs it. (10_memory.md R274) -/
  | channelService (stack : Nat) (chan : Nat) (cyc : Nat)
  /-- AGE_PROMOTION: A request waiting 4,096 channel cycles comes to count as class 0. (10_memory.md R274) -/
  | agePromotion (stack : Nat) (chan : Nat) (cyc : Nat)
  /-- L2_WRITEBACK: The home die's L2 writes a dirty line back to memory. (10_memory.md R256) -/
  | l2Writeback (die : Nat) (line : Nat)
  /-- REMOTE_WRITE_APPLY: A die applies a write from the other die once every earlier-epoch write of that die is applied. (11_ordering.md R288) -/
  | remoteWriteApply (die : Nat) (idx : Nat)
  /-- TLB_MISS: A last-level TLB miss merges with a pending walk or enters the pending table. (15_isolation.md R422) -/
  | tlbMiss (die : Nat) (space : Nat) (va : Nat)
  /-- FRESP_RETRY: System software's retry response makes every access waiting on the token walk again. (15_isolation.md R419) -/
  | frespRetry (part : Nat) (token : Nat)
  /-- FRESP_FAIL: System software's fail response makes every waiting access trap 0x0D or stop with XFAULT. (15_isolation.md R419) -/
  | frespFail (part : Nat) (token : Nat)
  /-- DRAIN_CONFIRMED: An idle-tree check holds 1 for its full window and confirms a drain. (13_scheduling.md R374) -/
  | drainConfirmed (lid : Nat)
  /-- CMAP_WRITE: A cluster-map write remaps a logical cluster if idle, else is ignored with ERR. (15_isolation.md R407) -/
  | cmapWrite (die : Nat) (clu : Nat) (v : BitVec 64)
  /-- CPART_WRITE: A partition-register write assigns a logical cluster if idle, else is ignored with ERR. (15_isolation.md R407) -/
  | cpartWrite (die : Nat) (clu : Nat) (v : BitVec 64)
  /-- SYNC: Writing 1 to SYNC propagates range-table changes to every arbiter, after which it reads 0. (15_isolation.md R409) -/
  | sync (v : BitVec 64)
  /-- QBIND_WRITE: A queue binding write takes effect for the next launch the queue admits. (15_isolation.md R410) -/
  | qbindWrite (die : Nat) (q : Nat) (v : BitVec 64)
  /-- INV_ALL: INV with MODE 0 invalidates every space's translations on both dies. (15_isolation.md R423) -/
  | invAll (die : Nat) (v : BitVec 64)
  /-- INV_SPACE: INV with MODE 1 invalidates one address space's translations. (15_isolation.md R423) -/
  | invSpace (die : Nat) (v : BitVec 64)
  /-- INV_PAGES: INV with MODE 2 invalidates a range of 64 KiB pages of one space. (15_isolation.md R423) -/
  | invPages (die : Nat) (v : BitVec 64)
  /-- REGSEL_WRITE: A regulator-select write switches an idle cluster's regulator, else is ignored with ERR. (15_isolation.md R424) -/
  | regselWrite (clu : Nat) (v : BitVec 64)
  /-- DOMAIN_LOOP: Every millisecond the microcontroller sets domain targets and budgets, reads sensors and re-tunes rings. (15_isolation.md R427) -/
  | domainLoop (sense : Sensors)
  /-- GATE_DIE: Setting GATEd begins gating a die, unless a condition makes the write ignored with ERR. (15_isolation.md R429) -/
  | gateDie (v : BitVec 64)
  /-- WAKE_DIE: Clearing GATEd begins waking a gated die. (15_isolation.md R429) -/
  | wakeDie (v : BitVec 64)
  /-- PREEMPT_LAUNCH: PRECTL with KIND 0 pre-empts the named launch. (16_recovery.md R452) -/
  | preemptLaunch (v : BitVec 64)
  /-- PREEMPT_PARTITION: PRECTL with KIND 1 pre-empts every running launch of a partition. (16_recovery.md R452) -/
  | preemptPartition (v : BitVec 64)
  /-- RESTORE: A RESTORE write starts restoring one saved context into a partition. (16_recovery.md R459) -/
  | restore (v : BitVec 64)
  /-- KILL_LAUNCH: KILLCTL with KIND 0 kills the named launch, optionally rolling back its pages. (16_recovery.md R460) -/
  | killLaunch (v : BitVec 64)
  /-- KILL_PARTITION: KILLCTL with KIND 1 kills every running launch of a partition, optionally rolling back. (16_recovery.md R460) -/
  | killPartition (v : BitVec 64)
  /-- LEASEREV: A LEASEREV write revokes the lease covering the named core. (16_recovery.md R461) -/
  | leaserev (die : Nat) (v : BitVec 64)
  /-- UNFREEZE_KILL: UNFRZ action 0 kills launches on a frozen master and returns it to service. (15_isolation.md R415) -/
  | unfreezeKill (v : BitVec 64)
  /-- UNFREEZE_RESET: UNFRZ action 1 resets a frozen host function. (15_isolation.md R415) -/
  | unfreezeReset (v : BitVec 64)
  /-- CELLMASK_WRITE: A CELLMASK write masks a cell stage of an idle cluster, else is ignored with ERR. (16_recovery.md R469) -/
  | cellmaskWrite (die : Nat) (clu : Nat) (core : Nat) (v : BitVec 64)
  /-- FSCFG_WRITE: An FSCFG write writes back and invalidates every slot and sets the bank's new split. (10_memory.md R265) -/
  | fscfgWrite (stack : Nat) (bank : Nat) (v : BitVec 64)
  /-- SYNOVF_WRITE: A SYNOVF write sets the overflow area if it holds no granule, else is ignored with ERR. (11_ordering.md R299) -/
  | synovfWrite (die : Nat) (v : BitVec 64)
  /-- TQOVF_WRITE: A TQOVF write sets a cluster's queue overflow area if idle, else is ignored with ERR. (13_scheduling.md R356) -/
  | tqovfWrite (die : Nat) (clu : Nat) (word : Nat) (v : BitVec 64)
  /-- FAULTQ_CONFIG_WRITE: A write to a fault queue's BASE or CAP takes effect only while HEAD equals TAIL, else sets ERR. (15_isolation.md R420) -/
  | faultqConfigWrite (part : Nat) (off : Nat) (v : BitVec 64)
  /-- EXPW_WRITE: An outward-window write stores the base and a size clamped to 131,072 units. (15_isolation.md R434) -/
  | expwWrite (part : Nat) (word : Nat) (v : BitVec 64)
  /-- REGISTER_WRITE: A write to a register with no behaviour of its own stores, clears or ignores bits by its access type. (00_scope.md R6) -/
  | registerWrite (addr : Nat) (size : Nat) (v : BitVec 64)
  /-- HOST_ACCESS: A host request to device memory is checked under its function's partition and performed at system scope. (11_ordering.md R308) -/
  | hostAccess (req : HostReq)
  /-- FABRIC_PEER_ACCESS: A fabric peer's access through a port reaches the outward window or gets an error response. (15_isolation.md R434) -/
  | fabricPeerAccess (req : PeerReq)
  /-- ATTEST_REQ: A write of 1 to REQ starts building a signed attestation report. (15_isolation.md R436) -/
  | attestReq (fn : Nat) (v : BitVec 64)
  /-- REPORT_DONE: The signed report lands in BUF, DONE sets and vector 1 is raised. (15_isolation.md R437) -/
  | reportDone (fn : Nat)
  /-- RSTCTL: Writing 0x5A resets the package and restarts bring-up at stage 2. (25_physical.md R531) -/
  | rstctl (v : BitVec 64)
  /-- ERROR_CONSUMED: A launch consumes an uncorrectable error; the access does not complete and rollback begins. (16_recovery.md R439) -/
  | errorConsumed (lid : Nat) (addr : Nat)
  /-- ROLLBACK: The rollback set is killed, its pages restored from snapshots and its frames freed. (16_recovery.md R466) -/
  | rollback (lid : Nat)
  /-- REPLAY_READMISSION: A rolled-back replayable launch is re-admitted from its entry, waiting for room. (16_recovery.md R466) -/
  | replayReadmission (lid : Nat)
  /-- BRINGUP_STAGE_DONE: A bring-up stage completes or fails, advancing STAGE or stopping with a code. (25_physical.md R526) -/
  | bringupStageDone (ok : Bool) (code : BitVec 8)
  /-- UNASSIGNED_OPCODE: An issuer fetches a word in a reserved or unassigned opcode slot, such as 0x0000_0000 or 0xFFFF_FFFF, and raises trap 0x01, or trap 0x02 under divergence, with no other effect. (03_encoding.md R78) -/
  | unassignedOpcode (w : BitVec 32)
  /-- FAULT_QUEUE_HEAD_WRITE: System software advances HEAD of a partition's fault queue, and the device writes the fault records it was holding back while the ring was full. (15_isolation.md R419) -/
  | faultQueueHeadWrite (part : Nat) (v : BitVec 64)
  /-- SHORT_SAVE_RESUME: A PRECTL write of KIND 2 or 3 while launches are left halted by a short save saves those halted launches. (16_recovery.md R452) -/
  | shortSaveResume (v : BitVec 64)
  /-- LAUNCH_ADMISSION: The command processor takes a queue head, checks the entry, and refuses it, holds it waiting or admits it. (13_scheduling.md R349) -/
  | launchAdmission
  /-- TASK_POP: A free warp slot pops a task record, checks it and starts the task in its initial state. (02_execution.md R43) -/
  | taskPop
  /-- CASTLING_THRESHOLD: A load outstanding longer than the castling threshold becomes a long-latency stall. (02_execution.md R57) -/
  | castlingThreshold
  /-- CASTLING: A board-stalled slot is exchanged with the longest-ready reserve slot over 16 core cycles. (02_execution.md R58) -/
  | castling
  /-- BOARD_ENTRY: The longest-ready reserve slot moves into a free board slot. (13_scheduling.md R361) -/
  | boardEntry
  /-- FAIRNESS_FORCE: A ready group's wait count reaches 64 and the group is forced into an issue place. (13_scheduling.md R364) -/
  | fairnessForce
  /-- YIELD_WINDOW_END: A 32-cycle yield window expires and the group ranks normally again. (13_scheduling.md R368) -/
  | yieldWindowEnd
  /-- IMPLICIT_REFILL: With no live lane left and vacant lanes remaining, the warp performs a refill at its refill address once loads complete. (02_execution.md R45) -/
  | implicitRefill
  /-- TASK_END: A task ends once its engine operations complete, freeing tiles, grant, lease and slot, then decrementing its join counter. (02_execution.md R62) -/
  | taskEnd
  /-- STEAL_REQUEST: An idle cluster sends a steal request to the next victim cluster. (13_scheduling.md R358) -/
  | stealRequest
  /-- STEAL_ANSWER: A victim ships up to 8 eligible records from the young end of its queue. (13_scheduling.md R359) -/
  | stealAnswer
  /-- STEAL_BACKOFF: After a fruitless round, a 4,096-cycle wait expires and a new round begins. (13_scheduling.md R358) -/
  | stealBackoff
  /-- CARVE_CHANGE: Once its conditions hold, a pending carve-out changes the scratchpad and L1 ways and resumes admission. (10_memory.md R252) -/
  | carveChange
  /-- AALLOC_SERVED: A waiting accumulator request is granted on all its cores at once. (09_tensor_instr.md R235) -/
  | aallocServed
  /-- LEASE_JOIN: A granted lease joins the engines after prior q0 operations on its cores complete. (09_tensor_instr.md R237) -/
  | leaseJoin
  /-- LEASE_RELEASE: A lease is released after every q0 operation issued under it has completed. (08_bonds.md R196) -/
  | leaseRelease
  /-- TCOPY_LOAD: The copy engine accepts or refuses a LOAD at its queue head and writes the box into tiles of the multicast cores. (09_tensor_instr.md R228) -/
  | tcopyLoad
  /-- TCOPY_STORE: The copy engine accepts or refuses a STORE once its tile is ready and writes tile or accumulator data to memory. (09_tensor_instr.md R228) -/
  | tcopyStore
  /-- TCOPY_MOVE: The copy engine accepts or refuses a MOVE and copies memory to memory. (09_tensor_instr.md R231) -/
  | tcopyMove
  /-- TQUANT_OP: The copy engine quantises FP32 or BF16 values into tile records on load or store. (09_tensor_instr.md R234) -/
  | tquantOp
  /-- GATHER_OP: The gather port and base dies read indexed elements into a tile in list order. (12_memory_instr.md R336) -/
  | gatherOp
  /-- SCATTER_OP: The gather port and base dies write tile elements to indexed addresses in list order. (12_memory_instr.md R336) -/
  | scatterOp
  /-- PIPE_TRAP: A held engine operation's trap 0x10 is delivered to waiting groups or before the next U-set instruction. (16_recovery.md R444) -/
  | pipeTrap
  /-- ENGINE_COMPLETION: A queued operation completes and writes its status word last. (09_tensor_instr.md R212) -/
  | engineCompletion
  /-- RED_OP: A q6 reduction is performed at the home synchronisation engine in issue order. (12_memory_instr.md R318) -/
  | redOp
  /-- SYNC_ENGINE_ATOMIC: The home synchronisation engine performs a lane atomic on its granule as one step. (12_memory_instr.md R317) -/
  | syncEngineAtomic
  /-- PROMOTION: The base die copies a slow row into a promotion slot, evicting the oldest unpinned slot if needed, or refuses. (10_memory.md R268) -/
  | promotion
  /-- DEMOTION: The base die writes back a dirty slot holding the row and invalidates it. (10_memory.md R269) -/
  | demotion
  /-- FERRY_VISIT: A slice's ferry visits a cluster, which sends up to 4 lines. (10_memory.md R258) -/
  | ferryVisit
  /-- RETURN_VISIT: A cluster channel's token visits a slice, which returns up to 2 lines. (10_memory.md R259) -/
  | returnVisit
  /-- METERING_INTERVAL: An arbiter interval of 4,096 cycles ends, counts reset and held requests pass oldest first. (13_scheduling.md R375) -/
  | meteringInterval
  /-- ARBITER_REQUEST: An arbiter passes, counts or holds a cluster's request against its budget and checks its partition range. (13_scheduling.md R376) -/
  | arbiterRequest
  /-- WALK: A walker translates a virtual address or writes a fault record and waits. (15_isolation.md R418) -/
  | walk
  /-- INV_DONE: An invalidation finishes, restarted walks included, and DONE reads 1. (15_isolation.md R423) -/
  | invDone
  /-- REGULATOR_SWITCH_DONE: A regulator switch ends within 50 µs and the cluster is ungated. (15_isolation.md R424) -/
  | regulatorSwitchDone
  /-- POINT_CHANGE_DONE: A domain's operating-point change completes within 50 µs. (15_isolation.md R425) -/
  | pointChangeDone
  /-- REGULATOR_OVERCURRENT: A regulator passing 1,600 A sets its domain's budgets to 1,024 within 2 µs. (15_isolation.md R427) -/
  | regulatorOvercurrent
  /-- GATING_DONE: A die finishes gating or waking and the ticket engine is handed over. (15_isolation.md R430) -/
  | gatingDone
  /-- PREEMPT_HALT: Affected cores halt at instruction boundaries within 10 µs. (16_recovery.md R453) -/
  | preemptHalt
  /-- CONTEXT_SAVE: After the drain is confirmed the contexts are written to the save area and resources freed. (16_recovery.md R457) -/
  | contextSave
  /-- RESTORE_PLACEMENT: A waiting restore is placed, reissues saved fills and resumes its launch, or fails. (16_recovery.md R459) -/
  | restorePlacement
  /-- LEASE_REVOKED_FREE: A revoked lease reaches Free after its last q0 operation ends. (08_bonds.md R199) -/
  | leaseRevokedFree
  /-- RECOVERY_WRITE_CHUNK: CMD 1 writes a chunk of an image into package flash. (25_physical.md R528) -/
  | recoveryWriteChunk
  /-- RECOVERY_FINISH_IMAGE: CMD 2 marks a complete image as the new image of its kind, or reports it incomplete. (25_physical.md R528) -/
  | recoveryFinishImage
  /-- FIRMWARE_SWITCH: A verified staged firmware image takes over between two loop passes. (16_recovery.md R471) -/
  | firmwareSwitch
  /-- POWER_ON: VSTBY becomes valid and bring-up starts at stage 1. (25_physical.md R526) -/
  | powerOn
  /-- VIN_LOW: VIN below 11.4 V for 10 µs sets every arbiter budget to 1,024. (25_physical.md R524) -/
  | vinLow
  /-- SUPPLY_RESET: VIN below 10.8 V or VSTBY out of range resets the package and loses memory. (25_physical.md R524) -/
  | supplyReset
  /-- THERMAL_TRIP: A die above 105 °C or a stack above 95 °C resets the package and sets TRIP. (25_physical.md R525) -/
  | thermalTrip
  /-- HOST_LINK_TRAINED: The host link finishes training during bring-up, after which physical function 0 reaches the housekeeping block. (25_physical.md R530) -/
  | hostLinkTrained
  deriving DecidableEq, Repr

end Sys2Proof
end

