-- ==== Sys2Proof/Machine/State.lean ====
section
/-! DEFINITION. The state of the machine as plain data, and the state after reset. -/

namespace Sys2Proof.Machine

/-- Reasons a step stops with a fault. The manual gives every misuse of the device an outcome (00_scope.md R2),
so no meaning of this model answers with one. -/
inductive Fault where
  /-- raised by nothing; safe -/
  | noneStated
  deriving DecidableEq, Repr

/-- Reasons a step has no meaning. -/
inductive Refusal where
  /-- an instruction not modelled yet, by its mnemonic; raised by no arm of exec; safe -/
  | notModelled (mnemonic : String)
  deriving DecidableEq, Repr

/-- State of a lane (02_execution.md R33). -/
inductive LaneSt where
  | live | vacant | exited
  deriving DecidableEq, Repr

/-- A resource of a lane that a fixed-latency instruction writes (03_encoding.md R72, R74). -/
inductive LRes where
  | o (n : Nat) | m (n : Nat) | x (n : Nat) | mk (n : Nat) | l0 | l1
  deriving DecidableEq, Repr

/-- A result that is not yet available: the resource, the value before it, and the cycles left (03_encoding.md R74, R75). -/
structure Pend where
  res : LRes
  /-- the value before; for a mask the whole of it, as it was before its producer's group wrote -/
  old : Word
  left : Nat
  /-- one producer wrote this o-register and the one below it (07_lane_arith.md R153) -/
  pair : Bool := false
  deriving DecidableEq, Repr

/-- A variable-latency result on its way to a resource of a lane: the core cycles, from the core's present one, until it is
there; none where they have not been drawn yet (03_encoding.md R72, 13_scheduling.md R362). -/
structure Await where
  res : LRes
  left : Option Nat := none
  deriving DecidableEq, Repr

/-- What a lane waits for (07_lane_arith.md R168, 14_control_instr.md R391, R393, 09_tensor_instr.md R218, 15_isolation.md R419). -/
inductive LaneWait where
  | none
  | round (mk : Nat)   -- at shfl, vote or wred on a mask register
  | join (mk : Nat)
  | meet (mk : Nat)    -- at mwait
  | tile (t : Nat)
  | fault (tok : Nat)
  | q6                 -- at a memory instruction that waits for q6 operations of its task (R318, R362)
  | esc                -- halted at an esc (17_system_instr.md R486)
  deriving DecidableEq, Repr

/-- One lane of a task (02_execution.md R29, R31 to R33, R44; 03_encoding.md R67, R68; 07_lane_arith.md R175, R176;
17_system_instr.md R474, R475). -/
structure Lane where
  st : LaneSt := .exited
  pc : Addr := 0
  /-- hardware return stack, latest entry first, at most 8 (R31) -/
  rstk : List Addr := []
  /-- spilled entries, latest first, at most 8: the oldest stands in m127 (R32) -/
  spill : List Addr := []
  o : SMap Word := []
  m : SMap Word := []
  x : SMap Word := []
  l0 : Word := 0
  l1 : Word := 0
  lo : Nat := 0
  hi : Nat := 127
  pend : List Pend := []
  await : List Await := []
  wait : LaneWait := .none
  /-- core cycles from the core's present one until the lane's next instruction may issue: its stall count, what its sources
  still take to land, and what an event that ended its wait took (03_encoding.md R71, 13_scheduling.md R362) -/
  stallLeft : Nat := 0
  /-- core cycles in which the lane was ready and did not issue (13_scheduling.md R367) -/
  waitCnt : Nat := 0
  /-- core cycles left of a yield window, plus one; 1 where the window has run out and its end is still to be recorded, 0
  without one (13_scheduling.md R368) -/
  yieldLeft : Nat := 0
  trapCode : Word := 0
  trapPc : Word64 := 0
  trapMask : Word := 0
  errSyn : Word64 := 0
  errUnit : Word := 0
  errTr : Word := 0
  errTc : Word := 0
  inH : Bool := false
  latch : Option Word := none
  /-- pages (address space and VA[55:16]) whose translation system software failed for the access the lane retries (R419) -/
  failed : List (Nat × Nat) := []
  deriving DecidableEq, Repr

/-- A lane that has exited, with every register at 0. -/
def Lane.dflt : Lane := {}

/-- A task record (02_execution.md R40). -/
structure TaskRec where
  code : Word64 := 0
  frame : Word64 := 0
  join : Word64 := 0
  itemq : Word64 := 0
  launch : Word := 0
  groups : List (BitVec 16) := [0, 0, 0, 0]
  flags : Word := 0
  arg0 : Word64 := 0
  arg1 : Word64 := 0
  deriving DecidableEq, Repr

/-- A record in a queue, with the task id it received at creation and its address (02_execution.md R43, R47). -/
structure QRec where
  trec : TaskRec
  id : Nat
  lid : Nat
  addr : Nat
  initial : Bool
  /-- the reserved slot that the parent of a continuation left (13_scheduling.md R351) -/
  slot : Option Nat := none
  /-- it would make a group's member total exceed COUNT (R43, R51) -/
  excess : Bool := false
  deriving DecidableEq, Repr

/-- States of a warp slot (02_execution.md R56). -/
inductive SlotSt where
  | free | reserveReady | board | boardStalled | castling | reserveWaiting
  deriving DecidableEq, Repr

/-- What a strand, or the whole live warp, waits for (11_ordering.md R305, 13_scheduling.md R370 to R372,
12_memory_instr.md R342, 09_tensor_instr.md R210, R235, R236, R238, 15_isolation.md R419). -/
inductive WarpWait where
  | none
  | gbar (slot : Nat)
  | lbar
  | gred (slot : Nat) (d : Nat)
  | queues (set : Nat) (upTo : Nat)
  | qfull (q : Nat)
  | aalloc (d : Nat)
  | unbond (slot : Nat)
  | afree (slot : Nat)
  | fault (tok : Nat)
  deriving DecidableEq, Repr

/-- A holder of tiles, grants and leases: a task in its slot, or a bound group of a launch (09_tensor_instr.md R214, R235). -/
inductive Holder where
  | task (warp : Nat)
  | group (lid grp : Nat)
  deriving DecidableEq, Repr

/-- Kinds of engine operation (11_ordering.md R300). -/
inductive OpKind where
  | mma | tcopy | tquant | gath | scat | red | prom (pin : Bool) | dem
  deriving DecidableEq, Repr

/-- Progress of an engine operation (09_tensor_instr.md R211, 16_recovery.md R444). -/
inductive OpSt where
  | queued
  | running
  | performed  -- every write performed, status word not yet written
  | held (told : Bool)  -- stopped by a checker mismatch; told once its trap 0x10 is delivered
  deriving DecidableEq, Repr

/-- A finished sum on its way to an accumulator word of a core; replace where it is stored as it is (05_formats.md R122,
08_bonds.md R187, R209). arrives is its core cycle, counted from the arrival of the first sum of the operation. -/
structure LateSum where
  arrives : Nat
  core : Nat
  word : Nat
  sum : Word
  replace : Bool
  deriving DecidableEq, Repr

/-- An engine operation in a queue (09_tensor_instr.md R211, R225, R240; 11_ordering.md R300 to R305). -/
structure EngOp where
  kind : OpKind
  warp : Nat
  lid : Nat
  taskId : Nat
  /-- number of the operation in the task's issue order -/
  num : Nat
  /-- virtual address of the parameter block, or of the row -/
  block : Addr := 0
  /-- parameter block as read: at issue for mma, at acceptance for the others (R211) -/
  pb : List Byte := []
  st : OpSt := .queued
  /-- outcome code and INFO of the status word (R212, R213) -/
  code : Nat := 0
  info : Nat := 0
  /-- next element, or bytes already produced (R228) -/
  seq : Nat := 0
  /-- bytes of a fill that land in each destination (R217) -/
  data : List Byte := []
  /-- destination cores and the bytes that have landed in each (R230) -/
  dests : List (Nat × Nat) := []
  /-- cores and tiles that this operation reads (R217) -/
  reads : List (Nat × Nat) := []
  /-- row position of an mma: pass and row (R243) -/
  pass : Nat := 0
  row : Nat := 0
  /-- sticky flags that completion ORs into stk (R118) -/
  flags : Nat := 0
  /-- lease origin core for an mma issued under a lease -/
  lease : Option Nat := none
  /-- tensor id that the operation's accesses carry (R260) -/
  tid : Nat := 0
  /-- token of a translation fault it waits on (R213, R419) -/
  tok : Option Nat := none
  /-- B set of the pass in progress, and what the shadow set holds of the next pass's (R240, R242, 08_bonds.md R183) -/
  bset : List Nat := []
  bnext : SMap Nat := []
  /-- sums that have not reached their accumulator words yet (08_bonds.md R187, R209) -/
  late : List LateSum := []
  /-- operand of a red: physical address, operation, value, and whether it releases (12_memory_instr.md R318) -/
  redAddr : Nat := 0
  redOp : AtomOp := .add32
  redVal : Word64 := 0
  redScope : Option Scope := none
  /-- lane, service class and slack in ns of a red (10_memory.md R272, 12_memory_instr.md R318) -/
  lane : Nat := 0
  cls : Nat := 1
  slack : Nat := 4096
  /-- its queue -/
  q : Nat := 0
  /-- half bytes of data that carry an uncorrectable error: in a record, its codes by 16 × row + column, and its header from
  256 on (06_square_tiles.md R131) -/
  poison : List Nat := []
  /-- the cores of the bond of an mma, row by row, and its rows and columns (08_bonds.md R184) -/
  cores : List Nat := []
  ra : Nat := 1
  rb : Nat := 1
  /-- syndrome of a held operation (R445) -/
  syn : Word64 := 0
  unit : Nat := 0
  tr : Nat := 0
  tc : Nat := 0
  deriving DecidableEq, Repr

/-- A qfence in force: the queue set and the number of the first operation issued after it (11_ordering.md R304). -/
structure QFence where
  set : Nat
  num : Nat
  deriving DecidableEq, Repr

/-- How the end of a task proceeds (02_execution.md R61, R62; 14_control_instr.md R399). -/
inductive EndSt where
  | running
  | ending                        -- every lane has ended; engine operations remain
  | contEnding (trec : TaskRec) (wait addr : Nat)
  deriving DecidableEq, Repr

/-- A result of the strand that is not yet available (03_encoding.md R72 to R75). -/
structure SPend where
  reg : Nat
  old : Word64
  left : Nat
  deriving DecidableEq, Repr

/-- A variable-latency result on its way to an s-register, as Await (03_encoding.md R72). -/
structure SAwait where
  reg : Nat
  left : Option Nat := none
  deriving DecidableEq, Repr

/-- What both groups of an issue pair read of their warp's shared state, as it was before either wrote (07_lane_arith.md R146,
14_control_instr.md R389): the masks with the live lanes as mk0, and the registers that an L-set word may write. It is open
until the second group has issued. -/
structure PairSeen where
  mks : SMap Word
  stk : Word
  chk : Bool
  tvec : Word64
  unissued : Bool := true
  deriving DecidableEq, Repr

/-- A warp slot and its task (02_execution.md R44, R55, R56; 17_system_instr.md R474). -/
structure Warp where
  slot : SlotSt := .free
  /-- order in which the slot became ready, or stalled: larger is later (R58, R361) -/
  since : Nat := 0
  converged : Bool := true
  trec : TaskRec := {}
  initial : Bool := false
  lid : Nat := 0
  space : Nat := 0
  part : Nat := 0
  taskId : Nat := 0
  lanes : SMap Lane := []
  s : SMap Word64 := []
  spc : Addr := 0
  ustk : List Addr := []
  refillPc : Option Addr := none
  /-- the start refill of R45 step 1 is still to be made -/
  startRefill : Bool := false
  /-- mk1 to mk11; mk0 is the set of live lanes (R33) -/
  mks : SMap Word := []
  /-- what the second group of the latest issue pair reads -/
  pairSeen : Option PairSeen := none
  stk : Word := 0
  chk : Bool := false
  tvec : Word64 := 0
  mrow : Word64 := 0
  q7st : Word64 := 0
  tid : Nat := 0
  perf : Option Nat := none
  spend : List SPend := []
  sawait : List SAwait := []
  /-- core cycles from the core's present one until the strand's next instruction may issue (03_encoding.md R71) -/
  sstall : Nat := 0
  /-- decision queue: addresses of the L-set words that the strand has passed and the lanes have not gone past
  (02_execution.md R35, 01_machine.md R18). Run-ahead never changes a result (R39), so the strand passes a word in the step in
  which the lanes issue it, and an entry stays only while they wait at it (log entry 6). -/
  dq : List Addr := []
  swait : WarpWait := .none
  sfailed : List (Nat × Nat) := []
  /-- q1 to q7 (R210, R300) -/
  queues : SMap (List EngOp) := []
  opNum : Nat := 0
  fences : List QFence := []
  ending : EndSt := .running
  /-- a load of the task may still be outstanding (R57) -/
  loadOut : Bool := false
  /-- number of the grant or lease that the afree or unbond at which the strand stands is to release
  (09_tensor_instr.md R236, R238) -/
  waitOn : Option Nat := none
  deriving DecidableEq, Repr

/-- A free slot. -/
def Warp.dflt : Warp := {}

/-- States of a tile entry (09_tensor_instr.md R214). -/
inductive TileSt where
  | filling | ready | draining
  deriving DecidableEq, Repr

/-- A tile entry in use; an entry that is not listed is empty (09_tensor_instr.md R214, R216). -/
structure Tile where
  st : TileSt
  owner : Holder
  base : Nat
  size : Nat
  expect : Nat
  tfmt : Nat
  swz : Nat
  fail : Bool := false
  freeing : Bool := false
  landed : Nat := 0
  reserved : Nat := 0
  readers : Nat := 0
  /-- fills that have been accepted and have not completed -/
  fills : Nat := 0
  deriving DecidableEq, Repr

/-- An accumulator grant on one core (09_tensor_instr.md R235). -/
structure Grant where
  holder : Holder
  base : Nat
  size : Nat
  /-- its number among all grants -/
  num : Nat := 0
  deriving DecidableEq, Repr

/-- A scratchpad window of a core-bound group (10_memory.md R248): offset and length in bytes. -/
structure Win where
  lid : Nat
  grp : Nat
  off : Nat
  len : Nat
  deriving DecidableEq, Repr

/-- A carve-out request: the ways asked for, and the slots that were resident (10_memory.md R252). -/
structure CarveReq where
  ways : Nat
  residents : List Nat
  /-- a record that waits for the core, or group records that do so are named in their launch's plan -/
  trec : Option QRec
  deriving DecidableEq, Repr

/-- An agent of a launch: the launch, and 64 × task id + lane; in the lane's place 32 for the strand, 33 + q for the engine operations
of queue q, and 63 for all of the task (11_ordering.md R279). -/
abbrev Agent := Nat × Nat

/-- Bytes of a line that an agent of a launch has written and no system-scope release has shown yet: the other agents that have
observed them, and whether one that knows of them has released at cluster scope or wider since (11_ordering.md R290, R308). -/
structure Wrote where
  lid : Nat
  by_ : Nat
  mask : BitVec 128
  seenBy : List Agent := []
  offered : Bool := false
  deriving DecidableEq, Repr

/-- A line of L1 (10_memory.md R253, R260): 128 bytes, a bit for each dirty byte, tensor id and partition. -/
structure L1Line where
  data : BitVec 1024
  dirty : BitVec 128
  tid : Nat
  part : Nat
  /-- the line is the next to be replaced in its set (CACHE = 1) -/
  next : Bool
  /-- way of the local SRAM that it stands in (10_memory.md R246, R252, R253) -/
  way : Nat := 0
  /-- launch, service class and slack of the latest store that the line holds unperformed (10_memory.md R272) -/
  lid : Option Nat := none
  cls : Nat := 1
  slack : Nat := 4096
  /-- who wrote its dirty bytes -/
  who : List Wrote := []
  deriving DecidableEq, Repr

/-- A castling or board entry in progress (02_execution.md R58): the slots that leave and enter. -/
structure Castle where
  out : Option Nat
  inn : Nat
  deriving DecidableEq, Repr

/-- A core (01_machine.md R18, 10_memory.md R246 to R254, 09_tensor_instr.md R210, R214). -/
structure Core where
  ways : Nat := 3
  /-- scratchpad bytes in canonical form; 0 where none is listed -/
  spad : List Host.Cell := []
  /-- accumulator words; 0 where none is listed -/
  acc : SMap Word := []
  tiles : SMap Tile := []
  grants : List Grant := []
  wins : List Win := []
  q0 : List EngOp := []
  /-- core cycles since reset (17_system_instr.md R476) -/
  cyc : Word64 := 0
  carves : List CarveReq := []
  frozen : Bool := false
  l1 : SMap L1Line := []
  /-- warps that last issued a lane pair and a U-set word (13_scheduling.md R363) -/
  rotL : Nat := 0
  rotS : Nat := 0
  /-- its latest issue was of a lane group, beside which a U-set word may still issue (13_scheduling.md R363) -/
  laneNow : Bool := false
  castle : Option Castle := none
  deriving DecidableEq, Repr

/-- A core after reset. -/
def Core.dflt : Core := {}

/-- States of a lease (08_bonds.md R197); Free is no lease, Saved is held in a context. -/
inductive LeaseSt where
  | joining   -- granted; prior q0 operations still run (09_tensor_instr.md R237)
  | held | releasing | revoked
  | breaking  -- a pre-emption has halted its holder
  deriving DecidableEq, Repr

/-- A lease (08_bonds.md R193 to R199). -/
structure Lease where
  lid : Nat
  grp : Nat
  rows : Nat
  cols : Nat
  strait : Bool
  /-- local index of the north-west core in the holding group's cluster -/
  origin : Nat
  clu : Nat
  /-- the lent cluster of a strait lease -/
  lent : Option Nat
  /-- its cores, bond position by bond position in row order -/
  cores : List Nat
  st : LeaseSt
  q0 : List EngOp := []
  /-- its number among all leases -/
  num : Nat := 0
  deriving DecidableEq, Repr

/-- A waiting accumulator request (09_tensor_instr.md R235). -/
structure AReq where
  warp : Nat
  holder : Holder
  size : Nat
  cores : List Nat
  deriving DecidableEq, Repr

/-- A steal round of an idle cluster (13_scheduling.md R358). -/
inductive Steal where
  | idle
  | asking (victims : List Nat) (found : Bool)
  | backoff
  deriving DecidableEq, Repr

/-- A cluster (01_machine.md R15, 13_scheduling.md R352 to R360). -/
structure Cluster where
  queue : List QRec := []
  phase : BitVec 8 := 0
  copyFrozen : Bool := false
  gathFrozen : Bool := false
  /-- queue that its copy engine served last, as 4 × slot + queue − 1 (09_tensor_instr.md R210) -/
  copyRot : Nat := 0
  areqs : List AReq := []
  /-- records that have entered the overflow area of the queue so far: the place of the next in its ring (R356) -/
  ovTail : Nat := 0
  leases : List Lease := []
  steal : Steal := .idle
  /-- a steal request under way to this victim's cluster number -/
  asked : Option Nat := none
  deriving DecidableEq, Repr

/-- A cluster after reset. -/
def Cluster.dflt : Cluster := {}

/-- Where an access goes: its die, partition, launch, warp and tensor id. -/
structure Master where
  die : Nat
  part : Nat
  space : Nat
  lid : Option Nat
  /-- the 16-bit MASTER value of a freeze record (15_isolation.md R414) -/
  code : Nat
  tid : Nat
  /-- service class, slack in ns, requester id, cluster, and whether metering may hold it (10_memory.md R272, R276,
  13_scheduling.md R375) -/
  cls : Nat := 1
  slack : Nat := 4096
  rid : Nat := 0
  /-- the cluster whose request it is; none for agents of no cluster, whose requests no arbiter counts -/
  clu : Option Nat := none
  hold : Bool := false
  /-- the agent: lane i of slot w is 64 × w + i, the strand of its task 64 × w + 32, the operations of its queue q 64 × w + 33 + q;
  0 for others (11_ordering.md R279); and the task's id -/
  agent : Nat := 0
  task : Nat := 0
  /-- an access of a q0 load pipe, which has a TLB of its own (15_isolation.md R421) -/
  pipe : Bool := false
  deriving DecidableEq, Repr

/-- A line of L2 (10_memory.md R255, R256, R260) with the clock of its latest write (11_ordering.md R287). -/
structure L2Line where
  data : BitVec 1024
  dirty : BitVec 128
  tid : Nat
  part : Nat
  clk : Nat
  deriving DecidableEq, Repr

/-- A write on its way across the strait: the die it was made on, its line, bytes and clock, and whose access it is
(10_memory.md R260, R272, 11_ordering.md R287, R288). -/
structure Msg where
  src : Nat
  line : Nat
  data : BitVec 1024
  mask : BitVec 128
  k : Nat
  k2 : Nat
  q : Master
  /-- the messages of one tile-record write bear one number and arrive together; 0 for others (06_square_tiles.md R142) -/
  rec_ : Nat := 0
  /-- words of 8 bytes of the line whose flits carry an uncorrectable error (16_recovery.md R438) -/
  bad : BitVec 16 := 0
  deriving DecidableEq, Repr

/-- A granule held by a synchronisation engine (11_ordering.md R296, R298). -/
structure Granule where
  val : Word64
  /-- latest epoch of a write of die 0, and of die 1, in its order (R287) -/
  clk0 : Nat
  clk1 : Nat
  used : Nat
  /-- its entry of the overflow area, where it does not stand in the SRAM -/
  area : Option Nat := none
  /-- tensor id and partition that its accesses have tagged it with (10_memory.md R260) -/
  tid : Nat := 0
  part : Nat := 0
  /-- a write off the strait has reached it, and its use is still to be noted (R298, R299) -/
  touched : Bool := false
  deriving DecidableEq, Repr

/-- A continuation record held on a counter (02_execution.md R50). -/
structure Held where
  ctr : Nat
  trec : QRec
  clu : Nat
  /-- virtual address of the counter, for a fault record -/
  va : Nat
  deriving DecidableEq, Repr

/-- What a waiting access to a counter does once its translation is there (02_execution.md R49, R50). -/
inductive CtrAct where
  | dec
  | hold (q : QRec)
  deriving DecidableEq, Repr

/-- A counter access of an ended task that waits on a translation fault (02_execution.md R49, 15_isolation.md R419). -/
structure CtrWait where
  m : Master
  clu : Nat
  va : Nat
  tok : Nat
  act : CtrAct
  deriving DecidableEq, Repr

/-- A slot-table entry of a promotion slot (10_memory.md R266); seq is the whole order number, of which the table shows the
low 16 bits. -/
structure SlotEnt where
  dirty : Bool
  pin : Bool
  seq : Nat
  hrow : Nat
  deriving DecidableEq, Repr

/-- A lane atomic that its lane does not wait for (12_memory_instr.md R318): l0 of the lane of a task in a slot receives the
old value (03_encoding.md R68). -/
structure SyncReq where
  warp : Nat
  lane : Nat
  task : Nat
  die : Nat
  addr : Nat
  op : AtomOp
  b : Word64
  c : Word64
  m : Master
  deriving DecidableEq, Repr

/-- A translation that a TLB of a die holds (15_isolation.md R416, R417, R421): pages of 2^bits bytes. -/
structure TlbEnt where
  die : Nat
  space : Nat
  vpage : Nat
  bits : Nat
  pbase : Nat
  rd : Bool
  wr : Bool
  ex : Bool
  deriving DecidableEq, Repr

/-- A pending walk (15_isolation.md R422). -/
structure Walk where
  space : Nat
  va : Nat
  m : Master
  kind : Nat
  deriving DecidableEq, Repr

/-- An outstanding translation fault (15_isolation.md R419); written is false while a full ring holds its record back. -/
structure PFault where
  tok : Nat
  part : Nat
  space : Nat
  va : Nat
  reason : Nat
  kind : Nat
  lid : Nat
  master : Nat
  written : Bool
  deriving DecidableEq, Repr

/-- A request at a memory channel (10_memory.md R272 to R274). -/
structure ChanReq where
  row : Nat
  bank : Nat
  cls : Nat
  slackNs : Nat
  id : Nat
  write : Bool
  /-- arrival and deadline cycles, once it has arrived -/
  arrived : Option (Nat × Nat)
  aged : Bool
  /-- accesses, and bank operations of 10_memory.md R271, that the channel has performed since its arrival
  (21_prog_segments.md R504) -/
  passed : Nat := 0
  bankOps : Nat := 0
  /-- launch whose access it is (13_scheduling.md R373) -/
  lid : Option Nat := none
  deriving DecidableEq, Repr

/-- A memory channel of a stack (10_memory.md R273 to R276). -/
structure Chan where
  reqs : List ChanReq := []
  /-- open row of each bank -/
  open_ : SMap Nat := []
  lastRow : SMap Nat := []
  /-- two-bit row-buffer counters, 1 where none is listed -/
  pred : SMap Nat := []
  /-- channel cycle of the latest arrival or service -/
  now : Nat := 0
  /-- channel cycle until which an operation of 10_memory.md R271 occupies a bank -/
  busy : SMap Nat := []
  deriving DecidableEq, Repr

/-- A channel after reset. -/
def Chan.dflt : Chan := {}

/-- A request at an arbiter (13_scheduling.md R375, R376). -/
structure ArbReq where
  clu : Nat
  bytes : Nat
  pa : Nat
  holdable : Bool
  req : ChanReq
  deriving DecidableEq, Repr

/-- A memory-side arbiter (13_scheduling.md R375, R376). -/
structure Arb where
  counts : SMap Nat := []
  arriving : List ArbReq := []
  held : List ArbReq := []
  deriving DecidableEq, Repr

/-- An arbiter after reset. -/
def Arb.dflt : Arb := {}

/-- A held B value whose parity fails from a row of the pass in progress on (08_bonds.md R207): the core that issued the
operation, the column, the K index and the row. -/
structure BadB where
  core : Nat
  col : Nat
  k : Nat
  row : Nat
  deriving DecidableEq, Repr

/-- An element whose operand-link flit arrives with an uncorrectable error (08_bonds.md R206): the core that issued the
operation, the operand, the element's row and column in it, and for an element of A the first bond column beyond the link. -/
structure BadLink where
  core : Nat
  isA : Bool
  row : Nat
  col : Nat
  hop : Nat
  deriving DecidableEq, Repr

/-- Bytes of a line that no system-scope release has shown, and what the host and fabric peers still see in their place
(11_ordering.md R308). -/
structure Unseen where
  line : Nat
  w : Wrote
  old : BitVec 1024
  deriving DecidableEq, Repr

/-- A place that holds, or a unit or transfer that gives, what cannot be corrected (16_recovery.md R438, R442), beyond the places of
which Mem keeps lists of their own. Words are of 8 bytes, by their address / 8. -/
inductive Upset where
  | l2 (die word : Nat)
  | l1 (core word : Nat)
  | sync (word : Nat)
  | tile (core t : Nat)
  | head (clu id lid : Nat)   -- a record in the on-chip head of a task queue
  | save (warp : Nat)         -- the save SRAM's copy of a slot off the board
  | lane (warp lane : Nat) (r : LRes)
  | uni (warp r : Nat)
  | xbar (die line : Nat)     -- the next transfer of a line to an agent of a die
  | port (node : Nat)         -- the next answer of a node
  | syncUnit (die : Nat)      -- a second mismatch at the next operation
  | gatherUnit (clu : Nat)
  | walker (die : Nat)
  | command (die : Nat)
  deriving DecidableEq, Repr

/-- The memory of the stacks and everything between it and the cores. -/
structure Mem where
  /-- bytes of the stacks by quarter-00 offset, in canonical form: 0 where none is listed (25_physical.md R526) -/
  bytes : List Host.Cell := []
  /-- lines by die × 2^41 + line number -/
  l2 : SMap L2Line := []
  strait : List Msg := []
  /-- E[0] and E[1] (11_ordering.md R287) -/
  e0 : Nat := 0
  e1 : Nat := 0
  granules : SMap Granule := []
  syncReqs : List SyncReq := []
  held : List Held := []
  ctrWaits : List CtrWait := []
  tickets : Nat := 0
  /-- epoch of each die after its latest device-scope fence.sc (R295) -/
  sc0 : Nat := 0
  sc1 : Nat := 0
  slots : SMap SlotEnt := []
  nextSeq : SMap Nat := []
  tlb : List TlbEnt := []
  /-- the 64-entry TLB of core c at c, the 128-entry TLBs of the copy engine of cluster g at 4096 + g and of the q0 load pipe
  of core c at 8192 + c (15_isolation.md R421) -/
  tlbs : SMap (List TlbEnt) := []
  walks0 : List Walk := []
  walks1 : List Walk := []
  chans : SMap Chan := []
  arbs : SMap Arb := []
  /-- place of each ferry: cluster next visited, by 128 × die + slice (10_memory.md R258) -/
  ferry : SMap Nat := []
  /-- place of each return token: slice next visited, by cluster (10_memory.md R259) -/
  token : SMap Nat := []
  /-- lines waiting for a ferry, and for a return token, by slice and cluster, oldest first: the launch of each -/
  toSlice : SMap (List (Option Nat)) := []
  toClu : SMap (List (Option Nat)) := []
  /-- memory sectors of 32 bytes that hold an uncorrectable error or poison (16_recovery.md R439), and half bytes of memory that took
  one from a record (06_square_tiles.md R131), by 2 × address, and 1 more for the high half -/
  bad : List Nat := []
  badHalf : List Nat := []
  /-- scratchpad units and accumulator words with an uncorrectable error, by core × 2^20 + index; half bytes of scratchpad that
  took one from a record, by core × 2^20 + 2^19 + index (06_square_tiles.md R131) -/
  badSpad : List Nat := []
  badAcc : List Nat := []
  badB : List BadB := []
  badLink : List BadLink := []
  upsets : List Upset := []
  /-- sectors that a write-back has stored poisoned, still to be logged (16_recovery.md R439, R441) -/
  poisons : List Nat := []
  /-- epoch of the latest write on its home die to a line that the home L2 has given up, by line (11_ordering.md R287) -/
  lineClk : SMap Nat := []
  /-- what the host and fabric peers do not see yet (11_ordering.md R308) -/
  unseen : List Unseen := []
  deriving DecidableEq, Repr

/-- An entry of a launch's group table (02_execution.md R51). -/
structure GroupDef where
  count : Nat
  place : Nat
  window : Nat
  deriving DecidableEq, Repr

/-- The arrival of a member at a reduction: its instance, counted from 0, task id, operation and value
(12_memory_instr.md R343). -/
structure RedArr where
  inst : Nat
  id : Nat
  op : GredOp
  val : Word64
  deriving DecidableEq, Repr

/-- State of a group of a running launch (02_execution.md R51 to R54). The count of a member's arrivals so far is the
instance of its next one, also for a continuation, which keeps the task id (R54, R343, R370). -/
structure GroupSt where
  created : Nat := 0
  /-- task ids of members that have ended -/
  ended : List Nat := []
  /-- barrier arrivals: instance number and task id -/
  arrived : List (Nat × Nat) := []
  values : List RedArr := []
  revoked : Bool := false
  deriving DecidableEq, Repr

/-- A group with no member created. -/
def GroupSt.dflt : GroupSt := {}

/-- The fault record of a launch (16_recovery.md R450). -/
structure FaultRec where
  code : Nat := 0
  trap : Nat := 0
  nest : Bool := false
  dep : Bool := false
  restore : Bool := false
  task : Nat := 0xFFFFFFFF
  pc : Word64 := 0
  lanes : Word := 0
  where_ : Nat := 0
  escr : Nat := 0
  addr : Nat := 0
  syn : Word64 := 0
  unit : Nat := 0
  tr : Nat := 0
  tc : Nat := 0
  deriving DecidableEq, Repr

/-- Where a launch stands (02_execution.md R61, 13_scheduling.md R374, 16_recovery.md R452 to R466). -/
inductive LaunchSt where
  | running
  | ended       -- every task has ended or was killed; the drain is not yet confirmed
  | halted      -- pre-empted, or left halted by a short save
  | saved       -- its context stands in a save area
  | rolledBack  -- waits for re-admission (R466)
  deriving DecidableEq, Repr

/-- A running launch (02_execution.md R60, 13_scheduling.md R346, R347). -/
structure Launch where
  lid : Nat
  die : Nat
  q : Nat
  entry : Addr
  part : Nat
  space : Nat
  recs : Nat := 0
  nrec : Nat := 0
  gtab : Nat := 0
  kernel : Nat := 0
  slack : Nat := 4096
  vec : Nat := 0
  castle : Nat := 256
  irq : Bool := false
  nrepl : Bool := false
  check : Bool := false
  noprog : Bool := false
  cores : Bool := false
  wins : List (Nat × Nat) := []
  groups : SMap GroupDef := []
  gst : SMap GroupSt := []
  nextId : Nat := 0
  st : LaunchSt := .running
  /-- first event that ended it -/
  fault : Option FaultRec := none
  replays : Nat := 0
  nrmark : Bool := false
  /-- task ids of initial tasks that have ended, and arrivals at lbar instances (R371) -/
  endedInit : List Nat := []
  lbarAt : List (Nat × Nat) := []
  /-- snapshots: page number, frame address and order number (R463) -/
  snaps : List (Nat × Nat × Nat) := []
  /-- pages written (R465) -/
  wrote : List Nat := []
  /-- launches it depends on (R465) -/
  deps : List Nat := []
  /-- die of the engine that holds its reductions (12_memory_instr.md R343) -/
  redDie : Nat := 0
  /-- its pages are still to be restored (R460, R466) -/
  roll : Bool := false
  /-- warp slots reserved for a co-resident launch (R351) -/
  slots : List Nat := []
  /-- those of them that are for members of bound groups -/
  boundSlots : List Nat := []
  /-- the cores decided for members of bound groups that wait for a carve-out change (R353) -/
  plan : List (Nat × Nat) := []
  /-- die whose command processor serves it (15_isolation.md R431) -/
  server : Nat := 0
  /-- the writes of LID, fault record and STATUS at its end wait on this translation fault -/
  tok : Option Nat := none
  failed : List (Nat × Nat) := []
  /-- order of admission -/
  order : Nat := 0
  /-- its initial records as they were dealt (R351, 15_isolation.md R431) -/
  init : List QRec := []
  deriving DecidableEq, Repr

/-- A launch not running. -/
def Launch.dflt : Launch := { lid := 0, die := 0, q := 0, entry := 0, part := 0, space := 0 }

/-- One task of a saved launch (16_recovery.md R458). -/
structure SavedTask where
  key : Nat
  warp : Warp
  deriving DecidableEq, Repr

/-- One core of a saved launch (16_recovery.md R458). -/
structure SavedCore where
  core : Nat
  ways : Nat
  tiles : SMap Tile
  grants : List Grant
  wins : List Win
  spad : List Host.Cell
  acc : SMap Word
  q0 : List EngOp
  deriving DecidableEq, Repr

/-- A saved launch: the context that the save area holds (16_recovery.md R457, R458). What the launch itself holds stays in
its entry of the launches. -/
structure Context where
  addr : Nat
  bytes : Nat
  /-- count of the step that wrote it: its bytes are free values of that count -/
  stamp : Nat
  lid : Nat
  tasks : List SavedTask
  cores : List SavedCore
  leases : List Lease
  queued : List QRec
  heldOn : List Held
  ctrWaits : List CtrWait
  /-- accumulator requests that its tasks wait for, oldest first (09_tensor_instr.md R235) -/
  areqs : List AReq := []
  deriving DecidableEq, Repr

/-- A command queue (13_scheduling.md R345, R349). -/
structure CmdQueue where
  /-- a change of TAIL has been told since the descriptor was found malformed, or its reading failed -/
  told : Bool := false
  /-- TAIL as the malformed, or unreadable, descriptor held it -/
  badTail : Option Nat := none
  frozen : Bool := false
  /-- it froze while an entry was being read at admission (15_isolation.md R415) -/
  reading : Bool := false
  /-- the entry at its head is to be refused with BADPTR (15_isolation.md R415) -/
  refuse : Bool := false
  tok : Option Nat := none
  failed : List (Nat × Nat) := []
  /-- a doorbell's TAIL that is still to be written into the descriptor -/
  bell : Option Nat := none
  /-- TAIL as it was last seen, and where the entries that it gives end: at most CAP after HEAD -/
  seen : Option Nat := none
  stop : Nat := 0
  deriving DecidableEq, Repr

/-- A command queue after reset. -/
def CmdQueue.dflt : CmdQueue := {}

/-- A command processor (13_scheduling.md R349, R352). -/
structure CmdProc where
  rot : Nat := 0
  /-- cluster that received the latest free initial record, plus one -/
  dealt : Nat := 0
  /-- next launch id number (02_execution.md R60) -/
  nextLid : Nat := 0
  deriving DecidableEq, Repr

/-- An operating-point change in progress, or a pending target (15_isolation.md R425). -/
structure Domain where
  point : Nat := 0
  target : Option Nat := none
  deriving DecidableEq, Repr

/-- A run of a reserved partition for the recall table (15_isolation.md R428): its die and key, the point its domain held
at the start and whether it still does, and the tasks completed. -/
structure RecallRun where
  /-- the launch at whose end it ends -/
  lid : Nat
  die : Nat
  kernel : Nat
  phase : Nat
  point : Nat
  steady : Bool
  done : Nat
  deriving DecidableEq, Repr

/-- Pre-emption, restore and kill in progress (16_recovery.md R452 to R460). -/
structure Sys where
  /-- launches that a running pre-emption names, and whether it has halted them -/
  preempt : Option (List Nat × Bool) := none
  /-- launches left halted by a short save -/
  short : List Nat := []
  shortFlag : Bool := false
  presz : Nat := 0
  /-- a restore that waits: address and partition -/
  restore : Option (Nat × Nat) := none
  restoreResult : Nat := 0
  /-- launches that a running KILLCTL waits for -/
  kill : Option (List Nat) := none
  /-- die of a gating change in progress: true is gating, false is waking -/
  gating : Option (Nat × Bool) := none
  gated0 : Bool := false
  gated1 : Bool := false
  /-- clusters whose regulator switch is in progress: cluster and new regulator (R424) -/
  switching : List (Nat × Nat) := []
  domains : SMap Domain := []
  /-- the run of each reserved partition, and the latest use of recall entries, by die × 4096 + index (R428) -/
  runs : SMap RecallRun := []
  /-- the phase marker that a cluster of each partition received last (R402, R428) -/
  markers : SMap Nat := []
  recallUse : SMap Nat := []
  /-- range-table words from before the writes that SYNC has not yet made sure of (15_isolation.md R409) -/
  rangeOld : SMap Word64 := []
  /-- clusters that a revocation announces for repair, until CMAP or CELLMASK has been written for them: their seam pairs are not usable
  (25_physical.md R531) -/
  underRepair : List Nat := []
  /-- leases that LEASEREV waits for, by die (R461) -/
  lrev : SMap Nat := []
  /-- invalidations that run, by die: the INV values written (R423) -/
  inv : SMap (List Nat) := []
  /-- drain checks that the idle trees run: die and launches named (13_scheduling.md R373) -/
  checks : List (Nat × List Nat) := []
  deriving DecidableEq, Repr

/-- The microcontroller, bring-up and the package (25_physical.md R524 to R531, 16_recovery.md R471). -/
structure Boot where
  powered : Bool := true
  stage : Nat := 1
  /-- bring-up stopped with this code -/
  stopped : Option Nat := none
  hostUp : Bool := false
  trip : Bool := false
  /-- bit d: die d failed at bring-up -/
  dieFail : Nat := 0
  /-- ports with light, known from stage 7 on -/
  ports : BitVec 64 := 0
  /-- hottest die sensor and hottest stack sensor of the latest pass of the loop -/
  tempDie : Nat := 0
  tempStack : Nat := 0
  /-- images in package flash, by kind, one not listed being the one it was made with; images that run -/
  flash : SMap (List Byte) := []
  inUse : SMap (List Byte) := []
  /-- public key of the attestation key that this bring-up made, if it could (15_isolation.md R435) -/
  attestKey : Option (List Byte) := none
  /-- image staged in the microcontroller's SRAM (16_recovery.md R471) -/
  sram : List Byte := []
  /-- bytes of an image that recovery has written so far, by kind and offset -/
  staged : SMap (SMap Byte) := []
  /-- command of the recovery mailbox in progress, 0 for none -/
  cmd : Nat := 0
  /-- functions whose report is being built (R436) -/
  reports : List Nat := []
  deriving DecidableEq, Repr

/-- What the package sends out: vectors raised on a function, and messages to a fabric node or the host. A message to a node
names its port, the partition, through whose function node 255 is reached, and the agent that wrote it (15_isolation.md R433).
Messages of one agent between two of its system-scope releases reach their node in any order; the list fixes their order only
across a release (11_ordering.md R308). -/
inductive Out where
  | vector (fn vec : Nat)
  | node (port part n off len val writer : Nat)
  | nodeRead (port part n off len reader : Nat)
  | nodeAtomic (port part n off : Nat) (op : AtomOp) (b c : Word64) (writer : Nat)
  | release (writer : Nat)
  | resp (fn addr val : Nat) (ok : Bool)
  | peer (port off val : Nat) (ok : Bool)
  deriving DecidableEq, Repr

/-- A checker mismatch that the next instruction or engine operation meets (16_recovery.md R442 to R445):
the lanes it hits, predicted and observed check values, and for an engine operation its place. -/
structure Glitch where
  lanes : Word
  pred : BitVec 16
  obs : BitVec 16
  /-- for an engine operation: its unit code and the result column -/
  unit : Nat := 0x10
  tc : Nat := 0
  deriving DecidableEq, Repr

/-- Who acts: the issuer of a word, or the agent of an event. Fields that an event does not use are 0. -/
structure Actor where
  warp : Nat := 0
  lanes : Word := 0
  strand : Bool := false
  /-- the second-placed group of an issue pair (13_scheduling.md R365) -/
  second : Bool := false
  /-- it issues in the core cycle in which the entry before it on the agenda issues, which may be of another core of its cluster
  (08_bonds.md R194, R195, 13_scheduling.md R372) -/
  together : Bool := false
  die : Nat := 0
  clu : Nat := 0
  core : Nat := 0
  q : Nat := 0
  idx : Nat := 0
  deriving DecidableEq, Repr

/-- One entry of the agenda: who moves, and which event it makes; none is the issue of the word at its PC. -/
structure Happening where
  who : Actor
  what : Option Instr
  deriving DecidableEq, Repr

/-- The machine. Clusters are numbered 64 × die + L, cores 16 × cluster + local index, slots 16 × core + slot. -/
structure State where
  warps : SMap Warp := []
  cores : SMap Core := []
  clusters : SMap Cluster := []
  mem : Mem := {}
  launches : SMap Launch := []
  contexts : List Context := []
  cmdQueues : SMap CmdQueue := []
  cp : SMap CmdProc := []
  faults : List PFault := []
  nextTok : Nat := 1
  /-- device registers by physical address, 8 bytes each; a register not listed holds its reset value (15_isolation.md R405) -/
  regs : SMap Word64 := []
  /-- device buffers read and written by byte, in canonical form: rings, mailboxes, chunks -/
  devBytes : List Host.Cell := []
  sys : Sys := {}
  boot : Boot := {}
  frozenFns : List Nat := []
  outs : List Out := []
  /-- order number of the next event that is ordered by time (02_execution.md R58) -/
  clock : Nat := 0
  cur : Actor := {}
  agenda : List Happening := []
  tick : Nat := 0
  glitch : Option Glitch := none
  /-- dies on which an error has been corrected that CECNT does not count yet (16_recovery.md R438, R440) -/
  corrected : List Nat := []
  deriving DecidableEq, Repr

/-- The machine right after reset: bring-up stands at its first stage (25_physical.md R526), every register holds its
reset value, and nothing is resident, queued, cached or in flight. -/
def State.reset : State := {}

end Sys2Proof.Machine
end

