-- ==== Sys2Proof/Machine/Ops.lean ====
section
/-! DEFINITION. The named operations over the state: maps, slots, lanes, masks, device registers, the error log,
the end of a launch, taking an exception and returning from one. -/

namespace Sys2Proof.Machine

/-- What a meaning answers with. -/
abbrev Answer := Host.Outcome State Fault Refusal

/-! ## Maps -/

/-- Change every value of a map. -/
def mapVals {α : Type} (f : Nat → α → α) (m : SMap α) : SMap α := m.map (fun p => (p.1, f p.1 p.2))

/-- Keep the entries that pass a test. -/
def keepVals {α : Type} (f : Nat → α → Bool) (m : SMap α) : SMap α := m.filter (fun p => f p.1 p.2)

/-- The smallest number below n that passes a test. -/
def firstBelow (n : Nat) (f : Nat → Bool) : Option Nat := (List.range n).find? f

/-- Replace the item at a place of a list. -/
def setAt {α : Type} (l : List α) (k : Nat) (v : α) : List α := l.set k v

/-! ## Bytes in canonical form -/

/-- The byte at an address: 0 where none is listed (25_physical.md R526). -/
def cellGet : List Host.Cell → Nat → Byte
  | [], _ => 0
  | (k, v) :: r, a => if k = a then v else cellGet r a

/-- Write a byte, keeping addresses strictly rising and no 0 listed. -/
def cellSet : List Host.Cell → Nat → Byte → List Host.Cell
  | [], a, v => if v = 0 then [] else [(a, v)]
  | (k, w) :: r, a, v =>
    if a < k then (if v = 0 then (k, w) :: r else (a, v) :: (k, w) :: r)
    else if a = k then (if v = 0 then r else (a, v) :: r)
    else (k, w) :: cellSet r a v

/-- Every listed address is above a bound. -/
def cellsAbove (b : Nat) (m : List Host.Cell) : Bool := m.all (fun p => decide (b < p.1))

/-- The canonical form: addresses strictly rising and no entry 0. -/
def cellsWf : List Host.Cell → Bool
  | [] => true
  | (k, v) :: r => !decide (v = 0) && cellsAbove k r && cellsWf r

/-- The memory of the stacks is in canonical form. -/
abbrev Memory.wf (m : List Host.Cell) : Prop := cellsWf m = true

/-- Write bytes at rising addresses: a scratchpad, or the byte-addressed buffers of the device. -/
def putBytes (m : List Host.Cell) (a : Nat) : List Byte → List Host.Cell
  | [] => m
  | b :: r => putBytes (cellSet m a b) (a + 1) r

/-- Read bytes at rising addresses. -/
def getBytes (m : List Host.Cell) (a : Nat) : Nat → List Byte
  | 0 => []
  | n + 1 => cellGet m a :: getBytes m (a + 1) n

/-! ## Slots, lanes, cores -/

def State.warp (s : State) (w : Nat) : Warp := s.warps.get Warp.dflt w

def State.setWarp (s : State) (w : Nat) (v : Warp) : State := { s with warps := s.warps.set w v }

def State.updWarp (s : State) (w : Nat) (f : Warp → Warp) : State := s.setWarp w (f (s.warp w))

def State.core (s : State) (c : Nat) : Core := s.cores.get Core.dflt c

def State.setCore (s : State) (c : Nat) (v : Core) : State := { s with cores := s.cores.set c v }

def State.updCore (s : State) (c : Nat) (f : Core → Core) : State := s.setCore c (f (s.core c))

def State.cluster (s : State) (g : Nat) : Cluster := s.clusters.get Cluster.dflt g

def State.updCluster (s : State) (g : Nat) (f : Cluster → Cluster) : State :=
  { s with clusters := s.clusters.set g (f (s.cluster g)) }

def State.launch? (s : State) (lid : Nat) : Option Launch := s.launches.find? lid

def State.launch (s : State) (lid : Nat) : Launch := s.launches.get Launch.dflt lid

def State.updLaunch (s : State) (lid : Nat) (f : Launch → Launch) : State :=
  match s.launches.find? lid with
  | some l => { s with launches := s.launches.set lid (f l) }
  | none => s

def State.updMem (s : State) (f : Mem → Mem) : State := { s with mem := f s.mem }

/-- Core of a warp slot (02_execution.md R55). -/
def coreOf (w : Nat) : Nat := w / 16

/-- Cluster number of a core: 64 × die + L (15_isolation.md R414). -/
def cluOf (c : Nat) : Nat := c / 16

/-- Die of a cluster. -/
def dieOf (g : Nat) : Nat := g / 64

/-- Cluster of a warp slot. -/
def warpClu (w : Nat) : Nat := cluOf (coreOf w)

/-- Die of a warp slot. -/
def warpDie (w : Nat) : Nat := dieOf (warpClu w)

def Warp.lane (w : Warp) (i : Nat) : Lane := w.lanes.get Lane.dflt i

def Warp.setLane (w : Warp) (i : Nat) (l : Lane) : Warp := { w with lanes := w.lanes.set i l }

def Warp.updLane (w : Warp) (i : Nat) (f : Lane → Lane) : Warp := w.setLane i (f (w.lane i))

/-- Change each lane of a list. -/
def Warp.updLanes (w : Warp) (is : List Nat) (f : Nat → Lane → Lane) : Warp :=
  is.foldl (fun w i => w.updLane i (f i)) w

/-- mk0: the live lanes (02_execution.md R33). -/
def Warp.live (w : Warp) : Word := maskOf (fun i => decide ((w.lane i).st = .live))

/-- The vacant lanes (02_execution.md R33). -/
def Warp.vacant (w : Warp) : Word := maskOf (fun i => decide ((w.lane i).st = .vacant))

/-- A whole mask register: mk0 is the live lanes (02_execution.md R33). -/
def Warp.mask (w : Warp) (k : Nat) : Word := if k = 0 then w.live else w.mks.get 0 k

/-- A mask as a group of an issue pair reads it: before either group writes (14_control_instr.md R389). -/
def Warp.maskSeen (w : Warp) (second : Bool) (k : Nat) : Word :=
  match second, w.pairSeen with
  | true, some old => old.mks.get 0 k
  | _, _ => w.mask k

/-- chk, stk and sys.tvec as a group of an issue pair reads them: before either group writes (07_lane_arith.md R146). -/
def Warp.seenChk (w : Warp) (second : Bool) : Bool :=
  match second, w.pairSeen with
  | true, some p => p.chk
  | _, _ => w.chk

def Warp.seenStk (w : Warp) (second : Bool) : Word :=
  match second, w.pairSeen with
  | true, some p => p.stk
  | _, _ => w.stk

def Warp.seenTvec (w : Warp) (second : Bool) : Word64 :=
  match second, w.pairSeen with
  | true, some p => p.tvec
  | _, _ => w.tvec

def Warp.setMaskBit (w : Warp) (k i : Nat) (b : Bool) : Warp :=
  { w with mks := w.mks.set k (setBit (w.mks.get 0 k) i b) }

/-- An s-register (03_encoding.md R69). -/
def Warp.sreg (w : Warp) (r : Nat) : Word64 := w.s.get 0 r

def Warp.setSreg (w : Warp) (r : Nat) (v : Word64) : Warp := { w with s := w.s.set r v }

/-- A slot holds a task (02_execution.md R56). -/
def Warp.resident (w : Warp) : Bool := !decide (w.slot = .free)

/-- The group that a slot of the task record names (02_execution.md R41). -/
def TaskRec.group? (r : TaskRec) (k : Nat) : Option Nat :=
  let g := r.groups.getD k 0
  if bitAt g 15 then some (field g 7 0) else none

/-- Definition of a group of a launch: COUNT 0 for an unused entry (02_execution.md R51). -/
def Launch.group (l : Launch) (g : Nat) : GroupDef := l.groups.get ⟨0, 0, 0⟩ g

def Launch.gstate (l : Launch) (g : Nat) : GroupSt := l.gst.get GroupSt.dflt g

def Launch.updGroup (l : Launch) (g : Nat) (f : GroupSt → GroupSt) : Launch :=
  { l with gst := l.gst.set g (f (l.gstate g)) }

/-- A group that is core-bound or cluster-bound (02_execution.md R51, R52). -/
def GroupDef.bound (g : GroupDef) : Bool := decide (g.place = 1) || decide (g.place = 2)

/-- Slots of a core that hold a task. -/
def State.residents (s : State) (c : Nat) : List Nat :=
  ((List.range 16).map (fun k => 16 * c + k)).filter (fun w => (s.warp w).resident)

/-- The state as it stands, for an issuer that is not the second of a pair. -/
def State.alone (s : State) : State := { s with cur := { s.cur with second := false } }

/-! ## Device registers -/

/-- Die block (15_isolation.md R405). -/
def dieBlk (d off : Nat) : Nat := 0x800000000000 + d * 0x08000000 + off

/-- Arbiter block (15_isolation.md R405). -/
def arbBlk (a off : Nat) : Nat := 0x800040000000 + a * 0x00100000 + off

/-- Package block (15_isolation.md R405). -/
def pkgBlk (off : Nat) : Nat := 0x800080000000 + off

/-- Base-die block (10_memory.md R267). -/
def baseBlk (k off : Nat) : Nat := 0x800100000000 + k * 0x10000000 + off

/-- Reset value of a device register (15_isolation.md R407, R424, 16_recovery.md R469 and the other register tables;
where no rule gives one, 0: DESIGN CHOICE, log entry 3). -/
def regReset (a : Nat) : Word64 :=
  if dieBlk 0 0 ≤ a ∧ a < dieBlk 0 0x200 then BitVec.ofNat 64 ((a - dieBlk 0 0) / 8)
  else if dieBlk 1 0 ≤ a ∧ a < dieBlk 1 0x200 then BitVec.ofNat 64 ((a - dieBlk 1 0) / 8)
  else if (dieBlk 0 0x8000 ≤ a ∧ a < dieBlk 0 (0x8000 + 8 * 68 * 16)) ∨
          (dieBlk 1 0x8000 ≤ a ∧ a < dieBlk 1 (0x8000 + 8 * 68 * 16)) then 8
  else if pkgBlk 0x1000 ≤ a ∧ a < pkgBlk 0x1400 then BitVec.ofNat 64 ((a - pkgBlk 0x1000) / 8 % 4)
  else 0

/-- The stored value of a device register. -/
def State.reg (s : State) (a : Nat) : Word64 := s.regs.get (regReset a) a

def State.setReg (s : State) (a : Nat) (v : Word64) : State := { s with regs := s.regs.set a v }


/-- Raise a vector of a function on the host link (15_isolation.md R432). -/
def State.raise (s : State) (fn vec : Nat) : State := { s with outs := s.outs ++ [.vector fn vec] }

/-- An ignored register write of a die block sets ERR in the DSTAT of that die (16_recovery.md R440). -/
def State.setErr (s : State) (d : Nat) : State :=
  let a := dieBlk d 0x4000
  s.setReg a (setBit (s.reg a) 63 true)

/-- A die that is gating, gated or waking (15_isolation.md R429). -/
def Sys.off (y : Sys) (d : Nat) : Bool :=
  (if d = 0 then y.gated0 else y.gated1) ||
  (match y.gating with
   | some (e, _) => decide (e = d)
   | none => false)

/-- An ignored register write of the package block sets ERR in die 0's DSTAT, or in die 1's while die 0 is off
(16_recovery.md R440). -/
def State.setPkgErr (s : State) : State := s.setErr (if s.sys.off 0 then 1 else 0)

/-- A write to a register is ignored until READY (25_physical.md R530). -/
def State.whenReady (s t : State) : State := if s.boot.stage = 8 then t else s

/-- The same for a register of the block of a die, which a die without power ignores too (15_isolation.md R430). -/
def State.dieReady (s : State) (d : Nat) (t : State) : State := if s.boot.stage = 8 ∧ s.sys.off d = false then t else s

/-! ## The error log (16_recovery.md R440, R441) -/

/-- A record of the error log. -/
structure ErrRec where
  addr : Nat := 0
  lid : Nat := 0xFFFFFFFF
  kind : Nat
  what : Nat
  where_ : Nat
  opnd : Nat := 0xFF
  row : Nat := 0xFFFFFFFF
  col : Nat := 0xFFFFFFFF
  deriving DecidableEq, Repr

def ErrRec.bytes (r : ErrRec) : List Byte :=
  bytesOf 8 r.addr ++ bytesOf 4 r.lid ++ bytesOf 1 r.kind ++ bytesOf 1 r.what ++ bytesOf 2 r.where_ ++
  bytesOf 1 r.opnd ++ bytesOf 3 0 ++ bytesOf 4 r.row ++ bytesOf 4 r.col ++ bytesOf 4 0

/-- Write a record into the error log and raise vector 2 of physical function 0; a record that overwrites one not
read sets LOGOVF (16_recovery.md R441). -/
def State.logErr (s : State) (r : ErrRec) : State :=
  let h := (s.reg (pkgBlk 0x52000)).toNat
  let rd := (s.reg (pkgBlk 0x52008)).toNat
  let d := r.where_ / 1024 % 2
  let s1 := { s with devBytes := putBytes s.devBytes (pkgBlk 0x50000 + 32 * (h % 256)) r.bytes }
  let s2 := s1.setReg (pkgBlk 0x52000) (BitVec.ofNat 64 ((h + 1) % 2 ^ 32))
  let s3 := if (h + 2 ^ 32 - rd % 2 ^ 32) % 2 ^ 32 ≥ 256 then
      s2.setReg (dieBlk d 0x4000) (setBit (s2.reg (dieBlk d 0x4000)) 62 true) else s2
  s3.raise 0 2

/-- Count an uncorrectable error of a die, saturating (16_recovery.md R440). -/
def State.countUe (s : State) (d : Nat) : State :=
  let a := dieBlk d 0x4000
  let v := s.reg a
  let c := field v 55 40
  let c' := if c < 0xFFFF then c + 1 else c
  s.setReg a (BitVec.ofNat 64 (v.toNat - c * 2 ^ 40 + c' * 2 ^ 40))

/-- Count a corrected error of a die, saturating (16_recovery.md R440). -/
def State.countCe (s : State) (d : Nat) : State :=
  let a := dieBlk (d % 2) 0x4000
  let v := s.reg a
  let c := field v 31 0
  s.setReg a (BitVec.ofNat 64 (v.toNat - c + min (c + 1) 0xFFFFFFFF))

/-- The errors that have been corrected are counted; a corrected error has no other effect (16_recovery.md R438; log entry 5). -/
def State.countCorrected (s : State) : State := { s.corrected.foldl State.countCe s with corrected := [] }

/-! ## The end of a launch -/

/-- A holder belongs to a launch. -/
def State.ownedBy (s : State) (lid : Nat) : Holder → Bool
  | .task w => decide ((s.warp w).lid = lid)
  | .group l _ => decide (l = lid)

/-- The revocations that still wait for one of their leases once some leases are gone (16_recovery.md R461). -/
def State.revoking (s : State) (gone : Lease → Bool) : SMap Nat :=
  keepVals (fun _ c => !s.clusters.any (fun p => p.2.leases.any (fun l => gone l && l.cores.contains c))) s.sys.lrev

/-- Strands that wait for a queue, an unbond or an afree look again. -/
def State.wakeStrands (s : State) : State :=
  { s with warps := mapVals (fun _ v =>
      match v.swait with
      | .queues _ _ | .qfull _ | .unbond _ | .afree _ => { v with swait := .none }
      | _ => v) s.warps }

/-- Another launch than a given one, or a command queue, waits on a translation fault too (15_isolation.md R422). -/
def State.waitedElse (s : State) (lid tok : Nat) : Bool :=
  let op (o : EngOp) : Bool := decide (o.tok = some tok) && !decide (o.lid = lid)
  s.warps.any (fun p => !decide (p.2.lid = lid) && (decide (p.2.swait = .fault tok) ||
    p.2.lanes.any (fun q => decide (q.2.wait = .fault tok)) || p.2.queues.any (fun q => q.2.any op))) ||
  s.cores.any (fun p => p.2.q0.any op) || s.clusters.any (fun p => p.2.leases.any (fun l => l.q0.any op)) ||
  s.cmdQueues.any (fun p => decide (p.2.tok = some tok)) ||
  s.launches.any (fun p => decide (p.2.tok = some tok) && !decide (p.1 = lid)) ||
  s.mem.ctrWaits.any (fun x => decide (x.tok = tok) && !decide (x.m.lid = some lid))

/-- Discard all that a launch holds: its tasks, records, engine operations, tiles, grants, windows and leases
(16_recovery.md R453, R460, R466 step 2); strands of others that waited for room in a queue look again. A carve-out request whose waiting
record is discarded is withdrawn with it: DESIGN CHOICE, the manual does not say (10_memory.md R252; log entry 133). -/
def State.discard (s : State) (lid : Nat) : State :=
  let cores := mapVals (fun _ c =>
    { c with tiles := keepVals (fun _ t => !s.ownedBy lid t.owner) c.tiles,
             grants := c.grants.filter (fun g => !s.ownedBy lid g.holder),
             wins := c.wins.filter (fun v => !decide (v.lid = lid)),
             q0 := c.q0.filter (fun o => !decide (o.lid = lid)),
             carves := (c.carves.filter (fun r =>
               match r.trec with
               | some q => !decide (q.lid = lid)
               | none => true)).map (fun r =>
                 { r with residents := r.residents.filter (fun w => !decide ((s.warp w).lid = lid)) }) }) s.cores
  let clusters := mapVals (fun _ g =>
    { g with queue := g.queue.filter (fun r => !decide (r.lid = lid)),
             areqs := g.areqs.filter (fun r => !s.ownedBy lid r.holder),
             leases := g.leases.filter (fun l => !decide (l.lid = lid)) }) s.clusters
  { s with
    cores := cores
    clusters := clusters
    mem := { s.mem with held := s.mem.held.filter (fun h => !decide (h.trec.lid = lid)),
                        ctrWaits := s.mem.ctrWaits.filter (fun x => !decide (x.m.lid = some lid)) }
    faults := s.faults.filter (fun f => !decide (f.lid = lid) || s.waitedElse lid f.tok)
    sys := { s.sys with lrev := s.revoking (fun l => decide (l.lid = lid)) }
    warps := mapVals (fun _ v => if v.resident && decide (v.lid = lid) then Warp.dflt else v) s.warps : State }.wakeStrands

/-- End a running launch: its first ending event is kept, and everything it holds is discarded
(13_scheduling.md R348, 16_recovery.md R449, R450). STATUS is written when its drain is confirmed (R374). -/
def State.endLaunch (s : State) (lid : Nat) (f : FaultRec) : State :=
  match s.launch? lid with
  | none => s
  | some l =>
    if l.st = .ended then s
    else (s.updLaunch lid (fun l => { l with st := .ended, fault := some f })).discard lid

/-! ## Taking an exception and returning from one -/

/-- A trap of one lane: code, argument and resume address, and for trap 0x10 the syndrome (16_recovery.md R446). -/
structure TrapIn where
  lane : Nat
  code : Nat
  arg : Nat := 0
  pc : Addr
  syn : Word64 := 0
  unit : Nat := 0
  tr : Nat := 0
  tc : Nat := 0
  deriving DecidableEq, Repr

/-- The set of the lanes that trap together. -/
def trapMask (ts : List TrapIn) : Word := ts.foldl (fun m t => setBit m t.lane true) 0

/-- A lane enters the handler (16_recovery.md R445, R447, 17_system_instr.md R479). -/
def Lane.enter (l : Lane) (t : TrapIn) (mask : Word) (tvec : Word64) : Lane :=
  let l1 := { l with trapCode := BitVec.ofNat 32 (t.code + 256 * t.arg), trapPc := t.pc.setWidth 64,
                     trapMask := mask, inH := true, pc := tvec.setWidth 56, wait := .none, failed := [] }
  if t.code = 0x10 then
    { l1 with errSyn := t.syn, errUnit := BitVec.ofNat 32 t.unit, errTr := BitVec.ofNat 32 t.tr,
              errTc := BitVec.ofNat 32 t.tc }
  else l1

/-- The trap that ends the launch, if any: no handler, or a lane already in the handler (16_recovery.md R449). -/
def fatalTrap (w : Warp) (ts : List TrapIn) : Option (TrapIn × Bool) :=
  match ts.find? (fun t => (w.lane t.lane).inH) with
  | some t => some (t, true)
  | none => if w.tvec = 0 then ts.head?.map (fun t => (t, false)) else none

/-- Every live lane of the warp is at a barrier, a tile or a join, and some lane at a tile that is not ready
(02_execution.md R57). -/
def Warp.lanesLong (w : Warp) : Bool :=
  let ls := lanesOf w.live
  ls.any (fun i => match (w.lane i).wait with
    | .tile _ => true
    | _ => false) && ls.all (fun i => !decide ((w.lane i).wait = .none))

/-- The warp waits in one of the ways of 02_execution.md R57: at a group's barrier or reduction, for accumulator memory, or
with its lanes. The launch barrier counts as a group's. -/
def Warp.waitsLong (w : Warp) : Bool :=
  match w.swait with
  | .gbar _ | .lbar | .gred _ _ | .aalloc _ => true
  | _ => w.lanesLong

/-- A stall clears (02_execution.md R56, R59). -/
def Warp.clearStall (w : Warp) (clock : Nat) : Warp :=
  if w.waitsLong then w
  else
    match w.slot with
    | .boardStalled => { w with slot := .board }
    | .reserveWaiting => { w with slot := .reserveReady, since := clock }
    | _ => w

/-- Deliver traps that lanes of one group, or a strand for every live lane, raise together (16_recovery.md R445 to
R450). The lanes enter the handler at sys.tvec, or the launch ends with TRAP. -/
def State.takeTraps (s : State) (w : Nat) (ts : List TrapIn) : State :=
  match ts with
  | [] => s
  | _ =>
    let wp := s.warp w
    let mask := trapMask ts
    let s1 := match ts.find? (fun t => decide (t.code = 0x10)) with
      | some t =>
        s.logErr { lid := wp.lid, kind := 4, what := 8, where_ := coreOf w,
                   row := if t.unit / 16 = 1 then t.tr else 0xFFFFFFFF,
                   col := if t.unit / 16 = 1 then t.tc else 0xFFFFFFFF }
      | none => s
    match fatalTrap wp ts with
    | some (t, nest) =>
      s1.endLaunch wp.lid
        { code := 0x09, trap := t.code, nest := nest, task := wp.taskId, pc := t.pc.setWidth 64, lanes := mask,
          where_ := coreOf w, syn := t.syn, unit := t.unit, tr := t.tr, tc := t.tc }
    | none =>
      let wp1 := ts.foldl (fun v t => v.updLane t.lane (fun l => l.enter t mask wp.tvec)) wp
      let all := decide (mask = wp.live)
      s1.setWarp w (({ wp1 with converged := wp.converged && all,
                                spc := if wp.converged && all then wp.tvec.setWidth 56 else wp.spc,
                                swait := .none, sfailed := [], dq := [], waitOn := none }).clearStall s.clock)

/-- A trap raised by the strand: every live lane enters, with trap.pc at the given address (16_recovery.md R447). -/
def State.strandTrap (s : State) (w : Nat) (code : Nat) (pc : Addr) : State :=
  s.takeTraps w ((lanesOf (s.warp w).live).map (fun i => { lane := i, code := code, pc := pc }))

/-- A lane leaves the handler (17_system_instr.md R485). -/
def Lane.leave (l : Lane) : Lane := { l with inH := false, pc := l.trapPc.setWidth 56 }

/-- After lanes of a converged warp have moved: one common PC keeps it converged, else it diverges
(02_execution.md R36, 14_control_instr.md R379). -/
def Warp.settle (w : Warp) : Warp :=
  if w.converged then
    match lanesOf w.live with
    | [] => w
    | i :: r =>
      let p := (w.lane i).pc
      if r.all (fun j => decide ((w.lane j).pc = p)) then { w with spc := p, dq := if p = w.spc then w.dq else [] }
      else { w with converged := false, dq := [] }
  else w

/-- Every live lane continues at the strand's PC (14_control_instr.md R384). -/
def Warp.follow (w : Warp) (p : Addr) : Warp :=
  { w.updLanes (lanesOf w.live) (fun _ l => { l with pc := p }) with spc := p, dq := [] }

/-- Every live lane goes past the instruction at which its warp waited (13_scheduling.md R370 to R372). -/
def Warp.goPast (w : Warp) : Warp := { w.follow (w.spc + 4) with swait := .none, sfailed := [] }

end Sys2Proof.Machine
end

