-- ==== Sys2Proof/Machine/Flags.lean ====
section
/-! DEFINITION. The sticky flags of stk (17_system_instr.md R478) and how they are set. -/

namespace Sys2Proof.Machine

/-- Bit values of the sticky flags (17_system_instr.md R478). -/
def fNX : Nat := 1
def fUF : Nat := 2
def fOF : Nat := 4
def fDZ : Nat := 8
def fNV : Nat := 16
def fACCOV : Nat := 32
def fMNAN : Nat := 64
def fQSAT : Nat := 128
def fOPZ : Nat := 256
def fPOVR : Nat := 512
def fPREF : Nat := 1024

/-- Set flags: they are ORed in, and stay until a wrsr clears them (17_system_instr.md R478, 05_formats.md R118). -/
def Warp.setFlags (w : Warp) (f : Nat) : Warp := { w with stk := w.stk ||| BitVec.ofNat 32 f }

/-- All flags that a list of results raises. -/
def orFlags (l : List Nat) : Nat := l.foldl (fun a b => a ||| b) 0

/-- A result and the flags it raises. -/
structure Flagged (α : Type) where
  val : α
  flags : Nat
  deriving DecidableEq, Repr

end Sys2Proof.Machine
end

