-- ==== Sys2Proof/Machine/Operands.lean ====
section
/-! DEFINITION. Operand forms, the gap rules, and the one way in which a lane group or a strand executes an
instruction: read everything, then write (03_encoding.md R67 to R76, 07_lane_arith.md R145, R146). -/

namespace Sys2Proof.Machine

/-! ## Results that are not yet available -/

/-- The entry of a resource whose result is not yet available. -/
def pendOf (ps : List Pend) (r : LRes) : Option Pend := ps.find? (fun p => decide (p.res = r) && decide (0 < p.left))

/-- The cycles that an instruction with stall n adds to every gap (03_encoding.md R74). -/
def agePends (n : Nat) (ps : List Pend) : List Pend :=
  (ps.map (fun p => { p with left := p.left - (1 + n) })).filter (fun p => decide (0 < p.left))

/-- Enter the result of a producer of latency lat with stall n (03_encoding.md R72, R74). -/
def addPend (r : LRes) (old : Word) (lat n : Nat) (ps : List Pend) : List Pend :=
  let q := ps.filter (fun p => !decide (p.res = r))
  if lat > 1 + n then { res := r, old := old, left := lat - (1 + n) } :: q else q

/-- A new value of an o-register parts it from the one above it, which one producer may have written with it. -/
def partPends (k : Nat) (ps : List Pend) : List Pend :=
  ps.map (fun p => if p.res = .o (k + 1) then { p with pair := false } else p)

/-- The two halves of the sum of an addw are one result (07_lane_arith.md R153). -/
def joinPends (k : Nat) (ps : List Pend) : List Pend :=
  ps.map (fun p => if p.res = .o (k + 1) then { p with pair := true } else p)

/-- A value within its gap: with checking off, the value before or the result (03_encoding.md R75). -/
def gapPick (tick k i : Nat) (ps : List Pend) (r : LRes) (now : Word) : Word :=
  match pendOf ps r with
  | none => now
  | some p => if Config.freeBool (1024 * tick + 32 * k + i) then p.old else now

/-! ## What a lane sees -/

/-- What one lane reads from: its warp before the instruction, its number, and the counter of free choices. -/
structure View where
  w : Warp
  i : Nat
  tick : Nat
  second : Bool

def View.ln (v : View) : Lane := v.w.lane v.i

/-- A source operand, the k-th of its instruction (03_encoding.md R67). -/
def View.src (v : View) (k : Nat) : Src → Word
  | .o n => gapPick v.tick k v.i v.ln.pend (.o n.toNat) (v.ln.o.get 0 n.toNat)
  | .l0 => gapPick v.tick k v.i v.ln.pend .l0 v.ln.l0
  | .l1 => gapPick v.tick k v.i v.ln.pend .l1 v.ln.l1
  | .zero => 0
  | .lane => BitVec.ofNat 32 v.i
  | .x n => gapPick v.tick k v.i v.ln.pend (.x n.toNat) (v.ln.x.get 0 n.toNat)
  | .u n => (v.w.sreg (56 + n.toNat)).setWidth 32

/-- An o-register as a source operand. -/
def View.oreg (v : View) (k n : Nat) : Word := gapPick v.tick k v.i v.ln.pend (.o n) (v.ln.o.get 0 n)

/-- The k-th of the o-registers from n on as a part of the operands from number j on. Two that one producer wrote are both old
or both new (03_encoding.md R75). -/
def View.part (v : View) (j n k : Nat) : Word :=
  let one := match pendOf v.ln.pend (.o (n + k)) with
    | some p => p.pair && !decide (k = 0)
    | none => false
  v.oreg (if one then j + k - 1 else j + k) (n + k)

/-- The register pair of an even o-register, or 0 for code 18 (07_lane_arith.md R153, 12_memory_instr.md R316). -/
def View.pair (v : View) (k : Nat) : Src → Word64
  | .o n => v.part k n.toNat 1 ++ v.part k n.toNat 0
  | _ => 0

/-- A main register, or the 32-bit entry that it holds while it is locked (02_execution.md R32). -/
def Lane.mainVal (l : Lane) (n : Nat) : Word :=
  if 120 ≤ n ∧ 128 - n ≤ l.spill.length then
    ((l.spill.getD (l.spill.length - (128 - n)) 0).setWidth 32) else l.m.get 0 n

/-- A main register that holds a spilled return entry (02_execution.md R32). -/
def Lane.locked (l : Lane) (n : Nat) : Bool := decide (120 ≤ n) && decide (128 - n ≤ l.spill.length)

/-- A main register as an operand. -/
def View.main (v : View) (k n : Nat) : Word := gapPick v.tick k v.i v.ln.pend (.m n) (v.ln.mainVal n)

/-- A whole mask as the lane reads it: within its gap, the mask before its producer or the mask that the producer left
(03_encoding.md R74, R75). -/
def View.mask (v : View) (k m : Nat) : Word := gapPick v.tick k v.i v.ln.pend (.mk m) (v.w.maskSeen v.second m)

/-- The lane's own bit of a mask operand. -/
def View.maskBit (v : View) (k m : Nat) : Bool := bitAt (v.mask k m) v.i

/-- The resources that a source operand reads (03_encoding.md R74). -/
def srcRes : Src → List LRes
  | .o n => [.o n.toNat]
  | .l0 => [.l0]
  | .l1 => [.l1]
  | .x n => [.x n.toNat]
  | _ => []

/-- The resources of a register pair. -/
def pairRes : Src → List LRes
  | .o n => [.o n.toNat, .o (n.toNat + 1)]
  | _ => []

/-! ## What a lane writes -/

/-- The result of an instruction in one lane: a trap, or its writes. d is a result marked "o" in the opcode map
(03_encoding.md R68, R79). -/
structure LaneRes where
  trap : Option Nat := none
  arg : Nat := 0
  d : Option (Dst × Word) := none
  wr : List (LRes × Word) := []
  mkb : List (Nat × Bool) := []
  flags : Nat := 0
  /-- next PC where it is not the following instruction (14_control_instr.md R378) -/
  go : Option Addr := none
  /-- return stack and spilled entries after a call or ret (02_execution.md R31, R32) -/
  calls : Option (List Addr × List Addr) := none
  /-- the lane stays at the instruction and waits -/
  hold : Option LaneWait := none
  /-- the lane leaves the live state (02_execution.md R33) -/
  ends : Option LaneSt := none
  /-- the lane leaves the handler (17_system_instr.md R485) -/
  leaves : Bool := false
  /-- the half latch that a read of a 64-bit special register sets (17_system_instr.md R475) -/
  latch : Option Word := none
  /-- d and the o-register above it are the two halves of one result (07_lane_arith.md R153) -/
  wide : Bool := false
  deriving DecidableEq, Repr

/-- A result in an o-register. -/
def LaneRes.val (d : Dst) (v : Word) : LaneRes := { d := some (d, v) }

/-- A result with flags. -/
def LaneRes.flagged (d : Dst) (v : Flagged Word) : LaneRes := { d := some (d, v.val), flags := v.flags }

/-- A trap. -/
def LaneRes.trapped (code : Nat) : LaneRes := { trap := some code }

/-- Write one resource of a lane with latency lat and stall n. -/
def Lane.put (l : Lane) (lat n : Nat) (r : LRes) (v : Word) : Lane :=
  match r with
  | .o k => { l with o := l.o.set k v, pend := addPend r (l.o.get 0 k) lat n (partPends k l.pend) }
  | .m k => { l with m := l.m.set k v, pend := addPend r (l.mainVal k) lat n l.pend }
  | .x k => { l with x := l.x.set k v, pend := addPend r (l.x.get 0 k) lat n l.pend }
  | .mk _ => l
  | .l0 => { l with l0 := v }
  | .l1 => { l with l1 := v }

/-- Advance the result history: l1 := l0, l0 := the value written to d (03_encoding.md R68). -/
def Lane.history (l : Lane) (lat n : Nat) (v : Word) : Lane :=
  let p1 := l.pend.filter (fun p => !decide (p.res = .l1))
  let p2 := p1.map (fun p => if p.res = .l0 then { p with res := LRes.l1 } else p)
  { l with l1 := l.l0, l0 := v, pend := addPend .l0 l.l0 lat n p2 }

/-- The result marked "o" of an instruction (03_encoding.md R67, R68). -/
def Lane.putD (l : Lane) (lat n : Nat) : Option (Dst × Word) → Lane
  | none => l
  | some (.o k, v) => (l.put lat n (.o k.toNat) v).history lat n v
  | some (.zero, v) => l.history lat n v

/-- The resources that a result enters: l0 too where it is marked "o" (03_encoding.md R68). -/
def LaneRes.lands (r : LaneRes) : List LRes :=
  r.wr.map (fun p => p.1) ++ (match r.d with
    | some (.o k, _) => [.o k.toNat, .l0]
    | some (.zero, _) => [.l0]
    | none => [])

/-- The results still on their way after an instruction: what stood for l0 stands for l1, a new value takes the place of the old
one, and with latency 0, which says variable, the new values are themselves on their way (03_encoding.md R68, R72). -/
def LaneRes.awaits (r : LaneRes) (lat : Nat) (l : List Await) : List Await :=
  let moved := if r.d.isSome then
      (l.filter (fun a => !decide (a.res = .l1))).map (fun a => if a.res = .l0 then { a with res := .l1 } else a)
    else l
  (if lat = 0 then r.lands.map (fun x => ({ res := x } : Await)) else []) ++ moved.filter (fun a => !r.lands.contains a.res)

/-- A lane that has executed an instruction with stall n counts it in its gaps and its stall (03_encoding.md R71, R74). -/
def Lane.ran (l : Lane) (n : Nat) : Lane := { l with pend := agePends n l.pend, stallLeft := n + 1, waitCnt := 0 }

/-- The two halves of a wide result are one. -/
def LaneRes.joins (r : LaneRes) (ps : List Pend) : List Pend :=
  match r.wide, r.d with
  | true, some (.o k, _) => joinPends k.toNat ps
  | _, _ => ps

/-- The lane after an instruction of len bytes that did not trap, with its next PC still to be set by a branch. -/
def Lane.finish (l : Lane) (len lat n : Nat) (r : LaneRes) : Lane :=
  let l1 := { l with pend := agePends n l.pend }
  let l2 := r.wr.foldl (fun l p => l.put lat n p.1 p.2) l1
  let l3 := l2.putD lat n r.d
  let l4 := { l3 with
    pend := r.joins l3.pend
    await := r.awaits lat l.await
    pc := if r.hold.isSome then l.pc else r.go.getD (l.pc + BitVec.ofNat 56 len)
    wait := r.hold.getD .none
    rstk := (r.calls.getD (l.rstk, l.spill)).1
    spill := (r.calls.getD (l.rstk, l.spill)).2
    st := r.ends.getD l.st
    latch := if r.latch.isSome then r.latch else l.latch
    stallLeft := n + 1, waitCnt := 0, failed := [] }
  if r.leaves then l4.leave else l4

/-- Write one mask bit of a lane, with its gap; old is what the masks were before the lane's group wrote (03_encoding.md R74,
07_lane_arith.md R157). -/
def Warp.putMask (old : SMap Word) (w : Warp) (lat n i : Nat) (p : Nat × Bool) : Warp :=
  (w.updLane i (fun l => { l with pend := addPend (.mk p.1) (old.get 0 p.1) lat n l.pend })).setMaskBit p.1 i p.2

/-- Apply one lane's result. A trap that its instruction is executed to raise counts in the lane's gaps and its stall
(03_encoding.md R71, R74, 17_system_instr.md R483); any other leaves the lane as it is. -/
def Warp.applyRes (old : SMap Word) (w : Warp) (len lat n : Nat) (p : Nat × LaneRes) : Warp :=
  match p.2.trap with
  | some c => if c = 0x11 ∨ c = 0x12 then w.updLane p.1 (fun l => l.ran n) else w
  | none =>
    let w1 := w.updLane p.1 (fun l => l.finish len lat n p.2)
    (p.2.mkb.foldl (fun w q => w.putMask old lat n p.1 q) w1).setFlags p.2.flags

/-- The traps among the results of a group: the lanes that trap do so together (16_recovery.md R443, R447). -/
def trapsOf (w : Warp) (u : Nat × Nat) (g : Option Glitch) (rs : List (Nat × LaneRes)) : List TrapIn :=
  rs.filterMap (fun p =>
    match p.2.trap with
    | none => none
    | some 0x10 =>
      match g with
      | some q => some { lane := p.1, code := 0x10, pc := (w.lane p.1).pc,
                         syn := BitVec.ofNat 64 (u.2 * 2 ^ 56 + q.pred.toNat * 2 ^ 32 + q.obs.toNat), unit := u.1,
                         tr := 0xFFFFFFFF, tc := 0xFFFFFFFF }
      | none => none
    | some c =>
      if c = 0x11 ∨ c = 0x12 then some { lane := p.1, code := c, arg := p.2.arg, pc := (w.lane p.1).pc + 4 }
      else some { lane := p.1, code := c, pc := (w.lane p.1).pc })

/-- Lanes that wait at an address in an open round on a mask register (07_lane_arith.md R168). -/
def Warp.waiters (w : Warp) (mk : Nat) (pc : Addr) : List Nat :=
  (lanesOf w.live).filter (fun j => decide ((w.lane j).wait = .round mk) && decide ((w.lane j).pc = pc))

/-- The live lanes that wait in a given way. -/
def Warp.waiting (w : Warp) (x : LaneWait) : List Nat := (lanesOf w.live).filter (fun i => decide ((w.lane i).wait = x))

/-- Every present lane of a mask is among the given ones, and some lane waits (02_execution.md R34, 14_control_instr.md
R391, R394). -/
def Warp.allHere (w : Warp) (mk : Nat) (ws : List Nat) : Bool :=
  !ws.isEmpty && (lanesOf (w.mask mk &&& w.live)).all (fun i => ws.contains i)

/-- The lanes of a completed join or wait go on after their instructions; at a join no lane issues before the latest stall
delay among them has passed (14_control_instr.md R391 step 3, 03_encoding.md R85). -/
def Warp.goOn (w : Warp) (ws : List Nat) (level : Bool) : Warp :=
  let most := ws.foldl (fun m i => max m (w.lane i).stallLeft) 0
  w.updLanes ws (fun _ l =>
    { l with pc := l.pc + 4, wait := .none, stallLeft := if level then most else l.stallLeft })

/-- Lanes of a completed round that are outside its mask trap; the others may issue (07_lane_arith.md R168). -/
def Warp.wakeRound (w : Warp) (mk : Nat) : Warp :=
  (w.waiting (.round mk)).foldl (fun v i =>
    if w.allHere mk (w.waiters mk (w.lane i).pc) then v.updLane i (fun l => { l with wait := .none }) else v) w

/-- Complete the join on a mask, if every present lane of the mask waits at one (14_control_instr.md R391). -/
def State.wakeJoin (s : State) (w mk : Nat) : State :=
  let wp := s.warp w
  let ws := wp.waiting (.join mk)
  if wp.allHere mk ws then
    let inside := ws.filter (fun i => bitAt (wp.mask mk) i)
    let outside := ws.filter (fun i => !bitAt (wp.mask mk) i)
    let one := match inside with
      | [] => false
      | i :: r => r.all (fun j => decide ((wp.lane j).pc = (wp.lane i).pc))
    let w1 := wp.goOn inside true
    let w2 := if one && decide (maskOf (fun i => inside.contains i) = wp.live) then
        { w1 with converged := true } else w1
    (s.setWarp w w2.settle).takeTraps w
      (outside.map (fun i => { lane := i, code := 0x06, pc := (wp.lane i).pc }))
  else s

/-- Complete the wait on a mask, if every present lane of the mask waits at one (14_control_instr.md R393). -/
def State.wakeMeet (s : State) (w mk : Nat) : State :=
  let wp := s.warp w
  let ws := wp.waiting (.meet mk)
  if wp.allHere mk ws then
    let inside := ws.filter (fun i => bitAt (wp.mask mk) i)
    let outside := ws.filter (fun i => !bitAt (wp.mask mk) i)
    (s.setWarp w (wp.goOn inside false).settle).takeTraps w
      (outside.map (fun i => { lane := i, code := 0x06, pc := (wp.lane i).pc }))
  else s

/-- Complete every join, wait and warp-data round of a warp that has become complete (14_control_instr.md R391 to R394). -/
def State.wake (s : State) (w : Nat) : State :=
  if (lanesOf (s.warp w).live).all (fun i => decide (((s.warp w).lane i).wait = .none)) then s
  else (List.range 12).foldl (fun s mk =>
    ((s.wakeJoin w mk).wakeMeet w mk).updWarp w (fun v => v.wakeRound mk)) s

/-- A result that lanes waiting at a join, wait or round may be waiting for: a lane that waits or ends, a changed mask, or a
trap (14_control_instr.md R391 to R394). -/
def LaneRes.stirs (r : LaneRes) : Bool := r.trap.isSome || !r.mkb.isEmpty || r.hold.isSome || r.ends.isSome

/-- A slot on the board stalls as its warp comes to wait so (02_execution.md R56, R57). -/
def State.stallIf (s : State) (w : Nat) (long : Bool) : State :=
  if (s.warp w).slot = .board && long then
    { s.updWarp w (fun v => { v with slot := .boardStalled, since := s.clock }) with clock := s.clock + 1 }
  else s

/-- A slot on the board stalls once its warp waits so. -/
def State.stallIfWaiting (s : State) (w : Nat) : State := s.stallIf w (s.warp w).waitsLong

/-- Complete what the lanes of a warp complete, and stall its slot where what is left of them waits so (02_execution.md R57,
14_control_instr.md R391 to R394). -/
def State.stir (s : State) (w : Nat) : State :=
  let t := s.wake w
  t.stallIf w (t.warp w).lanesLong

/-- Write the results of a group, then deliver its traps and complete what they complete (07_lane_arith.md R146,
16_recovery.md R447). -/
def State.finishLanes (s : State) (w len lat n : Nat) (u : Nat × Nat) (rs : List (Nat × LaneRes)) : State :=
  let s1 := s.updWarp w (fun v => (rs.foldl (fun v' p => v'.applyRes v.mks len lat n p) v).settle)
  { (if rs.any (fun p => p.2.stirs) then (s1.takeTraps w (trapsOf (s.warp w) u s.glitch rs)).stir w else s1) with glitch := none }

/-- The lanes that execute: the issuer's lanes that are live (02_execution.md R33). -/
def State.execLanes (s : State) : List Nat := lanesOf (s.cur.lanes &&& (s.warp s.cur.warp).live)

/-- What one of the executing lanes sees. -/
def State.view (s : State) (i : Nat) : View := { w := s.warp s.cur.warp, i := i, tick := s.tick, second := s.cur.second }

/-- The checks before an instruction executes in a lane: the gap rule with checking on (03_encoding.md R75, R76), and
a checker mismatch (16_recovery.md R443). -/
def State.laneCheck (s : State) (u : Nat × Nat) (reads : View → List LRes) (i : Nat) : Option Nat :=
  let v := s.view i
  if v.w.seenChk v.second && (reads v).any (fun r => (pendOf v.ln.pend r).isSome) then some 0x03
  else
    match s.glitch with
    | some g => if u.1 ≠ 0 ∧ bitAt g.lanes i then some 0x10 else none
    | none => none

/-- An instruction whose effect in each lane is a function of what that lane sees: each executing lane reads, then all
write (07_lane_arith.md R146). u is the unit code and KIND of 16_recovery.md R442. -/
def laneOp (n : Stall) (len lat : Nat) (u : Nat × Nat) (reads : View → List LRes) (f : View → LaneRes) (s : State) :
    Answer :=
  .next (s.finishLanes s.cur.warp len lat n.toNat u
    (s.execLanes.map (fun i =>
      match s.laneCheck u reads i with
      | some c => (i, LaneRes.trapped c)
      | none => (i, f (s.view i)))))

/-- One source operand. -/
def laneOp1 (n : Stall) (lat : Nat) (u : Nat × Nat) (d : Dst) (a : Src) (f : Word → Word) (s : State) : Answer :=
  laneOp n 4 lat u (fun _ => srcRes a) (fun v => .val d (f (v.src 0 a))) s

/-- Two source operands. -/
def laneOp2 (n : Stall) (lat : Nat) (u : Nat × Nat) (d : Dst) (a b : Src) (f : Word → Word → Word) (s : State) :
    Answer :=
  laneOp n 4 lat u (fun _ => srcRes a ++ srcRes b) (fun v => .val d (f (v.src 0 a) (v.src 1 b))) s

/-- Three source operands. -/
def laneOp3 (n : Stall) (lat : Nat) (u : Nat × Nat) (d : Dst) (a b c : Src) (f : Word → Word → Word → Word)
    (s : State) : Answer :=
  laneOp n 4 lat u (fun _ => srcRes a ++ srcRes b ++ srcRes c)
    (fun v => .val d (f (v.src 0 a) (v.src 1 b) (v.src 2 c))) s

/-- Results with flags. -/
def flagOp1 (n : Stall) (lat : Nat) (u : Nat × Nat) (d : Dst) (a : Src) (f : Bool → Word → Flagged Word) (s : State) :
    Answer :=
  laneOp n 4 lat u (fun _ => srcRes a) (fun v => .flagged d (f (bitAt v.w.trec.flags 0) (v.src 0 a))) s

def flagOp2 (n : Stall) (lat : Nat) (u : Nat × Nat) (d : Dst) (a b : Src)
    (f : Bool → Word → Word → Flagged Word) (s : State) : Answer :=
  laneOp n 4 lat u (fun _ => srcRes a ++ srcRes b)
    (fun v => .flagged d (f (bitAt v.w.trec.flags 0) (v.src 0 a) (v.src 1 b))) s

/-- A destination's resource, where it has one. -/
def dstRes : Dst → List LRes
  | .o n => [.o n.toNat]
  | .zero => []

/-! ## Strand instructions -/

/-- A value of an s-register as a strand operand, the k-th of its instruction (03_encoding.md R75). -/
def State.sval (s : State) (w k r : Nat) : Word64 :=
  let wp := s.warp w
  match wp.spend.find? (fun p => decide (p.reg = r) && decide (0 < p.left)) with
  | none => wp.sreg r
  | some p => if Config.freeBool (1024 * s.tick + 32 * k + 31) then p.old else wp.sreg r

def ageSPends (n : Nat) (ps : List SPend) : List SPend :=
  (ps.map (fun p => { p with left := p.left - (1 + n) })).filter (fun p => decide (0 < p.left))

/-- The strand issues an instruction at which its warp then waits: its gaps and its stall count by it (03_encoding.md R71,
R74). -/
def Warp.holdU (w : Warp) (n : Nat) : Warp := { w with spend := ageSPends n w.spend, sstall := n + 1 }

/-- The live lanes issue an instruction at which their warp then waits: their gaps and stalls count by it (03_encoding.md R71,
R74). -/
def Warp.holdLanes (w : Warp) (n : Nat) : Warp := w.updLanes (lanesOf w.live) (fun _ l => l.ran n)

/-- Write an s-register with latency lat and stall n; latency 0 says variable (03_encoding.md R72). -/
def Warp.putS (w : Warp) (lat n r : Nat) (v : Word64) : Warp :=
  let q := w.spend.filter (fun p => !decide (p.reg = r))
  let q1 := if lat > 1 + n then { reg := r, old := w.sreg r, left := lat - (1 + n) } :: q else q
  let a := w.sawait.filter (fun p => !decide (p.reg = r))
  { w.setSreg r v with spend := q1, sawait := if lat = 0 then { reg := r } :: a else a }

/-- The strand passes an instruction of len bytes: its gaps age, and every live lane continues at its next PC
(14_control_instr.md R384). -/
def Warp.passU (w : Warp) (n : Nat) (next : Addr) : Warp :=
  { (w.follow next) with spend := ageSPends n w.spend, sstall := n + 1, swait := .none, sfailed := [],
                         waitOn := none }

/-- The held engine operations of the task whose traps have not been delivered (16_recovery.md R444). -/
def State.untolds (s : State) (w : Nat) : List EngOp :=
  let wp := s.warp w
  let mine (o : EngOp) : Bool := decide (o.st = .held false) && decide (o.lid = wp.lid) && decide (o.taskId = wp.taskId)
  ((wp.queues.flatMap (fun p => p.2)) ++ (s.core (coreOf w)).q0 ++
    s.clusters.flatMap (fun p => p.2.leases.flatMap (fun l => l.q0))).filter mine

/-- The first of them. -/
def State.untold (s : State) (w : Nat) : Option EngOp := (s.untolds w).head?

/-- Mark one held operation of a task as told. -/
def markTold (lid id num : Nat) (l : List EngOp) : List EngOp :=
  l.map (fun o => if o.st = .held false ∧ o.lid = lid ∧ o.taskId = id ∧ o.num = num then { o with st := .held true } else o)

def State.tellHeld (s : State) (w : Nat) (x : EngOp) : State :=
  let m := markTold x.lid x.taskId x.num
  { s.updWarp w (fun v => { v with queues := mapVals (fun _ q => m q) v.queues }) with
    cores := mapVals (fun _ c => { c with q0 := m c.q0 }) s.cores
    clusters := mapVals (fun _ g => { g with leases := g.leases.map (fun l => { l with q0 := m l.q0 }) }) s.clusters }

/-- Deliver the trap 0x10 of a held engine operation to lanes at their PCs, once for the hold (16_recovery.md R444, R445). -/
def State.heldTrap (s : State) (w : Nat) (o : EngOp) (lanes : List Nat) : State :=
  let wp := s.warp w
  (s.tellHeld w o).takeTraps w (lanes.map (fun i =>
    { lane := i, code := 0x10, pc := (wp.lane i).pc, syn := o.syn, unit := o.unit, tr := o.tr, tc := o.tc }))

/-- The checks before a U-set instruction executes: divergence (02_execution.md R38), a held operation
(16_recovery.md R444), the gap rule (03_encoding.md R75), a checker mismatch (16_recovery.md R443). The state where the
instruction is turned away, none where it executes. -/
def State.strandCheck (s : State) (u : Nat × Nat) (reads : List Nat) : Option State :=
  let w := s.cur.warp
  let wp := s.warp w
  if !wp.converged then
    some (s.takeTraps w (s.execLanes.map (fun i => { lane := i, code := 0x02, pc := (wp.lane i).pc })))
  else
    match s.untold w with
    | some o => some (s.heldTrap w o (lanesOf wp.live))
    | none =>
      if wp.chk && wp.spend.any (fun p => reads.contains p.reg && decide (0 < p.left)) then
        some (s.strandTrap w 0x03 wp.spc)
      else
        match s.glitch with
        | some g =>
          if u.1 ≠ 0 then
            some { (s.takeTraps w ((lanesOf wp.live).map (fun i =>
                { lane := i, code := 0x10, pc := wp.spc,
                  syn := BitVec.ofNat 64 (u.2 * 2 ^ 56 + g.pred.toNat * 2 ^ 32 + g.obs.toNat), unit := u.1,
                  tr := 0xFFFFFFFF, tc := 0xFFFFFFFF }))) with glitch := none }
          else none
        | none => none

/-- An instruction of the strand whose effect is given by a body, once it executes. -/
def strandOp (u : Nat × Nat) (reads : List Nat) (body : State → State) (s : State) : Answer :=
  match s.strandCheck u reads with
  | some t => .next t
  | none => .next (body s)

/-- The strand writes one s-register and goes on. -/
def State.putS (s : State) (n len lat d : Nat) (v : Word64) : State :=
  s.updWarp s.cur.warp (fun wp => (wp.passU n (wp.spc + BitVec.ofNat 56 len)).putS lat n d v)

/-- The strand goes on to the next instruction. -/
def State.passU (s : State) (n len : Nat) : State :=
  s.updWarp s.cur.warp (fun wp => wp.passU n (wp.spc + BitVec.ofNat 56 len))

/-- Two s-registers to one. -/
def sOp2 (n : Stall) (lat kind : Nat) (d a b : BitVec 6) (f : Word64 → Word64 → Word64) (s : State) : Answer :=
  strandOp (0x08, kind) [a.toNat, b.toNat]
    (fun s => s.putS n.toNat 4 lat d.toNat (f (s.sval s.cur.warp 0 a.toNat) (s.sval s.cur.warp 1 b.toNat))) s

/-- One s-register to one. -/
def sOp1 (n : Stall) (len lat kind : Nat) (d a : BitVec 6) (f : Word64 → Word64) (s : State) : Answer :=
  strandOp (0x08, kind) [a.toNat] (fun s => s.putS n.toNat len lat d.toNat (f (s.sval s.cur.warp 0 a.toNat))) s

end Sys2Proof.Machine
end

