-- ==== Sys2Proof/Machine/IntLane.lean ====
section
/-! DEFINITION. Lane integer and packed-half instructions (07_lane_arith.md R150 to R160). -/

namespace Sys2Proof.Machine

/-- sext of an 11-bit immediate (03_encoding.md R66). -/
def imm11 (i : BitVec 11) : Word := i.signExtend 32

/-- Signed minimum and maximum. -/
def sMin32 (a b : Word) : Word := if a.slt b then a else b
def sMax32 (a b : Word) : Word := if a.slt b then b else a

/-- Unsigned minimum and maximum. -/
def uMin32 (a b : Word) : Word := if a.ult b then a else b
def uMax32 (a b : Word) : Word := if a.ult b then b else a

/-- Shifts and rotates use b[4:0] (07_lane_arith.md R150). -/
def shl32 (a b : Word) : Word := a <<< (b.toNat % 32)
def shr32 (a b : Word) : Word := a >>> (b.toNat % 32)
def sar32 (a b : Word) : Word := a.sshiftRight (b.toNat % 32)
def rotl32 (a b : Word) : Word := a.rotateLeft (b.toNat % 32)

/-- Bits [63:32] of the signed and the unsigned product (07_lane_arith.md R150). -/
def mulh32 (a b : Word) : Word := ((a.signExtend 64 * b.signExtend 64) >>> 32).setWidth 32
def mulhu32 (a b : Word) : Word := ((a.setWidth 64 * b.setWidth 64) >>> 32).setWidth 32

/-- Number of one bits. -/
def popc (a : Word) : Nat := laneList.foldl (fun n i => if bitAt a i then n + 1 else n) 0

/-- Number of leading zero bits, 0 to 32 (07_lane_arith.md R151). -/
def clz32 (a : Word) : Word := BitVec.ofNat 32 (if a = 0 then 32 else 31 - Nat.log2 a.toNat)

/-- Bit k moved to bit 31 − k (07_lane_arith.md R151). -/
def brev32 (a : Word) : Word := maskOf (fun i => bitAt a (31 - i))

/-- Absolute value; the most negative value gives itself (07_lane_arith.md R151). -/
def abs32 (a : Word) : Word := if bitAt a 31 then 0 - a else a

/-- d := a + b modulo 2^32 (07_lane_arith.md R150). -/
def execAdd (n : Stall) (d : Dst) (a b : Src) (s : State) : Answer :=
  laneOp2 n 1 (1, 1) d a b (fun a b => a + b) s

/-- d := a − b modulo 2^32 (07_lane_arith.md R150). -/
def execSub (n : Stall) (d : Dst) (a b : Src) (s : State) : Answer :=
  laneOp2 n 1 (1, 1) d a b (fun a b => a - b) s

/-- d := low 32 bits of a × b (07_lane_arith.md R150). -/
def execMul (n : Stall) (d : Dst) (a b : Src) (s : State) : Answer :=
  laneOp2 n 3 (2, 1) d a b (fun a b => a * b) s

/-- d := bits [63:32] of the signed product (07_lane_arith.md R150). -/
def execMulh (n : Stall) (d : Dst) (a b : Src) (s : State) : Answer :=
  laneOp2 n 3 (2, 1) d a b (mulh32) s

/-- d := bits [63:32] of the unsigned product (07_lane_arith.md R150). -/
def execMulhU (n : Stall) (d : Dst) (a b : Src) (s : State) : Answer :=
  laneOp2 n 3 (2, 1) d a b (mulhu32) s

/-- d := a AND b (07_lane_arith.md R150). -/
def execAnd (n : Stall) (d : Dst) (a b : Src) (s : State) : Answer :=
  laneOp2 n 1 (1, 2) d a b (fun a b => a &&& b) s

/-- d := a OR b (07_lane_arith.md R150). -/
def execOr (n : Stall) (d : Dst) (a b : Src) (s : State) : Answer :=
  laneOp2 n 1 (1, 2) d a b (fun a b => a ||| b) s

/-- d := a XOR b (07_lane_arith.md R150). -/
def execXor (n : Stall) (d : Dst) (a b : Src) (s : State) : Answer :=
  laneOp2 n 1 (1, 2) d a b (fun a b => a ^^^ b) s

/-- d := a AND NOT b (07_lane_arith.md R150). -/
def execAndn (n : Stall) (d : Dst) (a b : Src) (s : State) : Answer :=
  laneOp2 n 1 (1, 2) d a b (fun a b => a &&& ~~~b) s

/-- d := a shifted left by b[4:0] (07_lane_arith.md R150). -/
def execShl (n : Stall) (d : Dst) (a b : Src) (s : State) : Answer :=
  laneOp2 n 1 (3, 2) d a b (shl32) s

/-- d := a shifted right by b[4:0], zero fill (07_lane_arith.md R150). -/
def execShr (n : Stall) (d : Dst) (a b : Src) (s : State) : Answer :=
  laneOp2 n 1 (3, 2) d a b (shr32) s

/-- d := a shifted right by b[4:0], filled with a[31] (07_lane_arith.md R150). -/
def execSar (n : Stall) (d : Dst) (a b : Src) (s : State) : Answer :=
  laneOp2 n 1 (3, 2) d a b (sar32) s

/-- d := a rotated left by b[4:0] (07_lane_arith.md R150). -/
def execRotl (n : Stall) (d : Dst) (a b : Src) (s : State) : Answer :=
  laneOp2 n 1 (3, 2) d a b (rotl32) s

/-- d := signed minimum (07_lane_arith.md R150). -/
def execMin (n : Stall) (d : Dst) (a b : Src) (s : State) : Answer :=
  laneOp2 n 1 (1, 1) d a b (sMin32) s

/-- d := signed maximum (07_lane_arith.md R150). -/
def execMax (n : Stall) (d : Dst) (a b : Src) (s : State) : Answer :=
  laneOp2 n 1 (1, 1) d a b (sMax32) s

/-- d := unsigned minimum (07_lane_arith.md R150). -/
def execMinU (n : Stall) (d : Dst) (a b : Src) (s : State) : Answer :=
  laneOp2 n 1 (1, 1) d a b (uMin32) s

/-- d := unsigned maximum (07_lane_arith.md R150). -/
def execMaxU (n : Stall) (d : Dst) (a b : Src) (s : State) : Answer :=
  laneOp2 n 1 (1, 1) d a b (uMax32) s

/-- d := (0 − a) mod 2^32 (07_lane_arith.md R151). -/
def execNeg (n : Stall) (d : Dst) (a : Src) (s : State) : Answer :=
  laneOp1 n 1 (1, 1) d a (fun a => 0 - a) s

/-- d := |a| mod 2^32 (07_lane_arith.md R151). -/
def execAbs (n : Stall) (d : Dst) (a : Src) (s : State) : Answer :=
  laneOp1 n 1 (1, 1) d a (abs32) s

/-- d := NOT a (07_lane_arith.md R151). -/
def execNot (n : Stall) (d : Dst) (a : Src) (s : State) : Answer :=
  laneOp1 n 1 (1, 2) d a (fun a => ~~~a) s

/-- d := leading zero bits of a (07_lane_arith.md R151). -/
def execClz (n : Stall) (d : Dst) (a : Src) (s : State) : Answer :=
  laneOp1 n 1 (3, 2) d a (clz32) s

/-- d := one bits of a (07_lane_arith.md R151). -/
def execPopc (n : Stall) (d : Dst) (a : Src) (s : State) : Answer :=
  laneOp1 n 1 (3, 2) d a (fun a => BitVec.ofNat 32 (popc a)) s

/-- d := a with its bits reversed (07_lane_arith.md R151). -/
def execBrev (n : Stall) (d : Dst) (a : Src) (s : State) : Answer :=
  laneOp1 n 1 (3, 2) d a (brev32) s

/-- d := a (07_lane_arith.md R151). -/
def execMov (n : Stall) (d : Dst) (a : Src) (s : State) : Answer :=
  laneOp1 n 1 (1, 2) d a (fun a => a) s

/-- d := (a × b + c) mod 2^32 (07_lane_arith.md R152). -/
def execMad (n : Stall) (d : Dst) (a b c : Src) (s : State) : Answer :=
  laneOp3 n 3 (2, 1) d a b c (fun a b c => a * b + c) s

/-- The pair d, d + 1 := the sum of two pairs; l0 takes the low word (07_lane_arith.md R153). -/
def execAddw (n : Stall) (d : Dst) (a b : Src) (s : State) : Answer :=
  laneOp n 4 3 (1, 1) (fun _ => pairRes a ++ pairRes b)
    (fun v =>
      let sum := v.pair 0 a + v.pair 2 b
      { d := some (d, sum.setWidth 32), wide := true
        wr := match d with
          | .o k => [(.o (k.toNat + 1), (sum >>> 32).setWidth 32)]
          | .zero => [] }) s

/-- d := (a + b × 2^h) mod 2^32 (07_lane_arith.md R154). -/
def execLea (n : Stall) (d : Dst) (a b : Src) (h : BitVec 6) (s : State) : Answer :=
  laneOp2 n 1 (1, 1) d a b (fun a b => a + (b <<< h.toNat)) s

/-- The extracted field of bfx (07_lane_arith.md R155). -/
def bfxVal (signed : Bool) (pos len : Nat) (a : Word) : Word :=
  let ext : Word64 := if signed then a.signExtend 64 else a.setWidth 64
  let f := (ext >>> pos).toNat % 2 ^ len
  if signed && decide (2 ^ (len - 1) ≤ f) then BitVec.ofNat 32 (f + (2 ^ 32 - 2 ^ len)) else BitVec.ofNat 32 f

/-- The word with a field inserted by bfi (07_lane_arith.md R155). -/
def bfiVal (pos len : Nat) (d a : Word) : Word :=
  maskOf (fun i => if pos ≤ i ∧ i < pos + len then bitAt a (i - pos) else bitAt d i)

/-- Extract a field, zero fill (07_lane_arith.md R155). -/
def execBfx (n : Stall) (d : Dst) (a : Src) (l p : BitVec 5) (s : State) : Answer :=
  laneOp1 n 1 (3, 2) d a (bfxVal false p.toNat (l.toNat + 1)) s

/-- Extract a field with its sign (07_lane_arith.md R155). -/
def execBfxSigned (n : Stall) (d : Dst) (a : Src) (l p : BitVec 5) (s : State) : Answer :=
  laneOp1 n 1 (3, 2) d a (bfxVal true p.toNat (l.toNat + 1)) s

/-- A destination that is also read. -/
def dstSrc : Dst → Src
  | .o k => .o k
  | .zero => .zero

/-- Insert a field; d is also read (07_lane_arith.md R155). -/
def execBfi (n : Stall) (d : Dst) (a : Src) (l p : BitVec 5) (s : State) : Answer :=
  laneOp2 n 1 (3, 2) d (dstSrc d) a (fun dv a => bfiVal p.toNat (l.toNat + 1) dv a) s

/-- d := M[i] ? a : b (07_lane_arith.md R156). -/
def execSel (n : Stall) (d : Dst) (a b : Src) (k : BitVec 4) (s : State) : Answer :=
  laneOp n 4 1 (1, 2) (fun _ => .mk k.toNat :: srcRes a ++ srcRes b)
    (fun v => .val d (if v.maskBit 2 k.toNat then v.src 0 a else v.src 1 b)) s

/-- The relation of cmp (07_lane_arith.md R157). -/
def intCompare (c : IntCond) (a b : Word) : Bool :=
  match c with
  | .eq => decide (a = b)
  | .ne => !decide (a = b)
  | .lt => a.slt b
  | .le => !b.slt a
  | .gt => b.slt a
  | .ge => !a.slt b
  | .ltu => a.ult b
  | .leu => !b.ult a
  | .gtu => b.ult a
  | .geu => !a.ult b

/-- Each executing lane's bit of the mask := the relation (07_lane_arith.md R157). -/
def execCmp (n : Stall) (k : BitVec 4) (a b : Src) (c : IntCond) (s : State) : Answer :=
  laneOp n 4 1 (1, 1) (fun _ => srcRes a ++ srcRes b)
    (fun v => { mkb := [(k.toNat, intCompare c (v.src 0 a) (v.src 1 b))] }) s

/-- d := sext(imm11, 32) (07_lane_arith.md R158). -/
def execMovi (n : Stall) (d : Dst) (i : BitVec 11) (s : State) : Answer :=
  laneOp n 4 1 (0, 0) (fun _ => []) (fun _ => .val d (imm11 i)) s

/-- d := the extension word (07_lane_arith.md R158). -/
def execMoviWide (n : Stall) (d : Dst) (v : BitVec 32) (s : State) : Answer :=
  laneOp n 8 1 (0, 0) (fun _ => []) (fun _ => .val d v) s

/-- add with b = sext(imm11, 32) (07_lane_arith.md R150). -/
def execAddImm (n : Stall) (d : Dst) (a : Src) (i : BitVec 11) (s : State) : Answer :=
  laneOp1 n 1 (1, 1) d a (fun a => a + imm11 i) s

/-- mul with b = sext(imm11, 32) (07_lane_arith.md R150). -/
def execMulImm (n : Stall) (d : Dst) (a : Src) (i : BitVec 11) (s : State) : Answer :=
  laneOp1 n 3 (2, 1) d a (fun a => a * imm11 i) s

/-- and with b = sext(imm11, 32) (07_lane_arith.md R150). -/
def execAndImm (n : Stall) (d : Dst) (a : Src) (i : BitVec 11) (s : State) : Answer :=
  laneOp1 n 1 (1, 2) d a (fun a => a &&& imm11 i) s

/-- or with b = sext(imm11, 32) (07_lane_arith.md R150). -/
def execOrImm (n : Stall) (d : Dst) (a : Src) (i : BitVec 11) (s : State) : Answer :=
  laneOp1 n 1 (1, 2) d a (fun a => a ||| imm11 i) s

/-- xor with b = sext(imm11, 32) (07_lane_arith.md R150). -/
def execXorImm (n : Stall) (d : Dst) (a : Src) (i : BitVec 11) (s : State) : Answer :=
  laneOp1 n 1 (1, 2) d a (fun a => a ^^^ imm11 i) s

/-- shl by a constant amount from 0 to 31 (07_lane_arith.md R150). -/
def execShlImm (n : Stall) (d : Dst) (a : Src) (p : BitVec 5) (s : State) : Answer :=
  laneOp1 n 1 (3, 2) d a (fun a => shl32 a (p.setWidth 32)) s

/-- shr by a constant amount from 0 to 31 (07_lane_arith.md R150). -/
def execShrImm (n : Stall) (d : Dst) (a : Src) (p : BitVec 5) (s : State) : Answer :=
  laneOp1 n 1 (3, 2) d a (fun a => shr32 a (p.setWidth 32)) s

/-- sar by a constant amount from 0 to 31 (07_lane_arith.md R150). -/
def execSarImm (n : Stall) (d : Dst) (a : Src) (p : BitVec 5) (s : State) : Answer :=
  laneOp1 n 1 (3, 2) d a (fun a => sar32 a (p.setWidth 32)) s

/-- rotl by a constant amount from 0 to 31 (07_lane_arith.md R150). -/
def execRotlImm (n : Stall) (d : Dst) (a : Src) (p : BitVec 5) (s : State) : Answer :=
  laneOp1 n 1 (3, 2) d a (fun a => rotl32 a (p.setWidth 32)) s

/-- min with b = sext(imm11, 32) (07_lane_arith.md R150). -/
def execMinImm (n : Stall) (d : Dst) (a : Src) (i : BitVec 11) (s : State) : Answer :=
  laneOp1 n 1 (1, 1) d a (fun a => sMin32 a (imm11 i)) s

/-- max with b = sext(imm11, 32) (07_lane_arith.md R150). -/
def execMaxImm (n : Stall) (d : Dst) (a : Src) (i : BitVec 11) (s : State) : Answer :=
  laneOp1 n 1 (1, 1) d a (fun a => sMax32 a (imm11 i)) s

/-- A function of the two halves of two words; no half reaches the other (07_lane_arith.md R159). -/
def halves (f : BitVec 16 → BitVec 16 → BitVec 16) (a b : Word) : Word :=
  f (a.extractLsb' 16 16) (b.extractLsb' 16 16) ++ f (a.extractLsb' 0 16) (b.extractLsb' 0 16)

/-- v clamped to the signed 16-bit range (05_formats.md R113). -/
def satInt16 (v : Int) : BitVec 16 := BitVec.ofInt 16 (max (-32768) (min 32767 v))

/-- Each half of d := sums (07_lane_arith.md R159). -/
def execHadd2 (n : Stall) (d : Dst) (a b : Src) (s : State) : Answer :=
  laneOp2 n 2 (6, 1) d a b (halves (fun x y => x + y)) s

/-- Each half of d := differences (07_lane_arith.md R159). -/
def execHsub2 (n : Stall) (d : Dst) (a b : Src) (s : State) : Answer :=
  laneOp2 n 2 (6, 1) d a b (halves (fun x y => x - y)) s

/-- Each half of d := signed minimum (07_lane_arith.md R159). -/
def execHmin2 (n : Stall) (d : Dst) (a b : Src) (s : State) : Answer :=
  laneOp2 n 2 (6, 1) d a b (halves (fun x y => if x.slt y then x else y)) s

/-- Each half of d := signed maximum (07_lane_arith.md R159). -/
def execHmax2 (n : Stall) (d : Dst) (a b : Src) (s : State) : Answer :=
  laneOp2 n 2 (6, 1) d a b (halves (fun x y => if x.slt y then y else x)) s

/-- Each half of d := saturated sums (07_lane_arith.md R159). -/
def execHadd2Sat (n : Stall) (d : Dst) (a b : Src) (s : State) : Answer :=
  laneOp2 n 2 (6, 1) d a b (halves (fun x y => satInt16 (x.toInt + y.toInt))) s

/-- Each half of d := saturated differences (07_lane_arith.md R159). -/
def execHsub2Sat (n : Stall) (d : Dst) (a b : Src) (s : State) : Answer :=
  laneOp2 n 2 (6, 1) d a b (halves (fun x y => satInt16 (x.toInt - y.toInt))) s

/-- Each half of d := unsigned minimum (07_lane_arith.md R159). -/
def execHmin2U (n : Stall) (d : Dst) (a b : Src) (s : State) : Answer :=
  laneOp2 n 2 (6, 1) d a b (halves (fun x y => if x.ult y then x else y)) s

/-- Each half of d := unsigned maximum (07_lane_arith.md R159). -/
def execHmax2U (n : Stall) (d : Dst) (a b : Src) (s : State) : Answer :=
  laneOp2 n 2 (6, 1) d a b (halves (fun x y => if x.ult y then y else x)) s

/-- One half of acs2: the smaller of two saturated sums, and the decision (07_lane_arith.md R160). -/
def acsHalf (p m q r : Nat) : Nat × Bool :=
  let x := min 65535 (p + m)
  let y := min 65535 (q + r)
  if x ≤ y then (x, false) else (y, true)

/-- Add-compare-select of a butterfly on both halves (07_lane_arith.md R160). -/
def execAcs2 (n : Stall) (d : Dst) (a b : Src) (k : BitVec 4) (s : State) : Answer :=
  laneOp n 4 2 (6, 1) (fun _ => srcRes a ++ srcRes b)
    (fun v =>
      let x := v.src 0 a
      let y := v.src 1 b
      let h0 := acsHalf (field x 15 0) (field y 15 0) (field x 31 16) (field y 31 16)
      let h1 := acsHalf (field x 15 0) (field y 31 16) (field x 31 16) (field y 15 0)
      { d := some (d, BitVec.ofNat 32 (h1.1 * 65536 + h0.1)), mkb := [(k.toNat, h0.2), (k.toNat + 1, h1.2)] }) s

end Sys2Proof.Machine
end

