-- ==== Sys2Proof/Machine/Control.lean ====
section
/-! DEFINITION. Branches, calls, masks, joins, leaves and waits, and leaving the live state
(14_control_instr.md R378 to R395). -/

namespace Sys2Proof.Machine

/-- PC + 4 × offset modulo 2^56 (14_control_instr.md R378). -/
def target {k : Nat} (pc : Addr) (off : BitVec k) : Addr := pc + 4 * off.signExtend 56

/-- What a lane sees once its earlier results are there: in a converged warp the strand fetches nothing beyond a brc or brx
before the earlier entries have written its mask or register (14_control_instr.md R379). -/
def View.waited (v : View) : View :=
  if v.w.converged then { v with w := v.w.updLane v.i (fun l => { l with pend := [] }) } else v

/-- Every executing lane goes to the target (14_control_instr.md R380). -/
def execBra (n : Stall) (o : BitVec 21) (s : State) : Answer :=
  laneOp n 4 0 (0, 0) (fun _ => []) (fun v => { go := some (target v.ln.pc o) }) s

/-- A lane goes to the target where its mask bit equals the sense (14_control_instr.md R381). -/
def execBrc (n : Stall) (e : BitVec 1) (k : BitVec 4) (o : BitVec 16) (s : State) : Answer :=
  laneOp n 4 0 (0, 0) (fun _ => [.mk k.toNat])
    (fun v => if v.waited.maskBit 0 k.toNat = decide (e = 1) then { go := some (target v.ln.pc o) } else {}) s

/-- Each lane goes to PC + 4 × sext(a, 32) (14_control_instr.md R382). -/
def execBrx (n : Stall) (a : Src) (s : State) : Answer :=
  laneOp n 4 0 (0, 0) (fun _ => srcRes a) (fun v => { go := some (target v.ln.pc (v.waited.src 0 a)) }) s

/-- A call: push the return address; with 8 entries held the oldest moves to the main file, with 16 the lane traps
(02_execution.md R32, 14_control_instr.md R383). -/
def Lane.call (l : Lane) (there : Addr) : LaneRes :=
  if l.rstk.length < 8 then { go := some there, calls := some ((l.pc + 4) :: l.rstk, l.spill) }
  else if l.spill.length < 8 then
    let old := l.rstk.getLastD 0
    { go := some there, calls := some ((l.pc + 4) :: l.rstk.dropLast, old :: l.spill)
      wr := [(.m (127 - l.spill.length), old.setWidth 32)] }
  else .trapped 0x04

/-- A return: pop the latest entry, from the main file when the hardware stack is empty (02_execution.md R32). -/
def Lane.ret (l : Lane) : LaneRes :=
  match l.rstk, l.spill with
  | a :: r, sp => { go := some a, calls := some (r, sp) }
  | [], a :: sp => { go := some a, calls := some ([], sp) }
  | [], [] => .trapped 0x04

/-- Each executing lane pushes PC + 4 and goes to the target (14_control_instr.md R383). -/
def execCall (n : Stall) (o : BitVec 21) (s : State) : Answer :=
  laneOp n 4 0 (0, 0) (fun _ => []) (fun v => v.ln.call (target v.ln.pc o)) s

/-- Each executing lane pops its latest entry and goes to it (14_control_instr.md R383). -/
def execRet (n : Stall) (s : State) : Answer := laneOp n 4 0 (0, 0) (fun _ => []) (fun v => v.ln.ret) s

/-- The strand and every live lane go to the target (14_control_instr.md R384). -/
def execUbra (n : Stall) (o : BitVec 21) (s : State) : Answer :=
  strandOp (0, 0) [] (fun s => s.updWarp s.cur.warp (fun w => w.passU n.toNat (target w.spc o))) s

/-- The branch is taken when (s[C] ≠ 0) equals the sense; it reads s[C] after every earlier write to it
(14_control_instr.md R384). -/
def execUbrc (n : Stall) (c : BitVec 6) (e : BitVec 1) (o : BitVec 14) (s : State) : Answer :=
  strandOp (0, 0) [c.toNat]
    (fun s =>
      let taken := decide ((!decide ((s.warp s.cur.warp).sreg c.toNat = 0)) = decide (e = 1))
      s.updWarp s.cur.warp (fun w => w.passU n.toNat (if taken then target w.spc o else w.spc + 4))) s

/-- The strand pushes PC + 4 and branches; with 8 entries held it traps (14_control_instr.md R385). -/
def execUcall (n : Stall) (o : BitVec 21) (s : State) : Answer :=
  strandOp (0, 0) []
    (fun s =>
      let w := s.warp s.cur.warp
      if w.ustk.length < 8 then
        s.updWarp s.cur.warp (fun w => { (w.passU n.toNat (target w.spc o)) with ustk := (w.spc + 4) :: w.ustk })
      else s.strandTrap s.cur.warp 0x04 w.spc) s

/-- The strand pops an entry and branches to it; with none held it traps (14_control_instr.md R385). -/
def execUret (n : Stall) (s : State) : Answer :=
  strandOp (0, 0) []
    (fun s =>
      let w := s.warp s.cur.warp
      match w.ustk with
      | a :: r => s.updWarp s.cur.warp (fun w => { (w.passU n.toNat a) with ustk := r })
      | [] => s.strandTrap s.cur.warp 0x04 w.spc) s

/-- Each executing lane becomes exited (14_control_instr.md R386); what follows for a warp without live lanes is the
implicit refill or the task's end. -/
def execExit (n : Stall) (s : State) : Answer :=
  laneOp n 4 0 (0, 0) (fun _ => []) (fun _ => { ends := some .exited }) s

/-- No effect beyond the stall count (14_control_instr.md R387). -/
def execNop (n : Stall) (s : State) : Answer := laneOp n 4 0 (0, 0) (fun _ => []) (fun _ => {}) s

/-- Open a yield window of 32 core cycles, with the progress promise on (14_control_instr.md R387,
13_scheduling.md R368, R369). -/
def execYld (n : Stall) (s : State) : Answer :=
  match laneOp n 4 0 (0, 0) (fun _ => []) (fun _ => {}) s with
  | .next t =>
    if (s.launch (s.warp s.cur.warp).lid).noprog then .next t
    else .next (t.updWarp s.cur.warp (fun w => w.updLanes s.execLanes (fun _ l => { l with yieldLeft := 33 })))
  | r => r

/-- Each executing lane becomes vacant, with an empty return stack; in a task without an item queue it traps
(14_control_instr.md R395). -/
def execVac (n : Stall) (s : State) : Answer :=
  laneOp n 4 0 (0, 0) (fun _ => [])
    (fun v => if v.w.trec.itemq = 0 then .trapped 0x01 else { ends := some .vacant, calls := some ([], []) }) s

/-- An operation on two mask bits of each lane (14_control_instr.md R388). -/
def maskOp2 (n : Stall) (d a b : BitVec 4) (f : Bool → Bool → Bool) (s : State) : Answer :=
  laneOp n 4 1 (1, 2) (fun _ => [.mk a.toNat, .mk b.toNat])
    (fun v => { mkb := [(d.toNat, f (v.maskBit 0 a.toNat) (v.maskBit 1 b.toNat))] }) s

/-- mkD := mkA AND mkB (14_control_instr.md R388). -/
def execMand (n : Stall) (d a b : BitVec 4) (s : State) : Answer := maskOp2 n d a b (fun x y => x && y) s

/-- mkD := mkA OR mkB (14_control_instr.md R388). -/
def execMor (n : Stall) (d a b : BitVec 4) (s : State) : Answer := maskOp2 n d a b (fun x y => x || y) s

/-- mkD := NOT mkA (14_control_instr.md R388). -/
def execMnot (n : Stall) (d a : BitVec 4) (s : State) : Answer :=
  laneOp n 4 1 (1, 2) (fun _ => [.mk a.toNat]) (fun v => { mkb := [(d.toNat, !v.maskBit 0 a.toNat)] }) s

/-- mkD := bit i of a in lane i (14_control_instr.md R388). -/
def execMset (n : Stall) (d : BitVec 4) (a : Src) (s : State) : Answer :=
  laneOp n 4 1 (1, 2) (fun _ => srcRes a) (fun v => { mkb := [(d.toNat, bitAt (v.src 0 a) v.i)] }) s

/-- d := number of one bits of the mask (14_control_instr.md R388). After a mask that is not yet available it is interlocked, so
that it has no gap to keep, and of variable latency (03_encoding.md R72; log entry 130). -/
def execMpop (n : Stall) (d : Dst) (k : BitVec 4) (s : State) : Answer :=
  let late := s.execLanes.any (fun i => (pendOf ((s.warp s.cur.warp).lane i).pend (.mk k.toNat)).isSome)
  laneOp n 4 (if late then 0 else 1) (3, 2) (fun _ => [])
    (fun v => .val d (BitVec.ofNat 32 (popc (v.w.maskSeen v.second k.toNat)))) s

/-- d := the lowest lane of the mask, or 32 (14_control_instr.md R388). -/
def execMfirst (n : Stall) (d : Dst) (k : BitVec 4) (s : State) : Answer :=
  laneOp n 4 1 (3, 2) (fun _ => [.mk k.toNat])
    (fun v => .val d (BitVec.ofNat 32 ((lanesOf (v.mask 0 k.toNat)).headD 32))) s

/-- An executing lane that is not in the mask traps and does nothing else (14_control_instr.md R390). -/
def inMask (k : BitVec 4) (v : View) (r : LaneRes) : LaneRes := if v.maskBit 0 k.toNat then r else .trapped 0x06

/-- The executing lanes wait at a join; it completes once every present lane of the mask waits at one
(14_control_instr.md R391). -/
def execMjoin (n : Stall) (k : BitVec 4) (s : State) : Answer :=
  laneOp n 4 0 (0, 0) (fun _ => [.mk k.toNat]) (fun v => inMask k v { hold := some (.join k.toNat) }) s

/-- The executing lanes' bits of the mask are cleared, which may complete a join or wait on it
(14_control_instr.md R392). -/
def execMleave (n : Stall) (k : BitVec 4) (s : State) : Answer :=
  laneOp n 4 0 (0, 0) (fun _ => [.mk k.toNat]) (fun v => inMask k v { mkb := [(k.toNat, false)] }) s

/-- The executing lanes wait until every present lane of the mask waits so (14_control_instr.md R393). -/
def execMwait (n : Stall) (k : BitVec 4) (s : State) : Answer :=
  laneOp n 4 0 (0, 0) (fun _ => [.mk k.toNat]) (fun v => inMask k v { hold := some (.meet k.toNat) }) s

/-- Each executing lane raises trap 0x12 with the argument (17_system_instr.md R483). -/
def execTrap (n : Stall) (g : BitVec 8) (s : State) : Answer :=
  laneOp n 4 0 (0, 0) (fun _ => []) (fun _ => { trap := some 0x12, arg := g.toNat }) s

/-- Each executing lane raises trap 0x11 with the argument (17_system_instr.md R483). -/
def execBrk (n : Stall) (g : BitVec 8) (s : State) : Answer :=
  laneOp n 4 0 (0, 0) (fun _ => []) (fun _ => { trap := some 0x11, arg := g.toNat }) s

end Sys2Proof.Machine
end

