-- ==== Sys2Proof/Machine/Num.lean ====
section
/-! DEFINITION. Number formats, rounding, sticky flags of arithmetic, and conversions (05_formats.md). -/

namespace Sys2Proof.Machine

/-- A floating-point format (05_formats.md R107, R108). -/
structure Fl where
  p : Nat        -- precision with the hidden bit
  ebits : Nat
  bias : Nat
  infs : Bool    -- has infinities
  maxM : Nat     -- significand of the largest finite value, p bits
  maxE : Int     -- its exponent
  flushes : Bool -- R116 applies
  fp8 : Bool
  deriving DecidableEq, Repr

def Fl.emin (f : Fl) : Int := 1 - (f.bias : Int)

def flFP32 : Fl := ⟨24, 8, 127, true, 2 ^ 24 - 1, 127, true, false⟩
def flFP16 : Fl := ⟨11, 5, 15, true, 2 ^ 11 - 1, 15, true, false⟩
def flBF16 : Fl := ⟨8, 8, 127, true, 2 ^ 8 - 1, 127, true, false⟩
def flE4M3 : Fl := ⟨4, 4, 7, false, 14, 8, false, true⟩
def flE5M2 : Fl := ⟨3, 5, 15, true, 7, 15, false, true⟩

/-- A decoded number: NaN, an infinity, or (−1)^neg × mag × 2^exp (05_formats.md R108, R109). -/
inductive FNum where
  | nan
  | inf (neg : Bool)
  | fin (neg : Bool) (mag : Nat) (exp : Int)
  deriving DecidableEq, Repr

/-- The value of an encoding (05_formats.md R108). -/
def Fl.decode (f : Fl) (b : Nat) : FNum :=
  let m := b % 2 ^ (f.p - 1)
  let e := b / 2 ^ (f.p - 1) % 2 ^ f.ebits
  let neg := decide (b / 2 ^ (f.p - 1 + f.ebits) % 2 = 1)
  if e = 0 then .fin neg m (f.emin - (f.p : Int) + 1)
  else if e = 2 ^ f.ebits - 1 ∧ f.infs then (if m = 0 then .inf neg else .nan)
  else if e = 2 ^ f.ebits - 1 ∧ m = 2 ^ (f.p - 1) - 1 then .nan
  else .fin neg (2 ^ (f.p - 1) + m) ((e : Int) - f.bias - (f.p : Int) + 1)

def Fl.signBit (f : Fl) (neg : Bool) : Nat := if neg then 2 ^ (f.p - 1 + f.ebits) else 0

/-- Canonical NaN (05_formats.md R109). -/
def Fl.nan (f : Fl) : Nat :=
  if f.infs then (2 ^ f.ebits - 1) * 2 ^ (f.p - 1) + 2 ^ (f.p - 2) else (2 ^ f.ebits - 1) * 2 ^ (f.p - 1) + (2 ^ (f.p - 1) - 1)

/-- Infinity; the canonical NaN where the format has none (05_formats.md R112). -/
def Fl.inf (f : Fl) (neg : Bool) : Nat := if f.infs then f.signBit neg + (2 ^ f.ebits - 1) * 2 ^ (f.p - 1) else f.nan

/-- Largest finite value (05_formats.md R108). -/
def Fl.maxfin (f : Fl) (neg : Bool) : Nat :=
  f.signBit neg + ((f.maxE + f.bias).toNat) * 2 ^ (f.p - 1) + (f.maxM - 2 ^ (f.p - 1))

/-- floor(log2(num / den)) for positive num and den. -/
def floorLog2 (num den : Nat) : Int :=
  let a : Int := (Nat.log2 num : Int) - (Nat.log2 den : Int)
  let ok := if 0 ≤ a then decide (den * 2 ^ a.toNat ≤ num) else decide (den ≤ num * 2 ^ (-a).toNat)
  if ok then a else a - 1

/-- Divide num / den by 2^e as a pair of naturals. -/
def scaleDown (num den : Nat) (e : Int) : Nat × Nat :=
  if 0 ≤ e then (num, den * 2 ^ e.toNat) else (num * 2 ^ (-e).toNat, den)

/-- The integer that a mode picks for num / den of a sign (05_formats.md R111). -/
def roundInt (mode : Rnd) (neg : Bool) (num den : Nat) : Nat :=
  let k := num / den
  let r := num % den
  match mode with
  | .nearest => if 2 * r < den then k else if den < 2 * r then k + 1 else if k % 2 = 0 then k else k + 1
  | .zero => k
  | .up => if neg ∨ r = 0 then k else k + 1
  | .down => if neg ∧ r ≠ 0 then k + 1 else k

/-- What an overflow gives (05_formats.md R112). -/
def Fl.overflow (f : Fl) (mode : Rnd) (ieee : Bool) (neg : Bool) : Nat :=
  if !ieee && f.fp8 then f.maxfin neg
  else
    match mode, neg with
    | .nearest, _ => f.inf neg
    | .zero, _ => f.maxfin neg
    | .up, false => f.inf false
    | .up, true => f.maxfin true
    | .down, false => f.maxfin false
    | .down, true => f.inf true

/-- Round the non-zero value (−1)^neg × num / den (05_formats.md R111, R112, R116, R117). -/
def Fl.round (f : Fl) (mode : Rnd) (ieee flush neg : Bool) (num den : Nat) : Flagged Nat :=
  let l := floorLog2 num den
  let tiny := decide (l < f.emin)
  if tiny && flush && f.flushes then ⟨f.signBit neg, fUF + fNX⟩
  else
    let e := if tiny then f.emin else l
    let (a, b) := scaleDown num den (e - (f.p : Int) + 1)
    let k := roundInt mode neg a b
    let exact := decide (k * b = a)
    let (k1, e1) := if k = 2 ^ f.p then (2 ^ (f.p - 1), e + 1) else (k, e)
    if decide (f.maxE < e1) || (decide (e1 = f.maxE) && decide (f.maxM < k1)) then
      ⟨f.overflow mode ieee neg, fOF + fNX⟩
    else
      let fl := if exact then 0 else if tiny then fUF + fNX else fNX
      if k1 < 2 ^ (f.p - 1) then ⟨f.signBit neg + k1, fl⟩
      else ⟨f.signBit neg + (e1 + f.bias).toNat * 2 ^ (f.p - 1) + (k1 - 2 ^ (f.p - 1)), fl⟩

/-- Round (−1)^neg × mag × 2^exp, where a zero keeps the given sign (05_formats.md R111, R114). -/
def Fl.roundDy (f : Fl) (mode : Rnd) (ieee flush neg : Bool) (mag : Nat) (exp : Int) : Flagged Nat :=
  if mag = 0 then ⟨f.signBit neg, 0⟩
  else if 0 ≤ exp then f.round mode ieee flush neg (mag * 2 ^ exp.toNat) 1
  else f.round mode ieee flush neg mag (2 ^ (-exp).toNat)

/-- Read a source under FLUSH: a subnormal is a zero of its sign (05_formats.md R116). -/
def Fl.read (f : Fl) (flush : Bool) (b : Nat) : FNum :=
  match f.decode b with
  | .fin neg mag exp => if flush && f.flushes && decide (mag < 2 ^ (f.p - 1)) then .fin neg 0 exp else .fin neg mag exp
  | x => x

/-- The signed integer mag at a common exponent. -/
def alignTo (neg : Bool) (mag : Nat) (exp e : Int) : Int :=
  let v : Int := (mag : Int) * 2 ^ (exp - e).toNat
  if neg then -v else v

/-- Exact sum of two finite values: sign, magnitude and exponent; a zero has the sign of R114. -/
def addFin (n1 : Bool) (m1 : Nat) (e1 : Int) (n2 : Bool) (m2 : Nat) (e2 : Int) : Bool × Nat × Int :=
  let e := min e1 e2
  let v := alignTo n1 m1 e1 e + alignTo n2 m2 e2 e
  if v = 0 then (n1 && n2 && decide (m1 = 0) && decide (m2 = 0), 0, e) else (decide (v < 0), v.natAbs, e)

/-- fadd: rne_fp32(a + b) (07_lane_arith.md R161, 05_formats.md R114, R115). -/
def fAdd (flush : Bool) (a b : Word) : Flagged Word :=
  match flFP32.read flush a.toNat, flFP32.read flush b.toNat with
  | .nan, _ => ⟨BitVec.ofNat 32 flFP32.nan, 0⟩
  | _, .nan => ⟨BitVec.ofNat 32 flFP32.nan, 0⟩
  | .inf n1, .inf n2 =>
    if n1 = n2 then ⟨BitVec.ofNat 32 (flFP32.inf n1), 0⟩ else ⟨BitVec.ofNat 32 flFP32.nan, fNV⟩
  | .inf n, _ => ⟨BitVec.ofNat 32 (flFP32.inf n), 0⟩
  | _, .inf n => ⟨BitVec.ofNat 32 (flFP32.inf n), 0⟩
  | .fin n1 m1 e1, .fin n2 m2 e2 =>
    let (n, m, e) := addFin n1 m1 e1 n2 m2 e2
    let r := flFP32.roundDy .nearest true flush n m e
    ⟨BitVec.ofNat 32 r.val, r.flags⟩

/-- The negation of an FP32 operand. -/
def fNeg (a : Word) : Word := a ^^^ 0x80000000

/-- fsub: rne_fp32(a − b) (07_lane_arith.md R161). -/
def fSub (flush : Bool) (a b : Word) : Flagged Word := fAdd flush a (fNeg b)

/-- fmul: rne_fp32(a × b) (07_lane_arith.md R161, 05_formats.md R114, R115). -/
def fMul (flush : Bool) (a b : Word) : Flagged Word :=
  match flFP32.read flush a.toNat, flFP32.read flush b.toNat with
  | .nan, _ => ⟨BitVec.ofNat 32 flFP32.nan, 0⟩
  | _, .nan => ⟨BitVec.ofNat 32 flFP32.nan, 0⟩
  | .inf n1, .inf n2 => ⟨BitVec.ofNat 32 (flFP32.inf (n1 != n2)), 0⟩
  | .inf n1, .fin n2 m _ =>
    if m = 0 then ⟨BitVec.ofNat 32 flFP32.nan, fNV⟩ else ⟨BitVec.ofNat 32 (flFP32.inf (n1 != n2)), 0⟩
  | .fin n1 m _, .inf n2 =>
    if m = 0 then ⟨BitVec.ofNat 32 flFP32.nan, fNV⟩ else ⟨BitVec.ofNat 32 (flFP32.inf (n1 != n2)), 0⟩
  | .fin n1 m1 e1, .fin n2 m2 e2 =>
    let r := flFP32.roundDy .nearest true flush (n1 != n2) (m1 * m2) (e1 + e2)
    ⟨BitVec.ofNat 32 r.val, r.flags⟩

/-- ffma: rne_fp32(a × b + c) with one rounding (07_lane_arith.md R162, 05_formats.md R115). -/
def fFma (flush : Bool) (a b c : Word) : Flagged Word :=
  let qnan (fl : Nat) : Flagged Word := ⟨BitVec.ofNat 32 flFP32.nan, fl⟩
  let addTo (pinf : Option Bool) (n : Bool) (m : Nat) (e : Int) : Flagged Word :=
    match pinf, flFP32.read flush c.toNat with
    | _, .nan => qnan 0
    | some n1, .inf n2 => if n1 = n2 then ⟨BitVec.ofNat 32 (flFP32.inf n1), 0⟩ else qnan fNV
    | some n1, .fin _ _ _ => ⟨BitVec.ofNat 32 (flFP32.inf n1), 0⟩
    | none, .inf n2 => ⟨BitVec.ofNat 32 (flFP32.inf n2), 0⟩
    | none, .fin n2 m2 e2 =>
      let (s, v, x) := addFin n m e n2 m2 e2
      let r := flFP32.roundDy .nearest true flush s v x
      ⟨BitVec.ofNat 32 r.val, r.flags⟩
  match flFP32.read flush a.toNat, flFP32.read flush b.toNat with
  | .nan, _ => qnan 0
  | _, .nan => qnan 0
  | .inf n1, .inf n2 => addTo (some (n1 != n2)) false 0 0
  | .inf n1, .fin n2 m _ => if m = 0 then qnan fNV else addTo (some (n1 != n2)) false 0 0
  | .fin n1 m _, .inf n2 => if m = 0 then qnan fNV else addTo (some (n1 != n2)) false 0 0
  | .fin n1 m1 e1, .fin n2 m2 e2 => addTo none (n1 != n2) (m1 * m2) (e1 + e2)

/-- Order of two numbers that are not NaNs; −0 equals +0. -/
def numLt : FNum → FNum → Bool
  | .nan, _ => false
  | _, .nan => false
  | .inf n1, .inf n2 => n1 && !n2
  | .inf n1, .fin _ _ _ => n1
  | .fin _ _ _, .inf n2 => !n2
  | .fin n1 m1 e1, .fin n2 m2 e2 =>
    let e := min e1 e2
    decide (alignTo n1 m1 e1 e < alignTo n2 m2 e2 e)

def FNum.isNan : FNum → Bool
  | .nan => true
  | _ => false

def FNum.neg : FNum → Bool
  | .nan => false
  | .inf n => n
  | .fin n _ _ => n

def FNum.isZero : FNum → Bool
  | .fin _ 0 _ => true
  | _ => false

/-- An FP32 operand written as the zero that FLUSH read it as (07_lane_arith.md R161). -/
def flushWord (flush : Bool) (a : Word) : Word :=
  match flFP32.read flush a.toNat with
  | .fin n 0 _ => BitVec.ofNat 32 (flFP32.signBit n)
  | _ => a

/-- fmin and fmax: −0 below +0; a NaN yields the other operand (07_lane_arith.md R161). -/
def fMinMax (wantMax flush : Bool) (a b : Word) : Flagged Word :=
  let x := flFP32.read flush a.toNat
  let y := flFP32.read flush b.toNat
  let a1 := flushWord flush a
  let b1 := flushWord flush b
  if x.isNan && y.isNan then ⟨BitVec.ofNat 32 flFP32.nan, 0⟩
  else if x.isNan then ⟨b1, 0⟩
  else if y.isNan then ⟨a1, 0⟩
  else
    let less := numLt x y || (!numLt y x && x.neg && !y.neg)
    ⟨if less = wantMax then b1 else a1, 0⟩

/-- The comparison of fcmp and its flags (07_lane_arith.md R163). -/
def fCompare (c : FloatCond) (flush : Bool) (a b : Word) : Flagged Bool :=
  let x := flFP32.read flush a.toNat
  let y := flFP32.read flush b.toNat
  let un := x.isNan || y.isNan
  let eq := !un && !numLt x y && !numLt y x
  let inv := if un then fNV else 0
  match c with
  | .eq => ⟨eq, 0⟩
  | .ne => ⟨!eq, 0⟩
  | .lt => ⟨numLt x y, inv⟩
  | .le => ⟨!un && !numLt y x, inv⟩
  | .gt => ⟨numLt y x, inv⟩
  | .ge => ⟨!un && !numLt x y, inv⟩
  | .un => ⟨un, 0⟩
  | .ord => ⟨!un, 0⟩

/-! ## Conversions (07_lane_arith.md R165, 05_formats.md R119) -/

/-- The float format of a code, if it is one. -/
def Fmt.fl? : Fmt → Option Fl
  | .fp32 => some flFP32
  | .fp16 => some flFP16
  | .bf16 => some flBF16
  | .e4m3 => some flE4M3
  | .e5m2 => some flE5M2
  | _ => none

/-- Width in bits of a format as it sits in a register (05_formats.md R110). -/
def Fmt.width : Fmt → Nat
  | .fp32 | .int32 | .uint32 => 32
  | .fp16 | .bf16 => 16
  | _ => 8

/-- Range of an integer format. -/
def Fmt.range : Fmt → Int × Int
  | .int32 => (-(2 ^ 31), 2 ^ 31 - 1)
  | .uint32 => (0, 2 ^ 32 - 1)
  | _ => (-128, 127)

/-- A source of fcvt as a number (05_formats.md R110, R116). -/
def readFmt (f : Fmt) (flush : Bool) (a : Word) : FNum :=
  match Fmt.fl? f with
  | some l => l.read flush (a.toNat % 2 ^ Fmt.width f)
  | none =>
    let v : Int := match f with
      | .int32 => a.toInt
      | .uint32 => a.toNat
      | _ => (a.setWidth 8).toInt
    .fin (decide (v < 0)) v.natAbs 0

/-- An integer as a 32-bit register value. -/
def intWord (v : Int) : Word := BitVec.ofInt 32 v

/-- A value converted to an integer format (05_formats.md R119). -/
def toIntFmt (t : Fmt) (fromFloat : Bool) (mode : Rnd) : FNum → Flagged Word
  | .nan => ⟨0, fNV⟩
  | .inf n => ⟨intWord (if n then (Fmt.range t).1 else (Fmt.range t).2), fNV⟩
  | .fin n m e =>
    let (num, den) := if 0 ≤ e then (m * 2 ^ e.toNat, 1) else (m, 2 ^ (-e).toNat)
    let k := roundInt (if fromFloat then mode else .zero) n num den
    let v : Int := if n then -(k : Int) else k
    if v < (Fmt.range t).1 then ⟨intWord (Fmt.range t).1, fNV⟩
    else if (Fmt.range t).2 < v then ⟨intWord (Fmt.range t).2, fNV⟩
    else ⟨intWord v, if k * den = num then 0 else fNX⟩

/-- A value converted to a float format (05_formats.md R111, R112). -/
def toFloatFmt (f : Fl) (mode : Rnd) (ieee flush : Bool) : FNum → Flagged Word
  | .nan => ⟨BitVec.ofNat 32 f.nan, 0⟩
  | .inf n =>
    if f.fp8 && !ieee then ⟨BitVec.ofNat 32 (f.maxfin n), fOF + fNX⟩ else ⟨BitVec.ofNat 32 (f.inf n), 0⟩
  | .fin n m e =>
    let r := f.roundDy mode ieee flush n m e
    ⟨BitVec.ofNat 32 r.val, r.flags⟩

/-- fcvt (07_lane_arith.md R165). -/
def fConvert (t u : Fmt) (mode : Rnd) (ieee flush : Bool) (a : Word) : Flagged Word :=
  let v := readFmt u flush a
  match Fmt.fl? t with
  | some f => toFloatFmt f mode ieee flush v
  | none => toIntFmt t (Fmt.fl? u).isSome mode v

/-- A narrow float of a conversion by copy engine or quantiser: value and flags (05_formats.md R113). -/
def narrow (f : Fl) (ieee : Bool) (a : Word) : Flagged Word := toFloatFmt f .nearest ieee false (flFP32.decode a.toNat)

end Sys2Proof.Machine
end

