-- ==== Sys2Proof/Machine/Phys.lean ====
section
/-! DEFINITION. Physical memory: places in the stacks, promoted rows, the bytes of the stacks in canonical form, holes
and the range table (10_memory.md R262 to R271, 15_isolation.md R408, R409). -/

namespace Sys2Proof.Machine

/-! ## Places (10_memory.md R263, R264) -/

def gib : Nat := 2 ^ 30

/-- A place in the stacks: stack 0 to 11, channel 0 to 63, bank 0 to 63 of the channel, row and byte in the row. -/
structure Place where
  stack : Nat
  chan : Nat
  bank : Nat
  row : Nat
  col : Nat
  deriving DecidableEq, Repr

/-- Die of a place. -/
def Place.die (p : Place) : Nat := p.stack / 6

/-- Bank index 64 × channel + bank (10_memory.md R267). -/
def Place.bankIx (p : Place) : Nat := 64 * p.chan + p.bank

/-- Place of a quarter-00 offset (10_memory.md R263). -/
def placeOf (o : Nat) : Place :=
  let die := if 384 * gib ≤ o then 1 else 0
  let dd := o - die * (384 * gib)
  let g := dd / 1024
  let q := g / 6
  { stack := 6 * die + g % 6, chan := q % 64, bank := q / 64 % 64, row := q / 4096 % 16384, col := dd % 1024 }

/-- Place of a fast-direct offset (10_memory.md R264). -/
def fastPlaceOf (o : Nat) : Place :=
  let die := if 24 * gib ≤ o then 1 else 0
  let dd := o - die * (24 * gib)
  let g := dd / 1024
  let q := g / 6
  { stack := 6 * die + g % 6, chan := q % 64, bank := q / 64 % 64, row := 15360 + q / 4096 % 1024, col := dd % 1024 }

/-- Quarter-00 offset of a place. -/
def Place.off (p : Place) : Nat :=
  p.die * (384 * gib) + ((p.chan + 64 * p.bank + 4096 * p.row) * 6 + p.stack % 6) * 1024 + p.col

/-- Quarter of a physical address (10_memory.md R262). -/
def quarter (pa : Nat) : Nat := pa / 2 ^ 46 % 4

/-- The quarter-00 address of the same bytes (10_memory.md R257). -/
def canonPa (pa : Nat) : Nat := if quarter pa = 1 then (fastPlaceOf (pa % 2 ^ 46)).off else pa

/-- Home die of a quarter-00 address (10_memory.md R256). -/
def homeOf (a : Nat) : Nat := if 384 * gib ≤ a then 1 else 0

/-- FSCFG of a bank of a stack: the number of promotion slots (10_memory.md R265, R267). -/
def State.slotsOf (s : State) (stack bankIx : Nat) : Nat := field (s.reg (baseBlk stack (0x00100000 + 8 * bankIx))) 10 0

/-- A place that only a promotion slot occupies is a hole (10_memory.md R264). -/
def State.slotRow (s : State) (p : Place) : Bool :=
  decide (15360 ≤ p.row) && decide (p.row - 15360 < s.slotsOf p.stack p.bankIx)

/-- A hole (10_memory.md R262, R264). -/
def State.hole (s : State) (pa : Nat) : Bool :=
  let o := pa % 2 ^ 46
  match quarter pa with
  | 0 => decide (768 * gib ≤ o) || s.slotRow (placeOf o)
  | 1 => decide (48 * gib ≤ o) || s.slotRow (fastPlaceOf o)
  | _ => false

/-! ## Promoted rows (10_memory.md R266, R270) -/

/-- Key of the slot-table entry of fast row f of a bank. -/
def slotKey (stack bankIx f : Nat) : Nat := (stack * 4096 + bankIx) * 1024 + f

/-- The slot that holds a row of a bank, if any. -/
def slotOf? (slots : SMap SlotEnt) (stack bankIx row : Nat) : Option (Nat × SlotEnt) :=
  List.find? (fun p => decide (p.1 / 1024 = stack * 4096 + bankIx) && decide (p.2.hrow = row)) slots

/-- Where the bytes of a quarter-00 offset stand: in the slot that serves its row, else in the row itself
(10_memory.md R270). -/
def Mem.standsAt (m : Mem) (o : Nat) : Nat :=
  match m.slots with
  | [] => o
  | _ =>
    let p := placeOf o
    match slotOf? m.slots p.stack p.bankIx p.row with
    | some (k, _) => ({ p with row := 15360 + k % 1024 } : Place).off
    | none => o

/-- A byte of the stacks. -/
def Mem.stackGet (m : Mem) (o : Nat) : Byte := cellGet m.bytes (m.standsAt o)

/-- Write a byte of the stacks; a slot that serves its row becomes dirty (10_memory.md R270). -/
def Mem.stackSet (m : Mem) (o : Nat) (v : Byte) : Mem :=
  match m.slots with
  | [] => { m with bytes := cellSet m.bytes o v }
  | _ =>
    let p := placeOf o
    match slotOf? m.slots p.stack p.bankIx p.row with
    | some (k, e) => { m with bytes := cellSet m.bytes ({ p with row := 15360 + k % 1024 } : Place).off v,
                              slots := m.slots.set k { e with dirty := true } }
    | none => { m with bytes := cellSet m.bytes o v }

/-- Copy bytes of a row to another row of its bank, from column c on. -/
def copyRow (m : List Host.Cell) (src dst : Place) : Nat → List Host.Cell
  | 0 => m
  | n + 1 => copyRow (cellSet m ({ dst with col := n } : Place).off (cellGet m ({ src with col := n } : Place).off)) src dst n

/-- Copy a row to another row of its bank inside the base die; sectors in error stay in error (10_memory.md R268, R269,
16_recovery.md R439). -/
def Mem.moveRow (m : Mem) (src dst : Place) : Mem :=
  let a := src.off / 32
  let b := dst.off / 32
  { m with bytes := copyRow m.bytes src dst 1024
           bad := (m.bad.filter (fun x => !(decide (b ≤ x) && decide (x < b + 32)))) ++
             ((m.bad.filter (fun x => decide (a ≤ x) && decide (x < a + 32))).map (fun x => x - a + b)) }

/-- The place of fast row f of a bank. -/
def slotPlace (stack bankIx f : Nat) : Place :=
  { stack := stack, chan := bankIx / 64, bank := bankIx % 64, row := 15360 + f, col := 0 }

/-- The sector of a quarter-00 address is stored poisoned (16_recovery.md R439). -/
def Mem.poison (m : Mem) (o : Nat) : Mem :=
  let sec := m.standsAt o / 32
  { m with bad := sec :: m.bad.filter (fun x => !decide (x = sec)), poisons := m.poisons ++ [sec] }

/-- An operation of 10_memory.md R271 occupies a bank for 64 ns, 100 channel cycles; it counts for the requests that wait at
the channel (21_prog_segments.md R504). -/
def Mem.bankOp (m : Mem) (stack bankIx : Nat) : Mem :=
  let k := 64 * stack + bankIx / 64
  let c := m.chans.get Chan.dflt k
  let b := bankIx % 64
  let d : Chan :=
    { c with busy := c.busy.set b (max c.now (c.busy.get 0 b) + 100)
             reqs := c.reqs.map (fun r => if r.arrived.isSome then { r with bankOps := r.bankOps + 1 } else r) }
  { m with chans := m.chans.set k d }

/-- Write a dirty slot back to its home row, whose sectors are stored poisoned where the slot's are in error (10_memory.md R268,
R269, 16_recovery.md R439). -/
def Mem.writeBackSlot (m : Mem) (stack bankIx f : Nat) (e : SlotEnt) : Mem :=
  let p := slotPlace stack bankIx f
  let home : Place := { p with row := e.hrow }
  if e.dirty then
    let m1 := (m.bankOp stack bankIx).moveRow p home
    { m1 with poisons := m1.poisons ++
        m1.bad.filter (fun x => decide (home.off / 32 ≤ x) && decide (x < home.off / 32 + 32)) }
  else m

/-! ## The range table (15_isolation.md R408, R409) -/

/-- A range-table word in force: while SYNC runs, the word from before or the new one (15_isolation.md R409). -/
def State.rangeWord (s : State) (a : Nat) : Word64 :=
  match SMap.find? s.sys.rangeOld a with
  | some old => if Config.freeBool (1024 * s.tick + 1000) then old else s.reg a
  | none => s.reg a

/-- Range-table entry e grants an access of a partition (15_isolation.md R408). -/
def State.rangeGrants (s : State) (e part pa : Nat) (write : Bool) : Bool :=
  let w0 := s.rangeWord (pkgBlk (0x10000 + 16 * e))
  let w1 := s.rangeWord (pkgBlk (0x10008 + 16 * e))
  bitAt w0 63 && decide (field w0 59 56 = part) && decide (field w0 46 21 ≤ pa / 2 ^ 21) &&
  decide (pa / 2 ^ 21 ≤ field w1 46 21) && (!write || bitAt w0 62)

/-- An access to quarter 00 or 01 is allowed (15_isolation.md R409, R429). -/
def State.allowed (s : State) (part pa : Nat) (write : Bool) : Bool :=
  decide (quarter pa < 2) && !s.hole pa && !s.sys.off (homeOf (canonPa pa)) &&
  (List.range 128).any (fun e => s.rangeGrants e part pa write)

/-- The union of all valid entries, for physical function 0 (15_isolation.md R432). -/
def State.allowedAny (s : State) (pa : Nat) (write : Bool) : Bool :=
  (List.range 16).any (fun p => s.allowed p pa write)

/-- Node n is open to a partition, and by which of its ports that are up its accesses leave; where none of them is congruent to n, the
rule names no port: a free choice, one for the node (15_isolation.md R429, R433; log entry 66). -/
def State.portOf (s : State) (part node : Nat) : Option Nat :=
  let mask := s.reg (pkgBlk (0x61000 + 32 * part + 8 * (node / 64)))
  let owned := (List.range 64).filter (fun n =>
    let v := s.reg (pkgBlk (0x60000 + 8 * n))
    bitAt v 7 && decide (field v 3 0 = part) && !s.sys.off (n / 32))
  if bitAt mask (node % 64) && !owned.isEmpty then
    match owned.find? (fun n => decide (n % owned.length = node % owned.length)) with
    | some n => some n
    | none => owned[Config.freeDelay (2 ^ 65 + 256 * part + node) % owned.length]?
  else none

/-! ## Freezing (15_isolation.md R413, R414) -/

/-- Kinds of an access (15_isolation.md R414). -/
inductive AccKind where
  | read | write | atomic | fetch | walk
  deriving DecidableEq, Repr

def AccKind.num : AccKind → Nat
  | .read => 0
  | .write => 1
  | .atomic => 2
  | .fetch => 3
  | .walk => 4

/-- The access writes, for the range table. -/
def AccKind.writes : AccKind → Bool
  | .write | .atomic => true
  | _ => false

/-- Stop the master of a code (15_isolation.md R414). -/
def State.stopMaster (s : State) (code : Nat) (stop : Bool) : State :=
  let ix := code % 4096
  match code / 4096 with
  | 0 => s.updCore ix (fun c => { c with frozen := stop })
  | 1 => s.updCluster ix (fun g => { g with copyFrozen := stop })
  | 2 => s.updCluster ix (fun g => { g with gathFrozen := stop })
  | 3 => { s with cmdQueues := s.cmdQueues.set ix { s.cmdQueues.get CmdQueue.dflt ix with frozen := stop } }
  | 4 => { s with frozenFns := if stop then ix :: s.frozenFns.filter (fun f => !decide (f = ix))
                               else s.frozenFns.filter (fun f => !decide (f = ix)) }
  | _ => s

/-- A partition violation: the freeze record, vector 0 of physical function 0, and the master stopped
(15_isolation.md R413, R414). -/
def State.freeze (s : State) (m : Master) (pa : Nat) (k : AccKind) : State :=
  let n := (s.reg (pkgBlk 0x41000)).toNat
  let rec_ := bytesOf 8 pa ++ bytesOf 4 (m.lid.getD 0xFFFFFFFF) ++ bytesOf 2 m.code ++ bytesOf 1 k.num ++
    bytesOf 1 m.part ++ bytesOf 8 0 ++ bytesOf 8 0
  let s1 := { s with devBytes := putBytes s.devBytes (pkgBlk 0x40000 + 32 * (n % 64)) rec_ }
  ((s1.setReg (pkgBlk 0x41000) (BitVec.ofNat 64 ((n + 1) % 2 ^ 32))).raise 0 0).stopMaster m.code true

end Sys2Proof.Machine
end

