-- ==== Sys2Proof/Machine/Memory.lean ====
section
/-! DEFINITION. The two L2s, the writes on their way across the strait, the granules of the synchronisation engines, and
what each die sees (10_memory.md R255 to R261, 11_ordering.md R283 to R298). Addresses are quarter-00 addresses. -/

namespace Sys2Proof.Machine

/-! ## Lines -/

/-- Byte k of a line. -/
def lineGet (d : BitVec 1024) (k : Nat) : Byte := d.extractLsb' (8 * k) 8

/-- The bits of the bytes that a byte mask names. -/
def spread (m : BitVec 128) : BitVec 1024 :=
  (List.range 128).foldl (fun x k => if bitAt m k then x ||| (BitVec.ofNat 1024 255 <<< (8 * k)) else x) 0

/-- Put the bytes that a mask names into a line. -/
def lineMerge (old new : BitVec 1024) (m : BitVec 128) : BitVec 1024 :=
  let x := spread m
  (old &&& ~~~x) ||| (new &&& x)

/-- A line from a function of its bytes. -/
def lineOf (f : Nat → Byte) : BitVec 1024 :=
  (List.range 128).foldl (fun x k => x ||| ((f k).setWidth 1024 <<< (8 * k))) 0

/-- n bytes from offset k on, as a byte mask. -/
def runMask (k n : Nat) : BitVec 128 := BitVec.ofNat 128 (2 ^ n - 1) <<< k

/-- n bytes from offset k on that hold v, as line data. -/
def runData (k v : Nat) : BitVec 1024 := BitVec.ofNat 1024 v <<< (8 * k)

/-- Bytes k to k + n − 1 of a line as a number. -/
def lineRun (d : BitVec 1024) (k n : Nat) : Nat := d.toNat / 2 ^ (8 * k) % 2 ^ (8 * n)

def lineKey (d line : Nat) : Nat := d * 2 ^ 41 + line

/-- Home slice of a line on a die (10_memory.md R255). -/
def sliceOf (pa : Nat) : Nat :=
  let f (lo : Nat) := pa / 2 ^ lo % 128
  f 7 ^^^ f 14 ^^^ f 21 ^^^ f 28 ^^^ f 35 ^^^ (pa / 2 ^ 42 % 16)

/-! ## Epochs (11_ordering.md R287) -/

def Mem.epoch (m : Mem) (d : Nat) : Nat := if d = 0 then m.e0 else m.e1

/-- A release or fence.sc at device or system scope on die d. -/
def Mem.bump (m : Mem) (d : Nat) : Mem := if d = 0 then { m with e0 := m.e0 + 1 } else { m with e1 := m.e1 + 1 }

/-- The second component of a clock on die d: the epoch of the other die below which everything is applied. -/
def Mem.appliedTo (m : Mem) (d : Nat) : Nat :=
  (m.strait.filter (fun g => !decide (g.src = d))).foldl (fun k g => min k g.k) (m.epoch (1 - d))

/-! ## What a die sees -/

def Mem.line? (m : Mem) (d line : Nat) : Option L2Line := m.l2.find? (lineKey d line)

def Mem.setLine (m : Mem) (d line : Nat) (l : L2Line) : Mem := { m with l2 := m.l2.set (lineKey d line) l }

def Mem.granule? (m : Mem) (a : Nat) : Option Granule := m.granules.find? (a / 8)

def Mem.setGranule (m : Mem) (a : Nat) (g : Granule) : Mem := { m with granules := m.granules.set (a / 8) g }

/-- The epoch of a die in its order that a write to a granule carries (11_ordering.md R287). -/
def Granule.stamp (g : Granule) (d k : Nat) : Granule := if d = 0 then { g with clk0 := max g.clk0 k } else { g with clk1 := max g.clk1 k }

/-- The tag of a granule after an access of a tensor id that writes it (10_memory.md R260). -/
def Granule.retag (g : Granule) (tid part : Nat) : Granule := if tid = 0 then g else { g with tid := tid, part := part }

/-- A byte of a granule's value. -/
def Granule.byte (g : Granule) (a : Nat) : Byte := g.val.extractLsb' (8 * (a % 8)) 8

/-- The byte as the home die's L2 or the stack holds it. -/
def Mem.under (m : Mem) (a : Nat) : Byte :=
  match m.line? (homeOf a) (a / 128) with
  | some l => lineGet l.data (a % 128)
  | none => m.stackGet a

/-- The byte at its home: the engine's while it holds the granule (11_ordering.md R296). -/
def Mem.atHome (m : Mem) (a : Nat) : Byte :=
  match m.granule? a with
  | some g => g.byte a
  | none => m.under a

/-- The latest write of a die to a byte that is still on its way across the strait. -/
def Mem.onWay (m : Mem) (d a : Nat) : Option Byte :=
  m.strait.foldl (fun r g =>
    if g.src = d ∧ g.line = a / 128 ∧ bitAt g.mask (a % 128) then some (lineGet g.data (a % 128)) else r) none

/-- The byte that an access made on die d at L2 reads (11_ordering.md R284, R285, R289, R296). -/
def Mem.look (m : Mem) (d a : Nat) : Byte :=
  if homeOf a = d then m.atHome a
  else
    match m.onWay d a with
    | some b => b
    | none =>
      match m.granule? a with
      | some g => g.byte a
      | none =>
        match m.line? d (a / 128) with
        | some l => lineGet l.data (a % 128)
        | none => m.under a

/-- n bytes as an access on die d reads them. -/
def Mem.lookN (m : Mem) (d a : Nat) : Nat → List Byte
  | 0 => []
  | n + 1 => m.look d a :: Mem.lookN m d (a + 1) n

def Mem.lookLine (m : Mem) (d line : Nat) : BitVec 1024 := lineOf (fun k => m.look d (128 * line + k))

/-! ## Requests on their way to a channel (10_memory.md R272 to R276, 13_scheduling.md R375) -/

/-- A channel of a stack. -/
def Mem.chan (m : Mem) (stack chan : Nat) : Chan := m.chans.get Chan.dflt (64 * stack + chan)

def Mem.setChan (m : Mem) (stack chan : Nat) (c : Chan) : Mem := { m with chans := m.chans.set (64 * stack + chan) c }

/-- A request goes on to its channel. -/
def Mem.toChan (m : Mem) (a : Nat) (r : ChanReq) : Mem :=
  let p := placeOf a
  m.setChan p.stack p.chan { m.chan p.stack p.chan with reqs := (m.chan p.stack p.chan).reqs ++ [r] }

/-- A request for bytes of the stacks: that of a cluster reaches the arbiter of their stack, any other one, which no arbiter
counts or holds, its channel (10_memory.md R272, 13_scheduling.md R375). -/
def Mem.request (m : Mem) (q : Master) (a bytes : Nat) (write : Bool) : Mem :=
  let p := placeOf a
  let r : ChanReq := { row := p.row, bank := p.bank, cls := q.cls, slackNs := q.slack, id := q.rid, write := write,
                       arrived := none, aged := false, lid := q.lid }
  match q.clu with
  | some g =>
    let b := m.arbs.get Arb.dflt p.stack
    let x : ArbReq := { clu := g, bytes := bytes, pa := a, holdable := q.hold && !write, req := r }
    { m with arbs := m.arbs.set p.stack { b with arriving := b.arriving ++ [x] } }
  | none => m.toChan a r

/-- Who requests the write-back of a line (10_memory.md R272, R276). -/
def backMaster (d : Nat) : Master :=
  { die := d, part := 0, space := 0, lid := none, code := 0, tid := 0, cls := 3, slack := 65536, rid := 270 + d }

/-- The synchronisation engine's own requests, for its overflow area and for a granule that it gives up: the requester id is the
model's, for the manual's table has none (10_memory.md R272, R276; log entry 131). -/
def syncMaster (d : Nat) : Master :=
  { die := d, part := 0, space := 0, lid := none, code := 0, tid := 0, cls := 0, slack := 512, rid := 274 }

/-! ## Errors on the way (16_recovery.md R438, R439) -/

/-- Errors that pass a test are gone. -/
def Mem.clear (m : Mem) (p : Upset → Bool) : Mem :=
  if m.upsets.isEmpty then m else { m with upsets := m.upsets.filter (fun u => !p u) }

/-- An error in a word of a die's L2. -/
def Upset.inL2 (d line : Nat) : Upset → Bool
  | .l2 e w => decide (e = d) && decide (w / 16 = line)
  | _ => false

/-- The sectors of the bytes of a mask that a die's L2 holds in error are stored poisoned. -/
def Mem.poisonFrom (m : Mem) (d line : Nat) (mask : BitVec 128) : Mem :=
  if m.upsets.isEmpty then m
  else (List.range 16).foldl (fun m k =>
    if mask &&& runMask (8 * k) 8 ≠ 0 ∧ m.upsets.contains (.l2 d (16 * line + k)) then m.poison (128 * line + 8 * k) else m) m

/-! ## Write-back and room (10_memory.md R255, R256) -/

/-- A dirty line of the home L2 is written back to the stack, as a request of the L2; a sector with an error in it is stored
poisoned (10_memory.md R256, R272, 16_recovery.md R439). -/
def Mem.writeBack (m : Mem) (line : Nat) : Mem :=
  let h := homeOf (128 * line)
  match m.line? h line with
  | some l =>
    if l.dirty = 0 then m
    else
      let m1 := (List.range 128).foldl (fun m k =>
        if bitAt l.dirty k then m.stackSet (128 * line + k) (lineGet l.data k) else m) (m.poisonFrom h line l.dirty)
      (m1.setLine h line { l with dirty := 0 }).request (backMaster h) (128 * line) 128 true
  | none => m

/-- A line leaves a die's L2: its dirty bytes go to the stack, and the epoch of what leaves with it is kept
(10_memory.md R256, 11_ordering.md R287). -/
def Mem.evict (m : Mem) (d line : Nat) : Mem :=
  if d = homeOf (128 * line) then
    let m1 := (m.writeBack line).clear (Upset.inL2 d line)
    let k := ((m.line? d line).map (fun l => l.clk)).getD 0
    { m1 with l2 := m1.l2.del (lineKey d line), lineClk := if k = 0 then m1.lineClk else m1.lineClk.set line k }
  else { m.clear (Upset.inL2 d line) with l2 := m.l2.del (lineKey d line) }

/-- A slice holds 12 ways of 1,024 sets: where the 12 ways of the line's set are taken, one of them is given up, which changes
timing only; the set of a line and the line that goes are free choices (10_memory.md R255; log entry 20). -/
def Mem.roomFor (m : Mem) (d line : Nat) : Mem :=
  let slice := m.l2.filter (fun p => decide (p.1 / 2 ^ 41 = d) && decide (sliceOf (128 * (p.1 % 2 ^ 41)) = sliceOf (128 * line)))
  if slice.length < 12 then m
  else
    let set := slice.filter (fun p => decide (Config.l2Set (p.1 % 2 ^ 41) % 1024 = Config.l2Set line % 1024))
    if set.length < 12 then m
    else
      match set[Config.freeDelay (2 ^ 64 + lineKey d line) % set.length]? with
      | some p => m.evict d (p.1 % 2 ^ 41)
      | none => m

/-! ## Bringing a line into the home L2 -/

/-- The epoch of the latest write on its home die to a line (11_ordering.md R287). -/
def Mem.homeClk (m : Mem) (line : Nat) : Nat :=
  match m.line? (homeOf (128 * line)) line with
  | some l => l.clk
  | none => m.lineClk.get 0 line

/-- The home die's L2 holds the line: where it did not, by a request of the access (10_memory.md R272). -/
def Mem.fillHome (m : Mem) (q : Master) (line : Nat) (write : Bool) : Mem :=
  let h := homeOf (128 * line)
  match m.line? h line with
  | some _ => m
  | none =>
    let m1 := ((m.request q (128 * line) 128 write).roomFor h line).clear (Upset.inL2 h line)
    m1.setLine h line
      { data := lineOf (fun k => m1.stackGet (128 * line + k)), dirty := 0, tid := q.tid, part := q.part, clk := m1.homeClk line }

/-- The tag of a line of L2 after a write by an access (10_memory.md R260). -/
def L2Line.retag (l : L2Line) (q : Master) : L2Line := if q.tid = 0 then l else { l with tid := q.tid, part := q.part }

/-- Write bytes of the home line (10_memory.md R256, R260); clk is the epoch of a write made on the home die. -/
def Mem.writeHome (m : Mem) (q : Master) (line : Nat) (mask : BitVec 128) (data : BitVec 1024) (clk : Nat) : Mem :=
  let h := homeOf (128 * line)
  let m1 := m.fillHome q line true
  match m1.line? h line with
  | some l =>
    m1.setLine h line
      (L2Line.retag { l with data := lineMerge l.data data mask, dirty := l.dirty ||| mask, clk := max l.clk clk } q)
  | none => m1

/-- The bytes of a line that the synchronisation engine holds. -/
def Mem.heldMask (m : Mem) (line : Nat) : BitVec 128 :=
  m.granules.foldl (fun x p => if p.1 / 16 = line then x ||| runMask (8 * (p.1 % 16)) 8 else x) 0

/-- Write bytes of a line into the granules that the engine holds (11_ordering.md R296). -/
def Mem.writeGranules (m : Mem) (line : Nat) (mask : BitVec 128) (data : BitVec 1024) (f : Granule → Granule) : Mem :=
  let one (k : Nat) (g : Granule) : Granule :=
    if k / 16 = line then
      let bits := (spread mask).extractLsb' (64 * (k % 16)) 64
      if bits = 0 then g
      else f { g with val := (g.val &&& ~~~bits) ||| (data.extractLsb' (64 * (k % 16)) 64 &&& bits) }
    else g
  { m with granules := mapVals one m.granules }

/-! ## The strait (11_ordering.md R288) -/

/-- Take bytes out of the messages of a die for a line. -/
def Mem.unsend (m : Mem) (src line : Nat) (mask : BitVec 128) : Mem :=
  let cut := m.strait.map (fun g =>
    if g.src = src ∧ g.line = line then { g with mask := g.mask &&& ~~~mask } else g)
  { m with strait := cut.filter (fun g => !decide (g.mask = 0)) }

/-- The words that a message brings in error stand so in a die's L2, or in the engine (16_recovery.md R438). -/
def Mem.bring (m : Mem) (d : Nat) (g : Msg) : Mem :=
  if g.bad = 0 then m
  else
    let ws := ((List.range 16).filter (fun k => bitAt g.bad k && decide (g.mask &&& runMask (8 * k) 8 ≠ 0))).map (fun k => 16 * g.line + k)
    { m with upsets := m.upsets ++ ws.map (fun w => if (m.granules.find? w).isSome then .sync w else .l2 d w) }

/-- The other die applies a write that has been taken off the strait (11_ordering.md R284, R288). -/
def Mem.arrive (m : Mem) (g : Msg) : Mem :=
  let h := homeOf (128 * g.line)
  if g.src = h then
    let e := 1 - h
    let mine := m.strait.foldl (fun x q => if q.src = e ∧ q.line = g.line then x ||| q.mask else x) 0
    match m.line? e g.line with
    | some l => (m.setLine e g.line (L2Line.retag { l with data := lineMerge l.data g.data (g.mask &&& ~~~mine) } g.q)).bring e g
    | none => m
  else
    let held := m.heldMask g.line
    let m1 := m.writeGranules g.line (g.mask &&& held) g.data (fun x =>
      { (x.stamp g.src g.k).retag g.q.tid g.q.part with touched := true })
    let m2 := if g.mask &&& ~~~held = 0 then m1 else m1.writeHome g.q g.line (g.mask &&& ~~~held) g.data 0
    (m2.unsend h g.line g.mask).bring h g

/-- Apply some messages, oldest first; the others stay on their way. -/
def Mem.applyList (m : Mem) (l : List Msg) : Mem :=
  l.foldl (fun m g => if m.strait.contains g then { m with strait := m.strait.erase g }.arrive g else m) m

/-- Apply the messages that pass a test. -/
def Mem.applyAll (m : Mem) (p : Msg → Bool) : Mem := m.applyList (m.strait.filter p)

/-- Die 1 − src applies every write of die src with epoch below k. -/
def Mem.drain (m : Mem) (src k : Nat) : Mem := m.applyAll (fun g => decide (g.src = src) && decide (g.k < k))

/-- The writes of a die to a line arrive, and before them every write of its lower epochs. Where the line has part of a tile
record, every write of the die up to the record's last arrives, so that the record arrives whole (06_square_tiles.md R142). -/
def Mem.drainLine (m : Mem) (src line : Nat) : Mem :=
  let mine (g : Msg) : Bool := decide (g.src = src) && decide (g.line = line)
  let recs := ((m.strait.filter mine).map (fun g => g.rec_)).filter (fun k => !decide (k = 0))
  if recs.isEmpty then
    let top := (m.strait.filter mine).foldl (fun k g => max k g.k) 0
    (m.drain src top).applyAll mine
  else
    let n := (List.range m.strait.length).foldl (fun n i =>
      match m.strait[i]? with
      | some g => if g.src = src ∧ (g.line = line ∨ recs.contains g.rec_) then i + 1 else n
      | none => n) 0
    m.applyList ((m.strait.take n).filter (fun g => decide (g.src = src)))

/-- The places of the messages that arrive together with the one at a place (06_square_tiles.md R142). -/
def Mem.mates (m : Mem) (i : Nat) : List Nat :=
  match m.strait[i]? with
  | some g =>
    if g.rec_ = 0 then [i]
    else (List.range m.strait.length).filter (fun j =>
      match m.strait[j]? with
      | some q => decide (q.src = g.src) && decide (q.rec_ = g.rec_)
      | none => false)
  | none => []

/-- The message at a place, and those that arrive with it, may be applied: no write of a lower epoch of its die, and no earlier
write of that die to one of its bytes, is still on its way (11_ordering.md R284, R288). -/
def Mem.mayApply (m : Mem) (i : Nat) : Bool :=
  let one (j : Nat) : Bool :=
    match m.strait[j]? with
    | some g =>
      !(m.strait.any (fun q => decide (q.src = g.src) && decide (q.k < g.k))) &&
      !((m.strait.take j).any (fun q => decide (q.src = g.src) && decide (q.line = g.line) && !decide (q.mask &&& g.mask = 0)))
    | none => false
  decide (i < m.strait.length) && (m.mates i).all one

/-- The message at a place arrives, with those that arrive together with it. -/
def Mem.arriveAt (m : Mem) (i : Nat) : Mem := m.applyList ((m.mates i).filterMap (fun j => m.strait[j]?))

/-! ## Reading and writing at L2 -/

/-- The L2 of an access's die takes a line in, by a request where the home die's L2 does not hold it either; a guest copy first sees
the earlier epochs of its data (10_memory.md R272, 11_ordering.md R288). -/
def Mem.fetch (m : Mem) (q : Master) (line : Nat) (write : Bool) : Mem :=
  let h := homeOf (128 * line)
  if q.die = h then m.fillHome q line write
  else
    match m.line? q.die line with
    | some _ => m
    | none =>
      let m0 := match m.line? h line with
        | some _ => m
        | none => m.request q (128 * line) 128 write
      let m1 := ((m0.drain h (m0.homeClk line)).roomFor q.die line).clear (Upset.inL2 q.die line)
      let m2 := m1.setLine q.die line { data := m1.lookLine q.die line, dirty := 0, tid := q.tid, part := q.part, clk := 0 }
      { m2 with strait := m2.strait.filter (fun g => !(decide (g.src = h) && decide (g.line = line))) }

/-- The line comes into the L2 of an access's die. -/
def Mem.l2In (m : Mem) (q : Master) (line : Nat) (write : Bool) : Mem :=
  match m.line? q.die line with
  | some _ => m
  | none => m.fetch q line write

/-- A write of bytes of one line performed at its slice on the die of an access, with the die's epoch (10_memory.md R256,
11_ordering.md R285, R287, R296); rec_ is the number of a tile-record write, 0 for any other. Where an engine holds part of the
bytes, the others land on either die with it, so that no access finds the write in part (06_square_tiles.md R143). -/
def Mem.put (m : Mem) (q : Master) (line : Nat) (mask : BitVec 128) (data : BitVec 1024) (rec_ : Nat := 0) : Mem :=
  let d := q.die
  let h := homeOf (128 * line)
  let held := m.heldMask line &&& mask
  let rest := mask &&& ~~~held
  let m1 := if held = 0 then m
    else (if d = h then m else m.drainLine d line).writeGranules line held data (fun g =>
      (g.stamp d (m.epoch d)).retag q.tid q.part)
  if rest = 0 then m1
  else
    let msg : Msg := { src := d, line := line, data := data, mask := rest, k := m1.epoch d, k2 := m1.appliedTo d, q := q, rec_ := rec_ }
    let m2 := if d = h then m1.writeHome q line rest data (m1.epoch d)
      else match m1.line? d line with
        | some l => m1.setLine d line (L2Line.retag { l with data := lineMerge l.data data rest } q)
        | none => m1
    let m3 := { m2 with strait := m2.strait ++ [msg] }
    if held = 0 ∨ rec_ ≠ 0 then m3 else m3.drainLine d line

/-- Write n bytes, at most 8 and within one granule, as one single-copy atomic access (11_ordering.md R281). -/
def Mem.putN (m : Mem) (q : Master) (a n v : Nat) : Mem :=
  m.put q (a / 128) (runMask (a % 128) n) (runData (a % 128) (v % 2 ^ (8 * n)))

/-! ## What the host and fabric peers see (11_ordering.md R308; log entry 35) -/

/-- The bytes of a line that a mask names, as a die sees them. -/
def Mem.lookMask (m : Mem) (d line : Nat) (mask : BitVec 128) : BitVec 1024 :=
  lineOf (fun k => if bitAt mask k then m.look d (128 * line + k) else 0)

/-- An agent knows of bytes: it wrote them, or has observed them. All of a task knows what one of its agents knows
(11_ordering.md R290). -/
def Wrote.known (x : Wrote) (a : Agent) : Bool :=
  let one (b : Agent) : Bool := decide (b = a) || (decide (b.1 = a.1) && decide (b.2 / 64 = a.2 / 64) &&
    (decide (a.2 % 64 = 63) || decide (b.2 % 64 = 63)))
  one (x.lid, x.by_) || x.seenBy.any one

/-- An agent observes the bytes, by a read or an acquire. -/
def Wrote.seen (a : Agent) (x : Wrote) : Wrote :=
  if x.seenBy.contains a || decide ((x.lid, x.by_) = a) then x else { x with seenBy := x.seenBy ++ [a] }

/-- An agent that knows of the bytes releases. -/
def Wrote.offer (a : Agent) (x : Wrote) : Wrote := if x.known a then { x with offered := true } else x

/-- An agent acquires: it takes over all that has been released so far (log entry 35). -/
def Wrote.take (a : Agent) (x : Wrote) : Wrote := if x.offered then x.seen a else x

/-- What one agent knows another takes over. -/
def Wrote.pass (a b : Agent) (x : Wrote) : Wrote := if x.known a then x.seen b else x

/-- Agents that meet know what one of them knows. -/
def Wrote.share (l : List Agent) (x : Wrote) : Wrote := if l.any x.known then l.foldl (fun x a => x.seen a) x else x

/-- An agent is about to write bytes of a line: the host and fabric peers, which act on die d, go on seeing what they hold
now. -/
def Mem.hide (m : Mem) (d line : Nat) (x : Wrote) : Mem :=
  let fresh (m : Mem) : Mem := { m with unseen := m.unseen ++ [{ line := line, w := x, old := m.lookMask d line x.mask }] }
  match (m.unseen.filter (fun u => decide (u.line = line))).getLast? with
  | some u =>
    if { u.w with mask := x.mask } ≠ x then fresh m
    else if x.mask &&& ~~~u.w.mask = 0 then m
    else
      let add := x.mask &&& ~~~u.w.mask
      let v : Unseen := { u with w := { u.w with mask := u.w.mask ||| add }, old := lineMerge u.old (m.lookMask d line add) add }
      { m with unseen := m.unseen.map (fun x => if x = u then v else x) }
  | none => fresh m

/-- What is still unseen once the bytes that pass a test are shown, and with them every byte that was written there before. -/
def unseenAfter (p : Wrote → Bool) : List Unseen → List Unseen
  | [] => []
  | u :: r =>
    let later := r.foldl (fun x v => if v.line = u.line ∧ p v.w then x ||| v.w.mask else x) 0
    if p u.w ∨ u.w.mask &&& ~~~later = 0 then unseenAfter p r
    else { u with w := { u.w with mask := u.w.mask &&& ~~~later } } :: unseenAfter p r

/-- A release of an agent at system scope: all that it knows of shows (11_ordering.md R290, R308). -/
def Mem.publish (m : Mem) (a : Agent) : Mem := { m with unseen := unseenAfter (fun x => x.known a) m.unseen }

/-- The end of a launch: all that one of its agents wrote or has observed shows (11_ordering.md R293, R308). -/
def Mem.publishAll (m : Mem) (lid : Nat) : Mem :=
  { m with unseen := unseenAfter (fun x => decide (x.lid = lid) || x.seenBy.any (fun a => decide (a.1 = lid))) m.unseen }

/-- A write that the host or a fabric peer made itself, or that the device's own processors release as they make it, shows
at once. -/
def Mem.reveal (m : Mem) (line : Nat) (mask : BitVec 128) : Mem :=
  let cut := m.unseen.map (fun u => if u.line = line then { u with w := { u.w with mask := u.w.mask &&& ~~~mask } } else u)
  { m with unseen := cut.filter (fun u => !decide (u.w.mask = 0)) }

/-- The byte that the host or a fabric peer reads on a die. -/
def Mem.hostByte (m : Mem) (d a : Nat) : Byte :=
  match m.unseen.find? (fun u => decide (u.line = a / 128) && bitAt u.w.mask (a % 128)) with
  | some u => lineGet u.old (a % 128)
  | none => m.look d a

/-- n bytes that the home L2 holds dirty go to the stack, as a request of the L2 (10_memory.md R270, R272, R277). -/
def Mem.writeThrough (m : Mem) (a n : Nat) : Mem :=
  match m.line? (homeOf a) (a / 128) with
  | some l =>
    let mask := l.dirty &&& runMask (a % 128) n
    if mask = 0 then m
    else
      let ks := (List.range n).filter (fun k => bitAt l.dirty (a % 128 + k))
      let m1 := m.poisonFrom (homeOf a) (a / 128) mask
      ((ks.foldl (fun m k => m.stackSet (a + k) (lineGet l.data (a % 128 + k))) m1).setLine (homeOf a) (a / 128)
        { l with dirty := l.dirty &&& ~~~mask }).request (backMaster (homeOf a)) a n true
  | none => m

/-- The value of bytes of one line, at most 16, at their bank, as an access of an agent of die d finds it: what the home L2 holds
dirty of them is in the bank first (10_memory.md R277, 21_prog_segments.md R503; log entry 52). -/
def Mem.bankRead (m : Mem) (d a n : Nat) : Mem × Nat :=
  let m1 := (if d = homeOf a then m else m.drainLine d (a / 128)).writeThrough a n
  (m1, ofBytes ((List.range n).map (fun k => m1.atHome (a + k))))

/-- A write of bytes of one line, at most 16, made at their bank, or at the engine that holds their granule; no L2 takes the line in
for it, and a copy that an L2 holds takes the bytes over (10_memory.md R277, 11_ordering.md R296, 21_prog_segments.md R503; log
entry 52). -/
def Mem.bankWrite (m : Mem) (q : Master) (a n v : Nat) : Mem :=
  let line := a / 128
  let d := q.die
  let h := homeOf a
  let mask := runMask (a % 128) n
  let data := runData (a % 128) (v % 2 ^ (8 * n))
  let m0 := if d = h then m else m.drainLine d line
  let held := m0.heldMask line &&& mask
  let rest := mask &&& ~~~held
  let m1 := m0.writeGranules line held data (fun g => (g.stamp d (m0.epoch d)).retag q.tid q.part)
  if rest = 0 then m1
  else
    let k := if d = h then m1.epoch d else 0
    let m2 := (List.range n).foldl (fun m j =>
      if bitAt rest (a % 128 + j) then m.stackSet (a + j) (lineGet data (a % 128 + j)) else m) m1
    let m3 := match m2.line? h line with
      | some l =>
        m2.setLine h line (L2Line.retag { l with data := lineMerge l.data data rest, dirty := l.dirty &&& ~~~rest, clk := max l.clk k } q)
      | none => if k = 0 then m2 else { m2 with lineClk := m2.lineClk.set line (max k (m2.lineClk.get 0 line)) }
    if d = h then
      let m4 := { m3 with strait := m3.strait ++
        [({ src := d, line := line, data := data, mask := rest, k := m3.epoch d, k2 := m3.appliedTo d, q := q } : Msg)] }
      if held = 0 then m4 else m4.drainLine d line
    else
      let m4 := m3.unsend h line rest
      match m4.line? d line with
      | some l => m4.setLine d line (L2Line.retag { l with data := lineMerge l.data data rest } q)
      | none => m4

/-! ## Synchronisation engines (11_ordering.md R296 to R298) -/

/-- The engine of the home die holds a granule; one that it takes in has the tag of its line, or of the access where the line
is not held (10_memory.md R260), and what is under way of a tile record in its line lands first (06_square_tiles.md R143). -/
def Mem.grab (m : Mem) (a stamp tid part : Nat) : Mem :=
  match m.granule? a with
  | some g => m.setGranule a { g with used := stamp }
  | none =>
    let h := homeOf a
    let line := a / 128
    let recs (d : Nat) : Bool := m.strait.any (fun g => decide (g.src = d) && decide (g.line = line) && !decide (g.rec_ = 0))
    let m0 := if recs 0 then m.drainLine 0 line else m
    let m1 := if recs 1 then m0.drainLine 1 line else m0
    let v := ofBytes ((List.range 8).map (fun k => m1.under (a / 8 * 8 + k)))
    let c := m1.homeClk line
    let tag := ((m1.line? h line).map (fun l => (l.tid, l.part))).getD (tid, part)
    let m2 := if m1.upsets.contains (.l2 h (a / 8)) then { m1 with upsets := m1.upsets ++ [.sync (a / 8)] }
      else m1.clear (fun u => decide (u = .sync (a / 8)))
    m2.setGranule a { val := BitVec.ofNat 64 v, clk0 := if h = 0 then c else 0, clk1 := if h = 0 then 0 else c, used := stamp,
                      tid := tag.1, part := tag.2 }

/-- The home die's copy of a line takes a tensor id other than 0 (10_memory.md R260). -/
def Mem.retagHome (m : Mem) (line tid part : Nat) : Mem :=
  match m.line? (homeOf (128 * line)) line with
  | some l => if tid = 0 then m else m.setLine (homeOf (128 * line)) line { l with tid := tid, part := part }
  | none => m

/-- The engine gives a granule up to its own address; every write that its epochs order before it is applied on either die
first, so that an acquire which has read it finds the same order (11_ordering.md R298). -/
def Mem.giveUp (m : Mem) (a : Nat) : Mem :=
  match m.granule? a with
  | none => m
  | some g =>
    let h := homeOf a
    let line := a / 128
    let k := a % 128 / 8 * 8
    let m1 := { m with granules := m.granules.del (a / 8) }
    let m2 := (m1.drain 0 g.clk0).drain 1 g.clk1
    let q : Master := { syncMaster h with tid := g.tid, part := g.part }
    let m3 := m2.writeHome q line (runMask k 8) (runData k g.val.toNat) (if h = 0 then g.clk0 else g.clk1)
    let m4 := if m3.upsets.contains (.sync (a / 8)) then
        { m3 with upsets := .l2 h (a / 8) :: m3.upsets.filter (fun u => !decide (u = .sync (a / 8))) } else m3
    let m5 := { m4 with l2 := m4.l2.del (lineKey (1 - h) line) }
    m5.unsend h line (runMask k 8)

/-- The writes of a die to the lines of some bytes, and of the other die to them, arrive before the access that follows: what a
copy engine's claims of a record's lines at their home slices come to (06_square_tiles.md R142). -/
def Mem.claim (m : Mem) (a n : Nat) : Mem :=
  (List.range (((a + n + 127) / 128) - a / 128)).foldl (fun m k => (m.drainLine 0 (a / 128 + k)).drainLine 1 (a / 128 + k)) m

/-- An acquire at device or system scope on die e that reads a granule: the earlier epochs of the other die's releases
are applied first (11_ordering.md R291). -/
def Mem.acquireAt (m : Mem) (e a : Nat) : Mem :=
  match m.granule? a with
  | some g => m.drain (1 - e) (if e = 0 then g.clk1 else g.clk0)
  | none => m

/-- An acquire fence at device or system scope on die e: the earlier epochs of every release of the other die that a
read at an engine may have returned are applied (11_ordering.md R291, R294). -/
def Mem.acquireSeen (m : Mem) (e : Nat) : Mem :=
  m.drain (1 - e) (m.granules.foldl (fun k p => max k (if e = 0 then p.2.clk1 else p.2.clk0)) 0)

/-- fence.sc at device or system scope on die d: the epoch closes, a ticket is taken, and every write before an earlier
ticket of the other die is visible (11_ordering.md R287, R295). -/
def Mem.fenceSc (m : Mem) (d : Nat) : Mem :=
  let m1 := (m.bump d).drain (1 - d) (if d = 0 then m.sc1 else m.sc0)
  if d = 0 then { m1 with tickets := m1.tickets + 1, sc0 := m1.e0 } else { m1 with tickets := m1.tickets + 1, sc1 := m1.e1 }

end Sys2Proof.Machine
end

