-- ==== Sys2Proof/Machine/Kill.lean ====
section
/-! DEFINITION. Dependence between launches, snapshots of pages, the start of a rollback, the errors that a read meets, and the room
of the synchronisation engines (11_ordering.md R298, R299, 16_recovery.md R439, R463 to R466). -/

namespace Sys2Proof.Machine

/-! ## Dependence (16_recovery.md R465, R466) -/

/-- One round of closing a set of launches under dependence, both ways. -/
def State.closeOnce (s : State) (l : List Nat) : List Nat :=
  s.launches.foldl (fun r p =>
    if r.contains p.1 then r
    else if p.2.deps.any r.contains || s.launches.any (fun q => r.contains q.1 && q.2.deps.contains p.1) then r ++ [p.1]
    else r) l

/-- The rollback set of a launch: closed under dependence (16_recovery.md R466 step 1). -/
def State.rollSet (s : State) (l : List Nat) : List Nat :=
  (List.range s.launches.length).foldl (fun r _ => s.closeOnce r) l

/-- Launches that depend on a launch lose that dependence, and keep what they depend on through it (16_recovery.md R460, R465). -/
def State.undepend (s : State) (lid : Nat) : State :=
  let up := (s.launch lid).deps
  { s with launches := mapVals (fun k x =>
      if x.deps.contains lid then
        { x with deps := (x.deps.filter (fun j => !decide (j = lid))) ++
            up.filter (fun j => !decide (j = k) && !decide (j = lid) && !x.deps.contains j) }
      else x) s.launches }

/-- The fault fields of a launch that is rolled back or killed only as a dependent (16_recovery.md R450). -/
def FaultRec.asDep (f : FaultRec) : FaultRec := { dep := true, addr := f.addr, escr := f.escr }

/-- The launch has been admitted and has neither ended nor been killed. -/
def Launch.alive (l : Launch) : Bool := l.st = .running || l.st = .halted || l.st = .saved

/-- The requests of clusters that the memory-side arbiters hold go on: a halt lifts every hold (13_scheduling.md R376,
16_recovery.md R453). -/
def Mem.liftHolds (m : Mem) (gs : List Nat) : Mem :=
  let mine (r : ArbReq) : Bool := gs.contains r.clu
  (m.arbs.flatMap (fun p => p.2.held.filter mine)).foldl (fun m r => m.toChan r.pa r.req)
    { m with arbs := mapVals (fun _ b => { b with held := b.held.filter (fun r => !mine r) }) m.arbs }

/-- The clusters in which a launch has something. -/
def State.clustersHolding (s : State) (lid : Nat) : List Nat :=
  ((s.warps.filter (fun p => p.2.resident && decide (p.2.lid = lid))).map (fun p => warpClu p.1) ++
    (s.clusters.filter (fun p => p.2.queue.any (fun r => decide (r.lid = lid)) || p.2.leases.any (fun l => decide (l.lid = lid)))).map
      (fun p => p.1)).dedup

/-- All that a killed launch holds is discarded, a saved context included, once its clusters' held requests have gone on. -/
def State.vanish (s : State) (lid : Nat) : State :=
  { (s.updMem (fun m => m.liftHolds (s.clustersHolding lid))).discard lid with
    contexts := s.contexts.filter (fun x => !decide (x.lid = lid)) }

/-- A launch consumes an error or executes esc: its rollback set is killed, and waits for the restoring of its pages
(16_recovery.md R466 steps 1 and 2). -/
def State.beginRollback (s : State) (lid : Nat) (f : FaultRec) : State :=
  match s.launch? lid with
  | none => s
  | some l =>
    if !l.alive then s
    else (s.rollSet [lid]).foldl (fun s k =>
      if (s.launch k).alive then
        (s.updLaunch k (fun x => { x with st := .rolledBack, roll := true, fault := some (if k = lid then f else f.asDep) })).vanish k
      else s) s

/-- An uncorrectable error is consumed by a launch (16_recovery.md R439 to R441). -/
def State.consume (s : State) (lid : Option Nat) (addr what where_ : Nat) : State :=
  let s1 := (s.countUe (where_ / 1024 % 2))
  match lid with
  | none => s1.logErr { addr := addr, kind := 5, what := what, where_ := where_ }
  | some l =>
    (s1.logErr { addr := addr, lid := l, kind := 2, what := what, where_ := where_ }).beginRollback l
      { code := 0x0C, addr := addr, where_ := where_ }

/-! ## Pages (16_recovery.md R463 to R465) -/

/-- Copy n bytes of memory, as their homes hold them, into the stacks. -/
def copyUp (m : Mem) (src dst : Nat) : Nat → Mem
  | 0 => m
  | n + 1 => copyUp (m.stackSet (dst + n) (m.atHome (src + n))) src dst n

/-- The copy m1 of a page of m takes over what is in error in it: the sectors are stored poisoned, and half bytes that took an error
from a record stay so (06_square_tiles.md R131, 16_recovery.md R439). -/
def Mem.takeErrors (m1 m : Mem) (src dst : Nat) : Mem :=
  let inErr (k : Nat) : Bool := m.bad.contains (m.standsAt (src + 32 * k) / 32) || (List.range 4).any (fun j =>
    m.upsets.contains (.sync (src / 8 + 4 * k + j)) || m.upsets.contains (.l2 (homeOf src) (src / 8 + 4 * k + j)))
  let m2 := { m1 with bad := m1.bad.filter (fun x => !(decide (dst / 32 ≤ x) && decide (x < dst / 32 + 2048)))
                      badHalf := m1.badHalf.filter (fun h => !(decide (dst ≤ h / 2) && decide (h / 2 < dst + 65536))) ++
                        (m.badHalf.filter (fun h => decide (src ≤ h / 2) && decide (h / 2 < src + 65536))).map (fun h => h + 2 * dst - 2 * src) }
  ((List.range 2048).filter inErr).foldl (fun m k => m.poison (dst + 32 * k)) m2

/-- A page is copied into a frame, with what is in error in it (16_recovery.md R439, R463). -/
def Mem.copyPage (m : Mem) (src dst : Nat) : Mem :=
  let m1 := copyUp m src dst 65536
  if m.bad.isEmpty && m.badHalf.isEmpty && m.upsets.isEmpty then m1 else m1.takeErrors m src dst

/-- The frames that hold snapshots: a launch keeps those of the pool from which it took them, wherever it is restored
(16_recovery.md R459, R463). -/
def State.framesUsed (s : State) : List Nat := s.launches.flatMap (fun p => p.2.snaps.map (fun x => x.2.1))

/-- A free frame of the pool of a partition (16_recovery.md R463). -/
def State.freeFrame (s : State) (part : Nat) : Option Nat :=
  let base := field (s.reg (pkgBlk (0x90000 + 16 * part))) 47 16 * 65536
  let size := field (s.reg (pkgBlk (0x90008 + 16 * part))) 31 0
  let used := s.framesUsed
  ((List.range (min size (used.length + 1))).map (fun k => base + 65536 * k)).find? (fun a => !used.contains a)

/-- The launch is no longer replayable, by a write to quarter 11 or for want of a frame (16_recovery.md R464). -/
def State.markNrepl (s : State) (lid : Nat) : State :=
  s.updLaunch lid (fun l => { l with nrmark := true, nrepl := true })

/-- The page is copied into a free frame before the launch first writes it; without a frame the launch is marked
(16_recovery.md R463, R464). -/
def State.snapshot (s : State) (lid page : Nat) : State :=
  match s.launch? lid with
  | none => s
  | some l =>
    if l.wrote.contains page then s
    else
      let s1 := match s.freeFrame l.part with
        | some f =>
          { (s.updMem (fun m => m.copyPage (65536 * page) f)).updLaunch lid (fun l =>
              { l with snaps := l.snaps ++ [(page, f, s.clock)] }) with clock := s.clock + 1 }
        | none => s.markNrepl lid
      s1.updLaunch lid (fun l => { l with wrote := l.wrote ++ [page] })

/-- A launch that touches a page which a running launch has written depends on it (16_recovery.md R465). -/
def State.depend (s : State) (lid page : Nat) : State :=
  let ws := (s.launches.filter (fun p => !decide (p.1 = lid) && decide (p.2.st = .running) &&
    p.2.wrote.contains page)).map (·.1)
  s.updLaunch lid (fun l => { l with deps := ws.foldl (fun d k => if d.contains k then d else d ++ [k]) l.deps })

/-- A read of a page by a launch. -/
def State.trackRead (s : State) (lid : Option Nat) (a : Nat) : State :=
  match lid with
  | some l => s.depend l (a / 65536)
  | none => s

/-- A write of a page by a launch: its dependence, then its snapshot. -/
def State.trackWrite (s : State) (lid : Option Nat) (a : Nat) : State :=
  match lid with
  | some l => (s.depend l (a / 65536)).snapshot l (a / 65536)
  | none => s

/-! ## Sectors with an uncorrectable error (16_recovery.md R439) -/

/-- A read of n bytes meets an uncorrectable error. A clean fast copy is given up and the access served from the home
row. -/
def State.meetsBad (s : State) (a n : Nat) : State × Bool :=
  if s.mem.bad.isEmpty then (s, false)
  else
    let hit (s : State) : Option Nat :=
      ((List.range n).find? (fun k => s.mem.bad.contains (s.mem.standsAt (a + k) / 32))).map (fun k => a + k)
    match hit s with
    | none => (s, false)
    | some o =>
      let p := placeOf o
      match slotOf? s.mem.slots p.stack p.bankIx p.row with
      | some (k, e) =>
        if e.dirty then (s, true)
        else
          let s1 := s.updMem (fun m => { m with slots := m.slots.del k })
          (s1, (hit s1).isSome)
      | none => (s, true)

/-- Where an access errs, as WHERE of an error record has it: the core of a lane, strand or core's engine, the cluster of a copy engine
or gather port, and for any other agent its die (16_recovery.md R441). -/
def Master.place (m : Master) : Nat :=
  match m.code / 4096 with
  | 0 => if m.lid.isSome ∨ m.clu.isSome then m.code % 2048 else 1024 * m.die
  | 1 | 2 => 16 * (m.code % 128)
  | _ => 1024 * m.die

/-- A unit whose mismatches programs are not told of has met a second one: a consumed error of the launch concerned (16_recovery.md
R442). -/
def State.meetUnit (s : State) (u : Upset) (m : Master) : State × Bool :=
  if s.mem.upsets.contains u then
    ((s.updMem (fun x => x.clear (fun v => decide (v = u)))).consume m.lid 0 8 m.place, true)
  else (s, false)

/-- A byte among n carries an error of half a byte or more from a record (06_square_tiles.md R131). -/
def Mem.halfBad (m : Mem) (a n : Nat) : Bool := m.badHalf.any (fun h => decide (a ≤ h / 2) && decide (h / 2 < a + n))

/-- A write over whole words that an L2 or an engine holds in error, or over bytes that took errors from a record, removes the
errors, which are logged only (16_recovery.md R439). -/
def State.mendWords (s : State) (line : Nat) (mask : BitVec 128) : State :=
  if s.mem.upsets.isEmpty && s.mem.badHalf.isEmpty then s
  else
    let whole (w : Nat) : Bool := decide (w / 16 = line) && decide (mask &&& runMask (8 * (w % 16)) 8 = runMask (8 * (w % 16)) 8)
    let gone : Upset → Bool
      | .l2 _ w | .sync w => whole w
      | _ => false
    let half (h : Nat) : Bool := decide (h / 2 / 128 = line) && bitAt mask (h / 2 % 128)
    let r : ErrRec := { addr := 128 * line, kind := 5, what := 1, where_ := 1024 * homeOf (128 * line) }
    let s1 := (s.mem.upsets.filter gone).foldl (fun s _ => s.logErr r) s
    let s2 := (s.mem.badHalf.filter half).foldl (fun s h => s.logErr { r with addr := h / 64 * 32, what := 0 }) s1
    s2.updMem (fun x => { x with upsets := x.upsets.filter (fun u => !gone u), badHalf := x.badHalf.filter (fun h => !half h) })

/-- A write over whole sectors removes their errors, which are logged only (16_recovery.md R439). -/
def State.mendSectors (s : State) (line : Nat) (mask : BitVec 128) : State :=
  let s := s.mendWords line mask
  if s.mem.bad.isEmpty then s
  else (List.range 4).foldl (fun s k =>
    let sec := s.mem.standsAt (128 * line + 32 * k) / 32
    if field mask (32 * k + 31) (32 * k) = 2 ^ 32 - 1 ∧ s.mem.bad.contains sec then
      (s.updMem (fun m => { m with bad := m.bad.filter (fun x => !decide (x = sec)) })).logErr
        { addr := 32 * sec, kind := 5, what := 0, where_ := 1024 * homeOf (128 * line) }
    else s) s

/-- An error that a read meets: the row of 16_recovery.md R438, and the address that its record bears. -/
abbrev Met := Nat × Nat

/-- Data of n bytes whose sectors came from memory are in error (16_recovery.md R439). -/
def State.meetsMem (s : State) (a n : Nat) : State × Option Met :=
  let r := s.meetsBad a n
  (r.1, if r.2 || s.mem.halfBad a n then some (0, a / 32 * 32) else none)

/-- A read of n bytes by an agent of a die meets an uncorrectable error: in the synchronisation engine, in an L2, on the crossbar,
or in memory (16_recovery.md R438, R439). The error of a transfer passes with it. -/
def State.meets (s : State) (d a n : Nat) : State × Option Met :=
  if s.mem.upsets.isEmpty && s.mem.bad.isEmpty && s.mem.badHalf.isEmpty then (s, none)
  else
    let at_ (w : Nat) : Bool :=
      match s.mem.granules.find? w with
      | some _ => s.mem.upsets.contains (.sync w)
      | none =>
        match s.mem.line? d (w / 16) with
        | some _ => s.mem.upsets.contains (.l2 d w)
        | none => s.mem.upsets.contains (.l2 (homeOf (8 * w)) w)
    if (List.range ((a + n + 7) / 8 - a / 8)).any (fun k => at_ (a / 8 + k)) then (s, some (1, a / 128 * 128))
    else if s.mem.upsets.contains (.xbar d (a / 128)) then
      (s.updMem (fun x => x.clear (fun u => decide (u = .xbar d (a / 128)))), some (6, 0))
    else s.meetsMem a n

/-- A read's data are in error: its launch consumes it (16_recovery.md R439). -/
def State.consumeAt (s : State) (m : Master) (e : Met) : State := s.consume m.lid e.2 e.1 m.place

/-! ## Room of the synchronisation engines (11_ordering.md R298, R299) -/

/-- Granules that the 8 MiB SRAM of an engine holds, at 16 bytes for each as in its overflow area (01_machine.md R21; log
entry 21). -/
def syncRoom : Nat := 524288

/-- Room of the overflow area in entries of 16 bytes (11_ordering.md R299). -/
def State.overflowRoom (s : State) (d : Nat) : Nat := field (s.reg (dieBlk d 0x6000)) 15 0 * 4096

/-- Granules that a die's engine holds in its SRAM, and in its overflow area. -/
def Mem.inSram (m : Mem) (d : Nat) : SMap Granule := m.granules.filter (fun p => decide (homeOf (8 * p.1) = d) && p.2.area.isNone)
def Mem.inArea (m : Mem) (d : Nat) : SMap Granule := m.granules.filter (fun p => decide (homeOf (8 * p.1) = d) && p.2.area.isSome)

/-- The least recently used of some granules. -/
def oldestOf (l : SMap Granule) : Option Nat :=
  (l.foldl (fun (b : Option (Nat × Nat)) p =>
    match b with
    | some (_, u) => if p.2.used < u then some (p.1, p.2.used) else b
    | none => some (p.1, p.2.used)) none).map (fun p => p.1)

/-- Address of an entry of the overflow area. -/
def State.overflowAt (s : State) (d k : Nat) : Nat := field (s.reg (dieBlk d 0x6000)) 47 16 * 65536 + 16 * k

/-- A granule moves from the SRAM to the first free entry of the overflow area, whose 16 bytes are in the engine's own format:
free values (11_ordering.md R298, R299; log entry 21). -/
def State.toOverflow (s : State) (d g : Nat) : State :=
  match s.mem.granules.find? g with
  | none => s
  | some x =>
    let taken := (s.mem.inArea d).filterMap (fun p => p.2.area)
    match firstBelow (taken.length + 1) (fun k => !taken.contains k) with
    | none => s
    | some k =>
      let a := s.overflowAt d k
      s.updMem (fun m =>
        let m1 := (List.range 16).foldl (fun m j =>
          m.stackSet (a + j) ((Config.freeWord64 (2 ^ 96 + 16 * s.clock + j)).setWidth 8)) m
        (m1.request (syncMaster d) a 16 true).setGranule (8 * g) { x with area := some k })

/-- The engine holds more than its SRAM has room for: one granule moves to the overflow area; where that is full, or of size
0, the least recently used granule goes to its own address (11_ordering.md R298, R299). keep has just been used. -/
def State.syncMakeRoom (s : State) (d keep : Nat) : State :=
  let others (l : SMap Granule) : SMap Granule := l.filter (fun p => !decide (p.1 = keep))
  let full (s : State) : Bool := decide (syncRoom < (s.mem.inSram d).length)
  if !full s then s
  else
    let s1 := if (s.mem.inArea d).length < s.overflowRoom d then s
      else match oldestOf (others (s.mem.inSram d ++ s.mem.inArea d)) with
        | some g => s.updMem (fun m => m.giveUp (8 * g))
        | none => s
    if !full s1 then s1
    else match oldestOf (others (s1.mem.inSram d)) with
      | some g => s1.toOverflow d g
      | none => s1

/-- An access has reached a granule that the engine holds: one that stands in the overflow area is brought back
(11_ordering.md R298). -/
def State.syncUse (s : State) (g : Nat) : State :=
  match s.mem.granules.find? g with
  | none => s
  | some x =>
    let d := homeOf (8 * g)
    let s1 := match x.area with
      | some k => s.updMem (fun m => m.request (syncMaster d) (s.overflowAt d k) 16 false)
      | none => s
    let s2 := { s1 with mem := s1.mem.setGranule (8 * g) { x with used := s.clock, area := none, touched := false }, clock := s.clock + 1 }
    s2.syncMakeRoom d g

/-- A plain access of n bytes uses the granules of its bytes that an engine holds. -/
def State.syncTouch (s : State) (a n : Nat) : State :=
  if s.mem.granules.isEmpty then s
  else (List.range ((a + n + 7) / 8 - a / 8)).foldl (fun s k => s.syncUse (a / 8 + k)) s

/-- Writes off the strait have reached granules: their use is noted (11_ordering.md R298, R299). -/
def State.noteTouched (s : State) : State :=
  if s.mem.granules.any (fun p => p.2.touched) then
    (s.mem.granules.filter (fun p => p.2.touched)).foldl (fun s p => s.syncUse p.1) s
  else s

end Sys2Proof.Machine
end

