-- ==== Sys2Proof/Machine/Xlate.lean ====
section
/-! DEFINITION. Translation: page walks, TLBs, pending walks, translation faults and their records
(15_isolation.md R416 to R423). -/

namespace Sys2Proof.Machine

/-! ## The fault queue (15_isolation.md R419, R420) -/

/-- Address of a register of partition p's fault queue. -/
def faultReg (p off : Nat) : Nat := pkgBlk (0x30000 + 64 * p + off)

/-- The bytes of a fault record (15_isolation.md R419). -/
def PFault.bytes (f : PFault) : List Byte :=
  bytesOf 8 f.va ++ bytesOf 4 f.tok ++ bytesOf 4 f.lid ++ bytesOf 1 f.reason ++ bytesOf 1 f.kind ++
  bytesOf 1 (f.space % 16) ++ bytesOf 1 0 ++ bytesOf 2 f.master ++ bytesOf 8 0 ++ bytesOf 2 0

/-- The agent as which a die writes a fault record: its walkers, whose miss it tells of (log entry 131). -/
def walkMaster (d : Nat) : Master :=
  { die := d, part := 0, space := 0, lid := none, code := 0, tid := 0, cls := 0, slack := 256, rid := 268 + d }

/-- Write bytes as a die's own writes, each unit of 8 bytes or less single-copy atomic. -/
def Mem.putBytes (m : Mem) (d a : Nat) : List Byte → Mem
  | [] => m
  | b :: r => Mem.putBytes ((m.putN (walkMaster d) a 1 b.toNat).reveal (a / 128) (runMask (a % 128) 1)) d (a + 1) r

/-- The ring of a partition has room and its capacity is in range (15_isolation.md R420). -/
def State.faultRoom (s : State) (p : Nat) : Bool :=
  let cap := field (s.reg (faultReg p 8)) 31 0
  let ht := s.reg (faultReg p 16)
  decide (16 ≤ cap) && decide (cap ≤ 65536) &&
  !decide ((field ht 63 32 + 2 ^ 32 - field ht 31 0) % 2 ^ 32 = cap)

/-- Write one fault record: BASE + 32 × (TAIL mod CAP), TAIL advanced with release at system scope, and the vector
raised; the record is visible on either die, so to the host, before TAIL shows it (15_isolation.md R419, R420). -/
def State.writeFault (s : State) (d : Nat) (f : PFault) : State :=
  let p := f.part
  let cap := field (s.reg (faultReg p 8)) 31 0
  let vec := field (s.reg (faultReg p 8)) 63 32
  let ht := s.reg (faultReg p 16)
  let tail := field ht 63 32
  let a := field (s.reg (faultReg p 0)) 47 5 * 32 + 32 * (tail % cap)
  let s1 := s.updMem (fun m =>
    let m1 := (m.putBytes d (canonPa a) f.bytes).bump d
    m1.drain d (m1.epoch d))
  let s2 := s1.setReg (faultReg p 16) (BitVec.ofNat 64 (field ht 31 0 + (tail + 1) % 2 ^ 32 * 2 ^ 32))
  let s3 := if vec / 2 ^ 31 % 2 = 1 then s2.raise (p + 1) (vec % 2048) else s2
  { s3 with faults := s3.faults.map (fun g => if g.tok = f.tok then { g with written := true } else g) }

/-- Write the records that a full ring held back, oldest first, while there is room (15_isolation.md R419). -/
def State.flushFaults (s : State) (d p : Nat) : State :=
  (s.faults.filter (fun f => decide (f.part = p) && !f.written)).foldl
    (fun s f => if s.faultRoom p then s.writeFault d f else s) s

/-- A new translation fault, or the outstanding one of the same address space and page, whose record names the launch that met it
first; a missing permission is an access's own, shared by its launch's accesses of its kind (15_isolation.md R419, R422; log entry
11): its token. -/
def State.raiseFault (s : State) (m : Master) (va reason : Nat) (k : AccKind) : State × Nat :=
  let same (f : PFault) : Bool := decide (f.space = m.space) && decide (f.part = m.part) &&
    decide (f.va / 65536 = va / 65536) && decide (f.reason = reason) &&
    (!decide (reason = 3) || (decide (f.lid = m.lid.getD 0xFFFFFFFF) && decide (f.kind = k.num)))
  match s.faults.find? same with
  | some f => (s, f.tok)
  | none =>
    let f : PFault := { tok := s.nextTok, part := m.part, space := m.space, va := va, reason := reason, kind := k.num,
                        lid := m.lid.getD 0xFFFFFFFF, master := m.code, written := false }
    let nt := (s.nextTok + 1) % 2 ^ 32
    (({ s with faults := s.faults ++ [f], nextTok := if nt = 0 then 1 else nt }).flushFaults m.die m.part, f.tok)

/-! ## Walks (15_isolation.md R416 to R418) -/

/-- How a walk ends; consumed where an entry holds an uncorrectable error (16_recovery.md R439). -/
inductive WalkEnd where
  | page (e : TlbEnt)
  | fault (reason : Nat)
  | violation (pa : Nat)
  | consumed
  deriving DecidableEq, Repr

/-- The levels: the lowest index bit, which is also the page size of a leaf, and the number of index bits
(15_isolation.md R416). -/
def walkLevels : List (Nat × Nat) := [(44, 12), (33, 11), (29, 4), (21, 8), (16, 5)]

/-- The walker that works for an access: class 0, 256 ns, its die's requester id, tensor id 0 (10_memory.md R260, R272,
R276). -/
def Master.walker (m : Master) : Master := { m with tid := 0, cls := 0, slack := 256, rid := 268 + m.die, clu := none, hold := false }

/-- A walker reads an entry at L2; none where it meets an uncorrectable error, which the access's launch consumes
(15_isolation.md R418, 16_recovery.md R439). -/
def State.walkRead (s : State) (m : Master) (a : Nat) : State × Option Nat :=
  let r0 := s.meetUnit (.walker m.die) m
  if r0.2 then (r0.1, none)
  else
    let r := r0.1.meets m.die a 8
    match r.2 with
    | some e => (r.1.consumeAt m e, none)
    | none =>
      let t := (r.1.syncTouch a 8).updMem (fun x => x.l2In m.walker (a / 128) false)
      (t, some (ofBytes (t.mem.lookN m.die a 8)))

/-- The walk from a table on over the remaining levels; top is set at level 0 (15_isolation.md R418). -/
def State.walkFrom (s : State) (m : Master) (va tbl : Nat) (top : Bool) : List (Nat × Nat) → State × WalkEnd
  | [] => (s, .fault 2)
  | (lo, bits) :: rest =>
    let ea := tbl + 8 * (va / 2 ^ lo % 2 ^ bits)
    if !s.allowed m.part ea false then (s, .violation ea)
    else
      match s.walkRead m (canonPa ea) with
      | (t, none) => (t, .consumed)
      | (t, some v) =>
        let e := BitVec.ofNat 64 v
        if !bitAt e 0 then (t, .fault 1)
        else if field e 63 48 ≠ 0 ∨ field e 7 5 ≠ 0 then (t, .fault 2)
        else if bitAt e 1 then
          if top ∨ field e 47 8 * 256 % 2 ^ lo ≠ 0 then (t, .fault 2)
          else (t, .page { die := m.die, space := m.space, vpage := va / 2 ^ lo, bits := lo, pbase := field e 47 8 * 256,
                           rd := bitAt e 2, wr := bitAt e 3, ex := bitAt e 4 })
        else t.walkFrom m va (field e 47 8 * 256) false rest

/-- A walk of an address space for an access (15_isolation.md R411, R418). -/
def State.walk (s : State) (m : Master) (va : Nat) : State × WalkEnd :=
  let root := s.reg (pkgBlk (0x20000 + 8 * m.space))
  if !bitAt root 63 then (s, .fault 4) else s.walkFrom m va (field root 47 15 * 2 ^ 15) true walkLevels

/-- The permission that an access needs (15_isolation.md R418). -/
def TlbEnt.permits (e : TlbEnt) : AccKind → Bool
  | .read => e.rd
  | .write => e.wr
  | .atomic => e.rd && e.wr
  | .fetch => e.ex
  | .walk => true

/-- The translation held for an address, if any. -/
def State.tlbHit (s : State) (d space va : Nat) : Option TlbEnt :=
  s.mem.tlb.find? (fun e => decide (e.die = d) && decide (e.space = space) && decide (e.vpage = va / 2 ^ e.bits))

/-- Number of last-level entries: 96 for 8 GiB pages and 8,192 for the others (15_isolation.md R421). -/
def tlbRoom (big : Bool) : Nat := if big then 96 else 8192

/-- Take a translation into the die's TLB; a full TLB gives up its oldest entry of that kind, which changes timing only
(15_isolation.md R421). -/
def State.tlbAdd (s : State) (e : TlbEnt) : State :=
  let big := decide (e.bits = 33)
  let alike (x : TlbEnt) : Bool := decide (x.die = e.die) && decide (decide (x.bits = 33) = big)
  let t := if (s.mem.tlb.filter alike).length < tlbRoom big then s.mem.tlb
    else match (s.mem.tlb.reverse).find? alike with
      | some x => s.mem.tlb.erase x
      | none => s.mem.tlb
  s.updMem (fun m => { m with tlb := e :: t })

/-- The TLB of the core, copy engine or q0 load pipe that makes an access; other agents have none (15_isolation.md R421). -/
def Master.tlbKey (m : Master) : Option Nat :=
  if m.pipe then some (8192 + m.code % 4096)
  else
    match m.code / 4096 with
    | 0 => some (m.code % 4096)
    | 1 => some (4096 + m.code % 4096)
    | _ => none

/-- Die of the agent of a key of Mem.tlbs. -/
def tlbDie (k : Nat) : Nat := if k < 4096 then k / 1024 else if k < 8192 then (k - 4096) / 64 else (k - 8192) / 1024

/-- The translation that the agent's own TLB or the die's holds for an access (15_isolation.md R421). -/
def State.tlbFor (s : State) (m : Master) (va : Nat) : Option TlbEnt :=
  let own := (m.tlbKey.map (fun k => s.mem.tlbs.get [] k)).getD []
  match own.find? (fun e => decide (e.space = m.space) && decide (e.vpage = va / 2 ^ e.bits)) with
  | some e => some e
  | none => s.tlbHit m.die m.space va

/-- A walk fills the TLB of the die and that of the agent, 64 entries for a core and 128 for a copy engine or load pipe; which
entry goes changes timing only (15_isolation.md R421). -/
def State.tlbFill (s : State) (m : Master) (e : TlbEnt) : State :=
  match m.tlbKey with
  | none => s.tlbAdd e
  | some k =>
    (s.tlbAdd e).updMem (fun x => { x with tlbs := x.tlbs.set k ((e :: x.tlbs.get [] k).take (if k < 4096 then 64 else 128)) })

def Mem.walks (m : Mem) (d : Nat) : List Walk := if d = 0 then m.walks0 else m.walks1

def Mem.setWalks (m : Mem) (d : Nat) (l : List Walk) : Mem := if d = 0 then { m with walks0 := l } else { m with walks1 := l }

/-- A miss of the last-level TLB enters the table of 512 pending walks, unless one of the same space and 64 KiB page is
there, or the table is full (15_isolation.md R422). -/
def State.addWalk (s : State) (d : Nat) (x : Walk) : State :=
  let l := s.mem.walks d
  if l.any (fun y => decide (y.space = x.space) && decide (y.va / 65536 = x.va / 65536)) then s
  else if l.length < 512 then s.updMem (fun m => m.setWalks d (l ++ [x])) else s

/-- The kind of a pending walk's access. -/
def kindOf : Nat → AccKind
  | 0 => .read
  | 1 => .write
  | 2 => .atomic
  | 3 => .fetch
  | _ => .walk

/-- A pending walk of a die ends: a page fills the TLBs and completes every pending miss inside it, a fault writes its record,
a violation freezes its master (15_isolation.md R413, R419, R422). -/
def State.finishWalk (s : State) (d : Nat) (x : Walk) : State × WalkEnd :=
  let r := s.walk { x.m with die := d, space := x.space } x.va
  let inside (y : Walk) : Bool :=
    match r.2 with
    | .page e => decide (y.space = x.space) && decide (y.va / 2 ^ e.bits = e.vpage)
    | _ => decide (y.space = x.space) && decide (y.va / 65536 = x.va / 65536)
  let t := r.1.updMem (fun m => m.setWalks d ((m.walks d).filter (fun y => !inside y)))
  (match r.2 with
   | .page e => t.tlbFill { x.m with die := d, space := x.space } e
   | _ => t, r.2)

/-- The oldest pending walk of a die ends (15_isolation.md R422). -/
def State.endWalk (s : State) (d : Nat) : State :=
  match s.mem.walks d with
  | [] => s
  | x :: _ =>
    match s.finishWalk d x with
    | (t, .fault reason) => (t.raiseFault x.m x.va reason (kindOf x.kind)).1
    | (t, .violation pa) => t.freeze x.m pa .walk
    | (t, _) => t

/-! ## Translation of one access -/

/-- How the translation of an access ends; frozen also where its walk consumed an error. -/
inductive Xl where
  | ok (pa : Nat)
  | wait (tok : Nat)
  | failed
  | frozen
  deriving DecidableEq, Repr

/-- The walks of a die that are older than the one of a page end, oldest first (15_isolation.md R422). -/
def olderWalks (d space page : Nat) : Nat → State → State
  | 0, s => s
  | n + 1, s =>
    match s.mem.walks d with
    | [] => s
    | y :: _ => if y.space = space ∧ y.va / 65536 = page then s else olderWalks d space page n (s.endWalk d)

/-- Translate an address for an access; failed lists the pages that system software has failed for it. A miss waits while the
table of pending walks is full, shares the walk of its page where one is pending, and with it its end, and that walk comes after
those that were pending before it (15_isolation.md R418, R419, R422). -/
def State.translate (s : State) (m : Master) (va : Nat) (k : AccKind) (failed : List (Nat × Nat)) : State × Xl :=
  if failed.contains (m.space, va / 65536) then (s, .failed)
  else
    let use (s : State) (e : TlbEnt) : State × Xl :=
      if e.permits k then (s, .ok (e.pbase + va % 2 ^ e.bits))
      else
        let r := s.raiseFault m va 3 k
        (r.1, .wait r.2)
    match s.tlbFor m va with
    | some e => use s e
    | none =>
      let t := if (s.mem.walks m.die).length < 512 then s else s.endWalk m.die
      let t1 := olderWalks m.die m.space (va / 65536) 512 (t.addWalk m.die { space := m.space, va := va, m := m, kind := k.num })
      match t1.tlbFor m va, t1.mem.walks m.die with
      | some e, _ => use t1 e
      | none, [] => (t1, .frozen)
      | none, y :: _ =>
        match t1.finishWalk m.die y with
        | (u, .page e) => use u e
        | (u, .fault reason) =>
          let r := u.raiseFault y.m y.va reason (kindOf y.kind)
          (r.1, .wait r.2)
        | (u, .violation pa) => (u.freeze y.m pa .walk, .frozen)
        | (u, .consumed) => (u, .frozen)

/-- Check a translated access (12_memory_instr.md R310 step 4, 15_isolation.md R409, R433). -/
def State.paAllowed (s : State) (part pa : Nat) (k : AccKind) : Bool :=
  match quarter pa with
  | 2 => false
  | 3 => (s.portOf part (pa / 2 ^ 38 % 256)).isSome
  | _ => s.allowed part pa k.writes

/-! ## The answer to a fault (15_isolation.md R419) -/

/-- A lane that waits on a token walks again; on a failure the page counts as failed for it. -/
def Lane.answer (l : Lane) (tok : Nat) (page : Option (Nat × Nat)) : Lane :=
  if l.wait = .fault tok then { l with wait := .none, failed := page.toList ++ l.failed } else l

/-- An engine operation that waits on a token goes on (09_tensor_instr.md R213). -/
def EngOp.answer (o : EngOp) (tok : Nat) : EngOp := if o.tok = some tok then { o with tok := none } else o

/-- The lanes, the strand and, on a retry, the engine operations of a warp that wait on a token. -/
def Warp.answer (w : Warp) (tok : Nat) (page : Option (Nat × Nat)) : Warp :=
  let w1 := { w with lanes := mapVals (fun _ l => l.answer tok page) w.lanes,
                     queues := mapVals (fun _ q => if page.isSome then q else q.map (fun o => o.answer tok)) w.queues }
  if w.swait = .fault tok then { w1 with swait := .none, sfailed := page.toList ++ w.sfailed } else w1

/-- The translations of a page of an address space that any TLB holds are given up, so that the next access walks. -/
def State.forgetPage (s : State) (space va : Nat) : State :=
  let gone (e : TlbEnt) : Bool := decide (e.space = space) && decide (e.vpage = va / 2 ^ e.bits)
  s.updMem (fun m => { m with tlb := m.tlb.filter (fun e => !gone e), tlbs := mapVals (fun _ l => l.filter (fun e => !gone e)) m.tlbs })

/-- Answer an outstanding fault of a partition: retry (fail false), whose accesses walk again, or fail (15_isolation.md R419). A
token that is not outstanding for the partition is ignored. An engine operation that a failure stops is left to the caller. -/
def State.answerFault (s : State) (part tok : Nat) (fail : Bool) : State :=
  match s.faults.find? (fun f => decide (f.tok = tok) && decide (f.part = part)) with
  | none => s
  | some f =>
    let page := if fail then some (f.space, f.va / 65536) else none
    let ops (q : List EngOp) : List EngOp := if fail then q else q.map (fun o => o.answer tok)
    { (if fail then s else s.forgetPage f.space f.va) with
      faults := s.faults.filter (fun g => !decide (g.tok = tok))
      warps := mapVals (fun _ w =>
        let v := w.answer tok page
        if v = w then w else v.clearStall s.clock) s.warps
      cores := mapVals (fun _ c => { c with q0 := ops c.q0 }) s.cores
      clusters := mapVals (fun _ g => { g with leases := g.leases.map (fun l => { l with q0 := ops l.q0 }) }) s.clusters
      cmdQueues := mapVals (fun _ q =>
        if q.tok = some tok then { q with tok := none, told := true, failed := page.toList ++ q.failed } else q)
        s.cmdQueues }

end Sys2Proof.Machine
end

