-- ==== Sys2Proof/Machine/Access.lean ====
section
/-! DEFINITION. Accesses at L2 and through L1, synchronisation engines, atomics, and what a release or an acquire does
(10_memory.md R246, R253, R256, R258 to R260, R272, 11_ordering.md R285 to R299, R308, 12_memory_instr.md R312 to R319). -/

namespace Sys2Proof.Machine

/-! ## Ferries (10_memory.md R258, R259) -/

/-- Key of the lines between slice k of die d and cluster L. -/
def slicePair (d slice clu : Nat) : Nat := (128 * d + slice) * 64 + clu % 64

/-- One more line of a cluster waits for a ferry, or for a return token (10_memory.md R258, R259). -/
def State.ferryLine (s : State) (m : Master) (a : Nat) (out : Bool) : State :=
  match m.clu with
  | none => s
  | some g =>
    let k := slicePair m.die (sliceOf a) g
    s.updMem (fun x =>
      if out then { x with toSlice := x.toSlice.set k (x.toSlice.get [] k ++ [m.lid]) }
      else { x with toClu := x.toClu.set k (x.toClu.get [] k ++ [m.lid]) })

/-! ## Command queues that are told of a change of TAIL (13_scheduling.md R345, 15_isolation.md R410) -/

def State.cmdQueue (s : State) (ix : Nat) : CmdQueue := s.cmdQueues.get CmdQueue.dflt ix

def State.updQueue (s : State) (ix : Nat) (f : CmdQueue → CmdQueue) : State :=
  { s with cmdQueues := s.cmdQueues.set ix (f (s.cmdQueue ix)) }

/-- Binding of a queue: partition and address space, if it is served (15_isolation.md R410). -/
def State.binding (s : State) (die q : Nat) : Option (Nat × Nat) :=
  let v := s.reg (dieBlk die (0x2000 + 16 * q))
  if bitAt v 63 then some (field v 11 8, 16 * field v 11 8 + field v 3 0) else none

/-- Virtual address of a queue's descriptor (15_isolation.md R410). -/
def State.queueDesc (s : State) (die q : Nat) : Nat := field (s.reg (dieBlk die (0x2008 + 16 * q))) 55 5 * 32

/-- The master of a command queue (10_memory.md R272, R276, 15_isolation.md R409, R414). -/
def queueMaster (die q part space : Nat) : Master :=
  { die := die, part := part, space := space, lid := none, code := 0x3000 + 64 * die + q, tid := 0, cls := 3, slack := 65536,
    rid := 272 + die }

/-- Physical address of TAIL of a queue whose descriptor could not be read, where its page translates now. -/
def State.tailAt (s : State) (ix : Nat) : Option Nat :=
  match s.binding (ix / 64) (ix % 64) with
  | none => none
  | some (part, space) =>
    let m := queueMaster (ix / 64) (ix % 64) part space
    let va := s.queueDesc (ix / 64) (ix % 64) + 20
    match s.tlbFor m va, (s.walk m va).2 with
    | some e, _ => some (canonPa (e.pbase + va % 2 ^ e.bits))
    | none, .page e => some (canonPa (e.pbase + va % 2 ^ e.bits))
    | none, _ => none

/-- The command processors are told of a write to the bytes that hit names, where these hold TAIL of a queue that is left unserved
until its next change (13_scheduling.md R345, 15_isolation.md R410). -/
def State.tellQueues (s : State) (hit : Nat → Bool) : State :=
  let told (k : Nat) (q : CmdQueue) : CmdQueue :=
    if q.badTail.isSome && !q.told && (match s.tailAt k with
      | some a => hit a || hit (a + 1) || hit (a + 2) || hit (a + 3)
      | none => false) then { q with told := true }
    else q
  if s.cmdQueues.any (fun p => p.2.badTail.isSome && !p.2.told) then { s with cmdQueues := mapVals told s.cmdQueues } else s

/-- The bytes of a line that a mask names. -/
def inLine (line : Nat) (mask : BitVec 128) (a : Nat) : Bool := decide (a / 128 = line) && bitAt mask (a % 128)

/-! ## L2 -/

/-- The die on which host accesses enter, and which writes fault records (11_ordering.md R308). -/
def State.onDie (s : State) : Nat := if s.sys.off 0 then 1 else 0

/-- The line comes into the L2 of the access's die. -/
def State.l2In (s : State) (m : Master) (line : Nat) (write : Bool) : State := s.updMem (fun x => x.l2In m line write)

/-- The agent of an access. -/
def Master.who (m : Master) : Option Agent := m.lid.map (fun l => (l, 64 * m.task + m.agent % 64))

/-- Bytes that an agent of a launch writes are not yet seen by the host; those that no launch writes show at once (11_ordering.md
R308; log entry 35). -/
def State.veil (s : State) (who : Option Agent) (line : Nat) (mask : BitVec 128) : State :=
  s.updMem (fun x =>
    match who with
    | some a => x.hide s.onDie line { lid := a.1, by_ := a.2, mask := mask }
    | none => x.reveal line mask)

/-- Change what is known of the bytes that no system-scope release has shown, those in the L1 of a core among them. -/
def State.tellWho (s : State) (c : Nat) (f : Wrote → Wrote) : State :=
  let s1 := if s.mem.unseen.isEmpty then s
    else s.updMem (fun x => { x with unseen := x.unseen.map (fun u => { u with w := f u.w }) })
  if (s1.core c).l1.all (fun p => p.2.who.isEmpty) then s1
  else s1.updCore c (fun k => { k with l1 := mapVals (fun _ l => { l with who := l.who.map f }) k.l1 })

/-- An agent of core c reads bytes of a line: it observes who wrote them (11_ordering.md R290). -/
def State.observe (s : State) (m : Master) (c line : Nat) (mask : BitVec 128) : State :=
  match m.who with
  | none => s
  | some a =>
    let on (w : Wrote) : Wrote := if w.mask &&& mask = 0 then w else w.seen a
    let s1 := if s.mem.unseen.isEmpty then s
      else s.updMem (fun x => { x with unseen := x.unseen.map (fun u => if u.line = line then { u with w := on u.w } else u) })
    match (s1.core c).l1.find? line with
    | none => s1
    | some l =>
      if l.who.isEmpty then s1
      else s1.updCore c (fun k => { k with l1 := k.l1.set line { l with who := l.who.map on } })

/-- Read n bytes, within one line, at L2: the state and the value, none where an error was consumed. -/
def State.l2Read (s : State) (m : Master) (a n : Nat) : State × Option Nat :=
  let r := (s.trackRead m.lid a).meets m.die a n
  match r.2 with
  | some e => (r.1.consumeAt m e, none)
  | none =>
    let s2 := (((r.1.syncTouch a n).l2In m (a / 128) false).ferryLine m a false).observe m m.code (a / 128) (runMask (a % 128) n)
    (s2, some (ofBytes (s2.mem.lookN m.die a n)))

/-- Write bytes of one line at L2; rec_ is the number of a tile-record write. -/
def State.l2Put (s : State) (m : Master) (line : Nat) (mask : BitVec 128) (data : BitVec 1024) (rec_ : Nat := 0) : State :=
  let s1 := ((s.trackWrite m.lid (128 * line)).ferryLine m (128 * line) true).mendSectors line mask
  let s2 := (List.range 16).foldl (fun s k =>
    if mask &&& runMask (8 * k) 8 = 0 then s else s.syncTouch (128 * line + 8 * k) 8) s1
  (((s2.veil m.who line mask).l2In m line true).updMem (fun x => x.put m line mask data rec_)).tellQueues (inLine line mask)

/-- Write n bytes within one line at L2. -/
def State.l2Write (s : State) (m : Master) (a n v : Nat) : State :=
  s.l2Put m (a / 128) (runMask (a % 128) n) (runData (a % 128) (v % 2 ^ (8 * n)))

/-! ## Accesses at the banks (10_memory.md R277, 21_prog_segments.md R503) -/

/-- Read an element of n bytes at its bank: the state and the value, none where an error was consumed. -/
def State.bankRead (s : State) (m : Master) (a n : Nat) : State × Option Nat :=
  let r := (s.trackRead m.lid a).meets (homeOf a) a n
  match r.2 with
  | some e => (r.1.consumeAt m e, none)
  | none =>
    let s2 := ((r.1.syncTouch a n).updMem (fun x => x.request m a n false)).observe m m.code (a / 128) (runMask (a % 128) n)
    let x := s2.mem.bankRead m.die a n
    ({ s2 with mem := x.1 }, some x.2)

/-- Write an element of n bytes at its bank. -/
def State.bankWrite (s : State) (m : Master) (a n v : Nat) : State :=
  let mask := runMask (a % 128) n
  let s1 := (((s.trackWrite m.lid a).mendSectors (a / 128) mask).syncTouch a n).veil m.who (a / 128) mask
  (s1.updMem (fun x => (x.request m a n true).bankWrite m a n v)).tellQueues (inLine (a / 128) mask)

/-! ## L1 (10_memory.md R253, 11_ordering.md R286) -/

def Core.l1? (c : Core) (line : Nat) : Option L1Line := c.l1.find? line

/-- The words of a line that L1 of a core holds in error. -/
def Mem.l1Bad (m : Mem) (c line : Nat) (mask : BitVec 128) : List Nat :=
  if m.upsets.isEmpty then []
  else (List.range 16).filter (fun k => decide (mask &&& runMask (8 * k) 8 ≠ 0) && m.upsets.contains (.l1 c (16 * line + k)))

/-- The lanes' access that a line of L1 stands for on its way to L2 (10_memory.md R272). -/
def L1Line.master (l : L1Line) (d c : Nat) : Master :=
  { die := d, part := l.part, space := 0, lid := l.lid, code := c, tid := l.tid, cls := l.cls, slack := l.slack, rid := cluOf c,
    clu := some (cluOf c), hold := true }

/-- The dirty bytes of a line of L1 go to their slice, in turn with the lines of their cluster, and are written there; the line
is clean afterwards. A sector whose bytes are in error is stored poisoned (10_memory.md R258, 11_ordering.md R286, 16_recovery.md
R439). -/
def State.l1Clean (s : State) (d c line : Nat) : State :=
  match (s.core c).l1? line with
  | none => s
  | some l =>
    if l.dirty = 0 then s
    else
      let q := l.master d c
      let lost := s.mem.l1Bad c line l.dirty
      let s1 := (s.ferryLine q (128 * line) true).mendSectors line l.dirty
      let s2 := (List.range 16).foldl (fun s k =>
        if l.dirty &&& runMask (8 * k) 8 = 0 then s else s.syncTouch (128 * line + 8 * k) 8) s1
      let s3 := l.who.foldl (fun s x => s.updMem (fun y => y.hide s.onDie line x)) s2
      let s4 := (s3.l2In q line true).updMem (fun m =>
        lost.foldl (fun m k => m.poison (128 * line + 8 * k)) ((m.put q line l.dirty l.data).clear (fun u => lost.any (fun k => decide (u = .l1 c (16 * line + k))))))
      (s4.tellQueues (inLine line l.dirty)).updCore c (fun k =>
        { k with l1 := k.l1.set line { l with dirty := 0, lid := none, who := [] } })

/-- A line leaves L1, written back first if dirty. -/
def State.l1Drop (s : State) (d c line : Nat) : State :=
  ((s.l1Clean d c line).updCore c (fun k => { k with l1 := k.l1.del line })).updMem (fun m =>
    m.clear (fun u => (List.range 16).any (fun k => decide (u = .l1 c (16 * line + k)))))

/-- Every dirty line of a core is written back (11_ordering.md R286, release at cluster or wider). -/
def State.l1Release (s : State) (d c : Nat) : State :=
  ((s.core c).l1.map (·.1)).foldl (fun s line => s.l1Clean d c line) s

/-- The clean bytes of a line of L1 are read anew at L2, by a request of the core's lanes (log entry 22). -/
def State.l1Refresh (s : State) (d c line : Nat) : State :=
  match (s.core c).l1? line with
  | none => s
  | some l =>
    let s1 := ((s.syncTouch (128 * line) 128).l2In (l.master d c) line false).ferryLine (l.master d c) (128 * line) false
    s1.updCore c (fun k => { k with l1 := k.l1.set line { l with data := lineMerge (s1.mem.lookLine d line) l.data l.dirty } })

/-- Every clean line of a core is invalidated, and the clean bytes of a dirty line are read anew (11_ordering.md R286,
acquire at cluster or wider; log entry 22). -/
def State.l1Acquire (s : State) (d c : Nat) : State :=
  let s1 := s.updCore c (fun k => { k with l1 := keepVals (fun _ l => !decide (l.dirty = 0)) k.l1 })
  ((s1.core c).l1.map (·.1)).foldl (fun s line => s.l1Refresh d c line) s1

/-- Lines of the set that a line of L1 belongs to (10_memory.md R253; log entry 20). -/
def Core.l1Set (c : Core) (line : Nat) : SMap L1Line :=
  c.l1.filter (fun p => decide (Config.l1Set p.1 % 256 = Config.l1Set line % 256))

/-- A way of L1 that holds no line of a list: the ways that are not scratchpad, lowest first (10_memory.md R246). -/
def Core.wayFree (c : Core) (l : SMap L1Line) : Option Nat :=
  ((List.range (8 - c.ways)).map (fun k => c.ways + k)).find? (fun w => l.all (fun p => !decide (p.2.way = w)))

/-- Room in L1 for one more line, and its way: where every way of its set is taken, a streaming line goes first, else a free
choice; the order changes timing only (10_memory.md R253). -/
def State.l1MakeRoom (s : State) (d c line : Nat) : State × Nat :=
  let k := s.core c
  match k.wayFree k.l1 with
  | some w => (s, w)
  | none =>
    let set := k.l1Set line
    match k.wayFree set with
    | some w => (s, w)
    | none =>
      let victim := match List.find? (fun p => p.2.next) set with
        | some p => some p
        | none => set[Config.freeDelay s.tick % set.length]?
      match victim with
      | some p => (s.l1Drop d c p.1, p.2.way)
      | none => (s, 7)

/-- L1 holds the line: taken in from L2 where it did not. -/
def State.l1Fill (s : State) (m : Master) (c line : Nat) (next : Bool) : State :=
  match (s.core c).l1? line with
  | some _ => s
  | none =>
    let r := s.l1MakeRoom m.die c line
    let s1 := ((r.1.syncTouch (128 * line) 128).l2In m line false).ferryLine m (128 * line) false
    let l : L1Line := { data := s1.mem.lookLine m.die line, dirty := 0, tid := m.tid, part := m.part, next := next, way := r.2 }
    (s1.updCore c (fun k => { k with l1 := k.l1.set line l })).updMem (fun x =>
      x.clear (fun u => (List.range 16).any (fun k => decide (u = .l1 c (16 * line + k)))))

/-- L1 holds every byte of the sector of an address as written on the core: no read of it meets an error of memory
(16_recovery.md R439). -/
def Core.ownSector (c : Core) (a : Nat) : Bool :=
  match c.l1? (a / 128) with
  | some l => decide (field l.dirty (a % 128 / 32 * 32 + 31) (a % 128 / 32 * 32) = 2 ^ 32 - 1)
  | none => false

/-- A read of n bytes meets an error in a line that L1 holds: in dirty bytes it is not to be corrected, and a clean word is fetched
anew, which counts as corrected (16_recovery.md R438, R439). -/
def State.l1Meets (s : State) (d c a n : Nat) : State × Option Met :=
  match (s.core c).l1? (a / 128) with
  | none => (s, none)
  | some l =>
    match s.mem.l1Bad c (a / 128) (runMask (a % 128) n) with
    | [] => (s, none)
    | ks =>
      if ks.any (fun k => decide (l.dirty &&& runMask (8 * k) 8 ≠ 0)) then (s, some (2, a / 128 * 128))
      else
        let t := (s.l1Refresh d c (a / 128)).updMem (fun m =>
          m.clear (fun u => ks.any (fun k => decide (u = .l1 c (16 * (a / 128) + k)))))
        ({ t with corrected := t.corrected ++ [d] }, none)

/-- A lane read of n bytes through L1 by the CACHE field; atL2 for an access that R312 sends to L2. -/
def State.laneRead (s : State) (m : Master) (c a n : Nat) (cache : CacheMode) (atL2 : Bool) : State × Option Nat :=
  let line := a / 128
  let held := ((s.core c).l1? line).isSome
  if atL2 then (s.l1Drop m.die c line).l2Read m a n
  else if cache = .l2only ∧ held = false then s.l2Read m a n
  else
    let r := if held then s.l1Meets m.die c a n else (s, none)
    let r := if r.2.isSome || (s.core c).ownSector a then r else if held then r.1.meetsMem a n else r.1.meets m.die a n
    match r.2 with
    | some e => (r.1.consumeAt m e, none)
    | none =>
      let s1 := ((r.1.l1Fill m c line (decide (cache = .streaming))).trackRead m.lid a).observe m c line (runMask (a % 128) n)
      (s1, ((s1.core c).l1? line).map (fun l => lineRun l.data (a % 128) n))

/-- A write of a tensor id other than 0 retags a line (10_memory.md R260). -/
def L1Line.retag (l : L1Line) (m : Master) : L1Line := if m.tid = 0 then l else { l with tid := m.tid, part := m.part }

/-- Who wrote the dirty bytes of a line of L1, after a store of an access to the bytes that a mask names (11_ordering.md R308). -/
def L1Line.wroteBy (l : L1Line) (m : Master) (mask : BitVec 128) : List Wrote :=
  let rest := (l.who.map (fun x => { x with mask := x.mask &&& ~~~mask })).filter (fun x => !decide (x.mask = 0))
  match m.who with
  | some a => rest ++ [{ lid := a.1, by_ := a.2, mask := mask }]
  | none => rest

/-- A store over whole words that L1 holds in error removes the errors, which are logged only (16_recovery.md R439). -/
def State.l1Mend (s : State) (c line : Nat) (mask : BitVec 128) : State :=
  ((s.mem.l1Bad c line mask).filter (fun k => decide (mask &&& runMask (8 * k) 8 = runMask (8 * k) 8))).foldl (fun s k =>
    (s.updMem (fun m => m.clear (fun u => decide (u = .l1 c (16 * line + k))))).logErr
      { addr := 128 * line, kind := 5, what := 2, where_ := c }) s

/-- A lane write of n bytes within one line. The read that takes a line in for it may not be held, being part of a write
(13_scheduling.md R375). -/
def State.laneWrite (s : State) (m : Master) (c a n v : Nat) (cache : CacheMode) (atL2 : Bool) : State :=
  let line := a / 128
  let mask := runMask (a % 128) n
  let data := runData (a % 128) (v % 2 ^ (8 * n))
  if atL2 then (s.l1Drop m.die c line).l2Write m a n v
  else
    match cache with
    | .l2only =>
      let s1 := s.l2Write m a n v
      match (s1.core c).l1? line with
      | none => s1
      | some l =>
        let l1 := { l with data := lineMerge l.data data mask, dirty := l.dirty &&& ~~~mask,
                           who := l.wroteBy { m with lid := none } mask }.retag m
        (s1.updCore c (fun k => { k with l1 := k.l1.set line l1 })).l1Mend c line mask
    | _ =>
      let s1 := (s.l1Fill { m with hold := false } c line (decide (cache = .streaming))).trackWrite m.lid a
      match (s1.core c).l1? line with
      | none => s1
      | some l =>
        let l1 := { l with data := lineMerge l.data data mask, dirty := l.dirty ||| mask, lid := m.lid, cls := m.cls,
                           slack := m.slack, who := l.wroteBy m mask }.retag m
        (s1.updCore c (fun k => { k with l1 := k.l1.set line l1 })).l1Mend c line mask

/-! ## Releases and acquires (11_ordering.md R286, R287, R290, R291, R293) -/

/-- Scope codes (11_ordering.md R282). -/
def scopeNum : Scope → Nat
  | .lane => 0
  | .warp => 1
  | .core => 2
  | .cluster => 3
  | .die => 4
  | .device => 5
  | .system => 6

/-- The release acts on L1: cluster scope or wider. -/
def scopeWide (c : Scope) : Bool := decide (3 ≤ scopeNum c)

/-- The release closes the epoch: device or system scope. -/
def scopeFar (c : Scope) : Bool := decide (5 ≤ scopeNum c)

/-- What a release of an agent does before its write: L1 is written back, at device scope the epoch advances, and what the agent
knows of is offered to who acquires (11_ordering.md R286, R287, R290). -/
def State.release (s : State) (d c : Nat) (sc : Scope) (who : Option Agent) : State :=
  let s1 := if scopeWide sc then s.l1Release d c else s
  let s2 := if scopeFar sc then s1.updMem (fun m => m.bump d) else s1
  match who with
  | some a => if scopeWide sc then s2.tellWho c (Wrote.offer a) else s2
  | none => s2

/-- A release at system scope of an agent has been performed, its write included: the host and fabric peers see what it knows of
(11_ordering.md R290, R308; log entry 35). -/
def State.released (s : State) (m : Master) (sc : Scope) : State :=
  match m.who with
  | some a => if sc = .system then s.updMem (fun x => x.publish a) else s
  | none => s

/-- What an acquire does to L1, and what its agent takes over. -/
def State.acquire (s : State) (d c : Nat) (sc : Scope) (who : Option Agent) : State :=
  let s1 := if scopeWide sc then s.l1Acquire d c else s
  match who with
  | some a => if scopeWide sc then s1.tellWho c (Wrote.take a) else s1
  | none => s1

/-- A barrier, join counter or start of a task acquires at device scope on a die: it has seen every earlier epoch of the
releases it meets (11_ordering.md R291, R293). -/
def State.acquireAll (s : State) (d c : Nat) (sc : Scope) (who : Option Agent) : State :=
  let s1 := if scopeFar sc then s.updMem (fun m => m.drain (1 - d) (m.epoch (1 - d))) else s
  s1.acquire d c sc who

/-- All of the task of a slot, as an agent, and one of its lanes or queues. -/
def State.taskAgent (s : State) (w : Nat) : Agent := ((s.warp w).lid, 64 * (s.warp w).taskId + 63)
def State.agentOf (s : State) (w i : Nat) : Agent := ((s.warp w).lid, 64 * (s.warp w).taskId + i)

/-- Lanes of a slot meet (11_ordering.md R293). -/
def State.meetLanes (s : State) (w : Nat) (lanes : List Nat) : State := s.tellWho (coreOf w) (Wrote.share (lanes.map (s.agentOf w)))

/-! ## Atomics (12_memory_instr.md R317) -/

/-- Access size of an atomic operation in bytes (12_memory_instr.md R316). -/
def atomSize : AtomOp → Nat
  | .add64 | .swap64 | .cas64 => 8
  | _ => 4

/-- The new value, none for a cas that fails or leaves the value as it is, which performs no write (12_memory_instr.md R317). -/
def atomNew (op : AtomOp) (old b c : Word64) : Option Word64 :=
  let o := old.setWidth 32
  let v := b.setWidth 32
  match op with
  | .add32 => some ((o + v).setWidth 64)
  | .add64 => some (old + b)
  | .fadd32 => some ((fAdd false o v).val.setWidth 64)
  | .mins32 => some ((if o.slt v then o else v).setWidth 64)
  | .maxs32 => some ((if o.slt v then v else o).setWidth 64)
  | .minu32 => some ((if o.ult v then o else v).setWidth 64)
  | .maxu32 => some ((if o.ult v then v else o).setWidth 64)
  | .and32 => some ((o &&& v).setWidth 64)
  | .or32 => some ((o ||| v).setWidth 64)
  | .xor32 => some ((o ^^^ v).setWidth 64)
  | .swap32 => some (v.setWidth 64)
  | .swap64 => some b
  | .cas32 => if o = v ∧ c.setWidth 32 ≠ o then some ((c.setWidth 32).setWidth 64) else none
  | .cas64 => if old = b ∧ c ≠ old then some c else none

/-! ## Cluster task queues, and records held on a counter (02_execution.md R50, 13_scheduling.md R355, R356) -/

/-- Capacity of a cluster's overflow area in records (13_scheduling.md R356). -/
def State.overflowCap (s : State) (g : Nat) : Nat :=
  field (s.reg (dieBlk (dieOf g) (0x5000 + 16 * (g % 64) + 8))) 23 0

/-- A record that finds the on-chip head full takes the next place of the ring in the cluster's overflow area: 64 bytes in the
scheduler's own format, which are free values (13_scheduling.md R356). -/
def State.overflowWrite (s : State) (g : Nat) : State :=
  let base := field (s.reg (dieBlk (dieOf g) (0x5000 + 16 * (g % 64)))) 47 12 * 4096
  let n := (s.cluster g).ovTail
  let a := base + 64 * (n % s.overflowCap g)
  let s1 := s.updMem (fun m => (List.range 64).foldl (fun m j =>
    m.stackSet (a + j) ((Config.freeWord64 (2 ^ 97 + 64 * s.tick + j)).setWidth 8)) m)
  s1.updCluster g (fun x => { x with ovTail := n + 1 })

/-- A record enters a cluster's queue: the on-chip head holds 256, and the overflow area those beyond them; one that finds both
full ends its launch with QFULL, with the given fields in the fault record (13_scheduling.md R355). -/
def State.enqueue (s : State) (g : Nat) (q : QRec) (f : FaultRec) : State :=
  let n := (s.cluster g).queue.length
  if n < 256 + s.overflowCap g then
    (if n < 256 then s else s.overflowWrite g).updCluster g (fun x => { x with queue := x.queue ++ [q] })
  else s.endLaunch q.lid { f with code := 0x0B }

/-- The launch still runs. -/
def State.runs (s : State) (lid : Nat) : Bool :=
  match s.launch? lid with
  | some l => decide (l.st = .running)
  | none => false

/-- The continuation records that wait on a counter which has fallen to zero enter their queues (02_execution.md R50). -/
def State.releaseHeld (s : State) (ctr : Nat) : State :=
  let hs := s.mem.held.filter (fun h => decide (h.ctr = ctr))
  hs.foldl (fun s h => if s.runs h.trec.lid then s.enqueue h.clu h.trec { task := h.trec.id } else s)
    (s.updMem (fun m => { m with held := m.held.filter (fun h => !decide (h.ctr = ctr)) }))

/-! ## Atomics at their engines (11_ordering.md R296, 12_memory_instr.md R317) -/

/-- The value of an atomic's operand in memory, as its engine finds it. -/
def granuleGet (v : Word64) (a n : Nat) : Word64 := BitVec.ofNat 64 (v.toNat / 2 ^ (8 * (a % 8)) % 2 ^ (8 * n))

/-- The engine performs an atomic on its granule: the old value (11_ordering.md R296, 12_memory_instr.md R317). A write of a
tensor id other than 0 retags the line (10_memory.md R260). -/
def Mem.atomic (m : Mem) (d a stamp : Nat) (op : AtomOp) (b c : Word64) (acq : Bool) (tid part : Nat) : Mem × Word64 :=
  let m1 := if homeOf a = d then m else m.drainLine d (a / 128)
  let m2 := m1.grab a stamp tid part
  let m3 := if acq then m2.acquireAt d a else m2
  match m3.granule? a with
  | none => (m3, 0)
  | some g =>
    let n := atomSize op
    let old := granuleGet g.val a n
    match atomNew op old b c with
    | some x =>
      let msk : Word64 := BitVec.ofNat 64 (2 ^ (8 * n) - 1) <<< (8 * (a % 8))
      let v := (g.val &&& ~~~msk) ||| (BitVec.ofNat 64 (x.toNat % 2 ^ (8 * n)) <<< (8 * (a % 8)))
      ((m3.setGranule a ((({ g with val := v } : Granule).stamp d (m3.epoch d)).retag tid part)).retagHome (a / 128) tid part, old)
    | none => (m3, old)

/-- The granule at an address holds zero after an operation of its engine: records held on it are released
(02_execution.md R50). -/
def State.afterAtomic (s : State) (a : Nat) : State :=
  if s.mem.held.isEmpty then s
  else
    match s.mem.granule? a with
    | some g => if g.val = 0 then s.releaseHeld (a / 8 * 8) else s
    | none => s

/-- An atomic at the engine of its home die (12_memory_instr.md R317). A granule that the engine does not hold and whose line the
home L2 does not hold is a request of the access (10_memory.md R272); a cas that fails writes nothing. -/
def State.atomic (s : State) (m : Master) (a : Nat) (op : AtomOp) (b c : Word64) (acq : Bool) : State × Option Word64 :=
  let n := atomSize op
  let r0 := (s.trackRead m.lid a).meetUnit (.syncUnit (homeOf a)) m
  let r := if r0.2 then (r0.1, some (8, 0)) else r0.1.meets (homeOf a) a n
  match r.2 with
  | some e => (if r0.2 then r.1 else r.1.consumeAt m e, none)
  | none =>
    let s1 := (r.1.ferryLine m a true).observe m m.code (a / 128) (runMask (a % 128) n)
    let s2 := s1.updMem (fun x =>
      let y := if homeOf a = m.die then x else x.drainLine m.die (a / 128)
      if (y.granule? a).isSome || (y.line? (homeOf a) (a / 128)).isSome then y else y.request { m with hold := false } a n false)
    let old := BitVec.ofNat 64 (ofBytes ((List.range n).map (fun k => s2.mem.atHome (a + k))))
    let s3 := if (atomNew op old b c).isSome then
        ((s2.trackWrite m.lid a).veil m.who (a / 128) (runMask (a % 128) n)) else s2
    let x := s3.mem.atomic m.die a s.clock op b c acq m.tid m.part
    let s4 := { s3 with mem := x.1 }.syncUse (a / 8)
    (if (atomNew op old b c).isSome then (s4.afterAtomic a).tellQueues (inLine (a / 128) (runMask (a % 128) n)) else s4, some x.2)

/-- The oldest lane atomic that its lane does not wait for is performed, and its old value enters l0 of the lane
(12_memory_instr.md R318, 03_encoding.md R68). -/
def State.syncOne (s : State) : State :=
  match s.mem.syncReqs with
  | [] => s
  | r :: rest =>
    match ({ s with mem := { s.mem with syncReqs := rest } }).atomic r.m r.addr r.op r.b r.c false with
    | (t, none) => t
    | (t, some v) =>
      let wp := t.warp r.warp
      if wp.resident && decide (some wp.lid = r.m.lid) && decide (wp.taskId = r.task) then
        t.setWarp r.warp (wp.updLane r.lane (fun l => { l with l0 := v.setWidth 32 }))
      else t

/-- Every such atomic is performed: they come before any later access, and before the next issue. -/
def State.syncAll (s : State) : State := (List.range s.mem.syncReqs.length).foldl (fun s _ => s.syncOne) s

end Sys2Proof.Machine
end

