-- ==== Sys2Proof/Machine/LaneMem.lean ====
section
/-! DEFINITION. Lane accesses to memory: ld, st, atom, red, prf and fence, and the parameter windows
(12_memory_instr.md R309 to R320, R325 to R329). -/

namespace Sys2Proof.Machine

/-! ## The common course of a memory instruction (12_memory_instr.md R309 to R311) -/

/-- Default slack of a launch in ns (10_memory.md R272). -/
def State.slackOf (s : State) (w : Nat) : Nat := (s.launch (s.warp w).lid).slack

/-- The master of a lane access (10_memory.md R260, R272, R276, 15_isolation.md R409, R414). -/
def State.laneMaster (s : State) (w : Nat) (x : MemExt) : Master :=
  let wp := s.warp w
  { die := warpDie w, part := wp.part, space := wp.space, lid := some wp.lid, code := coreOf w, tid := wp.tid,
    cls := x.cls.toNat, slack := if x.slack = 0 then s.slackOf w else 2 ^ (x.slack.toNat + 4), rid := warpClu w,
    clu := some (warpClu w), hold := true, agent := 64 * w + 32, task := wp.taskId }

/-- The master of a strand access, and of an ldp (10_memory.md R272, 12_memory_instr.md R324, R327). -/
def State.strandMaster (s : State) (w : Nat) : Master :=
  let wp := s.warp w
  { die := warpDie w, part := wp.part, space := wp.space, lid := some wp.lid, code := coreOf w, tid := wp.tid,
    cls := 1, slack := s.slackOf w, rid := warpClu w, clu := some (warpClu w), hold := true, agent := 64 * w + 32, task := wp.taskId }

/-- The access of a lane of a slot. -/
def Master.by (m : Master) (w i : Nat) : Master := { m with agent := 64 * w + i }

/-- The lanes of the issuer's group wait on a translation fault and execute the instruction again
(15_isolation.md R419). -/
def State.groupWaits (s : State) (lanes : List Nat) (tok : Nat) : State :=
  s.updWarp s.cur.warp (fun w => w.updLanes lanes (fun _ l => { l with wait := .fault tok }))

/-- Each lane whose translation faulted waits on its own token; the group executes the instruction again once none waits. -/
def State.lanesWait (s : State) (xs : List (Nat × Xl)) : State :=
  s.updWarp s.cur.warp (fun w => xs.foldl (fun w p =>
    match p.2 with
    | .wait tok => w.updLane p.1 (fun l => { l with wait := .fault tok })
    | _ => w) w)

/-- Translate the addresses of several lanes in order. -/
def State.translateLanes (s : State) (m : Master) (k : AccKind) : List (Nat × Nat) → State × List (Nat × Xl)
  | [] => (s, [])
  | (i, va) :: rest =>
    let r := s.translate m va k ((s.warp s.cur.warp).lane i).failed
    let t := r.1.translateLanes m k rest
    (t.1, (i, r.2) :: t.2)

/-- The first token that one of the lanes waits on. -/
def firstWait : List (Nat × Xl) → Option Nat
  | [] => none
  | (_, .wait t) :: _ => some t
  | _ :: r => firstWait r

/-- Perform accesses in ascending lane order; none once an error was consumed (11_ordering.md R281,
12_memory_instr.md R317). -/
def performLanes (perform : State → Nat → Nat → State × Option LaneRes) :
    List (Nat × Nat) → State → State × Option (List (Nat × LaneRes))
  | [], s => (s, some [])
  | (i, a) :: rest, s =>
    match perform s i a with
    | (s1, none) => (s1, none)
    | (s1, some r) =>
      match performLanes perform rest s1 with
      | (s2, some l) => (s2, some ((i, r) :: l))
      | (s2, none) => (s2, none)

/-! ## Quarter 11 (10_memory.md R262, 11_ordering.md R308, 12_memory_instr.md R315, R319, 15_isolation.md R433) -/

/-- Node and offset of a quarter-11 address. -/
def nodeOf (pa : Nat) : Nat := pa / 2 ^ 38 % 256
def nodeOff (pa : Nat) : Nat := pa % 2 ^ 38

/-- The port by which an access of a partition leaves (15_isolation.md R433). -/
def State.outPort (s : State) (m : Master) (pa : Nat) : Nat := (s.portOf m.part (nodeOf pa)).getD 0

/-- A write reaches a destination node; the launch is no longer replayable (16_recovery.md R464). -/
def State.remoteWrite (s : State) (m : Master) (pa n v : Nat) : State :=
  let s1 := { s with outs := s.outs ++ [.node (s.outPort m pa) m.part (nodeOf pa) (nodeOff pa) n (v % 2 ^ (8 * n)) m.agent] }
  match m.lid with
  | some l => s1.markNrepl l
  | none => s1

/-- What a destination node answers to a partition; it may answer otherwise after each message sent. -/
def State.peerVal (s : State) (m : Master) (pa n : Nat) : Nat :=
  Config.peerRead m.part (nodeOf pa) (nodeOff pa) n (2 ^ 64 * s.clock + s.outs.length) % 2 ^ (8 * n)

/-- A read leaves by the partition's port, and the destination node answers it; none where the answer is in error (15_isolation.md
R433, 16_recovery.md R438, R439). -/
def State.remoteRead (s : State) (m : Master) (pa n : Nat) : State × Option Nat :=
  let s1 := { s with outs := s.outs ++ [.nodeRead (s.outPort m pa) m.part (nodeOf pa) (nodeOff pa) n m.agent] }
  if s.mem.upsets.contains (.port (nodeOf pa)) then
    ((s1.updMem (fun x => x.clear (fun u => decide (u = .port (nodeOf pa))))).consumeAt m (6, 0), none)
  else (s1, some (s.peerVal m pa n))

/-- An atomic is passed to a destination node, which performs it; the old value it returns (12_memory_instr.md R319). -/
def State.remoteAtomic (s : State) (m : Master) (pa : Nat) (op : AtomOp) (b c : Word64) : State × Nat :=
  let s1 := { s with outs := s.outs ++ [.nodeAtomic (s.outPort m pa) m.part (nodeOf pa) (nodeOff pa) op b c m.agent] }
  (match m.lid with
   | some l => s1.markNrepl l
   | none => s1, s.peerVal m pa (atomSize op))

/-- A system-scope release of an agent stands between its messages (11_ordering.md R308). -/
def State.marked (s : State) (m : Master) : State := { s with outs := s.outs ++ [.release m.agent] }

/-- What a release of a lane or strand does before its write (11_ordering.md R286, R287, R290, R308). -/
def State.releaseBy (s : State) (m : Master) (c : Nat) (sc : Scope) : State :=
  let s1 := s.release m.die c sc m.who
  if sc = .system then s1.marked m else s1

/-! ## Operations of q6 (11_ordering.md R301, R304, 12_memory_instr.md R318) -/

/-- The engine operations of the task of a slot that are not complete. -/
def State.opsOf (s : State) (w : Nat) : List EngOp :=
  let wp := s.warp w
  let mine (o : EngOp) : Bool := decide (o.lid = wp.lid) && decide (o.taskId = wp.taskId)
  wp.queues.flatMap (fun p => p.2) ++ (s.cores.flatMap (fun p => p.2.q0)).filter mine ++
    (s.clusters.flatMap (fun p => p.2.leases.flatMap (fun l => l.q0))).filter mine

/-- No qfence holds the operation back (11_ordering.md R304). -/
def State.mayStart (s : State) (o : EngOp) : Bool :=
  !(s.warp o.warp).fences.any (fun f => bitAt (BitVec.ofNat 8 f.set) o.q && decide (f.num ≤ o.num) &&
    (s.opsOf o.warp).any (fun p => bitAt (BitVec.ofNat 8 f.set) p.q && decide (p.num < f.num)))

/-- Lanes that wait for q6 look again. -/
def Warp.wakeQ6 (w : Warp) : Warp :=
  { w with lanes := mapVals (fun _ l => if l.wait = .q6 then { l with wait := .none } else l) w.lanes }

/-- The master of a red: its lane's (10_memory.md R272). -/
def State.redMaster (s : State) (o : EngOp) : Master :=
  { s.strandMaster o.warp with tid := o.tid, cls := o.cls, slack := o.slack, agent := 64 * o.warp + o.lane }

/-- The oldest q6 operation of a warp is performed at its engine: a release of its lane where its SEM is 2, and its line leaves
L1 (12_memory_instr.md R318, 11_ordering.md R286, R293, R301). -/
def State.redOne (s : State) (w : Nat) : State :=
  match (s.warp w).queues.get [] 6 with
  | [] => s
  | o :: rest =>
    let m := s.redMaster o
    let far := match o.redScope with
      | some sc => scopeFar sc
      | none => false
    let s1 := s.updWarp w (fun v => { v with queues := v.queues.set 6 rest }.wakeQ6)
    let s2 := if far then s1.updMem (fun y => y.bump m.die) else s1
    let s2 := if o.redScope.isSome then (match m.who with
      | some a => s2.tellWho (coreOf w) (Wrote.offer a)
      | none => s2) else s2
    let s3 := if o.redScope = some .system then s2.marked m else s2
    let s4 := if quarter o.redAddr = 3 then (s3.remoteAtomic m o.redAddr o.redOp o.redVal 0).1
      else ((s3.l1Drop m.die (coreOf w) (canonPa o.redAddr / 128)).atomic m (canonPa o.redAddr) o.redOp o.redVal 0 false).1
    match o.redScope with
    | some sc => s4.released m sc
    | none => s4

/-- A red of a lane in q6 writes one of n bytes of memory. -/
def EngOp.redMeets (o : EngOp) (i pa n : Nat) : Bool :=
  let key (a : Nat) : Nat := if quarter a < 2 then canonPa a else a
  decide (o.lane = i) && decide (key o.redAddr < key pa + n) && decide (key pa < key o.redAddr + atomSize o.redOp)

/-- The number of q6 operations up to the lane's last that writes one of the bytes (11_ordering.md R284). -/
def redUpTo (q : List EngOp) (i pa n : Nat) : Nat :=
  (List.range q.length).foldl (fun k j =>
    match q[j]? with
    | some o => if o.redMeets i pa n then j + 1 else k
    | none => k) 0

/-- One of the q6 operations that a lane's read of n bytes must come after may not begin yet. -/
def State.redHolds (s : State) (w i pa n : Nat) : Bool :=
  let q := (s.warp w).queues.get [] 6
  (q.take (redUpTo q i pa n)).any (fun o => !s.mayStart o)

/-- The lane's own reds of the bytes that it reads are performed first: it sees its own last write (11_ordering.md R284,
12_memory_instr.md R318). -/
def State.redFlush (s : State) (w i pa n : Nat) : State :=
  (List.range (redUpTo ((s.warp w).queues.get [] 6) i pa n)).foldl (fun s _ => s.redOne w) s

/-! ## The common course, continued -/

/-- A memory access by each executing lane: its checks in the order of 12_memory_instr.md R310, then the accesses in
ascending lane order, then the writes of registers. A lane without an address has its result without an access. A lane whose
translation faults, or whose own red of the bytes it reads may not begin yet, stays at the instruction and waits; the lanes of a
diverged warp do not wait for it (02_execution.md R31), and a converged warp, whose lanes share one PC, executes the instruction
again once none waits, unless a mismatch takes some of its lanes to the handler now (16_recovery.md R443; log entry 11). own is the number of bytes that a lane reads, 0 where it reads none. -/
def memOp (n : Stall) (len : Nat) (reads : View → List LRes) (ea : View → LaneRes ⊕ Addr) (size : Nat) (k : AccKind) (own : Nat) (m : Master)
    (perform : State → Nat → Nat → State × Option LaneRes) (s : State) : Answer :=
  let w := s.cur.warp
  let s := s.syncAll
  let verdict (i : Nat) : Option Nat :=
    match s.laneCheck (1, 1) reads i with
    | some c => some c
    | none =>
      match ea (s.view i) with
      | .inl _ => none
      | .inr a => if a.toNat % size ≠ 0 then some 0x0C else none
  let lanes := s.execLanes
  let ready := lanes.filter (fun i => (verdict i).isNone)
  let turned := lanes.filterMap (fun i => (verdict i).map (fun c => (i, LaneRes.trapped c)))
  let direct := ready.filterMap (fun i =>
    match ea (s.view i) with
    | .inl r => some (i, r)
    | .inr _ => none)
  let go := ready.filterMap (fun i =>
    match ea (s.view i) with
    | .inl _ => none
    | .inr a => some (i, a.toNat))
  let t := s.translateLanes m k go
  let found := t.2.filterMap (fun p =>
    match p.2 with
    | .ok pa => some (p.1, pa)
    | _ => none)
  let behind := if own = 0 then [] else (found.filter (fun p => t.1.redHolds w p.1 p.2 own)).map (fun p => p.1)
  let waits (s : State) : State := (s.lanesWait t.2).updWarp w (fun v => v.updLanes behind (fun _ l => { l with wait := .q6 }))
  let hit := turned.any (fun p => decide (p.2.trap = some 0x10))
  if (s.warp w).converged && !hit && ((firstWait t.2).isSome || !behind.isEmpty) then .next { (waits t.1) with glitch := none }
  else if t.2.any (fun p => decide (p.2 = .frozen)) then .next t.1
  else
      let t := (waits t.1, t.2)
      let pas := found.filter (fun p => !behind.contains p.1)
      let faulted := t.2.filterMap (fun p =>
        match p.2 with
        | .failed => some (p.1, LaneRes.trapped 0x0D)
        | _ => none)
      match pas.find? (fun p => !t.1.paAllowed m.part p.2 k) with
      | some p => .next (t.1.freeze m p.2 k)
      | none =>
        match performLanes (fun s i pa => perform (if own = 0 then s else s.redFlush w i pa own) i pa) pas t.1 with
        | (s2, none) => .next s2
        | (s2, some rs) => .next (s2.finishLanes w len 0 n.toNat (1, 1) (rs ++ direct ++ turned ++ faulted))

/-- EA := (s[BASE] + sext(a, 32) + sext(OFF, 13)) mod 2^56 (12_memory_instr.md R313). -/
def effAddr (a : Src) (x : MemExt) (v : View) : Addr :=
  (v.w.sreg x.base.toNat + (v.src 0 a).signExtend 64 + x.off.signExtend 64).setWidth 56

/-- Every lane accesses its effective address. -/
def memEa (a : Src) (x : MemExt) (v : View) : LaneRes ⊕ Addr := .inr (effAddr a x v)

/-! ## ld and st -/

/-- Access size of a width in bytes (12_memory_instr.md R313). -/
def widthSize : Width → Nat
  | .u8 | .s8 => 1
  | .u16 | .s16 => 2
  | .w32 => 4
  | .w64 => 8
  | .w128 => 16

/-- The registers that a loaded value gives (12_memory_instr.md R313, R314). -/
def loaded (d : Dst) (w : Width) (v : Nat) : LaneRes :=
  let word (k : Nat) : Word := BitVec.ofNat 32 (v / 2 ^ (32 * k))
  let more (c : Nat) : List (LRes × Word) :=
    match d with
    | .o r => (List.range c).map (fun k => (.o (r.toNat + k + 1), word (k + 1)))
    | .zero => []
  match w with
  | .u8 => .val d (BitVec.ofNat 32 (v % 256))
  | .s8 => .val d ((BitVec.ofNat 8 v).signExtend 32)
  | .u16 => .val d (BitVec.ofNat 32 (v % 65536))
  | .s16 => .val d ((BitVec.ofNat 16 v).signExtend 32)
  | .w32 => .val d (word 0)
  | .w64 => { d := some (d, word 0), wr := more 1 }
  | .w128 => { d := some (d, word 0), wr := more 3 }

/-- The value that a store takes from its registers, the operand of number j and those after it (12_memory_instr.md R313). -/
def stored (v : View) (j : Nat) (d : Src) (w : Width) : Nat :=
  let reg (k : Nat) : Nat :=
    match d with
    | .o r => (v.part j r.toNat k).toNat
    | _ => (v.src j d).toNat
  match w with
  | .w64 => reg 0 + reg 1 * 2 ^ 32
  | .w128 => reg 0 + reg 1 * 2 ^ 32 + reg 2 * 2 ^ 64 + reg 3 * 2 ^ 96
  | _ => (v.src j d).toNat

/-- The resources that a stored value is read from. -/
def storedRes (d : Src) (w : Width) : List LRes :=
  let c := match w with
    | .w64 => 2
    | .w128 => 4
    | _ => 1
  match d with
  | .o r => (List.range c).map (fun k => LRes.o (r.toNat + k))
  | _ => srcRes d

/-- The access is made at L2: SEM 1 or 2 at cluster scope or wider (12_memory_instr.md R312). -/
def MemExtAtL2 (x : MemExt) : Bool := !decide (x.sem = .plain) && scopeWide x.scope

/-- Does SEM acquire, does it release (11_ordering.md R293). -/
def semAcq : Sem → Bool
  | .acquire | .acqRel => true
  | _ => false
def semRel : Sem → Bool
  | .release | .acqRel => true
  | _ => false

/-- One lane's read, of 1, 2, 4, 8 or 16 bytes (12_memory_instr.md R312 to R315). An acquire at device or system scope that reads
granules of an engine waits for the epochs of each of them; one that reads another node waits for every write that the node may
have seen (11_ordering.md R291; log entry 23). -/
def State.ldOne (s : State) (m : Master) (c : Nat) (x : MemExt) (n pa : Nat) : State × Option Nat :=
  if quarter pa = 3 then
    let r := if n = 16 then
        let lo := s.remoteRead m pa 8
        let hi := lo.1.remoteRead m (pa + 8) 8
        (hi.1, do return (← lo.2) + (← hi.2) * 2 ^ 64)
      else s.remoteRead m pa n
    (if semAcq x.sem then r.1.acquireAll m.die c x.scope m.who else r.1, r.2)
  else
    let a := canonPa pa
    let r := s.laneRead m c a n x.cache (MemExtAtL2 x)
    if semAcq x.sem then
      let s1 := if scopeFar x.scope then r.1.updMem (fun y => (y.acquireAt m.die a).acquireAt m.die (a + n - 1)) else r.1
      (s1.acquire m.die c x.scope m.who, r.2)
    else r

/-- Each executing lane reads memory into its registers (12_memory_instr.md R313, R314). -/
def execLd (n : Stall) (d : Dst) (a : Src) (w : Width) (x : MemExt) (s : State) : Answer :=
  let c := coreOf s.cur.warp
  let m := s.laneMaster s.cur.warp x
  memOp n 8 (fun _ => srcRes a) (memEa a x) (widthSize w) .read (widthSize w) m
    (fun t i pa =>
      let r := t.ldOne (m.by s.cur.warp i) c x (widthSize w) pa
      (r.1.updWarp s.cur.warp (fun v => { v with loadOut := true }), r.2.map (loaded d w))) s

/-- One lane's write; the two halves of 16 bytes reach memory together, which R281 allows, so that a record access falls on one
side of it (06_square_tiles.md R143, 12_memory_instr.md R312 to R315, 11_ordering.md R290). -/
def State.stOne (s : State) (m : Master) (c : Nat) (x : MemExt) (n pa v : Nat) : State :=
  let rel := semRel x.sem
  let s1 := if rel then s.releaseBy m c x.scope else s
  let s2 := if quarter pa = 3 then
      if n = 16 then (s1.remoteWrite m pa 8 v).remoteWrite m (pa + 8) 8 (v / 2 ^ 64) else s1.remoteWrite m pa n v
    else s1.laneWrite m c (canonPa pa) n v x.cache (MemExtAtL2 x)
  if rel then s2.released m x.scope else s2

/-- Each executing lane writes memory from its registers (12_memory_instr.md R313, R314). -/
def execSt (n : Stall) (d : Src) (a : Src) (w : Width) (x : MemExt) (s : State) : Answer :=
  let c := coreOf s.cur.warp
  let m := s.laneMaster s.cur.warp x
  memOp n 8 (fun _ => srcRes a ++ storedRes d w) (memEa a x) (widthSize w) .write 0 m
    (fun t i pa => (t.stOne (m.by s.cur.warp i) c x (widthSize w) pa (stored (s.view i) 1 d w), some {})) s

/-! ## atom and red -/

/-- v, or the comparison value and the new value of a cas (12_memory_instr.md R316, R317). -/
def atomArgs (v : View) (p : AtomOp) (b : Src) : Word64 × Word64 :=
  let reg (k : Nat) : Word :=
    match b with
    | .o r => v.part 1 r.toNat k
    | _ => 0
  match p with
  | .add64 | .swap64 => (reg 1 ++ reg 0, 0)
  | .cas32 => ((reg 0).setWidth 64, (reg 1).setWidth 64)
  | .cas64 => (reg 1 ++ reg 0, reg 3 ++ reg 2)
  | _ => ((v.src 1 b).setWidth 64, 0)

/-- The resources that the operand of an atomic is read from. -/
def atomRes (p : AtomOp) (b : Src) : List LRes :=
  let c := match p with
    | .add64 | .swap64 | .cas32 => 2
    | .cas64 => 4
    | _ => 1
  match b with
  | .o r => (List.range c).map (fun k => LRes.o (r.toNat + k))
  | _ => srcRes b

/-- The registers that an old value gives (12_memory_instr.md R317). -/
def atomLoaded (d : Dst) (p : AtomOp) (v : Nat) : LaneRes := loaded d (if atomSize p = 8 then .w64 else .w32) v

/-- One lane's atomic at the engine, with its L1 line given up first (11_ordering.md R286, R296). -/
def State.atomOne (s : State) (m : Master) (c : Nat) (x : MemExt) (pa : Nat) (p : AtomOp) (b b2 : Word64) :
    State × Option Nat :=
  let s1 := if semRel x.sem then s.releaseBy m c x.scope else s
  let done (s : State) : State := if semRel x.sem then s.released m x.scope else s
  if quarter pa = 3 then
    let r := s1.remoteAtomic m pa p b b2
    (if semAcq x.sem then (done r.1).acquireAll m.die c x.scope m.who else done r.1, some r.2)
  else
    let a := canonPa pa
    let r := (s1.l1Drop m.die c (a / 128)).atomic m a p b b2 (semAcq x.sem && scopeFar x.scope)
    (if semAcq x.sem then (done r.1).acquire m.die c x.scope m.who else done r.1, r.2.map (fun v => v.toNat))

/-- Each executing lane performs an atomic and receives the old value; one to code 18 without semantics does not make its
lane wait, and its old value enters l0 when the engine has performed it (12_memory_instr.md R316 to R319). -/
def execAtom (n : Stall) (d : Dst) (a b : Src) (p : AtomOp) (x : MemExt) (s : State) : Answer :=
  let c := coreOf s.cur.warp
  let m0 := s.laneMaster s.cur.warp x
  memOp n 8 (fun _ => srcRes a ++ atomRes p b) (memEa a x) (atomSize p) .atomic (atomSize p) m0
    (fun t i pa =>
      let m := m0.by s.cur.warp i
      let v := atomArgs (s.view i) p b
      if d = .zero ∧ x.sem = .plain ∧ quarter pa < 3 then
        let q : SyncReq := { warp := s.cur.warp, lane := i, task := (s.warp s.cur.warp).taskId, die := m.die, addr := canonPa pa,
                             op := p, b := v.1, c := v.2, m := m }
        ((t.l1Drop m.die c (canonPa pa / 128)).updMem (fun y => { y with syncReqs := y.syncReqs ++ [q] }),
         some (LaneRes.val .zero 0))
      else
        let r := t.atomOne m c x pa p v.1 v.2
        (r.1, r.2.map (atomLoaded d p))) s

/-- Place a red in q6, making room first where 16 operations are held (09_tensor_instr.md R210, 12_memory_instr.md
R318). -/
def State.redPush (s : State) (w : Nat) (o : EngOp) : State :=
  let s1 := if ((s.warp w).queues.get [] 6).length < 16 then s else s.redOne w
  s1.updWarp w (fun v => { v with queues := v.queues.set 6 (v.queues.get [] 6 ++ [{ o with num := v.opNum, q := 6 }]),
                                  opNum := v.opNum + 1 })

/-- The operations that must be performed before q6 has room for k more, the new ones among them, and one of them may not
begin yet (11_ordering.md R304). -/
def State.redStuck (s : State) (w k : Nat) : Bool :=
  let wp := s.warp w
  let q := wp.queues.get [] 6
  let new : EngOp := { kind := .red, warp := w, lid := wp.lid, taskId := wp.taskId, num := wp.opNum, q := 6 }
  (q.take (q.length + k - 16)).any (fun o => !s.mayStart o) || (decide (16 < k) && !s.mayStart new)

/-- Each executing lane places an operation in q6 and does not wait for it; while a full q6 may not give way, the lanes wait at
the instruction (12_memory_instr.md R316, R318, 11_ordering.md R304, 13_scheduling.md R362). -/
def execRed (n : Stall) (a b : Src) (p : AtomOp) (x : MemExt) (s : State) : Answer :=
  let c := coreOf s.cur.warp
  let m := s.laneMaster s.cur.warp x
  if s.redStuck s.cur.warp s.execLanes.length then
    .next (s.updWarp s.cur.warp (fun v => v.updLanes s.execLanes (fun _ l => { l with wait := .q6 })))
  else memOp n 8 (fun _ => srcRes a ++ atomRes p b) (memEa a x) (atomSize p) .atomic 0 m
    (fun t i pa =>
      let v := atomArgs (s.view i) p b
      let t1 := if semRel x.sem ∧ scopeWide x.scope then t.l1Release m.die c else t
      let t2 := if quarter pa = 3 then t1 else t1.l1Drop m.die c (canonPa pa / 128)
      let wp := s.warp s.cur.warp
      (t2.redPush s.cur.warp
        { kind := .red, warp := s.cur.warp, lid := wp.lid, taskId := wp.taskId, num := 0, redAddr := pa, redOp := p,
          redVal := v.1, redScope := if semRel x.sem then some x.scope else none, tid := wp.tid, lane := i, cls := m.cls,
          slack := m.slack }, some {})) s

/-! ## prf and fence -/

/-- The translation that a prefetch finds, by a walk where no TLB holds it (12_memory_instr.md R320). -/
def State.prefetchEnt (s : State) (m : Master) (va : Nat) : State × Option TlbEnt :=
  match s.tlbFor m va with
  | some e => (s, some e)
  | none =>
    match s.walk m va with
    | (t, .page e) => (t.tlbFill m e, some e)
    | (t, _) => (t, none)

/-- The line of one prefetch comes into L1 and L2, or into L2 only; a fault, a violation or quarter 11 drops it
(12_memory_instr.md R320). -/
def State.prefetch (s : State) (m : Master) (c va : Nat) (l2only : Bool) : State :=
  match s.prefetchEnt m va with
  | (t, none) => t
  | (t, some e) =>
    let pa := e.pbase + va % 2 ^ e.bits
    if e.rd ∧ quarter pa < 2 ∧ t.allowed m.part pa false then
      let line := canonPa pa / 128
      if l2only then ((t.syncTouch (128 * line) 128).l2In m line false).ferryLine m pa false else t.l1Fill m c line false
    else t

/-- Each executing lane prefetches a line; no value changes (12_memory_instr.md R320). -/
def execPrf (n : Stall) (a : Src) (q : BitVec 1) (x : MemExt) (s : State) : Answer :=
  let c := coreOf s.cur.warp
  let m := s.laneMaster s.cur.warp x
  match laneOp n 8 0 (1, 1) (fun _ => srcRes a) (fun _ => {}) s with
  | .next t =>
    .next ((s.execLanes.filter (fun i => (s.laneCheck (1, 1) (fun _ => srcRes a) i).isNone)).foldl
      (fun t i => t.prefetch (m.by s.cur.warp i) c (effAddr a x (s.view i)).toNat (decide (q = 1))) t)
  | r => r

/-- What a fence of some agents of a core does to the caches and epochs of its die, and to what they know (11_ordering.md R286,
R287, R290, R294, R295). -/
def State.fence (s : State) (d c : Nat) (e : FenceSem) (o : Scope) (who : List Agent) : State :=
  let tell (f : Agent → Wrote → Wrote) (s : State) : State := if scopeWide o then who.foldl (fun s a => s.tellWho c (f a)) s else s
  let seen (s : State) : State :=
    tell Wrote.take ((if scopeFar o then s.updMem (fun m => m.acquireSeen d) else s).acquire d c o none)
  let shown (s : State) : State := tell Wrote.offer s
  match e with
  | .acq => seen s
  | .rel => shown (s.release d c o none)
  | .acqRel => seen (shown (s.release d c o none))
  | .sc =>
    let s1 := if scopeWide o then s.l1Release d c else s
    let s2 := if scopeFar o then s1.updMem (fun m => m.fenceSc d) else s1
    seen (shown s2)

/-- Each executing lane's accesses are ordered (12_memory_instr.md R328, R329). -/
def execFence (n : Stall) (e : FenceSem) (o : Scope) (s : State) : Answer :=
  let w := s.cur.warp
  let t := s.syncAll.fence (warpDie w) (coreOf w) e o (s.execLanes.map (s.agentOf w))
  let m := s.strandMaster w
  let t1 := if e ≠ .acq ∧ o = .system then
      s.execLanes.foldl (fun t i => (t.marked (m.by w i)).released (m.by w i) o) t else t
  laneOp n 4 0 (0, 0) (fun _ => []) (fun _ => {}) t1

/-! ## Parameter windows (12_memory_instr.md R325 to R327) -/

/-- Base and size of a window of a launch; size 0 is unbound (13_scheduling.md R346). -/
def Launch.window (l : Launch) (k : Nat) : Nat × Nat := l.wins.getD k (0, 0)

/-- One lane's word of a window (12_memory_instr.md R326). -/
def ldpWord (i : BitVec 8) (v : View) (a : Src) : Nat := i.toNat + (v.src 0 a).toNat

/-- d := word idx + a of window N, or 0 with POVR beyond its size (12_memory_instr.md R326). -/
def execLdp (n : Stall) (d : Dst) (a : Src) (w : BitVec 3) (i : BitVec 8) (s : State) : Answer :=
  let win := (s.launch (s.warp s.cur.warp).lid).window w.toNat
  let m := s.strandMaster s.cur.warp
  if win.2 = 0 then laneOp n 4 0 (1, 1) (fun _ => srcRes a) (fun _ => .trapped 0x07) s
  else
    memOp n 4 (fun _ => srcRes a)
      (fun v =>
        let j := ldpWord i v a
        if 4 * j + 4 > win.2 then .inl { d := some (d, 0), flags := fPOVR } else .inr (BitVec.ofNat 56 (win.1 + 4 * j)))
      1 .read 4 m
      (fun t _ pa =>
        let r : State × Option Nat := if quarter pa = 3 then t.remoteRead m pa 4
          else t.laneRead m (coreOf s.cur.warp) (canonPa pa) 4 .normal false
        (r.1.updWarp s.cur.warp (fun v => { v with loadOut := true }), r.2.map (loaded d .w32))) s

end Sys2Proof.Machine
end

