-- ==== Sys2Proof/Machine/Local.lean ====
section
/-! DEFINITION. Scratchpad, accumulator memory, the tile table and accumulator grants (10_memory.md R246 to R254,
09_tensor_instr.md R214 to R223, R235, R236, 12_memory_instr.md R321 to R323). -/

namespace Sys2Proof.Machine

/-! ## Local accesses of lanes -/

/-- An access to scratchpad or accumulator memory by each executing lane, in ascending lane order: its address or its
trap, then the access (12_memory_instr.md R309, R321 to R323). -/
def localOp (n : Stall) (reads : View → List LRes) (addr : View → Nat ⊕ Nat)
    (perform : State → Nat → Nat → State × Option LaneRes) (s : State) : Answer :=
  let verdict (i : Nat) : Nat ⊕ Nat :=
    match s.laneCheck (1, 1) reads i with
    | some c => .inl c
    | none => addr (s.view i)
  let turned := s.execLanes.filterMap (fun i =>
    match verdict i with
    | .inl c => some (i, LaneRes.trapped c)
    | .inr _ => none)
  let go := s.execLanes.filterMap (fun i =>
    match verdict i with
    | .inl _ => none
    | .inr a => some (i, a))
  match performLanes perform go s with
  | (t, none) => .next t
  | (t, some rs) => .next (t.finishLanes s.cur.warp 4 0 n.toNat (1, 1) (rs ++ turned))

/-- Bytes of a scratchpad (10_memory.md R246, R247). -/
def Core.spadBytes (c : Core) : Nat := 32768 * c.ways

def Core.spadGet (c : Core) (a n : Nat) : Nat := ofBytes (getBytes c.spad a n)

/-- A write over whole units of 8 bytes, or over the byte of a bad code, removes their errors, which are logged only
(16_recovery.md R438, R439, 06_square_tiles.md R131). -/
def State.mendSpad (s : State) (c a n : Nat) : State :=
  if s.mem.badSpad.isEmpty then s
  else
    let gone (x : Nat) : Bool :=
      let k := x % 2 ^ 20
      decide (x / 2 ^ 20 = c) &&
        (if k < 2 ^ 19 then decide (a ≤ 8 * k) && decide (8 * k + 8 ≤ a + n)
         else decide (a ≤ (k - 2 ^ 19) / 2) && decide ((k - 2 ^ 19) / 2 < a + n))
    (s.mem.badSpad.filter gone).foldl (fun s _ => s.logErr { kind := 5, what := 1, where_ := c })
      (s.updMem (fun m => { m with badSpad := m.badSpad.filter (fun x => !gone x) }))

/-- The same for an accumulator word. -/
def State.mendAcc (s : State) (c w : Nat) : State :=
  if s.mem.badAcc.contains (c * 2 ^ 20 + w) then
    (s.updMem (fun m => { m with badAcc := m.badAcc.filter (fun x => !decide (x = c * 2 ^ 20 + w)) })).logErr
      { kind := 5, what := 3, where_ := c }
  else s

def State.spadPut (s : State) (c a n v : Nat) : State :=
  (s.mendSpad c a n).updCore c (fun k => { k with spad := putBytes k.spad a (bytesOf n v) })

/-- Uncorrectable errors in n bytes of scratchpad (16_recovery.md R438, R439). -/
def State.spadBad (s : State) (c a n : Nat) : Bool :=
  !s.mem.badSpad.isEmpty && (List.range n).any (fun k =>
    s.mem.badSpad.contains (c * 2 ^ 20 + (a + k) / 8) || s.mem.badSpad.contains (c * 2 ^ 20 + 2 ^ 19 + 2 * (a + k)) ||
    s.mem.badSpad.contains (c * 2 ^ 20 + 2 ^ 19 + 2 * (a + k) + 1))

/-- The half bytes in error among n bytes of scratchpad, by number (06_square_tiles.md R131). -/
def State.spadBadHalves (s : State) (c a n : Nat) : List Nat :=
  if s.mem.badSpad.isEmpty then []
  else (List.range (2 * n)).filter (fun j =>
    s.mem.badSpad.contains (c * 2 ^ 20 + (a + j / 2) / 8) || s.mem.badSpad.contains (c * 2 ^ 20 + 2 ^ 19 + 2 * a + j))

/-- The offset of an lds or sts, or its trap (12_memory_instr.md R321). -/
def spadAddr (a b : Src) (size : Nat) (v : View) (room : Nat) : Nat ⊕ Nat :=
  let off := (v.src 0 a + v.src 1 b).toNat
  if off % size ≠ 0 then .inl 0x0C else if off + size > room then .inl 0x0B else .inr off

/-- Each executing lane reads scratchpad (12_memory_instr.md R321). -/
def execLds (n : Stall) (d : Dst) (a b : Src) (w : Width) (s : State) : Answer :=
  let c := coreOf s.cur.warp
  localOp n (fun _ => srcRes a ++ srcRes b) (fun v => spadAddr a b (widthSize w) v (s.core c).spadBytes)
    (fun t _ off =>
      if t.spadBad c off (widthSize w) then (t.consume (some (s.warp s.cur.warp).lid) 0 1 c, none)
      else (t, some (loaded d w ((t.core c).spadGet off (widthSize w))))) s

/-- Each executing lane writes scratchpad (12_memory_instr.md R321). -/
def execSts (n : Stall) (d a b : Src) (w : Width) (s : State) : Answer :=
  let c := coreOf s.cur.warp
  localOp n (fun _ => srcRes a ++ srcRes b ++ storedRes d w)
    (fun v => spadAddr a b (widthSize w) v (s.core c).spadBytes)
    (fun t i off => (t.spadPut c off (widthSize w) (stored (s.view i) 2 d w), some {})) s

/-! ## Grants (09_tensor_instr.md R235) -/

/-- The groups that a task's record names. -/
def Warp.groupNos (w : Warp) : List Nat := (List.range 4).filterMap (fun k => w.trec.group? k)

/-- A holder is the task of a slot, or one of its groups. -/
def Warp.speaksFor (w : Warp) (key : Nat) : Holder → Bool
  | .task k => decide (k = key)
  | .group lid g => decide (lid = w.lid) && w.groupNos.contains g

/-- A word lies in a grant of the task or of one of its groups on a core. -/
def State.granted (s : State) (w c word : Nat) : Bool :=
  (s.core c).grants.any (fun g =>
    (s.warp w).speaksFor w g.holder && decide (g.base ≤ word) && decide (word < g.base + g.size))

/-- The word of an lda or sta, or its trap (12_memory_instr.md R322). -/
def accAddr (s : State) (a b : Src) (v : View) : Nat ⊕ Nat :=
  let w := (v.src 0 a + v.src 1 b).toNat
  if 32768 ≤ w then .inl 0x0B else if s.granted s.cur.warp (coreOf s.cur.warp) w then .inr w else .inl 0x0B

/-- Each executing lane reads an accumulator word (12_memory_instr.md R322). -/
def execLda (n : Stall) (d : Dst) (a b : Src) (s : State) : Answer :=
  let c := coreOf s.cur.warp
  localOp n (fun _ => srcRes a ++ srcRes b) (accAddr s a b)
    (fun t _ w =>
      if t.mem.badAcc.contains (c * 2 ^ 20 + w) then (t.consume (some (s.warp s.cur.warp).lid) 0 3 c, none)
      else (t, some (.val d ((t.core c).acc.get 0 w)))) s

/-- Each executing lane writes an accumulator word (12_memory_instr.md R322). -/
def execSta (n : Stall) (d a b : Src) (s : State) : Answer :=
  let c := coreOf s.cur.warp
  localOp n (fun _ => srcRes a ++ srcRes b ++ srcRes d) (accAddr s a b)
    (fun t i w => ((t.mendAcc c w).updCore c (fun k => { k with acc := k.acc.set w ((s.view i).src 2 d) }), some {})) s

/-! ## Tiles -/

/-- The task may name the entry (09_tensor_instr.md R215). -/
def State.mayName (s : State) (w : Nat) (t : Tile) : Bool := (s.warp w).speaksFor w t.owner

/-- Lanes that wait on a tile of a core look again (09_tensor_instr.md R218). -/
def State.wakeTile (s : State) (c t : Nat) : State :=
  { s with warps := mapVals (fun k w =>
      if coreOf k = c && w.lanes.any (fun (p : Nat × Lane) => decide (p.2.wait = LaneWait.tile t)) then
        ({ w with lanes := mapVals (fun _ l => if l.wait = LaneWait.tile t then { l with wait := .none } else l) w.lanes }).clearStall s.clock
      else w) s.warps }

/-- Change a tile entry, and let its waiters look. -/
def State.setTile (s : State) (c t : Nat) (v : Option Tile) : State :=
  (s.updCore c (fun k =>
    { k with tiles := match v with
      | some x => k.tiles.set t x
      | none => k.tiles.del t })).wakeTile c t

/-- A number of a parameter block: n bytes at an offset. -/
def EngOp.pbNum (o : EngOp) (off n : Nat) : Nat := ofBytes ((o.pb.drop off).take n)

/-- The tile that a copy or gather operation fills (09_tensor_instr.md R226, R227, 12_memory_instr.md R335). -/
def EngOp.fillTile (o : EngOp) : Option Nat :=
  match o.kind with
  | .tcopy | .tquant => if o.pbNum 24 4 % 4 = 0 then some (o.pbNum 16 8 % 64) else none
  | .gath => some (o.pbNum 24 8 % 64)
  | _ => none

/-- The lanes of a warp that wait in twait or ldt on a tile, by PC group, lowest lane first. -/
def Warp.tileGroups (w : Warp) (t : Nat) : List (List Nat) :=
  let ws := (lanesOf w.live).filter (fun i => decide ((w.lane i).wait = LaneWait.tile t))
  ws.filterMap (fun i =>
    let g := ws.filter (fun j => decide ((w.lane j).pc = (w.lane i).pc))
    if g.head? = some i then some g else none)

/-- A held copy operation enters the groups that wait on its tile, each as its own (16_recovery.md R444). -/
def State.heldToGroups (s : State) (w : Nat) (o : EngOp) : State :=
  match o.fillTile with
  | none => s
  | some t =>
    if o.dests.any (fun p => decide (p.1 = coreOf w)) then
      let gs := (s.warp w).tileGroups t
      if gs.isEmpty then s
      else gs.foldl (fun s g => s.takeTraps w (g.map (fun i =>
        { lane := i, code := 0x10, pc := ((s.warp w).lane i).pc, syn := o.syn, unit := o.unit, tr := o.tr, tc := o.tc })))
        (s.tellHeld w o)
    else s

/-- Each held operation whose trap has not been delivered enters the groups that wait on its tile. -/
def State.heldToWaiters (s : State) (w : Nat) : State := (s.untolds w).foldl (fun s o => s.heldToGroups w o) s

/-- twait and ldt: the group waits while the entry fills or drains, traps where it may not wait, and else goes on
(09_tensor_instr.md R218). -/
def tileOp (t : BitVec 6) (reads : View → List LRes) (body : Tile → State → Answer) (s : State) : Answer :=
  let w := s.cur.warp
  let trap (s : State) : Answer := laneOp 0 4 0 (1, 1) reads (fun _ => .trapped 0x0B) s
  match (s.core (coreOf w)).tiles.find? t.toNat with
  | none => trap s
  | some e =>
    if e.fail || e.freeing || !s.mayName w e then trap s
    else if e.st = .ready then body e s
    else
      let bad (i : Nat) : Bool := (s.view i).w.seenChk (s.view i).second && (reads (s.view i)).any (fun r => (pendOf (s.view i).ln.pend r).isSome)
      let s1 := s.updWarp w (fun v => v.updLanes (s.execLanes.filter (fun i => !bad i)) (fun _ l => { l with wait := .tile t.toNat }))
      let s2 := s1.finishLanes w 4 0 0 (0, 0) ((s.execLanes.filter bad).map (fun i => (i, LaneRes.trapped 0x03)))
      .next { (s2.stallIfWaiting w).heldToWaiters w with glitch := s.glitch }

/-- Wait for a tile to become ready (09_tensor_instr.md R222). -/
def execTwait (n : Stall) (t : BitVec 6) (s : State) : Answer :=
  tileOp t (fun _ => []) (fun _ => laneOp n 4 0 (0, 0) (fun _ => []) (fun _ => {})) s

/-- Each executing lane reads a word of a ready tile (09_tensor_instr.md R223). -/
def execLdt (n : Stall) (d : Dst) (a : Src) (t : BitVec 6) (s : State) : Answer :=
  let c := coreOf s.cur.warp
  tileOp t (fun _ => srcRes a) (fun e s =>
    localOp n (fun _ => srcRes a)
      (fun v =>
        let off := (v.src 0 a).toNat
        if off % 4 ≠ 0 then .inl 0x0C else if off + 4 > e.size * 16 then .inl 0x0B else .inr (e.base * 16 + off))
      (fun x _ off =>
        if x.spadBad c off 4 then (x.consume (some (s.warp s.cur.warp).lid) 0 1 c, none)
        else (x, some (loaded d .w32 ((x.core c).spadGet off 4)))) s) s

/-- Two extents overlap. -/
def extentsMeet (b1 n1 b2 n2 : Nat) : Bool := decide (b1 < b2 + n2) && decide (b2 < b1 + n1)

/-- The entry that a descriptor makes, or its trap (09_tensor_instr.md R216, R220). An entry is made on the core of the task that
executes; no rule gives an entry on a core lent to a strait lease, where no task is resident (DEDUCED, log entry 40). -/
def State.tileOf (s : State) (w t : Nat) (x : Word64) : Nat ⊕ Tile :=
  let c := s.core (coreOf w)
  let wp := s.warp w
  let g := wp.trec.group? (field x 50 49)
  let size := field x 27 14
  let base := field x 13 0
  let swz := field x 48 46
  let owner? : Option Holder :=
    if bitAt x 51 then
      match g with
      | some k => if ((s.launch wp.lid).group k).bound then some (.group wp.lid k) else none
      | none => none
    else some (.task w)
  if (c.tiles.find? t).isSome then .inl 0x0B
  else if field x 63 52 ≠ 0 ∨ swz = 7 ∨ 8 ≤ field x 45 42 ∨ size = 0 ∨ 14336 < size ∨ size < field x 41 28 then .inl 0x0B
  else
    match owner? with
    | none => .inl 0x0B
    | some o =>
      if c.spadBytes < (base + size) * 16 ∨ c.tiles.any (fun p => extentsMeet base size p.2.base p.2.size) then .inl 0x0B
      else if 1 ≤ swz ∧ (base * 16 % 2 ^ (swz + 3) ≠ 0 ∨ size * 16 % 2 ^ (swz + 3) ≠ 0) then .inl 0x0C
      else .inr { st := if field x 41 28 = 0 then .ready else .filling, owner := o, base := base, size := size,
                  expect := field x 41 28, tfmt := field x 45 42, swz := swz }

/-- Allocate a tile entry (09_tensor_instr.md R220). -/
def execTalloc (n : Stall) (t a : BitVec 6) (s : State) : Answer :=
  strandOp (0, 0) [a.toNat] (fun s =>
    let w := s.cur.warp
    match s.tileOf w t.toNat (s.sval w 0 a.toNat) with
    | .inl c => s.strandTrap w c (s.warp w).spc
    | .inr e => (s.passU n.toNat 4).setTile (coreOf w) t.toNat (some e)) s

/-- The entry becomes empty once it is marked for it, every accepted fill has completed and nothing reads it
(09_tensor_instr.md R217). -/
def State.settleTile (s : State) (c t : Nat) : State :=
  match (s.core c).tiles.find? t with
  | some e => if e.freeing && decide (e.fills = 0) && decide (e.readers = 0) then s.setTile c t none else s
  | none => s

/-- Release a tile entry, at once or when its last fill and reader are done (09_tensor_instr.md R217, R221). -/
def execTfree (n : Stall) (t : BitVec 6) (s : State) : Answer :=
  strandOp (0, 0) [] (fun s =>
    let w := s.cur.warp
    let c := coreOf w
    match (s.core c).tiles.find? t.toNat with
    | none => s.strandTrap w 0x0B (s.warp w).spc
    | some e =>
      if e.freeing || !s.mayName w e then s.strandTrap w 0x0B (s.warp w).spc
      else ((s.passU n.toNat 4).setTile c t.toNat (some { e with freeing := true })).settleTile c t.toNat) s

/-! ## Accumulator grants -/

/-- The holder that a group slot names: its group when it is bound, else the task alone (09_tensor_instr.md R235). -/
def State.holderOf (s : State) (w k : Nat) : Holder :=
  let wp := s.warp w
  match wp.trec.group? k with
  | some g => if ((s.launch wp.lid).group g).bound then .group wp.lid g else .task w
  | none => .task w

/-- The cores that hold a resident member of a holder (09_tensor_instr.md R235): none of a lent cluster, where no task is
resident (DEDUCED, log entry 40). -/
def State.holderCores (s : State) : Holder → List Nat
  | .task w => [coreOf w]
  | .group lid g =>
    (s.warps.foldl (fun l p =>
      if p.2.resident && decide (p.2.lid = lid) && p.2.groupNos.contains g && !l.contains (coreOf p.1)
      then l ++ [coreOf p.1] else l) [])

/-- A holder holds a grant. -/
def State.holdsGrant (s : State) (h : Holder) : Bool :=
  s.cores.any (fun p => p.2.grants.any (fun g => decide (g.holder = h)))

/-- A request waits for a holder. -/
def State.asksGrant (s : State) (h : Holder) : Bool :=
  s.clusters.any (fun p => p.2.areqs.any (fun r => decide (r.holder = h)))

/-- The base words at which a size is free on every core of a list. -/
def State.grantBases (s : State) (size : Nat) (cores : List Nat) : List Nat :=
  ((List.range 128).map (fun k => 256 * k)).filter (fun b =>
    decide (b + size ≤ 32768) && cores.all (fun c => !(s.core c).grants.any (fun g => extentsMeet b size g.base g.size)))

/-- Put an item before the first of a list that it goes before. -/
def insertBy {α : Type} (before : α → α → Bool) (x : α) : List α → List α
  | [] => [x]
  | y :: r => if before x y then x :: y :: r else y :: insertBy before x r

/-- Which of the free ranges a grant takes is not stated: a free choice. -/
def pickOf (tick : Nat) : List Nat → Option Nat
  | [] => none
  | [b] => some b
  | l => l[Config.freeDelay tick % l.length]?

/-- Serve one accumulator request: the grant on all its cores, and the handle in s[D] (09_tensor_instr.md R235). -/
def State.serveOne (s : State) (g : Nat) (r : AReq) (b : Nat) : State :=
  let s0 := { s with clock := s.clock + 1 }
  let s1 := r.cores.foldl (fun t c => t.updCore c (fun k =>
    { k with grants := k.grants ++ [{ holder := r.holder, base := b, size := r.size, num := s.clock }] })) s0
  let s2 := s1.updCluster g (fun x => { x with areqs := x.areqs.erase r })
  match (s2.warp r.warp).swait with
  | .aalloc d =>
    s2.updWarp r.warp (fun w => (w.goPast.putS 0 0 d (BitVec.ofNat 64 (b + r.size * 2 ^ 16))).clearStall s.clock)
  | _ => s2

/-- Serve the requests of a cluster in order; one that cannot be met holds back the younger ones that share a core with it
(09_tensor_instr.md R235, 13_scheduling.md R372). -/
def State.serveAllocs (s : State) (g : Nat) : State :=
  ((s.cluster g).areqs.foldl (fun (p : State × List Nat) r =>
    if r.cores.any p.2.contains then (p.1, p.2 ++ r.cores)
    else
      match pickOf s.tick (p.1.grantBases r.size r.cores) with
      | some b => (p.1.serveOne g r b, p.2)
      | none => (p.1, p.2 ++ r.cores)) (s, [])).1

/-- Request accumulator memory for a group (09_tensor_instr.md R235). -/
def execAalloc (n : Stall) (d a : BitVec 6) (k : BitVec 2) (s : State) : Answer :=
  strandOp (0, 0) [a.toNat] (fun s =>
    let w := s.cur.warp
    let h := s.holderOf w k.toNat
    let size := (s.sval w 0 a.toNat).toNat
    if s.holdsGrant h || s.asksGrant h then s.strandTrap w 0x0A (s.warp w).spc
    else if size < 256 ∨ 32768 < size ∨ size % 256 ≠ 0 then s.putS n.toNat 4 0 d.toNat (BitVec.ofNat 64 (2 ^ 63 + 0x0B))
    else
      let r : AReq := { warp := w, holder := h, size := size, cores := s.holderCores h }
      let s1 := (s.updCluster (warpClu w) (fun g => { g with areqs := g.areqs ++ [r] })).updWarp w (fun v =>
        { v.holdU n.toNat with swait := .aalloc d.toNat })
      (s1.stallIfWaiting w).serveAllocs (warpClu w)) s

/-- An mma operation writes accumulator words in a range of the south-edge core of its bond column j: row by row, as many words
as the column has of N (09_tensor_instr.md R240, R242). -/
def EngOp.writesAcc (o : EngOp) (j base size : Nat) : Bool :=
  let acc := o.pbNum 12 4
  let cols := min 8 (o.pbNum 28 4 - 8 * j)
  decide (0 < cols) &&
  (List.range (o.pbNum 16 4)).any (fun m => extentsMeet (acc % 65536 + m * (acc / 65536)) cols base size)

/-- A q0 operation that is not complete writes into a grant. -/
def State.grantBusy (s : State) (c : Nat) (g : Grant) : Bool :=
  let hits (o : EngOp) : Bool := (List.range o.dests.length).any (fun j =>
    decide ((o.dests[j]?).map (fun p => p.1) = some c) && o.writesAcc j g.base g.size)
  (s.core c).q0.any hits || s.clusters.any (fun p => p.2.leases.any (fun l => l.q0.any hits))

/-- A grant of a holder, with its core. -/
def State.grantsOf (s : State) (h : Holder) : List (Nat × Grant) :=
  s.cores.flatMap (fun p => (p.2.grants.filter (fun g => decide (g.holder = h))).map (fun g => (p.1, g)))

/-- Release the holder's grant once no q0 operation writes into it; one that another afree has released meanwhile is not
waited for, nor a later grant released in its place (09_tensor_instr.md R236). -/
def execAfree (n : Stall) (k : BitVec 2) (s : State) : Answer :=
  strandOp (0, 0) [] (fun s =>
    let w := s.cur.warp
    let h := s.holderOf w k.toNat
    match s.grantsOf h with
    | [] => s.passU n.toNat 4
    | (c, g) :: r =>
      if !decide ((s.warp w).waitOn.getD g.num = g.num) then s.passU n.toNat 4
      else if ((c, g) :: r).any (fun p => s.grantBusy p.1 p.2) then
        s.updWarp w (fun v => { v with swait := .afree k.toNat, waitOn := some g.num })
      else
        { s.passU n.toNat 4 with
          cores := mapVals (fun _ c => { c with grants := c.grants.filter (fun g => !decide (g.holder = h)) }) s.cores }) s

end Sys2Proof.Machine
end

