-- ==== Sys2Proof/Machine/Groups.lean ====
section
/-! DEFINITION. Groups: barriers, the launch barrier and group reductions (02_execution.md R54, 13_scheduling.md R370,
R371, 14_control_instr.md R400, R401, 12_memory_instr.md R342 to R344). -/

namespace Sys2Proof.Machine

/-! ## Instances -/

/-- How many of a list of task ids. -/
def distinct (l : List Nat) : Nat := l.dedup.length

/-- Every member of a group has been created, and each has arrived, by the given list, or ended (02_execution.md R54). -/
def Launch.met (l : Launch) (g : Nat) (arrived : List Nat) : Bool :=
  let st := l.gstate g
  decide (st.created = (l.group g).count) && decide (distinct (arrived ++ st.ended) = (l.group g).count)

/-- Task ids that arrived at barrier instance k of a group. -/
def Launch.barAt (l : Launch) (g k : Nat) : List Nat :=
  ((l.gstate g).arrived.filter (fun p => decide (p.1 = k))).map (·.2)

/-- Arrivals of a member at a group's barriers so far: the number of its next instance (13_scheduling.md R370). -/
def Launch.barCount (l : Launch) (g id : Nat) : Nat :=
  ((l.gstate g).arrived.filter (fun p => decide (p.2 = id))).length

/-- Arrivals at reduction instance k of a group. -/
def Launch.redAt (l : Launch) (g k : Nat) : List RedArr := (l.gstate g).values.filter (fun r => decide (r.inst = k))

def Launch.redCount (l : Launch) (g id : Nat) : Nat :=
  ((l.gstate g).values.filter (fun r => decide (r.id = id))).length

/-- Every initial task has arrived at instance k of the launch barrier, or ended (13_scheduling.md R371). -/
def Launch.lbarMet (l : Launch) (k : Nat) : Bool :=
  let at_ := (l.lbarAt.filter (fun p => decide (p.1 = k))).map (·.2)
  decide (distinct ((at_ ++ l.endedInit).filter (fun i => decide (i < l.nrec))) = l.nrec)

def Launch.lbarCount (l : Launch) (id : Nat) : Nat := (l.lbarAt.filter (fun p => decide (p.2 = id))).length

/-- Scope of a group's barriers (11_ordering.md R293). -/
def GroupDef.scope (g : GroupDef) : Scope := if g.place = 1 then .core else if g.place = 2 then .cluster else .device

/-! ## Reductions (12_memory_instr.md R342, R343) -/

/-- One combining step of gred. -/
def gredStep (p : GredOp) (x y : Word64) : Word64 :=
  match p with
  | .add => x + y
  | .fadd => ((fAdd false (x.setWidth 32) (y.setWidth 32)).val).setWidth 64
  | .min => if y.slt x then y else x
  | .max => if x.slt y then y else x
  | .and => x &&& y
  | .or => x ||| y
  | .xor => x ^^^ y

/-- Put an arrival in ascending order of task id. -/
def insertArr (a : RedArr) : List RedArr → List RedArr
  | [] => [a]
  | b :: r => if a.id ≤ b.id then a :: b :: r else b :: insertArr a r

/-- The result of an instance: the operation of the member with the lowest task id, over the arrived members in
ascending order (12_memory_instr.md R343). -/
def gredResult (l : List RedArr) : Word64 :=
  match l.foldr insertArr [] with
  | [] => 0
  | a :: r => r.foldl (fun x b => gredStep a.op x b.val) a.val

/-! ## Departure -/

/-- A waiting warp departs if its instance is complete: the acquire of its scope, the next instruction, and for a gred
the result (11_ordering.md R293, 13_scheduling.md R370, R371). -/
def State.depart (s : State) (w : Nat) : State :=
  let wp := s.warp w
  let l := s.launch wp.lid
  let leave (sc : Scope) (f : Warp → Warp) : State :=
    let t := (s.acquireAll (warpDie w) (coreOf w) sc (some (s.taskAgent w))).updWarp w (fun v => (f v.goPast).clearStall s.clock)
    { t with clock := t.clock + 1 }
  match wp.swait with
  | .gbar k =>
    match wp.trec.group? k with
    | some g =>
      if l.met g (l.barAt g (l.barCount g wp.taskId - 1)) then leave (l.group g).scope id else s
    | none => s
  | .gred k d =>
    match wp.trec.group? k with
    | some g =>
      let r := l.redAt g (l.redCount g wp.taskId - 1)
      if l.met g (r.map (fun a => a.id)) then leave (l.group g).scope (fun v => v.putS 0 0 d (gredResult r)) else s
    | none => s
  | .lbar => if l.lbarMet (l.lbarCount wp.taskId - 1) then leave .device id else s
  | _ => s

/-- Every waiting warp of a launch whose instance is complete departs. -/
def State.departAll (s : State) (lid : Nat) : State :=
  ((s.warps.filter (fun p => p.2.resident && decide (p.2.lid = lid))).map (·.1)).foldl (fun s w => s.depart w) s

/-! ## The instructions -/

/-- Traps of a barrier that a diverged warp or an unfit slot meets, for the executing lanes. -/
def barTrap (code : Nat) (s : State) : Answer := laneOp 0 4 0 (0, 0) (fun _ => []) (fun _ => .trapped code) s

/-- Arrive at the next barrier of the group in slot K (14_control_instr.md R400). -/
def execGbar (n : Stall) (g : BitVec 2) (s : State) : Answer :=
  let w := s.cur.warp
  let wp := s.warp w
  let l := s.launch wp.lid
  if !wp.converged then barTrap 0x05 s
  else
    match wp.trec.group? g.toNat with
    | none => barTrap 0x0B s
    | some k =>
      if (l.group k).place = 0 ∧ l.cores = false then barTrap 0x08 s
      else
        let s1 := s.release (warpDie w) (coreOf w) (l.group k).scope (some (s.taskAgent w))
        let s2 := (s1.updLaunch wp.lid (fun l => l.updGroup k (fun x =>
          { x with arrived := x.arrived ++ [(l.barCount k wp.taskId, wp.taskId)] }))).updWarp w (fun v =>
            { v.holdLanes n.toNat with swait := .gbar g.toNat })
        .next ((s2.stallIfWaiting w).departAll wp.lid)

/-- Arrive at the launch barrier (14_control_instr.md R401). -/
def execLbar (n : Stall) (s : State) : Answer :=
  let w := s.cur.warp
  let wp := s.warp w
  let l := s.launch wp.lid
  if !wp.converged then barTrap 0x05 s
  else if l.cores = false ∨ l.nrec ≤ wp.taskId then barTrap 0x08 s
  else
    let s1 := s.release (warpDie w) (coreOf w) .device (some (s.taskAgent w))
    let s2 := (s1.updLaunch wp.lid (fun l =>
      { l with lbarAt := l.lbarAt ++ [(l.lbarCount wp.taskId, wp.taskId)] })).updWarp w (fun v =>
        { v.holdLanes n.toNat with swait := .lbar })
    .next ((s2.stallIfWaiting w).departAll wp.lid)

/-- Join the next reduction of the group in slot K (12_memory_instr.md R342 to R344). -/
def execGred (n : Stall) (d a : BitVec 6) (k : BitVec 2) (p : GredOp) (s : State) : Answer :=
  strandOp (0, 0) [a.toNat] (fun s =>
    let w := s.cur.warp
    let wp := s.warp w
    let l := s.launch wp.lid
    match wp.trec.group? k.toNat with
    | none => s.strandTrap w 0x0B wp.spc
    | some g =>
      if (l.group g).place = 0 ∧ l.cores = false then s.strandTrap w 0x08 wp.spc
      else
        let s1 := s.release (warpDie w) (coreOf w) (l.group g).scope (some (s.taskAgent w))
        let arr : RedArr := { inst := l.redCount g wp.taskId, id := wp.taskId, op := p, val := s.sval w 0 a.toNat }
        let s2 := (s1.updLaunch wp.lid (fun l => l.updGroup g (fun x => { x with values := x.values ++ [arr] }))).updWarp w
          (fun v => { v.holdU n.toNat with swait := .gred k.toNat d.toNat })
        (s2.stallIfWaiting w).departAll wp.lid) s

end Sys2Proof.Machine
end

