-- ==== Sys2Proof/Machine/Tasks.lean ====
section
/-! DEFINITION. Task records, creating tasks, item queues, join counters, continuations and the end of a task
(02_execution.md R40 to R54, R61, R62, 14_control_instr.md R396 to R399, 13_scheduling.md R352, R355). -/

namespace Sys2Proof.Machine

/-! ## Task records (02_execution.md R40 to R43) -/

/-- n bytes at an offset of a list of bytes, as a number. -/
def numAt (b : List Byte) (off n : Nat) : Nat := ofBytes ((b.drop off).take n)

/-- The record that 64 bytes hold (02_execution.md R40). -/
def taskRecOf (b : List Byte) : TaskRec :=
  { code := BitVec.ofNat 64 (numAt b 0 8), frame := BitVec.ofNat 64 (numAt b 8 8)
    join := BitVec.ofNat 64 (numAt b 16 8), itemq := BitVec.ofNat 64 (numAt b 24 8)
    launch := BitVec.ofNat 32 (numAt b 32 4)
    groups := (List.range 4).map (fun k => BitVec.ofNat 16 (numAt b (36 + 2 * k) 2))
    flags := BitVec.ofNat 32 (numAt b 44 4)
    arg0 := BitVec.ofNat 64 (numAt b 48 8), arg1 := BitVec.ofNat 64 (numAt b 56 8) }

/-- The groups that a record names. -/
def TaskRec.groupNos (r : TaskRec) : List Nat := (List.range 4).filterMap (fun k => r.group? k)

/-- CARVE of a record (02_execution.md R42). -/
def TaskRec.carve (r : TaskRec) : Nat := field r.flags 7 4

/-- NOSTEAL of a record (02_execution.md R42). -/
def TaskRec.noSteal (r : TaskRec) : Bool := bitAt r.flags 3

/-- The record names a core-bound or cluster-bound group (02_execution.md R51). -/
def Launch.namesBound (l : Launch) (r : TaskRec) : Bool := r.groupNos.any (fun g => (l.group g).bound)

/-- The record fails the check at popping (02_execution.md R43, R53). -/
def Launch.recordBad (l : Launch) (q : QRec) : Bool :=
  let r := q.trec
  r.groups.any (fun g => !decide (field g 14 8 = 0)) || !decide (field r.flags 31 13 = 0) || decide (6 ≤ r.carve) ||
  !decide (field r.code 63 56 = 0) || !decide (field r.code 1 0 = 0) || !decide (field r.frame 3 0 = 0) ||
  !decide (field r.join 2 0 = 0) || !decide (field r.itemq 4 0 = 0) ||
  !decide (r.groupNos.Nodup) || r.groupNos.any (fun g => decide ((l.group g).count = 0)) || q.excess ||
  (!q.initial && !bitAt r.flags 2 && l.namesBound r)

/-- A created record counts as a member of its groups; the second part is set when a total would exceed COUNT
(02_execution.md R43, R51). -/
def Launch.admitMember (l : Launch) (r : TaskRec) : Launch × Bool :=
  r.groupNos.foldl (fun p g =>
    if (p.1.gstate g).created < (p.1.group g).count then
      (p.1.updGroup g (fun x => { x with created := x.created + 1 }), p.2)
    else (p.1, true)) (l, false)

/-! ## Accesses of the strand (12_memory_instr.md R310, R311) -/

/-- The checks of an access by the strand: alignment, translation, partition. The state, and the physical address where
the access may be made. -/
def State.strandReach (s : State) (va : Addr) (size : Nat) (k : AccKind) : State × Option Nat :=
  let w := s.cur.warp
  let wp := s.warp w
  let m := s.strandMaster w
  if va.toNat % size ≠ 0 then (s.strandTrap w 0x0C wp.spc, none)
  else
    match s.translate m va.toNat k wp.sfailed with
    | (t, .ok pa) => if t.paAllowed m.part pa k then (t, some pa) else (t.freeze m pa k, none)
    | (t, .wait tok) => (t.updWarp w (fun v => { v with swait := .fault tok }), none)
    | (t, .failed) => ((t.strandTrap w 0x0D wp.spc).updWarp w (fun v => { v with sfailed := [] }), none)
    | (t, .frozen) => (t, none)

/-- Quarter-11 bytes as a sequence of reads of at most 8 bytes. -/
def State.remoteRun (s : State) (m : Master) (pa : Nat) : Nat → Nat → State × Option Nat
  | 0, _ => (s, some 0)
  | k + 1, n =>
    match s.remoteRead m pa (min 8 n) with
    | (t, none) => (t, none)
    | (t, some v) =>
      let r := t.remoteRun m (pa + 8) k (n - 8)
      (r.1, r.2.map (fun x => v + 2 ^ 64 * x))

/-- A plain read by the strand of n bytes within one line: it bypasses L1 (10_memory.md R253, 12_memory_instr.md R324). -/
def State.plainRead (s : State) (m : Master) (pa n : Nat) : State × Option Nat :=
  if quarter pa = 3 then s.remoteRun m pa ((n + 7) / 8) n else s.l2Read m (canonPa pa) n

/-- The same for a template, a descriptor or a parameter block that the strand reads as it issues an instruction, ordered after
the warp's earlier accesses: what its lanes have left in L1 is written first (11_ordering.md R302, 14_control_instr.md R397). -/
def State.blockRead (s : State) (m : Master) (c pa n : Nat) : State × Option Nat :=
  (if quarter pa = 3 then s else s.l1Clean m.die c (canonPa pa / 128)).plainRead m pa n

/-! ## Counters (02_execution.md R48 to R50) -/

/-- An operation of a home synchronisation engine for a task: the old value (11_ordering.md R296, R308). -/
def State.engineOp (s : State) (m : Master) (pa : Nat) (op : AtomOp) (v : Word64) (acq : Bool) : State × Option Word64 :=
  if quarter pa = 3 then
    let r := s.remoteAtomic m pa op v 0
    (r.1, some (BitVec.ofNat 64 r.2))
  else s.atomic m (canonPa pa) op v 0 acq

/-- A read by the home engine of n bytes, as part of an operation of its own for a task: the writes of the task's die to the
line reach it first (11_ordering.md R296). -/
def State.engineRead (s : State) (m : Master) (pa n : Nat) : State × Option Nat :=
  if quarter pa = 3 then s.remoteRun m pa ((n + 7) / 8) n
  else
    let a := canonPa pa
    (s.updMem (fun x => if homeOf a = m.die then x else x.drainLine m.die (a / 128))).l2Read { m with die := homeOf a } a n

/-- The join counter of an ended task is decremented, and records held on it are released at zero; one that stands at zero stays,
and the launch ends with JOINUF (02_execution.md R49, R50). -/
def State.decJoin (s : State) (m : Master) (pa : Nat) : State :=
  match s.engineRead m pa 8 with
  | (s1, none) => s1
  | (s1, some old) =>
    if old = 0 then s1.endLaunch (m.lid.getD 0) { code := 0x08 } else (s1.engineOp m pa .add64 (-1) false).1

/-- A continuation record is held on its counter, or enters the queue at zero (02_execution.md R50). -/
def State.holdCont (s : State) (m : Master) (g pa va : Nat) (q : QRec) : State :=
  match s.engineRead m pa 8 with
  | (s1, none) => s1
  | (s1, some old) =>
    if old = 0 then s1.enqueue g q { task := q.id }
    else s1.updMem (fun x => { x with held := x.held ++ [{ ctr := canonPa pa, trec := q, clu := g, va := va }] })

/-- A decrement is an atomic; WAIT is read (02_execution.md R49). -/
def CtrAct.kind : CtrAct → AccKind
  | .dec => .atomic
  | .hold _ => .read

/-- A counter access of an ended task, with the pages that system software has failed for it (02_execution.md R49). Bits [63:56] of JOIN
and of the WAIT of a continuation are not looked at (DESIGN CHOICE, log entry 46; 14_control_instr.md R399). -/
def State.counterGo (s : State) (m : Master) (g va : Nat) (act : CtrAct) (failed : List (Nat × Nat)) : State :=
  match s.translate m (va % 2 ^ 56) act.kind failed with
  | (t, .ok pa) =>
    if t.paAllowed m.part pa act.kind then
      match act with
      | .dec => t.decJoin m pa
      | .hold q => t.holdCont m g pa va q
    else t.freeze m pa act.kind
  | (t, .wait tok) =>
    t.updMem (fun x => { x with ctrWaits := x.ctrWaits ++ [{ m := m, clu := g, va := va, tok := tok, act := act }] })
  | (t, .failed) => t.endLaunch (m.lid.getD 0) { code := 0x0A, addr := va }
  | (t, .frozen) => t

/-- The counter accesses that waited on an answered token (15_isolation.md R419). -/
def State.answerCounters (s : State) (tok : Nat) (fail : Bool) : State :=
  let ws := s.mem.ctrWaits.filter (fun x => decide (x.tok = tok))
  ws.foldl (fun s x =>
    s.counterGo x.m x.clu x.va x.act (if fail then [(x.m.space, x.va % 2 ^ 56 / 65536)] else []))
    (s.updMem (fun m => { m with ctrWaits := m.ctrWaits.filter (fun x => !decide (x.tok = tok)) }))

/-! ## Creating tasks (02_execution.md R47, R48, 14_control_instr.md R397, R398) -/

/-- The record of a child: its template with the launch's id, the arguments, CONT clear, CHK where the launch forces it, and
NOSTEAL where it names a bound group (14_control_instr.md R397, 02_execution.md R52). -/
def Launch.childRec (l : Launch) (r : TaskRec) (a0 : Word64) (a1 : Option Word64) : TaskRec :=
  let f := setBit (if l.namesBound r then setBit r.flags 3 true else r.flags) 2 false
  { r with launch := BitVec.ofNat 32 l.lid, arg0 := a0, arg1 := a1.getD r.arg1
           flags := if l.check then setBit f 1 true else f }

/-- Create one child of the task of a slot: release, id, increment of its join counter, entry into the queue of the
cluster (02_execution.md R47, R48, R51). The address of the record in a fault record is that of its template (DESIGN CHOICE, log
entry 47). -/
def State.makeChild (s : State) (w : Nat) (tmpl : Nat) (joinPa : Option Nat) (r : TaskRec) (a0 : Word64)
    (a1 : Option Word64) : State :=
  let wp := s.warp w
  let l := s.launch wp.lid
  if !s.runs wp.lid then s
  else if 2 ^ 32 ≤ l.nextId then s.endLaunch wp.lid { code := 0x07, task := wp.taskId, where_ := coreOf w }
  else
    let s1 := s.release (warpDie w) (coreOf w) .device (some (s.taskAgent w))
    let m := s1.strandMaster w
    let s2 := match joinPa with
      | some pa => (s1.engineOp m pa .add64 1 false).1
      | none => s1
    if !s2.runs wp.lid then s2
    else
      let child := l.childRec r a0 a1
      let p := (s2.launch wp.lid).admitMember child
      let s3 := s2.updLaunch wp.lid (fun _ => { p.1 with nextId := l.nextId + 1 })
      s3.enqueue (warpClu w) { trec := child, id := l.nextId, lid := wp.lid, addr := tmpl, initial := false, excess := p.2 }
        { task := wp.taskId, where_ := coreOf w }

/-- The counter that a record's JOIN names, where it is to be incremented (02_execution.md R48). -/
def TaskRec.counts (r : TaskRec) : Bool := !decide (r.join = 0) && decide (field r.join 2 0 = 0)

/-- Create one child of the strand (14_control_instr.md R397). Bits [63:56] of its JOIN are not looked at (DESIGN CHOICE, log entry 46). -/
def execSpawn (n : Stall) (a b : BitVec 6) (s : State) : Answer :=
  strandOp (0, 0) [a.toNat, b.toNat] (fun s0 =>
    let s := s0.syncAll
    let w := s.cur.warp
    let wp := s.warp w
    let va : Addr := (s.sval w 0 a.toNat).setWidth 56
    let a0 := s.sval w 1 b.toNat
    match s.strandReach va 64 .read with
    | (t, none) => t
    | (t, some pa) =>
      match t.blockRead (t.strandMaster w) (coreOf w) pa 64 with
      | (t, none) => t
      | (t, some v) =>
        let r := taskRecOf (bytesOf 64 v)
        let make (t : State) (j : Option Nat) : State := (t.makeChild w va.toNat j r a0 none).passU n.toNat 4
        if r.counts then
          let m := t.strandMaster w
          match t.translate m (r.join.setWidth 56 : Addr).toNat .atomic wp.sfailed with
          | (t, .ok jpa) => if t.paAllowed m.part jpa .atomic then make t (some jpa) else t.freeze m jpa .atomic
          | (t, .wait tok) => t.updWarp w (fun v => { v with swait := .fault tok })
          | (t, .failed) => t.endLaunch wp.lid { code := 0x0A, task := wp.taskId, addr := r.join.toNat, where_ := coreOf w }
          | (t, .frozen) => t
        else make t none) s

/-- Create one child for each executing lane (14_control_instr.md R398). -/
def execSpawnl (n : Stall) (a b : Src) (r : BitVec 6) (s0 : State) : Answer :=
  let s := s0.syncAll
  let w := s.cur.warp
  let wp := s.warp w
  let m := s.strandMaster w
  let reads : View → List LRes := fun _ => srcRes a ++ srcRes b
  let go := s.execLanes.filter (fun i => (s.laneCheck (0, 0) reads i).isNone)
  let turned := s.execLanes.filterMap (fun i => (s.laneCheck (0, 0) reads i).map (fun c => (i, LaneRes.trapped c)))
  let finish (t : State) (f : LaneRes) : Answer :=
    .next (t.finishLanes w 8 0 n.toNat (0, 0) (go.map (fun i => (i, f)) ++ turned))
  let va : Addr := (wp.sreg r.toNat).setWidth 56
  let failed := ((go.map (fun i => (wp.lane i).failed)).flatten)
  if go.isEmpty then finish s {}
  else if va.toNat % 64 ≠ 0 then finish s (.trapped 0x0C)
  else
    match s.translate m va.toNat .read failed with
    | (t, .wait tok) => .next (t.groupWaits go tok)
    | (t, .failed) => finish t (.trapped 0x0D)
    | (t, .frozen) => .next t
    | (t, .ok pa) =>
      if !t.paAllowed m.part pa .read then .next (t.freeze m pa .read)
      else
        match t.blockRead m (coreOf w) pa 64 with
        | (t, none) => .next t
        | (t, some v) =>
          let rec_ := taskRecOf (bytesOf 64 v)
          let make (t : State) (j : Option Nat) : Answer :=
            finish (go.foldl (fun t i =>
              t.makeChild w va.toNat j rec_ (((s.view i).src 0 a).setWidth 64) (some (((s.view i).src 1 b).setWidth 64))) t) {}
          if rec_.counts then
            match t.translate m (rec_.join.setWidth 56 : Addr).toNat .atomic failed with
            | (t, .ok jpa) => if t.paAllowed m.part jpa .atomic then make t (some jpa) else .next (t.freeze m jpa .atomic)
            | (t, .wait tok) => .next (t.groupWaits go tok)
            | (t, .failed) =>
              .next (t.endLaunch wp.lid { code := 0x0A, task := wp.taskId, addr := rec_.join.toNat, where_ := coreOf w })
            | (t, .frozen) => .next t
          else make t none

/-- The record that a continuation descriptor makes (14_control_instr.md R399). -/
def Warp.contRec (w : Warp) (b : List Byte) : TaskRec :=
  { code := BitVec.ofNat 64 (numAt b 0 8), frame := BitVec.ofNat 64 (numAt b 8 8)
    join := BitVec.ofNat 64 (numAt b 16 8), itemq := BitVec.ofNat 64 (numAt b 24 8)
    launch := BitVec.ofNat 32 w.lid, groups := w.trec.groups, flags := setBit w.trec.flags 2 true
    arg0 := BitVec.ofNat 64 (numAt b 40 8), arg1 := BitVec.ofNat 64 (numAt b 48 8) }

/-- Every lane ends, whatever its state. -/
def Warp.endLanes (w : Warp) : Warp := w.updLanes laneList (fun _ l => { l with st := .exited, wait := .none })

/-- The task ends, and its continuation is written once the end is complete (02_execution.md R50, 14_control_instr.md
R399). The address of its record in a fault record is that of the descriptor (DESIGN CHOICE, log entry 47). -/
def execCont (n : Stall) (a : BitVec 6) (s : State) : Answer :=
  strandOp (0, 0) [a.toNat] (fun s0 =>
    let s := s0.syncAll
    let w := s.cur.warp
    let wp := s.warp w
    let va : Addr := (s.sval w 0 a.toNat).setWidth 56
    if (s.launch wp.lid).namesBound wp.trec then s.strandTrap w 0x01 wp.spc
    else
      match s.strandReach va 64 .read with
      | (t, none) => t
      | (t, some pa) =>
        match t.blockRead (t.strandMaster w) (coreOf w) pa 64 with
        | (t, none) => t
        | (t, some v) =>
          let b := bytesOf 64 v
          let wait := numAt b 32 8
          if wait % 8 ≠ 0 then t.strandTrap w 0x0C wp.spc
          else if numAt b 56 8 ≠ 0 then t.strandTrap w 0x01 wp.spc
          else t.updWarp w (fun v =>
            { v.endLanes with ending := .contEnding (wp.contRec b) wait va.toNat, sstall := n.toNat + 1, swait := .none, sfailed := [] })) s

/-! ## Item queues (02_execution.md R45, R46, 14_control_instr.md R396) -/

/-- How the pops of a refill end. -/
inductive Pops where
  | done (items : List Word)
  | wait (tok : Nat)
  | bad
  | failed
  | stop  -- frozen, or an error was consumed
  deriving DecidableEq, Repr

/-- Read item words one after another. -/
def State.readItems (s : State) (m : Master) : List Nat → State × Option (List Word)
  | [] => (s, some [])
  | pa :: r =>
    match s.plainRead m pa 4 with
    | (t, none) => (t, none)
    | (t, some v) =>
      match t.readItems m r with
      | (u, some l) => (u, some (BitVec.ofNat 32 v :: l))
      | (u, none) => (u, none)

/-- Translate several addresses for one access. -/
def State.translateAll (s : State) (m : Master) (k : AccKind) (failed : List (Nat × Nat)) : List Nat → State × List (Nat × Xl)
  | [] => (s, [])
  | va :: r =>
    let x := s.translate m va k failed
    let y := x.1.translateAll m k failed r
    (y.1, (0, x.2) :: y.2)

/-- The pops of one refill for up to want lanes: one atomic operation of the descriptor's home engine, each pop with
acquire semantics at device scope (02_execution.md R46, 14_control_instr.md R396). Bits [63:56] of ITEMQ and of the queue's BASE are not
looked at, and a BASE that is no multiple of 4 is rounded down to one (DESIGN CHOICE, log entry 46). -/
def State.popItems (s : State) (w want : Nat) (failed : List (Nat × Nat)) : State × Pops :=
  let d := warpDie w
  let c := coreOf w
  let m := s.strandMaster w
  let va := ((s.warp w).trec.itemq.setWidth 56 : Addr).toNat
  match s.translate m va .atomic failed with
  | (t, .wait tok) => (t, .wait tok)
  | (t, .failed) => (t, .failed)
  | (t, .frozen) => (t, .stop)
  | (t, .ok pa) =>
    if !t.paAllowed m.part pa .atomic then (t.freeze m pa .atomic, .stop)
    else
      let a := canonPa pa
      let mh := { m with die := if quarter pa = 3 then d else homeOf a }
      let t := if quarter pa = 3 then t else t.l1Drop d c (a / 128)
      match t.engineRead m pa 32 with
      | (t, none) => (t, .stop)
      | (t, some v) =>
        let b := bytesOf 32 v
        let cap := numAt b 8 4
        let head := numAt b 16 4
        if cap = 0 ∨ 2 ^ 31 < cap ∨ numAt b 12 4 ≠ 0 ∨ numAt b 24 8 ≠ 0 then (t, .bad)
        else
          let cnt := min want ((numAt b 20 4 + 2 ^ 32 - head) % 2 ^ 32)
          if cnt = 0 then (t, .done [])
          else
            let base := numAt b 0 8 / 4 * 4
            let vas := (List.range cnt).map (fun k => (base + 4 * ((head + k) % 2 ^ 32 % cap)) % 2 ^ 56)
            let x := t.translateAll m .read failed vas
            match firstWait x.2 with
            | some tok => (x.1, .wait tok)
            | none =>
              if x.2.any (fun p => decide (p.2 = .frozen)) then (x.1, .stop)
              else if x.2.any (fun p => decide (p.2 = .failed)) then (x.1, .failed)
              else
                let pas := x.2.filterMap (fun p =>
                  match p.2 with
                  | .ok q => some q
                  | _ => none)
                match pas.find? (fun q => !x.1.paAllowed m.part q .read) with
                | some q => (x.1.freeze m q .read, .stop)
                | none =>
                  match x.1.engineOp m (pa + 16) .add32 (BitVec.ofNat 64 cnt) true with
                  | (t, none) => (t, .stop)
                  | (t, some _) =>
                    let t := if quarter pa = 3 then t.acquireAll d c .device (some (t.taskAgent w))
                      else (t.updMem (fun y => (y.acquireAt mh.die (a + 16)).acquireAt d (a + 16))).acquire d c .device (some (t.taskAgent w))
                    match t.readItems mh pas with
                    | (t, none) => (t, .stop)
                    | (t, some l) => (t, .done l)

/-- A vacant lane takes an item and becomes live after the refill at a PC, with what is left of the stall of its last
instruction (02_execution.md R45 step 4, 03_encoding.md R71, 14_control_instr.md R396). -/
def Lane.takeItem (l : Lane) (d : Dst) (v : Word) (pc : Addr) (n : Nat) : Lane :=
  let gone (p : Pend) : Bool :=
    match p.res with
    | .l0 | .l1 | .mk _ => true
    | .o k =>
      match d with
      | .o r => decide (k = r.toNat)
      | .zero => false
    | _ => false
  { l with
    st := .live, pc := pc + 4, l0 := 0, l1 := 0, rstk := [], spill := [], wait := .none, failed := []
    stallLeft := max l.stallLeft (n + 1), waitCnt := 0
    pend := l.pend.filter (fun p => !gone p)
    await := l.await.filter (fun a => !gone { res := a.res, old := 0, left := 0 })
    o := match d with
      | .o r => l.o.set r.toNat v
      | .zero => l.o }

/-- Set a lane's bits of mk1 to mk11: those of another lane, or 0. -/
def Warp.copyMaskBits (w : Warp) (i : Nat) (src : Option Nat) : Warp :=
  (List.range 11).foldl (fun v k =>
    v.setMaskBit (k + 1) i (match src with
      | some j => bitAt (w.mks.get 0 (k + 1)) j
      | none => false)) w

/-- The lowest vacant lanes take the items (02_execution.md R45 step 4). -/
def Warp.handOut (w : Warp) (items : List Word) (d : Dst) (pc : Addr) (n : Nat) (src : Option Nat) : Warp :=
  ((lanesOf w.vacant).zip items).foldl (fun v p => (v.updLane p.1 (fun l => l.takeItem d p.2 pc n)).copyMaskBits p.1 src) w

/-- A warp whose live lanes share one PC is converged, wherever they wait: lanes that waited in the instruction at that PC, or on
a fault there, come to it again with the others (02_execution.md R37, R45 step 4; log entry 12). -/
def Warp.converge (w : Warp) (clock : Nat) : Warp :=
  match lanesOf w.live with
  | [] => w
  | i :: r =>
    if r.all (fun j => decide ((w.lane j).pc = (w.lane i).pc)) then
      { w.updLanes (i :: r) (fun _ l => { l with wait := if l.wait = LaneWait.esc then .esc else .none }) with
        converged := true, spc := (w.lane i).pc, dq := [] }.clearStall clock
    else w

/-- Hand items to vacant lanes (14_control_instr.md R396). -/
def execRefill (n : Stall) (d : Dst) (s : State) : Answer :=
  let w := s.cur.warp
  let wp := s.warp w
  let trap (code : Nat) (s : State) : Answer := laneOp n 4 0 (0, 0) (fun _ => []) (fun _ => .trapped code) s
  let is := s.execLanes
  if wp.trec.itemq = 0 then trap 0x01 s
  else
    match s.syncAll.popItems w (lanesOf wp.vacant).length ((is.map (fun i => (wp.lane i).failed)).flatten) with
    | (t, .wait tok) => .next (t.groupWaits is tok)
    | (t, .bad) => trap 0x0C t
    | (t, .failed) => trap 0x0D t
    | (t, .stop) => .next t
    | (t, .done items) =>
      match is with
      | [] => .next t
      | i :: _ =>
        let pc := (wp.lane i).pc
        .next ((t.finishLanes w 4 0 n.toNat (0, 0) (is.map (fun i => (i, {})))).updWarp w (fun v =>
          ({ v.handOut items d pc n.toNat (some i) with refillPc := some pc }).converge t.clock))

/-- Every vacant lane takes the trap of a refill that no live lane executes (02_execution.md R45). -/
def State.refillTrap (s : State) (w : Nat) (pc : Addr) (code : Nat) : State :=
  let is := lanesOf (s.warp w).vacant
  (s.updWarp w (fun v =>
    { (is.foldl (fun v i =>
        (v.updLane i (fun l =>
          { l with st := .live, pc := pc, wait := .none, l0 := 0, l1 := 0
                   pend := l.pend.filter (fun p => !(decide (p.res = .l0) || decide (p.res = .l1))) })).copyMaskBits i none) v) with
      converged := true, spc := pc, startRefill := false, swait := .none, sfailed := [] })).takeTraps w
    (is.map (fun i => { lane := i, code := code, pc := pc }))

/-- A refill that no live lane executes: the start refill or an implicit one, which counts in the gaps of the vacant lanes as if
they had reached it (02_execution.md R45 steps 1, 5, 6, 03_encoding.md R74). -/
def State.loneRefill (s : State) (w : Nat) (pc : Addr) (d : Dst) (n : Nat) : State :=
  let wp := s.warp w
  match s.syncAll.popItems w (lanesOf wp.vacant).length wp.sfailed with
  | (t, .wait tok) => t.updWarp w (fun v => { v with swait := .fault tok })
  | (t, .bad) => t.refillTrap w pc 0x0C
  | (t, .failed) => t.refillTrap w pc 0x0D
  | (t, .stop) => t
  | (t, .done []) => t.updWarp w (fun v => { v.endLanes with ending := .ending, startRefill := false, sfailed := [] })
  | (t, .done items) =>
    t.updWarp w (fun v =>
      ({ (v.updLanes (lanesOf v.vacant) (fun _ l => { l with pend := agePends n l.pend })).handOut items d pc n none with
        refillPc := some pc, startRefill := false, converged := true, sfailed := [] }).converge t.clock)

/-! ## The end of a task (02_execution.md R61, R62) -/

/-- The task of a slot has nothing left to issue: every lane has ended, its item loop has run dry, or it executed cont
(02_execution.md R62). -/
def Warp.over (w : Warp) : Bool :=
  w.resident && (match w.ending with
    | .running => decide (w.live = 0) && decide (w.vacant = 0)
    | _ => true)

/-- Free what a holder holds: tile entries, then grants (02_execution.md R62). -/
def State.freeHolder (s : State) (h : Holder) : State :=
  { s with cores := mapVals (fun _ c =>
      { c with tiles := keepVals (fun _ t => !decide (t.owner = h)) c.tiles,
               grants := c.grants.filter (fun g => !decide (g.holder = h)) }) s.cores }

/-- The groups of a task that are bound and of which no other member is resident (02_execution.md R53, R62). -/
def State.lastOf (s : State) (w : Nat) : List Nat :=
  let wp := s.warp w
  wp.groupNos.filter (fun g => ((s.launch wp.lid).group g).bound &&
    !s.warps.any (fun p => !decide (p.1 = w) && p.2.resident && decide (p.2.lid = wp.lid) && p.2.groupNos.contains g))

/-- Free what a bound group holds: tile entries, grants, windows and leases; a revoked mark ends too (02_execution.md R53,
08_bonds.md R199). -/
def State.freeGroup (s : State) (lid g : Nat) : State :=
  let s0 := if ((s.launch lid).gstate g).revoked then s.updLaunch lid (fun l => l.updGroup g (fun x => { x with revoked := false })) else s
  let s1 := s0.freeHolder (.group lid g)
  { s1 with
    sys := { s1.sys with lrev := s1.revoking (fun l => decide (l.lid = lid) && decide (l.grp = g)) }
    cores := mapVals (fun _ c => { c with wins := c.wins.filter (fun v => !(decide (v.lid = lid) && decide (v.grp = g))) }) s1.cores
    clusters := mapVals (fun _ x =>
      { x with leases := x.leases.filter (fun l => !(decide (l.lid = lid) && decide (l.grp = g))) }) s1.clusters }

/-- The fault record of a task that would end with an operation held (16_recovery.md R444). -/
def EngOp.heldFault (o : EngOp) (w : Nat) : FaultRec :=
  { code := 0x09, trap := 0x10, task := o.taskId, where_ := coreOf w, syn := o.syn, unit := o.unit, tr := o.tr, tc := o.tc }

/-- The end of the task of a slot: once its engine operations are complete, its entries, grant, leases and slot are
freed in this order, then the join counter is decremented or the continuation written (02_execution.md R49, R50, R54,
R61, R62; 14_control_instr.md R399). -/
def State.taskEnd (s : State) (w : Nat) : State :=
  let wp := s.warp w
  if !wp.over || (s.core (coreOf w)).frozen then s
  else
    let ops := s.opsOf w
    match ops.find? (fun o => match o.st with
      | .held _ => true
      | _ => false) with
    | some o => s.endLaunch wp.lid (o.heldFault w)
    | none =>
      if !ops.isEmpty then s
      else
        let g := warpClu w
        let m := s.strandMaster w
        let s0 := s.syncAll
        let s1 := s0.release (warpDie w) (coreOf w) .device (some (s0.taskAgent w))
        let last := s1.lastOf w
        let s2 := last.foldl (fun s k => s.freeGroup wp.lid k) (s1.freeHolder (.task w))
        let s3 := { (s2.setWarp w Warp.dflt).updCore (coreOf w) (fun c =>
            { c with carves := c.carves.map (fun r => { r with residents := r.residents.filter (fun x => !decide (x = w)) }) }) with
          sys := { s2.sys with runs := mapVals (fun p r => if p = wp.part then { r with done := r.done + 1 } else r) s2.sys.runs } }
        match wp.ending with
        | .contEnding r wait addr =>
          let q : QRec := { trec := r, id := wp.taskId, lid := wp.lid, addr := addr, initial := wp.initial,
                            slot := if wp.initial && (s.launch wp.lid).slots.contains w then some w else none }
          if wait = 0 then s3.enqueue g q { task := wp.taskId } else s3.counterGo m g wait (.hold q) []
        | _ =>
          let s4 := s3.updLaunch wp.lid (fun l =>
            let l1 := wp.groupNos.foldl (fun l k => l.updGroup k (fun x => { x with ended := x.ended ++ [wp.taskId] })) l
            if wp.taskId < l.nrec then { l1 with endedInit := l1.endedInit ++ [wp.taskId] } else l1)
          let s5 := s4.departAll wp.lid
          if wp.trec.join = 0 then s5 else s5.counterGo m g wp.trec.join.toNat .dec []

end Sys2Proof.Machine
end

