-- ==== Sys2Proof/Machine/Power.lean ====
section
/-! DEFINITION. Partitions and their clusters, phase markers, performance requests, carve-out requests, and the recall table
(14_control_instr.md R402 to R404, 10_memory.md R251, R252, 15_isolation.md R406, R407, R426 to R428). -/

namespace Sys2Proof.Machine

/-! ## Partitions -/

/-- Partition that CPART gives a cluster, if any (15_isolation.md R407). -/
def State.cpart (s : State) (g : Nat) : Option Nat :=
  let v := s.reg (dieBlk (dieOf g) (0x1000 + 8 * (g % 64)))
  if bitAt v 7 then some (field v 3 0) else none

/-- The clusters of a partition, by die and then logical id (13_scheduling.md R352). -/
def State.clustersOf (s : State) (p : Nat) : List Nat := (List.range 128).filter (fun g => decide (s.cpart g = some p))

/-- The regulator, and so the domain, of a cluster (15_isolation.md R424). -/
def State.regulator (s : State) (g : Nat) : Nat := field (s.reg (pkgBlk (0x1000 + 8 * g))) 1 0

/-- The domains that hold a cluster of a partition. -/
def State.domainsOf (s : State) (p : Nat) : List Nat :=
  (List.range 4).filter (fun r => (s.clustersOf p).any (fun g => decide (s.regulator g = r)))

/-- The class of a partition in force: a reserved one whose domains hold another partition's clusters counts as elastic
(15_isolation.md R426). -/
def State.pclass (s : State) (p : Nat) : Nat :=
  let c := field (s.reg (pkgBlk (16 * p))) 1 0
  if c = 3 then 0
  else if c = 1 then
    (if (s.domainsOf p).all (fun r => (List.range 128).all (fun g =>
        !decide (s.regulator g = r) || (s.cpart g).isNone || decide (s.cpart g = some p))) then 1 else 2)
  else c

def State.defOp (s : State) (p : Nat) : Nat := field (s.reg (pkgBlk (16 * p))) 7 4
def State.maxOp (s : State) (p : Nat) : Nat := field (s.reg (pkgBlk (16 * p))) 11 8
def State.floorOf (s : State) (p : Nat) : Nat := field (s.reg (pkgBlk (16 * p + 8))) 31 0

/-- The current point of a domain. -/
def State.pointOf (s : State) (r : Nat) : Nat := (s.sys.domains.get { } r).point

/-! ## The recall table (15_isolation.md R428) -/

/-- Address of word w of entry i of a die's recall table. -/
def recallReg (d i w : Nat) : Nat := dieBlk d (0x00100000 + 16 * i + 8 * w)

/-- The entry of a key. -/
def State.recallFind (s : State) (d p kernel phase : Nat) : Option Nat :=
  firstBelow 4096 (fun i =>
    let v := s.reg (recallReg d i 0)
    bitAt v 63 && decide (field v 59 56 = p) && decide (field v 15 0 = kernel) && decide (field v 31 24 = phase))

/-- The least recently used entry. -/
def State.recallOldest (s : State) (d : Nat) : Nat :=
  (List.range 4096).foldl (fun b i =>
    if s.sys.recallUse.get 0 (4096 * d + i) < s.sys.recallUse.get 0 (4096 * d + b) then i else b) 0

/-- Word 0 of an entry. -/
def recallWord (p tried bestp next phase kernel : Nat) : Word64 :=
  BitVec.ofNat 64 (2 ^ 63 + p * 2 ^ 56 + tried * 2 ^ 40 + bestp * 2 ^ 36 + next * 2 ^ 32 + phase * 2 ^ 24 + kernel)

/-- The entry that a run uses, made anew where no entry has its key. -/
def State.recallEntry (s : State) (d p kernel phase : Nat) : State × Nat :=
  let touch (s : State) (i : Nat) : State :=
    { s with clock := s.clock + 1, sys := { s.sys with recallUse := s.sys.recallUse.set (4096 * d + i) (s.clock + 1) } }
  match s.recallFind d p kernel phase with
  | some i => (touch s i, i)
  | none =>
    let i := s.recallOldest d
    (touch ((s.setReg (recallReg d i 0) (recallWord p 0 0 (s.defOp p) phase kernel)).setReg (recallReg d i 1) 0xFFFFFFFF) i, i)

/-- The update of an entry at the end of a run at point P, with the energy e and the rate t that were measured: TRIED,
BESTP, BESTE and NEXT (15_isolation.md R428). -/
def recallUpdate (tried bestp beste p maxop floor e t : Nat) : Nat × Nat × Nat × Nat :=
  let tried1 := tried ||| 2 ^ p
  let ok := decide (floor ≤ t)
  let better := ok && decide (e < beste)
  let bestp1 := if better then p else bestp
  let beste1 := if better then e else beste
  let next :=
    if ok && decide (0 < p) && decide (tried1 / 2 ^ (p - 1) % 2 = 0) then p - 1
    else if !ok && decide (beste1 = 0xFFFFFFFF) && decide (p < maxop) then p + 1
    else if beste1 ≠ 0xFFFFFFFF then bestp1
    else p
  (tried1, bestp1, beste1, next)

/-- The run of a partition ends; energy and rate come from sensors, so they are free values (log entry 2). -/
def State.endRun (s : State) (p : Nat) : State :=
  match s.sys.runs.find? p with
  | none => s
  | some r =>
    let s0 := { s with sys := { s.sys with runs := s.sys.runs.del p } }
    match s.recallFind r.die p r.kernel r.phase with
    | none => s0
    | some i =>
      if r.steady ∧ 0 < r.done ∧ r.point < 16 then
        let v := s.reg (recallReg r.die i 0)
        let e := Config.freeDelay (2 * s.tick) % 2 ^ 32
        let t := Config.freeDelay (2 * s.tick + 1)
        let u := recallUpdate (field v 55 40) (field v 39 36) (field (s.reg (recallReg r.die i 1)) 31 0) r.point (s.maxOp p)
          (s.floorOf p) e t
        (s0.setReg (recallReg r.die i 0) (recallWord p u.1 u.2.1 u.2.2.2 r.phase r.kernel)).setReg (recallReg r.die i 1)
          (BitVec.ofNat 64 u.2.2.1)
      else s0

/-- A run of a reserved partition starts for a launch, served by the table of the die that admitted it; the run before it ends
(15_isolation.md R428). -/
def State.startRun (s : State) (lid p kernel phase : Nat) : State :=
  let d := lid / 2 ^ 31 % 2
  let s0 := s.endRun p
  let s1 := { s0 with sys := { s0.sys with markers := s0.sys.markers.set p phase } }
  if s1.pclass p ≠ 1 then s1
  else
    let s2 := (s1.recallEntry d p kernel phase).1
    let ds := s2.domainsOf p
    let point := s2.pointOf (ds.headD 0)
    let run : RecallRun :=
      { lid := lid, die := d, kernel := kernel, phase := phase, point := point,
        steady := ds.all (fun r => decide (s2.pointOf r = point)), done := 0 }
    { s2 with sys := { s2.sys with runs := s2.sys.runs.set p run } }

/-- A run does not hold its point throughout once a domain of its partition changes. -/
def State.unsteady (s : State) (r : Nat) : State :=
  { s with sys := { s.sys with runs := mapVals (fun p x =>
      if (s.domainsOf p).contains r then { x with steady := false } else x) s.sys.runs } }

/-- The recall point of a reserved partition during a run. -/
def State.recallPoint (s : State) (p : Nat) : Nat :=
  match s.sys.runs.find? p with
  | some r =>
    match s.recallFind r.die p r.kernel r.phase with
    | some i => field (s.reg (recallReg r.die i 0)) 35 32
    | none => s.defOp p
  | none => s.defOp p

/-! ## phase, perf, carve (14_control_instr.md R402 to R404) -/

/-- Set the phase marker of the issuing cluster. A change of the partition's marker starts a run with the KERNEL of the issuing
task's launch (14_control_instr.md R402, 15_isolation.md R428; log entry 65). -/
def execPhase (n : Stall) (v : BitVec 8) (s : State) : Answer :=
  strandOp (0, 0) [] (fun s =>
    let w := s.cur.warp
    let p := (s.warp w).part
    let s1 := (s.passU n.toNat 4).updCluster (warpClu w) (fun g => { g with phase := v })
    let lid := (s.warp w).lid
    if s1.sys.markers.get 0 p = v.toNat then s1 else s1.startRun lid p (s.launch lid).kernel v.toNat) s

/-- Set the task's request for an operating point (14_control_instr.md R403). -/
def execPerf (n : Stall) (l : BitVec 4) (s : State) : Answer :=
  strandOp (0, 0) [] (fun s => (s.passU n.toNat 4).updWarp s.cur.warp (fun w => { w with perf := some l.toNat })) s

/-- Scratchpad ways of a size code (02_execution.md R42): 96 KiB is three ways of 32 KiB. -/
def carveWays (k : Nat) : Nat := k + 2

/-- A carve-out request for a core (10_memory.md R251, R252). R252 speaks of a later request for a different size; one for the size that is
pending is queued behind it in the same way: DESIGN CHOICE (log entry 133). -/
def State.requestCarve (s : State) (c ways : Nat) (q : Option QRec) : State :=
  if (s.core c).ways = ways ∧ (s.core c).carves.isEmpty ∧ q.isNone then s
  else s.updCore c (fun k => { k with carves := k.carves ++ [{ ways := ways, residents := s.residents c, trec := q }] })

/-- Request a scratchpad size for the issuing core; codes 0, 6 and 7 trap (14_control_instr.md R404). -/
def execCarve (n : Stall) (v : BitVec 3) (s : State) : Answer :=
  strandOp (0, 0) [] (fun s =>
    let w := s.cur.warp
    if v = 0 ∨ 6 ≤ v.toNat then s.strandTrap w 0x01 (s.warp w).spc
    else (s.passU n.toNat 4).requestCarve (coreOf w) (carveWays v.toNat) none) s

end Sys2Proof.Machine
end

