-- ==== Sys2Proof/Machine/Engine.lean ====
section
/-! DEFINITION. Engine queues and leases: placing operations in queues, waiting for them, bonding and unbonding, and the
strand instructions for memory (09_tensor_instr.md R210 to R213, R224, R234, R236 to R241, 08_bonds.md R189 to R199,
11_ordering.md R300 to R305, 12_memory_instr.md R324, R327, R330 to R334, R338). -/

namespace Sys2Proof.Machine

/-! ## Leases and queues -/

/-- The lease of a group, with its cluster. -/
def State.leaseOf (s : State) (lid grp : Nat) : Option (Nat × Lease) :=
  s.clusters.findSome? (fun p =>
    (p.2.leases.find? (fun l => decide (l.lid = lid) && decide (l.grp = grp))).map (fun l => (p.1, l)))

/-- The cores of a lease: for a strait lease every core of both clusters (08_bonds.md R190, R193). -/
def Lease.covers (l : Lease) (c : Nat) : Bool := l.cores.contains c

/-- The lease that covers a core. -/
def State.leaseAt (s : State) (c : Nat) : Option (Nat × Lease) :=
  s.clusters.findSome? (fun p => (p.2.leases.find? (fun l => l.covers c)).map (fun l => (p.1, l)))

def State.updLease (s : State) (lid grp : Nat) (f : Lease → Lease) : State :=
  { s with clusters := mapVals (fun _ g =>
      { g with leases := g.leases.map (fun l => if l.lid = lid ∧ l.grp = grp then f l else l) }) s.clusters }

/-- The cluster is lent to a strait lease (08_bonds.md R191). -/
def State.lentOut (s : State) (g : Nat) : Bool :=
  s.clusters.any (fun p => p.2.leases.any (fun l => decide (l.lent = some g)))

/-- A queue: of a task, of a core, or of a lease (09_tensor_instr.md R210). -/
inductive QRef where
  | own (w q : Nat)
  | core (c : Nat)
  | lease (lid grp : Nat)
  deriving DecidableEq, Repr

def State.queueAt (s : State) : QRef → List EngOp
  | .own w q => (s.warp w).queues.get [] q
  | .core c => (s.core c).q0
  | .lease lid grp => ((s.leaseOf lid grp).map (fun p => p.2.q0)).getD []

def State.setQueue (s : State) (l : List EngOp) : QRef → State
  | .own w q => s.updWarp w (fun v => { v with queues := v.queues.set q l })
  | .core c => s.updCore c (fun k => { k with q0 := l })
  | .lease lid grp => s.updLease lid grp (fun x => { x with q0 := l })

def State.headOf (s : State) (r : QRef) : Option EngOp := (s.queueAt r).head?

/-- Put a changed head back. -/
def State.setHead (s : State) (r : QRef) (o : EngOp) : State := s.setQueue (o :: (s.queueAt r).tail) r

/-- The q0 that serves a core: its own while it holds operations from before a lease, else its lease's
(09_tensor_instr.md R210, R237). -/
def State.q0At (s : State) (c : Nat) : QRef :=
  match s.leaseAt c with
  | some (_, l) =>
    if l.st = .revoked then (if l.q0.isEmpty then .core c else .lease l.lid l.grp)
    else if (s.core c).q0.isEmpty then .lease l.lid l.grp
    else .core c
  | none => .core c

/-- The queue of the agent of an engine event. -/
def State.actorQueue (s : State) : QRef := if s.cur.q = 0 then s.q0At s.cur.core else .own s.cur.warp s.cur.q

/-- A q0 of a lease serves once the lease has joined the engines (09_tensor_instr.md R237). -/
def State.joined (s : State) : QRef → Bool
  | .lease lid grp =>
    match s.leaseOf lid grp with
    | some (_, l) => !decide (l.st = .joining)
    | none => false
  | _ => true

/-- The operation is held by a checker mismatch (16_recovery.md R444). -/
def EngOp.isHeld (o : EngOp) : Bool :=
  match o.st with
  | .held _ => true
  | _ => false

/-- The master that an operation's accesses belong to is stopped (15_isolation.md R413). -/
def State.opFrozen (s : State) (o : EngOp) (clu : Nat) : Bool :=
  match o.kind with
  | .tcopy | .tquant => (s.cluster clu).copyFrozen
  | .gath | .scat => (s.cluster clu).gathFrozen
  | _ => (s.core (coreOf o.warp)).frozen

/-- The head of a queue may go on: its launch runs, it is not held, waits on no fault and is behind no fence. -/
def State.opLive (s : State) (o : EngOp) : Bool :=
  s.runs o.lid && !o.isHeld && decide (o.tok = none) && (decide (o.st ≠ .queued) || s.mayStart o)

/-- Held operations of the task of a slot whose trap was delivered go on (16_recovery.md R444). -/
def State.resumeHeld (s : State) (w : Nat) : State :=
  let wp := s.warp w
  let go (o : EngOp) : EngOp :=
    if o.lid = wp.lid ∧ o.taskId = wp.taskId ∧ o.st = .held true then { o with st := .running } else o
  if (lanesOf wp.live).any (fun i => (wp.lane i).inH && decide (field (wp.lane i).trapCode 7 0 = 0x10)) then s
  else
    { s.updWarp w (fun v => { v with queues := mapVals (fun _ q => q.map go) v.queues }) with
      cores := mapVals (fun _ c => { c with q0 := c.q0.map go }) s.cores
      clusters := mapVals (fun _ g => { g with leases := g.leases.map (fun l => { l with q0 := l.q0.map go }) }) s.clusters }

/-! ## Placing an operation -/

/-- An operation of the strand that executes. -/
def State.newOp (s : State) (k : OpKind) (q block : Nat) : EngOp :=
  let w := s.cur.warp
  let wp := s.warp w
  { kind := k, warp := w, lid := wp.lid, taskId := wp.taskId, num := wp.opNum, q := q, block := BitVec.ofNat 56 block, tid := wp.tid }

/-- Place an operation in a queue, behind those issued before it (08_bonds.md R195): a release at cluster scope for the warp, then the operation; a full queue makes the
strand wait (09_tensor_instr.md R210, 11_ordering.md R302). -/
def State.place (s : State) (n : Nat) (r : QRef) (o : EngOp) : State :=
  let w := s.cur.warp
  if 16 ≤ (s.queueAt r).length then s.updWarp w (fun v => { v with swait := .qfull o.q })
  else
    let s1 := (s.release (warpDie w) (coreOf w) .cluster (some (s.taskAgent w))).tellWho (coreOf w)
      (Wrote.pass (s.taskAgent w) (s.agentOf w (33 + o.q)))
    ((s1.setQueue (s1.queueAt r ++ [o]) r).updWarp w (fun v => { v with opNum := v.opNum + 1 })).passU n 4

/-- A command with a 64-byte aligned parameter block that its engine reads at acceptance (09_tensor_instr.md R211,
R224, 12_memory_instr.md R334). -/
def blockOp (n : Stall) (k : OpKind) (q : Nat) (a : BitVec 6) (s : State) : Answer :=
  strandOp (0, 0) [a.toNat] (fun s0 =>
    let s := s0.syncAll
    let w := s.cur.warp
    let va : Addr := (s.sval w 0 a.toNat).setWidth 56
    if va.toNat % 64 ≠ 0 then s.strandTrap w 0x0C (s.warp w).spc
    else s.place n.toNat (.own w q) (s.newOp k q va.toNat)) s

/-- Place a copy in q1 to q4 (09_tensor_instr.md R224). -/
def execTcopy (n : Stall) (q : BitVec 3) (a : BitVec 6) (s : State) : Answer := blockOp n .tcopy q.toNat a s

/-- Place a quantising copy in q1 to q4 (09_tensor_instr.md R234). -/
def execTquant (n : Stall) (q : BitVec 3) (a : BitVec 6) (s : State) : Answer := blockOp n .tquant q.toNat a s

/-- Place a gather in q5 (12_memory_instr.md R334). -/
def execGath (n : Stall) (a : BitVec 6) (s : State) : Answer := blockOp n .gath 5 a s

/-- Place a scatter in q5 (12_memory_instr.md R334). -/
def execScat (n : Stall) (a : BitVec 6) (s : State) : Answer := blockOp n .scat 5 a s

/-- Translate the address of a row and place the operation in q7 (12_memory_instr.md R338). -/
def rowOp (n : Stall) (k : OpKind) (a : BitVec 6) (s : State) : Answer :=
  strandOp (0, 0) [a.toNat] (fun s0 =>
    let s := s0.syncAll
    let w := s.cur.warp
    let va : Addr := (s.sval w 0 a.toNat).setWidth 56
    match s.strandReach va 1 .read with
    | (t, none) => t
    | (t, some pa) => t.place n.toNat (.own w 7) { t.newOp k 7 va.toNat with redAddr := pa }) s

/-- Place a promotion in q7 (12_memory_instr.md R338). -/
def execProm (n : Stall) (a : BitVec 6) (p : BitVec 1) (s : State) : Answer := rowOp n (.prom (decide (p = 1))) a s

/-- Place a demotion in q7 (12_memory_instr.md R338). -/
def execDem (n : Stall) (a : BitVec 6) (s : State) : Answer := rowOp n .dem a s

/-! ## qfence and qwait (11_ordering.md R304, R305) -/

/-- Operations issued later into a queue of the set begin after those issued before (11_ordering.md R304). -/
def execQfence (n : Stall) (q : BitVec 8) (s : State) : Answer :=
  strandOp (0, 0) [] (fun s =>
    (s.passU n.toNat 4).updWarp s.cur.warp (fun v =>
      if q = 0 then v
      else
        let live (f : QFence) : Bool := (s.opsOf s.cur.warp).any (fun o => decide (o.num < f.num))
        { v with fences := v.fences.filter live ++ [{ set := q.toNat, num := v.opNum }] })) s

/-- Wait until every operation that the task issued into a queue of the set has completed; acquire at die scope
(11_ordering.md R305). -/
def execQwait (n : Stall) (q : BitVec 8) (s : State) : Answer :=
  strandOp (0, 0) [] (fun s =>
    let w := s.cur.warp
    if (s.opsOf w).any (fun o => bitAt q o.q) then
      s.updWarp w (fun v => { v with swait := .queues q.toNat v.opNum })
    else if q = 0 then s.passU n.toNat 4
    else (s.acquire (warpDie w) (coreOf w) .die (some (s.taskAgent w))).passU n.toNat 4) s

/-! ## Strand accesses (12_memory_instr.md R324, R327) -/

/-- s[D] := 8 bytes of memory (12_memory_instr.md R324). -/
def execSld (n : Stall) (d a : BitVec 6) (i : BitVec 9) (s : State) : Answer :=
  strandOp (0x08, 1) [a.toNat] (fun s0 =>
    let s := s0.syncAll
    let w := s.cur.warp
    let va : Addr := (s.sval w 0 a.toNat + i.signExtend 64).setWidth 56
    match s.strandReach va 8 .read with
    | (t, none) => t
    | (t, some pa) =>
      match t.plainRead (t.strandMaster w) pa 8 with
      | (t, none) => t
      | (t, some v) => (t.putS n.toNat 4 0 d.toNat (BitVec.ofNat 64 v)).updWarp w (fun x => { x with loadOut := true })) s

/-- 8 bytes of memory := s[D] (12_memory_instr.md R324). -/
def execSst (n : Stall) (d a : BitVec 6) (i : BitVec 9) (s : State) : Answer :=
  strandOp (0x08, 1) [a.toNat, d.toNat] (fun s0 =>
    let s := s0.syncAll
    let w := s.cur.warp
    let va : Addr := (s.sval w 0 a.toNat + i.signExtend 64).setWidth 56
    let v := (s.sval w 1 d.toNat).toNat
    match s.strandReach va 8 .write with
    | (t, none) => t
    | (t, some pa) =>
      let m := t.strandMaster w
      let t1 := if quarter pa = 3 then t.remoteWrite m pa 8 v else t.l2Write m (canonPa pa) 8 v
      t1.passU n.toNat 4) s

/-- s[D] := 8 bytes of a window, or 0 with POVR beyond its size (12_memory_instr.md R327). The sum idx + s[A] is not reduced modulo 2^64,
so that one beyond every size reads 0: DESIGN CHOICE (log entry 140). -/
def execLdpUniform (n : Stall) (d a : BitVec 6) (w : BitVec 3) (i : BitVec 6) (s : State) : Answer :=
  strandOp (0x08, 1) [a.toNat] (fun s0 =>
    let s := s0.syncAll
    let x := s.cur.warp
    let win := (s.launch (s.warp x).lid).window w.toNat
    let j := i.toNat + (s.sval x 0 a.toNat).toNat
    if win.2 = 0 then s.strandTrap x 0x07 (s.warp x).spc
    else if win.2 < 8 * j + 8 then (s.putS n.toNat 4 0 d.toNat 0).updWarp x (fun v => v.setFlags fPOVR)
    else
      match s.strandReach (BitVec.ofNat 56 (win.1 + 8 * j)) 1 .read with
      | (t, none) => t
      | (t, some pa) =>
        match t.plainRead (t.strandMaster x) pa 8 with
        | (t, none) => t
        | (t, some v) => (t.putS n.toNat 4 0 d.toNat (BitVec.ofNat 64 v)).updWarp x (fun v => { v with loadOut := true })) s

/-! ## Tensor ids (12_memory_instr.md R332, R333, 10_memory.md R260, R261) -/

/-- The current tensor id := s[A] [11:0] (12_memory_instr.md R332). -/
def execTtag (n : Stall) (a : BitVec 6) (s : State) : Answer :=
  strandOp (0, 0) [a.toNat] (fun s0 =>
    let s := s0.syncAll
    (s.passU n.toNat 4).updWarp s.cur.warp (fun v => { v with tid := field (s.sval s.cur.warp 0 a.toNat) 11 0 })) s

/-- Every line of a partition with an id leaves every L1 and L2 without write-back, and with it what an engine holds of such a
line (10_memory.md R261). A write on its way across the strait has been performed at its own slice: it falls with the line there,
or by the id it carries where that slice holds the line no more (log entry 24). -/
def State.discardTag (s : State) (part t : Nat) : State :=
  if t = 0 then s
  else
    let tagged (tid p : Nat) : Bool := decide (tid = t) && decide (p = part)
    let falls (g : Msg) : Bool :=
      match s.mem.line? g.src g.line with
      | some l => tagged l.tid l.part
      | none => tagged g.q.tid g.q.part
    { s with
      cores := mapVals (fun _ c => { c with l1 := keepVals (fun _ l => !tagged l.tid l.part) c.l1 }) s.cores
      mem := { s.mem with
        l2 := keepVals (fun _ l => !tagged l.tid l.part) s.mem.l2
        granules := keepVals (fun _ g => !tagged g.tid g.part) s.mem.granules
        strait := s.mem.strait.filter (fun g => !falls g) } }

/-- Discard the lines of an id (12_memory_instr.md R333). -/
def execTdisc (n : Stall) (a : BitVec 6) (s : State) : Answer :=
  strandOp (0, 0) [a.toNat] (fun s0 =>
    let s := s0.syncAll
    (s.discardTag (s.warp s.cur.warp).part (field (s.sval s.cur.warp 0 a.toNat) 11 0)).passU n.toNat 4) s

/-! ## bond and unbond (09_tensor_instr.md R237, R238, 08_bonds.md R189 to R196) -/

/-- Rows or columns of a code (09_tensor_instr.md R237). -/
def shapeOf (k : Nat) : Nat := if k = 0 then 1 else if k = 1 then 2 else 4

/-- The cores of the aligned rectangle of a × b that contains a core, row by row (08_bonds.md R189, R193). -/
def rectCores (c a b : Nat) : List Nat :=
  let r0 := c % 16 / 4 / a * a
  let c0 := c % 4 / b * b
  (List.range a).flatMap (fun i => (List.range b).map (fun j => cluOf c * 16 + 4 * (r0 + i) + c0 + j))

/-- The other cluster of a seam pair and the pair's number (01_machine.md R17). -/
def seamOf (g : Nat) : Option (Nat × Nat) :=
  let l := g % 64
  if g < 64 ∧ l % 8 = 7 then some (64 + l - 7, l / 8)
  else if 64 ≤ g ∧ l % 8 = 0 then some (l + 7, l / 8)
  else none

/-- The 4 × 8 cores of a strait bond, row by row: columns 0 to 3 on die 0 (08_bonds.md R190). -/
def straitCores (g0 g1 : Nat) : List Nat :=
  (List.range 4).flatMap (fun i =>
    (List.range 4).map (fun j => 16 * g0 + 4 * i + j) ++ (List.range 4).map (fun j => 16 * g1 + 4 * i + j))

/-- A physical position sits on the strait edge. The manual numbers no positions: DESIGN CHOICE, one below 64 stands where the grid
has the logical id of that number, which CMAP maps to it at reset, and whether a spare sits on the edge is free (01_machine.md R16,
R17; log entry 45). -/
def atStrait (d p : Nat) : Bool :=
  if p < 64 then decide (p % 8 = (if d = 0 then 7 else 0)) else decide (p < 68) && Config.spareAtStrait (4 * d + p % 4)

/-- Physical position of a logical cluster in the fuses: its own, or that of the first spare that replaces it. A package ships with
every seam pair usable, so a spare that serves a seam cluster's id sits on the edge (01_machine.md R14, R16, 25_physical.md R526; log
entry 45). -/
def fusedPos (d l : Nat) : Nat :=
  match (List.range 4).find? (fun k => decide (Config.fuseRepair (4 * d + k) = l) && (atStrait d (64 + k) || !atStrait d l)) with
  | some k => 64 + k
  | none => l

/-- Physical position of a logical cluster: as fused until the repair map is loaded, then as CMAP has it (15_isolation.md R407,
25_physical.md R526, R530). -/
def State.posOf (s : State) (d l : Nat) : Nat :=
  if s.boot.stage ≤ 4 then fusedPos d l else field (s.reg (dieBlk d (8 * l))) 6 0

/-- The seam pairs whose ids physical clusters on the strait edge serve, bit by bit (01_machine.md R16, R17); as SEAMST.MAP reads:
0 while either die is gated, and without a pair one of whose clusters a revocation has announced for repair (25_physical.md R530,
R531; log entry 45). -/
def State.seamMap (s : State) : Nat :=
  if s.sys.off 0 || s.sys.off 1 then 0
  else (List.range 8).foldl (fun m n =>
    if atStrait 0 (s.posOf 0 (8 * n + 7)) && atStrait 1 (s.posOf 1 (8 * n)) && !s.sys.underRepair.contains (8 * n + 7) &&
      !s.sys.underRepair.contains (64 + 8 * n) then m + 2 ^ n else m) 0

/-- A core holds a resident member of a group. -/
def State.hasMember (s : State) (lid grp c : Nat) : Bool :=
  (s.residents c).any (fun w => decide ((s.warp w).lid = lid) && (s.warp w).groupNos.contains grp)

/-- A request for the lease of a group's shape: the status code, and the cores of the lease, row by row
(09_tensor_instr.md R237). While a revoked lease of the group still drains, its mark cleared, the answer is HELD
(DESIGN CHOICE, log entry 42). -/
def State.bondCode (s : State) (w k : Nat) (strait : Bool) (a b : Nat) : Nat × List Nat :=
  let wp := s.warp w
  let l := s.launch wp.lid
  let c := coreOf w
  let g := cluOf c
  match wp.trec.group? k with
  | none => (1, [])
  | some grp =>
    if (l.group grp).place ≠ 2 then (1, [])
    else if (s.leaseOf wp.lid grp).isSome || (l.gstate grp).revoked then (2, [])
    else
      let own := if strait then rectCores c 4 4 else rectCores c a b
      let pair := if strait then seamOf g else none
      let lentCores := match pair with
        | some (h, _) => (List.range 16).map (fun j => 16 * h + j)
        | none => []
      if own.any (fun x => !s.hasMember wp.lid grp x) then (3, [])
      else if (own ++ lentCores).any (fun x => (s.leaseAt x).isSome) then (4, [])
      else if !strait then (0, own)
      else
        match pair with
        | none => (5, [])
        | some (h, i) =>
          if s.seamMap / 2 ^ i % 2 = 0 then (5, [])
          else if s.cpart g ≠ s.cpart h ∨ s.regulator g ≠ s.regulator h then (6, [])
          else if (List.range 16).any (fun j => !(s.residents (16 * h + j)).isEmpty) then (7, [])
          else (0, if g < 64 then straitCores g h else straitCores h g)

/-- Change the ways of a core: the lines of every way that leaves L1 are written back and invalidated, and bytes that leave or
enter the scratchpad read as zero afterwards (10_memory.md R252 steps 3 to 5). -/
def State.setWays (s : State) (c ways : Nat) : State :=
  let old := (s.core c).ways
  let s1 := ((s.core c).l1.filter (fun p => decide (p.2.way < ways))).foldl (fun s p => s.l1Drop (dieOf (cluOf c)) c p.1) s
  s1.updCore c (fun k => { k with ways := ways, spad := k.spad.filter (fun p => decide (p.1 < 32768 * min old ways)) })

/-- Grant a lease (08_bonds.md R191, R193); it joins the engines at once where no q0 operation runs on its cores. -/
def State.grantLease (s : State) (w k a b : Nat) (strait : Bool) (cores : List Nat) : State :=
  let wp := s.warp w
  let g := warpClu w
  let lent := if strait then (seamOf g).map (·.1) else none
  let busy := cores.any (fun c => !(s.core c).q0.isEmpty)
  let ls : Lease := { lid := wp.lid, grp := (wp.trec.group? k).getD 0, rows := a, cols := b, strait := strait,
                      origin := (cores.find? (fun c => decide (cluOf c = g))).getD 0 % 16, clu := g, lent := lent, cores := cores,
                      st := if busy then .joining else .held, num := s.clock }
  let s1 := { s with clock := s.clock + 1 }.updCluster g (fun x => { x with leases := x.leases ++ [ls] })
  match lent with
  | some h => (List.range 16).foldl (fun s j => s.setWays (16 * h + j) (s.core (16 * g + j)).ways) s1
  | none => s1

/-- A bond request of a shape: the answer in s[D] (09_tensor_instr.md R237). -/
def bondOp (n : Stall) (d : BitVec 6) (k : BitVec 2) (strait : Bool) (a b : Nat) (s : State) : Answer :=
  strandOp (0, 0) [] (fun s =>
    let w := s.cur.warp
    let r := s.bondCode w k.toNat strait a b
    let s1 := if r.1 = 0 then s.grantLease w k.toNat a b strait r.2 else s
    s1.putS n.toNat 4 0 d.toNat (BitVec.ofNat 64 r.1)) s

/-- Request a lease of a × b cores; code 3 traps (09_tensor_instr.md R237). -/
def execBond (n : Stall) (d : BitVec 6) (k c r : BitVec 2) (s : State) : Answer :=
  if c = 3 ∨ r = 3 then strandOp (0, 0) [] (fun s => s.strandTrap s.cur.warp 0x01 (s.warp s.cur.warp).spc) s
  else bondOp n d k false (shapeOf r.toNat) (shapeOf c.toNat) s

/-- Request a strait lease (09_tensor_instr.md R237). -/
def execBondStrait (n : Stall) (d : BitVec 6) (k : BitVec 2) (s : State) : Answer := bondOp n d k true 4 8 s

/-- Release the group's lease, and wait for it; a revoked mark is cleared, a revoked lease is held no longer, and a lease that
was granted while the strand waited stays (09_tensor_instr.md R238, 08_bonds.md R196, R197, R199). -/
def execUnbond (n : Stall) (k : BitVec 2) (s : State) : Answer :=
  strandOp (0, 0) [] (fun s =>
    let w := s.cur.warp
    let wp := s.warp w
    match wp.trec.group? k.toNat with
    | none => s.passU n.toNat 4
    | some grp =>
      if ((s.launch wp.lid).gstate grp).revoked then
        (s.updLaunch wp.lid (fun l => l.updGroup grp (fun x => { x with revoked := false }))).passU n.toNat 4
      else
        match s.leaseOf wp.lid grp with
        | none => s.passU n.toNat 4
        | some (_, l) =>
          if l.st = .revoked ∨ !decide (wp.waitOn.getD l.num = l.num) then s.passU n.toNat 4
          else if l.q0.isEmpty ∧ l.st ≠ .joining then
            ({ s with clusters := mapVals (fun _ g =>
                { g with leases := g.leases.filter (fun x => !(decide (x.lid = wp.lid) && decide (x.grp = grp))) }) s.clusters }).passU n.toNat 4
          else
            (s.updLease wp.lid grp (fun x => if x.st = .held then { x with st := .releasing } else x)).updWarp w (fun v =>
              { v with swait := .unbond k.toNat, waitOn := some l.num })) s

end Sys2Proof.Machine
end

