-- ==== Sys2Proof/Machine/Quad.lean ====
section
/-! DEFINITION. Four-bit codes, tile records and their quantisation (06_square_tiles.md). -/

namespace Sys2Proof.Machine

/-- Largest magnitude of a code type (06_square_tiles.md R132). -/
def CodeType.vmax : CodeType → Nat
  | .int => 7
  | .e2m1 => 6
  | .pow2 => 1
  | .hyb => 8

/-- Magnitudes of codes 0 to 7 in units of 2^−6 (06_square_tiles.md R124). -/
def q4Mags (t : CodeType) : List Nat :=
  match t with
  | .int => [0, 64, 128, 192, 256, 320, 384, 448]
  | .e2m1 => [0, 32, 64, 96, 128, 192, 256, 384]
  | .pow2 => [0, 1, 2, 4, 8, 16, 32, 64]
  | .hyb => [0, 64, 128, 192, 256, 320, 384, 512]

/-- Sign and magnitude in units of 2^−6 of a code (06_square_tiles.md R124). -/
def q4Value (t : CodeType) (k : Nat) : Bool × Nat :=
  match t with
  | .int => if k < 8 then (false, 64 * k) else (true, 64 * (16 - k))
  | _ => (decide (8 ≤ k), (q4Mags t).getD (k % 8) 0)

/-- The nearer of two magnitude codes to num / den; on a tie the one with bit 0 clear (06_square_tiles.md R133). -/
def nearer (t : CodeType) (num den a b : Nat) : Nat :=
  let dist (k : Nat) : Nat := ((num * 64 : Nat) - ((q4Mags t).getD k 0 * den : Nat) : Int).natAbs
  if dist a < dist b then a else if dist b < dist a then b else if a % 2 = 0 then a else b

/-- nearest_code for (−1)^neg × num / den (06_square_tiles.md R133). -/
def nearestCode (t : CodeType) (neg : Bool) (num den : Nat) : Nat :=
  let k := [1, 2, 3, 4, 5, 6, 7].foldl (fun a b => nearer t num den a b) 0
  if k = 0 then 0
  else if neg then (match t with
    | .int => 16 - k
    | _ => 8 + k)
  else k

/-- The magnitude mag × 2^d as a fraction, with d held between −400 and 400: beyond these a four-bit code no longer
depends on it. -/
def clampFrac (mag : Nat) (d : Int) : Nat × Nat :=
  let e := max (-400) (min 400 d)
  if 0 ≤ e then (mag * 2 ^ e.toNat, 1) else (mag, 2 ^ (-e).toNat)

/-- fq4 (07_lane_arith.md R166). -/
def fq4 (t : CodeType) (a b : Word) : Flagged Word :=
  match flFP32.decode a.toNat with
  | .nan => ⟨0, fNV⟩
  | .inf n => ⟨BitVec.ofNat 32 (nearestCode t n (16 * CodeType.vmax t) 1), fQSAT + fNX⟩
  | .fin n m e =>
    let (num, den) := clampFrac m (e - b.toInt)
    let k := nearestCode t n num den
    let fl := if CodeType.vmax t * den < num then fQSAT + fNX
      else if (q4Value t k).2 * den = num * 64 then 0 else fNX
    ⟨BitVec.ofNat 32 k, fl⟩

/-- fdq4 (07_lane_arith.md R167). -/
def fdq4 (t : CodeType) (a b : Word) : Flagged Word :=
  let (n, v) := q4Value t (a.toNat % 16)
  let r := flFP32.roundDy .nearest true false n v (max (-400) (min 400 (b.toInt - 6)))
  ⟨BitVec.ofNat 32 r.val, r.flags⟩

/-- Code type of two bits. -/
def codeTypeOf (k : Nat) : CodeType :=
  match k % 4 with
  | 0 => .int
  | 1 => .e2m1
  | 2 => .pow2
  | _ => .hyb

def CodeType.num : CodeType → Nat
  | .int => 0
  | .e2m1 => 1
  | .pow2 => 2
  | .hyb => 3

/-- |x| ≤ v × 2^t. A NaN takes no part, an infinity never qualifies (06_square_tiles.md R135). -/
def leScaled (x : FNum) (v : Nat) (t : Int) : Bool :=
  match x with
  | .nan => true
  | .inf _ => false
  | .fin _ m e =>
    let d := e - t
    if m = 0 then true
    else if 0 ≤ d then decide (m * 2 ^ d.toNat ≤ v) else decide (m ≤ v * 2 ^ (-d).toNat)

/-- The larger of two magnitudes, as fractions. -/
def maxFrac (a b : Nat × Nat) : Nat × Nat := if a.1 * b.2 < b.1 * a.2 then b else a

/-- The largest finite magnitude of a list. -/
def maxMag (xs : List FNum) : Nat × Nat :=
  xs.foldl (fun a x =>
    match x with
    | .fin _ m e => maxFrac a (if 0 ≤ e then (m * 2 ^ e.toNat, 1) else (m, 2 ^ (-e).toNat))
    | _ => a) (0, 1)

/-- The smallest E with M ≤ Vmax × 2^E (06_square_tiles.md R132). -/
def tileExp (v : Nat) (m : Nat × Nat) : Int :=
  let l := floorLog2 m.1 (v * m.2)
  let exact := if 0 ≤ l then decide (m.1 = v * m.2 * 2 ^ l.toNat) else decide (m.1 * 2 ^ (-l).toNat = v * m.2)
  if exact then l else l + 1

/-- The largest k in 0 to 3 that qualifies, 0 if none. -/
def largestMicro (ok : Nat → Bool) : Nat := if ok 3 then 3 else if ok 2 then 2 else if ok 1 then 1 else 0

/-- The header of a tile record: row and column micro-exponents and the scale byte (06_square_tiles.md R123, R128). -/
structure TileRec where
  codes : List Nat   -- 256 codes, row by row
  rows : List Nat
  cols : List Nat
  type : Nat
  exp : Nat
  deriving DecidableEq, Repr

/-- A zero tile of a type (06_square_tiles.md R129). -/
def zeroTile (t : Nat) : TileRec :=
  ⟨List.replicate 256 0, List.replicate 16 0, List.replicate 16 0, t, 0⟩

/-- The 144 bytes of a record (06_square_tiles.md R127). -/
def TileRec.bytes (r : TileRec) : List Byte :=
  let pack2 (l : List Nat) : List Byte :=
    (List.range (l.length / 2)).map (fun k => BitVec.ofNat 8 (l.getD (2 * k) 0 + 16 * l.getD (2 * k + 1) 0))
  let micro (l : List Nat) : Nat := (List.range 16).foldl (fun a j => a + l.getD j 0 * 4 ^ j) 0
  pack2 r.codes ++ bytesOf 4 (micro r.rows) ++ bytesOf 4 (micro r.cols) ++ bytesOf 1 (64 * r.type + r.exp) ++ bytesOf 7 0

/-- A record from its bytes; PAD is ignored (06_square_tiles.md R127, R130). -/
def TileRec.ofBytes (b : List Byte) : TileRec :=
  let byte (k : Nat) : Nat := (b.getD k 0).toNat
  let micro (o : Nat) : List Nat := (List.range 16).map (fun j => byte (o + j / 4) / 4 ^ (j % 4) % 4)
  { codes := (List.range 256).map (fun k => byte (k / 2) / (if k % 2 = 0 then 1 else 16) % 16)
    rows := micro 128, cols := micro 132, type := byte 136 / 64, exp := byte 136 % 64 }

/-- A record has a non-zero PAD byte (06_square_tiles.md R130). -/
def padBad (b : List Byte) : Bool := (b.drop 137).any (fun v => v ≠ 0)

/-- The transposed record (06_square_tiles.md R137). -/
def TileRec.transpose (r : TileRec) : TileRec :=
  { r with codes := (List.range 256).map (fun k => r.codes.getD (16 * (k % 16) + k / 16) 0), rows := r.cols, cols := r.rows }

/-- Quantise 256 values row by row (06_square_tiles.md R132 to R136). -/
def q4Quant (t : CodeType) (xs : List FNum) : TileRec × Nat :=
  let v := CodeType.vmax t
  let at_ (i j : Nat) : FNum := xs.getD (16 * i + j) (.fin false 0 0)
  let nanFl := if xs.any FNum.isNan then fNV else 0
  let hasInf := xs.any (fun x => match x with
    | .inf _ => true
    | _ => false)
  let m := maxMag xs
  if m.1 = 0 ∧ !hasInf then (zeroTile (CodeType.num t), nanFl)
  else
    let e0 : Int := if hasInf then 32 else tileExp v m
    if e0 < -32 then (zeroTile (CodeType.num t), fUF + fNX ||| nanFl)
    else
      let sat := decide (31 < e0)
      let e := if sat then 31 else e0
      let idx := List.range 16
      let rows := idx.map (fun i => largestMicro (fun k => idx.all (fun j => leScaled (at_ i j) v (e - k))))
      let cols := idx.map (fun j => largestMicro (fun k =>
        idx.all (fun i => leScaled (at_ i j) v (e - (rows.getD i 0 : Int) - k))))
      let cell (n : Nat) : Nat × Bool :=
        let i := n / 16
        let j := n % 16
        let sc : Int := e - (rows.getD i 0 : Int) - (cols.getD j 0 : Int)
        match at_ i j with
        | .nan => (0, false)
        | .inf g => (nearestCode t g (16 * v) 1, true)
        | .fin g mg ex =>
          let (num, den) := clampFrac mg (ex - sc)
          let k := nearestCode t g num den
          (k, !decide ((q4Value t k).2 * den = num * 64))
      let cells := (List.range 256).map cell
      let nx := if cells.any (fun c => c.2) then fNX else 0
      ({ codes := cells.map (fun c => c.1), rows := rows, cols := cols, type := CodeType.num t, exp := (e + 32).toNat },
       (if sat then fQSAT + fNX else 0) ||| nx ||| nanFl)

end Sys2Proof.Machine
end

