-- ==== Sys2Proof/Machine/Copy.lean ====
section
/-! DEFINITION. The tensor copy engine: parameter blocks, checks at acceptance, and the course of tcopy and tquant
(09_tensor_instr.md R211 to R217, R224 to R234, 06_square_tiles.md R130, R131, R137). -/

namespace Sys2Proof.Machine

/-! ## Accesses of engines -/

/-- How an access of an engine ends. bad lists the half bytes of the access that held an uncorrectable error, by 2 × offset, and 1
more for the high half. -/
inductive Got where
  | val (v : Nat) (bad : List Nat)
  | wait (tok : Nat)
  | stop  -- frozen, or an error was consumed
  deriving DecidableEq, Repr

/-- The single-copy atomic units of an access of n bytes: offsets and lengths (11_ordering.md R281). -/
def units (n : Nat) : List (Nat × Nat) := if n ≤ 8 then [(0, n)] else (List.range (n / 8)).map (fun k => (8 * k, 8))

/-- Translate and check every unit of an access: the physical addresses. -/
def State.engReach (s : State) (m : Master) (k : AccKind) (va : Nat) (us : List (Nat × Nat)) : State × (List Nat ⊕ Got) :=
  let r := s.translateAll m k [] (us.map (fun u => (va + u.1) % 2 ^ 56))
  match firstWait r.2 with
  | some tok => (r.1, .inr (.wait tok))
  | none =>
    let pas := r.2.filterMap (fun p =>
      match p.2 with
      | .ok pa => some pa
      | _ => none)
    if pas.length < r.2.length then (r.1, .inr .stop)
    else
      match pas.find? (fun pa => !r.1.paAllowed m.part pa k) with
      | some pa => (r.1.freeze m pa k, .inr .stop)
      | none => (r.1, .inl pas)

/-- A substituted error is logged (16_recovery.md R439, R441). -/
def State.logSubst (s : State) (m : Master) (addr what : Nat) (opnd row col : Nat) : State :=
  (s.countUe m.die).logErr { addr := addr, lid := m.lid.getD 0xFFFFFFFF, kind := 1, what := what, where_ := m.place,
                             opnd := opnd, row := row, col := col }

/-- Operand, row and column of a log record that names no matrix operand (16_recovery.md R441). -/
def plainPlace : Nat × Nat × Nat := (0xFF, 0xFFFFFFFF, 0xFFFFFFFF)

/-- A unit read by an engine that substitutes what is in error in it: its value, and the half bytes in error. A sector in error reads
as 0; of a byte whose codes alone are in error these alone are (06_square_tiles.md R131, 16_recovery.md R439). Each unit is logged
with the given operands, rows and columns. -/
def State.readAround (s : State) (m : Master) (a len : Nat) (places : List (Nat × Nat × Nat)) : State × Option (Nat × List Nat) :=
  let r := s.meets m.die a len
  match r.2 with
  | none =>
    let x := r.1.l2Read m a len
    (x.1, x.2.map (fun v => (v, [])))
  | some e =>
    let t := places.foldl (fun t x => t.logSubst m e.2 e.1 x.1 x.2.1 x.2.2) (r.1.trackRead m.lid a)
    if e.1 ≠ 0 ∨ (s.meetsBad a len).2 then (t, some (0, List.range (2 * len)))
    else (t, some (ofBytes (t.mem.lookN m.die a len), (List.range (2 * len)).filter (fun h => s.mem.badHalf.contains (2 * a + h))))

/-- Read the units of an access one after another; with tol set, what is in error in a unit is replaced, and logged with each
operand, row and column that tol gives for its offset. -/
def State.engUnits (s : State) (m : Master) (tol : Option (Nat → List (Nat × Nat × Nat))) : List (Nat × Nat × Nat) → State × Got
  | [] => (s, .val 0 [])
  | (off, len, pa) :: rest =>
    let one : State × Option (Nat × List Nat) :=
      if quarter pa = 3 then
        let x := s.remoteRead m pa len
        (x.1, x.2.map (fun v => (v, [])))
      else
        match tol with
        | some f => s.readAround m (canonPa pa) len (f off)
        | none =>
          let x := s.l2Read m (canonPa pa) len
          (x.1, x.2.map (fun v => (v, [])))
    match one with
    | (t, none) => (t, .stop)
    | (t, some (v, bad)) =>
      match t.engUnits m tol rest with
      | (u, .val x l) => (u, .val (v * 2 ^ (8 * off) + x) (bad.map (fun h => 2 * off + h) ++ l))
      | r => r

/-- Units of quarter 11 that follow one another on a node are one access, as a tile record there is (06_square_tiles.md R142,
11_ordering.md R281). -/
def joinRuns : List (Nat × Nat × Nat) → List (Nat × Nat × Nat)
  | [] => []
  | (o, n, p) :: rest =>
    match joinRuns rest with
    | (o2, n2, p2) :: more =>
      if quarter p = 3 ∧ p2 = p + n ∧ nodeOf p2 = nodeOf p then (o, n + n2, p) :: more else (o, n, p) :: (o2, n2, p2) :: more
    | [] => [(o, n, p)]

/-- The lines of the stacks among some physical addresses, in ascending order. -/
def linesOf (pas : List Nat) : List Nat :=
  (((pas.filter (fun pa => decide (quarter pa < 2))).map (fun pa => canonPa pa / 128)).dedup)

/-- A record's lines are claimed at their home slices: what is on its way to them arrives first (06_square_tiles.md R142). -/
def State.claim (s : State) (lines : List Nat) : State :=
  lines.foldl (fun s k => s.updMem (fun m => m.claim (128 * k) 128)) s

/-- A read of n bytes by an engine. -/
def State.engGet (s : State) (m : Master) (tol : Option (Nat → List (Nat × Nat × Nat))) (va n : Nat) : State × Got :=
  match s.engReach m .read va (units n) with
  | (t, .inr g) => (t, g)
  | (t, .inl pas) =>
    t.engUnits m tol (((units n).zip pas).map (fun p => (p.1.1, p.1.2, p.2)))

/-- A read of a whole tile record by a copy engine: one record access; each unit with an error in it is logged
(06_square_tiles.md R131, R142, R144). -/
def State.recGet (s : State) (m : Master) (va : Nat) : State × Got :=
  match s.engReach m .read va (units 144) with
  | (t, .inr g) => (t, g)
  | (t, .inl pas) =>
    (t.claim (linesOf pas)).engUnits m (some (fun _ => [plainPlace]))
      (joinRuns (((units 144).zip pas).map (fun p => (p.1.1, p.1.2, p.2))))

/-- A read of n bytes from any address on: the value, and each half byte in error with its memory sector. The A stream of
an mma, in units of 8 bytes where it is aligned (09_tensor_instr.md R244). -/
def State.engStream (s : State) (m : Master) (va n : Nat) : State × (Nat × List (Nat × Nat) ⊕ Got) :=
  let us := if va % 8 = 0 then units n else (List.range n).map (fun k => (k, 1))
  match s.engReach m .read va us with
  | (t, .inr g) => (t, .inr g)
  | (t, .inl pas) =>
    let bytes := (us.zip pas).flatMap (fun p => (List.range p.1.2).map (fun j => (p.1.1 + j, canonPa p.2 / 32 * 32)))
    match t.engUnits m (some (fun _ => [])) ((us.zip pas).map (fun p => (p.1.1, p.1.2, p.2))) with
    | (t, .val v bad) => (t, .inl (v, (bytes.flatMap (fun x => [(2 * x.1, x.2), (2 * x.1 + 1, x.2)])).filter (fun x => bad.contains x.1)))
    | (t, g) => (t, .inr g)

/-- Codes of a record that are in error are stored as they were held, and stay in error in memory: no rule says what a store or a
move of them leaves there (DESIGN CHOICE, log entry 132; 06_square_tiles.md R131, 16_recovery.md R439). halves are by 2 × offset. -/
def State.poisonCodes (s : State) (m : Master) (a : Nat) (halves : List Nat) : State :=
  if halves.isEmpty then s
  else
    (s.updMem (fun y => { y with badHalf := y.badHalf ++ halves.map (fun h => 2 * a + h) })).logErr
      { addr := a / 32 * 32, lid := m.lid.getD 0xFFFFFFFF, kind := 3, what := 0, where_ := m.place }

/-- A write of n bytes by an engine. -/
def State.engPut (s : State) (m : Master) (va n v : Nat) : State × Got :=
  match s.engReach m .write va (units n) with
  | (t, .inr g) => (t, g)
  | (t, .inl pas) =>
    (((units n).zip pas).foldl (fun s p =>
      let x := v / 2 ^ (8 * p.1.1)
      if quarter p.2 = 3 then s.remoteWrite m p.2 p.1.2 (x % 2 ^ (8 * p.1.2))
      else s.l2Write m (canonPa p.2) p.1.2 x) t, .val 0 [])

/-- A number for a record write that no message on its way bears. -/
def Mem.freshRec (m : Mem) : Nat := m.strait.foldl (fun k g => max k g.rec_) 0 + 1

/-- Where an engine holds part of a record's bytes, all of the record lands with them on either die, so that no access finds it in
part (06_square_tiles.md R143). -/
def Mem.landRec (m : Mem) (d line : Nat) (mask : BitVec 128) : Mem := if m.heldMask line &&& mask = 0 then m else m.drainLine d line

/-- The bytes of a record that fall into a line of the stacks: their mask and data. -/
def recPart (us : List ((Nat × Nat) × Nat)) (v line : Nat) : BitVec 128 × BitVec 1024 :=
  (us.filter (fun p => decide (quarter p.2 < 2) && decide (canonPa p.2 / 128 = line))).foldl (fun x p =>
    (x.1 ||| runMask (canonPa p.2 % 128) 8, x.2 ||| runData (canonPa p.2 % 128) (v / 2 ^ (8 * p.1.1) % 2 ^ 64))) (0, 0)

/-- A write of a whole tile record by a copy engine: one record access (06_square_tiles.md R142). bad names half bytes that stay in
error. -/
def State.recPut (s : State) (m : Master) (va v : Nat) (bad : List Nat) : State × Got :=
  match s.engReach m .write va (units 144) with
  | (t, .inr g) => (t, g)
  | (t, .inl pas) =>
    let us := (units 144).zip pas
    let lines := linesOf pas
    let t1 := t.claim lines
    let n := t1.mem.freshRec
    let t2 := lines.foldl (fun s line => s.l2Put m line (recPart us v line).1 (recPart us v line).2 n) t1
    let t3 := t2.updMem (fun x => lines.foldl (fun x line => x.landRec m.die line (recPart us v line).1) x)
    let t4 := (joinRuns (us.map (fun p => (p.1.1, p.1.2, p.2)))).foldl (fun s p =>
      if quarter p.2.2 = 3 then s.remoteWrite m p.2.2 p.2.1 (v / 2 ^ (8 * p.1) % 2 ^ (8 * p.2.1)) else s) t3
    (us.foldl (fun s p =>
      if quarter p.2 = 3 then s
      else s.poisonCodes m (canonPa p.2) ((bad.filter (fun h => decide (h / 16 = p.1.1 / 8))).map (fun h => h % 16))) t4, .val 0 [])

/-! ## The copy parameter block (09_tensor_instr.md R225 to R227) -/

def EngOp.signed (o : EngOp) (off n : Nat) : Int := (BitVec.ofNat (8 * n) (o.pbNum off n)).toInt

def EngOp.ctrl (o : EngOp) : Nat := o.pbNum 24 4
def EngOp.xtra (o : EngOp) : Nat := o.pbNum 28 4
def EngOp.dir (o : EngOp) : Nat := o.ctrl % 4
def EngOp.fmt (o : EngOp) : Nat := o.ctrl / 4 % 16
/-- Number of dimensions, NDIM + 1. -/
def EngOp.dims (o : EngOp) : Nat := o.ctrl / 64 % 8 + 1
def EngOp.perm (o : EngOp) (k : Nat) : Nat := o.ctrl / 2 ^ (9 + 3 * k) % 8
def EngOp.cvt (o : EngOp) : Nat := o.ctrl / 2 ^ 24 % 8
def EngOp.srcAcc (o : EngOp) : Bool := decide (o.ctrl / 2 ^ 27 % 2 = 1)
def EngOp.rtrans (o : EngOp) : Bool := decide (o.ctrl / 2 ^ 28 % 2 = 1)
def EngOp.mcast (o : EngOp) : Nat := o.xtra % 2 ^ 16
def EngOp.lent (o : EngOp) : Bool := decide (o.xtra / 2 ^ 28 % 2 = 1)
def EngOp.ext (o : EngOp) (j : Nat) : Nat := o.pbNum (32 + 4 * j) 4
def EngOp.org (o : EngOp) (j : Nat) : Int := o.signed (52 + 4 * j) 4
def EngOp.bnd (o : EngOp) (j : Nat) : Nat := o.pbNum (72 + 4 * j) 4
def EngOp.mstr (o : EngOp) (j : Nat) : Int := o.signed (96 + 8 * j) 8
def EngOp.ostr (o : EngOp) (j : Nat) : Int := o.signed (136 + 8 * j) 8
def EngOp.mbase (o : EngOp) : Nat := o.pbNum 8 8 % 2 ^ 56
def EngOp.obase (o : EngOp) : Nat := o.pbNum 16 8
/-- Byte offset in the tile of OBASE (09_tensor_instr.md R227). -/
def EngOp.tileOff (o : EngOp) : Nat := o.obase / 64 % 2 ^ 18
def EngOp.tileNo (o : EngOp) : Nat := o.obase % 64

/-- Element size of a format code (09_tensor_instr.md R216, R226). -/
def fmtSize : Nat → Nat
  | 0 | 6 => 4
  | 1 | 2 => 2
  | 3 | 4 | 5 => 1
  | 7 => 144
  | _ => 0

/-- The destination format (09_tensor_instr.md R226). -/
def EngOp.dstFmt (o : EngOp) : Nat :=
  match o.kind with
  | .tquant => 7
  | _ =>
    match o.cvt with
    | 1 => 2
    | 2 => 1
    | 3 => 3
    | 4 => 4
    | _ => o.fmt

/-- Extent of destination dimension k. -/
def EngOp.dext (o : EngOp) (k : Nat) : Nat := o.ext (o.perm k)

/-- Number of elements of the box. -/
def EngOp.total (o : EngOp) : Nat := (List.range o.dims).foldl (fun p k => p * o.dext k) 1

/-- Coordinate of element seq in destination dimension k; dimension 0 varies fastest (09_tensor_instr.md R228). -/
def EngOp.coord (o : EngOp) (seq k : Nat) : Nat := seq / (List.range k).foldl (fun p i => p * o.dext i) 1 % o.dext k

/-- A coordinate held within its bound. -/
def clampTo (x : Int) (bnd : Nat) : Int := max 0 (min x ((bnd : Int) - 1))

/-- Memory-side address of element seq (09_tensor_instr.md R228). -/
def EngOp.maddr (o : EngOp) (seq : Nat) : Nat :=
  (((List.range o.dims).foldl (fun a k =>
    let j := o.perm k
    a + clampTo (o.org j + o.coord seq k) (o.bnd j) * o.mstr j) (o.mbase : Int)) % 2 ^ 56).toNat

/-- Destination address of element seq of a MOVE (09_tensor_instr.md R228). -/
def EngOp.oaddr (o : EngOp) (seq : Nat) : Nat :=
  (((List.range o.dims).foldl (fun a k => a + (o.coord seq k : Int) * o.ostr (o.perm k)) (o.obase : Int)) % 2 ^ 56).toNat

/-- Lowest and one past the highest address that a side of a MOVE touches; addresses are modulo 2^56, so that a side which passes
the top has its lowest element elsewhere than at an end of its box (09_tensor_instr.md R228, R231). -/
def EngOp.span (o : EngOp) (mem : Bool) (size : Nat) : Int × Int :=
  let r := (List.range o.dims).foldl (fun (p : Int × Int) k =>
    let j := o.perm k
    let a := if mem then clampTo (o.org j) (o.bnd j) * o.mstr j else 0
    let b := if mem then clampTo (o.org j + (o.dext k - 1 : Nat)) (o.bnd j) * o.mstr j else (o.dext k - 1 : Nat) * o.ostr j
    (p.1 + min a b, p.2 + max a b)) (0, 0)
  let base : Int := if mem then o.mbase else (o.obase % 2 ^ 56 : Nat)
  let lo := base + r.1
  let hi := base + r.2
  if lo / 2 ^ 56 = hi / 2 ^ 56 then (lo % 2 ^ 56, hi % 2 ^ 56 + size)
  else
    let at_ (k : Nat) : Int := if mem then o.maddr k else o.oaddr k
    (List.range o.total).foldl (fun (p : Int × Int) k => (min p.1 (at_ k), max p.2 (at_ k + size))) (at_ 0, at_ 0 + size)

/-- The operation is permuting (09_tensor_instr.md R231). -/
def EngOp.permuting (o : EngOp) : Bool := o.rtrans || (List.range 5).any (fun k => !decide (o.perm k = k))

/-! ## Acceptance (09_tensor_instr.md R213, R217, R229 to R234) -/

/-- The lent cluster of a strait lease that the issuer's groups hold; a revoked lease is held no longer (08_bonds.md R197). -/
def State.lentTo (s : State) (o : EngOp) : Option Nat :=
  ((s.warp o.warp).groupNos.findSome? (fun g =>
    (s.leaseOf o.lid g).bind (fun p => if p.2.strait && !decide (p.2.st = .revoked) then p.2.lent else none)))

/-- The cluster whose copy engine performs the operation (09_tensor_instr.md R229). -/
def State.copyClu (s : State) (o : EngOp) : Nat :=
  if o.lent then (s.lentTo o).getD (warpClu o.warp) else warpClu o.warp

/-- The cores of the tile side: MCAST, or the core at the issuer's place (09_tensor_instr.md R229, R230). -/
def State.copyCores (s : State) (o : EngOp) : List Nat :=
  let g := s.copyClu o
  if o.mcast = 0 then [16 * g + coreOf o.warp % 16]
  else ((List.range 16).filter (fun k => o.mcast / 2 ^ k % 2 = 1)).map (fun k => 16 * g + k)

def State.tile? (s : State) (c t : Nat) : Option Tile := (s.core c).tiles.find? t

/-- Bytes that a fill lands in each destination. -/
def EngOp.fillBytes (o : EngOp) : Nat :=
  match o.kind with
  | .tquant => 144 * (o.total / 256)
  | .gath => o.pbNum 36 4 * 2 ^ (o.pbNum 32 4 % 8)
  | _ => o.total * fmtSize o.dstFmt

/-- Refusals that a tile entry gives: state, owner, extent and format (09_tensor_instr.md R213, R217, R232). -/
def State.tileCodes (s : State) (w c t off bytes : Nat) (fill : Bool) (fmt : Option Nat) : List (Bool × Nat) :=
  match s.tile? c t with
  | none => [(true, 6)]
  | some e =>
    let landed := if e.st = .ready then 0 else e.landed
    [(e.fail || e.freeing, 6), (!s.mayName w e, 7),
     (decide (e.size * 16 < off + bytes) || (fill && decide (e.expect * 16 < e.reserved + landed + bytes)), 8),
     (match fmt with
      | some f => !decide (e.tfmt = f)
      | none => false, 9)]

/-- The lowest code among the refusals that apply, 0 if none (09_tensor_instr.md R213). -/
def lowestCode (l : List (Bool × Nat)) : Nat :=
  (l.filter (fun p => p.1)).foldl (fun m p => if m = 0 then p.2 else min m p.2) 0

/-- A field breaks the layout of R225 to R227, for either instruction. -/
def EngOp.badBlock (o : EngOp) : Bool :=
  let n := o.dims
  let q := decide (o.kind = .tquant)
  let js := List.range 5
  decide (o.ctrl / 2 ^ 29 ≠ 0) || decide (o.xtra / 2 ^ 29 ≠ 0) || decide (o.pbNum 92 4 ≠ 0) || decide (o.pbNum 176 8 ≠ 0) ||
  decide (o.pbNum 184 8 ≠ 0) || decide (5 < n) || decide (7 < o.fmt) || decide (o.dir = 3) ||
  (if q then decide (o.ctrl / 2 ^ 26 % 2 = 1) || o.rtrans || decide (o.dir = 2) || !(decide (o.fmt = 0) || decide (o.fmt = 2))
   else decide (4 < o.cvt) || (decide (o.cvt ≠ 0) && decide (o.fmt ≠ 0)) || (o.rtrans && decide (o.fmt ≠ 7))) ||
  (o.srcAcc && decide (o.dir ≠ 1)) ||
  js.any (fun k => decide (4 < o.perm k) || (decide (n ≤ k) && decide (o.perm k ≠ k))) || !decide ((js.map o.perm).Nodup) ||
  js.any (fun j =>
    if j < n then
      decide (o.ext j = 0) || decide (2 ^ 24 < o.ext j) || decide (o.bnd j = 0) || decide (2 ^ 31 < o.bnd j) ||
      (decide (o.dir ≠ 2) && decide (o.ostr j ≠ 0)) ||
      (q && decide (o.dir = 1) && (decide (o.org j ≠ 0) || decide (o.bnd j ≠ 1) || decide (o.mstr j ≠ 0)))
    else
      decide (o.ext j ≠ 1) || decide (o.bnd j ≠ 1) || decide (o.org j ≠ 0) || decide (o.mstr j ≠ 0) || decide (o.ostr j ≠ 0)) ||
  (decide (o.dir ≠ 0) && decide (o.mcast ≠ 0)) ||
  (if o.dir = 2 then false
   else if o.srcAcc then
     decide (o.obase / 2 ^ 36 ≠ 0) || decide (n ≠ 2) || !(decide (o.fmt = 0) || decide (o.fmt = 6)) ||
     decide (3 < o.obase / 2 ^ 34 % 4 + (o.dext 0 - 1) / 8)
   else decide (o.obase / 2 ^ 24 ≠ 0)) ||
  (q && (decide (o.dext 0 % 16 ≠ 0) || decide (o.dext 1 % 16 ≠ 0) || decide (n < 2)))

/-- Core and word of source element seq of an accumulator source (09_tensor_instr.md R229). -/
def State.accAt (s : State) (o : EngOp) (seq : Nat) : Nat × Nat :=
  let c0 := o.coord seq 0
  let c1 := o.coord seq 1
  (16 * s.copyClu o + 4 * (o.obase / 2 ^ 32 % 4) + o.obase / 2 ^ 34 % 4 + c0 / 8,
   o.obase % 2 ^ 16 + c1 * (o.obase / 2 ^ 16 % 2 ^ 16) + c0 % 8)

/-- The code with which the copy engine refuses the operation, 0 where it accepts it. -/
def State.copyCode (s : State) (o : EngOp) : Nat :=
  let q := decide (o.kind = .tquant)
  let n := min 5 o.dims
  let js := List.range n
  let off (x : Int) (k : Nat) : Bool := decide (x % k ≠ 0)
  let ss := fmtSize o.fmt
  let ds := fmtSize o.dstFmt
  let tileSide := decide (o.dir = 0) || (decide (o.dir = 1) && !o.srcAcc)
  let memOff (k : Nat) : Bool := off o.mbase k || js.any (fun j => off (o.mstr j) k)
  let movOff (k : Nat) : Bool := decide (o.dir = 2) && (off (o.obase % 2 ^ 56 : Nat) k || js.any (fun j => off (o.ostr j) k))
  let recAlign :=
    if q then (decide (o.dir = 0) && off o.tileOff 16) || (decide (o.dir = 1) && off o.mbase 16)
    else decide (o.fmt = 7) && (memOff 16 || movOff 16 || (tileSide && off o.tileOff 16))
  let align :=
    if q then
      (decide (o.dir = 0) && memOff ss) || (decide (o.dir = 1) && !o.srcAcc && off o.tileOff ss)
    else decide (o.fmt < 7) &&
      (memOff (if o.dir = 1 then ds else ss) || movOff ds || (tileSide && off o.tileOff (if o.dir = 0 then ds else ss)))
  let a := o.span true ss
  let b := o.span false ds
  let overlap := decide (o.dir = 2) && o.permuting && decide (65536 < min a.2 b.2 - max a.1 b.1)
  let lentNo := o.lent && (s.lentTo o).isNone
  let tiles : List (Bool × Nat) :=
    if lentNo then []
    else if o.dir = 0 then
      (s.copyCores o).flatMap (fun c => s.tileCodes o.warp c o.tileNo o.tileOff o.fillBytes true (some o.dstFmt))
    else if tileSide then
      (s.copyCores o).flatMap (fun c => s.tileCodes o.warp c o.tileNo o.tileOff (o.total * ss) false (some o.fmt))
    else []
  let grants : Bool := decide (o.dir = 1) && o.srcAcc && !lentNo && !o.badBlock &&
    (List.range o.total).any (fun k =>
      let p := s.accAt o k
      decide (32768 ≤ p.2) || !s.granted o.warp p.1 p.2)
  lowestCode ([(recAlign, 2), (overlap, 3), (o.badBlock, 4), (align, 5), (grants, 0x0B), (lentNo, 0x0D)] ++ tiles)

/-- A tile entry that the operation must wait for at the queue head: a LOAD while any destination is draining, a STORE until
its tile is ready, where it may become so (09_tensor_instr.md R217, R230). -/
def State.copyWaits (s : State) (o : EngOp) : Bool :=
  (s.copyCores o).any (fun c =>
    match s.tile? c o.tileNo with
    | none => false
    | some e =>
      if o.dir = 0 then decide (e.st = .draining)
      else if o.dir = 1 ∧ o.srcAcc = false then !(e.fail || e.freeing || !s.mayName o.warp e) && decide (e.st ≠ .ready)
      else false)

/-- A fill is accepted: the reserved count of each destination rises (09_tensor_instr.md R217). -/
def State.reserve (s : State) (c t bytes : Nat) : State :=
  match s.tile? c t with
  | some e =>
    s.setTile c t (some (if e.st = .ready then
        { e with st := .filling, landed := 0, reserved := e.reserved + bytes, fills := e.fills + 1 }
      else { e with reserved := e.reserved + bytes, fills := e.fills + 1 }))
  | none => s

/-- A reading operation is accepted (09_tensor_instr.md R217). -/
def State.startRead (s : State) (c t : Nat) : State :=
  match s.tile? c t with
  | some e => s.setTile c t (some { e with st := .draining, readers := e.readers + 1 })
  | none => s

/-- A reading operation has finished reading (09_tensor_instr.md R217). -/
def State.endRead (s : State) (c t : Nat) : State :=
  match s.tile? c t with
  | some e =>
    (s.setTile c t (some { e with readers := e.readers - 1,
                                  st := if e.readers ≤ 1 ∧ e.st = .draining then .ready else e.st })).settleTile c t
  | none => s

/-- A fill of an entry completes: with RECPAD or XFAULT the entry is marked, and counts no further what has not landed
(09_tensor_instr.md R217). -/
def State.endFill (s : State) (c t rest : Nat) (fails : Bool) : State :=
  match s.tile? c t with
  | some e =>
    (s.setTile c t (some { e with fail := e.fail || fails, reserved := e.reserved - rest, fills := e.fills - 1 })).settleTile c t
  | none => s

/-- The fills of an operation that completes. -/
def State.endFills (s : State) (o : EngOp) (bytes : Nat) : State :=
  match o.fillTile with
  | some t => o.dests.foldl (fun s d => s.endFill d.1 t (bytes - d.2) (decide (o.code = 0x01) || decide (o.code = 0x0A))) s
  | none => s

/-- The master of a copy (10_memory.md R260, R272, R276, 15_isolation.md R414). -/
def State.copyMaster (s : State) (o : EngOp) : Master :=
  let wp := s.warp o.warp
  let g := s.copyClu o
  { die := dieOf g, part := wp.part, space := wp.space, lid := some o.lid, code := 0x1000 + g,
    tid := o.xtra / 2 ^ 16 % 2 ^ 12, cls := 1, slack := (s.launch o.lid).slack, rid := 128 + g, clu := some g,
    hold := true, agent := 64 * o.warp + 33 + o.q, task := o.taskId }

/-- An engine operation stops at a fault or is turned away from its course: the head of its queue is put back. -/
def State.waitOp (s : State) (r : QRef) (o : EngOp) (tok : Nat) : State := s.setHead r { o with tok := some tok }

/-- Read the parameter block at acceptance (09_tensor_instr.md R211). -/
def State.readBlock (s : State) (m : Master) (o : EngOp) (n : Nat) : State × (List Byte ⊕ Got) :=
  match s.engGet m none o.block.toNat n with
  | (t, .val v _) => (t, .inl (bytesOf n v))
  | (t, g) => (t, .inr g)

/-! ## Elements -/

/-- Bytes and flags of an element as it is written (09_tensor_instr.md R226, R228). FLUSH (05_formats.md R116) does not apply to
a conversion to BF16 or FP16, whose rule names R112 and R113 alone (DEDUCED, log entry 41). -/
def EngOp.convert (o : EngOp) (v : Nat) : List Byte × Nat :=
  let cv (f : Fl) (ieee : Bool) (n : Nat) : List Byte × Nat :=
    let r := narrow f ieee (BitVec.ofNat 32 v)
    (bytesOf n r.val.toNat, r.flags)
  match o.cvt with
  | 1 => cv flBF16 true 2
  | 2 => cv flFP16 true 2
  | 3 => cv flE4M3 false 1
  | 4 => cv flE5M2 false 1
  | _ =>
    if o.fmt = 7 ∧ o.rtrans then ((TileRec.transpose (TileRec.ofBytes (bytesOf 144 v))).bytes, 0)
    else (bytesOf (fmtSize o.fmt) v, 0)

/-- A record whose header held an uncorrectable error is a zero tile of type 0b00; errors in code bytes stay with their codes
(06_square_tiles.md R131). bad names half bytes: code j of row i is 16 × i + j, and the header begins at 256. -/
def mendRecord (v : Nat) (bad : List Nat) : Nat × List Nat :=
  if bad.any (fun k => decide (256 ≤ k)) then (0, []) else (v, bad)

/-- The bad codes of a record as it is written (06_square_tiles.md R131, R137). -/
def EngOp.badOut (o : EngOp) (bad : List Nat) : List Nat := if o.rtrans then bad.map (fun k => k % 16 * 16 + k / 16) else bad

/-- A record as a copy writes it: its bytes, and its bad codes. -/
def EngOp.recOut (o : EngOp) (v : Nat) (bad : List Nat) : List Byte × List Nat :=
  let r := mendRecord v bad
  ((o.convert r.1).1, o.badOut r.2)

/-- A PAD byte of a record is not zero (06_square_tiles.md R130). PAD bytes that carry an uncorrectable error themselves count
as zero, and a header error elsewhere does not excuse a PAD byte (DESIGN CHOICE, log entry 48). -/
def recPadBad (v : Nat) (bad : List Nat) : Bool := padBad (bytesOf 144 v) && !bad.any (fun k => decide (274 ≤ k))

/-- Record k of the data that an operation has read, and its bad half bytes. -/
def EngOp.recAt (o : EngOp) (k : Nat) : Nat × List Nat :=
  (numAt o.data (144 * k) 144,
   (o.poison.filter (fun h => decide (288 * k ≤ h) && decide (h < 288 * k + 288))).map (fun h => h - 288 * k))

/-- The first record read whose PAD bytes are not all zero (06_square_tiles.md R130). -/
def EngOp.padAt (o : EngOp) : Option Nat :=
  (List.range (o.data.length / 144)).find? (fun k => recPadBad (o.recAt k).1 (o.recAt k).2)

/-- The records read become the records to be written. -/
def EngOp.mended (o : EngOp) : EngOp :=
  let rs := (List.range (o.data.length / 144)).map (fun k => o.recOut (o.recAt k).1 (o.recAt k).2)
  { o with data := rs.flatMap (fun r => r.1)
           poison := (List.range rs.length).flatMap (fun k => (rs.getD k ([], [])).2.map (fun h => 288 * k + h)) }

/-- A unit of 8 bytes that a MOVE has written over part of its own source: its number, value and bad half bytes. -/
structure MovedUnit where
  unit : Nat
  val : Nat
  bad : List Nat
  deriving DecidableEq, Repr

/-- The records of a MOVE whose spans meet, each read after those before it are written: what it writes, or the first record
whose PAD bytes are not all zero (09_tensor_instr.md R228, R231, 06_square_tiles.md R130). -/
def EngOp.chainRecs (o : EngOp) : List Nat → List MovedUnit → List (List Byte × List Nat) → Nat ⊕ List (List Byte × List Nat)
  | [], _, out => .inr out.reverse
  | k :: rest, done, out =>
    let raw := o.recAt k
    let us := (List.range 18).map (fun u =>
      let n := (o.maddr k / 8 + u) % 2 ^ 53
      match done.find? (fun d => decide (d.unit = n)) with
      | some d => (d.val, d.bad.map (fun h => 16 * u + h))
      | none => (raw.1 / 2 ^ (64 * u) % 2 ^ 64, raw.2.filter (fun h => decide (h / 16 = u))))
    let v := us.foldr (fun x y => x.1 + 2 ^ 64 * y) 0
    let bad := us.flatMap (fun x => x.2)
    if recPadBad v bad then .inl k
    else
      let r := o.recOut v bad
      let new := (List.range 18).map (fun u =>
        { unit := (o.oaddr k / 8 + u) % 2 ^ 53, val := numAt r.1 (8 * u) 8,
          bad := (r.2.filter (fun h => decide (h / 16 = u))).map (fun h => h % 16) : MovedUnit })
      o.chainRecs rest (new ++ done) (r :: out)

/-- The spans of a MOVE meet (09_tensor_instr.md R231). -/
def EngOp.meets (o : EngOp) : Bool :=
  let a := o.span true (fmtSize o.fmt)
  let b := o.span false (fmtSize o.dstFmt)
  decide (max a.1 b.1 < min a.2 b.2)

/-- Elements read one after another from memory. acc holds the converted elements, latest first. -/
structure ReadRun where
  seq : Nat
  acc : List (List Byte)
  poison : List Nat
  flags : Nat
  pad : Bool
  deriving DecidableEq, Repr

/-- Read up to k elements of a box (09_tensor_instr.md R228). A record stays as it is read, with its bad codes named, and one
with a PAD byte stops the run where stop is set (06_square_tiles.md R130, R131). raw keeps elements as they stand in memory. -/
def State.readElems (s : State) (m : Master) (o : EngOp) (raw stop : Bool) : Nat → ReadRun → State × ReadRun × Option Got
  | 0, r => (s, r, none)
  | k + 1, r =>
    let size := fmtSize o.fmt
    if o.fmt = 7 then
      match s.recGet m (o.maddr r.seq) with
      | (t, .val v halves) =>
        if stop && recPadBad v halves then (t, { r with pad := true }, none)
        else
          t.readElems m o raw stop k
            { r with seq := r.seq + 1, acc := bytesOf 144 v :: r.acc, poison := r.poison ++ halves.map (fun h => 288 * r.seq + h),
                     flags := r.flags ||| (if halves.isEmpty then 0 else fOPZ) }
      | (t, g) => (t, r, some g)
    else
      match s.engGet m none (o.maddr r.seq) size with
      | (t, .val v _) =>
        let (b, fl) := if raw then (bytesOf size v, 0) else o.convert v
        t.readElems m o raw stop k { r with seq := r.seq + 1, acc := b :: r.acc, flags := r.flags ||| fl }
      | (t, g) => (t, r, some g)

/-- What an operation has read so far. -/
def EngOp.readSoFar (o : EngOp) : ReadRun :=
  { seq := o.seq, acc := if o.data.isEmpty then [] else [o.data], poison := o.poison, flags := o.flags, pad := false }

/-- The bytes of a run in order. -/
def ReadRun.bytes (r : ReadRun) : List Byte := r.acc.reverse.flatten

/-! ## Quantising (09_tensor_instr.md R234) -/

/-- The value of an FP32 or BF16 element. -/
def quantIn (fmt : Nat) (v : Nat) : FNum := if fmt = 0 then flFP32.decode v else flBF16.decode v

/-- Number of the element at row i and column j of record k: tc fastest, then tr, then the higher dimensions. -/
def EngOp.quantIx (o : EngOp) (k i j : Nat) : Nat :=
  let e0 := o.dext 0
  let e1 := o.dext 1
  let tcs := e0 / 16
  let trs := e1 / 16
  let h := k / (tcs * trs)
  let tr := k / tcs % trs
  let tc := k % tcs
  (h * e1 + 16 * tr + i) * e0 + 16 * tc + j

/-- The records of a quantised box and the flags (06_square_tiles.md R132 to R136); val gives the value of an element. -/
def EngOp.quantise (o : EngOp) (val : Nat → FNum) : List (List Byte) × Nat :=
  let rs := (List.range (o.total / 256)).map (fun k =>
    q4Quant (codeTypeOf (o.ctrl / 2 ^ 24)) ((List.range 256).map (fun x => val (o.quantIx k (x / 16) (x % 16)))))
  (rs.map (fun p => p.1.bytes), orFlags (rs.map (fun p => p.2)))

/-! ## The course of an operation -/

/-- A mismatch of a copy engine's checker holds the operation at its next element (16_recovery.md R443 to R445). -/
def State.holdOp (s : State) (r : QRef) (o : EngOp) (tr tc : Nat) (g : Glitch) : State :=
  let h := { o with st := .held false, unit := g.unit, tr := tr, tc := tc
                    syn := BitVec.ofNat 64 (2 ^ 56 + g.pred.toNat * 2 ^ 32 + g.obs.toNat) }
  ({ s.setHead r h with glitch := none }).heldToWaiters o.warp

/-- The operation has performed every write, or was refused, and only its status word remains. -/
def State.performed (s : State) (r : QRef) (o : EngOp) (code info : Nat) : State :=
  s.setHead r { o with st := .performed, code := code, info := info, tok := none }

/-- Number of a queue in the rotation of its copy engine. -/
def QRef.rot : QRef → Nat
  | .own w q => 4 * w + (q - 1) % 4
  | _ => 0

/-- The copy engine of a cluster has served a queue (09_tensor_instr.md R210). -/
def State.served (s : State) (g : Nat) (r : QRef) : State := s.updCluster g (fun x => { x with copyRot := r.rot })

/-- The head of a queue is a copy that its engine can take up or carry on now. -/
def State.copyAble (s : State) (r : QRef) : Bool :=
  match s.headOf r with
  | none => false
  | some o =>
    (decide (o.kind = .tcopy) || decide (o.kind = .tquant)) && s.opLive o && !s.opFrozen o (s.copyClu o) &&
    (match o.st with
     | .queued =>
       (match (s.readBlock { s.copyMaster o with tid := 0 } o 192).2 with
        | .inl b => !s.copyWaits { o with pb := b }
        | .inr _ => true)
     | .running => !(decide (o.dir = 0) && decide (o.pass = 1))
     | _ => false)

/-- The copy engine of a cluster serves the heads of its queues in rotation: it is a queue's turn where no queue between the one
served last and it has a head that can go on; one turn is an acceptance, or as much of the operation as goes on without a wait
(09_tensor_instr.md R210; log entry 51). -/
def State.copyTurn (s : State) (g : Nat) (r : QRef) : Bool :=
  let dist (k : Nat) : Nat := (k + 2 ^ 17 - (s.cluster g).copyRot - 1) % 2 ^ 17
  s.warps.all (fun p => (List.range 4).all (fun j =>
    let q := QRef.own p.1 (j + 1)
    decide (dist r.rot ≤ dist q.rot) ||
    !(match s.headOf q with
      | some o => decide (s.copyClu o = g)
      | none => false) || !s.copyAble q))

/-- Acceptance of a copy (09_tensor_instr.md R211, R213, R217, R230). -/
def State.copyAccept (s : State) (r : QRef) (o : EngOp) (dir : Nat) : State :=
  let g := s.copyClu o
  match s.readBlock { s.copyMaster o with tid := 0 } o 192 with
  | (t, .inr (.wait tok)) => (t.waitOp r o tok).served g r
  | (t, .inr _) => t.served g r
  | (t, .inl b) =>
    let p := { o with pb := b }
    if p.dir % 3 ≠ dir then s
    else if t.copyWaits p then s
    else
      let code := t.copyCode p
      let u := t.served g r
      if code ≠ 0 then u.performed r p code 0
      else if p.dir = 0 then
        let cs := t.copyCores p
        (cs.foldl (fun t c => t.reserve c p.tileNo p.fillBytes) u).setHead r
          { p with st := .running, dests := cs.map (fun c => (c, 0)) }
      else if p.dir = 1 ∧ p.srcAcc = false then
        let cs := t.copyCores p
        (cs.foldl (fun t c => t.startRead c p.tileNo) u).setHead r
          { p with st := .running, reads := cs.map (fun c => (c, p.tileNo)) }
      else u.setHead r { p with st := .running }

/-- A LOAD reads its box, at most lim elements of it; what it will land then stands in the operation (09_tensor_instr.md R228, R234). -/
def State.loadRun (s : State) (r : QRef) (o : EngOp) (lim : Nat) : State :=
  let q := decide (o.kind = .tquant)
  match s.readElems (s.copyMaster o) o q true (min lim (o.total - o.seq)) o.readSoFar with
  | (t, x, g) =>
    let p := { o with seq := x.seq, data := x.bytes, poison := x.poison, flags := x.flags }
    match g with
    | some (.wait tok) => t.waitOp r p tok
    | some _ => t
    | none =>
      if x.pad then t.performed r { p with data := [], poison := [] } 0x01 x.seq
      else if x.seq < o.total then t.setHead r p
      else if q then
        let size := fmtSize o.fmt
        let v := o.quantise (fun k => quantIn o.fmt (numAt x.bytes (size * k) size))
        t.setHead r { p with data := v.1.flatten, flags := x.flags ||| v.2, pass := 1 }
      else t.setHead r { (if o.fmt = 7 then p.mended else p) with pass := 1 }

/-- Source element seq of a STORE: its value, and the bad half bytes of a record, or none where an error is consumed
(09_tensor_instr.md R228, R229). -/
def State.srcElem (s : State) (o : EngOp) (seq : Nat) : Option (Nat × List Nat) :=
  if o.srcAcc then
    let p := s.accAt o seq
    if s.mem.badAcc.contains (p.1 * 2 ^ 20 + p.2) then none else some (((s.core p.1).acc.get 0 p.2).toNat, [])
  else
    match o.reads with
    | [] => some (0, [])
    | (c, t) :: _ =>
      match s.tile? c t with
      | none => some (0, [])
      | some e =>
        let size := fmtSize o.fmt
        let a := e.base * 16 + o.tileOff + seq * size
        let v := (s.core c).spadGet a size
        if o.fmt = 7 then some (v, s.spadBadHalves c a 144)
        else if s.spadBad c a size then none
        else some (v, [])

/-- A STORE reads all its records from its tile before it writes one; each unit of 8 bytes with an error in it is logged
(06_square_tiles.md R130, R131). -/
def State.takeRecs (s : State) (o : EngOp) : State × EngOp :=
  let rs := (List.range o.total).map (fun k => (s.srcElem o k).getD (0, []))
  let core := (o.reads.headD (0, 0)).1
  let lost := rs.flatMap (fun r => (r.2.map (fun h => h / 16)).dedup)
  let t := lost.foldl (fun (t : State) _ =>
    (t.countUe (dieOf (cluOf core))).logErr { lid := o.lid, kind := 1, what := 1, where_ := core }) s
  (t, { o with data := rs.flatMap (fun r => bytesOf 144 r.1)
               poison := (List.range rs.length).flatMap (fun k => (rs.getD k (0, [])).2.map (fun h => 288 * k + h))
               flags := o.flags ||| (if lost.isEmpty then 0 else fOPZ) })

/-- A STORE meets a scratchpad or accumulator error (16_recovery.md R439). -/
def State.storeConsume (s : State) (o : EngOp) : State :=
  s.consume (some o.lid) 0 (if o.srcAcc then 3 else 1) (coreOf o.warp)

/-- Write up to k elements of a STORE; records stand in the operation, as they are to be written (09_tensor_instr.md R228). -/
def State.writeElems (s : State) (m : Master) (o : EngOp) : Nat → Nat → Nat → State × Nat × Nat × Option Got
  | 0, seq, fl => (s, seq, fl, none)
  | k + 1, seq, fl =>
    if o.fmt = 7 then
      let r := o.recAt seq
      match s.recPut m (o.maddr seq) r.1 r.2 with
      | (t, .val _ _) => t.writeElems m o k (seq + 1) fl
      | (t, g) => (t, seq, fl, some g)
    else
      match s.srcElem o seq with
      | none => (s.storeConsume o, seq, fl, some .stop)
      | some (v, _) =>
        let (b, f) := o.convert v
        match s.engPut m (o.maddr seq) b.length (ofBytes b) with
        | (t, .val _ _) => t.writeElems m o k (seq + 1) (fl ||| f)
        | (t, g) => (t, seq, fl, some g)

/-- Write records one after another from an address on (09_tensor_instr.md R234). -/
def State.writeRecords (s : State) (m : Master) (base : Nat) : List (List Byte) → Nat → State × Nat × Option Got
  | [], seq => (s, seq, none)
  | b :: rest, seq =>
    match s.recPut m ((base + 144 * seq) % 2 ^ 56) (ofBytes b) [] with
    | (t, .val _ _) => t.writeRecords m base rest (seq + 1)
    | (t, g) => (t, seq, some g)

/-- Release the tiles that an operation reads. -/
def State.endReads (s : State) (o : EngOp) : State := o.reads.foldl (fun t p => t.endRead p.1 p.2) s

/-- Cut a list of bytes into records. -/
def records (b : List Byte) : List (List Byte) := (List.range (b.length / 144)).map (fun k => (b.drop (144 * k)).take 144)

/-- A STORE writes its elements, or its records, at most lim of them (09_tensor_instr.md R228, R234, 06_square_tiles.md R130). -/
def State.storeRun (s : State) (r : QRef) (o : EngOp) (lim : Nat) : State :=
  let m := s.copyMaster o
  if o.kind = .tquant then
    if (List.range o.total).any (fun k => (s.srcElem o k).isNone) then s.storeConsume o
    else
      let v := if o.data.isEmpty then o.quantise (fun k => quantIn o.fmt ((s.srcElem o k).getD (0, [])).1) else (records o.data, o.flags)
      match s.writeRecords m o.mbase ((v.1.drop o.seq).take lim) o.seq with
      | (t, seq, some (.wait tok)) => t.waitOp r { o with seq := seq, data := v.1.flatten, flags := v.2 } tok
      | (t, _, some _) => t
      | (t, seq, none) =>
        if seq < v.1.length then t.setHead r { o with seq := seq, data := v.1.flatten, flags := v.2 }
        else (t.endReads o).performed r { o with seq := seq, data := [], flags := v.2, reads := [] } 0 0
  else
    let taken := if o.fmt = 7 ∧ o.pass = 0 then s.takeRecs o else (s, o)
    match if o.fmt = 7 ∧ o.pass = 0 then taken.2.padAt else none with
    | some k => (taken.1.endReads o).performed r { taken.2 with reads := [], data := [], poison := [] } 0x01 k
    | none =>
      let p := if o.fmt = 7 ∧ o.pass = 0 then { taken.2.mended with pass := 1 } else o
      match taken.1.writeElems m p (min lim (o.total - o.seq)) o.seq p.flags with
      | (t, seq, fl, some (.wait tok)) => t.waitOp r { p with seq := seq, flags := fl } tok
      | (t, _, _, some _) => t
      | (t, seq, fl, none) =>
        if seq < o.total then t.setHead r { p with seq := seq, flags := fl }
        else (t.endReads o).performed r { p with seq := seq, flags := fl, reads := [], data := [], poison := [] } 0 0

/-- Write up to k elements of a MOVE from bytes already read. -/
def State.moveOut (s : State) (m : Master) (o : EngOp) : Nat → Nat → State × Nat × Option Got
  | 0, seq => (s, seq, none)
  | k + 1, seq =>
    let size := fmtSize o.dstFmt
    let put := if o.fmt = 7 then s.recPut m (o.oaddr seq) (o.recAt seq).1 (o.recAt seq).2
      else s.engPut m (o.oaddr seq) size (numAt o.data (size * seq) size)
    match put with
    | (t, .val _ _) => t.moveOut m o k (seq + 1)
    | (t, g) => (t, seq, some g)

/-- A MOVE element by element: each is read, then written, before the next (09_tensor_instr.md R231). -/
def State.moveEach (s : State) (m : Master) (o : EngOp) : Nat → Nat → Nat → State × Nat × Nat × Option Got
  | 0, seq, fl => (s, seq, fl, none)
  | k + 1, seq, fl =>
    match s.engGet m none (o.maddr seq) (fmtSize o.fmt) with
    | (t, .val v _) =>
      let (b, f) := o.convert v
      match t.engPut m (o.oaddr seq) b.length (ofBytes b) with
      | (u, .val _ _) => u.moveEach m o k (seq + 1) (fl ||| f)
      | (u, g) => (u, seq, fl, some g)
    | (t, g) => (t, seq, fl, some g)

/-- The source of a MOVE has been read: what it writes, or the record that a PAD byte turns away. -/
def EngOp.moveData (o : EngOp) : Nat ⊕ EngOp :=
  if o.fmt ≠ 7 then .inr o
  else if o.permuting || !o.meets then
    match o.padAt with
    | some k => .inl k
    | none => .inr o.mended
  else
    match o.chainRecs (List.range o.total) [] [] with
    | .inl k => .inl k
    | .inr rs =>
      .inr { o with data := rs.flatMap (fun r => r.1)
                    poison := (List.range rs.length).flatMap (fun k => (rs.getD k ([], [])).2.map (fun h => 288 * k + h)) }

/-- A MOVE (09_tensor_instr.md R228, R231). One that permutes, or that moves records, reads its whole source in pass 0, so that
every PAD byte is checked before a byte is written (06_square_tiles.md R130), and writes in pass 1; where its spans meet and it
does not permute, each record is then taken as the records before it left it (DEDUCED, log entry 54). -/
def State.moveRun (s : State) (r : QRef) (o : EngOp) (lim : Nat) : State :=
  let m := s.copyMaster o
  if o.permuting ∨ o.fmt = 7 then
    if o.pass = 0 then
      match s.readElems m o false (o.permuting || !o.meets) (min lim (o.total - o.seq)) o.readSoFar with
      | (t, x, g) =>
        let p := { o with seq := x.seq, data := x.bytes, poison := x.poison, flags := x.flags }
        match g with
        | some (.wait tok) => t.waitOp r p tok
        | some _ => t
        | none =>
          if x.pad then t.performed r { p with data := [], poison := [] } 0x01 x.seq
          else if x.seq < o.total then t.setHead r p
          else
            match p.moveData with
            | .inl k => t.performed r { p with data := [], poison := [] } 0x01 k
            | .inr q => t.setHead r { q with pass := 1, seq := 0 }
    else
      match s.moveOut m o (min lim (o.total - o.seq)) o.seq with
      | (t, seq, some (.wait tok)) => t.waitOp r { o with seq := seq } tok
      | (t, _, some _) => t
      | (t, seq, none) =>
        if seq < o.total then t.setHead r { o with seq := seq }
        else t.performed r { o with seq := seq, data := [], poison := [] } 0 0
  else
    match s.moveEach m o (min lim (o.total - o.seq)) o.seq o.flags with
    | (t, seq, fl, some (.wait tok)) => t.waitOp r { o with seq := seq, flags := fl } tok
    | (t, _, _, some _) => t
    | (t, seq, fl, none) =>
      if seq < o.total then t.setHead r { o with seq := seq, flags := fl } else t.performed r { o with seq := seq, flags := fl } 0 0

/-- An operation of q1 to q5, or another of its task, belongs to an engine that is stopped (15_isolation.md R413). -/
def State.opStopped (s : State) (o : EngOp) : Bool :=
  s.opFrozen o (match o.kind with
    | .tcopy | .tquant => s.copyClu o
    | _ => warpClu o.warp)

/-- Elements, or records of a quantising store, that an operation has still to go through. -/
def EngOp.left (o : EngOp) : Nat := (if o.kind = .tquant ∧ o.dir = 1 then o.total / 256 else o.total) - o.seq

/-- The agent's head where it is a live operation of a kind, served by an engine that is not stopped. -/
def State.liveHead (s : State) (r : QRef) (f : EngOp → Bool) : Option EngOp :=
  match s.headOf r with
  | some o => if f o && s.opLive o && !s.opFrozen o (s.copyClu o) then some o else none
  | none => none

/-- The copy engine takes up the head of a queue of q1 to q4: first it accepts or refuses it, then it performs it; a
checker mismatch holds it, at an element that no rule names: a free choice (09_tensor_instr.md R211, 16_recovery.md R444; log entry
2). -/
def State.copyStep (s : State) (kind : OpKind) (dir : Nat) (run : State → QRef → EngOp → Nat → State) : State :=
  let r := QRef.own s.cur.warp s.cur.q
  match s.liveHead r (fun o => decide (o.kind = kind)) with
  | none => s
  | some o =>
    if !s.copyTurn (s.copyClu o) r then s
    else
      match o.st with
      | .queued => s.copyAccept r o dir
      | .running =>
        if o.dir ≠ dir ∨ (o.dir = 0 ∧ o.pass = 1) then s
        else
          match s.glitch.filter (fun g => decide (g.unit / 16 = 2)) with
          | some g =>
            let k := Config.freeDelay (2 ^ 66 + s.tick) % o.left
            let t := if k = 0 then s else run s r o k
            match t.headOf r with
            | some p => if p.st = .running ∧ p.tok = none ∧ p.seq = o.seq + k then (t.holdOp r p p.seq 0xFFFFFFFF g).served (s.copyClu o) r else t
            | none => t
          | none => (run s r o o.left).served (s.copyClu o) r
      | _ => s

/-- TCOPY_LOAD (09_tensor_instr.md R228). A block with DIR 3 is refused here. -/
def execTcopyLoad (s : State) : Answer := .next (s.copyStep .tcopy 0 State.loadRun)

/-- TCOPY_STORE (09_tensor_instr.md R228). -/
def execTcopyStore (s : State) : Answer := .next (s.copyStep .tcopy 1 State.storeRun)

/-- TCOPY_MOVE (09_tensor_instr.md R231). -/
def execTcopyMove (s : State) : Answer := .next (s.copyStep .tcopy 2 State.moveRun)

/-- TQUANT_OP (09_tensor_instr.md R234): a LOAD or a STORE; a block with another DIR is refused. -/
def execTquantOp (s : State) : Answer :=
  let r := QRef.own s.cur.warp s.cur.q
  match s.headOf r with
  | none => .next s
  | some o =>
    .next (if o.st = .queued then
        let t := s.copyStep .tquant 0 State.loadRun
        let u := if t = s then s.copyStep .tquant 1 State.storeRun else t
        if u = s then s.copyStep .tquant 2 State.storeRun else u
      else if o.dir = 0 then s.copyStep .tquant 0 State.loadRun
      else s.copyStep .tquant 1 State.storeRun)

end Sys2Proof.Machine
end

