-- ==== Sys2Proof/Machine/Gather.lean ====
section
/-! DEFINITION. The gather engine, and how the bytes of a fill land in a tile (12_memory_instr.md R334 to R337,
09_tensor_instr.md R217). -/

namespace Sys2Proof.Machine

/-! ## The gather parameter block (12_memory_instr.md R335) -/

def EngOp.gIdx (o : EngOp) : Nat := o.pbNum 8 8
def EngOp.gBase (o : EngOp) : Nat := o.pbNum 16 8
def EngOp.gTile (o : EngOp) : Nat := o.pbNum 24 8 % 64
def EngOp.gOff (o : EngOp) : Nat := o.pbNum 24 8 / 64 % 2 ^ 18
def EngOp.gCtrl (o : EngOp) : Nat := o.pbNum 32 4
/-- Element size in bytes. -/
def EngOp.gSize (o : EngOp) : Nat := 2 ^ (o.gCtrl % 8)
/-- Index width in bytes. -/
def EngOp.gWidth (o : EngOp) : Nat := 2 ^ (o.gCtrl / 8 % 4 + 1)
def EngOp.gCount (o : EngOp) : Nat := o.pbNum 36 4
def EngOp.gStride (o : EngOp) : Int := o.signed 40 4
def EngOp.gBound (o : EngOp) : Nat := o.pbNum 44 4

/-- A reserved field is not zero, or a value is invalid (12_memory_instr.md R335). A tile offset that is not a multiple of
the element size counts as an invalid value (DEDUCED, log entry 30). -/
def EngOp.gBad (o : EngOp) : Bool :=
  decide (4 < o.gCtrl % 8) || decide (o.gCtrl / 8 % 4 = 3) || decide (o.gCtrl / 2 ^ 11 ≠ 0) ||
  decide (o.pbNum 24 8 / 2 ^ 24 ≠ 0) || decide (o.gOff % o.gSize ≠ 0) || decide (o.gCount = 0) ||
  decide (2 ^ 20 < o.gCount) || decide (o.gBound = 0) || decide (o.pbNum 48 8 ≠ 0) || decide (o.pbNum 56 8 ≠ 0)

/-- IDX, EBASE or ESTR is off its alignment. -/
def EngOp.gAlign (o : EngOp) : Bool :=
  decide (o.gIdx % o.gWidth ≠ 0) || decide (o.gBase % o.gSize ≠ 0) || decide (o.gStride % (o.gSize : Int) ≠ 0)

/-- The code with which the gather engine refuses the operation, 0 where it accepts it (12_memory_instr.md R335,
09_tensor_instr.md R213, R217). -/
def State.gatherCode (s : State) (o : EngOp) : Nat :=
  lowestCode ([(o.gBad, 4), (o.gAlign, 5)] ++
    s.tileCodes o.warp (coreOf o.warp) o.gTile o.gOff (o.gCount * o.gSize) (decide (o.kind = .gath)) none)

/-- The master of a gather (10_memory.md R260, R272, R276, 15_isolation.md R414). -/
def State.gatherMaster (s : State) (o : EngOp) : Master :=
  let wp := s.warp o.warp
  let g := warpClu o.warp
  let sl := o.gCtrl / 2 ^ 7 % 16
  { die := dieOf g, part := wp.part, space := wp.space, lid := some o.lid, code := 0x2000 + g, tid := o.tid,
    cls := o.gCtrl / 2 ^ 5 % 4, slack := if sl = 0 then (s.launch o.lid).slack else 2 ^ (sl + 4), rid := 128 + g,
    clu := some g, hold := true, agent := 64 * o.warp + 38, task := o.taskId }

/-- A gather waits at the queue head while its entry drains, a scatter until its tile is ready, where it may become so
(12_memory_instr.md R337). -/
def State.gatherWaits (s : State) (o : EngOp) : Bool :=
  match s.tile? (coreOf o.warp) o.gTile with
  | none => false
  | some e =>
    if o.kind = .gath then decide (e.st = .draining)
    else !(e.fail || e.freeing || !s.mayName o.warp e) && decide (e.st ≠ .ready)

/-- Acceptance (09_tensor_instr.md R211, R213). -/
def State.gatherAccept (s : State) (r : QRef) (o : EngOp) : State :=
  match s.readBlock { s.gatherMaster o with cls := 1, slack := (s.launch o.lid).slack } o 64 with
  | (t, .inr (.wait tok)) => t.waitOp r o tok
  | (t, .inr _) => t
  | (t, .inl b) =>
    let p := { o with pb := b }
    let c := coreOf o.warp
    if t.gatherWaits p then s
    else
      let code := t.gatherCode p
      if code ≠ 0 then t.performed r p code 0
      else if o.kind = .gath then
        (t.reserve c p.gTile (p.gCount * p.gSize)).setHead r { p with st := .running, dests := [(c, 0)] }
      else (t.startRead c p.gTile).setHead r { p with st := .running, reads := [(c, p.gTile)] }

/-- Address of the element of an index (12_memory_instr.md R336). -/
def EngOp.elemAddr (o : EngOp) (x : Nat) : Nat := ((((o.gBase : Int) + x * o.gStride) % 2 ^ 56)).toNat

/-- One more out-of-range index: row counts them and info keeps the first (12_memory_instr.md R336). -/
def EngOp.outRange (o : EngOp) (i : Nat) : EngOp := { o with row := o.row + 1, info := if o.row = 0 then i else o.info }

/-- Read index i of the list. -/
def State.readIndex (s : State) (m : Master) (o : EngOp) (i : Nat) : State × Got :=
  s.engGet m none ((o.gIdx + o.gWidth * i) % 2 ^ 56) o.gWidth

/-- The physical address of an element and the master of its access, whose requests are those of the gather engine of its stack
(10_memory.md R276, R277). -/
def State.elemReach (s : State) (m : Master) (k : AccKind) (va n : Nat) : State × (Nat × Master ⊕ Got) :=
  match s.engReach m k va [(0, n)] with
  | (t, .inr g) => (t, .inr g)
  | (t, .inl pas) =>
    let pa := pas.headD 0
    (t, .inl (pa, if quarter pa < 2 then { m with rid := 256 + (placeOf (canonPa pa)).stack } else m))

/-- A base die reads an element of n bytes (10_memory.md R277). -/
def State.elemGet (s : State) (m : Master) (va n : Nat) : State × Got :=
  match s.elemReach m .read va n with
  | (t, .inr g) => (t, g)
  | (t, .inl (pa, e)) =>
    match if quarter pa = 3 then t.remoteRead e pa n else t.bankRead e (canonPa pa) n with
    | (u, some v) => (u, .val v [])
    | (u, none) => (u, .stop)

/-- A base die writes an element of n bytes (10_memory.md R277). -/
def State.elemPut (s : State) (m : Master) (va n v : Nat) : State × Got :=
  match s.elemReach m .write va n with
  | (t, .inr g) => (t, g)
  | (t, .inl (pa, e)) =>
    (if quarter pa = 3 then t.remoteWrite m pa n (v % 2 ^ (8 * n)) else t.bankWrite e (canonPa pa) n v, .val 0 [])

/-- Gather up to k elements in list order; acc holds the elements, latest first (12_memory_instr.md R336). -/
def State.gatherElems (s : State) (m : Master) : Nat → EngOp → List (List Byte) → State × EngOp × List (List Byte) × Option Got
  | 0, o, acc => (s, o, acc, none)
  | k + 1, o, acc =>
    match s.readIndex m o o.seq with
    | (t, .val x _) =>
      if o.gBound ≤ x then t.gatherElems m k { o.outRange o.seq with seq := o.seq + 1 } (bytesOf o.gSize 0 :: acc)
      else
        match t.elemGet m (o.elemAddr x) o.gSize with
        | (u, .val v _) => u.gatherElems m k { o with seq := o.seq + 1 } (bytesOf o.gSize v :: acc)
        | (u, g) => (u, o, acc, some g)
    | (t, g) => (t, o, acc, some g)

/-- A gather reads its elements; they then stand in the operation, to land in the tile. -/
def State.gatherRun (s : State) (r : QRef) (o : EngOp) : State :=
  match s.gatherElems (s.gatherMaster o) (o.gCount - o.seq) o (if o.data.isEmpty then [] else [o.data]) with
  | (t, p, acc, g) =>
    let q := { p with data := acc.reverse.flatten }
    match g with
    | some (.wait tok) => t.waitOp r q tok
    | some _ => t
    | none => t.setHead r { q with pass := 1 }

/-- Scatter up to k elements in list order (12_memory_instr.md R336). -/
def State.scatterElems (s : State) (m : Master) : Nat → EngOp → State × EngOp × Option Got
  | 0, o => (s, o, none)
  | k + 1, o =>
    match s.readIndex m o o.seq with
    | (t, .val x _) =>
      if o.gBound ≤ x then t.scatterElems m k { o.outRange o.seq with seq := o.seq + 1 }
      else
        let c := coreOf o.warp
        let a := (((t.tile? c o.gTile).map (fun e => e.base)).getD 0) * 16 + o.gOff + o.seq * o.gSize
        if t.spadBad c a o.gSize then (t.consume (some o.lid) 0 1 c, o, some .stop)
        else
          match t.elemPut m (o.elemAddr x) o.gSize ((t.core c).spadGet a o.gSize) with
          | (u, .val _ _) => u.scatterElems m k { o with seq := o.seq + 1 }
          | (u, g) => (u, o, some g)
    | (t, g) => (t, o, some g)

/-- The outcome of a gather or scatter that was not refused (12_memory_instr.md R336). -/
def EngOp.rangeCode (o : EngOp) : Nat := if o.row = 0 then 0 else 0x0E

/-- A scatter writes its elements. -/
def State.scatterRun (s : State) (r : QRef) (o : EngOp) : State :=
  match s.scatterElems (s.gatherMaster o) (o.gCount - o.seq) o with
  | (t, p, some (.wait tok)) => t.waitOp r p tok
  | (t, _, some _) => t
  | (t, p, none) => (t.endReads p).performed r { p with reads := [] } p.rangeCode p.info

/-- The gather engine takes up the head of a q5: first it accepts or refuses it, then it performs it; a second mismatch of its
checkers is a consumed error (09_tensor_instr.md R211, 16_recovery.md R442). -/
def State.gatherStep (s : State) (kind : OpKind) (run : State → QRef → EngOp → State) : State :=
  let r := QRef.own s.cur.warp 5
  match s.headOf r with
  | none => s
  | some o =>
    if decide (o.kind = kind) && s.opLive o && !s.opFrozen o (warpClu o.warp) then
      let x := s.meetUnit (.gatherUnit (warpClu o.warp)) (s.gatherMaster o)
      if x.2 then x.1
      else match o.st with
      | .queued => s.gatherAccept r o
      | .running => if o.pass = 1 then s else run s r o
      | _ => s
    else s

/-- GATHER_OP (12_memory_instr.md R336). -/
def execGatherOp (s : State) : Answer := .next (s.gatherStep .gath State.gatherRun)

/-- SCATTER_OP (12_memory_instr.md R336). -/
def execScatterOp (s : State) : Answer := .next (s.gatherStep .scat State.scatterRun)

/-! ## Landing (09_tensor_instr.md R217) -/

/-- Byte offset in its tile at which a fill starts. -/
def EngOp.fillOff (o : EngOp) : Nat := if o.kind = .gath then o.gOff else o.tileOff

/-- Write bytes to scratchpad: what they cover loses an earlier error, and takes one where poison names a half byte of them; a
unit of 8 bytes of which every half byte is poisoned is in error as a whole. -/
def State.spadLand (s : State) (c a : Nat) (b : List Byte) (poison : List Nat) : State :=
  let n := b.length
  let s1 := (s.mendSpad c a n).updCore c (fun k => { k with spad := putBytes k.spad a b })
  if poison.isEmpty then s1
  else
    let halves := poison.map (fun h => 2 * a + h)
    let whole := (halves.map (fun h => h / 16)).dedup.filter (fun u => (List.range 16).all (fun j => halves.contains (16 * u + j)))
    let part := halves.filter (fun h => !whole.contains (h / 16))
    let marks := (whole ++ part.map (fun h => 2 ^ 19 + h)).map (fun k => c * 2 ^ 20 + k)
    s1.updMem (fun m => { m with badSpad := marks ++ m.badSpad.filter (fun x => !marks.contains x) })

/-- The next n bytes of a fill land in one destination; the entry becomes ready when EXPECT has landed
(09_tensor_instr.md R217). -/
def State.land (s : State) (o : EngOp) (c t landed n : Nat) : State :=
  match s.tile? c t with
  | none => s
  | some e =>
    let here := o.poison.filter (fun h => decide (2 * landed ≤ h) && decide (h < 2 * (landed + n)))
    let s1 := s.spadLand c (e.base * 16 + o.fillOff + landed) ((o.data.drop landed).take n) (here.map (fun h => h - 2 * landed))
    let e1 := { e with landed := e.landed + n, reserved := e.reserved - n }
    s1.setTile c t (some (if e1.landed = 16 * e1.expect ∧ e1.fail = false then { e1 with st := .ready } else e1))

/-- The fill lands tile records, each as one record access (06_square_tiles.md R142). -/
def EngOp.landsRecs (o : EngOp) : Bool := !decide (o.kind = .gath) && decide (o.dstFmt = 7)

/-- FILL_LANDING: the next k bytes of the fill at the head of the agent's queue, whole records where it lands records, land in
its idx-th destination, of a copy of single elements also what was read before it was held; with the last byte of the last destination the fill has performed every write (09_tensor_instr.md
R217, R230). -/
def execFillLanding (k : Nat) (s : State) : Answer :=
  let r := s.actorQueue
  .next (match s.headOf r with
    | none => s
    | some o =>
      match o.fillTile, o.dests[s.cur.idx]? with
      | some t, some (c, landed) =>
        if (o.pass = 1 ∨ (o.kind = .tcopy ∧ o.landsRecs = false)) ∧ s.runs o.lid ∧ (o.st = .running ∨ o.isHeld) ∧ !s.opStopped o then
          let n := min (if o.landsRecs then (k + 143) / 144 * 144 else k) (o.data.length - landed)
          let ds := o.dests.set s.cur.idx (c, landed + n)
          let s1 := s.land o c t landed n
          if o.pass = 1 ∧ o.st = .running ∧ ds.all (fun d => decide (d.2 = o.data.length)) then
            s1.performed r { o with dests := ds, data := [], poison := [] } (if o.kind = .gath then o.rangeCode else 0)
              (if o.kind = .gath then o.info else 0)
          else s1.setHead r { o with dests := ds }
        else s
      | _, _ => s)

end Sys2Proof.Machine
end

