-- ==== Sys2Proof/Machine/Matrix.lean ====
section
/-! DEFINITION. The matrix engine: mma, its parameter block and checks, and the course of a q0 operation
(09_tensor_instr.md R239 to R244, 08_bonds.md R182 to R190, R200 to R208, 05_formats.md R122). -/

namespace Sys2Proof.Machine

/-! ## The matrix parameter block (09_tensor_instr.md R240) -/

def EngOp.mCtrl (o : EngOp) : Nat := o.pbNum 8 4
def EngOp.aFmt (o : EngOp) : Nat := o.mCtrl % 8
def EngOp.bFmt (o : EngOp) : Nat := o.mCtrl / 8 % 8
def EngOp.aMem (o : EngOp) : Bool := decide (o.mCtrl / 64 % 2 = 1)
def EngOp.iMode (o : EngOp) : Bool := decide (o.mCtrl / 128 % 2 = 1)
def EngOp.zAcc (o : EngOp) : Bool := decide (o.mCtrl / 256 % 2 = 1)
def EngOp.accFirst (o : EngOp) : Nat := o.pbNum 12 2
def EngOp.accStride (o : EngOp) : Nat := o.pbNum 14 2
def EngOp.mM (o : EngOp) : Nat := o.pbNum 16 4
def EngOp.mK (o : EngOp) : Nat := o.pbNum 20 4
def EngOp.mN (o : EngOp) : Nat := o.pbNum 28 4
def EngOp.aOp (o : EngOp) : Nat := o.pbNum 32 8
def EngOp.bOp (o : EngOp) : Nat := o.pbNum 48 8
def EngOp.four (o : EngOp) : Bool := decide (o.aFmt = 5)
/-- The accumulators hold integers. -/
def EngOp.ints (o : EngOp) : Bool := decide (o.aFmt = 2) || o.iMode

/-- Elements of a K slice (08_bonds.md R184). -/
def sliceLen (fmt : Nat) : Nat := if fmt = 5 then 128 else if fmt = 3 ∨ fmt = 4 then 32 else 64

/-- Granularity of K (09_tensor_instr.md R241). -/
def kUnit (fmt : Nat) : Nat := if fmt = 5 then 16 else if fmt = 3 ∨ fmt = 4 then 32 else 64

/-- Number of logical cell rows, n (08_bonds.md R184). -/
def EngOp.cellRows (o : EngOp) : Nat := 8 * o.ra

/-- K slices of the operation. -/
def EngOp.slices (o : EngOp) : Nat := (o.mK + sliceLen o.aFmt - 1) / sliceLen o.aFmt

/-- Number of passes (09_tensor_instr.md R242). -/
def EngOp.passes (o : EngOp) : Nat := (o.slices + o.cellRows - 1) / o.cellRows

/-- The format pair is a row of 08_bonds.md R182. -/
def pairOk (a b : Nat) : Bool := (decide (a < 2) && decide (b < 2)) || (decide (a = b) && decide (a < 6))

/-- TFMT of an operand tile of a format (09_tensor_instr.md R241). -/
def tileTag (fmt : Nat) : Nat :=
  match fmt with
  | 0 => 3
  | 1 => 4
  | 2 => 5
  | 3 => 1
  | 4 => 2
  | _ => 7

/-- Bytes of an operand of r rows (or columns) and K elements (08_bonds.md R200, R201). -/
def operandBytes (fmt r k : Nat) : Nat := if fmt = 5 then 144 * (r / 16) * (k / 16) else 64 * r * (k / sliceLen fmt)

/-- Core in bond row i and bond column j. -/
def EngOp.bondCore (o : EngOp) (i j : Nat) : Nat := o.cores.getD (i * o.rb + j) 0

/-- Cores of the west, north and south edges (08_bonds.md R185). -/
def EngOp.westCores (o : EngOp) : List Nat := (List.range o.ra).map (fun i => o.bondCore i 0)
def EngOp.northCores (o : EngOp) : List Nat := (List.range o.rb).map (fun j => o.bondCore 0 j)

/-- Cores and tiles that the operation names (09_tensor_instr.md R240, R242). -/
def EngOp.mTiles (o : EngOp) : List (Nat × Nat) :=
  (if o.aMem then [] else o.westCores.map (fun c => (c, o.aOp % 64))) ++ o.northCores.map (fun c => (c, o.bOp % 64))

/-! ## Checks at issue (09_tensor_instr.md R241) -/

/-- A tile named may not be read: trap 0x0B. -/
def State.mmaTileBad (s : State) (w : Nat) (p : Nat × Nat) : Bool :=
  match s.tile? p.1 p.2 with
  | none => true
  | some e => e.fail || e.freeing || !s.mayName w e

/-- A tile's format or extent does not fit its operand. -/
def State.mmaTileShape (s : State) (fmt r k : Nat) (p : Nat × Nat) : Bool :=
  match s.tile? p.1 p.2 with
  | none => false
  | some e => !decide (e.tfmt = tileTag fmt) || decide (e.size * 16 < operandBytes fmt r k)

/-- The result words of the operation on the south-edge core of bond column j lie within one grant. -/
def State.mmaGranted (s : State) (w : Nat) (o : EngOp) (j : Nat) : Bool :=
  let cols := min 8 (o.mN - 8 * j)
  let last := o.accFirst + (o.mM - 1) * o.accStride + (cols - 1)
  decide (cols = 0) ||
  (s.core (o.bondCore (o.ra - 1) j)).grants.any (fun g =>
    (s.warp w).speaksFor w g.holder && decide (g.base ≤ o.accFirst) && decide (last < g.base + g.size))

/-- A condition of trap 0x09 holds. -/
def State.mmaShape (s : State) (w : Nat) (o : EngOp) : Bool :=
  let f := o.aFmt
  decide (o.mCtrl / 2 ^ 9 ≠ 0) || decide (o.pbNum 56 8 ≠ 0) || decide (o.bOp / 64 ≠ 0) ||
  (if o.aMem then decide (o.aOp / 2 ^ 56 ≠ 0) else decide (o.aOp / 64 ≠ 0) || decide (o.pbNum 40 8 ≠ 0)) ||
  !pairOk f o.bFmt || (o.iMode && !o.four) || decide (o.pbNum 24 4 ≠ o.mK) ||
  decide (o.mM = 0) || decide (2 ^ 20 < o.mM) || decide (o.mN = 0) || decide (8 * o.rb < o.mN) ||
  decide (o.mK = 0) || decide (2 ^ 20 < o.mK) || decide (o.mK % kUnit f ≠ 0) ||
  (o.four && (decide (o.mM % 16 ≠ 0) || decide (o.mN % 16 ≠ 0))) ||
  (!o.aMem && o.westCores.any (fun c => s.mmaTileShape f o.mM o.mK (c, o.aOp % 64))) ||
  o.northCores.any (fun c => s.mmaTileShape o.bFmt o.mN o.mK (c, o.bOp % 64)) ||
  decide (o.accStride < 8) || (List.range o.rb).any (fun j => !s.mmaGranted w o j)

/-- The lease under which a core's matrix work runs; a revoked lease holds its cores no longer (08_bonds.md R195,
R199). -/
def State.liveLease (s : State) (c : Nat) : Option Lease :=
  match s.leaseAt c with
  | some (_, l) => if l.st = .revoked then none else some l
  | none => none

/-- A group of the task carries the revoked mark (08_bonds.md R199). -/
def State.revokedFor (s : State) (w : Nat) : Bool :=
  let wp := s.warp w
  wp.groupNos.any (fun g => ((s.launch wp.lid).gstate g).revoked)

/-- Issue one matrix product (09_tensor_instr.md R239, R241). -/
def execMma (n : Stall) (a : BitVec 6) (s : State) : Answer :=
  strandOp (0, 0) [a.toNat] (fun s0 =>
    let s := s0.syncAll
    let w := s.cur.warp
    let wp := s.warp w
    let c := coreOf w
    let va : Addr := (s.sval w 0 a.toNat).setWidth 56
    if s.revokedFor w then s.strandTrap w 0x13 wp.spc
    else
      match s.strandReach va 64 .read with
      | (t, none) => t
      | (t, some pa) =>
        match t.blockRead (t.strandMaster w) c pa 64 with
        | (t, none) => t
        | (t, some v) =>
          let base := { t.newOp .mma 0 va.toNat with pb := bytesOf 64 v }
          let go (r : QRef) (o : EngOp) : State :=
            if o.mTiles.any (t.mmaTileBad w) then t.strandTrap w 0x0B wp.spc
            else if t.mmaShape w o then t.strandTrap w 0x09 wp.spc
            else
              let u := t.place n.toNat r { o with dests := (List.range o.rb).map (fun j => (o.bondCore (o.ra - 1) j, 0)) }
              if (u.warp w).swait = .qfull 0 then u else u.updWarp w (fun x => { x with mrow := 0 })
          match t.liveLease c with
          | none => go (.core c) { base with cores := [c] }
          | some l =>
            if l.lid = wp.lid ∧ wp.groupNos.contains l.grp then
              go (.lease l.lid l.grp) { base with cores := l.cores, ra := l.rows, rb := l.cols, lease := some l.origin }
            else t.strandTrap w 0x0B wp.spc) s

/-! ## Elements (05_formats.md R108, 06_square_tiles.md R124, R125, R127, R139, R140)

An element stands as a number of 16 bits: its code, and for a four-bit code its type and scale exponent as well. -/

/-- The element in row i and column j of a record. -/
def recElem (v i j : Nat) : Nat :=
  let code := v / 2 ^ (8 * (8 * i) + 4 * j) % 16
  let scale := v / 2 ^ (8 * 136) % 256
  let r := v / 2 ^ (8 * 128 + 2 * i) % 4
  let c := v / 2 ^ (8 * 132 + 2 * j) % 4
  code + 16 * (scale / 64) + 64 * (scale % 64 + 32 - r - c)

/-- Element k of a panel. -/
def panelElem (fmt v k : Nat) : Nat := if fmt = 3 ∨ fmt = 4 then v / 2 ^ (16 * k) % 2 ^ 16 else v / 2 ^ (8 * k) % 2 ^ 8

/-- Exponent of the unit in which the elements of a format are whole numbers. -/
def unitExp (fmt : Nat) (int : Bool) : Int :=
  match fmt with
  | 0 => -9
  | 1 => -16
  | 2 => 0
  | 3 => -24
  | 4 => -133
  | _ => if int then 0 else -44

/-- A finite value in units of 2^e. -/
def inUnits (f : Fl) (e : Int) (b : Nat) : Option Int :=
  match f.decode b with
  | .fin neg mag x => some (alignTo neg mag x e)
  | _ => none

/-- The value of an element in the units of its format; none for a NaN or an infinity (05_formats.md R122). -/
def elemVal (fmt : Nat) (int : Bool) (e : Nat) : Option Int :=
  match fmt with
  | 0 => inUnits flE4M3 (-9) e
  | 1 => inUnits flE5M2 (-16) e
  | 2 => some (BitVec.ofNat 8 e).toInt
  | 3 => inUnits flFP16 (-24) e
  | 4 => inUnits flBF16 (-133) e
  | _ =>
    if int then some (BitVec.ofNat 4 e).toInt
    else
      let q := q4Value (codeTypeOf (e / 16 % 4)) (e % 16)
      let m : Int := (q.2 * 2 ^ (e / 64 + 38 - 64 : Nat) : Nat)
      some (if q.1 then -m else m)

/-- The exact dot product of a slice in units of the two formats, none where an element is not finite (05_formats.md
R122). -/
def sliceDot (fa fb : Nat) (int : Bool) (a b : List Nat) : Option Int :=
  (a.zip b).foldl (fun t p =>
    match t, elemVal fa int p.1, elemVal fb int p.2 with
    | some t, some x, some y => some (t + x * y)
    | _, _, _ => none) (some 0)

/-! ## The accumulation chain (05_formats.md R113, R122) -/

/-- acc_fp32 of a word and a finite term (05_formats.md R113). -/
def accFp32 (a : Word) (neg : Bool) (mag : Nat) (exp : Int) : Flagged Word :=
  match flFP32.decode a.toNat with
  | .nan => ⟨BitVec.ofNat 32 flFP32.nan, 0⟩
  | .inf n => ⟨BitVec.ofNat 32 (flFP32.inf n), 0⟩
  | .fin n1 m1 e1 =>
    let (n, m, e) := addFin n1 m1 e1 neg mag exp
    let r := flFP32.roundDy .nearest true false n m e
    if r.flags &&& fOF = 0 then ⟨BitVec.ofNat 32 r.val, 0⟩ else ⟨BitVec.ofNat 32 (flFP32.maxfin n), fACCOV⟩

/-- acc_fp32 of two words (05_formats.md R113). -/
def accWords (a b : Word) : Flagged Word :=
  match flFP32.decode b.toNat with
  | .fin n m e => accFp32 a n m e
  | _ => ⟨BitVec.ofNat 32 flFP32.nan, 0⟩

/-- sat_int32 of a sum; a clamp sets ACCOV (05_formats.md R122). -/
def accInt (v : Int) : Flagged Word :=
  if v < -(2 ^ 31) then ⟨0x80000000, fACCOV⟩
  else if 2 ^ 31 - 1 < v then ⟨0x7FFFFFFF, fACCOV⟩
  else ⟨BitVec.ofInt 32 v, 0⟩

/-- One step of the chain: a partial sum and an exact dot product in units of 2^e. -/
def chainStep (int : Bool) (e : Int) (s : Word) (p : Option Int) : Flagged Word :=
  match p with
  | none => ⟨BitVec.ofNat 32 flFP32.nan, fMNAN⟩
  | some v => if int then accInt (s.toInt + v) else accFp32 s (decide (v < 0)) v.natAbs e

/-- The chain over the dot products from north to south. -/
def chain (int : Bool) (e : Int) (ps : List (Option Int)) : Flagged Word :=
  ps.foldl (fun s p =>
    let r := chainStep int e s.val p
    ⟨r.val, s.flags ||| r.flags⟩) ⟨0, 0⟩

/-- The update of an accumulator word by the sum of a pass. -/
def accUpdate (int replace : Bool) (acc sum : Word) : Flagged Word :=
  if replace then ⟨sum, 0⟩ else if int then accInt (acc.toInt + sum.toInt) else accWords acc sum

/-! ## Reading operands -/

/-- A substituted element of a matrix operand is logged (08_bonds.md R206, 16_recovery.md R441). -/
def State.logOperand (s : State) (o : EngOp) (core what opnd row col : Nat) : State :=
  (s.countUe (dieOf (cluOf core))).logErr
    { lid := o.lid, kind := 1, what := what, where_ := core, opnd := opnd, row := row, col := col }

/-- The elements of a panel, with zeros for those in error, and the numbers of the elements that were replaced. -/
def panelElems (fmt v : Nat) (bad : List Nat) : List Nat × List Nat :=
  let len := sliceLen fmt
  let lost := (List.range len).filter (fun k => bad.any (fun h => decide (h / 2 / (64 / len) = k)))
  ((List.range len).map (fun k => if lost.contains k then 0 else panelElem fmt v k), lost)

/-- Sixteen elements of a record, row i of an A record or column i of a B record, and which of them were replaced: the codes in
error, or a whole tile for an error in its header (06_square_tiles.md R131). -/
def recordLine (isA : Bool) (v : Nat) (bad : List Nat) (i : Nat) : List Nat × List Nat :=
  let at_ (k : Nat) : Nat × Nat := if isA then (i, k) else (k, i)
  if bad.any (fun h => decide (256 ≤ h) && decide (h < 274)) then (List.replicate 16 0, List.range 16)
  else
    let lost := (List.range 16).filter (fun k => bad.contains (16 * (at_ k).1 + (at_ k).2))
    ((List.range 16).map (fun k =>
      let e := recElem v (at_ k).1 (at_ k).2
      if lost.contains k then e - e % 16 else e), lost)

/-- Where an operand's bytes stand: a function that gives the number held by n bytes at an offset, and their half bytes in
error. -/
abbrev Bytes := Nat → Nat → Nat × List Nat

/-- Elements of slice sl of row (or column) r of an operand, with the K indices of those that were replaced
(08_bonds.md R200, R201). -/
def EngOp.sliceOf (o : EngOp) (fmt : Nat) (isA : Bool) (read : Bytes) (r sl : Nat) : List Nat × List Nat :=
  let len := sliceLen fmt
  if fmt = 5 then
    let tk := o.mK / 16
    (List.range 8).foldl (fun (x : List Nat × List Nat) j =>
      let t := 8 * sl + j
      if t < tk then
        let p := read (144 * (r / 16 * tk + t)) 144
        let q := recordLine isA p.1 p.2 (r % 16)
        (x.1 ++ q.1, x.2 ++ q.2.map (fun k => 16 * t + k))
      else x) ([], [])
  else
    let p := read (64 * (r * (o.mK / len) + sl)) 64
    let q := panelElems fmt p.1 p.2
    (q.1, q.2.map (fun k => len * sl + k))

/-- The bytes of a tile of a core. -/
def State.tileBytes (s : State) (c t : Nat) : Bytes := fun off n =>
  let a := ((s.tile? c t).map (fun e => 16 * e.base)).getD 0 + off
  ((s.core c).spadGet a n, s.spadBadHalves c a n)

/-- Slices of a pass, north to south: the logical row and the slice, for slices inside K. -/
def EngOp.passSlices (o : EngOp) (p : Nat) : List (Nat × Nat) :=
  ((List.range o.cellRows).map (fun k => (k, p * o.cellRows + k))).filter (fun x => decide (x.2 < o.slices))

/-- Elements packed into one number. -/
def packElems (l : List Nat) : Nat := l.foldr (fun e v => e + 2 ^ 16 * v) 0

def unpackElems (n v : Nat) : List Nat := (List.range n).map (fun k => v / 2 ^ (16 * k) % 2 ^ 16)

/-- The B values of a column for a slice are read, as one number, and whether some were replaced: those in error in scratchpad,
and those whose link flit fails; each is logged (08_bonds.md R183, R185, R206). -/
def State.readB (s : State) (o : EngOp) (c sl : Nat) : State × Nat × Bool :=
  let core := o.bondCore 0 (c / 8)
  let q := o.sliceOf o.bFmt false (s.tileBytes core (o.bOp % 64)) c sl
  let t1 := q.2.foldl (fun (t : State) k => t.logOperand o core 1 1 k c) s
  let links := s.mem.badLink.filter (fun b =>
    decide (b.core = coreOf o.warp) && !b.isA && decide (b.col = c) && decide (b.row / sliceLen o.bFmt = sl))
  if links.isEmpty then (t1, packElems q.1, !q.2.isEmpty)
  else
    let t2 := links.foldl (fun (t : State) b => t.logOperand o (o.bondCore (sl % o.cellRows / 8) (c / 8)) 7 1 b.row c) t1
    (t2.updMem (fun m => { m with badLink := m.badLink.filter (fun b => !links.contains b) }),
     packElems ((List.range q.1.length).map (fun k =>
       if links.any (fun b => decide (b.row % sliceLen o.bFmt = k)) then 0 else q.1.getD k 0)), true)

/-- More of the B set of a pass is read into the shadow set: the values that pick names, by column and slice, of those that are
not there yet (08_bonds.md R183, 09_tensor_instr.md R242). -/
def State.fillB (s : State) (o : EngOp) (pass : Nat) (pick : Nat → Bool) : State × EngOp :=
  let ks := o.passSlices pass
  (List.range (o.mN * ks.length)).foldl (fun (x : State × EngOp) i =>
    if (x.2.bnext.find? i).isSome || !pick i then x
    else
      let r := x.1.readB o (i / ks.length) ((ks.getD (i % ks.length) (0, 0)).2)
      (r.1, { x.2 with bnext := x.2.bnext.set i r.2.1, flags := if r.2.2 then x.2.flags ||| fOPZ else x.2.flags })) (s, o)

/-- A pass begins: the shadow set, read to its end, becomes the active one (08_bonds.md R183). -/
def State.swapB (s : State) (o : EngOp) : State × EngOp :=
  let x := s.fillB o o.pass (fun _ => true)
  (x.1, { x.2 with bset := (List.range (o.mN * (o.passSlices o.pass).length)).map (fun i => x.2.bnext.get 0 i), bnext := [] })

/-- During a pass the shadow set takes values of the next: when each of them is read is a free choice (08_bonds.md R183; log
entry 50). -/
def State.shadowB (s : State) (o : EngOp) : State × EngOp :=
  if o.pass + 1 < o.passes then s.fillB o (o.pass + 1) (fun i => Config.freeBool (2 ^ 40 * s.tick + 2 ^ 20 * o.row + i)) else (s, o)

/-- The master of the A stream, at the core of the strand that issued the operation (10_memory.md R272, R276, 11_ordering.md
R279, 09_tensor_instr.md R244). -/
def State.streamMaster (s : State) (o : EngOp) : Master :=
  let wp := s.warp o.warp
  { die := warpDie o.warp, part := wp.part, space := wp.space, lid := some o.lid, code := coreOf o.warp, tid := o.tid,
    cls := 0, slack := (s.launch o.lid).slack, rid := warpClu o.warp, clu := some (warpClu o.warp), hold := true,
    agent := 64 * o.warp + 33, task := o.taskId, pipe := true }

/-- Bytes of one row of panels, or of records, up to slice sl. -/
def EngOp.rowBytes (o : EngOp) (sl : Nat) : Nat := if o.four then 144 * min (o.mK / 16) (8 * sl) else 64 * sl

/-- The memory sector at which element k of a row of A met its error, among the half bytes in error that the stream of a row from a slice on
has found: that of the element, or of its record's header. -/
def EngOp.badSector (o : EngOp) (start k : Nat) (bad : List (Nat × Nat)) : Nat :=
  let find (lo n : Nat) : Option (Nat × Nat) :=
    bad.find? (fun b => decide (lo ≤ start + b.1 / 2) && decide (start + b.1 / 2 < lo + n))
  let size := 64 / sliceLen o.aFmt
  let own := if o.four then find (144 * (k / 16) + 8 * (o.row % 16) + k % 16 / 2) 1 else find (k * size) size
  match own, find (144 * (k / 16) + 128) 9 with
  | some b, _ => b.2
  | none, some b => if o.four then b.2 else 0
  | none, none => 0

/-- The elements of a row of A in the slices of a pass and whether some were replaced, or how its reading ends
(08_bonds.md R200 to R202, R206, 09_tensor_instr.md R244). -/
def State.readA (s : State) (o : EngOp) : State × (List (List Nat) × Bool ⊕ Got) :=
  let ks := o.passSlices o.pass
  if o.aMem then
    let first := o.pass * o.cellRows
    let start := o.rowBytes first
    let row := if o.four then o.row / 16 else o.row
    let va := ((((o.aOp % 2 ^ 56 : Nat) : Int) + row * o.signed 40 8 + start) % 2 ^ 56).toNat
    match s.engStream (s.streamMaster o) va (o.rowBytes (first + ks.length) - start) with
    | (t, .inl (v, bad)) =>
      let read : Bytes := fun off n =>
        let d := off - row * o.rowBytes o.slices - start
        (v / 2 ^ (8 * d) % 2 ^ (8 * n),
         (bad.filter (fun b => decide (2 * d ≤ b.1) && decide (b.1 < 2 * (d + n)))).map (fun b => b.1 - 2 * d))
      let qs := ks.map (fun k => o.sliceOf o.aFmt true read o.row k.2)
      let lost := qs.flatMap (fun q => q.2)
      (lost.foldl (fun (t : State) k => t.logSubst (s.streamMaster o) (o.badSector start k bad) 0 0 o.row k) t,
       .inl (qs.map (fun q => q.1), !lost.isEmpty))
    | (t, .inr g) => (t, .inr g)
  else
    let qs := ks.map (fun k =>
      let core := o.bondCore (k.1 / 8) 0
      (core, o.sliceOf o.aFmt true (s.tileBytes core (o.aOp % 64)) o.row k.2))
    let lost := qs.flatMap (fun q => q.2.2.map (fun k => (q.1, k)))
    (lost.foldl (fun (t : State) x => t.logOperand o x.1 1 0 o.row x.2) s, .inl (qs.map (fun q => q.2.1), !lost.isEmpty))

/-! ## The course of a q0 operation (09_tensor_instr.md R242, R243) -/

/-- mrow of the task whose most recent q0 operation this is (09_tensor_instr.md R243). -/
def State.setMrow (s : State) (o : EngOp) (pass row : Nat) : State :=
  let wp := s.warp o.warp
  if wp.lid = o.lid ∧ wp.taskId = o.taskId ∧ (s.opsOf o.warp).all (fun p => decide (p.q ≠ 0) || decide (p.num ≤ o.num)) then
    s.updWarp o.warp (fun v => { v with mrow := BitVec.ofNat 64 (2 ^ 32 * pass + row) })
  else s

/-- The elements of the B set of column c in the order of the slices; from the row of a parity error on its value is zero
(08_bonds.md R207). -/
def State.heldB (s : State) (o : EngOp) (c : Nat) : List (List Nat) :=
  let ks := o.passSlices o.pass
  let len := sliceLen o.bFmt
  let n := if o.four then 128 else len
  let bad := s.mem.badB.filter (fun b => decide (b.core = coreOf o.warp) && decide (b.col = c) && decide (b.row ≤ o.row))
  (List.range ks.length).map (fun i =>
    let sl := (ks.getD i (0, 0)).2
    let es := unpackElems n (o.bset.getD (c * ks.length + i) 0)
    if bad.isEmpty then es
    else (List.range n).map (fun k => if bad.any (fun b => decide (b.k = len * sl + k)) then 0 else es.getD k 0))

/-- The parity errors that rows of the pass detect first at this row are logged once per pass (08_bonds.md R207). -/
def State.logHeldB (s : State) (o : EngOp) : State × Nat :=
  let now := s.mem.badB.filter (fun b => decide (b.core = coreOf o.warp) && decide (b.row = o.row) && decide (b.col < o.mN) &&
    (o.passSlices o.pass).any (fun x => decide (b.k / sliceLen o.bFmt = x.2)))
  (now.foldl (fun (t : State) b => t.logOperand o (o.bondCore 0 (b.col / 8)) 5 1 b.k b.col) s, if now.isEmpty then 0 else fOPZ)

/-- South-edge core and accumulator word of a result (09_tensor_instr.md R242). -/
def EngOp.accWord (o : EngOp) (m c : Nat) : Nat × Nat :=
  (o.bondCore (o.ra - 1) (c / 8), o.accFirst + m * o.accStride + c % 8)

/-- Elements of A whose flit fails on an operand link are zero for the columns beyond it (08_bonds.md R206). -/
def EngOp.beyond (o : EngOp) (links : List BadLink) (c : Nat) (rows : List (List Nat)) : List (List Nat) :=
  if links.isEmpty then rows
  else
    let ks := o.passSlices o.pass
    (List.range rows.length).map (fun i =>
      let es := rows.getD i []
      let sl := (ks.getD i (0, 0)).2
      (List.range es.length).map (fun k =>
        if links.any (fun b => decide (b.col = sliceLen o.aFmt * sl + k) && decide (b.hop ≤ c / 8)) then 0 else es.getD k 0))

/-- The link errors that a row meets, which are logged and gone (08_bonds.md R206). -/
def State.takeLinks (s : State) (o : EngOp) : State × List BadLink :=
  let links := s.mem.badLink.filter (fun b =>
    decide (b.core = coreOf o.warp) && b.isA && decide (b.row = o.row) && decide (b.hop < o.rb) &&
    (o.passSlices o.pass).any (fun x => decide (b.col / sliceLen o.aFmt = x.2)))
  if links.isEmpty then (s, [])
  else
    let t := links.foldl (fun (t : State) b =>
      t.logOperand o (o.bondCore (b.col / sliceLen o.aFmt % o.cellRows / 8) b.hop) 7 0 b.row b.col) s
    (t.updMem (fun m => { m with badLink := m.badLink.filter (fun b => !links.contains b) }), links)

/-- The bond of an operation spans both dies (08_bonds.md R187). -/
def EngOp.strait (o : EngOp) : Bool := o.cores.any (fun c => !decide (dieOf (cluOf c) = dieOf (cluOf (o.cores.headD 0))))

/-- Core cycles from the arrival of the first sum of an operation to that of column c of a row of a pass, as long as nothing stops
it (08_bonds.md R187, R188). -/
def EngOp.arrival (o : EngOp) (pass m c : Nat) : Nat :=
  let rho := if o.strait then 2 else 1
  pass * max (rho * o.mM) (9 * o.ra) + rho * m + c + (if o.strait ∧ 32 ≤ c then 6 else 0)

/-- Sums in the order in which they arrive. -/
def inArrival (x : LateSum) : List LateSum → List LateSum
  | [] => [x]
  | y :: r => if x.arrives < y.arrives then x :: y :: r else y :: inArrival x r

/-- Sums reach their accumulator words one after another (05_formats.md R122, 08_bonds.md R208, R209). The operation afterwards, none
where an error was consumed. -/
def State.landSums (s : State) : List LateSum → EngOp → State × Option EngOp
  | [], o => (s, some o)
  | x :: r, o =>
    if !x.replace && s.mem.badAcc.contains (x.core * 2 ^ 20 + x.word) then (s.consume (some o.lid) 0 3 x.core, none)
    else
      let u := accUpdate o.ints x.replace ((s.core x.core).acc.get 0 x.word) x.sum
      ((s.mendAcc x.core x.word).updCore x.core (fun k => { k with acc := k.acc.set x.word u.val })).landSums r
        { o with flags := o.flags ||| u.flags }

/-- The cycle up to which the sums on their way have arrived: a free choice, before the first sum of a row that has not begun, and
where none is left to begin no earlier than the next arrival (08_bonds.md R187; log entry 50). -/
def State.arrived (s : State) (o : EngOp) : Nat :=
  let ts := o.late.map (fun x => x.arrives)
  let first := ts.foldl min (ts.headD 0)
  if o.passes ≤ o.pass then first + 1 + Config.freeDelay (2 ^ 67 + s.tick) % (ts.foldl max 0 - first + 1)
  else first + Config.freeDelay (2 ^ 67 + s.tick) % (o.arrival o.pass o.row 0 - first + 1)

/-- An operation stops, or goes on after some rows: its sums land in the order of their arrival, all of them where it stops
(08_bonds.md R187, 09_tensor_instr.md R243, 16_recovery.md R444). -/
def State.settleSums (s : State) (r : QRef) (o : EngOp) (all : Bool) : State × Option EngOp :=
  let there (x : LateSum) : Bool := all || decide (x.arrives < s.arrived o)
  match s.landSums ((o.late.filter there).foldl (fun l x => inArrival x l) []) { o with late := o.late.filter (fun x => !there x) } with
  | (t, some p) => (t.setHead r p, some p)
  | (t, none) => (t, none)

/-- Perform the row at the operation's position: its sums are on their way to their words (08_bonds.md R187, 05_formats.md R122,
16_recovery.md R444). The operation afterwards, none where it cannot go on now. -/
def State.mmaRow (s : State) (r : QRef) (o : EngOp) : State × Option EngOp :=
  match s.readA o with
  | (t, .inr (.wait tok)) =>
    match t.settleSums r o true with
    | (u, some p) => ((u.setMrow p p.pass p.row).waitOp r p tok, none)
    | (u, none) => (u, none)
  | (t, .inr _) => (t, none)
  | (t, .inl (rows, lost)) =>
    let (t1, links) := t.takeLinks o
    let e := unitExp o.aFmt o.iMode + unitExp o.bFmt o.iMode
    let sums := (List.range o.mN).map (fun c =>
      let f := chain o.ints e ((((o.beyond links c rows).zip (t1.heldB o c)).map (fun p => sliceDot o.aFmt o.bFmt o.iMode p.1 p.2)) ++
        List.replicate (o.cellRows - rows.length) (some 0))
      let p := o.accWord o.row c
      ({ arrives := o.arrival o.pass o.row c, core := p.1, word := p.2, sum := f.val, replace := o.zAcc && decide (o.pass = 0) : LateSum }, f.flags))
    let b := t1.logHeldB o
    let last := decide (o.row + 1 = o.mM)
    let v := if last then b.1.updMem (fun m => { m with badB := m.badB.filter (fun x => !decide (x.core = coreOf o.warp)) }) else b.1
    let p := { o with row := if last then 0 else o.row + 1, pass := if last then o.pass + 1 else o.pass
                      late := o.late ++ sums.map (fun x => x.1)
                      flags := o.flags ||| orFlags (sums.map (fun x => x.2)) ||| b.2 ||| (if lost || !links.isEmpty then fOPZ else 0) }
    ((v.setMrow p p.pass p.row).setHead r p, some p)

/-- A checker mismatch of a cell unit (16_recovery.md R442). -/
def State.cellGlitch (s : State) : Option Glitch := s.glitch.filter (fun g => decide (g.unit / 16 = 1))

/-- The operation has performed its last row: its sums go on landing, and once every one has landed it is done with its tiles
(08_bonds.md R188). -/
def State.mmaDone (s : State) (r : QRef) (o : EngOp) : State :=
  match s.settleSums r o false with
  | (t, some p) => if p.late.isEmpty then (t.endReads p).performed r { p with reads := [], bset := [], bnext := [] } 0 0 else t
  | (t, none) => t

/-- Up to k row positions; a checker mismatch of a cell stops the operation at its row (16_recovery.md R444). -/
def State.mmaRows (s : State) (r : QRef) : Nat → EngOp → State
  | 0, o => (s.settleSums r o false).1
  | k + 1, o =>
    if o.passes ≤ o.pass then s.mmaDone r o
    else
      match s.cellGlitch with
      | some g =>
        (match s.settleSums r o true with
         | (t, some p) => (t.setMrow p p.pass p.row).holdOp r p p.row g.tc g
         | (t, none) => t)
      | none =>
        let x := if o.bset = [] then s.swapB o else (s, o)
        let y := x.1.shadowB x.2
        match (y.1.setHead r y.2).mmaRow r y.2 with
        | (t, none) => t
        | (t, some p) =>
          let q := if p.row = 0 then { p with bset := [] } else p
          (t.setHead r q).mmaRows r k q

/-- q0 begins an operation once its operand tiles are ready (09_tensor_instr.md R242). -/
def State.mmaBegin (s : State) (r : QRef) (o : EngOp) : State × Option EngOp :=
  if o.mTiles.all (fun p =>
      match s.tile? p.1 p.2 with
      | some e => decide (e.st = .ready)
      | none => false) then
    let p := { o with st := .running, reads := o.mTiles, pass := 0, row := 0 }
    ((o.mTiles.foldl (fun t x => t.startRead x.1 x.2) s).setHead r p, some p)
  else (s, none)

/-- MMA_OP: the operation at the head of the agent's q0 begins, or performs up to rows row positions (09_tensor_instr.md
R242, R243). -/
def execMmaOp (rows : Nat) (s : State) : Answer :=
  let r := s.actorQueue
  .next (match s.headOf r with
    | none => s
    | some o =>
      if decide (o.kind = .mma) && s.joined r && s.opLive o && !s.opFrozen o (warpClu o.warp) then
        match o.st with
        | .queued =>
          match s.mmaBegin r o with
          | (t, some p) => t.mmaRows r rows p
          | (t, none) => t
        | .running => s.mmaRows r rows o
        | _ => s
      else s)

end Sys2Proof.Machine
end

