-- ==== Sys2Proof/Machine/EngineDone.lean ====
section
/-! DEFINITION. How engine operations end: completion and status words, q6 and q7 operations, traps of held operations,
and the passage of leases (09_tensor_instr.md R212, R213, R237, 08_bonds.md R196 to R199, 10_memory.md R268, R269,
12_memory_instr.md R318, R339 to R341, 15_isolation.md R412, 16_recovery.md R444, R461). -/

namespace Sys2Proof.Machine

/-! ## Completion (09_tensor_instr.md R211 to R213) -/

/-- The status word of an operation (09_tensor_instr.md R212). -/
def EngOp.statusWord (o : EngOp) : Nat := 2 ^ 63 + o.info % 2 ^ 32 * 256 + o.code % 256

/-- The master of an operation's own accesses, to its parameter block and its status word. The rules give tcopy and tquant no tensor id for
these, and gath and scat no class or slack: DESIGN CHOICE, id 0, and class 1 with the launch's slack (10_memory.md R260, R272; log entry
136). -/
def State.opMaster (s : State) (o : EngOp) : Master :=
  match o.kind with
  | .mma => s.streamMaster o
  | .gath | .scat => { s.gatherMaster o with cls := 1, slack := (s.launch o.lid).slack }
  | _ => { s.copyMaster o with tid := 0 }

/-- An operation leaves its queue: its fills complete, and flags reach stk of its task (05_formats.md R118,
09_tensor_instr.md R217). -/
def State.popOp (s : State) (r : QRef) (o : EngOp) : State :=
  let s1 := (s.setQueue (s.queueAt r).tail r).endFills o o.fillBytes
  let wp := s1.warp o.warp
  let s2 := if wp.resident && decide (wp.lid = o.lid) && decide (wp.taskId = o.taskId) then
      s1.updWarp o.warp (fun v => v.setFlags o.flags) else s1
  s2.wakeStrands

/-- The status word is written last, as a release at each scope that contains the issuing core; of an operation that ran on the
other die, a strait lease's copy, every write is then applied on the issuer's die too (09_tensor_instr.md R212, 11_ordering.md
R279, R303, R305); its scopes include the system's, so what the operation has written and what its task knew when it issued it shows to the host
(R302, R308; log entry 35). -/
def State.writeStatus (s : State) (r : QRef) (o : EngOp) : State :=
  let m := s.opMaster o
  let s1 := s.updMem (fun x => x.bump m.die)
  let s2 := if m.die = warpDie o.warp then s1 else s1.updMem (fun x => x.drain m.die (x.epoch m.die))
  match s2.engPut m o.block.toNat 8 o.statusWord with
  | (t, .val _ _) =>
    let who : Agent := (o.lid, 64 * o.taskId + 33 + o.q)
    ((t.tellWho (coreOf o.warp) (Wrote.offer who)).updMem (fun x =>
      (if m.die = warpDie o.warp then x else x.drain m.die (x.epoch m.die + 1)).publish who)).popOp r o
  | (t, .wait tok) => t.waitOp r o tok
  | (t, .stop) => t

/-- ENGINE_COMPLETION (09_tensor_instr.md R211, R212). -/
def execEngineCompletion (s : State) : Answer :=
  let r := s.actorQueue
  .next (match s.headOf r with
    | some o => if o.st = .performed ∧ o.tok = none ∧ s.runs o.lid ∧ !s.opStopped o then s.writeStatus r o else s
    | none => s)

/-! ## Held operations (16_recovery.md R444) -/

/-- PIPE_TRAP: the trap of a held operation reaches the groups that wait on its tile; before a U-set instruction it is
delivered by that instruction's own checks. -/
def execPipeTrap (s : State) : Answer := .next (s.heldToWaiters s.cur.warp)

/-- Each executing lane leaves the handler for its trap.pc; outside the handler it traps (17_system_instr.md R485). Held
operations resume once no lane stays in the handler for them (16_recovery.md R444). -/
def execTret (n : Stall) (s : State) : Answer :=
  match laneOp n 4 0 (0, 0) (fun _ => []) (fun v => if v.ln.inH then { leaves := true } else .trapped 0x01) s with
  | .next t => .next (t.resumeHeld s.cur.warp)
  | q => q

/-! ## q6 and accumulator requests -/

/-- RED_OP: the oldest operation of q6 is performed (12_memory_instr.md R318, 11_ordering.md R301, R304). -/
def execRedOp (s : State) : Answer :=
  let w := s.cur.warp
  .next (match s.headOf (.own w 6) with
    | some o => if s.opLive o && !s.opFrozen o (warpClu w) then (s.redOne w).wakeStrands else s
    | none => s)

/-- AALLOC_SERVED (09_tensor_instr.md R235). -/
def execAallocServed (s : State) : Answer := .next (s.serveAllocs s.cur.clu)

/-! ## Leases (08_bonds.md R196 to R199, 09_tensor_instr.md R237) -/

/-- The lease of the agent of an event: the idx-th of its cluster. -/
def State.actorLease (s : State) : Option Lease := (s.cluster s.cur.clu).leases[s.cur.idx]?

/-- A lease passes to Free. -/
def State.dropLease (s : State) (l : Lease) : State :=
  ({ s with clusters := mapVals (fun _ g =>
      { g with leases := g.leases.filter (fun x => !(decide (x.lid = l.lid) && decide (x.grp = l.grp))) }) s.clusters }).wakeStrands

/-- LEASE_JOIN: the operations from before the grant have completed (09_tensor_instr.md R237). -/
def execLeaseJoin (s : State) : Answer :=
  .next (match s.actorLease with
    | some l =>
      if l.st = .joining ∧ l.cores.all (fun c => (s.core c).q0.isEmpty) then
        (s.updLease l.lid l.grp (fun x => { x with st := .held })).wakeStrands
      else s
    | none => s)

/-- LEASE_RELEASE: every operation issued under the lease has completed (08_bonds.md R196). -/
def execLeaseRelease (s : State) : Answer :=
  .next (match s.actorLease with
    | some l => if l.st = .releasing ∧ l.q0.isEmpty then s.dropLease l else s
    | none => s)

/-- LEASE_REVOKED_FREE: the last operation under a revoked lease has ended; DONE of LEASEREV reads 1 again
(08_bonds.md R199, 16_recovery.md R461). -/
def execLeaseRevokedFree (s : State) : Answer :=
  .next (match s.actorLease with
    | some l =>
      if l.st = .revoked ∧ l.q0.isEmpty then
        let s1 := s.dropLease l
        { s1 with sys := { s1.sys with lrev := keepVals (fun d c =>
            !(l.cores.contains c && decide (d < 2))) s1.sys.lrev } }
      else s
    | none => s)

/-! ## q7: promotion and demotion (10_memory.md R266 to R271, 12_memory_instr.md R339 to R341, 15_isolation.md R412) -/

/-- The slots of a bank that a partition's window covers, lowest first (15_isolation.md R412). -/
def State.windowSlots (s : State) (stack bankIx part : Nat) : List Nat :=
  let v := s.reg (baseBlk stack (0x2000 + 8 * part))
  if bitAt v 63 then
    (List.range (s.slotsOf stack bankIx)).filter (fun f => decide (field v 9 0 ≤ f) && decide (f ≤ field v 25 16))
  else []

/-- The entry of a slot, if it is valid. -/
def State.slotAt (s : State) (stack bankIx f : Nat) : Option SlotEnt := s.mem.slots.find? (slotKey stack bankIx f)

/-- The slot that a promotion takes: the lowest invalid one, else the oldest unpinned one (10_memory.md R268). -/
def State.victimSlot (s : State) (stack bankIx : Nat) (fs : List Nat) : Option Nat :=
  match fs.find? (fun f => (s.slotAt stack bankIx f).isNone) with
  | some f => some f
  | none =>
    let order (f : Nat) : Nat := ((s.slotAt stack bankIx f).map (fun e => e.seq)).getD 0
    let free := fs.filter (fun f => ((s.slotAt stack bankIx f).map (fun e => !e.pin)).getD false)
    free.foldl (fun best f =>
      match best with
      | none => some f
      | some b => if order f < order b then some f else some b) none

/-- Promote the row of a physical address for a partition: the outcome code (10_memory.md R268, 12_memory_instr.md
R339). -/
def State.promoteRow (s : State) (part pa : Nat) (pin : Bool) : State × Nat :=
  if quarter pa = 3 then (s, 6)
  else if quarter pa = 1 then (s, 2)
  else
    let p := { placeOf (pa % 2 ^ 46) with col := 0 }
    let fs := s.windowSlots p.stack p.bankIx part
    if 15360 ≤ p.row then (s, 2)
    else
      match fs.find? (fun f => ((s.slotAt p.stack p.bankIx f).map (fun e => decide (e.hrow = p.row))).getD false) with
      | some f =>
        (if pin then s.updMem (fun m =>
            { m with slots := match m.slots.find? (slotKey p.stack p.bankIx f) with
                | some e => m.slots.set (slotKey p.stack p.bankIx f) { e with pin := true }
                | none => m.slots }) else s, 1)
      | none =>
        if fs.isEmpty then (s, 4)
        else
          match s.victimSlot p.stack p.bankIx fs with
          | none => (s, 3)
          | some f =>
            let k := slotKey p.stack p.bankIx f
            let b := 4096 * p.stack + p.bankIx
            let m0 := s.mem.bankOp p.stack p.bankIx
            let m1 := match s.slotAt p.stack p.bankIx f with
              | some e => m0.writeBackSlot p.stack p.bankIx f e
              | none => m0
            let m2 := { m1 with slots := m1.slots.del k }
            let m3 := m2.moveRow p (slotPlace p.stack p.bankIx f)
            let n := m3.nextSeq.get 0 b
            ({ s with mem := { m3 with slots := m3.slots.set k { dirty := false, pin := pin, seq := n, hrow := p.row },
                                       nextSeq := m3.nextSeq.set b (n + 1) } }, 0)

/-- Demote the row of a physical address for a partition: the outcome code (10_memory.md R269, 12_memory_instr.md R339). -/
def State.demoteRow (s : State) (part pa : Nat) : State × Nat :=
  if quarter pa = 3 then (s, 6)
  else if quarter pa = 1 then (s, 2)
  else
    let p := placeOf (pa % 2 ^ 46)
    if 15360 ≤ p.row then (s, 2)
    else
      match (s.windowSlots p.stack p.bankIx part).find? (fun f =>
          ((s.slotAt p.stack p.bankIx f).map (fun e => decide (e.hrow = p.row))).getD false) with
      | none => (s, 5)
      | some f =>
        (s.updMem (fun m =>
          let m1 := match m.slots.find? (slotKey p.stack p.bankIx f) with
            | some e => m.writeBackSlot p.stack p.bankIx f e
            | none => m
          { m1 with slots := m1.slots.del (slotKey p.stack p.bankIx f) }), 0)

/-- An operation of q7 completes: its outcome register, PREF for a refusal, and it leaves the queue (12_memory_instr.md
R340, R341). -/
def State.rowDone (s : State) (r : QRef) (o : EngOp) (code : Nat) : State :=
  let fl := if code = 2 ∨ code = 3 ∨ code = 4 ∨ code = 6 then fPREF else 0
  (s.updWarp o.warp (fun v => { v with q7st := BitVec.ofNat 64 (o.redAddr / 1024 * 1024 + code) })).popOp r { o with flags := fl }

/-- The request of a promotion or demotion: class 1, launch slack; it carries no bytes past the arbiter (10_memory.md R272). -/
def State.rowRequest (s : State) (o : EngOp) : State :=
  if quarter o.redAddr = 0 then s.updMem (fun m => m.request (s.strandMaster o.warp) o.redAddr 0 false) else s

/-- PROMOTION (10_memory.md R268). -/
def execPromotion (s : State) : Answer :=
  let r := QRef.own s.cur.warp 7
  .next (match s.headOf r with
    | some o =>
      match o.kind with
      | .prom pin =>
        if s.opLive o && !s.opFrozen o (warpClu o.warp) then
          let x := (s.rowRequest o).promoteRow (s.warp o.warp).part o.redAddr pin
          x.1.rowDone r o x.2
        else s
      | _ => s
    | none => s)

/-- DEMOTION (10_memory.md R269). -/
def execDemotion (s : State) : Answer :=
  let r := QRef.own s.cur.warp 7
  .next (match s.headOf r with
    | some o =>
      if decide (o.kind = .dem) && s.opLive o && !s.opFrozen o (warpClu o.warp) then
        let x := (s.rowRequest o).demoteRow (s.warp o.warp).part o.redAddr
        x.1.rowDone r o x.2
      else s
    | none => s)

end Sys2Proof.Machine
end

