-- ==== Sys2Proof/Machine/Launch.lean ====
section
/-! DEFINITION. The command processor: launch entries, their checks, placement of bound groups, admission, dealing, the end
of a launch and its drain (13_scheduling.md R345 to R357, R373, R374, 02_execution.md R51 to R53, R60, R61,
16_recovery.md R450, R466). -/

namespace Sys2Proof.Machine

/-! ## Starting a task (02_execution.md R44, 11_ordering.md R293) -/

/-- The warp of a task at its start (02_execution.md R44). -/
def startWarp (l : Launch) (q : QRec) (clock : Nat) : Warp :=
  let r := q.trec
  let pc : Addr := r.code.setWidth 56
  let st : LaneSt := if r.itemq = 0 then .live else .vacant
  let n := field r.flags 12 8 + 1
  { slot := .reserveReady, since := clock, trec := r, initial := q.initial, lid := l.lid, space := l.space, part := l.part,
    taskId := q.id, lanes := (List.range 32).map (fun i => (i, { Lane.dflt with st := if i < n then st else .exited, pc := pc }))
    s := [(0, r.frame), (1, r.itemq), (2, r.arg0), (3, r.arg1)], spc := pc, startRefill := !decide (r.itemq = 0)
    chk := bitAt r.flags 1 || l.check }

/-- The running launch that reserves a slot (13_scheduling.md R351). -/
def State.reservedBy (s : State) (w : Nat) : Option Nat :=
  (List.find? (fun (p : Nat × Launch) => p.2.slots.contains w) s.launches).map (fun p => p.1)

/-- Reserved slots that a continuation whose parent left them is still to take (13_scheduling.md R351). -/
def State.tiedSlots (s : State) : List Nat :=
  (s.clusters.flatMap (fun p => p.2.queue)).filterMap (fun q => q.slot) ++
  (s.mem.held.filterMap (fun h => h.trec.slot)) ++
  (s.mem.ctrWaits.filterMap (fun x => match x.act with
    | .hold q => q.slot
    | .dec => none)) ++
  (s.cores.flatMap (fun p => p.2.carves)).filterMap (fun r => r.trec.bind (fun q => q.slot))

/-- The record is one of a bound group, which only the placement of its group takes out of a queue (02_execution.md R53). -/
def State.isBound (s : State) (q : QRec) : Bool := q.initial && !bitAt q.trec.flags 2 && (s.launch q.lid).namesBound q.trec

/-- An initial record of a co-resident launch that starts in a slot that is not reserved has it reserved in the place of one that
waited for such a record, so that its continuation runs in a reserved slot that its parent left (13_scheduling.md R351; DEDUCED, log
entry 134). -/
def State.reserveSlot (s : State) (w : Nat) (q : QRec) : State :=
  let l := s.launch q.lid
  if !l.cores || !q.initial || l.slots.contains w then s
  else
    let free := l.slots.filter (fun x => decide ((s.warp x).slot = .free) && !s.tiedSlots.contains x)
    match free.filter (fun x => l.boundSlots.contains x == s.isBound q) ++ free with
    | r :: _ => s.updLaunch q.lid (fun l => { l with slots := l.slots.erase r ++ [w] })
    | [] => s

/-- The registers of a slot, and its place in the save SRAM, are written over as a task starts there: errors in them are logged only
(16_recovery.md R439). -/
def State.wipeSlot (s : State) (w : Nat) : State :=
  let what : Upset → Option Nat
    | .lane v _ _ | .uni v _ => if v = w then some 4 else none
    | .save v => if v = w then some 1 else none
    | _ => none
  (s.mem.upsets.filterMap what).foldl (fun s k => s.logErr { kind := 5, what := k, where_ := coreOf w })
    (if s.mem.upsets.isEmpty then s else s.updMem (fun m => m.clear (fun u => (what u).isSome)))

/-- A record is taken by a free slot: it is checked, and its task starts (02_execution.md R43, R44). -/
def State.startTask (s : State) (w : Nat) (q : QRec) : State :=
  let l := s.launch q.lid
  if l.recordBad q then s.endLaunch q.lid { code := 0x06, task := q.id, addr := q.addr }
  else
    let s1 := ((s.reserveSlot w q).wipeSlot w).acquireAll (warpDie w) (coreOf w) .device (some (q.lid, 64 * q.id + 63))
    { s1.setWarp w (startWarp l q s.clock) with clock := s.clock + 1 }

/-- The free slots of a core that a record of a launch may take, those reserved for it first; own is set for an initial
record (13_scheduling.md R351). -/
def State.freeSlots (s : State) (c lid : Nat) (own : Bool) : List Nat :=
  let ws := ((List.range 16).map (fun k => 16 * c + k)).filter (fun w => decide ((s.warp w).slot = .free))
  let tied := if own then s.tiedSlots else []
  (ws.filter (fun w => own && decide (s.reservedBy w = some lid) && !tied.contains w)) ++
    ws.filter (fun w => decide (s.reservedBy w = none))

/-- The scheduler places tasks on the cluster: it belongs to a partition, has power, is not switching its regulator and is
not lent (15_isolation.md R406, R424, R429, 08_bonds.md R191). -/
def State.schedules (s : State) (g : Nat) : Bool :=
  (s.cpart g).isSome && !s.sys.off (dieOf g) && !s.sys.switching.any (fun p => decide (p.1 = g)) && !s.lentOut g

/-! ## Placing bound groups (13_scheduling.md R353, 10_memory.md R248) -/

/-- What a placement sees of a core: free slots, ways, and the windows it holds, by offset and length. -/
structure CoreView where
  free : Nat
  ways : Nat
  wins : List (Nat × Nat)
  deriving DecidableEq, Repr

/-- A placement in progress: the core of each member, and the windows decided, by core. -/
structure Placing where
  at_ : List (Nat × Nat) := []
  wins : List (Nat × Nat × Nat) := []
  deriving DecidableEq, Repr

/-- Offsets at which a window of len bytes is free among others in a scratchpad of a size (10_memory.md R248). -/
def winOffsets (size len : Nat) (held : List (Nat × Nat)) : List Nat :=
  ((List.range 56).map (fun k => 4096 * k)).filter (fun o =>
    decide (o + len ≤ size) && held.all (fun h => decide (len = 0) || decide (h.2 = 0) || !extentsMeet o len h.1 h.2))

/-- Core of a Morton position (13_scheduling.md R353). -/
def mortonCore (k : Nat) : Nat := [0, 1, 4, 5, 2, 3, 6, 7, 8, 9, 12, 13, 10, 11, 14, 15].getD k 0

/-- Block size P of a cluster-bound group (13_scheduling.md R353). -/
def blockSize (count : Nat) : Nat := let n := min count 16; if n ≤ 1 then 1 else 2 ^ (Nat.log2 (n - 1) + 1)

/-- The bound records of a set of groups, by ascending task id. -/
def boundMembers (recs : List QRec) (g : Nat) : List QRec := recs.filter (fun q => q.trec.groupNos.contains g)

/-- The members on a core agree on a scratchpad size: strictly with the core's, or else with each other. -/
def carveOk (strict : Bool) (v : CoreView) (ms : List QRec) : Bool :=
  let cs := (ms.map (fun q => q.trec.carve)).filter (fun k => !decide (k = 0))
  if strict then cs.all (fun k => decide (carveWays k = v.ways)) else cs.all (fun k => decide (k = cs.headD k))

/-- Scratchpad bytes of the core once the members' requests have taken effect. -/
def sizeAfter (v : CoreView) (ms : List QRec) : Nat :=
  match (ms.map (fun q => q.trec.carve)).find? (fun k => !decide (k = 0)) with
  | some k => 32768 * carveWays k
  | none => 32768 * v.ways

/-- Members decided for a core so far. -/
def Placing.on (p : Placing) (recs : List QRec) (c : Nat) : List QRec :=
  recs.filter (fun q => p.at_.any (fun x => decide (x.1 = q.id) && decide (x.2 = c)))

/-- Put the members of a group on the cores that a function gives, if it fits (13_scheduling.md R353). -/
def Placing.put (p : Placing) (strict : Bool) (view : Nat → CoreView) (recs ms : List QRec) (core : Nat → Nat) : Option Placing :=
  let want := (List.range ms.length).map (fun j => ((ms.getD j { trec := {}, id := 0, lid := 0, addr := 0, initial := true }).id, core j))
  let clash := want.any (fun x => p.at_.any (fun y => decide (y.1 = x.1) && !decide (y.2 = x.2)))
  let new := want.filter (fun x => !p.at_.any (fun y => decide (y.1 = x.1)))
  let q : Placing := { p with at_ := p.at_ ++ new }
  let cs := (want.map (fun x => x.2)).dedup
  if !clash && cs.all (fun c => decide ((q.on recs c).length ≤ (view c).free) && carveOk strict (view c) (q.on recs c)) then some q
  else none

/-- Place one group of a set in a cluster. -/
def Placing.group (p : Placing) (strict : Bool) (view : Nat → CoreView) (l : Launch) (recs : List QRec) (g k : Nat) : Option Placing :=
  let ms := boundMembers recs k
  let d := l.group k
  if d.place = 1 then
    (List.range 16).findSome? (fun i =>
      let c := 16 * g + i
      match p.put strict view recs ms (fun _ => c) with
      | none => none
      | some q =>
        let held := (view c).wins ++ (q.wins.filter (fun x => decide (x.1 = c))).map (fun x => x.2)
        if d.window = 0 then some q
        else
          match winOffsets (sizeAfter (view c) (q.on recs c)) (1024 * d.window) held with
          | o :: _ => some { q with wins := q.wins ++ [(c, o, 1024 * d.window)] }
          | [] => none)
  else
    let n := blockSize d.count
    (List.range (16 / n)).findSome? (fun b => p.put strict view recs ms (fun j => 16 * g + mortonCore (n * b + j % n)))

/-- Place a set of groups in a cluster, in ascending group index. -/
def placeSet (strict : Bool) (view : Nat → CoreView) (l : Launch) (recs : List QRec) (g : Nat) (ks : List Nat) : Option Placing :=
  ks.foldl (fun p k => p.bind (fun p => p.group strict view l recs g k)) (some {})

/-- Groups that share a member with a set, directly or through others (13_scheduling.md R353). -/
def closeSet (l : Launch) (recs : List QRec) (k : Nat) : List Nat :=
  let step (ks : List Nat) : List Nat :=
    (List.range 256).filter (fun g => ks.contains g || recs.any (fun q =>
      q.trec.groupNos.contains g && (l.group g).bound && q.trec.groupNos.any ks.contains))
  (List.range recs.length).foldl (fun ks _ => step ks) [k]

/-- The sets of bound groups of a launch, by their lowest group. -/
def boundSets (l : Launch) (recs : List QRec) : List (List Nat) :=
  let named := (List.range 256).filter (fun g => (l.group g).bound && recs.any (fun q => q.trec.groupNos.contains g))
  named.filterMap (fun k =>
    let s := closeSet l recs k
    if s.head? = some k then some s else none)

/-- The first cluster of a list that takes a set: among cores that meet every CARVE, else without regard to it. -/
def findPlace (view : Nat → CoreView) (l : Launch) (recs : List QRec) (gs ks : List Nat) : Option (Placing × Bool) :=
  match gs.findSome? (fun g => placeSet true view l recs g ks) with
  | some p => some (p, true)
  | none => (gs.findSome? (fun g => placeSet false view l recs g ks)).map (fun p => (p, false))

/-- A core after a placement: slots taken, the members' size where they change it, windows made. -/
def Placing.after (p : Placing) (view : Nat → CoreView) (recs : List QRec) (c : Nat) : CoreView :=
  let v := view c
  { free := v.free - (p.at_.filter (fun x => decide (x.2 = c))).length
    ways := sizeAfter v (p.on recs c) / 32768
    wins := v.wins ++ (p.wins.filter (fun x => decide (x.1 = c))).map (fun x => x.2) }

/-- Place the sets of a launch one after another, each among what those before it have left (13_scheduling.md R351, R353). -/
def placeAll (l : Launch) (recs : List QRec) (gs : List Nat) : List (List Nat) → (Nat → CoreView) → Option (List (Nat × Nat))
  | [], _ => some []
  | ks :: rest, view =>
    (findPlace view l recs gs ks).bind (fun p => (placeAll l recs gs rest (p.1.after view recs)).map (fun a => p.1.at_ ++ a))

/-! ## Whether any placement exists (02_execution.md R53; log entry 60) -/

/-- Every window of the groups placed on a core has room beside the others. -/
def Placing.windowsFit (p : Placing) (view : Nat → CoreView) (recs : List QRec) : Bool :=
  p.wins.all (fun x =>
    decide (((p.wins.filter (fun y => decide (y.1 = x.1))).foldl (fun n y => n + y.2.2) 0) ≤ sizeAfter (view x.1) (p.on recs x.1)))

/-- Some choice of places for the groups of a set in a cluster passes a test. -/
def tryGroups (view : Nat → CoreView) (l : Launch) (recs : List QRec) (g : Nat) : List Nat → Placing → (Placing → Bool) → Bool
  | [], p, next => next p
  | k :: rest, p, next =>
    let ms := boundMembers recs k
    let d := l.group k
    let go (core : Nat → Nat) (c : Option Nat) : Bool :=
      match p.put false view recs ms core with
      | none => false
      | some q =>
        tryGroups view l recs g rest (match c with
          | some c => if d.window = 0 then q else { q with wins := q.wins ++ [(c, 0, 1024 * d.window)] }
          | none => q) next
    if d.place = 1 then (List.range 16).any (fun i => go (fun _ => 16 * g + i) (some (16 * g + i)))
    else
      let n := blockSize d.count
      (List.range (16 / n)).any (fun b => go (fun j => 16 * g + mortonCore (n * b + j % n)) none)

/-- Some choice of clusters and places for sets passes. -/
def trySets (view : Nat → CoreView) (l : Launch) (recs : List QRec) (gs : List Nat) : List (List Nat) → Placing → Bool
  | [], p => p.windowsFit view recs
  | ks :: rest, p => gs.any (fun g => tryGroups view l recs g ks p (trySets view l recs gs rest))

/-- Some assignment of cores and clusters satisfies every bound group of a launch at once: no more members than slots, and then
a search (02_execution.md R53); and for every set of groups that share members some cluster admits the placement of its groups in
order (13_scheduling.md R353). -/
def placeable (view : Nat → CoreView) (l : Launch) (recs : List QRec) (gs : List Nat) : Bool :=
  decide (recs.length ≤ 256 * gs.length) && (boundSets l recs).all (fun ks => gs.any (fun g => (placeSet false view l recs g ks).isSome)) &&
    trySets view l recs gs (boundSets l recs) {}

/-- A core of the machine with nothing on it: its size stays as it is. -/
def State.emptyView (s : State) (c : Nat) : CoreView := { free := 16, ways := (s.core c).ways, wins := [] }

/-- A core as it stands, for records of a launch. -/
def State.coreView (s : State) (lid : Nat) (c : Nat) : CoreView :=
  { free := if (s.core c).carves.isEmpty && s.schedules (cluOf c) then (s.freeSlots c lid true).length else 0
    ways := (s.core c).ways, wins := (s.core c).wins.map (fun v => (v.off, v.len)) }

/-- The cluster after another in a list, or the first. -/
def nextOf (gs : List Nat) (last : Nat) : Nat :=
  match gs.find? (fun g => decide (last ≤ g)) with
  | some g => g
  | none => gs.headD 0

/-- The clusters that n records in turn go to, after the cluster that received the last (13_scheduling.md R352). -/
def turnOf (gs : List Nat) (dealt : Nat) : Nat → List Nat
  | 0 => []
  | n + 1 => nextOf gs dealt :: turnOf gs (nextOf gs dealt + 1) n

/-- One core for each of some clusters, among spare slots: in that cluster where it has one, else anywhere. -/
def spareCores : List Nat → List Nat → Option (List Nat)
  | [], _ => some []
  | g :: rest, spare =>
    match spare.find? (fun c => decide (cluOf c = g)) with
    | some c => (spareCores rest (spare.erase c)).map (fun l => c :: l)
    | none =>
      match spare with
      | [] => none
      | c :: r => (spareCores rest r).map (fun l => c :: l)

/-- Cores of the slots that the initial records of a co-resident launch take: those of bound groups where R353 places them, the
others any remaining slot, in the cluster that the record is dealt to where it has one; none where they do not fit
(13_scheduling.md R351). -/
def coresFit (view : Nat → CoreView) (l : Launch) (recs : List QRec) (gs : List Nat) (dealt : Nat) : Option (List Nat) :=
  let bs := recs.filter (fun q => l.namesBound q.trec)
  match placeAll l bs gs (boundSets l bs) view with
  | none => none
  | some a =>
    let bound := a.map (fun x => x.2)
    let cores := gs.flatMap (fun g => (List.range 16).map (fun i => 16 * g + i))
    let spare := cores.flatMap (fun c => List.replicate ((view c).free - bound.count c) c)
    (spareCores (turnOf gs dealt (recs.length - bs.length)) spare).map (fun l => bound ++ l)

/-! ## Reads and writes of the command processor (13_scheduling.md R349, 15_isolation.md R409 to R411) -/

/-- How a read of the command processor ends. -/
inductive CpGot where
  | val (b : List (List Byte))
  | wait (tok : Nat)
  | failed
  | stop
  deriving DecidableEq, Repr

/-- Read several ranges one after another. Addresses are of 56 bits: bits [63:56] of RECS and GTAB are dropped (DESIGN CHOICE, log entry
46). -/
def State.cpReads (s : State) (m : Master) (failed : List (Nat × Nat)) : List (Nat × Nat) → State × CpGot
  | [] => (s, .val [])
  | (va, n) :: rest =>
    let r := s.translateAll m .read failed ((units n).map (fun u => (va + u.1) % 2 ^ 56))
    match firstWait r.2 with
    | some tok => (r.1, .wait tok)
    | none =>
      if r.2.any (fun p => decide (p.2 = .failed)) then (r.1, .failed)
      else if r.2.any (fun p => decide (p.2 = .frozen)) then (r.1, .stop)
      else
        let pas := r.2.filterMap (fun p =>
          match p.2 with
          | .ok pa => some pa
          | _ => none)
        match pas.find? (fun pa => !r.1.paAllowed m.part pa .read) with
        | some pa => (r.1.freeze m pa .read, .stop)
        | none =>
          match r.1.engUnits m none (((units n).zip pas).map (fun p => (p.1.1, p.1.2, p.2))) with
          | (t, .val v _) =>
            match t.cpReads m failed rest with
            | (u, .val l) => (u, .val (bytesOf n v :: l))
            | x => x
          | (t, _) => (t, .stop)

/-- Write bytes for a queue: a page that system software has failed is left out, a violation freezes the queue; the token
where the write waits (13_scheduling.md R348). -/
def State.cpWrite (s : State) (m : Master) (failed : List (Nat × Nat)) (va : Nat) (b : List Byte) : State × Option Nat :=
  let us := units b.length
  let r := s.translateAll m .write failed (us.map (fun u => (va + u.1) % 2 ^ 56))
  match firstWait r.2 with
  | some tok => (r.1, some tok)
  | none =>
    ((us.zip r.2).foldl (fun s p =>
      match p.2.2 with
      | .ok pa =>
        let v := numAt b p.1.1 p.1.2
        if !s.paAllowed m.part pa .write then s.freeze m pa .write
        else if quarter pa = 3 then s.remoteWrite m pa p.1.2 v
        else s.l2Write m (canonPa pa) p.1.2 v
      | _ => s) r.1, none)

/-! ## Checks of an entry (13_scheduling.md R346, R347, R349) -/

/-- Step 1: fields and ATTR. -/
def entryBad (e : List Byte) : Bool :=
  let nrec := numAt e 16 4
  let attr := numAt e 20 4
  let castle := attr / 2 ^ 12 % 2 ^ 13
  let slack := numAt e 36 4
  decide (attr / 2 ^ 25 ≠ 0) || decide (attr / 2 ^ 7 % 2 ^ 5 ≠ 0) || decide (attr / 16 % 2 = 1) || decide (attr % 2 = 1) ||
  decide (numAt e 32 4 / 2 ^ 16 ≠ 0) || decide (numAt e 48 8 ≠ 0) || decide (numAt e 56 8 ≠ 0) ||
  (List.range 8).any (fun k => decide (numAt e (64 + 16 * k + 12) 4 ≠ 0)) ||
  decide (nrec = 0) || decide (2 ^ 24 < nrec) ||
  (decide (castle ≠ 0) && (decide (castle < 64) || decide (4096 < castle))) ||
  (decide (slack ≠ 0) && (decide (slack < 32) || decide (524288 < slack))) ||
  decide (2047 < numAt e 44 4) || decide (numAt e 8 8 % 64 ≠ 0) || decide (numAt e 24 8 % 16 ≠ 0)

/-- Step 2: window bindings (12_memory_instr.md R325). -/
def windowBad (e : List Byte) : Bool :=
  (List.range 8).any (fun k =>
    let base := numAt e (64 + 16 * k) 8
    let size := numAt e (64 + 16 * k + 8) 4
    decide (size ≠ 0) && (decide (base % 8 ≠ 0) || decide (size % 4 ≠ 0) || decide (1048576 < size)))

/-- Group-table entry k of 4 KiB of table. -/
def groupOf (b : List Byte) (k : Nat) : GroupDef :=
  { count := numAt b (16 * k) 3, place := numAt b (16 * k + 4) 1 % 4, window := numAt b (16 * k + 6) 2 }

/-- An entry of a group table breaks a rule by itself (02_execution.md R51 to R53). -/
def groupBad (b : List Byte) (k : Nat) : Bool :=
  let d := groupOf b k
  decide (numAt b (16 * k + 3) 1 ≠ 0) || decide (numAt b (16 * k + 4) 1 / 4 ≠ 0) || decide (numAt b (16 * k + 5) 1 ≠ 0) ||
  decide (numAt b (16 * k + 8) 8 ≠ 0) || decide (d.place = 3) ||
  (decide (d.place = 1) && (decide (16 < d.count) || decide (224 < d.window) || decide (d.window % 4 ≠ 0))) ||
  (decide (d.place ≠ 1) && decide (d.window ≠ 0)) || (decide (d.place = 2) && decide (256 < d.count))

/-- The launch that an entry describes, before it has an id (13_scheduling.md R346, R347). -/
def launchOf (e gt : List Byte) (die q entry part space : Nat) : Launch :=
  let attr := numAt e 20 4
  let or0 (v d : Nat) : Nat := if v = 0 then d else v
  { lid := 0, die := die, q := q, entry := BitVec.ofNat 56 entry, part := part, space := space, server := die
    recs := numAt e 8 8, nrec := numAt e 16 4, gtab := numAt e 24 8, kernel := numAt e 32 2
    slack := or0 (numAt e 36 4) 4096, vec := numAt e 44 4, castle := or0 (attr / 2 ^ 12 % 2 ^ 13) 256
    irq := decide (attr / 64 % 2 = 1), nrepl := decide (attr / 32 % 2 = 1), check := decide (attr / 8 % 2 = 1)
    noprog := decide (attr / 4 % 2 = 1), cores := decide (attr / 2 % 2 = 1)
    wins := (List.range 8).map (fun k => (numAt e (64 + 16 * k) 8, numAt e (64 + 16 * k + 8) 4))
    groups := (List.range 256).map (fun k => (k, if gt.isEmpty then ⟨0, 0, 0⟩ else groupOf gt k)) }

/-- The initial records of a launch, with ids 0 to NREC − 1: CONT is clear, CHK set where the launch forces it, and NOSTEAL where
a record names a bound group (02_execution.md R42, R43, R47, R51, R52). -/
def initialRecs (l : Launch) (bs : List (List Byte)) : Launch × List QRec :=
  (List.range bs.length).foldl (fun (x : Launch × List QRec) i =>
    let r0 := taskRecOf (bs.getD i [])
    let f := setBit (if l.namesBound r0 then setBit r0.flags 3 true else r0.flags) 2 false
    let r := { r0 with flags := if l.check then setBit f 1 true else f }
    let p := x.1.admitMember r
    (p.1, x.2 ++ [{ trec := r, id := i, lid := l.lid, addr := l.recs + 64 * i, initial := true, excess := p.2 }])) (l, [])

/-- Steps 1 to 6 of an entry whose bytes have been read: refused with a code, made to wait, or to be admitted with its
reserved cores (13_scheduling.md R349). -/
inductive Verdict where
  | refuse (code : Nat)
  | wait
  | accept (cores : List Nat)
  deriving DecidableEq, Repr

/-- Step 3. -/
def groupsBad (l : Launch) (gt : List Byte) (recs : List QRec) : Bool :=
  !gt.isEmpty && (List.range 256).any (fun k =>
    groupBad gt k || ((l.group k).bound && decide ((l.group k).count ≠ 0) &&
      decide ((boundMembers recs k).length ≠ (l.group k).count)))

/-- Steps 3 to 6 (13_scheduling.md R349, R351, R353). -/
def State.judge (s : State) (l : Launch) (gt : List Byte) (recs : List QRec) : Verdict :=
  let gs := s.clustersOf l.part
  let bound := recs.filter (fun q => l.namesBound q.trec)
  let dealt := (s.cp.get { } l.server).dealt
  if groupsBad l gt recs then .refuse 0x03
  else if gs.isEmpty then .wait
  else if !placeable s.emptyView l bound gs then .refuse 0x04
  else if l.cores && (coresFit s.emptyView l recs gs dealt).isNone then .refuse 0x05
  else if 256 ≤ (s.launches.filter (fun p => decide (p.2.server = l.server) && !decide (p.2.st = .saved))).length then .wait
  else if l.cores then
    match coresFit (s.coreView 0xFFFFFFFF) l recs gs dealt with
    | some cs => .accept cs
    | none => .wait
  else .accept []

/-! ## Dealing (13_scheduling.md R350 to R352) -/

/-- Slots for a list of cores, one each, lowest free first. -/
def State.pickSlots (s : State) (cs : List Nat) : List Nat :=
  cs.foldl (fun acc c =>
    match (s.freeSlots c 0xFFFFFFFF false).find? (fun w => !acc.contains w) with
    | some w => acc ++ [w]
    | none => acc) []

/-- The cluster whose queue takes the records of a set of bound groups: where R353 would place it now, else where it would in an
empty partition (13_scheduling.md R352, R353; log entry 61). -/
def State.queueOf (s : State) (lid : Nat) (gs : List Nat) (recs : List QRec) (q : QRec) : Nat :=
  let l := s.launch lid
  let ks := closeSet l recs (q.trec.groupNos.find? (fun g => (l.group g).bound) |>.getD 0)
  let ms := recs.filter (fun r => r.trec.groupNos.any ks.contains)
  let at_ (view : Nat → CoreView) : Option Nat := (findPlace view l ms gs ks).bind (fun p => p.1.at_.head?.map (fun x => cluOf x.2))
  match at_ (s.coreView lid) with
  | some g => g
  | none => (at_ s.emptyView).getD (gs.headD 0)

/-- Deal records in order: one of a bound group goes to the cluster chosen for its set, the others to the partition's clusters in
turn (13_scheduling.md R352, R355). -/
def State.deal (s : State) (die : Nat) (gs : List Nat) (recs : List QRec) : State :=
  let bs := recs.filter s.isBound
  let home := bs.map (fun q => (q.id, s.queueOf q.lid gs bs q))
  recs.foldl (fun s q =>
    if !s.runs q.lid then s
    else
      match home.find? (fun x => s.isBound q && decide (x.1 = q.id)) with
      | some (_, g) => s.enqueue g q { task := q.id }
      | none =>
        let p := s.cp.get { } die
        let g := nextOf gs p.dealt
        ({ s with cp := s.cp.set die { p with dealt := g + 1 } }).enqueue g q { task := q.id }) s

/-- A launch is admitted: it runs, its partition's markers are cleared, its slots are reserved and its records dealt
(13_scheduling.md R350 to R352, 14_control_instr.md R402, 15_isolation.md R428, 12_memory_instr.md R343). -/
def State.admitLaunch (s : State) (l : Launch) (recs : List QRec) (cores : List Nat) : State :=
  let gs := s.clustersOf l.part
  let l1 : Launch :=
    { l with nextId := l.nrec, order := s.clock, slots := s.pickSlots cores, init := recs
             boundSlots := (s.pickSlots cores).take (recs.filter (fun q => l.namesBound q.trec)).length
             redDie := (let d := l.lid / 2 ^ 31 % 2; if s.sys.off d then 1 - d else d) }
  let s1 : State := { s with launches := s.launches.set l.lid l1, clock := s.clock + 1 }
  let s2 := gs.foldl (fun s g => s.updCluster g (fun c => { c with phase := 0 })) s1
  (s2.startRun l.lid l.part l.kernel 0).deal l.server gs (recs.map (fun q => { q with lid := l.lid }))

/-! ## Admission (13_scheduling.md R345, R349, R350) -/

/-- Bytes of a fault record (16_recovery.md R450). -/
def FaultRec.bytes (f : FaultRec) (replays : Nat) (nrmark : Bool) : List Byte :=
  let bit (b : Bool) (v : Nat) : Nat := if b then v else 0
  bytesOf 1 f.code ++ bytesOf 1 f.trap ++ bytesOf 1 (bit f.nest 1 + bit nrmark 2 + bit f.dep 4 + bit f.restore 8) ++
  bytesOf 1 replays ++ bytesOf 4 f.task ++ bytesOf 8 f.pc.toNat ++ bytesOf 4 f.lanes.toNat ++ bytesOf 2 f.where_ ++
  bytesOf 1 f.escr ++ bytesOf 1 0 ++ bytesOf 8 f.addr ++ bytesOf 8 f.syn.toNat ++ bytesOf 4 f.unit ++ bytesOf 4 f.tr ++
  bytesOf 4 f.tc ++ bytesOf 12 0

/-- Write ranges for a queue; the token of the first write that waits. -/
def State.cpWrites (s : State) (m : Master) (failed : List (Nat × Nat)) : List (Nat × List Byte) → State × Option Nat
  | [] => (s, none)
  | (va, b) :: rest =>
    match s.cpWrite m failed va b with
    | (t, some tok) => (t, some tok)
    | (t, none) => t.cpWrites m failed rest

/-- HEAD of the descriptor advances (13_scheduling.md R350). -/
def headWrite (desc head : Nat) : Nat × List Byte := (desc + 16, bytesOf 4 ((head + 1) % 2 ^ 32))

/-- What a refused entry gets: LID of no launch, a fault record with CODE alone, then STATUS (13_scheduling.md R348). -/
def refusal (entry code : Nat) : List (Nat × List Byte) :=
  [(entry + 40, bytesOf 4 0xFFFFFFFF), (entry + 192, FaultRec.bytes { code := code, task := 0 } 0 false), (entry, bytesOf 8 (2 ^ 63 + code))]

/-- How an attempt on a queue's head ends. -/
inductive HeadEnd where
  | empty (tail : Nat)       -- nothing to serve
  | malformed (tail : Nat)
  | unreadable
  | waits (tok : Option Nat)
  | refuse (desc head entry code : Nat)
  | accept (desc head entry : Nat) (l : Launch) (recs : List QRec) (cores : List Nat)
  deriving DecidableEq, Repr

/-- Read an entry, its group table and its records and judge them (13_scheduling.md R349). -/
def State.judgeEntry (s : State) (m : Master) (failed : List (Nat × Nat)) (die q entry : Nat) (lid : Nat) :
    State × (Verdict × Launch × List QRec ⊕ Option Nat) :=
  match s.cpReads m failed [(entry, 256)] with
  | (t, .wait tok) => (t, .inr (some tok))
  | (t, .failed) => (t, .inl (.refuse 0x0E, Launch.dflt, []))
  | (t, .stop) => (t, .inr none)
  | (t, .val bs) =>
    let e := bs.headD []
    if entryBad e then (t, .inl (.refuse 1, Launch.dflt, []))
    else if windowBad e then (t, .inl (.refuse 2, Launch.dflt, []))
    else
      let gtab := numAt e 24 8
      match t.cpReads m failed (if gtab = 0 then [] else [(gtab, 4096)]) with
      | (t, .wait tok) => (t, .inr (some tok))
      | (t, .failed) => (t, .inl (.refuse 0x0E, Launch.dflt, []))
      | (t, .stop) => (t, .inr none)
      | (t, .val gts) =>
        match t.cpReads m failed ((List.range (numAt e 16 4)).map (fun i => ((numAt e 8 8 + 64 * i) % 2 ^ 56, 64))) with
        | (t, .wait tok) => (t, .inr (some tok))
        | (t, .failed) => (t, .inl (.refuse 0x0E, Launch.dflt, []))
        | (t, .stop) => (t, .inr none)
        | (t, .val rs) =>
          let gt := gts.headD []
          let l0 := { launchOf e gt die q entry m.part m.space with lid := lid }
          let x := initialRecs l0 rs
          (t, .inl (t.judge x.1 gt x.2, x.1, x.2))

/-- Look at the head of a queue (13_scheduling.md R345, R349). BASE of a descriptor is rounded down to a multiple of 256, and its bits
[63:56], as every address's, are dropped: DESIGN CHOICE, the manual does not say what a BASE without these does (log entry 46). -/
def State.lookHead (s : State) (die q part space : Nat) : State × HeadEnd :=
  let cq := s.cmdQueue (64 * die + q)
  let m := queueMaster die q part space
  let desc := s.queueDesc die q
  match (s.acquireAll die (1024 * die) .device none).cpReads m cq.failed [(desc, 32)] with
  | (t, .wait tok) => (t, .waits (some tok))
  | (t, .failed) => (t, .unreadable)
  | (t, .stop) => (t, .waits none)
  | (t, .val bs) =>
    let b := bs.headD []
    let cap := numAt b 8 4
    let head := numAt b 16 4
    let tail := numAt b 20 4
    if cq.badTail = some tail ∧ cq.told = false then (s, .empty tail)
    else if cap = 0 ∨ 65536 < cap ∨ numAt b 12 4 ≠ 0 ∨ numAt b 24 8 ≠ 0 then (t, .malformed tail)
    else
      let stop := if cq.seen = some tail ∧ cq.told = false then cq.stop else (head + min ((tail + 2 ^ 32 - head) % 2 ^ 32) cap) % 2 ^ 32
      if stop = head then (t, .empty tail)
      else
      let t := t.updQueue (64 * die + q) (fun c => { c with seen := some tail, stop := stop, told := false })
      let entry := (numAt b 0 8 / 256 * 256 + 256 * (head % cap)) % 2 ^ 56
      let lid := die * 2 ^ 31 + (t.cp.get { } die).nextLid
      if cq.refuse then (t, .refuse desc head entry 0x0E)
      else
      match t.judgeEntry m cq.failed die q entry lid with
      | (u, .inr (some tok)) => (u, .waits (some tok))
      | (u, .inr none) => (u.updQueue (64 * die + q) (fun c => { c with reading := c.frozen }), .waits none)
      | (u, .inl (.refuse c, _, _)) => (u, .refuse desc head entry c)
      | (u, .inl (.wait, _, _)) => (u, .waits none)
      | (u, .inl (.accept cs, l, recs)) => (u, .accept desc head entry l recs cs)

/-- The queue has been looked at and its head dealt with: no failed page is kept. -/
def State.clearQueue (s : State) (ix : Nat) : State :=
  s.updQueue ix (fun c => { c with failed := [], tok := none, badTail := none, told := false, refuse := false })

/-- A doorbell's TAIL is written into the descriptor; the token where the write waits (13_scheduling.md R345). -/
def State.ringBell (s : State) (die q part space : Nat) : State × Option Nat :=
  let ix := 64 * die + q
  match (s.cmdQueue ix).bell with
  | none => (s, none)
  | some v =>
    match s.cpWrite (queueMaster die q part space) (s.cmdQueue ix).failed (s.queueDesc die q + 20) (bytesOf 4 v) with
    | (t, some tok) => (t.updQueue ix (fun c => { c with tok := some tok }), some tok)
    | (t, none) => (t.updQueue ix (fun c => { c with bell := none }), none)

/-- Serve the head of a queue; the second part is set when something was refused, admitted or began to wait on a fault. -/
def State.serveHead (s : State) (die q part space : Nat) : State × Bool :=
  let ix := 64 * die + q
  let m := queueMaster die q part space
  let failed := (s.cmdQueue ix).failed
  let write (t : State) (ws : List (Nat × List Byte)) (go : State → State) : State × Bool :=
    match t.cpWrites m failed ws with
    | (u, some tok) => (u.updQueue ix (fun c => { c with tok := some tok }), true)
    | (u, none) => ((go u).clearQueue ix, true)
  match s.lookHead die q part space with
  | (_, .empty _) => (s, false)
  | (t, .malformed tail) => (t.updQueue ix (fun c => { c with badTail := some tail, told := false }), false)
  | (t, .unreadable) => ((t.clearQueue ix).updQueue ix (fun c => { c with badTail := some (2 ^ 32) }), false)
  | (t, .waits (some tok)) => (t.updQueue ix (fun c => { c with tok := some tok }), true)
  | (t, .waits none) => (t, decide ((t.cmdQueue ix).frozen = true))
  | (t, .refuse desc head entry code) => write t (refusal entry code ++ [headWrite desc head]) id
  | (t, .accept desc head entry l recs cs) =>
    write t [(entry + 40, bytesOf 4 l.lid), headWrite desc head] (fun u =>
      let p := u.cp.get { } die
      ({ u with cp := u.cp.set die { p with nextLid := (p.nextLid + 1) % (2 ^ 31 - 1) } }).admitLaunch l recs cs)

/-! ## Re-admission for replay (16_recovery.md R466) -/

/-- Readmit a rolled-back launch whose pages are restored; the second part is false while it waits. -/
def State.readmit (s : State) (lid : Nat) : State × Bool :=
  match s.launch? lid with
  | none => (s, false)
  | some l =>
    let older := s.launches.any (fun p => decide (p.2.st = .rolledBack) && decide (p.2.server = l.server) && decide (p.2.order < l.order))
    if l.st ≠ .rolledBack ∨ l.roll ∨ l.tok.isSome ∨ older ∨ (s.cmdQueue (64 * l.server + l.q)).frozen then (s, false)
    else
      let s0 := { s with launches := s.launches.del lid }
      match s0.judgeEntry (queueMaster l.server l.q l.part l.space) l.failed l.die l.q l.entry.toNat lid with
      | (t, .inr (some tok)) =>
        ({ t with launches := t.launches.set lid { l with tok := some tok } }, true)
      | (t, .inr none) => ({ t with launches := t.launches.set lid l }, false)
      | (_, .inl (.wait, _, _)) => (s, false)
      | (t, .inl (.refuse code, _, _)) =>
        ({ t with launches := t.launches.set lid { l with st := .ended, fault := some { code := code, task := 0, dep := (l.fault.map (fun f => f.dep)).getD false } } }, true)
      | (t, .inl (.accept cs, n, recs)) =>
        let order := l.order
        (((t.admitLaunch { n with replays := l.replays + 1, nrmark := l.nrmark, nrepl := n.nrepl || l.nrmark, server := l.server } recs cs)).updLaunch lid
          (fun x => { x with order := order }), true)

/-- REPLAY_READMISSION (16_recovery.md R466 step 5). -/
def execReplayReadmission (lid : Nat) (s : State) : Answer := .next (s.readmit lid).1

/-- LAUNCH_ADMISSION: the command processor of the agent's die takes queue heads in rotation; re-admissions come first
(13_scheduling.md R349, 16_recovery.md R466). -/
def execLaunchAdmission (s : State) : Answer :=
  let die := s.cur.die
  if s.sys.off die then .next s
  else
    let waiting := (s.launches.filter (fun p => decide (p.2.server = die) && decide (p.2.st = .rolledBack))).map (·.1)
    match waiting.find? (fun k => (s.readmit k).2) with
    | some k => .next (s.readmit k).1
    | none =>
      let rot := (s.cp.get { } die).rot
      let order := (List.range 64).map (fun k => (rot + 1 + k) % 64)
      let ready (q : Nat) : Bool :=
        let c := s.cmdQueue (64 * die + q)
        !c.frozen && c.tok.isNone && (s.binding die q).isSome && !(decide (c.badTail = some (2 ^ 32)) && !c.told)
      let turn (s : State) (q : Nat) : State × Bool :=
        match s.binding die q with
        | some (part, space) =>
          match s.ringBell die q part space with
          | (t, some _) => (t, true)
          | (t, none) => t.serveHead die q part space
        | none => (s, false)
      .next ((order.filter ready).foldl (fun (x : State × Bool) q =>
        if x.2 then x
        else
          let y := turn x.1 q
          if y.2 then ({ y.1 with cp := y.1.cp.set die { (y.1.cp.get { } die) with rot := q } }, true) else y) (s, false)).1

/-! ## The end of a launch (13_scheduling.md R348, R373, R374, 16_recovery.md R450, R465) -/

/-- No access of a launch is under way: at a synchronisation engine, on the strait, at a walker, an arbiter or a channel, or in the
crossbar (13_scheduling.md R373). -/
def Mem.noneOf (m : Mem) (lid : Nat) : Bool :=
  let mine (l : Option Nat) : Bool := decide (l = some lid)
  !m.syncReqs.any (fun r => mine r.m.lid) && !m.strait.any (fun g => mine g.q.lid) &&
  !(m.walks0 ++ m.walks1).any (fun w => mine w.m.lid) &&
  !m.arbs.any (fun b => (b.2.arriving ++ b.2.held).any (fun r => mine r.req.lid)) && !m.chans.any (fun c => c.2.reqs.any (fun r => mine r.lid)) &&
  !(m.toSlice ++ m.toClu).any (fun x => x.2.any mine)

/-- No message and no outstanding access of a launch is left: what its wires in the idle trees tell besides tasks and records
(13_scheduling.md R373). -/
def State.settled (s : State) (lid : Nat) : Bool := s.mem.noneOf lid && !s.mem.ctrWaits.any (fun x => decide (x.m.lid = some lid))

/-- A check of a set of launches by the idle tree of a die, which runs up to 8 at once: it does not begin while 8 others run, and runs
until it confirms (13_scheduling.md R373). Its windows are timing alone (R374). -/
def State.runCheck (s : State) (die : Nat) (set : List Nat) (idle : Bool) : State × Bool :=
  let c := (die, set)
  if !s.sys.checks.contains c && decide (8 ≤ (s.sys.checks.filter (fun x => decide (x.1 = die))).length) then (s, false)
  else if idle then ({ s with sys := { s.sys with checks := s.sys.checks.erase c } }, true)
  else if s.sys.checks.contains c then (s, false)
  else ({ s with sys := { s.sys with checks := s.sys.checks ++ [c] } }, false)

/-- The last task of a launch has ended, and no continuation record of it is held (13_scheduling.md R374). -/
def State.tasksEnded (s : State) (lid : Nat) : Bool :=
  !s.warps.any (fun p => p.2.resident && decide (p.2.lid = lid)) &&
  !s.clusters.any (fun p => p.2.queue.any (fun q => decide (q.lid = lid))) &&
  !s.cores.any (fun p => p.2.carves.any (fun r => match r.trec with
    | some q => decide (q.lid = lid)
    | none => false)) &&
  !s.mem.held.any (fun h => decide (h.trec.lid = lid))

/-- Nothing of a launch is left: no resident task, queued or held record, engine operation, message or outstanding access: every
wire of a check of the launch is 1, and stays so, whatever its window (13_scheduling.md R373, R374). -/
def State.quiet (s : State) (lid : Nat) : Bool :=
  s.tasksEnded lid && s.settled lid &&
  !s.cores.any (fun p => p.2.q0.any (fun o => decide (o.lid = lid))) &&
  !s.clusters.any (fun p => p.2.leases.any (fun l => l.q0.any (fun o => decide (o.lid = lid))))

/-- The launches that one depends on, directly or through others (16_recovery.md R465). -/
def State.dependsOn (s : State) (lid : Nat) : List Nat :=
  (List.range s.launches.length).foldl (fun r _ =>
    r.foldl (fun r k => (s.launch k).deps.foldl (fun r j => if r.contains j || (s.launch? j).isNone then r else r ++ [j]) r) r) [lid]

/-- A launch may end: it is drained, or killed with its pages restored, and so is every launch that it depends on
(13_scheduling.md R374, 16_recovery.md R465). -/
def State.mayEnd (s : State) (lid : Nat) : Bool :=
  match s.launch? lid with
  | none => false
  | some l =>
    let done (k : Nat) : Bool :=
      match s.launch? k with
      | none => true
      | some x => (decide (x.st = .running) || decide (x.st = .ended)) && !x.roll && s.quiet k
    (decide (l.st = .running) || decide (l.st = .ended)) && l.tok.isNone && done lid &&
    (s.dependsOn lid).all (fun k => decide (k = lid) || (done k && (s.dependsOn k).contains lid))

/-- Every write is performed everywhere: the system-scope release of a launch's end (11_ordering.md R293). -/
def State.settleAll (s : State) : State :=
  let s1 := s.syncAll
  let s2 := (s1.cores.map (·.1)).foldl (fun s c => s.l1Release (dieOf (cluOf c)) c) s1
  s2.updMem (fun m => ((m.bump 0).bump 1).applyAll (fun _ => true))

/-- The fault record that a launch ends with: for OK all fields but the marks are 0 (16_recovery.md R450). -/
def Launch.faultRec (l : Launch) : FaultRec := l.fault.getD { code := 0, task := 0 }

/-- The launch is gone: dependences on it lapse, and its run for the recall table ends. -/
def State.forgetLaunch (s : State) (lid : Nat) : State :=
  let l := s.launch lid
  let t := s.undepend lid
  let s1 : State := { t with launches := t.launches.del lid }
  match s1.sys.runs.find? l.part with
  | some r => if r.lid = lid then s1.endRun l.part else s1
  | none => s1

/-- DRAIN_CONFIRMED: a check of the agent's idle tree, one of up to 8 at once whose windows are timing alone, has confirmed the
drain of the launch. Its end is declared once every launch that it depends on has ended: what it wrote shows to the host, fault record, then STATUS are written, and its vector
is raised (11_ordering.md R308, 13_scheduling.md R373, R374). -/
def execDrainConfirmed (lid : Nat) (s : State) : Answer :=
  let l := s.launch lid
  let r := if s.tasksEnded lid && (s.launch? lid).isSome then s.runCheck l.server [lid] (s.quiet lid) else (s, false)
  let s := r.1
  if !r.2 || !s.mayEnd lid then .next s
  else
    let f := l.faultRec
    let m := queueMaster l.server l.q l.part l.space
    let s1 := s.settleAll.updMem (fun m => m.publishAll lid)
    let e := l.entry.toNat
    .next (match s1.cpWrites m l.failed [(e + 192, f.bytes l.replays l.nrmark), (e, bytesOf 8 (2 ^ 63 + f.code))] with
      | (t, some tok) => t.updLaunch lid (fun x => { x with tok := some tok })
      | (t, none) =>
        let t1 := (t.updMem (fun m => ((m.bump 0).bump 1).applyAll (fun _ => true))).forgetLaunch lid
        if l.irq then t1.raise (l.part + 1) l.vec else t1)

end Sys2Proof.Machine
end

