-- ==== Sys2Proof/Machine/Sched.lean ====
section
/-! DEFINITION. The cluster scheduler: popping, placing bound groups, carve-out changes, castling, board entry, fairness,
the end of a task and work donation (02_execution.md R43, R53, R55 to R59, R62, 10_memory.md R251, R252,
13_scheduling.md R353 to R369). -/

namespace Sys2Proof.Machine

/-! ## Popping (13_scheduling.md R354) -/

/-- Slots of a core that a record may take now; a continuation whose parent left a reserved slot takes that one, and the slots
reserved for members of bound groups are for them (13_scheduling.md R351). A core that members of a bound group wait for holds no
slot for them (R353). -/
def State.openSlots (s : State) (c : Nat) (q : QRec) : List Nat :=
  match q.slot with
  | some w => if coreOf w = c ∧ (s.warp w).slot = .free then [w] else []
  | none => (s.freeSlots c q.lid (q.initial && !bitAt q.trec.flags 2)).filter (fun w => !(s.launch q.lid).boundSlots.contains w)

/-- The core's size meets a record; a record whose CARVE is out of range fails its check on any core. -/
def State.meetsCarve (s : State) (c : Nat) (q : QRec) : Bool :=
  decide (q.trec.carve = 0) || decide (6 ≤ q.trec.carve) || decide ((s.core c).ways = carveWays q.trec.carve)

/-- A core can take a record that is no member of a bound group (13_scheduling.md R354). -/
def State.canTake (s : State) (q : QRec) (c : Nat) : Bool :=
  s.runs q.lid && !s.isBound q && (s.core c).carves.isEmpty && s.meetsCarve c q && !(s.openSlots c q).isEmpty

/-- The cores of a cluster. -/
def clusterCores (g : Nat) : List Nat := (List.range 16).map (fun i => 16 * g + i)

/-- The core of a list with the fewest resident tasks, the first of several. -/
def State.fewest (s : State) (cs : List Nat) : Option Nat :=
  cs.foldl (fun b c =>
    match b with
    | none => some c
    | some x => if (s.residents c).length < (s.residents x).length then some c else some x) none

/-- What the scheduler does with a record: the core that takes it, or the core that is asked to change its size. -/
inductive PopTo where
  | core (c : Nat)
  | ask (c : Nat)
  deriving DecidableEq, Repr

/-- The cores that a record may come to stand on: one alone where it is tied to a slot that its parent left (13_scheduling.md
R351, R354). -/
def coresFor (g : Nat) (q : QRec) : List Nat :=
  match q.slot with
  | some w => [coreOf w]
  | none => clusterCores g

/-- What becomes of a record of a cluster's queue now, if anything (13_scheduling.md R354). -/
def State.popTo (s : State) (g : Nat) (q : QRec) : Option PopTo :=
  match s.fewest ((clusterCores g).filter (s.canTake q)) with
  | some c => some (.core c)
  | none =>
    if !s.runs q.lid || s.isBound q || (coresFor g q).any (fun c => s.meetsCarve c q) then none
    else (s.fewest ((coresFor g q).filter (fun c => (s.core c).carves.isEmpty))).map PopTo.ask

/-- A record leaves the queue of a cluster. -/
def State.unqueue (s : State) (g : Nat) (q : QRec) : State :=
  s.updCluster g (fun x => { x with queue := x.queue.erase q })

/-- TASK_POP: the oldest record of the agent's cluster that some core can take starts there, or asks a core to change its
size (02_execution.md R43, 13_scheduling.md R354). -/
def execTaskPop (s : State) : Answer :=
  let g := s.cur.clu
  .next (if !s.schedules g then s
    else
      match (s.cluster g).queue.findSome? (fun q => (s.popTo g q).map (fun t => (q, t))) with
      | none => s
      | some (q, .core c) =>
        match s.openSlots c q with
        | w :: _ => (s.unqueue g q).startTask w q
        | [] => s
      | some (q, .ask c) => (s.unqueue g q).requestCarve c (carveWays q.trec.carve) (some q))

/-! ## Bound groups (13_scheduling.md R353) -/

/-- Windows of the given lengths can all be placed beside others. -/
def winsFit (size : Nat) (held : List (Nat × Nat)) : List Nat → Bool
  | [] => true
  | n :: r => (winOffsets size n held).any (fun o => winsFit size (held ++ [(o, n)]) r)

/-- Create the windows of core-bound groups of a launch; which free offset a window takes is a free choice that leaves room
for the others (10_memory.md R248). -/
def State.makeWindows (s : State) (lid : Nat) : List (Nat × Nat × Nat) → State
  | [] => s
  | (g, c, n) :: r =>
    let k := s.core c
    let held := k.wins.map (fun v => (v.off, v.len))
    let later := (r.filter (fun x => decide (x.2.1 = c))).map (fun x => x.2.2)
    let offs := (winOffsets k.spadBytes n held).filter (fun o => winsFit k.spadBytes (held ++ [(o, n)]) later)
    match pickOf (s.tick + g) offs with
    | some o =>
      (s.updCore c (fun k => { k with wins := k.wins ++ [{ lid := lid, grp := g, off := o, len := n }] })).makeWindows lid r
    | none => s.makeWindows lid r

/-- The core that a decision gives a member. -/
def placeOfMember (at_ : List (Nat × Nat)) (q : QRec) : Nat := ((at_.find? (fun x => decide (x.1 = q.id))).map (fun x => x.2)).getD 0

/-- The windows that core-bound groups of a set are to have: group, core and bytes (10_memory.md R248). -/
def Launch.windowsOf (l : Launch) (ks : List Nat) (at_ : List (Nat × Nat)) (ms : List QRec) : List (Nat × Nat × Nat) :=
  ks.filterMap (fun g =>
    let d := l.group g
    if d.place = 1 then
      (ms.find? (fun q => q.trec.groupNos.contains g)).map (fun q => (g, placeOfMember at_ q, 1024 * d.window))
    else none)

/-- What a decision gave its members is still there: slots for all, and room for their windows (02_execution.md R53). -/
def State.stillFits (s : State) (lid : Nat) (ks : List Nat) (at_ : List (Nat × Nat)) (ms : List QRec) : Bool :=
  let wins := (s.launch lid).windowsOf ks at_ ms
  ((at_.map (fun x => x.2)).dedup).all (fun c =>
    let v := s.coreView lid c
    decide ((at_.filter (fun x => decide (x.2 = c))).length ≤ v.free) &&
    winsFit (s.core c).spadBytes v.wins ((wins.filter (fun x => decide (x.2.1 = c))).map (fun x => x.2.2)))

/-- Members enter slots of their cores in ascending task id, and the windows of their core-bound groups are made. -/
def State.enterMembers (s : State) (lid : Nat) (ks : List Nat) (at_ : List (Nat × Nat)) (ms : List QRec) : State :=
  let coreAt := placeOfMember at_
  let wins := (s.launch lid).windowsOf ks at_ ms
  let s0 := { s with clusters := mapVals (fun _ x => { x with queue := x.queue.filter (fun q => !ms.contains q) }) s.clusters }
  let s1 := s0.updLaunch lid (fun l => { l with plan := l.plan.filter (fun x => !ms.any (fun m => decide (m.id = x.1))) })
  ms.foldl (fun s q =>
    if s.runs lid then
      match s.freeSlots (coreAt q) lid true with
      | w :: _ => s.startTask w q
      | [] => s
    else s) (s1.makeWindows lid wins)

/-- The records of bound groups of a launch that stand in queues, by ascending task id. -/
def State.boundRecs (s : State) (lid : Nat) : List QRec :=
  let all := (s.clusters.flatMap (fun p => p.2.queue)).filter (fun q => decide (q.lid = lid) && s.isBound q)
  all.foldr (insertBy (fun a b => decide (a.id ≤ b.id))) []

/-- BOUND_GROUP_PLACEMENT: the group and those it shares members with are placed by one decision; where only a size is
missing, the cores are asked to change it and the members enter once they have; a plan whose requests have all taken effect
without meeting its members, or whose slots others have taken meanwhile, is given up, and the decision made anew
(13_scheduling.md R353, R357; log entry 62). -/
def execBoundGroupPlacement (lid grp : Nat) (s : State) : Answer :=
  let l := s.launch lid
  let recs := s.boundRecs lid
  let ks := closeSet l recs grp
  let ms := recs.filter (fun q => q.trec.groupNos.any ks.contains)
  .next (if !s.runs lid || ms.isEmpty || !(l.group grp).bound then s
    else
      let planned := l.plan.filter (fun x => ms.any (fun q => decide (q.id = x.1)))
      let settled := planned.all (fun x => (s.core x.2).carves.isEmpty)
      let ready := ms.all (fun q => planned.any (fun x => decide (x.1 = q.id) && s.meetsCarve x.2 q)) && s.stillFits lid ks planned ms
      if !planned.isEmpty && !settled then s
      else if !planned.isEmpty && ready then s.enterMembers lid ks planned ms
      else
        let s := if planned.isEmpty then s else s.updLaunch lid (fun l => { l with plan := l.plan.filter (fun x => !planned.contains x) })
        let gs := (s.clustersOf l.part).filter s.schedules
        match findPlace (s.coreView lid) l ms gs ks with
        | none => s
        | some (p, true) => s.enterMembers lid ks p.at_ ms
        | some (p, false) =>
          let s1 := s.updLaunch lid (fun l => { l with plan := l.plan ++ p.at_ })
          ms.foldl (fun s q =>
            match p.at_.find? (fun x => decide (x.1 = q.id)) with
            | some (_, c) =>
              if s.meetsCarve c q || !(s.core c).carves.isEmpty then s else s.requestCarve c (carveWays q.trec.carve) none
            | none => s) s1)

/-! ## Carve-out changes (10_memory.md R252) -/

/-- The conditions of a change hold on a core. -/
def State.mayCarve (s : State) (c : Nat) (r : CarveReq) : Bool :=
  let k := s.core c
  r.residents.isEmpty && k.tiles.isEmpty && k.grants.isEmpty && k.wins.isEmpty && (s.leaseAt c).isNone && !s.lentOut (cluOf c)

/-- CARVE_CHANGE on the agent's core: the oldest request takes effect, the record that waits for the core starts, and the next
request is pending from then on (10_memory.md R252). -/
def execCarveChange (s : State) : Answer :=
  let c := s.cur.core
  .next (match (s.core c).carves with
    | [] => s
    | r :: rest =>
      if !s.mayCarve c r then s
      else
        let s1 := (s.setWays c r.ways).updCore c (fun k => { k with carves := rest })
        let s2 := match r.trec with
          | none => s1
          | some q =>
            match s1.openSlots c q with
            | w :: _ => s1.startTask w q
            | [] => s1.updCluster (cluOf c) (fun x => { x with queue := q :: x.queue })
        s2.updCore c (fun k => { k with carves := match k.carves with
          | [] => []
          | x :: l => { x with residents := s2.residents c } :: l }))

/-! ## Board and reserve (02_execution.md R55 to R59, 13_scheduling.md R361) -/

/-- Slots of a core in a state. -/
def State.slotsIn (s : State) (c : Nat) (st : SlotSt) : List Nat := (s.residents c).filter (fun w => decide ((s.warp w).slot = st))

/-- The slot of a list that has been in its state longest; ties go to the lower number. -/
def State.longest (s : State) (ws : List Nat) : Option Nat :=
  ws.foldl (fun b w =>
    match b with
    | none => some w
    | some x => if (s.warp w).since < (s.warp x).since then some w else some x) none

/-- Board slots of a core that are in use. -/
def State.boardUsed (s : State) (c : Nat) : Nat :=
  ((s.residents c).filter (fun w => (s.warp w).slot = .board || (s.warp w).slot = .boardStalled)).length +
  (match (s.core c).castle with
   | some _ => 1
   | none => 0)

def State.setSlot (s : State) (w : Nat) (st : SlotSt) : State :=
  { s.updWarp w (fun v =>
      if st = .castling then
        { v with slot := st, since := s.clock, dq := [], lanes := mapVals (fun _ l => { l with waitCnt := 0 }) v.lanes }
      else { v with slot := st, since := s.clock }) with
    clock := s.clock + 1 }

/-- The warp is in one of the stalls of 02_execution.md R57. -/
def Warp.stalled (w : Warp) : Bool := w.loadOut || w.waitsLong

/-- CASTLING_THRESHOLD: the agent's warp has a load out for longer than its threshold, so its board slot stalls; with idx 1
the load has returned (02_execution.md R57). -/
def execCastlingThreshold (s : State) : Answer :=
  let w := s.cur.warp
  .next (if !(s.warp w).loadOut then s
    else if s.cur.idx = 1 then
      { s.updWarp w (fun v => ({ v with loadOut := false }).clearStall s.clock) with clock := s.clock + 1 }
    else if (s.warp w).slot = .board then s.setSlot w .boardStalled
    else s)

/-- The second half of a castling or a board entry: the entering slot is on the board, and the leaving one in the reserve,
ready where its stall has cleared (02_execution.md R58, R59). -/
def State.castleEnd (s : State) (c : Nat) (k : Castle) : State :=
  let enter (s : State) : State :=
    if (s.warp k.inn).slot = .castling then
      (s.setSlot k.inn .board).stallIfWaiting k.inn
    else s
  let leave (s : State) : State :=
    match k.out with
    | some w => if (s.warp w).slot = .castling then s.setSlot w (if (s.warp w).stalled then .reserveWaiting else .reserveReady) else s
    | none => s
  enter (leave (s.updCore c (fun x => { x with castle := none })))

/-- CASTLING on the agent's core: it begins with the slot stalled longest and the slot ready longest, and the next event of
the same kind is its end, 16 core cycles later (02_execution.md R58, 13_scheduling.md R361). -/
def execCastling (s : State) : Answer :=
  let c := s.cur.core
  .next (match (s.core c).castle with
    | some k => if k.out.isSome then s.castleEnd c k else s
    | none =>
      match s.longest (s.slotsIn c .boardStalled), s.longest (s.slotsIn c .reserveReady) with
      | some o, some i =>
        ((s.setSlot o .castling).setSlot i .castling).updCore c (fun x => { x with castle := some { out := some o, inn := i } })
      | _, _ => s)

/-- BOARD_ENTRY on the agent's core: the slot ready longest takes a free board slot; the next event of the same kind is its
end (02_execution.md R58, 13_scheduling.md R361). -/
def execBoardEntry (s : State) : Answer :=
  let c := s.cur.core
  .next (match (s.core c).castle with
    | some k => if k.out.isSome then s else s.castleEnd c k
    | none =>
      match s.longest (s.slotsIn c .reserveReady) with
      | some i =>
        if s.boardUsed c < 8 then (s.setSlot i .castling).updCore c (fun x => { x with castle := some { out := none, inn := i } })
        else s
      | none => s)

/-! ## Fairness (13_scheduling.md R364 to R369) -/

/-- The highest wait among lanes. -/
def Warp.groupWait (w : Warp) (is : List Nat) : Nat := is.foldl (fun m i => max m (w.lane i).waitCnt) 0

/-- FAIRNESS_FORCE: the agent's group has waited 64 core cycles and issues next, unless the launch has the promise off
(13_scheduling.md R364, R367, R369). -/
def execFairnessForce (s : State) : Answer :=
  let w := s.cur.warp
  let is := s.execLanes
  .next (if (s.launch (s.warp w).lid).noprog || (s.warp w).groupWait is < 64 || !decide ((s.warp w).slot = .board) then s
    else { s with agenda := { who := { s.cur with strand := false }, what := none } :: s.agenda })

/-- YIELD_WINDOW_END: the windows of the agent's lanes that have run their 32 core cycles, and so rank no more (Lane.yields),
are recorded as ended (13_scheduling.md R368). -/
def execYieldWindowEnd (s : State) : Answer :=
  .next (s.updWarp s.cur.warp (fun v =>
    v.updLanes s.execLanes (fun _ l => if l.yieldLeft = 1 then { l with yieldLeft := 0 } else l)))

/-! ## The end of a task -/

/-- TASK_END (02_execution.md R61, R62). -/
def execTaskEnd (s : State) : Answer := .next (s.taskEnd s.cur.warp)

/-! ## Work donation (13_scheduling.md R358 to R360) -/

/-- A cluster is idle (13_scheduling.md R358). -/
def State.idle (s : State) (g : Nat) : Bool :=
  !(s.cluster g).queue.any (fun q => (clusterCores g).any (s.canTake q)) &&
  (clusterCores g).any (fun c => (s.core c).carves.isEmpty && (List.range 16).any (fun k => decide ((s.warp (16 * c + k)).slot = .free)))

def absDiff (a b : Nat) : Nat := max a b - min a b

/-- Distance of two clusters of a die in its 8 × 8 grid (01_machine.md R17, 13_scheduling.md R358). -/
def gridDistance (a b : Nat) : Nat := absDiff (a % 64 / 8) (b % 64 / 8) + absDiff (a % 8) (b % 8)

/-- The victims of a steal round, in order (13_scheduling.md R358). -/
def State.victims (s : State) (g : Nat) : List Nat :=
  match s.cpart g with
  | none => []
  | some p =>
    let cs := (s.clustersOf p).filter (fun x => !decide (x = g) && !s.sys.off (dieOf x))
    ((List.range 15).flatMap (fun d => cs.filter (fun x => decide (dieOf x = dieOf g) && decide (gridDistance x g = d)))) ++
      cs.filter (fun x => !decide (dieOf x = dieOf g))

/-- STEAL_REQUEST: the agent's cluster, idle, asks its next victim; one that is no longer idle stops (13_scheduling.md
R358). -/
def execStealRequest (s : State) : Answer :=
  let g := s.cur.clu
  let c := s.cluster g
  let ask (vs : List Nat) (found : Bool) : State :=
    match vs with
    | v :: r => s.updCluster g (fun x => { x with steal := .asking r found, asked := some v })
    | [] => s
  .next (if c.asked.isSome then s
    else if !s.schedules g || !s.idle g then s.updCluster g (fun x => { x with steal := .idle })
    else
      match c.steal with
      | .idle => ask (s.victims g) false
      | .asking vs found => ask vs found
      | .backoff => s)

/-- Records that a victim ships to a thief: up to 8 from the young end, in their order; none of a bound group, and no continuation
tied to a reserved slot of its cluster (13_scheduling.md R351, R359; log entry 63). -/
def State.shipped (s : State) (thief victim : Nat) : List QRec :=
  let fit (q : QRec) : Bool :=
    !q.trec.noSteal && s.runs q.lid && !s.isBound q && q.slot.isNone &&
    (decide (q.trec.carve = 0) || (clusterCores thief).any (fun c => decide ((s.core c).ways = carveWays q.trec.carve)))
  let l := (s.cluster victim).queue.filter fit
  l.drop (l.length - 8)

/-- STEAL_ANSWER: the victim that the agent's cluster has asked ships records; a round that found none is followed by a
wait (13_scheduling.md R358, R359). -/
def execStealAnswer (s : State) : Answer :=
  let g := s.cur.clu
  .next (match (s.cluster g).asked with
    | none => s
    | some v =>
      let qs := s.shipped g v
      let s1 := qs.foldl (fun s q => if s.runs q.lid then (s.unqueue v q).enqueue g q { task := q.id } else s) s
      s1.updCluster g (fun x =>
        { x with asked := none
                 steal := (match x.steal with
                   | .asking [] found => if found || !qs.isEmpty then Steal.idle else Steal.backoff
                   | .asking r found => Steal.asking r (found || !qs.isEmpty)
                   | y => y) }))

/-- STEAL_BACKOFF: the 4,096 fabric cycles after a fruitless round are over (13_scheduling.md R358). -/
def execStealBackoff (s : State) : Answer :=
  .next (if (s.cluster s.cur.clu).steal = .backoff then s.updCluster s.cur.clu (fun x => { x with steal := .idle }) else s)

end Sys2Proof.Machine
end

