-- ==== Sys2Proof/Machine/SysReg.lean ====
section
/-! DEFINITION. The special registers, rdsr and wrsr, and esc (17_system_instr.md R473 to R482, R486). -/

namespace Sys2Proof.Machine

/-- A special register (17_system_instr.md R474). -/
inductive SpReg where
  | cyc | chk | stk | mrow | q7st | tvec | tcode | tpc | tmask | syn | unit | tr | tc | taskId | launch | core | clu | die
  | win (k : Nat) | dlm
  deriving DecidableEq, Repr

/-- The register of a number, and whether the number names its high half (17_system_instr.md R474, R475). -/
def spReg (n : Nat) : Option (SpReg × Bool) :=
  match n with
  | 0x000 => some (.cyc, false)
  | 0x001 => some (.cyc, true)
  | 0x008 => some (.chk, false)
  | 0x010 => some (.stk, false)
  | 0x018 => some (.mrow, false)
  | 0x019 => some (.mrow, true)
  | 0x020 => some (.q7st, false)
  | 0x021 => some (.q7st, true)
  | 0x040 => some (.tvec, false)
  | 0x041 => some (.tvec, true)
  | 0x048 => some (.tcode, false)
  | 0x049 => some (.tpc, false)
  | 0x04A => some (.tpc, true)
  | 0x04B => some (.tmask, false)
  | 0x050 => some (.syn, false)
  | 0x051 => some (.syn, true)
  | 0x052 => some (.unit, false)
  | 0x053 => some (.tr, false)
  | 0x054 => some (.tc, false)
  | 0x080 => some (.taskId, false)
  | 0x081 => some (.launch, false)
  | 0x082 => some (.core, false)
  | 0x083 => some (.clu, false)
  | 0x084 => some (.die, false)
  | 0x088 => some (.win 0, false)
  | 0x089 => some (.win 1, false)
  | 0x08A => some (.win 2, false)
  | 0x08B => some (.win 3, false)
  | 0x090 => some (.dlm, false)
  | 0x091 => some (.dlm, true)
  | _ => none

/-- A register of 64 bits. -/
def SpReg.wide : SpReg → Bool
  | .cyc | .mrow | .q7st | .tvec | .tpc | .syn | .dlm => true
  | _ => false

/-- Missed-deadline counter of a requester id on a channel of a stack (10_memory.md R267, R276). -/
def missReg (stack chan id : Nat) : Nat := baseBlk stack (0x00200000 + 0x1000 * chan + 4 * id)

def State.missCount (s : State) (stack chan id : Nat) : Nat :=
  let a := missReg stack chan id
  field (s.reg (a / 8 * 8)) (if a % 8 = 0 then 31 else 63) (if a % 8 = 0 then 0 else 32)

/-- Sum of a requester's counters over every channel of the package, saturating (17_system_instr.md R481). -/
def State.missTotal (s : State) (id : Nat) : Nat :=
  min 0xFFFFFFFF ((List.range 12).foldl (fun t k =>
    (List.range 64).foldl (fun t c => t + s.missCount k c id) t) 0)

/-- Window offset of the core-bound group in slot K (10_memory.md R248). -/
def State.winOffset (s : State) (w k : Nat) : Nat :=
  let wp := s.warp w
  match wp.trec.group? k with
  | none => 0xFFFFFFFF
  | some g =>
    match (s.core (coreOf w)).wins.find? (fun v => decide (v.lid = wp.lid) && decide (v.grp = g)) with
    | some v => if ((s.launch wp.lid).group g).place = 1 then v.off else 0xFFFFFFFF
    | none => 0xFFFFFFFF

/-- The value of a register as seen from a lane (17_system_instr.md R473 to R481). -/
def State.spVal (s : State) (w i : Nat) (r : SpReg) : Word64 :=
  let wp := s.warp w
  let l := wp.lane i
  let g := warpClu w
  match r with
  | .cyc => (s.core (coreOf w)).cyc
  | .chk => if wp.seenChk s.cur.second then 1 else 0
  | .stk => (wp.seenStk s.cur.second).setWidth 64
  | .mrow => wp.mrow
  | .q7st => wp.q7st
  | .tvec => wp.seenTvec s.cur.second
  | .tcode => l.trapCode.setWidth 64
  | .tpc => l.trapPc
  | .tmask => l.trapMask.setWidth 64
  | .syn => l.errSyn
  | .unit => l.errUnit.setWidth 64
  | .tr => l.errTr.setWidth 64
  | .tc => l.errTc.setWidth 64
  | .taskId => BitVec.ofNat 64 wp.taskId
  | .launch => BitVec.ofNat 64 wp.lid
  | .core => BitVec.ofNat 64 (coreOf w % 16)
  | .clu => BitVec.ofNat 64 (g % 64)
  | .die => BitVec.ofNat 64 (dieOf g)
  | .win k => BitVec.ofNat 64 (s.winOffset w k)
  | .dlm => BitVec.ofNat 64 (s.missTotal (128 + g) * 2 ^ 32 + s.missTotal g)

/-- Bits [55:2], the writable bits of sys.tvec and trap.pc (17_system_instr.md R474). -/
def pcBits : Word64 := 0x00FFFFFFFFFFFFFC

/-- Write a 32-bit half of a 64-bit value. -/
def putHalf (old : Word64) (hi : Bool) (v : Word) : Word64 :=
  if hi then v ++ old.setWidth 32 else (old.extractLsb' 32 32 : Word) ++ v

/-- Write a task's register with 64 bits; a register marked RO keeps its value (17_system_instr.md R473 to R478). -/
def State.spWrite (s : State) (w : Nat) (r : SpReg) (v : Word64) : State :=
  match r with
  | .chk => if (s.launch (s.warp w).lid).check then s else s.updWarp w (fun x => { x with chk := bitAt v 0 })
  | .stk => s.updWarp w (fun x => { x with stk := v.setWidth 32 &&& 0x7FF })
  | .tvec => s.updWarp w (fun x => { x with tvec := v &&& pcBits })
  | _ => s

/-- Each executing lane reads a special register (17_system_instr.md R475, R482). -/
def execRdsr (n : Stall) (d : Dst) (r : BitVec 10) (s : State) : Answer :=
  laneOp n 4 1 (0, 0) (fun _ => [])
    (fun v =>
      match spReg r.toNat with
      | none => .trapped 0x01
      | some (p, hi) =>
        let x := s.spVal s.cur.warp v.i p
        let top : Word := x.extractLsb' 32 32
        if hi then .val d (v.ln.latch.getD top)
        else { d := some (d, x.setWidth 32), latch := if p.wide then some top else none }) s

/-- The executing lanes write a special register: a lane's own copy each, any other copy from the highest-indexed lane
(17_system_instr.md R475, R482). -/
def execWrsr (n : Stall) (d : Src) (r : BitVec 10) (s : State) : Answer :=
  match spReg r.toNat with
  | none => laneOp n 4 0 (0, 0) (fun _ => srcRes d) (fun _ => .trapped 0x01) s
  | some (p, hi) =>
    match laneOp n 4 0 (0, 0) (fun _ => srcRes d) (fun _ => {}) s with
    | .next t =>
      let is := s.execLanes.filter (fun i => (s.laneCheck (0, 0) (fun _ => srcRes d) i).isNone)
      let val (i : Nat) : Word := (s.view i).src 0 d
      .next (match p with
        | .tpc => t.updWarp s.cur.warp (fun w => w.updLanes is (fun i l =>
            { l with trapPc := putHalf l.trapPc hi (val i) &&& pcBits }))
        | _ =>
          match is.getLast? with
          | none => t
          | some j => t.spWrite s.cur.warp p (putHalf (s.alone.spVal s.cur.warp j p) hi (val j)))
    | q => q

/-- s[D] := a special register; a lane copy from the lowest-indexed live lane (17_system_instr.md R475, R482). -/
def execRdsrUniform (n : Stall) (d : BitVec 6) (r : BitVec 10) (s : State) : Answer :=
  strandOp (0, 0) [] (fun s =>
    let w := s.cur.warp
    match spReg r.toNat with
    | none => s.strandTrap w 0x01 (s.warp w).spc
    | some (p, hi) =>
      let x := s.spVal w ((lanesOf (s.warp w).live).headD 0) p
      s.putS n.toNat 4 0 d.toNat (if hi then x >>> 32 else x)) s

/-- A special register := s[S]; a lane copy in every live lane (17_system_instr.md R475, R482). -/
def execWrsrUniform (n : Stall) (d : BitVec 6) (r : BitVec 10) (s : State) : Answer :=
  strandOp (0, 0) [d.toNat] (fun s =>
    let w := s.cur.warp
    let v := s.sval w 0 d.toNat
    match spReg r.toNat with
    | none => s.strandTrap w 0x01 (s.warp w).spc
    | some (p, hi) =>
      let new (old : Word64) : Word64 :=
        if hi then putHalf old true (v.setWidth 32) else if p.wide then v else v.setWidth 32 |>.setWidth 64
      let s1 := s.passU n.toNat 4
      match p with
      | .tpc => s1.updWarp w (fun x => x.updLanes (lanesOf x.live) (fun _ l =>
          { l with trapPc := new l.trapPc &&& pcBits }))
      | _ => s1.spWrite w p (new (s.alone.spVal w 0 p))) s

/-- The executing lanes halt, and the launch is killed and rolled back as if it had consumed an error
(17_system_instr.md R486, 16_recovery.md R467). -/
def execEsc (n : Stall) (g : BitVec 8) (s : State) : Answer :=
  let w := s.cur.warp
  let wp := s.warp w
  match laneOp n 4 0 (0, 0) (fun _ => []) (fun _ => { hold := some .esc }) s with
  | .next t => .next (t.beginRollback wp.lid
      { code := 0x0C, task := wp.taskId, where_ := coreOf w, escr := g.toNat })
  | q => q

end Sys2Proof.Machine
end

