-- ==== Sys2Proof/Machine/Mover.lean ====
section
/-! DEFINITION. What memory does on its own: synchronisation engines, ferries, arbiters, channels, write-back, the strait,
translation misses, walks, invalidation and the answers to translation faults (10_memory.md R256 to R259, R272 to R276,
11_ordering.md R288, R296 to R298, 13_scheduling.md R375 to R377, 15_isolation.md R419 to R423, 16_recovery.md R439, R463). -/

namespace Sys2Proof.Machine

/-! ## Snapshots and errors -/

/-- SNAPSHOT_COPY: the page is copied before a running launch first writes it (16_recovery.md R463, R464). -/
def execSnapshotCopy (lid page : Nat) (s : State) : Answer := .next (if s.runs lid then s.snapshot lid page else s)

/-- ERROR_CONSUMED: an access of a running launch meets an uncorrectable error in memory: it is consumed, except in a clean fast copy,
whose slot is then invalid (16_recovery.md R439, R466). -/
def execErrorConsumed (lid addr : Nat) (s : State) : Answer :=
  .next (if s.runs lid && !s.hole addr && decide (quarter addr < 2) then
      let a := canonPa addr
      let sec := s.mem.standsAt a / 32
      let r := (s.updMem (fun m => { m with bad := sec :: m.bad.filter (fun x => !decide (x = sec)) })).meetsBad a 1
      if r.2 then r.1.consume (some lid) (a / 32 * 32) 0 (1024 * homeOf a) else r.1
    else s)

/-! ## Synchronisation engines (11_ordering.md R296 to R299) -/

/-- SYNC_ENGINE_ATOMIC: the oldest atomic that no lane waits for is performed (12_memory_instr.md R317, R318). -/
def execSyncEngineAtomic (s : State) : Answer := .next s.syncOne

/-- SYNC_OVERFLOW_MOVE: while the SRAM of the die's engine is full, a granule in it moves to the overflow area, or, where that is
full or of size 0, the least recently used granule to its own address; a granule in the overflow area that is accessed comes
back by itself (11_ordering.md R298, R299). -/
def execSyncOverflowMove (die granule : Nat) (s : State) : Answer :=
  .next (match s.mem.granules.find? granule with
    | none => s
    | some g =>
      if homeOf (8 * granule) ≠ die ∨ (s.mem.inSram die).length < syncRoom then s
      else if (s.mem.inArea die).length < s.overflowRoom die then
        (if g.area.isSome then s else s.toOverflow die granule)
      else if oldestOf (s.mem.inSram die ++ s.mem.inArea die) = some granule then s.updMem (fun m => m.giveUp (8 * granule))
      else s)

/-! ## Ferries (10_memory.md R258, R259) -/

/-- FERRY_VISIT: the ferry of slice idx of the agent's die visits the next cluster, which sends up to 4 lines. -/
def execFerryVisit (s : State) : Answer :=
  let k := 128 * s.cur.die + s.cur.idx % 128
  .next (s.updMem (fun m =>
    let c := m.ferry.get 0 k
    let p := 64 * k + c
    { m with ferry := m.ferry.set k ((c + 1) % 64), toSlice := m.toSlice.set p ((m.toSlice.get [] p).drop 4) }))

/-- RETURN_VISIT: the token of the agent's cluster visits the next slice, which returns up to 2 lines. -/
def execReturnVisit (s : State) : Answer :=
  let g := s.cur.clu
  .next (s.updMem (fun m =>
    let k := m.token.get 0 g
    let p := 64 * (128 * dieOf g + k) + g % 64
    { m with token := m.token.set g ((k + 1) % 128), toClu := m.toClu.set p ((m.toClu.get [] p).drop 2) }))

/-! ## Arbiters (13_scheduling.md R375 to R377) -/

/-- Address of the budget register of a cluster at an arbiter (15_isolation.md R427). -/
def budgetReg (a g : Nat) : Nat := arbBlk a (8 * g)

/-- A request goes on to its channel. -/
def Mem.pass (m : Mem) (r : ArbReq) : Mem := m.toChan r.pa r.req

/-- A holdable request passes an arbiter whose count for its cluster is c and whose budget is u bytes. -/
def mayPass (u c bytes : Nat) : Bool := decide (u = 0) || decide (c = 0) || decide (c + bytes ≤ u)

/-- An arbiter handles one request: it passes and is counted, or is held (13_scheduling.md R376). -/
def State.arbitrate (s : State) (a : Nat) (r : ArbReq) : State :=
  let b := s.mem.arbs.get Arb.dflt a
  let u := 128 * field (s.reg (budgetReg a r.clu)) 31 0
  let c := b.counts.get 0 r.clu
  if !r.holdable || mayPass u c r.bytes then
    s.updMem (fun m => ({ m with arbs := m.arbs.set a { b with counts := b.counts.set r.clu (c + r.bytes) } }).pass r)
  else s.updMem (fun m => { m with arbs := m.arbs.set a { b with held := b.held ++ [r] } })

/-- ARBITER_REQUEST: arbiter idx handles its oldest request. -/
def execArbiterRequest (s : State) : Answer :=
  let a := s.cur.idx
  let b := s.mem.arbs.get Arb.dflt a
  .next (match b.arriving with
    | [] => s
    | r :: rest => (s.updMem (fun m => { m with arbs := m.arbs.set a { b with arriving := rest } })).arbitrate a r)

/-- METERING_INTERVAL: HELDN of the clusters with a held request counts on, counts return to 0, and held requests pass,
oldest first, under the same rule (13_scheduling.md R376, R377). -/
def execMeteringInterval (s : State) : Answer :=
  let a := s.cur.idx
  let b := s.mem.arbs.get Arb.dflt a
  let s1 := (b.held.map (fun r => r.clu)).dedup.foldl (fun s g =>
    let v := s.reg (budgetReg a g)
    let n := field v 55 32
    s.setReg (budgetReg a g) (BitVec.ofNat 64 (v.toNat - n * 2 ^ 32 + min (n + 1) 0xFFFFFF * 2 ^ 32))) s
  .next (b.held.foldl (fun s r => s.arbitrate a r)
    (s1.updMem (fun m => { m with arbs := m.arbs.set a { b with counts := [], held := [] } })))

/-! ## Channels (10_memory.md R273 to R276) -/

/-- Deadline of a request that arrives in a channel cycle: 0.64 ns are 16 / 25 ns (10_memory.md R273). -/
def deadline (cyc slackNs : Nat) : Nat := cyc + (25 * slackNs + 15) / 16

/-- Channel cycles from arrival within which a request is served: n accesses and m bank operations of the channel come in
between (21_prog_segments.md R504). -/
def serviceBound (n m : Nat) : Nat := 96 * (n + 1) + 100 * m

/-- A request is served in time in a cycle (21_prog_segments.md R504). -/
def ChanReq.inTime (r : ChanReq) (cyc : Nat) : Bool :=
  match r.arrived with
  | some (a, _) => decide (cyc ≤ a + serviceBound r.passed r.bankOps)
  | none => true

/-- One request comes before another in the channel's choice in a cycle; one that has waited 4,096 cycles counts as class 0
(10_memory.md R274). -/
def ChanReq.before (cyc : Nat) (x y : ChanReq) : Bool :=
  let arr (r : ChanReq) : Nat := (r.arrived.getD (0, 0)).1
  let due (r : ChanReq) : Nat := (r.arrived.getD (0, 0)).2
  let cls (r : ChanReq) : Nat := if r.aged || decide (arr r + 4096 ≤ cyc) then 0 else r.cls
  decide (cls x < cls y) || (decide (cls x = cls y) &&
    (decide (due x < due y) || (decide (due x = due y) &&
      (decide (arr x < arr y) || (decide (arr x = arr y) && decide (x.id < y.id))))))

/-- The request that the channel serves in a cycle, among those whose bank is not occupied by an operation of R271
(10_memory.md R271, R274). -/
def Chan.choice (c : Chan) (cyc : Nat) : Option ChanReq :=
  (c.reqs.filter (fun r => r.arrived.isSome && decide (c.busy.get 0 r.bank ≤ cyc))).foldl (fun b r =>
    match b with
    | none => some r
    | some x => if r.before cyc x then some r else some x) none

/-- A request that the channel has served is gone, and counts for those that wait (21_prog_segments.md R504). -/
def Chan.served (c : Chan) (r : ChanReq) : Chan :=
  { c with reqs := (c.reqs.erase r).map (fun q => if q.arrived.isSome then { q with passed := q.passed + 1 } else q) }

/-- The requests that have arrived can all be served in time from a cycle on, one a cycle and each as soon as a bank accepts it. -/
def allServed : Nat → Chan → Nat → Bool
  | 0, _, _ => true
  | n + 1, c, cyc =>
    let waiting := c.reqs.filter (fun r => r.arrived.isSome)
    let free (r : ChanReq) : Nat := max cyc (c.busy.get 0 r.bank)
    match waiting with
    | [] => true
    | x :: l =>
      let t := l.foldl (fun t r => min t (free r)) (free x)
      match c.choice t with
      | none => false
      | some r => r.inTime t && allServed n (c.served r) (t + 1)

/-- Bank operations that a channel has still to perform in a cycle, each of 100 cycles (10_memory.md R271). -/
def Chan.opsLeft (c : Chan) (cyc : Nat) : Nat := (c.busy.map (fun b => (b.2 - cyc + 99) / 100)).foldl (· + ·) 0

/-- A request arrives at its channel. -/
def ChanReq.arrive (r : ChanReq) (c : Chan) (cyc : Nat) : ChanReq :=
  { r with arrived := some (cyc, deadline cyc r.slackNs), bankOps := c.opsLeft cyc }

/-- The cycle may be the channel's next: none has gone by it, and the requests that wait can still be served in time, as they are or
with those that are under way and arrive then (21_prog_segments.md R504). -/
def Chan.mayBe (c : Chan) (cyc : Nat) : Bool :=
  decide (c.now ≤ cyc) && (allServed c.reqs.length c cyc ||
    allServed c.reqs.length { c with reqs := c.reqs.map (fun r => if r.arrived.isSome then r else r.arrive c cyc) } cyc)

/-- CHANNEL_ARRIVAL: the oldest request under way to the channel arrives. -/
def execChannelArrival (stack chan cyc : Nat) (s : State) : Answer :=
  let c := s.mem.chan stack chan
  .next (match c.reqs.findIdx? (fun r => r.arrived.isNone) with
    | none => s
    | some i =>
      if !c.mayBe cyc then s
      else s.updMem (fun m => m.setChan stack chan { c with now := cyc, reqs := c.reqs.modify i (fun r => r.arrive c cyc) }))

/-- Number of the row-buffer counter of a bank and row (10_memory.md R275). -/
def rowCounter (bank row : Nat) : Nat := 16 * bank + ((row % 16) ^^^ (row / 16 % 16) ^^^ (row / 256 % 16) ^^^ (row / 4096 % 4))

/-- The row-buffer predictor after an access (10_memory.md R275). -/
def Chan.predict (c : Chan) (bank row : Nat) : Chan :=
  let p1 := match c.lastRow.find? bank with
    | some r =>
      let k := rowCounter bank r
      let v := c.pred.get 1 k
      c.pred.set k (if r = row then min 3 (v + 1) else v - 1)
    | none => c.pred
  { c with pred := p1, lastRow := c.lastRow.set bank row,
           open_ := if 2 ≤ p1.get 1 (rowCounter bank row) then c.open_.set bank row else c.open_.del bank }

/-- A requester's missed deadlines count on, saturating (10_memory.md R276). -/
def State.miss (s : State) (stack chan id : Nat) : State :=
  let a := missReg stack chan id
  let n := s.missCount stack chan id
  let v := s.reg (a / 8 * 8)
  let w := if a % 8 = 0 then 1 else 2 ^ 32
  if n < 0xFFFFFFFF then s.setReg (a / 8 * 8) (BitVec.ofNat 64 (v.toNat + w)) else s

/-- CHANNEL_SERVICE: the channel performs the request of its choice in a cycle, its one of that cycle, where every other can still be
served in time (10_memory.md R274 to R276, 21_prog_segments.md R504). -/
def execChannelService (stack chan cyc : Nat) (s : State) : Answer :=
  let c := s.mem.chan stack chan
  .next (match c.choice cyc with
    | none => s
    | some r =>
      let d := c.served r
      if !decide (c.now ≤ cyc) || !r.inTime cyc || !d.mayBe (cyc + 1) then s
      else
        let s1 := s.updMem (fun m => m.setChan stack chan ({ d with now := cyc + 1 }.predict r.bank r.row))
        if (r.arrived.getD (0, 0)).2 < cyc then s1.miss stack chan r.id else s1)

/-- AGE_PROMOTION: requests that have waited 4,096 channel cycles count as class 0 (10_memory.md R274). -/
def execAgePromotion (stack chan cyc : Nat) (s : State) : Answer :=
  let c := s.mem.chan stack chan
  let old (r : ChanReq) : Bool :=
    match r.arrived with
    | some (a, _) => decide (a + 4096 ≤ cyc)
    | none => false
  .next (if c.mayBe cyc && c.reqs.any (fun r => old r && !r.aged) then
      s.updMem (fun m => m.setChan stack chan { c with now := cyc, reqs := c.reqs.map (fun r => if old r then { r with aged := true } else r) })
    else s)

/-! ## Write-back and the strait -/

/-- L2_WRITEBACK: the home die writes a dirty line back; its request is neither counted nor held (10_memory.md R256, R272,
13_scheduling.md R375). -/
def execL2Writeback (die line : Nat) (s : State) : Answer :=
  .next (if homeOf (128 * line) ≠ die then s else s.updMem (fun m => m.writeBack line))

/-- REMOTE_WRITE_APPLY: the die applies the write at a place of the strait, where its order allows it; the parts of a tile-record
write arrive together (06_square_tiles.md R142, 11_ordering.md R284, R288). -/
def execRemoteWriteApply (die idx : Nat) (s : State) : Answer :=
  .next (match s.mem.strait[idx]? with
    | none => s
    | some g =>
      if g.src ≠ die ∧ s.mem.mayApply idx then s.updMem (fun m => m.arriveAt idx) else s)

/-! ## Walks and invalidation (15_isolation.md R422, R423) -/

/-- TLB_MISS: a miss for the agent's warp merges with a pending walk or enters the table (15_isolation.md R422). -/
def execTlbMiss (die space va : Nat) (s : State) : Answer :=
  let w := s.cur.warp
  let m := { s.strandMaster w with die := die, space := space, part := space / 16,
                                   lid := if (s.warp w).resident then some (s.warp w).lid else none }
  .next (if 256 ≤ space ∨ 2 ^ 56 ≤ va ∨ (s.tlbFor m va).isSome then s
    else
      s.addWalk die { space := space, va := va, m := m, kind := 0 })

/-- WALK: the oldest pending walk of the agent's die ends (15_isolation.md R418, R422). -/
def execWalk (s : State) : Answer := .next (s.endWalk s.cur.die)

/-- An invalidation starts on both dies, beside those that run: the named translations are gone from every TLB, and DONE of the
register's die reads 0
(15_isolation.md R423). -/
def State.invalidate (s : State) (die : Nat) (v : BitVec 64) (mode : Nat) (gone : TlbEnt → Bool) : State :=
  if field v 62 61 ≠ mode then s
  else
    { s.updMem (fun m => { m with tlb := m.tlb.filter (fun e => !gone e),
                                  tlbs := mapVals (fun _ l => l.filter (fun e => !gone e)) m.tlbs }) with
      sys := { s.sys with inv := s.sys.inv.set die (s.sys.inv.get [] die ++ [v.toNat % 2 ^ 63]) } }

/-- INV_ALL. -/
def execInvAll (die : Nat) (v : BitVec 64) (s : State) : Answer :=
  .next (s.dieReady die (s.invalidate die v 0 (fun _ => true)))

/-- INV_SPACE. -/
def execInvSpace (die : Nat) (v : BitVec 64) (s : State) : Answer :=
  .next (s.dieReady die (s.invalidate die v 1 (fun e => decide (e.space = field v 60 53))))

/-- INV_PAGES: a page of any size that overlaps the range counts as named. -/
def execInvPages (die : Nat) (v : BitVec 64) (s : State) : Answer :=
  let lo := field v 39 0
  let n := if field v 52 40 = 0 then 1 else field v 52 40
  .next (s.dieReady die (s.invalidate die v 2 (fun e =>
    decide (e.space = field v 60 53) && extentsMeet lo n (e.vpage * 2 ^ (e.bits - 16)) (2 ^ (e.bits - 16)))))

/-- A translation in an address space may be one that an INV value names; a page of any size that overlaps a range is named, so
every page of the space counts. -/
def invNames (v space : Nat) : Bool := decide (v / 2 ^ 61 % 4 = 0) || decide (v / 2 ^ 53 % 256 = space)

/-- An access that has been translated and is still to be performed used a translation that an INV value may name: a red, a
promotion or a demotion in its queue, also in one that a saved context holds, or an atomic that no lane waits for. -/
def State.stillUsed (s : State) (v : Nat) : Bool :=
  let waits (w : Warp) : Bool := invNames v w.space && w.queues.any (fun q => decide (6 ≤ q.1) && !q.2.isEmpty)
  s.warps.any (fun p => waits p.2) || s.contexts.any (fun x => x.tasks.any (fun t => waits t.warp)) ||
  s.mem.syncReqs.any (fun r => invNames v r.m.space)

/-- INV_DONE on the agent's die: DONE reads 1 once every access that used a translation which any write since DONE read 1 has named has
been performed (15_isolation.md R423). -/
def execInvDone (s : State) : Answer :=
  .next (match s.sys.inv.find? s.cur.die with
    | none => s
    | some vs => if vs.any s.stillUsed then s else { s with sys := { s.sys with inv := s.sys.inv.del s.cur.die } })

/-! ## The answers to translation faults (15_isolation.md R419, 09_tensor_instr.md R213, R243) -/

/-- Launches whose command processor waits on a token look again; on a failure the page counts as failed for them. -/
def State.answerLaunches (s : State) (tok : Nat) (page : Option (Nat × Nat)) : State :=
  { s with launches := mapVals (fun _ l =>
      if l.tok = some tok then { l with tok := none, failed := page.toList ++ l.failed } else l) s.launches }

/-- FRESP_RETRY: every access that waits on the token walks again. -/
def execFrespRetry (part token : Nat) (s : State) : Answer :=
  .next (s.whenReady <| if s.faults.any (fun f => decide (f.tok = token) && decide (f.part = part)) then
      ((s.answerFault part token false).answerCounters token false).answerLaunches token none
    else s)

/-- Engine operations that wait on a token. -/
def State.opsWaiting (s : State) (tok : Nat) : List EngOp :=
  (s.warps.flatMap (fun p => p.2.queues.flatMap (fun q => q.2)) ++ s.cores.flatMap (fun p => p.2.q0) ++
    s.clusters.flatMap (fun p => p.2.leases.flatMap (fun l => l.q0))).filter (fun o => decide (o.tok = some tok))

/-- The element, record or row at which an operation stopped (09_tensor_instr.md R212, R243). -/
def EngOp.stopIndex (o : EngOp) : Nat := if o.kind = .mma then o.row else o.seq

/-- An operation stops with XFAULT: its status word is written where its page has not failed (09_tensor_instr.md R213). -/
def State.failOp (s : State) (o : EngOp) (page : Nat × Nat) : State :=
  let m := s.opMaster o
  if (m.space, o.block.toNat / 65536) = page ∨ o.st = .performed then s
  else
    match (s.updMem (fun x => x.bump m.die)).engPut m o.block.toNat 8
        ({ o with code := 0x0A, info := o.stopIndex } : EngOp).statusWord with
    | (t, .val _ _) => t.updMem (fun x => x.publish (o.lid, 64 * o.taskId + 33 + o.q))
    | (t, _) => t

/-- FRESP_FAIL: every access that waits on the token fails; an engine operation stops with XFAULT, and its launch ends with
a record of that status (15_isolation.md R419). -/
def execFrespFail (part token : Nat) (s : State) : Answer :=
  .next (s.whenReady <| match s.faults.find? (fun f => decide (f.tok = token) && decide (f.part = part)) with
    | none => s
    | some f =>
      let page := (f.space, f.va / 65536)
      let ops := s.opsWaiting token
      let s1 := ((s.answerFault part token true).answerCounters token true).answerLaunches token (some page)
      let s2 := ops.foldl (fun s o => s.failOp o page) s1
      ops.foldl (fun s o => if s.runs o.lid then
          s.endLaunch o.lid { code := 0x0A, task := o.taskId, where_ := coreOf o.warp, addr := f.va } else s) s2)

end Sys2Proof.Machine
end

