-- ==== Sys2Proof/Machine/Recover.lean ====
section
/-! DEFINITION. Rollback, killing, the revocation of leases, and the end of a freeze (16_recovery.md R460, R461, R463 to
R468, 15_isolation.md R415, 08_bonds.md R199). -/

namespace Sys2Proof.Machine

/-! ## Restoring pages (16_recovery.md R466 steps 3 and 4) -/

/-- Everything that caches or carries bytes of a page is dropped. -/
def State.dropPage (s : State) (page : Nat) : State :=
  { s.updMem (fun m =>
      { m with l2 := m.l2.filter (fun p => !decide (p.1 % 2 ^ 41 / 512 = page))
               strait := m.strait.filter (fun g => !decide (g.line / 512 = page))
               granules := m.granules.filter (fun p => !decide (p.1 / 8192 = page))
               unseen := m.unseen.filter (fun u => !decide (u.line / 512 = page)) }) with
    cores := mapVals (fun _ c => { c with l1 := c.l1.filter (fun p => !decide (p.1 / 512 = page)) }) s.cores }

/-- A page is restored from a frame: written whole through its home slices, with guest copies invalidated. -/
def State.restorePage (s : State) (page frame : Nat) : State :=
  let s1 := (List.range 512).foldl (fun s k => s.mendSectors (512 * page + k) (BitVec.allOnes 128)) (s.dropPage page)
  s1.updMem (fun m => copyUp m frame (65536 * page) 65536)

/-- The earliest snapshot of each page that launches of a set have taken. -/
def State.earliest (s : State) (ls : List Nat) : List (Nat × Nat × Nat) :=
  let all := ls.flatMap (fun k => (s.launch k).snaps)
  all.filter (fun x => all.all (fun y => !decide (y.1 = x.1) || decide (x.2.2 ≤ y.2.2)))

/-- A frame of the pool holds an uncorrectable error. -/
def State.frameBad (s : State) (frame : Nat) : Bool :=
  s.mem.bad.any (fun x => decide (frame / 32 ≤ x) && decide (x < frame / 32 + 2048))

/-- What becomes of a launch of the set once its pages are restored (16_recovery.md R466 step 5). -/
def Launch.afterRoll (l : Launch) (bad : Bool) : Launch :=
  let free : Launch := { l with snaps := [], wrote := [], deps := [], roll := false }
  let close (code : Nat) : Launch := { free with st := .ended, fault := some { l.fault.getD {} with code := code } }
  if l.st = .ended then free
  else if bad || decide (3 ≤ l.replays) then close 0x0C
  else if l.nrepl then close 0x0D
  else free

/-- ROLLBACK: once the drain of the rollback set of the launch is confirmed, the pages that it wrote are restored, and its frames are
free (16_recovery.md R466). -/
def execRollback (lid : Nat) (s0 : State) : Answer :=
  let set := (s0.rollSet [lid]).filter (fun k => (s0.launch k).roll)
  let r := if (s0.launch lid).roll then s0.runCheck (s0.launch lid).server set (set.all s0.settled) else (s0, false)
  .next (if !r.2 then r.1
    else
      let s := r.1.syncAll
      let es := s.earliest set
      let bad := es.any (fun x => s.frameBad x.2.1)
      let s1 := if bad then s else es.foldl (fun s x => s.restorePage x.1 x.2.1) s
      set.foldl (fun s k => s.updLaunch k (fun l => l.afterRoll bad)) s1)

/-! ## Killing (16_recovery.md R460) -/

/-- Running launches that a KIND names: the launch of an id, or every one of a partition. -/
def State.named (s : State) (kind part lid : Nat) : List Nat :=
  (s.launches.filter (fun p => (p.2.st = .running || p.2.st = .halted) &&
    (if kind = 0 then decide (p.1 = lid) else decide (p.2.part = part)))).map (·.1)

/-- Kill a launch; with roll its pages are to be restored before its end is declared. -/
def State.killOne (s : State) (lid : Nat) (f : FaultRec) (roll : Bool) : State :=
  if (s.launch? lid).isNone || !(s.launch lid).alive then s
  else (s.updLaunch lid (fun l => { l with st := .ended, fault := some f, roll := roll })).vanish lid

/-- The launches that KILLCTL named have all ended. -/
def State.killDone (s : State) : Bool :=
  match s.sys.kill with
  | none => true
  | some l => l.all (fun k => (s.launch? k).isNone)

/-- A KILLCTL write of a KIND; with ROLL = 0 launches that depend on the named ones lose that dependence (16_recovery.md R460). -/
def State.killCtl (s : State) (kind : Nat) (v : BitVec 64) : State :=
  if field v 62 61 ≠ kind then s
  else if !s.killDone then s.setPkgErr
  else
    let named := s.named kind (field v 35 32) (field v 31 0)
    let roll := bitAt v 60
    let set := if roll then s.rollSet named else named
    let s := if roll then s else named.foldl (fun s k => s.undepend k) s
    let s1 := set.foldl (fun s k => s.killOne k { code := 0x0C, dep := !named.contains k } roll) s
    { s1 with sys := { s1.sys with kill := some named } }

/-- KILL_LAUNCH. -/
def execKillLaunch (v : BitVec 64) (s : State) : Answer := .next (s.whenReady (s.killCtl 0 v))

/-- KILL_PARTITION. -/
def execKillPartition (v : BitVec 64) (s : State) : Answer := .next (s.whenReady (s.killCtl 1 v))

/-! ## Revoking a lease (16_recovery.md R461, 08_bonds.md R199) -/

/-- LEASEREV: operations not begun are discarded with REVOKED, and the holding group takes the mark. A lease that a pre-emption
breaks passes to Saved alone (08_bonds.md R197): the write names no lease then. The write is what announces a repair, so the seam pair of
the named cluster is not usable from it on (25_physical.md R531; log entry 45). -/
def execLeaserev (die : Nat) (v : BitVec 64) (s : State) : Answer :=
  let c := 16 * (64 * die + field v 5 0) + field v 11 8
  let named (l : Lease) : Bool := !decide (l.st = .breaking) && (l.covers c || decide (l.lent = some (cluOf c)))
  .next (s.dieReady die <| if (s.sys.lrev.find? die).isSome then s.setErr die
    else
      match (s.clusters.flatMap (fun p => p.2.leases)).find? named with
      | none => s
      | some l =>
        let s1 := s.updLease l.lid l.grp (fun x =>
          { x with st := .revoked
                   q0 := x.q0.map (fun o => if o.st = .queued then { o with st := .performed, code := 0x0C, info := 0 } else o) })
        let s2 := s1.updLaunch l.lid (fun x => x.updGroup l.grp (fun g => { g with revoked := true }))
        { s2 with sys := { s2.sys with
            lrev := s2.sys.lrev.set die (l.cores.headD c)
            underRepair := if (seamOf (cluOf c)).isSome then (s2.sys.underRepair ++ [cluOf c]).dedup else s2.sys.underRepair } })

/-! ## Ending a freeze (15_isolation.md R415) -/

/-- Launches that have work on a master. -/
def State.worksOn (s : State) (code : Nat) : List Nat :=
  let ix := code % 4096
  let ops := s.warps.flatMap (fun p => p.2.queues.flatMap (fun q => q.2))
  match code / 4096 with
  | 0 => (((s.residents ix).map (fun w => (s.warp w).lid)) ++ (s.core ix).q0.map (fun o => o.lid) ++
      (match s.leaseAt ix with
       | some (_, l) => [l.lid]
       | none => [])).dedup
  | 1 => ((ops.filter (fun o => (decide (o.kind = .tcopy) || decide (o.kind = .tquant)) && decide (s.copyClu o = ix))).map (fun o => o.lid)).dedup
  | 2 => ((ops.filter (fun o => (decide (o.kind = .gath) || decide (o.kind = .scat)) && decide (warpClu o.warp = ix))).map (fun o => o.lid)).dedup
  | _ => []

/-- UNFREEZE_KILL: launches with work on the master are killed as KILLCTL with ROLL = 0 does, and it returns to service. The entry that
a command queue was reading when it froze is refused with BADPTR, and HEAD advances, at once or when a translation fault that these
writes meet is answered (13_scheduling.md R349, 15_isolation.md R415). -/
def execUnfreezeKill (v : BitVec 64) (s : State) : Answer :=
  let code := field v 15 0
  let ix := code % 4096
  let refuse := decide (code / 4096 = 3) && (s.cmdQueue ix).frozen && ((s.cmdQueue ix).reading || (s.cmdQueue ix).refuse)
  .next (s.whenReady <| if field v 17 16 ≠ 0 then s
    else
      let ks := s.worksOn code
      let s1 := (ks.foldl (fun s k => s.killOne k { code := 0x0C } false) (ks.foldl (fun s k => s.undepend k) s)).stopMaster code false
      let s2 := if code / 4096 = 3 then s1.updQueue ix (fun c => { c with reading := false, refuse := refuse }) else s1
      match s2.binding (ix / 64) (ix % 64) with
      | some (part, space) => if refuse then (s2.serveHead (ix / 64) (ix % 64) part space).1 else s2
      | none => s2)

/-- UNFREEZE_RESET: a frozen host function is reset, and its requests are served again. -/
def execUnfreezeReset (v : BitVec 64) (s : State) : Answer :=
  .next (s.whenReady <| if field v 17 16 = 1 ∧ field v 15 0 / 4096 = 4 then s.stopMaster (field v 15 0) false else s)

end Sys2Proof.Machine
end

