-- ==== Sys2Proof/Machine/Preempt.lean ====
section
/-! DEFINITION. Pre-emption, the saving of contexts and their restoring (16_recovery.md R452 to R459, R462). A context is
kept as plain data beside the bytes of its save area, whose inner layout the manual does not give. -/

namespace Sys2Proof.Machine

/-! ## Requests (16_recovery.md R452) -/

/-- A PRECTL write that is taken: the launches left halted by a short save come first. -/
def State.startPreempt (s : State) (named : List Nat) : State :=
  if s.sys.preempt.isSome then s.setPkgErr
  else
    let l := s.sys.short ++ named.filter (fun k => !s.sys.short.contains k)
    { s with sys := { s.sys with preempt := if l.isEmpty then none else some (l, false), short := [], shortFlag := false, presz := 0 } }

/-- PREEMPT_LAUNCH. -/
def execPreemptLaunch (v : BitVec 64) (s : State) : Answer :=
  .next (s.whenReady <| if field v 61 60 = 0 then s.startPreempt (if s.runs (field v 31 0) then [field v 31 0] else []) else s)

/-- PREEMPT_PARTITION. -/
def execPreemptPartition (v : BitVec 64) (s : State) : Answer :=
  .next (s.whenReady <| if field v 61 60 = 1 then
      s.startPreempt ((s.launches.filter (fun p => p.2.st = .running && decide (p.2.part = field v 35 32))).map (·.1))
    else s)

/-- SHORT_SAVE_RESUME: KIND 2 or 3 names nothing, and saves the launches left halted. -/
def execShortSaveResume (v : BitVec 64) (s : State) : Answer :=
  .next (s.whenReady <| if field v 61 60 < 2 then s
    else if s.sys.preempt.isSome then s.setPkgErr
    else if s.sys.short.isEmpty then s
    else s.startPreempt [])

/-! ## The halt (16_recovery.md R453, R455) -/

/-- The slots that hold tasks of a launch. -/
def State.slotsOfLaunch (s : State) (lid : Nat) : List Nat :=
  (s.warps.filter (fun p => p.2.resident && decide (p.2.lid = lid))).map (·.1)

/-- Castlings of a core in progress complete. -/
def State.endCastle (s : State) (c : Nat) : State :=
  match (s.core c).castle with
  | some k => s.castleEnd c k
  | none => s

/-- Operations of q6 and q7 of a slot that no fence holds back are performed (11_ordering.md R304). -/
def State.finishShort (s : State) (w : Nat) : State :=
  let may (s : State) (q : Nat) : Bool := ((s.headOf (.own w q)).map s.mayStart).getD false
  let s1 := (List.range ((s.warp w).queues.get [] 6).length).foldl (fun s _ => if may s 6 then s.redOne w else s) s
  (List.range ((s1.warp w).queues.get [] 7).length).foldl (fun s _ =>
    match s.headOf (.own w 7) with
    | none => s
    | some o =>
      if !may s 7 then s
      else
      let x := match o.kind with
        | .prom pin => s.promoteRow (s.warp w).part o.redAddr pin
        | _ => s.demoteRow (s.warp w).part o.redAddr
      x.1.rowDone (.own w 7) o x.2) s1

/-- A permuting MOVE in progress is completed. -/
def State.finishMoves (s : State) (w : Nat) : State :=
  [1, 2, 3, 4].foldl (fun s q =>
    match s.headOf (.own w q) with
    | some o =>
      if o.kind = .tcopy ∧ o.dir = 2 ∧ o.permuting ∧ o.st = .running ∧ o.tok = none then
        let t := s.moveRun (.own w q) o o.left
        match t.headOf (.own w q) with
        | some p => if p.st = .running ∧ p.tok = none then t.moveRun (.own w q) p p.left else t
        | none => t
      else s
    | none => s) s

/-- Every row of a matrix operation of the launch that has begun updates its words (16_recovery.md R454 steps 2 and 3). -/
def State.finishRows (s : State) (lid : Nat) : State :=
  let refs := s.cores.map (fun p => QRef.core p.1) ++
    (s.clusters.flatMap (fun p => p.2.leases)).map (fun l => QRef.lease l.lid l.grp)
  refs.foldl (fun s r =>
    match s.headOf r with
    | some o => if o.lid = lid then (s.settleSums r o true).1 else s
    | none => s) s

/-- The leases of a halted launch break (08_bonds.md R197). -/
def State.breakLeases (s : State) (lid : Nat) : State :=
  { s with clusters := mapVals (fun _ g =>
      { g with leases := g.leases.map (fun l => if l.lid = lid ∧ l.st ≠ .revoked then { l with st := .breaking } else l) }) s.clusters }

/-- Waits on translation faults are abandoned: the access walks again (15_isolation.md R419). -/
def State.abandonFaults (s : State) (lid : Nat) : State :=
  let free (o : EngOp) : EngOp := if o.lid = lid then { o with tok := none } else o
  { s with
    faults := s.faults.filter (fun f => !decide (f.lid = lid) || s.waitedElse lid f.tok)
    warps := mapVals (fun _ w =>
      if w.lid = lid then
        { w with lanes := mapVals (fun _ l => match l.wait with
                   | .fault _ => { l with wait := .none }
                   | _ => l) w.lanes
                 swait := (match w.swait with
                   | .fault _ => .none
                   | x => x)
                 queues := mapVals (fun _ q => q.map free) w.queues }
      else w) s.warps
    cores := mapVals (fun _ c => { c with q0 := c.q0.map free }) s.cores
    clusters := mapVals (fun _ g => { g with leases := g.leases.map (fun l => { l with q0 := l.q0.map free }) }) s.clusters }

/-- Halt one launch. -/
def State.haltOne (s : State) (lid : Nat) : State :=
  if !s.runs lid then s
  else
    let ws := s.slotsOfLaunch lid
    let s1 := ((ws.map coreOf).dedup).foldl (fun s c => s.endCastle c) s.syncAll
    let s2 := (ws.foldl (fun s w => (s.finishShort w).finishMoves w) s1).finishRows lid
    let s2 := ((ws.map coreOf).dedup).foldl (fun s c => s.l1Release (dieOf (cluOf c)) c) s2
    if !s2.runs lid then s2
    else (((s2.breakLeases lid).abandonFaults lid).updMem (fun m => m.liftHolds ((ws.map warpClu).dedup))).updLaunch lid (fun l => { l with st := .halted })

/-- PREEMPT_HALT: the named launches are halted at instruction boundaries. -/
def execPreemptHalt (s : State) : Answer :=
  .next (match s.sys.preempt with
    | some (l, false) =>
      let s1 := l.foldl (fun s k => s.haltOne k) s
      { s1 with sys := { s1.sys with preempt := some (l, true) } }
    | _ => s)

/-! ## Saving (16_recovery.md R454 to R458) -/

/-- The tile that a fill in progress fills on a core is not ready there. -/
def State.fillOpen (s : State) (o : EngOp) (c : Nat) : Bool :=
  match o.fillTile with
  | some t =>
    match s.tile? c t with
    | some e => decide (e.st = .filling)
    | none => false
  | none => false

/-- A fill in progress, a LOAD or a gath, until its status word is written (09_tensor_instr.md R211). -/
def EngOp.filling (o : EngOp) : Bool := o.fillTile.isSome && !decide (o.st = .queued)

/-- The record of an operation in a context: a fill starts again for the cores where it is not ready, and a held operation
delivers its trap again (16_recovery.md R455, R456). -/
def State.savedOp (s : State) (o : EngOp) : EngOp :=
  let p : EngOp := { o with tok := none, bset := [], bnext := [], st := if o.isHeld then .held false else o.st }
  let again := o.dests.filter (fun d => s.fillOpen o d.1)
  if !o.filling then p
  else if again.isEmpty && decide (o.st = .performed) then { p with dests := [] }
  else
    { p with st := (if o.st = .performed then .running else p.st), code := 0, seq := 0, row := 0, info := 0, pass := 0
             data := [], poison := [], dests := again.map (fun d => (d.1, 0)) }

/-- A tile entry in a context: an entry that is not ready is saved as empty, to be restored as filling from 0; every other is ready
(16_recovery.md R456, R458, 24_prog_preempt.md R519). -/
def Tile.saved (e : Tile) : Tile :=
  let k := { e with landed := 0, reserved := 0, fills := 0, readers := 0 }
  if e.st = .filling then k else { k with st := .ready }

/-- Bytes of ready extents and of windows among the bytes of a core. -/
def keptBytes (tiles : SMap Tile) (wins : List Win) (b : List Host.Cell) : List Host.Cell :=
  b.filter (fun p => tiles.any (fun t => !decide (t.2.st = .filling) && decide (16 * t.2.base ≤ p.1) && decide (p.1 < 16 * (t.2.base + t.2.size))) ||
    wins.any (fun v => decide (v.off ≤ p.1) && decide (p.1 < v.off + v.len)))

/-- What a core holds for a launch. -/
def State.savedCore (s : State) (lid c : Nat) : SavedCore :=
  let k := s.core c
  let tiles := keepVals (fun _ t => s.ownedBy lid t.owner) k.tiles
  let wins := k.wins.filter (fun v => decide (v.lid = lid))
  let grants := k.grants.filter (fun g => s.ownedBy lid g.holder)
  { core := c, ways := k.ways, tiles := mapVals (fun _ t => t.saved) tiles, grants := grants, wins := wins
    spad := keptBytes tiles wins k.spad
    acc := k.acc.filter (fun p => grants.any (fun g => decide (g.base ≤ p.1) && decide (p.1 < g.base + g.size)))
    q0 := (k.q0.filter (fun o => decide (o.lid = lid))).map s.savedOp }

/-- Cores on which a launch has a task or holds something. -/
def State.coresOf (s : State) (lid : Nat) : List Nat :=
  (((s.slotsOfLaunch lid).map coreOf) ++ (s.cores.filter (fun p =>
    p.2.tiles.any (fun t => s.ownedBy lid t.2.owner) || p.2.grants.any (fun g => s.ownedBy lid g.holder) ||
    p.2.wins.any (fun v => decide (v.lid = lid)))).map (·.1)).dedup

/-- The context of a launch at an address (16_recovery.md R458). -/
def State.contextOf (s : State) (lid addr : Nat) : Context :=
  let cs := (s.coresOf lid).map (s.savedCore lid)
  let ts := (s.slotsOfLaunch lid).map (fun w =>
    let v := s.warp w
    ({ key := w, warp := { v with queues := mapVals (fun _ q => q.map s.savedOp) v.queues
                                  lanes := mapVals (fun _ l => { l with waitCnt := 0, yieldLeft := 0, latch := none }) v.lanes } } : SavedTask))
  let data := cs.foldl (fun n c => n + (c.tiles.foldl (fun n t => if t.2.st = .filling then n else n + 16 * t.2.size) 0) +
    (c.wins.foldl (fun n v => n + v.len) 0) + (c.grants.foldl (fun n g => n + 4 * g.size) 0)) 0
  { addr := addr, bytes := (4096 + 4096 * cs.length + 20480 * ts.length + data + 4095) / 4096 * 4096, stamp := s.tick, lid := lid
    tasks := ts, cores := cs
    leases := (s.clusters.flatMap (fun p => p.2.leases)).filterMap (fun l =>
      if l.lid = lid then some { l with q0 := l.q0.map s.savedOp } else none)
    queued := s.clusters.flatMap (fun p => p.2.queue.filter (fun q => decide (q.lid = lid))) ++
      s.cores.flatMap (fun p => p.2.carves.filterMap (fun r => r.trec.filter (fun q => decide (q.lid = lid))))
    heldOn := s.mem.held.filter (fun h => decide (h.trec.lid = lid))
    ctrWaits := s.mem.ctrWaits.filter (fun x => decide (x.m.lid = some lid))
    areqs := s.clusters.flatMap (fun p => p.2.areqs.filter (fun r => s.ownedBy lid r.holder)) }

/-- The record of a lease in a saved context (08_bonds.md R198). -/
def Lease.bytes (l : Lease) : List Byte :=
  let code (n : Nat) : Nat := if n = 1 then 0 else if n = 2 then 1 else 2
  let shape := if l.strait then 16 else code l.rows + 4 * code l.cols
  let origin := if l.strait then 0 else l.origin / 4 / l.rows + 4 * (l.origin % 4 / l.cols)
  bytesOf 4 l.lid ++ bytesOf 1 l.grp ++ bytesOf 1 shape ++ bytesOf 1 origin ++ bytesOf 1 1 ++ bytesOf 8 0

/-- A lease as its record gives it; none where a field is invalid (08_bonds.md R198). What the record does not hold, the state of its
q0 among it, comes from the lease that was saved. -/
def Lease.ofBytes (l : Lease) (b : List Byte) : Option Lease :=
  let shape := numAt b 5 1
  let strait := decide (shape / 16 % 2 = 1)
  let rows := if strait then 4 else shapeOf (shape % 4)
  let cols := if strait then 8 else shapeOf (shape / 4 % 4)
  let o := numAt b 6 1
  let fits : Bool := if strait then decide (shape % 16 = 0) && decide (o = 0)
    else decide (shape % 4 ≠ 3) && decide (shape / 4 % 4 ≠ 3) && decide (o < 16) &&
      decide (o % 4 * rows < 4) && decide (o / 4 * cols < 4)
  let origin := if strait then l.origin else 4 * (o % 4 * rows) + o / 4 * cols
  if decide (numAt b 0 4 = l.lid) && decide (shape < 32) && fits && decide (numAt b 7 1 = 1) && decide (numAt b 8 8 = 0) then
    some { l with grp := numAt b 4 1, rows := rows, cols := cols, strait := strait, origin := origin
                  cores := if strait then l.cores else rectCores (16 * l.clu + origin) rows cols }
  else none

/-- Byte k of the save area of a context. The manual states the layout of a lease record, not where the launch header of 4 KiB
holds it nor the layout of the rest: the records stand at the header's end, last first, and every other byte is a free value of
the step that wrote it (08_bonds.md R198, 16_recovery.md R458; log entry 64). -/
def Context.byte (x : Context) (k : Nat) : Byte :=
  match x.leases[(4095 - k) / 16]? with
  | some l => if k < 4096 then l.bytes.getD (k % 16) 0 else (Config.freeWord64 (2 ^ 40 * x.stamp + k)).setWidth 8
  | none => (Config.freeWord64 (2 ^ 40 * x.stamp + k)).setWidth 8

/-- Write a context into its area, and let go of all that the launch holds (16_recovery.md R457). -/
def State.saveOne (s : State) (x : Context) : State :=
  let meets (y : Context) : Bool := extentsMeet x.addr x.bytes y.addr y.bytes
  let s1 := s.updMem (fun m => m.putBytes (homeOf x.addr) x.addr ((List.range x.bytes).map x.byte))
  let s2 := (s1.updLaunch x.lid (fun l => { l with st := .saved, plan := [], slots := [], boundSlots := [] })).discard x.lid
  { s2 with contexts := s.contexts.filter (fun y => !meets y) ++ [x] }

/-- Save launches one after another; those that find no room stay halted. -/
def State.saveAll (s : State) (base limit : Nat) : List Nat → State
  | [] => { s with sys := { s.sys with preempt := none, shortFlag := !s.sys.short.isEmpty } }
  | lid :: r =>
    if (s.launch lid).st ≠ .halted then s.saveAll base limit r
    else
      let x := s.contextOf lid (base + s.sys.presz)
      if s.sys.short.isEmpty ∧ s.sys.presz + x.bytes ≤ limit then
        let t := s.saveOne x
        { t with sys := { t.sys with presz := t.sys.presz + x.bytes } }.saveAll base limit r
      else { s with sys := { s.sys with short := s.sys.short ++ [lid] } }.saveAll base limit r

/-- CONTEXT_SAVE: a check of the halted launches confirms that every access of theirs has completed and no message is left, by the idle
tree of die 0 or, while it is off, die 1; then the contexts are written (13_scheduling.md R373, R374, 16_recovery.md R452, R457;
log entry 135). -/
def execContextSave (s : State) : Answer :=
  .next (match s.sys.preempt with
    | some (l, true) =>
      let r := s.runCheck (if s.sys.off 0 then 1 else 0) l (l.all s.mem.noneOf)
      if !r.2 then r.1
      else r.1.saveAll (field (s.reg (pkgBlk 0x80008)) 47 12 * 4096) (4096 * field (s.reg (pkgBlk 0x80010)) 31 0) l
    | _ => s)

/-! ## Restoring (16_recovery.md R459, R462) -/

/-- RESTORE: a write starts a restore, or is ignored while one runs. -/
def execRestore (v : BitVec 64) (s : State) : Answer :=
  .next (s.whenReady <| if s.sys.restore.isSome then s.setPkgErr
    else { s with sys := { s.sys with restore := some (field v 47 12 * 4096, field v 55 52), restoreResult := 0 } })

/-- Where saved cores and slots come to stand: pairs of old and new numbers. -/
structure Moves where
  cores : List (Nat × Nat) := []
  slots : List (Nat × Nat) := []
  deriving DecidableEq, Repr

def moved (l : List (Nat × Nat)) (k : Nat) : Nat := ((l.find? (fun p => decide (p.1 = k))).map (fun p => p.2)).getD k

def Holder.move (v : Moves) : Holder → Holder
  | .task w => .task (moved v.slots w)
  | .group l g => .group l g

def EngOp.move (v : Moves) (o : EngOp) : EngOp :=
  { o with warp := moved v.slots o.warp, dests := o.dests.map (fun d => (moved v.cores d.1, d.2)),
           reads := o.reads.map (fun d => (moved v.cores d.1, d.2)), cores := o.cores.map (moved v.cores),
           lease := o.lease.map (moved v.cores) }

/-- A part of a context that is placed as one: its tasks, its holders' cores, whether it needs cores of the same shape, and
its lease. -/
structure Part where
  tasks : List SavedTask
  groups : List Nat
  bound : Bool
  lease : Option Lease
  deriving DecidableEq, Repr

/-- The part owns what a holder holds. -/
def Part.owns (p : Part) : Holder → Bool
  | .task w => p.tasks.any (fun t => decide (t.key = w))
  | .group _ g => p.groups.contains g

/-- What a part holds on a saved core. -/
def Part.on (p : Part) (c : SavedCore) : SavedCore :=
  let tiles := keepVals (fun _ t => p.owns t.owner) c.tiles
  let wins := c.wins.filter (fun v => p.groups.contains v.grp)
  let grants := c.grants.filter (fun g => p.owns g.holder)
  { c with tiles := tiles, grants := grants, wins := wins, spad := keptBytes tiles wins c.spad
           acc := c.acc.filter (fun q => grants.any (fun g => decide (g.base ≤ q.1) && decide (q.1 < g.base + g.size)))
           q0 := c.q0.filter (fun o => p.tasks.any (fun t => decide (t.key = o.warp))) }

/-- The saved cores on which a part has something. -/
def Part.coresIn (p : Part) (x : Context) : List SavedCore :=
  (x.cores.map p.on).filter (fun c => p.tasks.any (fun t => decide (coreOf t.key = c.core)) || !c.tiles.isEmpty || !c.grants.isEmpty || !c.wins.isEmpty)

/-- The parts of a context: the sets of bound groups, then every other task. -/
def Context.parts (x : Context) (l : Launch) : List Part :=
  let recs := x.tasks.map (fun t => ({ trec := t.warp.trec, id := t.warp.taskId, lid := l.lid, addr := 0, initial := true } : QRec))
  let sets := boundSets l recs
  (sets.map (fun ks =>
    { tasks := x.tasks.filter (fun t => t.warp.trec.groupNos.any ks.contains), groups := ks, bound := true
      lease := x.leases.find? (fun e => ks.contains e.grp) })) ++
  (x.tasks.filter (fun t => !l.namesBound t.warp.trec)).map (fun t => { tasks := [t], groups := [], bound := false, lease := none })

/-- A core takes what a part holds on a saved core. -/
def State.coreFits (s : State) (p : Part) (lid c : Nat) (v : SavedCore) : Bool :=
  let k := s.core c
  let n := (p.tasks.filter (fun t => decide (coreOf t.key = v.core))).length
  s.schedules (cluOf c) && k.carves.isEmpty && decide (n ≤ (s.freeSlots c lid true).length) &&
  (if p.bound then decide (k.ways = v.ways)
   else v.tiles.all (fun t => decide (16 * (t.2.base + t.2.size) ≤ k.spadBytes))) &&
  v.tiles.all (fun t => (k.tiles.find? t.1).isNone && !k.tiles.any (fun u => extentsMeet t.2.base t.2.size u.2.base u.2.size)) &&
  v.grants.all (fun g => !k.grants.any (fun h => extentsMeet g.base g.size h.base h.size)) &&
  v.wins.all (fun a => decide (a.len = 0) || !k.wins.any (fun b => decide (b.len ≠ 0) && extentsMeet a.off a.len b.off b.len))

/-- The lease of a part at a cluster: its cores there, and the lent cluster (08_bonds.md R190, R191, R198). -/
def State.leaseCores (s : State) (e : Lease) (g : Nat) : Option (List Nat × Option Nat) :=
  if e.strait then
    match seamOf g with
    | some (h, i) =>
      if s.seamMap / 2 ^ i % 2 = 1 ∧ dieOf g = dieOf e.clu ∧ s.cpart g = s.cpart h ∧ s.regulator g = s.regulator h then
        some (if g < 64 then straitCores g h else straitCores h g, some h)
      else none
    | none => none
  else some (e.cores.map (fun c => 16 * g + c % 16), none)

/-- The lease of a part may be granted at a cluster. -/
def State.leaseFits (s : State) (p : Part) (g : Nat) : Bool :=
  match p.lease with
  | none => true
  | some e =>
    match s.leaseCores e g with
    | none => false
    | some (cs, lent) =>
      cs.all (fun c => (s.leaseAt c).isNone) && (match lent with
        | some h => (List.range 16).all (fun j => (s.residents (16 * h + j)).isEmpty)
        | none => true)

/-- Take over what a saved core holds: bytes outside saved extents and windows read as zero (16_recovery.md R462); those that stand in
extents and windows of the core's other tasks stay as they are (DESIGN CHOICE, log entry 113). -/
def Core.takeOver (k : Core) (v : SavedCore) (m : Moves) : Core :=
  let kept := (keptBytes k.tiles k.wins k.spad).filter (fun b =>
    !v.tiles.any (fun t => decide (16 * t.2.base ≤ b.1) && decide (b.1 < 16 * (t.2.base + t.2.size))) &&
    !v.wins.any (fun w => decide (w.off ≤ b.1) && decide (b.1 < w.off + w.len)))
  { k with
    spad := v.spad.foldl (fun x b => cellSet x b.1 b.2) kept
    acc := v.grants.foldl (fun x g => (List.range g.size).foldl (fun x i => x.set (g.base + i) (v.acc.get 0 (g.base + i))) x) k.acc
    tiles := v.tiles.foldl (fun x t => x.set t.1 { t.2 with owner := t.2.owner.move m }) k.tiles
    grants := k.grants ++ v.grants.map (fun g => { g with holder := g.holder.move m })
    wins := k.wins ++ v.wins
    q0 := k.q0 ++ v.q0.map (EngOp.move m) }

/-- Fills in progress reserve their bytes again on the recorded cores (16_recovery.md R456). -/
def State.reserveFills (s : State) (o : EngOp) : State :=
  match o.fillTile with
  | some t =>
    if o.filling then o.dests.foldl (fun s d => s.reserve d.1 t (if o.kind = .gath then o.gCount * o.gSize else o.fillBytes)) s else s
  | none => s

/-- An operation in progress reads its tiles again, which drain until it has finished (09_tensor_instr.md R217, 16_recovery.md
R455). -/
def State.readAgain (s : State) (o : EngOp) : State :=
  if o.st = .queued then s else o.reads.foldl (fun s d => s.startRead d.1 d.2) s

/-- Put a part on the cores that f names, in cluster g, with the accumulator requests that its tasks wait for and the place of each
among those of the context; none where it does not fit. -/
def State.putPart (s : State) (x : Context) (p : Part) (part space g : Nat) (f : Nat → Nat) : Option (State × List (Nat × AReq)) :=
  let cs := p.coresIn x
  if !(cs.all (fun v => s.coreFits p x.lid (f v.core) v)) || !s.leaseFits p g then none
  else
    let slots := cs.flatMap (fun v =>
      ((p.tasks.filter (fun t => decide (coreOf t.key = v.core))).map (fun t => t.key)).zip (s.freeSlots (f v.core) x.lid true))
    let lent := p.lease.bind (fun e => s.leaseCores e g)
    let m : Moves :=
      { slots := slots
        cores := (match p.lease, lent with
          | some e, some (ls, _) => e.cores.zip ls
          | _, _ => []) ++ cs.map (fun v => (v.core, f v.core)) }
    let s1 := cs.foldl (fun s v => s.updCore (f v.core) (fun k => k.takeOver v m)) s
    let s2 := p.tasks.foldl (fun s t =>
      let w := { t.warp with part := part, space := space, since := s.clock
                             slot := if t.warp.stalled then SlotSt.reserveWaiting else SlotSt.reserveReady
                             queues := mapVals (fun _ q => q.map (EngOp.move m)) t.warp.queues }
      { s.setWarp (moved slots t.key) w with clock := s.clock + 1 }) s1
    let s3 := p.tasks.foldl (fun s t =>
      (t.warp.queues.flatMap (fun q => q.2)).foldl (fun s o => s.reserveFills (o.move m)) s) s2
    let s4 := match p.lease, lent with
      | some e, some (ls, h) =>
        let e1 := { e with clu := g, cores := ls, lent := h, st := if e.st = .revoked then .revoked else .held, q0 := e.q0.map (EngOp.move m) }
        let t := s3.updCluster g (fun c => { c with leases := c.leases ++ [e1] })
        match h with
        | some h => (List.range 16).foldl (fun s j => s.setWays (16 * h + j) (s.core (16 * g + j)).ways) t
        | none => t
      | _, _ => s3
    let ops := p.tasks.flatMap (fun t => t.warp.queues.flatMap (fun q => q.2)) ++ cs.flatMap (fun v => v.q0) ++
      (p.lease.map (fun e => e.q0)).getD []
    let s5 := ops.foldl (fun s o => s.readAgain (o.move m)) s4
    let s6 := cs.foldl (fun s v => v.tiles.foldl (fun s t => s.settleTile (f v.core) t.1) s) s5
    let asks := (x.areqs.zipIdx.filter (fun r => p.tasks.any (fun t => decide (t.key = r.1.warp)))).map (fun r =>
      (r.2, { r.1 with warp := moved slots r.1.warp, holder := r.1.holder.move m, cores := r.1.cores.map (moved m.cores) }))
    some (s6, asks)

/-- Place a part: a bound one on the lowest cluster of its shape, a free task on the next cluster in turn, after the one that last
received a record, that takes it (13_scheduling.md R352, 16_recovery.md R459). -/
def State.placePart (s : State) (x : Context) (p : Part) (part space die : Nat) (gs : List Nat) : Option (State × List (Nat × AReq)) :=
  if p.bound then gs.findSome? (fun g => s.putPart x p part space g (fun c => 16 * g + c % 16))
  else
    let cp := s.cp.get { } die
    let first := nextOf gs cp.dealt
    (gs.filter (fun g => decide (first ≤ g)) ++ gs.filter (fun g => decide (g < first))).findSome? (fun g =>
      ((clusterCores g).findSome? (fun c => s.putPart x p part space g (fun _ => c))).map (fun t =>
        ({ t.1 with cp := t.1.cp.set die { cp with dealt := g + 1 } }, t.2)))

/-- A saved task as the record of its launch that it was. -/
def SavedTask.record (t : SavedTask) (lid : Nat) : QRec :=
  { trec := t.warp.trec, id := t.warp.taskId, lid := lid, addr := 0, initial := t.warp.initial }

/-- The launch can never fit in the partition: the initial records of a co-resident launch no longer fit, no placement serves its
bound groups, or no seam pair its strait lease (13_scheduling.md R351, 15_isolation.md R431, 16_recovery.md R459). -/
def State.neverFits (s : State) (x : Context) (l : Launch) (gs : List Nat) : Bool :=
  let bound := (x.tasks.map (fun t => t.record l.lid) ++ x.queued).filter (fun q => l.namesBound q.trec)
  !gs.isEmpty &&
  ((l.cores && (coresFit s.emptyView l l.init gs 0).isNone) || !placeable s.emptyView l bound gs ||
    x.leases.any (fun e => e.strait && !gs.any (fun g => (s.leaseCores e g).isSome)))

/-- Initial records of a context that no slot holds yet: queued, held on a counter, or on their way to one. -/
def Context.unplaced (x : Context) : List QRec :=
  (x.queued ++ x.heldOn.map (fun h => h.trec) ++ x.ctrWaits.filterMap (fun c => match c.act with
    | .hold q => some q
    | .dec => none)).filter (fun q => q.initial)

/-- A restored co-resident launch reserves NREC slots again: those of its resident initial tasks, and one for each of the others,
of which a continuation has its own; none while they are not free (13_scheduling.md R351, 15_isolation.md R431). -/
def State.reserveAgain (s : State) (x : Context) (gs : List Nat) : Option (State × Context) :=
  let l := s.launch x.lid
  if !l.cores then some (s, x)
  else
    let mine := (s.slotsOfLaunch x.lid).filter (fun w => (s.warp w).initial)
    let rest := x.unplaced
    let gone : QRec := { trec := {}, id := 0, lid := x.lid, addr := 0, initial := true }
    let recs := rest ++ List.replicate (l.nrec - mine.length - rest.length) gone
    (coresFit (s.coreView 0xFFFFFFFF) l recs gs 0).map (fun cs =>
      let ws := s.pickSlots cs
      let nb := (rest.filter (fun q => l.namesBound q.trec)).length
      let free := ws.drop nb
      let ties := ((recs.filter (fun q => !l.namesBound q.trec)).zip free).filter (fun p => bitAt p.1.trec.flags 2)
      let tie (q : QRec) : QRec :=
        if q.initial && bitAt q.trec.flags 2 then { q with slot := (List.find? (fun (p : QRec × Nat) => decide (p.1 = q)) ties).map (fun p => p.2) }
        else q
      (s.updLaunch x.lid (fun l => { l with slots := mine ++ ws, boundSlots := ws.take nb }),
       { x with queued := x.queued.map tie, heldOn := x.heldOn.map (fun h => { h with trec := tie h.trec })
                ctrWaits := x.ctrWaits.map (fun c => { c with act := match c.act with
                  | .hold q => .hold (tie q)
                  | .dec => .dec }) }))

/-- Byte k of a save area belongs to the record of a lease. -/
def Context.inLease (x : Context) (k : Nat) : Bool := decide (k < 4096) && decide ((4095 - k) / 16 < x.leases.length)

/-- A context as its save area gives it: the leases are those of their records (08_bonds.md R198); every other byte must be as it was
written, for the manual does not give the fields that it holds. None where a field is invalid (16_recovery.md R459; log entry
64). -/
def State.readContext (s : State) (x : Context) : Option Context :=
  let byte (k : Nat) : Byte := s.mem.atHome (x.addr + k)
  if (List.range x.bytes).all (fun k => x.inLease k || decide (byte k = x.byte k)) then
    let ls := x.leases.zipIdx.filterMap (fun l =>
      (l.1.ofBytes ((List.range 16).map (fun j => byte (4080 - 16 * l.2 + j)))).filter (fun e =>
        decide (((s.launch x.lid).group e.grp).place = 2)))
    if ls.length = x.leases.length then some { x with leases := ls } else none
  else none

/-- The restore is over with a result; the context no longer waits to be restored. -/
def State.endRestore (s : State) (addr result : Nat) : State :=
  { s with sys := { s.sys with restore := none, restoreResult := result }
           contexts := s.contexts.filter (fun y => !decide (y.addr = addr)) }

/-- The launch ends with a code, served in the restored partition. -/
def State.failRestore (s : State) (lid part addr result : Nat) (f : FaultRec) : State :=
  (s.updLaunch lid (fun l => { l with st := .ended, fault := some f, part := part, space := 16 * part + l.space % 16 })).endRestore addr result

/-- Place a whole context; none while it cannot yet be placed. A restored task goes on seeing what it has written and read
(11_ordering.md R284): its core acquires. -/
def State.placeContext (s : State) (x : Context) (part : Nat) : Option State :=
  let l := s.launch x.lid
  let space := 16 * part + l.space % 16
  let gs := s.clustersOf part
  let die := dieOf (gs.headD 0)
  let start : Option (State × List (Nat × AReq)) := if gs.isEmpty then none else some (s, [])
  let placed := (x.parts l).foldl (fun (a : Option (State × List (Nat × AReq))) p =>
    a.bind (fun y => (y.1.placePart x p part space die gs).map (fun z => (z.1, y.2 ++ z.2)))) start
  placed.bind (fun y =>
    let named := x.lid / 2 ^ 31 % 2
    let asks := (List.range x.areqs.length).flatMap (fun k => (y.2.filter (fun a => decide (a.1 = k))).map (fun a => a.2))
    let asked := asks.foldl (fun (s : State) r => s.updCluster (warpClu r.warp) (fun g => { g with areqs := g.areqs ++ [r] })) y.1
    let t := asked.updLaunch x.lid (fun l =>
      { l with st := .running, part := part, space := space, server := die
               redDie := if s.sys.off named then 1 - named else named })
    let seen := (t.warps.filter (fun w => w.2.resident && decide (w.2.lid = x.lid))).foldl (fun (s : State) w =>
      s.acquireAll (warpDie w.1) (coreOf w.1) .device (some (s.taskAgent w.1))) t
    (seen.reserveAgain x gs).map (fun z =>
      let v := z.2
      let t1 := z.1.updMem (fun m => { m with held := m.held ++ v.heldOn.map (fun h => { h with clu := gs.headD 0 }) })
      let t2 := v.ctrWaits.foldl (fun s c =>
        s.counterGo { c.m with part := part, space := space, die := die } (gs.headD 0) c.va c.act []) (t1.deal die gs v.queued)
      (asks.foldl (fun s r => s.serveAllocs (warpClu r.warp)) t2).wakeStrands))

/-- RESTORE_PLACEMENT: the waiting restore is placed, or fails (16_recovery.md R459). -/
def execRestorePlacement (s : State) : Answer :=
  .next (match s.sys.restore with
    | none => s
    | some (addr, part) =>
      match List.find? (fun (x : Context) => decide (x.addr = addr)) s.contexts with
      | none => s.endRestore addr 2
      | some x =>
        if (s.launch x.lid).st ≠ .saved then s.endRestore addr 2
        else
          match s.readContext x with
          | none => s.failRestore x.lid part addr 2 { code := 0x0C, restore := true }
          | some x =>
            if s.neverFits x (s.launch x.lid) (s.clustersOf part) then s.failRestore x.lid part addr 1 { code := 0x05 }
            else
              match s.placeContext x part with
              | some t => t.endRestore addr 0
              | none => s)

end Sys2Proof.Machine
end

