-- ==== Sys2Proof/Machine/Regs.lean ====
section
/-! DEFINITION. Device registers as system software reads and writes them: what each field holds, and the writes that act
(00_scope.md R6, R7, 15_isolation.md R405 to R437, 10_memory.md R265 to R267, 11_ordering.md R299, 13_scheduling.md R356,
R377, 16_recovery.md R440, R441, R452, R459 to R463, R469, 25_physical.md R528, R530). -/

namespace Sys2Proof.Machine

/-- The state of an answer that is a next state. -/
def State.after (s : State) (a : Answer) : State :=
  match a with
  | .next t => t
  | _ => s

/-! ## Fields (00_scope.md R6) -/

/-- Bits hi to lo of a register as a mask. -/
def bits (hi lo : Nat) : Word64 := BitVec.ofNat 64 (2 ^ (hi + 1) - 2 ^ lo)

/-- Writable bits and bits cleared by writing 1, of a register of a die block. -/
def dieMask (o : Nat) : Word64 × Word64 :=
  if o < 0x200 then (bits 6 0, 0)
  else if 0x1000 ≤ o ∧ o < 0x1200 then (bits 7 7 ||| bits 3 0, 0)
  else if 0x2000 ≤ o ∧ o < 0x2400 then
    (if o % 16 = 0 then bits 63 63 ||| bits 11 8 ||| bits 3 0 else bits 55 5, 0)
  else if o = 0x4000 then (bits 55 40 ||| bits 31 0, bits 63 62)
  else if 0x5000 ≤ o ∧ o < 0x5400 then (if o % 16 = 0 then bits 47 12 else bits 23 0, 0)
  else if o = 0x6000 then (bits 47 16 ||| bits 15 0, 0)
  else if 0x8000 ≤ o ∧ o < 0x8000 + 8 * 16 * 68 then (bits 4 0, 0)
  else if 0x100000 ≤ o ∧ o < 0x110000 then
    (if o % 16 = 0 then bits 63 63 ||| bits 59 24 ||| bits 15 0 else bits 31 0, 0)
  else (0, 0)

/-- The same for the package block. -/
def pkgMask (o : Nat) : Word64 × Word64 :=
  if o < 0x100 then (if o % 16 = 0 then bits 11 4 ||| bits 1 0 else bits 31 0, 0)
  else if 0x1000 ≤ o ∧ o < 0x1400 then (bits 1 0, 0)
  else if 0x2000 ≤ o ∧ o < 0x2040 then (if o % 16 = 0 then bits 3 0 else 0, 0)
  else if 0x10000 ≤ o ∧ o < 0x10800 then
    (if o % 16 = 0 then bits 63 62 ||| bits 59 56 ||| bits 46 21 else bits 46 21, 0)
  else if 0x20000 ≤ o ∧ o < 0x20800 then (bits 63 63 ||| bits 47 15, 0)
  else if 0x30000 ≤ o ∧ o < 0x30400 then
    (if o % 64 = 0 then bits 47 5 else if o % 64 = 8 then bits 63 63 ||| bits 42 0
     else if o % 64 = 16 then bits 31 0 else 0, 0)
  else if o = 0x52008 then (bits 31 0, 0)
  else if 0x60000 ≤ o ∧ o < 0x60200 then (bits 7 7 ||| bits 3 0, 0)
  else if 0x61000 ≤ o ∧ o < 0x61200 then (bits 63 0, 0)
  else if 0x62000 ≤ o ∧ o < 0x62100 then (if o % 16 = 0 then bits 47 21 else bits 17 0, 0)
  else if o = 0x70000 then (bits 1 0, 0)
  else if o = 0x80008 then (bits 47 12, 0)
  else if o = 0x80010 then (bits 31 0, 0)
  else if 0x90000 ≤ o ∧ o < 0x90100 then (if o % 16 = 0 then bits 47 16 else bits 31 0, 0)
  else if o = 0xA8000 then (bits 31 0, 0)
  else if o = 0xA8008 ∨ o = 0xA8010 then (bits 63 0, 0)
  else if o = 0xA8018 then (bits 31 0, 0)
  else (0, 0)

/-- The same for a register of a stack's base die. -/
def baseMask (o : Nat) : Word64 × Word64 :=
  if 0x2000 ≤ o ∧ o < 0x2080 then (bits 63 63 ||| bits 25 16 ||| bits 9 0, 0)
  else if 0x100000 ≤ o ∧ o < 0x108000 then (bits 10 0, 0)
  else if 0x200000 ≤ o ∧ o < 0x240000 ∧ o % 0x1000 < 4 * 274 then (bits 63 0, 0)
  else (0, 0)

/-- The block of a quarter-10 address. -/
inductive Block where
  | die (d o : Nat)
  | arb (a o : Nat)
  | pkg (o : Nat)
  | base (k o : Nat)
  | hole
  deriving DecidableEq, Repr

/-- The block of an address and the offset in it (15_isolation.md R405, 10_memory.md R267). -/
def blockOf (a : Nat) : Block :=
  if dieBlk 0 0 ≤ a ∧ a < dieBlk 2 0 then .die ((a - dieBlk 0 0) / 0x08000000) ((a - dieBlk 0 0) % 0x08000000)
  else if arbBlk 0 0 ≤ a ∧ a < arbBlk 12 0 then .arb ((a - arbBlk 0 0) / 0x00100000) ((a - arbBlk 0 0) % 0x00100000)
  else if pkgBlk 0 ≤ a ∧ a < baseBlk 0 0 then .pkg (a - pkgBlk 0)
  else if baseBlk 0 0 ≤ a ∧ a < baseBlk 12 0 then .base ((a - baseBlk 0 0) / 0x10000000) ((a - baseBlk 0 0) % 0x10000000)
  else .hole

/-- Writable bits and bits cleared by writing 1 of the register at an address. -/
def regMask (a : Nat) : Word64 × Word64 :=
  match blockOf a with
  | .die _ o => dieMask o
  | .arb _ o => if o < 1024 then (bits 31 0, bits 55 32) else (0, 0)
  | .pkg o => pkgMask o
  | .base _ o => baseMask o
  | .hole => (0, 0)

/-- The bits of a write of some bytes of a register. -/
def byteBits (off size : Nat) : Word64 := bits (8 * (off + size) - 1) (8 * off)

/-- Store a write by its access types: en are the bits of the bytes written, v the value in place. -/
def State.storeReg (s : State) (a : Nat) (en v : Word64) : State :=
  let m := regMask a
  let rw := m.1 &&& en
  let old := s.reg a
  if m = (0, 0) then s else s.setReg a (((old &&& ~~~rw) ||| (v &&& rw)) &&& ~~~(v &&& m.2 &&& en))

/-! ## Clusters that are idle (15_isolation.md R407) -/

/-- No resident task, queued record, lease or pending carve-out. -/
def State.clusterIdle (s : State) (g : Nat) : Bool :=
  (s.cluster g).queue.isEmpty && (s.cluster g).leases.isEmpty && !s.lentOut g &&
  (clusterCores g).all (fun c => (s.residents c).isEmpty && (s.core c).carves.isEmpty)

/-- Store v in a register of the die of a cluster while a condition holds; otherwise the write is ignored with ERR. -/
def State.storeIf (s : State) (ok : Bool) (die a : Nat) (v : BitVec 64) : State :=
  if ok then s.storeReg a (bits 63 0) v else s.setErr die

/-- The repair of some clusters is over; their seam pairs are usable where the repair map has them so (25_physical.md R531). -/
def State.repaired (s : State) (gs : List Nat) : State :=
  { s with sys := { s.sys with underRepair := s.sys.underRepair.filter (fun g => !gs.contains g) } }

/-- CMAP_WRITE (15_isolation.md R407). A seam pair that it takes off the strait edge, or puts back there, is unusable or usable from
then on (01_machine.md R16, R17, 25_physical.md R531; log entry 45). -/
def execCmapWrite (die clu : Nat) (v : BitVec 64) (s : State) : Answer :=
  let g := 64 * die + clu % 64
  .next (s.dieReady die ((if s.clusterIdle g then s.repaired [g] else s).storeIf (s.clusterIdle g) die (dieBlk die (8 * (clu % 64))) v))

/-- CPART_WRITE (15_isolation.md R407). -/
def execCpartWrite (die clu : Nat) (v : BitVec 64) (s : State) : Answer :=
  .next (s.dieReady die (s.storeIf (s.clusterIdle (64 * die + clu % 64)) die (dieBlk die (0x1000 + 8 * (clu % 64))) v))

/-- The logical clusters that CMAP maps to a physical position. -/
def State.mapped (s : State) (die phys : Nat) : List Nat :=
  (List.range 64).filter (fun l => decide (field (s.reg (dieBlk die (8 * l))) 6 0 = phys))

/-- CELLMASK_WRITE for a core of a physical cluster; a stage above 8 is stored as 8 (16_recovery.md R469). -/
def execCellmaskWrite (die clu core : Nat) (v : BitVec 64) (s : State) : Answer :=
  let v1 := if 8 < field v 3 0 then (v &&& ~~~(bits 3 0)) ||| 8 else v
  let gs := (s.mapped die clu).map (fun l => 64 * die + l)
  let ok := gs.all (fun g => s.clusterIdle g)
  .next (s.dieReady die ((if ok then s.repaired gs else s).storeIf ok die (dieBlk die (0x8000 + 8 * (16 * clu + core % 16))) v1))

/-- TQOVF_WRITE (13_scheduling.md R356). -/
def execTqovfWrite (die clu word : Nat) (v : BitVec 64) (s : State) : Answer :=
  .next (s.dieReady die
    (s.storeIf (s.clusterIdle (64 * die + clu % 64)) die (dieBlk die (0x5000 + 16 * (clu % 64) + 8 * (word % 2))) v))

/-- SYNOVF_WRITE (11_ordering.md R299). -/
def execSynovfWrite (die : Nat) (v : BitVec 64) (s : State) : Answer :=
  .next (s.dieReady die (s.storeIf ((s.mem.inArea die).isEmpty) die (dieBlk die 0x6000) v))

/-- QBIND_WRITE (15_isolation.md R410). -/
def execQbindWrite (die q : Nat) (v : BitVec 64) (s : State) : Answer :=
  .next (s.dieReady die (s.storeReg (dieBlk die (0x2000 + 16 * (q % 64))) (bits 63 0) v))

/-- REGSEL_WRITE: an idle cluster begins to switch its regulator (15_isolation.md R424). -/
def execRegselWrite (clu : Nat) (v : BitVec 64) (s : State) : Answer :=
  let r := field v 1 0
  .next (s.whenReady <| if !s.clusterIdle clu then s.setPkgErr
    else if s.regulator clu = r then s
    else
      let t := (s.unsteady (s.regulator clu)).storeReg (pkgBlk (0x1000 + 8 * clu)) (bits 63 0) v
      { t with sys := { t.sys with switching := t.sys.switching.filter (fun p => !decide (p.1 = clu)) ++ [(clu, r)] } })

/-- REGULATOR_SWITCH_DONE: the agent's cluster is ungated (15_isolation.md R424). -/
def execRegulatorSwitchDone (s : State) : Answer :=
  .next { s with sys := { s.sys with switching := s.sys.switching.filter (fun p => !decide (p.1 = s.cur.clu)) } }

/-! ## The range table (15_isolation.md R408, R409) -/

/-- The address is a word of the range table. -/
def isRange (a : Nat) : Bool := decide (pkgBlk 0x10000 ≤ a) && decide (a < pkgBlk 0x10800)

/-- A word of the range table changes; until SYNC has run, an access may be checked against the old word. -/
def State.storeRange (s : State) (a : Nat) (en v : Word64) : State :=
  let t := s.storeReg a en v
  if (s.sys.rangeOld.find? a).isSome then t else { t with sys := { t.sys with rangeOld := t.sys.rangeOld.set a (s.reg a) } }

/-- SYNC: a write of 1 takes the changes to every arbiter, and SYNC then reads 0 (15_isolation.md R409). -/
def execSync (v : BitVec 64) (s : State) : Answer :=
  .next (s.whenReady (if v = 1 then { s with sys := { s.sys with rangeOld := [] } } else s))

/-! ## Fault queues (15_isolation.md R419, R420) -/

/-- A write of bytes of the descriptor of a partition's fault queue: BASE and CAP only while HEAD = TAIL. -/
def State.faultqWrite (s : State) (part off : Nat) (en v : Word64) : State :=
  let ht := s.reg (faultReg part 16)
  let guarded := if off = 0 then true else decide (en &&& bits 31 0 ≠ 0)
  if field ht 31 0 ≠ field ht 63 32 ∧ guarded then
    (if off = 0 then s else s.storeReg (faultReg part off) (en &&& bits 63 32) v).setPkgErr
  else (s.storeReg (faultReg part off) en v).flushFaults s.onDie part

/-- FAULTQ_CONFIG_WRITE: BASE at offset 0, CAP at 8, VEC at 12. -/
def execFaultqConfigWrite (part off : Nat) (v : BitVec 64) (s : State) : Answer :=
  .next (s.whenReady <| if off = 0 then s.faultqWrite part 0 (bits 63 0) v
    else if off = 8 then s.faultqWrite part 8 (bits 31 0) v
    else if off = 12 then s.faultqWrite part 8 (bits 63 32) (v <<< 32)
    else s)

/-- FAULT_QUEUE_HEAD_WRITE: records held back are written while there is room. -/
def execFaultQueueHeadWrite (part : Nat) (v : BitVec 64) (s : State) : Answer :=
  .next (s.whenReady ((s.storeReg (faultReg part 16) (bits 31 0) v).flushFaults s.onDie part))

/-! ## Windows, banks and the rest -/

/-- EXPW_WRITE: a size above 131,072 is stored as 131,072 (15_isolation.md R434). -/
def execExpwWrite (part word : Nat) (v : BitVec 64) (s : State) : Answer :=
  let v1 := if word % 2 = 1 ∧ 131072 < field v 17 0 then 131072 else v
  .next (s.whenReady (s.storeReg (pkgBlk (0x62000 + 16 * part + 8 * (word % 2))) (bits 63 0) v1))

/-- A row loses its contents: its bytes are free values (10_memory.md R265). -/
def Mem.loseRow (m : Mem) (p : Place) (seed : Nat) : Mem :=
  { m with bytes := (List.range 1024).foldl (fun b k =>
      cellSet b ({ p with col := k } : Place).off ((Config.freeWord64 (1024 * seed + k)).setWidth 8)) m.bytes
           l2 := m.l2.filter (fun x => !decide (128 * (x.1 % 2 ^ 41) / 1024 = p.off / 1024))
           strait := m.strait.filter (fun x => !decide (128 * x.line / 1024 = p.off / 1024))
           granules := m.granules.filter (fun x => !decide (8 * x.1 / 1024 = p.off / 1024)) }

/-- FSCFG_WRITE: dirty slots of the bank are written back, every slot becomes invalid, and the new split takes effect
(10_memory.md R265). -/
def execFscfgWrite (stack bank : Nat) (v : BitVec 64) (s : State) : Answer :=
  let b := 4096 * stack + bank
  let old := s.slotsOf stack bank
  let new := min 1024 (v.toNat % 2 ^ 11)
  let mine := s.mem.slots.filter (fun p => decide (p.1 / 1024 = b))
  let m1 := mine.foldl (fun m p => m.writeBackSlot stack bank (p.1 % 1024) p.2) s.mem
  let m2 := { m1.bankOp stack bank with slots := m1.slots.filter (fun p => !decide (p.1 / 1024 = b)), nextSeq := m1.nextSeq.set b 0 }
  let m3 := ((List.range new).drop old).foldl (fun m f => m.loseRow (slotPlace stack bank f) (2 ^ 40 * s.tick + f)) m2
  .next (s.whenReady ({ s with mem := m3 }.setReg (baseBlk stack (0x100000 + 8 * bank)) (BitVec.ofNat 64 new)))

/-! ## Reading (00_scope.md R6, R7) -/

/-- State of a die in DIEPWR (15_isolation.md R429). -/
def State.dieState (s : State) (d : Nat) : Nat :=
  match s.sys.gating with
  | some (e, g) => if e = d then (if g then 1 else 3) else if s.sys.off d then 2 else 0
  | none => if s.sys.off d then 2 else 0

/-- How many bits of a byte are set. -/
def countBits (v n : Nat) : Nat := ((List.range n).filter (fun k => decide (v / 2 ^ k % 2 = 1))).length

/-- The housekeeping registers (25_physical.md R530, R531). -/
def State.houseReg (s : State) (o : Nat) : Nat :=
  let b := s.boot
  if o = 0 then Config.form % 2 * 2 ^ 20 + Config.stepping % 16 * 2 ^ 16 + 0x96
  else if o = 8 then Config.serial.toNat
  else if o = 0x10 then (if b.trip then 2 ^ 63 else 0) + b.dieFail % 4 * 2 ^ 16 +
    (match b.stopped with
     | some c => c % 256 * 256 + 15
     | none => b.stage % 16)
  else if o = 0x18 then s.seamMap + 256 * countBits s.seamMap 8
  else if o = 0x20 then
    (if s.sys.off 0 then 0 else b.ports.toNat % 2 ^ 32) + (if s.sys.off 1 then 0 else b.ports.toNat / 2 ^ 32 * 2 ^ 32)
  else if o = 0x30 then b.tempDie % 256 * 256 + b.tempStack % 256
  else 0

/-- A slot-table entry as it reads (10_memory.md R266). -/
def State.slotReg (s : State) (k n : Nat) : Nat :=
  if n % 1024 < s.slotsOf k (n / 1024) then
    match s.mem.slots.find? (4096 * 1024 * k + n) with
    | some e => 2 ^ 63 + (if e.dirty then 2 ^ 62 else 0) + (if e.pin then 2 ^ 61 else 0) + e.seq % 2 ^ 16 * 2 ^ 32 + e.hrow % 2 ^ 14
    | none => 0
  else 0

/-- A bit as it reads. -/
def flagBit (b : Bool) (k : Nat) : Nat := if b then 2 ^ k else 0

/-- A register of the package block as it reads. -/
def State.pkgRead (s : State) (o : Nat) : Nat :=
  let v := (s.reg (pkgBlk o)).toNat
  if o < 0x100 ∧ o % 16 = 0 then v / 4 * 4 + s.pclass (o / 16)
  else if 0x1000 ≤ o ∧ o < 0x1400 then v + flagBit (s.sys.switching.any (fun p => decide (p.1 = (o - 0x1000) / 8))) 63
  else if 0x2000 ≤ o ∧ o < 0x2040 ∧ o % 16 = 8 then
    let d := s.sys.domains.get { } ((o - 0x2000) / 16)
    d.point + flagBit d.target.isSome 63
  else if 0x30000 ≤ o ∧ o < 0x30400 ∧ 24 ≤ o % 64 then 0
  else if o = 0x70000 then v % 4 + 256 * s.dieState 0 + 1024 * s.dieState 1
  else if o = 0x80000 then flagBit s.sys.preempt.isNone 63 + flagBit s.sys.shortFlag 62
  else if o = 0x80018 then s.sys.presz
  else if o = 0x80020 then flagBit s.sys.restore.isNone 63 + s.sys.restoreResult * 2 ^ 56
  else if o = 0x80028 then flagBit s.killDone 63
  else if 0xA0000 ≤ o ∧ o < 0xA8000 then s.houseReg (o - 0xA0000)
  else v

/-- The register at an address, 8 bytes aligned, as it reads. -/
def State.regRead (s : State) (a : Nat) : Nat :=
  match blockOf a with
  | .die d o =>
    if o = 0x3000 then flagBit (s.sys.inv.find? d).isNone 63
    else if o = 0x3100 then flagBit (s.sys.lrev.find? d).isNone 63
    else (s.reg a).toNat
  | .pkg o => s.pkgRead o
  | .base k o => if 0x4000000 ≤ o ∧ o < 0x6000000 then s.slotReg k ((o - 0x4000000) / 8) else (s.reg a).toNat
  | .arb _ _ => (s.reg a).toNat
  | .hole => 0

/-! ## The recovery mailbox (25_physical.md R528) -/

/-- The image of a kind in package flash: what recovery wrote last, or what the package was made with, if it has one
(25_physical.md R527, R528). -/
def imageOf (m : SMap (List Byte)) (k : Nat) : Option (List Byte) :=
  match m.find? k with
  | some b => some b
  | none => Config.factoryImage k

/-- A command written to the recovery mailbox; ignored while one is in progress. -/
def State.mailCmd (s : State) (c : Nat) : State :=
  if s.boot.cmd ≠ 0 ∨ (c ≠ 1 ∧ c ≠ 2) then s
  else { s.setReg (pkgBlk 0xA8020) 1 with boot := { s.boot with cmd := c } }

/-- A command ends with OK or an error. -/
def State.mailEnd (s : State) (err : Nat) : State :=
  { s.setReg (pkgBlk 0xA8020) (if err = 0 then 2 else BitVec.ofNat 64 (256 * err)) with boot := { s.boot with cmd := 0 } }

def State.mailKind (s : State) : Nat := field (s.reg (pkgBlk 0xA8000)) 31 0
def State.mailLen (s : State) : Nat := (s.reg (pkgBlk 0xA8008)).toNat
def State.mailOff (s : State) : Nat := (s.reg (pkgBlk 0xA8010)).toNat
def State.mailChunk (s : State) : Nat := field (s.reg (pkgBlk 0xA8018)) 31 0

/-- KIND and LEN are in range. -/
def State.mailOk (s : State) : Bool := decide (s.mailKind < 3) && decide (1 ≤ s.mailLen) && decide (s.mailLen ≤ 2 ^ 26)

/-- RECOVERY_WRITE_CHUNK: the bytes of DATA go to the slot of the image; the flash may fail. -/
def execRecoveryWriteChunk (s : State) : Answer :=
  .next (if s.boot.cmd ≠ 1 then s
    else if !s.mailOk || !decide (s.mailOff % 65536 = 0) || !decide (1 ≤ s.mailChunk) || !decide (s.mailChunk ≤ 65536) ||
      decide (s.mailLen < s.mailOff + s.mailChunk) then s.mailEnd 1
    else if Config.freeBool (1024 * s.tick + 1001) then s.mailEnd 2
    else
      let img := (List.range s.mailChunk).foldl (fun (m : SMap Byte) k =>
        m.set (s.mailOff + k) (cellGet s.devBytes (pkgBlk 0xA9000 + k))) (s.boot.staged.get [] s.mailKind)
      ({ s with boot := { s.boot with staged := s.boot.staged.set s.mailKind img } }).mailEnd 0)

/-- RECOVERY_FINISH_IMAGE: an image of which every byte has been written replaces the one of its kind. -/
def execRecoveryFinishImage (s : State) : Answer :=
  .next (if s.boot.cmd ≠ 2 then s
    else if !s.mailOk then s.mailEnd 1
    else
      let img := s.boot.staged.get [] s.mailKind
      if (List.range s.mailLen).all (fun k => (SMap.find? img k).isSome) then
        ({ s with boot := { s.boot with
            flash := s.boot.flash.set s.mailKind ((List.range s.mailLen).map (fun k => SMap.get (α := Byte) 0 img k))
            staged := s.boot.staged.del s.mailKind } }).mailEnd 0
      else s.mailEnd 3)

/-! ## Attestation mailboxes (15_isolation.md R436, R437) -/

/-- Start of the mailbox of a function: physical function 0 by its address; a virtual function's stands in its own BAR. -/
def boxOf (fn : Nat) : Nat := if fn = 0 then pkgBlk 0xC0000 else 2 ^ 48 + 2 ^ 20 * fn

/-- A request of a frozen host function ends with Completer Abort (15_isolation.md R413). -/
def State.abort (s : State) (fn addr : Nat) : State := { s with outs := s.outs ++ [.resp fn addr 0 false] }

/-- ATTEST_REQ: a report is to be built; ignored while one is. -/
def execAttestReq (fn : Nat) (v : BitVec 64) (s : State) : Answer :=
  .next (s.whenReady <| if s.frozenFns.contains fn then s.abort fn (if fn = 0 then pkgBlk 0xC0020 else 0x800000008020)
    else if field v 31 0 ≠ 1 ∨ s.boot.reports.contains fn then s
    else { s with boot := { s.boot with reports := s.boot.reports ++ [fn] }
                  devBytes := putBytes s.devBytes (boxOf fn + 0x24) (bytesOf 4 2) })

/-- n bytes of a hash or signature. -/
def fixed (n : Nat) (b : List Byte) : List Byte := (List.range n).map (fun k => b.getD k 0)

/-- What the digest of a partition covers (15_isolation.md R436). -/
def State.digestOf (s : State) (p : Nat) : List Byte :=
  let regs (l : List Nat) : List Byte := l.flatMap (fun a => bytesOf 8 (s.regRead a))
  fixed 64 (Config.shake256 64 (
    regs ((s.clustersOf p).map (fun g => dieBlk (dieOf g) (0x1000 + 8 * (g % 64)))) ++
    regs ((((List.range 128).filter (fun e => decide (field (s.reg (pkgBlk (0x10000 + 16 * e))) 59 56 = p))).flatMap (fun e =>
      [pkgBlk (0x10000 + 16 * e), pkgBlk (0x10008 + 16 * e)]))) ++
    regs ((List.range 12).map (fun k => baseBlk k (0x2000 + 8 * p))) ++
    regs (((List.range 64).filter (fun n => decide (field (s.reg (pkgBlk (0x60000 + 8 * n))) 3 0 = p))).map (fun n => pkgBlk (0x60000 + 8 * n))) ++
    regs ((List.range 4).map (fun w => pkgBlk (0x61000 + 32 * p + 8 * w))) ++
    regs [pkgBlk (0x62000 + 16 * p), pkgBlk (0x62008 + 16 * p), pkgBlk (16 * p)]))

/-- The report of a function (15_isolation.md R437). -/
def State.report (s : State) (fn : Nat) : List Byte :=
  let ps := if fn = 0 then List.range 16 else [fn - 1]
  getBytes s.devBytes (boxOf fn) 32 ++ bytesOf 8 Config.serial.toNat ++ bytesOf 1 (countBits s.seamMap 8) ++ bytesOf 1 3 ++
  List.replicate 6 0 ++ (List.range 3).flatMap (fun k => fixed 64 (Config.shake256 64 (s.boot.inUse.get [] k))) ++
  bytesOf 2 ps.length ++ List.replicate 6 0 ++ ps.flatMap (fun p => bytesOf 1 p ++ List.replicate 7 0 ++ s.digestOf p)

/-- The certificate chain: the attestation key's, then the identity key's (15_isolation.md R437). -/
def certificates (key : List Byte) : List Byte :=
  let a := Config.certificate (some key)
  let b := Config.certificate none
  bytesOf 4 a.length ++ a ++ bytesOf 4 b.length ++ b

/-- REPORT_DONE: report, signature and chain stand in BUF, DONE is set and vector 1 raised; without an attestation key ST.ERROR is 1
instead (15_isolation.md R436, R437; log entry 137). -/
def execReportDone (fn : Nat) (s : State) : Answer :=
  .next (if !s.boot.reports.contains fn then s
    else
      let t := { s with boot := { s.boot with reports := s.boot.reports.filter (fun f => !decide (f = fn)) } }
      match s.boot.attestKey with
      | none => { t with devBytes := putBytes s.devBytes (boxOf fn + 0x24) (bytesOf 4 0x100) }
      | some key =>
        let r := s.report fn
        let c := certificates key
        let b := putBytes (putBytes s.devBytes (boxOf fn + 0x40) (r ++ fixed 49856 (Config.sign key r) ++ c)) (boxOf fn + 0x24)
          (bytesOf 4 1 ++ bytesOf 4 r.length ++ bytesOf 4 49856 ++ bytesOf 4 c.length)
        { t with devBytes := b }.raise fn 1)

/-- A byte of a mailbox as it reads: BUF reads 0 while a report is built. -/
def State.boxByte (s : State) (fn o : Nat) : Byte :=
  if 0x40 ≤ o ∧ s.boot.reports.contains fn then 0
  else if 0x20 ≤ o ∧ o < 0x24 then 0
  else cellGet s.devBytes (boxOf fn + o)

end Sys2Proof.Machine
end

