-- ==== Sys2Proof/Machine/Domain.lean ====
section
/-! DEFINITION. Power domains, gating a die, bring-up and resets (15_isolation.md R424 to R430, 16_recovery.md R471,
25_physical.md R524 to R531). -/

namespace Sys2Proof.Machine

/-! ## Domains (15_isolation.md R425 to R427) -/

/-- A domain's target: a different point starts a change, and no run of its partitions holds its point any longer. -/
def State.setTarget (s : State) (r p : Nat) : State :=
  let d := s.sys.domains.get { } r
  let t := s.setReg (pkgBlk (0x2000 + 16 * r)) (BitVec.ofNat 64 p)
  if d.point = p then { t with sys := { t.sys with domains := t.sys.domains.set r { d with target := none } } }
  else
    let u := t.unsteady r
    { u with sys := { u.sys with domains := u.sys.domains.set r { d with target := some p } } }

/-- A q0 operation of a strait lease is in progress on clusters of a domain (08_bonds.md R191). -/
def State.straitBusy (s : State) (r : Nat) : Bool :=
  s.clusters.any (fun p => p.2.leases.any (fun l =>
    l.strait && decide (s.regulator l.clu = r) && l.q0.any (fun o => !decide (o.st = .queued))))

/-- POINT_CHANGE_DONE: domain idx holds its target; a strait lease defers it (15_isolation.md R425). -/
def execPointChangeDone (s : State) : Answer :=
  let r := s.cur.idx
  let d := s.sys.domains.get { } r
  .next (match d.target with
    | some p =>
      if s.straitBusy r then s
      else { s with sys := { s.sys with domains := s.sys.domains.set r { point := p, target := none } } }
    | none => s)

/-- The request of every cluster of a partition: the highest perf request of the partition's resident tasks
(14_control_instr.md R403). -/
def State.perfOf (s : State) (p : Nat) : Nat :=
  s.warps.foldl (fun m x => if x.2.resident && decide (x.2.part = p) then max m (x.2.perf.getD 0) else m) 0

/-- Partitions with clusters in a domain. -/
def State.partsIn (s : State) (r : Nat) : List Nat := (List.range 16).filter (fun p => (s.domainsOf p).contains r)

/-- What the loop wants for a domain (15_isolation.md R427). -/
def State.wanted (s : State) (r : Nat) (x : Sensors) : Nat :=
  let ps := s.partsIn r
  let want := ps.foldl (fun w p => max w (max (if s.pclass p = 1 then s.recallPoint p else s.defOp p) (s.perfOf p))) 0
  let hot := (List.range 128).any (fun g => decide (s.regulator g = r) && x.hot.contains (dieOf g))
  let cap := if hot then 0 else min 15 (x.caps.getD r 0)
  let cap1 := if 4400 < x.power then min cap 13 else cap
  ps.foldl (fun w p => min w (s.maxOp p)) (min want cap1)

/-- The BUDGET field of an arbiter's register of a cluster. -/
def State.setBudget (s : State) (a g v : Nat) : State := s.storeReg (budgetReg a g) (bits 31 0) (BitVec.ofNat 64 (v % 2 ^ 32))

/-- DOMAIN_LOOP: one pass of the 1 ms loop, which runs from READY on (15_isolation.md R427, 25_physical.md R525). -/
def execDomainLoop (sense : Sensors) (s : State) : Answer :=
  .next (if s.boot.stage ≠ 8 then s
    else
      let s1 := (List.range 4).foldl (fun t r => t.setTarget r (s.wanted r sense)) s
      let s2 := sense.budgets.foldl (fun t b => if b.1 < 12 * 128 then t.setBudget (b.1 / 128) (b.1 % 128) b.2 else t) s1
      { s2 with boot := { s2.boot with tempDie := sense.tempDie, tempStack := sense.tempStack } })

/-- REGULATOR_OVERCURRENT of regulator idx: the budgets of its clusters become 1,024 (15_isolation.md R427). -/
def execRegulatorOvercurrent (s : State) : Answer :=
  let gs := (List.range 128).filter (fun g => decide (s.regulator g = s.cur.idx))
  .next ((List.range 12).foldl (fun t a => gs.foldl (fun t g => t.setBudget a g 1024) t) s)

/-- VIN_LOW: every budget becomes 1,024 (25_physical.md R524). -/
def execVinLow (s : State) : Answer :=
  .next ((List.range 12).foldl (fun t a => (List.range 128).foldl (fun t g => t.setBudget a g 1024) t) s)

/-- FIRMWARE_SWITCH, between two passes of the loop: an image stands staged in the microcontroller's SRAM; one that verifies takes over, and
one that fails is not run (16_recovery.md R471; log entry 122). -/
def execFirmwareSwitch (s : State) : Answer :=
  let b := Config.stagedImage s.tick
  .next (if s.boot.stage ≠ 8 then s
    else { s with boot := { s.boot with sram := b, inUse := if Config.verifies b then s.boot.inUse.set 0 b else s.boot.inUse } })

/-! ## Gating a die (15_isolation.md R429, R430) -/

/-- A valid range-table entry covers memory homed on a die. -/
def State.rangeOnDie (s : State) (d : Nat) : Bool :=
  (List.range 128).any (fun e =>
    let w0 := s.reg (pkgBlk (0x10000 + 16 * e))
    let lo := field w0 46 21
    let hi := field (s.reg (pkgBlk (0x10008 + 16 * e))) 46 21
    let cut (q : Nat) : Nat := if q = 0 then 384 * 512 else 24 * 512
    let meets (q : Nat) : Bool :=
      let a := max lo (2 ^ 25 * q)
      let b := min hi (2 ^ 25 * q + 2 * cut q - 1)
      decide (a ≤ b) && (if d = 0 then decide (a < 2 ^ 25 * q + cut q) else decide (2 ^ 25 * q + cut q ≤ b))
    bitAt w0 63 && decide (lo ≤ hi) && (meets 0 || meets 1))

/-- Nothing stands against gating a die. -/
def State.mayGate (s : State) (d : Nat) : Bool :=
  (List.range 64).all (fun l => (s.cpart (64 * d + l)).isNone) && (List.range 64).all (fun q => (s.binding d q).isNone) &&
  !s.rangeOnDie d

/-- A die whose GATE bit differs from its state begins to wake or to gate, a waking one first; one change runs at a time (log
entry 67). -/
def State.startGating (s : State) : State :=
  let gate (d : Nat) : Bool := bitAt (s.reg (pkgBlk 0x70000)) d
  let start (d : Nat) (g : Bool) : State := { s with sys := { s.sys with gating := some (d, g) } }
  if s.sys.gating.isSome then s
  else if s.sys.gated0 && !gate 0 && !decide (s.boot.dieFail % 2 = 1) then start 0 false
  else if s.sys.gated1 && !gate 1 && !decide (2 ≤ s.boot.dieFail) then start 1 false
  else if !s.sys.gated0 && gate 0 then start 0 true
  else if !s.sys.gated1 && gate 1 then start 1 true
  else s

/-- A write of DIEPWR: its GATE bits are stored, also while a change runs, and a die begins to gate or to wake; a write that sets a
bit against one of the conditions, or would leave no die with power, is ignored with ERR (15_isolation.md R429). -/
def State.diePower (s : State) (v : BitVec 64) : State :=
  let sets (d : Nat) : Bool := bitAt v d && !bitAt (s.reg (pkgBlk 0x70000)) d
  let otherOff (d : Nat) : Bool := bitAt v (1 - d) || s.boot.dieFail.testBit (1 - d)
  if [0, 1].any (fun d => sets d && (!s.mayGate d || otherOff d)) then s.setPkgErr
  else (s.setReg (pkgBlk 0x70000) (BitVec.ofNat 64 (field v 1 0))).startGating

/-- GATE_DIE. -/
def execGateDie (v : BitVec 64) (s : State) : Answer := .next (s.whenReady (s.diePower v))

/-- WAKE_DIE. -/
def execWakeDie (v : BitVec 64) (s : State) : Answer := .next (s.whenReady (s.diePower v))

/-- A die loses power: its L2 and its engine give their contents to memory, the other die's writes to it have arrived, and
its clusters and command processor are as after reset. -/
def State.losePower (s : State) (d : Nat) : State :=
  let s1 := s.settleAll
  let m1 := (s1.mem.granules.filter (fun p => decide (homeOf (8 * p.1) = d))).foldl (fun m p => m.giveUp (8 * p.1)) s1.mem
  let m2 := (m1.l2.filter (fun p => decide (p.1 / 2 ^ 41 = d))).foldl (fun m p => m.evict d (p.1 % 2 ^ 41)) m1
  let m3 := { m2 with tlb := m2.tlb.filter (fun e => !decide (e.die = d)), tlbs := keepVals (fun k _ => !decide (tlbDie k = d)) m2.tlbs }.setWalks d []
  { s1 with
    mem := m3
    cores := s1.cores.filter (fun p => !decide (dieOf (cluOf p.1) = d))
    clusters := s1.clusters.filter (fun p => !decide (dieOf p.1 = d))
    cp := s1.cp.del d }

/-- GATING_DONE: the die is gated, or awake, and a change that was asked for meanwhile begins (15_isolation.md R429, R430). -/
def execGatingDone (s : State) : Answer :=
  let set (s : State) (d : Nat) (off : Bool) : State :=
    { s with sys := { s.sys with gating := none, gated0 := if d = 0 then off else s.sys.gated0
                                 gated1 := if d = 1 then off else s.sys.gated1 } }
  .next (match s.sys.gating with
    | some (d, true) => (set (s.losePower d) d true).startGating
    | some (d, false) => (set s d false).startGating
    | none => s)

/-! ## Resets and bring-up (25_physical.md R524 to R531) -/

/-- The package resets: memory contents, launches and registers are lost, and bring-up starts at a stage; what stands in
flash is kept, and TRIP where the cause keeps it. -/
def State.packageReset (s : State) (stage : Nat) (powered trip : Bool) : State :=
  { State.reset with
    boot := { stage := stage, powered := powered, trip := trip, flash := s.boot.flash, staged := s.boot.staged }
    outs := s.outs, clock := s.clock, cur := s.cur, agenda := s.agenda, tick := s.tick }

/-- RSTCTL: the key 0x5A resets the package and restarts bring-up at stage 2; TRIP is kept (25_physical.md R531). -/
def execRstctl (v : BitVec 64) (s : State) : Answer :=
  .next (if field v 7 0 = 0x5A ∧ s.boot.powered then s.packageReset 2 true s.boot.trip else s)

/-- POWER_ON: VSTBY becomes valid (25_physical.md R526). -/
def execPowerOn (s : State) : Answer := .next (if s.boot.powered then s else s.packageReset 1 true false)

/-- SUPPLY_RESET: the package resets and waits for its supplies (25_physical.md R524). -/
def execSupplyReset (s : State) : Answer := .next (s.packageReset 1 false false)

/-- THERMAL_TRIP: the package resets, and TRIP is set (25_physical.md R525). -/
def execThermalTrip (s : State) : Answer := .next (if s.boot.powered then s.packageReset 1 true true else s)

/-- HOST_LINK_TRAINED, from stage 3 on (25_physical.md R526, R530), and after a rejection at stage 2, where the host must reach the
recovery mailbox (25_physical.md R527; log entry 138). -/
def execHostLinkTrained (s : State) : Answer :=
  .next (if s.boot.powered ∧ (3 ≤ s.boot.stage ∨ s.boot.stopped.isSome) then { s with boot := { s.boot with hostUp := true } } else s)

/-- Why an image is rejected, by its code: it is absent, its signature fails, or its version is below the fused minimum
(25_physical.md R526, R527; log entry 138). -/
def rejection : Option (List Byte) → Option Nat
  | none => some 3
  | some b => if !Config.verifies b then some 1 else if Config.imageVersion b < Config.minVersion then some 2 else none

/-- The code with which a stage fails, where it can fail: at stage 2 that of the first image in load order that is rejected, at stage 5
RINGFAIL where no die is left (25_physical.md R526, R527, R529). -/
def State.stageFails (s : State) (ok : Bool) (code : Nat) : Option Nat :=
  match s.boot.stage with
  | 2 => (List.range 3).findSome? (fun k => rejection (imageOf s.boot.flash k))
  | 3 => if ok then none else some 4
  | 5 => if ok && decide (code % 4 ≠ 3) then none else some 6
  | 6 => if ok then none else some 5
  | _ => none

/-- The repair map from the fuses: CMAP and CELLMASK of both dies (25_physical.md R526). -/
def State.loadFuses (s : State) : State :=
  [0, 1].foldl (fun s d =>
    (List.range 1088).foldl (fun s j => s.storeReg (dieBlk d (0x8000 + 8 * j)) (bits 63 0)
        (let v := Config.fuseMap (dieBlk d (0x8000 + 8 * j)); BitVec.ofNat 64 (v / 16 % 2 * 16 + min 8 (v % 16))))
      ((List.range 64).foldl (fun s l => s.storeReg (dieBlk d (8 * l)) (bits 63 0)
        (BitVec.ofNat 64 (fusedPos d l))) s)) s

/-- Dies with a channel of two rings that will not lock, bit by bit, are gated, with their bits of DIEFAIL (25_physical.md R529). -/
def State.failDies (s : State) (f : Nat) : State :=
  { s with boot := { s.boot with dieFail := f }, sys := { s.sys with gated0 := f.testBit 0, gated1 := f.testBit 1 } }

/-- What the end of a stage leaves: the images in use with the attestation key that the microcontroller's measurement gives
(15_isolation.md R435), the repair map, dies that failed, memory written as zero, and the ports with light. -/
def State.stageEffect (s : State) (code : Nat) : State :=
  match s.boot.stage with
  | 2 =>
    let img (k : Nat) : List Byte := (imageOf s.boot.flash k).getD []
    { s with boot := { s.boot with inUse := (List.range 3).map (fun k => (k, img k))
                                   attestKey := Config.attestKey (Config.shake256 64 (img 0)) } }
  | 4 => s.loadFuses
  | 5 => s.failDies (code % 4)
  | 6 => { s with mem := {} }
  | 7 => { s with boot := { s.boot with ports := Config.portsUp } }
  | _ => s

/-- BRINGUP_STAGE_DONE: the stage in progress completes, or stops bring-up with its code. At stage 5 the event's code names the dies that
failed; where both have, or the step itself fails, no die is left (25_physical.md R526, R527, R529; log entry 138). -/
def execBringupStageDone (ok : Bool) (code : BitVec 8) (s : State) : Answer :=
  let b := s.boot
  .next (if !b.powered || b.stopped.isSome || 8 ≤ b.stage then s
    else
      match s.stageFails ok code.toNat with
      | none => let t := s.stageEffect code.toNat; { t with boot := { t.boot with stage := b.stage + 1 } }
      | some c =>
        let t := if b.stage = 5 then s.failDies 3 else s
        { t with boot := { t.boot with stopped := some c } })

end Sys2Proof.Machine
end

