-- ==== Sys2Proof/Machine/Sfu.lean ====
section
/-! DEFINITION. The special functions of fsfu: the correctly rounded values of R164 (07_lane_arith.md), computed in fixed
point with far more bits than the nearest rounding boundary of any FP32 source needs. -/

namespace Sys2Proof.Machine

/-- Fraction bits of the fixed point. -/
def sfuBits : Nat := 800

/-- Integer square root, bit by bit from 2^n down. -/
def isqrtFrom : Nat → Nat → Nat → Nat
  | 0, v, r => if (r + 1) * (r + 1) ≤ v then r + 1 else r
  | n + 1, v, r =>
    let t := r + 2 ^ (n + 1)
    isqrtFrom n v (if t * t ≤ v then t else r)

def isqrt (v : Nat) : Nat := isqrtFrom (Nat.log2 v / 2 + 1) v 0

/-- Alternating or plain sum of x^(2k+1) / ((2k+1) d^(2k+1)) in fixed point: n terms from term t = 1/d^(2k+1).
It gives atan(1/d) with alternation and atanh(1/d) without. -/
def invSeries (alt : Bool) (d2 : Nat) : Nat → Nat → Nat → Int → Int
  | 0, _, _, acc => acc
  | n + 1, k, t, acc =>
    let q : Int := ((t / (2 * k + 1) : Nat) : Int)
    invSeries alt d2 n (k + 1) (t / d2) (if alt && decide (k % 2 = 1) then acc - q else acc + q)

/-- π at sfuBits + 160 fraction bits, by Machin's formula. -/
def piFix : Nat :=
  let one := 2 ^ (sfuBits + 160)
  (16 * invSeries true 25 220 0 (one / 5) 0 - 4 * invSeries true 57121 70 0 (one / 239) 0).toNat

/-- ln 2 at sfuBits fraction bits: 2 atanh(1/3). -/
def ln2Fix : Nat := (2 * invSeries false 9 260 0 (2 ^ sfuBits / 3) 0).toNat

/-- Taylor sum of the exponential: y in fixed point, n terms. -/
def expSeries (y : Nat) : Nat → Nat → Nat → Nat → Nat
  | 0, _, _, acc => acc
  | n + 1, k, t, acc => expSeries y n (k + 1) (t * y / 2 ^ sfuBits / (k + 1)) (acc + t)

/-- Taylor sum with alternating signs in y²: from term t, exponents rising by 2 from k. -/
def trigSeries (y2 : Nat) : Nat → Nat → Nat → Int → Bool → Int
  | 0, _, _, acc, _ => acc
  | n + 1, k, t, acc, neg =>
    trigSeries y2 n (k + 2) (t * y2 / 2 ^ sfuBits / ((k + 1) * (k + 2)))
      (if neg then acc - (t : Int) else acc + (t : Int)) (!neg)

/-- sin of a fixed-point angle from 0 to π/2. -/
def sinFix (y : Nat) : Nat := (trigSeries (y * y / 2 ^ sfuBits) 130 1 y 0 false).toNat

/-- cos of a fixed-point angle from 0 to π/2. -/
def cosFix (y : Nat) : Nat := (trigSeries (y * y / 2 ^ sfuBits) 130 0 (2 ^ sfuBits) 0 false).toNat

/-- atanh series of a fixed-point ratio r, r² = r2. -/
def atanhSeries (r2 : Nat) : Nat → Nat → Nat → Nat → Nat
  | 0, _, _, acc => acc
  | n + 1, k, t, acc => atanhSeries r2 n (k + 1) (t * r2 / 2 ^ sfuBits) (acc + t / (2 * k + 1))

def sfuNan (fl : Nat) : Flagged Word := ⟨BitVec.ofNat 32 flFP32.nan, fl⟩
def sfuInf (n : Bool) (fl : Nat) : Flagged Word := ⟨BitVec.ofNat 32 (flFP32.inf n), fl⟩
def sfuZero (n : Bool) : Flagged Word := ⟨BitVec.ofNat 32 (flFP32.signBit n), 0⟩
def sfuOne : Flagged Word := ⟨0x3F800000, 0⟩

/-- Round num / den to FP32. -/
def sfuRound (flush neg : Bool) (num den : Nat) : Flagged Word :=
  let r := flFP32.round .nearest true flush neg num den
  ⟨BitVec.ofNat 32 r.val, r.flags⟩

/-- Round an irrational value whose fixed-point floor is v: the half unit keeps it off every boundary. -/
def sfuIrr (flush neg : Bool) (v : Nat) : Flagged Word := sfuRound flush neg (2 * v + 1) (2 ^ (sfuBits + 1))

/-- mag × 2^exp as a fraction. -/
def dyFrac (m : Nat) (e : Int) : Nat × Nat := if 0 ≤ e then (m * 2 ^ e.toNat, 1) else (m, 2 ^ (-e).toNat)

/-- 1 / √(num / den), exact where it is a fraction whose square root is exact in the fixed point. -/
def rsqVal (flush : Bool) (num den : Nat) : Flagged Word :=
  let r := isqrt (den * 2 ^ (2 * sfuBits) / num)
  if r * r * num = den * 2 ^ (2 * sfuBits) then sfuRound flush false r (2 ^ sfuBits) else sfuIrr flush false r

/-- 2^(num / den), den a power of two: the integer part shifts, the fraction goes through the exponential. -/
def ex2Val (flush neg : Bool) (num den : Nat) : Flagged Word :=
  if decide (num > 1024 * den) then
    (if neg then ⟨0, fUF + fNX⟩ else ⟨BitVec.ofNat 32 (flFP32.inf false), fOF + fNX⟩)
  else
    let n : Int := (if neg then -(num : Int) else (num : Int)) / (den : Int)
    let fnum : Nat := ((if neg then -(num : Int) else (num : Int)) - n * den).toNat
    let v := if fnum = 0 then 2 ^ sfuBits else expSeries (fnum * ln2Fix / den) 150 0 (2 ^ sfuBits) 0
    let (a, b) := if 0 ≤ n then (v * 2 ^ n.toNat, 2 ^ sfuBits) else (v, 2 ^ (sfuBits + (-n).toNat))
    if fnum = 0 then sfuRound flush false a b else sfuRound flush false (2 * a + 1) (2 * b)

/-- log2 of mag × 2^exp. -/
def lg2Val (flush : Bool) (m : Nat) (e : Int) : Flagged Word :=
  let k := Nat.log2 m
  let i : Int := e + k
  if m = 2 ^ k then
    (if i = 0 then sfuZero false else sfuRound flush (decide (i < 0)) i.natAbs 1)
  else
    let r := (m - 2 ^ k) * 2 ^ sfuBits / (m + 2 ^ k)
    let ln := 2 * atanhSeries (r * r / 2 ^ sfuBits) 260 0 r 0
    let f : Int := ((ln * 2 ^ sfuBits / ln2Fix : Nat) : Int)
    let t := i * 2 ^ sfuBits + f
    sfuIrr flush (decide (t < 0)) t.natAbs

/-- sin or cos of num / den, reduced against π/2 exactly enough for every finite source. -/
def trigVal (isCos flush neg : Bool) (num den : Nat) : Flagged Word :=
  let x := num * 2 ^ (sfuBits + 160) / den
  let half := piFix / 2
  let k := x / half
  let r := (x % half) / 2 ^ 160
  let q := (if isCos then k + 1 else k) % 4
  let v := if q % 2 = 0 then sinFix r else cosFix r
  let flip := decide (2 ≤ q)
  sfuIrr flush (if isCos then flip else flip != neg) v

/-- The special functions (07_lane_arith.md R164). -/
def sfu (fn : SfuFn) (flush : Bool) (a : Word) : Flagged Word :=
  match flFP32.read flush a.toNat with
  | .nan => sfuNan 0
  | .inf n =>
    match fn with
    | .rcp => sfuZero n
    | .rsq => if n then sfuNan fNV else sfuZero false
    | .ex2 => if n then sfuZero false else sfuInf false 0
    | .lg2 => if n then sfuNan fNV else sfuInf false 0
    | .sin | .cos => sfuNan fNV
  | .fin n m e =>
    let (num, den) := dyFrac m e
    if m = 0 then
      match fn with
      | .rcp => sfuInf n fDZ
      | .rsq => sfuInf n fDZ
      | .ex2 => sfuOne
      | .lg2 => sfuInf true fDZ
      | .sin => sfuZero n
      | .cos => sfuOne
    else
      match fn with
      | .rcp => sfuRound flush n den num
      | .rsq => if n then sfuNan fNV else rsqVal flush num den
      | .ex2 => ex2Val flush n num den
      | .lg2 => if n then sfuNan fNV else lg2Val flush m e
      | .sin => trigVal false flush n num den
      | .cos => trigVal true flush n num den

end Sys2Proof.Machine
end

