-- ==== Sys2Proof/Machine/FloatLane.lean ====
section
/-! DEFINITION. Lane float instructions, conversions and four-bit codes (07_lane_arith.md R161 to R167). -/

namespace Sys2Proof.Machine

/-- fadd (07_lane_arith.md R161). -/
def execFadd (n : Stall) (d : Dst) (a b : Src) (s : State) : Answer :=
  flagOp2 n 4 (4, 1) d a b (fAdd) s

/-- fsub (07_lane_arith.md R161). -/
def execFsub (n : Stall) (d : Dst) (a b : Src) (s : State) : Answer :=
  flagOp2 n 4 (4, 1) d a b (fSub) s

/-- fmul (07_lane_arith.md R161). -/
def execFmul (n : Stall) (d : Dst) (a b : Src) (s : State) : Answer :=
  flagOp2 n 4 (4, 1) d a b (fMul) s

/-- fmin (07_lane_arith.md R161). -/
def execFmin (n : Stall) (d : Dst) (a b : Src) (s : State) : Answer :=
  flagOp2 n 4 (4, 1) d a b (fMinMax false) s

/-- fmax (07_lane_arith.md R161). -/
def execFmax (n : Stall) (d : Dst) (a b : Src) (s : State) : Answer :=
  flagOp2 n 4 (4, 1) d a b (fMinMax true) s

/-- d := rne_fp32(a × b + c) (07_lane_arith.md R162). -/
def execFfma (n : Stall) (d : Dst) (a b c : Src) (s : State) : Answer :=
  laneOp n 4 4 (4, 1) (fun _ => srcRes a ++ srcRes b ++ srcRes c)
    (fun v => .flagged d (fFma (bitAt v.w.trec.flags 0) (v.src 0 a) (v.src 1 b) (v.src 2 c))) s

/-- Each executing lane's bit of the mask := the FP32 relation (07_lane_arith.md R163). -/
def execFcmp (n : Stall) (k : BitVec 4) (a b : Src) (c : FloatCond) (s : State) : Answer :=
  laneOp n 4 4 (4, 1) (fun _ => srcRes a ++ srcRes b)
    (fun v =>
      let r := fCompare c (bitAt v.w.trec.flags 0) (v.src 0 a) (v.src 1 b)
      { mkb := [(k.toNat, r.val)], flags := r.flags }) s

/-- A special function (07_lane_arith.md R164); variable latency. -/
def execFsfu (n : Stall) (d : Dst) (a : Src) (f : SfuFn) (s : State) : Answer :=
  flagOp1 n 0 (5, 2) d a (sfu f) s

/-- A conversion between formats (07_lane_arith.md R165). -/
def execFcvt (n : Stall) (d : Dst) (a : Src) (v : BitVec 1) (r : Rnd) (t u : Fmt) (s : State) : Answer :=
  flagOp1 n 4 (4, 1) d a (fun flush x => fConvert t u r (decide (v = 1)) flush x) s

/-- Code one element of a square tile (07_lane_arith.md R166). -/
def execFq4 (n : Stall) (d : Dst) (a b : Src) (t : CodeType) (s : State) : Answer :=
  flagOp2 n 4 (4, 1) d a b (fun _ x y => fq4 t x y) s

/-- Decode one element of a square tile (07_lane_arith.md R167). -/
def execFdq4 (n : Stall) (d : Dst) (a b : Src) (t : CodeType) (s : State) : Answer :=
  flagOp2 n 4 (4, 1) d a b (fun _ x y => fdq4 t x y) s

end Sys2Proof.Machine
end

