-- ==== Sys2Proof/Machine/HostSide.lean ====
section
/-! DEFINITION. What comes in from the host link and the fabric: register writes, doorbells, requests to memory, and peers
(00_scope.md R6, 11_ordering.md R308, 13_scheduling.md R345, 15_isolation.md R405, R430 to R437, 25_physical.md R530). -/

namespace Sys2Proof.Machine

/-! ## Register writes -/

/-- A write of some bytes of a die-block register, put in place: en are their bits. The bytes that a narrow write of INV or LEASEREV
leaves out count as 0 (DESIGN CHOICE, log entry 44). -/
def State.dieWrite (s : State) (d o : Nat) (en v : Word64) : State :=
  let a := dieBlk d o
  let whole := (s.reg a &&& ~~~en) ||| (v &&& en)
  if o < 0x200 then s.after (execCmapWrite d (o / 8) whole s)
  else if 0x1000 ≤ o ∧ o < 0x1200 then s.after (execCpartWrite d ((o - 0x1000) / 8) whole s)
  else if 0x2000 ≤ o ∧ o < 0x2400 ∧ o % 16 = 0 then s.after (execQbindWrite d ((o - 0x2000) / 16) whole s)
  else if o = 0x3000 then
    (match field v 62 61 with
     | 0 => s.after (execInvAll d v s)
     | 1 => s.after (execInvSpace d v s)
     | 2 => s.after (execInvPages d v s)
     | _ => s)
  else if o = 0x3100 then s.after (execLeaserev d v s)
  else if 0x5000 ≤ o ∧ o < 0x5400 then s.after (execTqovfWrite d ((o - 0x5000) / 16) (o % 16 / 8) whole s)
  else if o = 0x6000 then s.after (execSynovfWrite d whole s)
  else if 0x8000 ≤ o ∧ o < 0x8000 + 8 * 16 * 68 then
    s.after (execCellmaskWrite d ((o - 0x8000) / 128) ((o - 0x8000) / 8 % 16) whole s)
  else s.storeReg a en v

/-- The same for the package block; log entry 44 covers FRESP, UNFRZ, PRECTL, RESTORE and KILLCTL. -/
def State.pkgWrite (s : State) (o : Nat) (en v : Word64) : State :=
  let a := pkgBlk o
  let whole := (s.reg a &&& ~~~en) ||| (v &&& en)
  if 0x1000 ≤ o ∧ o < 0x1400 then s.after (execRegselWrite ((o - 0x1000) / 8) whole s)
  else if 0x2000 ≤ o ∧ o < 0x2040 ∧ o % 16 = 0 then s.setTarget ((o - 0x2000) / 16) (field whole 3 0)
  else if 0x10000 ≤ o ∧ o < 0x10800 then s.storeRange a en v
  else if o = 0x11000 then s.after (execSync v s)
  else if 0x30000 ≤ o ∧ o < 0x30400 then
    let p := (o - 0x30000) / 64
    (match o % 64 with
     | 0 => s.faultqWrite p 0 en v
     | 8 => s.faultqWrite p 8 en v
     | 16 => s.after (execFaultQueueHeadWrite p whole s)
     | 32 => if bitAt v 32 then s.after (execFrespFail p (field v 31 0) s) else s.after (execFrespRetry p (field v 31 0) s)
     | _ => s)
  else if o = 0x42000 then
    (if field v 17 16 = 0 then s.after (execUnfreezeKill v s) else s.after (execUnfreezeReset v s))
  else if 0x62000 ≤ o ∧ o < 0x62100 then s.after (execExpwWrite ((o - 0x62000) / 16) (o % 16 / 8) whole s)
  else if o = 0x70000 then s.after (execGateDie whole s)
  else if o = 0x80000 then
    (match field v 61 60 with
     | 0 => s.after (execPreemptLaunch v s)
     | 1 => s.after (execPreemptPartition v s)
     | _ => s.after (execShortSaveResume v s))
  else if o = 0x80020 then s.after (execRestore v s)
  else if o = 0x80028 then
    (match field v 62 61 with
     | 0 => s.after (execKillLaunch v s)
     | 1 => s.after (execKillPartition v s)
     | _ => if s.killDone then s else s.setPkgErr)
  else if o = 0xA0010 then (if bitAt (v &&& en) 63 then { s with boot := { s.boot with trip := false } } else s)
  else if o = 0xA0028 then s.after (execRstctl (v &&& en) s)
  else if o = 0xA8018 then
    let t := s.storeReg a en v
    if en &&& bits 63 32 = 0 then t else t.mailCmd (field v 63 32)
  else s.storeReg a en v

/-- Bytes of an address put in place in the register that holds them. Where the write is narrower than a register that acts on it (a WO
register, or INV, LEASEREV, PRECTL, KILLCTL, FRESP), the action takes the bytes that it does not write as 0 (DESIGN CHOICE, log entry
44). -/
def placed (a n : Nat) (b : List Byte) : Word64 × Word64 :=
  (byteBits (a % 8) n, BitVec.ofNat 64 (ofBytes (b.take n) * 2 ^ (8 * (a % 8))))

/-- A write to quarter 10 of bytes within one register, when every register can be reached. -/
def State.regWriteAt (s : State) (a n : Nat) (b : List Byte) : State :=
  let x := placed a n b
  match blockOf (a / 8 * 8) with
  | .die d o => if s.sys.off d then s else s.dieWrite d o x.1 x.2
  | .pkg o =>
    if 0xA9000 ≤ o ∧ o < 0xB9000 then { s with devBytes := putBytes s.devBytes a (b.take n) }
    else if 0xC0000 ≤ o ∧ o < 0xC0020 then { s with devBytes := putBytes s.devBytes a (b.take n) }
    else if o = 0xC0020 ∧ a % 8 < 4 then s.after (execAttestReq 0 (x.2 &&& x.1) s)
    else s.pkgWrite o x.1 x.2
  | .base k o =>
    if 0x100000 ≤ o ∧ o < 0x108000 then
      s.after (execFscfgWrite k ((o - 0x100000) / 8) ((s.reg (a / 8 * 8) &&& ~~~x.1) ||| (x.2 &&& x.1)) s)
    else s.storeReg (a / 8 * 8) x.1 x.2
  | .arb _ _ => s.storeReg (a / 8 * 8) x.1 x.2
  | .hole => s

/-- A quarter-10 address lies in the housekeeping block or the recovery mailbox. -/
def isHouse (a : Nat) : Bool := decide (pkgBlk 0xA0000 ≤ a) && decide (a < pkgBlk 0xC0000)

/-- Until READY only the housekeeping block and the recovery mailbox are reached (25_physical.md R527, R530). -/
def State.reachable (s : State) (a : Nat) : Bool := decide (s.boot.stage = 8) || isHouse a

/-- A write of bytes to quarter 10, register by register. -/
def State.regWrite (s : State) (a : Nat) (b : List Byte) : Nat → State
  | 0 => s
  | k + 1 =>
    let n := min b.length (8 - a % 8)
    if n = 0 then s
    else (if s.reachable a then s.regWriteAt a n b else s).regWrite (a + n) (b.drop n) k

/-- REGISTER_WRITE of size bytes, at most 8 (00_scope.md R6). -/
def execRegisterWrite (addr size : Nat) (v : BitVec 64) (s : State) : Answer :=
  .next (if decide (quarter addr = 2) && s.boot.powered && decide (size ≤ 8) then s.regWrite addr (bytesOf size v.toNat) 2 else s)

/-- A byte of quarter 10 as it reads (15_isolation.md R430, 25_physical.md R530). -/
def State.regByte (s : State) (a : Nat) : Byte :=
  if !s.reachable a then 0
  else
    match blockOf a with
    | .die d _ => if s.sys.off d then 0 else BitVec.ofNat 8 (s.regRead (a / 8 * 8) / 2 ^ (8 * (a % 8)))
    | .pkg o =>
      if (0x40000 ≤ o ∧ o < 0x40800) ∨ (0x50000 ≤ o ∧ o < 0x52000) then cellGet s.devBytes a
      else if 0xA801C ≤ o ∧ o < 0xA8020 then 0
      else if 0xC0000 ≤ o ∧ o < 0xF8000 then s.boxByte 0 (o - 0xC0000)
      else BitVec.ofNat 8 (s.regRead (a / 8 * 8) / 2 ^ (8 * (a % 8)))
    | _ => BitVec.ofNat 8 (s.regRead (a / 8 * 8) / 2 ^ (8 * (a % 8)))

/-! ## Doorbells (13_scheduling.md R345, 15_isolation.md R432) -/

/-- QUEUE_DOORBELL: TAIL is written, for a queue bound to the function's partition; that of a frozen function is refused
(15_isolation.md R413, R432). -/
def execQueueDoorbell (fn die q : Nat) (tail : BitVec 32) (s : State) : Answer :=
  .next (if s.frozenFns.contains fn then s.abort fn (0x800000000000 + 8 * (64 * die + q)) else match s.binding die q with
    | some (part, space) =>
      if fn = part + 1 ∧ s.boot.stage = 8 then
        ((s.updQueue (64 * die + q) (fun c => { c with bell := some tail.toNat, told := true })).ringBell die q part space).1
      else s
    | none => s)

/-! ## Requests to memory (11_ordering.md R308, 15_isolation.md R409, R413, R432) -/

/-- Pieces of an access of n bytes, each within one granule. -/
def pieces (a : Nat) : Nat → Nat → List (Nat × Nat)
  | 0, _ => []
  | _, 0 => []
  | k + 1, n =>
    let m := min n (8 - a % 8)
    (a, m) :: pieces (a + m) k (n - m)

/-- Read the pieces of an access at system scope, as the host or a peer sees them: none where one of them met an error; an acquire
first sees the earlier epochs of the releases that it reads (11_ordering.md R291, R308; log entry 35). -/
def State.readPieces (s : State) (m : Master) (acq : Bool) : List (Nat × Nat) → State × Option (List Byte)
  | [] => (s, some [])
  | (a, n) :: r =>
    match (if acq then s.updMem (fun x => x.acquireAt m.die (canonPa a)) else s).l2Read m (canonPa a) n with
    | (t, none) => (t, none)
    | (t, some _) =>
      match t.readPieces m acq r with
      | (u, some l) => (u, some ((List.range n).map (fun k => t.mem.hostByte m.die (canonPa a + k)) ++ l))
      | x => x

/-- Write the pieces of an access. -/
def State.writePieces (s : State) (m : Master) : List (Nat × Nat) → List Byte → State
  | [], _ => s
  | (a, n) :: r, b => (s.l2Write m (canonPa a) n (ofBytes (b.take n))).writePieces m r (b.drop n)

/-- How many bytes a request touches. -/
def reqLen : ReqOp → Nat
  | .read n => n
  | .write b => b.length
  | .atomic op _ _ => atomSize op

def reqKind : ReqOp → AccKind
  | .read _ => .read
  | .write _ => .write
  | .atomic _ _ _ => .atomic

/-- Perform a checked request to the stacks: the state, and what is answered. A release closes the epoch of its die first
(11_ordering.md R287, R290, R308). -/
def State.serveReq (s0 : State) (m : Master) (a : Nat) (rel acq : Bool) (op : ReqOp) : State × Option Nat :=
  let s := if rel then s0.updMem (fun x => x.bump m.die) else s0
  match op with
  | .read n =>
    let x := s.readPieces m acq (pieces a (n + 1) n)
    (x.1, x.2.map ofBytes)
  | .write b => (s.writePieces m (pieces a (b.length + 1) b.length) b, some 0)
  | .atomic op b c =>
    let x := s.atomic m (canonPa a) op b c acq
    (x.1, x.2.map (fun v => v.toNat))

/-- Which bytes of an access a check fails for. -/
def firstBad (a n : Nat) (ok : Nat → Bool) : Option Nat := ((pieces a (n + 1) n).map (·.1)).find? (fun p => !ok p)

/-- An atomic that is not aligned to its size is no access the engine makes. -/
def reqAligned (a : Nat) : ReqOp → Bool
  | .atomic op _ _ => decide (a % atomSize op = 0)
  | _ => true

/-- The answer to a host request. -/
def State.respond (s : State) (r : HostReq) (v : Option Nat) : State :=
  { s with outs := s.outs ++ [.resp r.fn r.addr (v.getD 0) v.isSome] }

/-- A write of n bytes within one register of the BAR of a virtual function: a doorbell, its fault queue, NONCE or REQ of its mailbox,
whose other fields are read-only (00_scope.md R6, R7, 15_isolation.md R432, R437; log entry 44). -/
def State.barWriteAt (s : State) (fn o n : Nat) (b : List Byte) : State :=
  let v := (placed o n b).2
  if o < 0x400 then (if o % 8 < 4 then s.after (execQueueDoorbell fn (o / 8 / 64) (o / 8 % 64) (v.setWidth 32) s) else s)
  else if 0x4000 ≤ o ∧ o < 0x4040 then s.regWriteAt (faultReg (fn - 1) (o - 0x4000)) n b
  else if 0x8000 ≤ o ∧ o < 0x8020 then { s with devBytes := putBytes s.devBytes (boxOf fn + (o - 0x8000)) (b.take n) }
  else if 0x8020 ≤ o ∧ o < 0x8024 then s.after (execAttestReq fn (v &&& bits 31 0) s)
  else s

/-- A write to the BAR of a virtual function, register by register (15_isolation.md R432). -/
def State.barWrite (s : State) (fn o : Nat) (b : List Byte) : Nat → State
  | 0 => s
  | k + 1 =>
    let n := min b.length (8 - o % 8)
    if n = 0 then s else (s.barWriteAt fn o n b).barWrite fn (o + n) (b.drop n) k

/-- A byte of the BAR of a virtual function. -/
def State.barByte (s : State) (fn o : Nat) : Byte :=
  if 0x4000 ≤ o ∧ o < 0x4040 then s.regByte (faultReg (fn - 1) (o - 0x4000))
  else if 0x8000 ≤ o ∧ o < 0x40000 then s.boxByte fn (o - 0x8000)
  else 0

/-- A host request to quarter 10, by its function's BAR. -/
def State.hostRegs (s : State) (r : HostReq) : State :=
  let o := r.addr - 0x800000000000
  match r.op with
  | .read n =>
    s.respond r (some (ofBytes ((List.range n).map (fun k =>
      if r.fn = 0 then s.regByte (r.addr + k) else if s.boot.stage = 8 then s.barByte r.fn (o + k) else 0))))
  | .write b => (if r.fn = 0 then s.regWrite r.addr b (b.length + 1) else if s.boot.stage = 8 then s.barWrite r.fn o b (b.length + 1) else s).respond r (some 0)
  | .atomic _ _ _ => s.respond r none

/-- HOST_ACCESS: a request to a register by BAR, or to device memory, checked under the function's partition and performed
as an access of die 0, or of die 1 while die 0 is off; a violation freezes the function (11_ordering.md R308,
15_isolation.md R409, R413, R430, R432). The freeze record of physical function 0, whose partition is all of them, has PART 0: DESIGN
CHOICE (15_isolation.md R414; log entry 139). The rules give requests of the host and of peers no class, slack or requester id: DESIGN
CHOICE, class 1, 4,096 ns and id 0 (10_memory.md R272, R276; log entry 43). -/
def execHostAccess (req : HostReq) (s : State) : Answer :=
  let part := req.fn - 1
  let m : Master := { die := s.onDie, part := part, space := 16 * part, lid := none, code := 0x4000 + req.fn, tid := 0 }
  let ok (a : Nat) : Bool :=
    if req.fn = 0 then s.allowedAny a (reqKind req.op).writes else s.allowed part a (reqKind req.op).writes
  .next (if !s.boot.hostUp then s
    else if s.frozenFns.contains req.fn then s.respond req none
    else if quarter req.addr = 2 then s.hostRegs req
    else if s.boot.stage ≠ 8 then s.respond req none
    else
      match firstBad req.addr (reqLen req.op) ok with
      | some a => (s.freeze m a (reqKind req.op)).respond req none
      | none =>
        if !reqAligned req.addr req.op then s.respond req none
        else
          let x := s.serveReq m req.addr req.rel req.acq req.op
          x.1.respond req x.2)

/-! ## Fabric peers (15_isolation.md R433, R434) -/

/-- The answer to a peer. -/
def State.answerPeer (s : State) (r : PeerReq) (v : Option Nat) : State :=
  { s with outs := s.outs ++ [.peer r.port r.off (v.getD 0) v.isSome] }

/-- FABRIC_PEER_ACCESS: an access through a port reaches its partition's outward window, where the size and the ranges
allow it, and is performed as an access of the die that the port attaches to (01_machine.md R13, 11_ordering.md R308; log entry 43).
A port that no partition owns, or of a die that is off, carries nothing. -/
def execFabricPeerAccess (req : PeerReq) (s : State) : Answer :=
  let v := s.reg (pkgBlk (0x60000 + 8 * req.port))
  let p := field v 3 0
  let base := field (s.reg (pkgBlk (0x62000 + 16 * p))) 47 21 * 2 ^ 21
  let size := field (s.reg (pkgBlk (0x62008 + 16 * p))) 17 0 * 2 ^ 21
  let d := req.port / 32 % 2
  let m : Master := { die := d, part := p, space := 16 * p, lid := none, code := 0, tid := 0 }
  .next (if s.boot.stage ≠ 8 ∨ 64 ≤ req.port ∨ bitAt v 7 = false ∨ s.sys.off d then s
    else if size < req.off + reqLen req.op ∨ !reqAligned req.off req.op then s.answerPeer req none
    else
      match firstBad (base + req.off) (reqLen req.op) (fun a => s.allowed p a (reqKind req.op).writes) with
      | some _ => s.answerPeer req none
      | none =>
        let x := s.serveReq m (base + req.off) req.rel req.acq req.op
        x.1.answerPeer req x.2)

end Sys2Proof.Machine
end

