-- ==== Sys2Proof/WellFormed.lean ====
section
/-! DEFINITION. Which operand values an instruction may hold: the checks of R67, R70 and R76 that the field
layout alone does not make, and which constructors have instruction words. -/

namespace Sys2Proof

/-- A destination that is an even o-register (07_lane_arith.md R153). -/
def Dst.evenO : Dst → Bool
  | .o n => decide (n.toNat % 2 = 0)
  | .zero => false

/-- A destination that is an even o-register or code 18 (12_memory_instr.md R316). -/
def Dst.evenOrZero : Dst → Bool
  | .o n => decide (n.toNat % 2 = 0)
  | .zero => true

/-- A source that is an even o-register or code 18 (07_lane_arith.md R153, 12_memory_instr.md R316). -/
def Src.evenOrZero : Src → Bool
  | .o n => decide (n.toNat % 2 = 0)
  | .zero => true
  | _ => false

/-- A source that is an even o-register up to a limit (12_memory_instr.md R316). -/
def Src.evenUpTo (top : Nat) : Src → Bool
  | .o n => decide (n.toNat % 2 = 0) && decide (n.toNat ≤ top)
  | _ => false

/-- Which destinations a width allows (12_memory_instr.md R313). -/
def Dst.fits (d : Dst) (w : Width) : Bool :=
  match w, d with
  | .w64, .o n => decide (n.toNat % 2 = 0)
  | .w64, .zero => false
  | .w128, .o n => decide (n.toNat % 4 = 0)
  | .w128, .zero => false
  | _, _ => true

/-- Which stored operands a width allows (12_memory_instr.md R313). -/
def Src.fits (d : Src) (w : Width) : Bool :=
  match w, d with
  | .w64, .o n => decide (n.toNat % 2 = 0)
  | .w64, _ => false
  | .w128, .o n => decide (n.toNat % 4 = 0)
  | .w128, _ => false
  | _, _ => true

/-- Widths 0, 2, 4, 5 and 6: those of st and sts (03_encoding.md R79). -/
def Width.storable : Width → Bool
  | .s8 | .s16 => false
  | _ => true

/-- Operations 00 to 09: those of red (03_encoding.md R80). -/
def AtomOp.redOk : AtomOp → Bool
  | .swap32 | .swap64 | .cas32 | .cas64 => false
  | _ => true

/-- Operand limits of atom (12_memory_instr.md R316). -/
def atomOk (p : AtomOp) (d : Dst) (b : Src) : Bool :=
  match p with
  | .add64 | .swap64 => d.evenOrZero && b.evenOrZero
  | .cas32 => b.evenUpTo 14
  | .cas64 => d.evenOrZero && b.evenUpTo 12
  | _ => true

/-- Operand limits of red (12_memory_instr.md R316). -/
def redOperandOk (p : AtomOp) (b : Src) : Bool :=
  match p with
  | .add64 => b.evenOrZero
  | _ => true

/-- SCOPE must be 0 when SEM is 0 (03_encoding.md R81). -/
def MemExt.scopeOk (x : MemExt) : Bool := !decide (x.sem = .plain) || decide (x.scope = .lane)

/-- SEM and CACHE of ld (03_encoding.md R81). -/
def MemExt.ldOk (x : MemExt) : Bool := x.scopeOk && (decide (x.sem = .plain) || decide (x.sem = .acquire))

/-- SEM and CACHE of st (03_encoding.md R81). -/
def MemExt.stOk (x : MemExt) : Bool := x.scopeOk && (decide (x.sem = .plain) || decide (x.sem = .release))

/-- SEM and CACHE of atom (03_encoding.md R81). -/
def MemExt.atomOk (x : MemExt) : Bool := x.scopeOk && decide (x.cache = .normal)

/-- SEM and CACHE of red (03_encoding.md R81). -/
def MemExt.redOk (x : MemExt) : Bool := x.stOk && decide (x.cache = .normal)

/-- SEM and CACHE of prf (03_encoding.md R81). -/
def MemExt.prfOk (x : MemExt) : Bool :=
  x.scopeOk && decide (x.sem = .plain) && decide (x.cache = .normal)

/-- Limits of rgn and wbk: the last o-register is at most o15, and slots beyond the count hold 0
(07_lane_arith.md R172). -/
def rgnOk (k : BitVec 4) (c : BitVec 2) (j3 j2 j1 _j0 : BitVec 7) : Bool :=
  decide (k.toNat + c.toNat ≤ 15) && (decide (1 ≤ c.toNat) || decide (j1 = 0)) &&
  (decide (2 ≤ c.toNat) || decide (j2 = 0)) && (decide (3 ≤ c.toNat) || decide (j3 = 0))

/-- A copy queue: q1 to q4 (03_encoding.md R82). -/
def copyQueue (q : BitVec 3) : Bool := decide (1 ≤ q.toNat) && decide (q.toNat ≤ 4)

/-- A mask field that is read: mk0 to mk11 (03_encoding.md R70). -/
def readMask (k : BitVec 4) : Bool := decide (k.toNat ≤ 11)

/-- A mask field that is written: mk1 to mk11 (03_encoding.md R70). -/
def writeMask (k : BitVec 4) : Bool := decide (1 ≤ k.toNat) && decide (k.toNat ≤ 11)

/-- Slots of the L-set map that are assigned (03_encoding.md R79, R83). -/
def lAssigned : List Nat :=
  [0x01, 0x02, 0x03, 0x04, 0x05, 0x06, 0x07, 0x08, 0x09, 0x0A, 0x0B, 0x0C, 0x0D, 0x0E, 0x0F,
   0x10, 0x11, 0x12, 0x13, 0x14, 0x15, 0x16, 0x18, 0x19, 0x20, 0x21, 0x22, 0x23, 0x24, 0x25,
   0x26, 0x28, 0x29, 0x2A, 0x30, 0x31, 0x32, 0x33, 0x34, 0x35, 0x36, 0x38, 0x39, 0x3A, 0x3B,
   0x3C, 0x3D, 0x40, 0x41, 0x42, 0x43, 0x44, 0x45, 0x46, 0x50, 0x51, 0x52, 0x53, 0x54, 0x55,
   0x56, 0x57, 0x58, 0x59, 0x5A, 0x70, 0x71, 0x72, 0x73, 0x74, 0x75]

/-- Slots of the U-set map that are assigned (03_encoding.md R82, R83). -/
def uAssigned : List Nat :=
  [0x01, 0x02, 0x03, 0x04, 0x08, 0x09, 0x0A, 0x0B, 0x0C, 0x0D, 0x0E, 0x0F, 0x10, 0x11, 0x12,
   0x13, 0x14, 0x20, 0x21, 0x22, 0x23, 0x24, 0x25, 0x26, 0x27, 0x28, 0x30, 0x31, 0x32, 0x33,
   0x34, 0x35, 0x36, 0x37, 0x38, 0x39, 0x3A, 0x3B, 0x40, 0x41, 0x42, 0x43, 0x44, 0x45, 0x46,
   0x47, 0x48, 0x70, 0x71]

/-- The opcode slot of a first word is assigned (03_encoding.md R79, R82). -/
def slotAssigned (w : Word) : Bool :=
  if bitAt w 31 then uAssigned.contains (field w 30 24) else lAssigned.contains (field w 30 24)

/-- The operand values are among those the manual allows (03_encoding.md R67, R70, R76). -/
def wellFormed (i : Instr) : Bool :=
  match i with
  | .add _ _ _ _ => true
  | .sub _ _ _ _ => true
  | .mul _ _ _ _ => true
  | .mulh _ _ _ _ => true
  | .mulhU _ _ _ _ => true
  | .and _ _ _ _ => true
  | .or _ _ _ _ => true
  | .xor _ _ _ _ => true
  | .andn _ _ _ _ => true
  | .shl _ _ _ _ => true
  | .shr _ _ _ _ => true
  | .sar _ _ _ _ => true
  | .rotl _ _ _ _ => true
  | .min _ _ _ _ => true
  | .max _ _ _ _ => true
  | .minU _ _ _ _ => true
  | .maxU _ _ _ _ => true
  | .neg _ _ _ => true
  | .abs _ _ _ => true
  | .not _ _ _ => true
  | .clz _ _ _ => true
  | .popc _ _ _ => true
  | .brev _ _ _ => true
  | .mov _ _ _ => true
  | .mad _ _ _ _ _ => true
  | .addw _ d a b => d.evenO && a.evenOrZero && b.evenOrZero
  | .lea _ _ _ _ h => decide (h.toNat ≤ 4)
  | .bfx _ _ _ _ _ => true
  | .bfxSigned _ _ _ _ _ => true
  | .bfi _ _ _ _ _ => true
  | .sel _ _ _ _ k => readMask k
  | .cmp _ k _ _ _ => writeMask k
  | .movi _ _ _ => true
  | .moviWide _ _ _ => true
  | .addImm _ _ _ _ => true
  | .mulImm _ _ _ _ => true
  | .andImm _ _ _ _ => true
  | .orImm _ _ _ _ => true
  | .xorImm _ _ _ _ => true
  | .shlImm _ _ _ _ => true
  | .shrImm _ _ _ _ => true
  | .sarImm _ _ _ _ => true
  | .rotlImm _ _ _ _ => true
  | .minImm _ _ _ _ => true
  | .maxImm _ _ _ _ => true
  | .hadd2 _ _ _ _ => true
  | .hsub2 _ _ _ _ => true
  | .hmin2 _ _ _ _ => true
  | .hmax2 _ _ _ _ => true
  | .hadd2Sat _ _ _ _ => true
  | .hsub2Sat _ _ _ _ => true
  | .hmin2U _ _ _ _ => true
  | .hmax2U _ _ _ _ => true
  | .acs2 _ _ _ _ k => decide (1 ≤ k.toNat) && decide (k.toNat ≤ 10)
  | .fadd _ _ _ _ => true
  | .fsub _ _ _ _ => true
  | .fmul _ _ _ _ => true
  | .fmin _ _ _ _ => true
  | .fmax _ _ _ _ => true
  | .ffma _ _ _ _ _ => true
  | .fcmp _ k _ _ _ => writeMask k
  | .fsfu _ _ _ _ => true
  | .fcvt _ _ _ _ _ t u => decide (t ≠ u)
  | .fq4 _ _ _ _ _ => true
  | .fdq4 _ _ _ _ _ => true
  | .shfl _ _ _ _ _ k => readMask k
  | .vote _ _ _ _ k => readMask k
  | .wred _ _ _ _ k => readMask k
  | .rgn _ k c j3 j2 j1 j0 => rgnOk k c j3 j2 j1 j0
  | .wbk _ k c j3 j2 j1 j0 => rgnOk k c j3 j2 j1 j0
  | .mvmFromMain _ _ _ => true
  | .mvmToMain _ _ _ => true
  | .xbnd _ h l => decide (l.toNat ≤ h.toNat)
  | .xset _ _ _ _ => true
  | .ldx _ _ _ _ => true
  | .stx _ _ _ _ => true
  | .ld _ d _ w x => d.fits w && x.ldOk
  | .st _ d _ w x => d.fits w && w.storable && x.stOk
  | .atom _ d _ b p x => atomOk p d b && x.atomOk
  | .red _ _ b p x => p.redOk && redOperandOk p b && x.redOk
  | .prf _ _ _ x => x.prfOk
  | .fence _ _ _ => true
  | .lds _ d _ _ w => d.fits w
  | .sts _ d _ _ w => d.fits w && w.storable
  | .lda _ _ _ _ => true
  | .sta _ _ _ _ => true
  | .ldt _ _ _ _ => true
  | .twait _ _ => true
  | .ldp _ _ _ _ _ => true
  | .bra _ _ => true
  | .brc _ _ k _ => readMask k
  | .call _ _ => true
  | .brx _ _ => true
  | .nop _ => true
  | .exit _ => true
  | .ret _ => true
  | .vac _ => true
  | .yld _ => true
  | .mand _ d a b => writeMask d && readMask a && readMask b
  | .mor _ d a b => writeMask d && readMask a && readMask b
  | .mnot _ d a => writeMask d && readMask a
  | .mset _ d _ => writeMask d
  | .mpop _ _ k => readMask k
  | .mfirst _ _ k => readMask k
  | .mjoin _ k => readMask k
  | .mleave _ k => writeMask k
  | .mwait _ k => readMask k
  | .refill _ _ => true
  | .spawnl _ _ _ _ => true
  | .gbar _ _ => true
  | .lbar _ => true
  | .trap _ _ => true
  | .tret _ => true
  | .esc _ _ => true
  | .brk _ _ => true
  | .rdsr _ _ _ => true
  | .wrsr _ _ _ => true
  | .sadd _ _ _ _ => true
  | .ssub _ _ _ _ => true
  | .smul _ _ _ _ => true
  | .sand _ _ _ _ => true
  | .sor _ _ _ _ => true
  | .sxor _ _ _ _ => true
  | .smin _ _ _ _ => true
  | .smax _ _ _ _ => true
  | .sshl _ _ _ _ => true
  | .sshr _ _ _ _ => true
  | .ssar _ _ _ _ => true
  | .smov _ _ _ => true
  | .sminU _ _ _ _ => true
  | .smaxU _ _ _ _ => true
  | .scmp _ _ _ _ _ => true
  | .ssel _ _ _ _ _ => true
  | .saddImm _ _ _ _ => true
  | .smulImm _ _ _ _ => true
  | .sandImm _ _ _ _ => true
  | .sorImm _ _ _ _ => true
  | .sxorImm _ _ _ _ => true
  | .sshlImm _ _ _ _ => true
  | .sshrImm _ _ _ _ => true
  | .ssarImm _ _ _ _ => true
  | .sminImm _ _ _ _ => true
  | .smaxImm _ _ _ _ => true
  | .smovi _ _ _ => true
  | .smovi32 _ _ _ => true
  | .smovi64 _ _ _ _ => true
  | .bond _ _ _ c r => decide (r ≠ 3) && decide (c ≠ 3)
  | .bondStrait _ _ _ => true
  | .unbond _ _ => true
  | .mma _ _ => true
  | .talloc _ _ _ => true
  | .tfree _ _ => true
  | .tcopy _ q _ => copyQueue q
  | .tquant _ q _ => copyQueue q
  | .aalloc _ _ _ _ => true
  | .afree _ _ => true
  | .sld _ _ _ _ => true
  | .sst _ _ _ _ => true
  | .ldpUniform _ _ _ _ _ => true
  | .gred _ _ _ _ _ => true
  | .qfence _ _ => true
  | .qwait _ _ => true
  | .ttag _ _ => true
  | .tdisc _ _ => true
  | .gath _ _ => true
  | .scat _ _ => true
  | .prom _ _ _ => true
  | .dem _ _ => true
  | .ubra _ _ => true
  | .ubrc _ _ _ _ => true
  | .ucall _ _ => true
  | .uret _ => true
  | .spawn _ _ _ => true
  | .cont _ _ => true
  | .phase _ _ => true
  | .perf _ _ => true
  | .carve _ k => decide (1 ≤ k.toNat) && decide (k.toNat ≤ 5)
  | .rdsrUniform _ _ _ => true
  | .wrsrUniform _ _ _ => true
  | .queueDoorbell _ die _ _ => decide (die < 2)
  | .launchAdmission => true
  | .snapshotCopy _ _ => true
  | .taskPop => true
  | .boundGroupPlacement _ _ => true
  | .castlingThreshold => true
  | .castling => true
  | .boardEntry => true
  | .fairnessForce => true
  | .yieldWindowEnd => true
  | .implicitRefill => true
  | .taskEnd => true
  | .stealRequest => true
  | .stealAnswer => true
  | .stealBackoff => true
  | .carveChange => true
  | .aallocServed => true
  | .leaseJoin => true
  | .leaseRelease => true
  | .tcopyLoad => true
  | .tcopyStore => true
  | .tcopyMove => true
  | .tquantOp => true
  | .gatherOp => true
  | .scatterOp => true
  | .fillLanding _ => true
  | .mmaOp _ => true
  | .pipeTrap => true
  | .engineCompletion => true
  | .redOp => true
  | .syncEngineAtomic => true
  | .syncOverflowMove die _ => decide (die < 2)
  | .promotion => true
  | .demotion => true
  | .channelArrival _ _ _ => true
  | .channelService _ _ _ => true
  | .agePromotion _ _ _ => true
  | .ferryVisit => true
  | .returnVisit => true
  | .l2Writeback die _ => decide (die < 2)
  | .remoteWriteApply die _ => decide (die < 2)
  | .meteringInterval => true
  | .arbiterRequest => true
  | .tlbMiss die _ _ => decide (die < 2)
  | .walk => true
  | .frespRetry _ _ => true
  | .frespFail _ _ => true
  | .drainConfirmed _ => true
  | .cmapWrite die clu _ => decide (die < 2) && decide (clu < 128)
  | .cpartWrite die clu _ => decide (die < 2) && decide (clu < 128)
  | .sync _ => true
  | .qbindWrite die _ _ => decide (die < 2)
  | .invAll die _ => decide (die < 2)
  | .invSpace die _ => decide (die < 2)
  | .invPages die _ => decide (die < 2)
  | .invDone => true
  | .regselWrite clu _ => decide (clu < 128)
  | .regulatorSwitchDone => true
  | .domainLoop _ => true
  | .pointChangeDone => true
  | .regulatorOvercurrent => true
  | .gateDie _ => true
  | .wakeDie _ => true
  | .gatingDone => true
  | .preemptLaunch _ => true
  | .preemptPartition _ => true
  | .preemptHalt => true
  | .contextSave => true
  | .restore _ => true
  | .restorePlacement => true
  | .killLaunch _ => true
  | .killPartition _ => true
  | .leaserev die _ => decide (die < 2)
  | .leaseRevokedFree => true
  | .unfreezeKill _ => true
  | .unfreezeReset _ => true
  | .cellmaskWrite die clu core _ => decide (die < 2) && decide (clu < 128) && decide (core < 2048)
  | .fscfgWrite _ _ _ => true
  | .synovfWrite die _ => decide (die < 2)
  | .tqovfWrite die clu _ _ => decide (die < 2) && decide (clu < 128)
  | .faultqConfigWrite _ _ _ => true
  | .expwWrite _ _ _ => true
  | .registerWrite _ _ _ => true
  | .hostAccess _ => true
  | .fabricPeerAccess _ => true
  | .attestReq _ _ => true
  | .reportDone _ => true
  | .recoveryWriteChunk => true
  | .recoveryFinishImage => true
  | .rstctl _ => true
  | .errorConsumed _ _ => true
  | .rollback _ => true
  | .replayReadmission _ => true
  | .firmwareSwitch => true
  | .powerOn => true
  | .bringupStageDone _ _ => true
  | .vinLow => true
  | .supplyReset => true
  | .thermalTrip => true
  | .unassignedOpcode w => !slotAssigned w
  | .faultQueueHeadWrite _ _ => true
  | .shortSaveResume _ => true
  | .hostLinkTrained => true

/-- The constructor has instruction words; the others are events of agents (03_encoding.md R79, R82). -/
def hasWords (i : Instr) : Bool :=
  match i with
  | .add _ _ _ _ => true
  | .sub _ _ _ _ => true
  | .mul _ _ _ _ => true
  | .mulh _ _ _ _ => true
  | .mulhU _ _ _ _ => true
  | .and _ _ _ _ => true
  | .or _ _ _ _ => true
  | .xor _ _ _ _ => true
  | .andn _ _ _ _ => true
  | .shl _ _ _ _ => true
  | .shr _ _ _ _ => true
  | .sar _ _ _ _ => true
  | .rotl _ _ _ _ => true
  | .min _ _ _ _ => true
  | .max _ _ _ _ => true
  | .minU _ _ _ _ => true
  | .maxU _ _ _ _ => true
  | .neg _ _ _ => true
  | .abs _ _ _ => true
  | .not _ _ _ => true
  | .clz _ _ _ => true
  | .popc _ _ _ => true
  | .brev _ _ _ => true
  | .mov _ _ _ => true
  | .mad _ _ _ _ _ => true
  | .addw _ _ _ _ => true
  | .lea _ _ _ _ _ => true
  | .bfx _ _ _ _ _ => true
  | .bfxSigned _ _ _ _ _ => true
  | .bfi _ _ _ _ _ => true
  | .sel _ _ _ _ _ => true
  | .cmp _ _ _ _ _ => true
  | .movi _ _ _ => true
  | .moviWide _ _ _ => true
  | .addImm _ _ _ _ => true
  | .mulImm _ _ _ _ => true
  | .andImm _ _ _ _ => true
  | .orImm _ _ _ _ => true
  | .xorImm _ _ _ _ => true
  | .shlImm _ _ _ _ => true
  | .shrImm _ _ _ _ => true
  | .sarImm _ _ _ _ => true
  | .rotlImm _ _ _ _ => true
  | .minImm _ _ _ _ => true
  | .maxImm _ _ _ _ => true
  | .hadd2 _ _ _ _ => true
  | .hsub2 _ _ _ _ => true
  | .hmin2 _ _ _ _ => true
  | .hmax2 _ _ _ _ => true
  | .hadd2Sat _ _ _ _ => true
  | .hsub2Sat _ _ _ _ => true
  | .hmin2U _ _ _ _ => true
  | .hmax2U _ _ _ _ => true
  | .acs2 _ _ _ _ _ => true
  | .fadd _ _ _ _ => true
  | .fsub _ _ _ _ => true
  | .fmul _ _ _ _ => true
  | .fmin _ _ _ _ => true
  | .fmax _ _ _ _ => true
  | .ffma _ _ _ _ _ => true
  | .fcmp _ _ _ _ _ => true
  | .fsfu _ _ _ _ => true
  | .fcvt _ _ _ _ _ _ _ => true
  | .fq4 _ _ _ _ _ => true
  | .fdq4 _ _ _ _ _ => true
  | .shfl _ _ _ _ _ _ => true
  | .vote _ _ _ _ _ => true
  | .wred _ _ _ _ _ => true
  | .rgn _ _ _ _ _ _ _ => true
  | .wbk _ _ _ _ _ _ _ => true
  | .mvmFromMain _ _ _ => true
  | .mvmToMain _ _ _ => true
  | .xbnd _ _ _ => true
  | .xset _ _ _ _ => true
  | .ldx _ _ _ _ => true
  | .stx _ _ _ _ => true
  | .ld _ _ _ _ _ => true
  | .st _ _ _ _ _ => true
  | .atom _ _ _ _ _ _ => true
  | .red _ _ _ _ _ => true
  | .prf _ _ _ _ => true
  | .fence _ _ _ => true
  | .lds _ _ _ _ _ => true
  | .sts _ _ _ _ _ => true
  | .lda _ _ _ _ => true
  | .sta _ _ _ _ => true
  | .ldt _ _ _ _ => true
  | .twait _ _ => true
  | .ldp _ _ _ _ _ => true
  | .bra _ _ => true
  | .brc _ _ _ _ => true
  | .call _ _ => true
  | .brx _ _ => true
  | .nop _ => true
  | .exit _ => true
  | .ret _ => true
  | .vac _ => true
  | .yld _ => true
  | .mand _ _ _ _ => true
  | .mor _ _ _ _ => true
  | .mnot _ _ _ => true
  | .mset _ _ _ => true
  | .mpop _ _ _ => true
  | .mfirst _ _ _ => true
  | .mjoin _ _ => true
  | .mleave _ _ => true
  | .mwait _ _ => true
  | .refill _ _ => true
  | .spawnl _ _ _ _ => true
  | .gbar _ _ => true
  | .lbar _ => true
  | .trap _ _ => true
  | .tret _ => true
  | .esc _ _ => true
  | .brk _ _ => true
  | .rdsr _ _ _ => true
  | .wrsr _ _ _ => true
  | .sadd _ _ _ _ => true
  | .ssub _ _ _ _ => true
  | .smul _ _ _ _ => true
  | .sand _ _ _ _ => true
  | .sor _ _ _ _ => true
  | .sxor _ _ _ _ => true
  | .smin _ _ _ _ => true
  | .smax _ _ _ _ => true
  | .sshl _ _ _ _ => true
  | .sshr _ _ _ _ => true
  | .ssar _ _ _ _ => true
  | .smov _ _ _ => true
  | .sminU _ _ _ _ => true
  | .smaxU _ _ _ _ => true
  | .scmp _ _ _ _ _ => true
  | .ssel _ _ _ _ _ => true
  | .saddImm _ _ _ _ => true
  | .smulImm _ _ _ _ => true
  | .sandImm _ _ _ _ => true
  | .sorImm _ _ _ _ => true
  | .sxorImm _ _ _ _ => true
  | .sshlImm _ _ _ _ => true
  | .sshrImm _ _ _ _ => true
  | .ssarImm _ _ _ _ => true
  | .sminImm _ _ _ _ => true
  | .smaxImm _ _ _ _ => true
  | .smovi _ _ _ => true
  | .smovi32 _ _ _ => true
  | .smovi64 _ _ _ _ => true
  | .bond _ _ _ _ _ => true
  | .bondStrait _ _ _ => true
  | .unbond _ _ => true
  | .mma _ _ => true
  | .talloc _ _ _ => true
  | .tfree _ _ => true
  | .tcopy _ _ _ => true
  | .tquant _ _ _ => true
  | .aalloc _ _ _ _ => true
  | .afree _ _ => true
  | .sld _ _ _ _ => true
  | .sst _ _ _ _ => true
  | .ldpUniform _ _ _ _ _ => true
  | .gred _ _ _ _ _ => true
  | .qfence _ _ => true
  | .qwait _ _ => true
  | .ttag _ _ => true
  | .tdisc _ _ => true
  | .gath _ _ => true
  | .scat _ _ => true
  | .prom _ _ _ => true
  | .dem _ _ => true
  | .ubra _ _ => true
  | .ubrc _ _ _ _ => true
  | .ucall _ _ => true
  | .uret _ => true
  | .spawn _ _ _ => true
  | .cont _ _ => true
  | .phase _ _ => true
  | .perf _ _ => true
  | .carve _ _ => true
  | .rdsrUniform _ _ _ => true
  | .wrsrUniform _ _ _ => true
  | .queueDoorbell _ _ _ _ => false
  | .launchAdmission => false
  | .snapshotCopy _ _ => false
  | .taskPop => false
  | .boundGroupPlacement _ _ => false
  | .castlingThreshold => false
  | .castling => false
  | .boardEntry => false
  | .fairnessForce => false
  | .yieldWindowEnd => false
  | .implicitRefill => false
  | .taskEnd => false
  | .stealRequest => false
  | .stealAnswer => false
  | .stealBackoff => false
  | .carveChange => false
  | .aallocServed => false
  | .leaseJoin => false
  | .leaseRelease => false
  | .tcopyLoad => false
  | .tcopyStore => false
  | .tcopyMove => false
  | .tquantOp => false
  | .gatherOp => false
  | .scatterOp => false
  | .fillLanding _ => false
  | .mmaOp _ => false
  | .pipeTrap => false
  | .engineCompletion => false
  | .redOp => false
  | .syncEngineAtomic => false
  | .syncOverflowMove _ _ => false
  | .promotion => false
  | .demotion => false
  | .channelArrival _ _ _ => false
  | .channelService _ _ _ => false
  | .agePromotion _ _ _ => false
  | .ferryVisit => false
  | .returnVisit => false
  | .l2Writeback _ _ => false
  | .remoteWriteApply _ _ => false
  | .meteringInterval => false
  | .arbiterRequest => false
  | .tlbMiss _ _ _ => false
  | .walk => false
  | .frespRetry _ _ => false
  | .frespFail _ _ => false
  | .drainConfirmed _ => false
  | .cmapWrite _ _ _ => false
  | .cpartWrite _ _ _ => false
  | .sync _ => false
  | .qbindWrite _ _ _ => false
  | .invAll _ _ => false
  | .invSpace _ _ => false
  | .invPages _ _ => false
  | .invDone => false
  | .regselWrite _ _ => false
  | .regulatorSwitchDone => false
  | .domainLoop _ => false
  | .pointChangeDone => false
  | .regulatorOvercurrent => false
  | .gateDie _ => false
  | .wakeDie _ => false
  | .gatingDone => false
  | .preemptLaunch _ => false
  | .preemptPartition _ => false
  | .preemptHalt => false
  | .contextSave => false
  | .restore _ => false
  | .restorePlacement => false
  | .killLaunch _ => false
  | .killPartition _ => false
  | .leaserev _ _ => false
  | .leaseRevokedFree => false
  | .unfreezeKill _ => false
  | .unfreezeReset _ => false
  | .cellmaskWrite _ _ _ _ => false
  | .fscfgWrite _ _ _ => false
  | .synovfWrite _ _ => false
  | .tqovfWrite _ _ _ _ => false
  | .faultqConfigWrite _ _ _ => false
  | .expwWrite _ _ _ => false
  | .registerWrite _ _ _ => false
  | .hostAccess _ => false
  | .fabricPeerAccess _ => false
  | .attestReq _ _ => false
  | .reportDone _ => false
  | .recoveryWriteChunk => false
  | .recoveryFinishImage => false
  | .rstctl _ => false
  | .errorConsumed _ _ => false
  | .rollback _ => false
  | .replayReadmission _ => false
  | .firmwareSwitch => false
  | .powerOn => false
  | .bringupStageDone _ _ => false
  | .vinLow => false
  | .supplyReset => false
  | .thermalTrip => false
  | .unassignedOpcode _ => true
  | .faultQueueHeadWrite _ _ => false
  | .shortSaveResume _ => false
  | .hostLinkTrained => false

end Sys2Proof
end

