-- ==== Sys2Proof/Decode.lean ====
section
/-! DEFINITION. The decoder, total on any bytes, and after it the encoder (03_encoding.md). -/

namespace Sys2Proof

/-- Why a word is not an instruction: each raises trap 0x01 (03_encoding.md R76). -/
inductive Reject where
  | badFunction    -- the function is not listed for its opcode
  | reservedField  -- a reserved field or bit is not 0
  | badOperand     -- a field value has no operand (R67, R70, R80)
  | badValue       -- an operand value that the instruction does not allow
  | tooShort       -- fewer bytes than the instruction has
  deriving DecidableEq, Repr

/-- The five-bit code of a source (03_encoding.md R67). -/
def Src.code : Src → BitVec 5
  | .o n => 0#1 ++ n
  | .l0 => 16
  | .l1 => 17
  | .zero => 18
  | .lane => 19
  | .x n => 5#3 ++ n
  | .u n => 3#2 ++ n

/-- The source of a five-bit code: every code is one (03_encoding.md R67). -/
def Src.ofCode (c : BitVec 5) : Src :=
  if c.extractLsb' 4 1 = 0#1 then .o (c.extractLsb' 0 4)
  else if c = 16 then .l0
  else if c = 17 then .l1
  else if c = 18 then .zero
  else if c = 19 then .lane
  else if c.extractLsb' 2 3 = 5#3 then .x (c.extractLsb' 0 2)
  else .u (c.extractLsb' 0 3)

/-- The five-bit code of a destination (03_encoding.md R67). -/
def Dst.code : Dst → BitVec 5
  | .o n => 0#1 ++ n
  | .zero => 18

/-- The destination of a five-bit code, where it is legal (03_encoding.md R67). -/
def Dst.ofCode (c : BitVec 5) : Option Dst :=
  if c.extractLsb' 4 1 = 0#1 then some (.o (c.extractLsb' 0 4))
  else if c = 18 then some .zero
  else none

/-- Code of IntCond. -/
def IntCond.code : IntCond → BitVec 6
  | .eq => 0
  | .ne => 1
  | .lt => 2
  | .le => 3
  | .gt => 4
  | .ge => 5
  | .ltu => 6
  | .leu => 7
  | .gtu => 8
  | .geu => 9

/-- IntCond of a code; a code not listed is rejected (03_encoding.md R80). -/
def IntCond.ofCode (c : BitVec 6) : Option IntCond :=
  [.eq, .ne, .lt, .le, .gt, .ge, .ltu, .leu, .gtu, .geu][c.toNat]?

/-- Code of FloatCond. -/
def FloatCond.code : FloatCond → BitVec 6
  | .eq => 0
  | .ne => 1
  | .lt => 2
  | .le => 3
  | .gt => 4
  | .ge => 5
  | .un => 6
  | .ord => 7

/-- FloatCond of a code; a code not listed is rejected (03_encoding.md R80). -/
def FloatCond.ofCode (c : BitVec 6) : Option FloatCond :=
  [.eq, .ne, .lt, .le, .gt, .ge, .un, .ord][c.toNat]?

/-- Code of SCond. -/
def SCond.code : SCond → BitVec 3
  | .eq => 0
  | .ne => 1
  | .lt => 2
  | .le => 3
  | .ltu => 4
  | .leu => 5

/-- SCond of a code; a code not listed is rejected (03_encoding.md R80). -/
def SCond.ofCode (c : BitVec 3) : Option SCond :=
  [.eq, .ne, .lt, .le, .ltu, .leu][c.toNat]?

/-- Code of SfuFn. -/
def SfuFn.code : SfuFn → BitVec 6
  | .rcp => 0
  | .rsq => 1
  | .ex2 => 2
  | .lg2 => 3
  | .sin => 4
  | .cos => 5

/-- SfuFn of a code; a code not listed is rejected (03_encoding.md R80). -/
def SfuFn.ofCode (c : BitVec 6) : Option SfuFn :=
  [.rcp, .rsq, .ex2, .lg2, .sin, .cos][c.toNat]?

/-- Code of Fmt. -/
def Fmt.code : Fmt → BitVec 3
  | .fp32 => 0
  | .fp16 => 1
  | .bf16 => 2
  | .e4m3 => 3
  | .e5m2 => 4
  | .int32 => 5
  | .uint32 => 6
  | .int8 => 7

/-- Fmt of a code; a code not listed is rejected (03_encoding.md R80). -/
def Fmt.ofCode (c : BitVec 3) : Option Fmt :=
  [.fp32, .fp16, .bf16, .e4m3, .e5m2, .int32, .uint32, .int8][c.toNat]?

/-- Code of Rnd. -/
def Rnd.code : Rnd → BitVec 3
  | .nearest => 0
  | .zero => 1
  | .up => 2
  | .down => 3

/-- Rnd of a code; a code not listed is rejected (03_encoding.md R80). -/
def Rnd.ofCode (c : BitVec 3) : Option Rnd :=
  [.nearest, .zero, .up, .down][c.toNat]?

/-- Code of ShflMode. -/
def ShflMode.code : ShflMode → BitVec 2
  | .idx => 0
  | .up => 1
  | .down => 2
  | .xor => 3

/-- ShflMode of a code; a code not listed is rejected (03_encoding.md R80). -/
def ShflMode.ofCode (c : BitVec 2) : Option ShflMode :=
  [.idx, .up, .down, .xor][c.toNat]?

/-- Code of VoteKind. -/
def VoteKind.code : VoteKind → BitVec 2
  | .all => 0
  | .any => 1
  | .uni => 2
  | .ballot => 3

/-- VoteKind of a code; a code not listed is rejected (03_encoding.md R80). -/
def VoteKind.ofCode (c : BitVec 2) : Option VoteKind :=
  [.all, .any, .uni, .ballot][c.toNat]?

/-- Code of WredOp. -/
def WredOp.code : WredOp → BitVec 5
  | .add => 0
  | .fadd => 1
  | .mins => 2
  | .maxs => 3
  | .minu => 4
  | .maxu => 5
  | .and => 6
  | .or => 7
  | .xor => 8
  | .fmin => 9
  | .fmax => 10

/-- WredOp of a code; a code not listed is rejected (03_encoding.md R80). -/
def WredOp.ofCode (c : BitVec 5) : Option WredOp :=
  [.add, .fadd, .mins, .maxs, .minu, .maxu, .and, .or, .xor, .fmin, .fmax][c.toNat]?

/-- Code of CodeType. -/
def CodeType.code : CodeType → BitVec 2
  | .int => 0
  | .e2m1 => 1
  | .pow2 => 2
  | .hyb => 3

/-- CodeType of a code; a code not listed is rejected (03_encoding.md R80). -/
def CodeType.ofCode (c : BitVec 2) : Option CodeType :=
  [.int, .e2m1, .pow2, .hyb][c.toNat]?

/-- Code of Width. -/
def Width.code : Width → BitVec 6
  | .u8 => 0
  | .s8 => 1
  | .u16 => 2
  | .s16 => 3
  | .w32 => 4
  | .w64 => 5
  | .w128 => 6

/-- Width of a code; a code not listed is rejected (03_encoding.md R80). -/
def Width.ofCode (c : BitVec 6) : Option Width :=
  [.u8, .s8, .u16, .s16, .w32, .w64, .w128][c.toNat]?

/-- Code of AtomOp. -/
def AtomOp.code : AtomOp → BitVec 6
  | .add32 => 0
  | .add64 => 1
  | .fadd32 => 2
  | .mins32 => 3
  | .maxs32 => 4
  | .minu32 => 5
  | .maxu32 => 6
  | .and32 => 7
  | .or32 => 8
  | .xor32 => 9
  | .swap32 => 10
  | .swap64 => 11
  | .cas32 => 12
  | .cas64 => 13

/-- AtomOp of a code; a code not listed is rejected (03_encoding.md R80). -/
def AtomOp.ofCode (c : BitVec 6) : Option AtomOp :=
  [.add32, .add64, .fadd32, .mins32, .maxs32, .minu32, .maxu32, .and32, .or32, .xor32, .swap32, .swap64, .cas32, .cas64][c.toNat]?

/-- Code of GredOp. -/
def GredOp.code : GredOp → BitVec 4
  | .add => 0
  | .fadd => 1
  | .min => 2
  | .max => 3
  | .and => 4
  | .or => 5
  | .xor => 6

/-- GredOp of a code; a code not listed is rejected (03_encoding.md R80). -/
def GredOp.ofCode (c : BitVec 4) : Option GredOp :=
  [.add, .fadd, .min, .max, .and, .or, .xor][c.toNat]?

/-- Code of Scope. -/
def Scope.code : Scope → BitVec 3
  | .lane => 0
  | .warp => 1
  | .core => 2
  | .cluster => 3
  | .die => 4
  | .device => 5
  | .system => 6

/-- Scope of a code; a code not listed is rejected (03_encoding.md R80). -/
def Scope.ofCode (c : BitVec 3) : Option Scope :=
  [.lane, .warp, .core, .cluster, .die, .device, .system][c.toNat]?

/-- Code of FenceSem. -/
def FenceSem.code : FenceSem → BitVec 3
  | .acq => 0
  | .rel => 1
  | .acqRel => 2
  | .sc => 3

/-- FenceSem of a code; a code not listed is rejected (03_encoding.md R80). -/
def FenceSem.ofCode (c : BitVec 3) : Option FenceSem :=
  [.acq, .rel, .acqRel, .sc][c.toNat]?

/-- Code of Sem. -/
def Sem.code : Sem → BitVec 2
  | .plain => 0
  | .acquire => 1
  | .release => 2
  | .acqRel => 3

/-- Sem of a code; a code not listed is rejected (03_encoding.md R80). -/
def Sem.ofCode (c : BitVec 2) : Option Sem :=
  [.plain, .acquire, .release, .acqRel][c.toNat]?

/-- Code of CacheMode. -/
def CacheMode.code : CacheMode → BitVec 2
  | .normal => 0
  | .streaming => 1
  | .l2only => 2

/-- CacheMode of a code; a code not listed is rejected (03_encoding.md R80). -/
def CacheMode.ofCode (c : BitVec 2) : Option CacheMode :=
  [.normal, .streaming, .l2only][c.toNat]?

/-- The extension word of the memory instructions (03_encoding.md R81). -/
def MemExt.code (x : MemExt) : Word :=
  x.base ++ x.cls ++ x.scope.code ++ x.sem.code ++ x.cache.code ++ x.slack ++ x.off

/-- The fields of that extension word; SCOPE 7 and CACHE 3 are rejected (03_encoding.md R70, R81). -/
def MemExt.ofCode (e : Word) : Option MemExt := do
  let scope ← Scope.ofCode (e.extractLsb' 21 3)
  let sem ← Sem.ofCode (e.extractLsb' 19 2)
  let cache ← CacheMode.ofCode (e.extractLsb' 17 2)
  pure { base := e.extractLsb' 26 6, cls := e.extractLsb' 24 2, scope := scope, sem := sem, cache := cache,
         slack := e.extractLsb' 13 4, off := e.extractLsb' 0 13 }

/-- The fields of layout LR (03_encoding.md R64). -/
structure LrFields where
  n : BitVec 3
  d : BitVec 5
  a : BitVec 5
  b : BitVec 5
  f : BitVec 6
  deriving DecidableEq, Repr

/-- The fields of layout LI (03_encoding.md R64). -/
structure LiFields where
  n : BitVec 3
  d : BitVec 5
  a : BitVec 5
  i : BitVec 11
  deriving DecidableEq, Repr

/-- The fields of layouts LB and UB (03_encoding.md R64, R65). -/
structure LbFields where
  n : BitVec 3
  i : BitVec 21
  deriving DecidableEq, Repr

/-- The fields of layout UR (03_encoding.md R65). -/
structure UrFields where
  n : BitVec 3
  d : BitVec 6
  a : BitVec 6
  b : BitVec 6
  f : BitVec 3
  deriving DecidableEq, Repr

/-- The fields of layout UI (03_encoding.md R65). -/
structure UiFields where
  n : BitVec 3
  d : BitVec 6
  a : BitVec 6
  i : BitVec 9
  deriving DecidableEq, Repr

def unLR (w : Word) : LrFields :=
  ⟨w.extractLsb' 21 3, w.extractLsb' 16 5, w.extractLsb' 11 5, w.extractLsb' 6 5, w.extractLsb' 0 6⟩

def unLI (w : Word) : LiFields :=
  ⟨w.extractLsb' 21 3, w.extractLsb' 16 5, w.extractLsb' 11 5, w.extractLsb' 0 11⟩

def unLB (w : Word) : LbFields := ⟨w.extractLsb' 21 3, w.extractLsb' 0 21⟩

def unUR (w : Word) : UrFields :=
  ⟨w.extractLsb' 21 3, w.extractLsb' 15 6, w.extractLsb' 9 6, w.extractLsb' 3 6, w.extractLsb' 0 3⟩

def unUI (w : Word) : UiFields :=
  ⟨w.extractLsb' 21 3, w.extractLsb' 15 6, w.extractLsb' 9 6, w.extractLsb' 0 9⟩

/-- Layout LR; op is bits [31:24], the set bit and the opcode (03_encoding.md R64). -/
def packLR (op : BitVec 8) (n : BitVec 3) (d a b : BitVec 5) (f : BitVec 6) : Word :=
  op ++ n ++ d ++ a ++ b ++ f

/-- Layout LI (03_encoding.md R64). -/
def packLI (op : BitVec 8) (n : BitVec 3) (d a : BitVec 5) (i : BitVec 11) : Word := op ++ n ++ d ++ a ++ i

/-- Layouts LB and UB (03_encoding.md R64, R65). -/
def packLB (op : BitVec 8) (n : BitVec 3) (i : BitVec 21) : Word := op ++ n ++ i

/-- Layout UR (03_encoding.md R65). -/
def packUR (op : BitVec 8) (n : BitVec 3) (d a b : BitVec 6) (f : BitVec 3) : Word :=
  op ++ n ++ d ++ a ++ b ++ f

/-- Layout UI (03_encoding.md R65). -/
def packUI (op : BitVec 8) (n : BitVec 3) (d a : BitVec 6) (i : BitVec 9) : Word := op ++ n ++ d ++ a ++ i

/-- A reserved field must hold its value (03_encoding.md R76). -/
def zeroField (p : Prop) [Decidable p] : Except Reject Unit := if p then .ok () else .error .reservedField

/-- A field value must have an operand (03_encoding.md R67, R70, R80). -/
def operand {α : Type} (o : Option α) : Except Reject α :=
  match o with
  | some a => .ok a
  | none => .error .badOperand

/-- One row of an opcode map: bits [31:24] of the first word, the number of extension words, and how the
words are read (03_encoding.md R79, R82). -/
structure Row where
  op : BitVec 8
  ext : Nat
  parse : Word → Word → Word → Except Reject Instr

/-- Opcode slot 0x01 of the L-set: ADD, SUB, MUL, MULH, MULH_U, AND, OR, XOR, ANDN, SHL, SHR, SAR, ROTL, MIN, MAX, MIN_U, MAX_U. -/
def parse01 (w0 _w1 _w2 : Word) : Except Reject Instr :=
  if (unLR w0).f = 0#6 then do
    let d ← operand (Dst.ofCode (unLR w0).d)
    pure (.add (unLR w0).n d (Src.ofCode (unLR w0).a) (Src.ofCode (unLR w0).b))
  else if (unLR w0).f = 1#6 then do
    let d ← operand (Dst.ofCode (unLR w0).d)
    pure (.sub (unLR w0).n d (Src.ofCode (unLR w0).a) (Src.ofCode (unLR w0).b))
  else if (unLR w0).f = 2#6 then do
    let d ← operand (Dst.ofCode (unLR w0).d)
    pure (.mul (unLR w0).n d (Src.ofCode (unLR w0).a) (Src.ofCode (unLR w0).b))
  else if (unLR w0).f = 3#6 then do
    let d ← operand (Dst.ofCode (unLR w0).d)
    pure (.mulh (unLR w0).n d (Src.ofCode (unLR w0).a) (Src.ofCode (unLR w0).b))
  else if (unLR w0).f = 4#6 then do
    let d ← operand (Dst.ofCode (unLR w0).d)
    pure (.mulhU (unLR w0).n d (Src.ofCode (unLR w0).a) (Src.ofCode (unLR w0).b))
  else if (unLR w0).f = 8#6 then do
    let d ← operand (Dst.ofCode (unLR w0).d)
    pure (.and (unLR w0).n d (Src.ofCode (unLR w0).a) (Src.ofCode (unLR w0).b))
  else if (unLR w0).f = 9#6 then do
    let d ← operand (Dst.ofCode (unLR w0).d)
    pure (.or (unLR w0).n d (Src.ofCode (unLR w0).a) (Src.ofCode (unLR w0).b))
  else if (unLR w0).f = 10#6 then do
    let d ← operand (Dst.ofCode (unLR w0).d)
    pure (.xor (unLR w0).n d (Src.ofCode (unLR w0).a) (Src.ofCode (unLR w0).b))
  else if (unLR w0).f = 11#6 then do
    let d ← operand (Dst.ofCode (unLR w0).d)
    pure (.andn (unLR w0).n d (Src.ofCode (unLR w0).a) (Src.ofCode (unLR w0).b))
  else if (unLR w0).f = 16#6 then do
    let d ← operand (Dst.ofCode (unLR w0).d)
    pure (.shl (unLR w0).n d (Src.ofCode (unLR w0).a) (Src.ofCode (unLR w0).b))
  else if (unLR w0).f = 17#6 then do
    let d ← operand (Dst.ofCode (unLR w0).d)
    pure (.shr (unLR w0).n d (Src.ofCode (unLR w0).a) (Src.ofCode (unLR w0).b))
  else if (unLR w0).f = 18#6 then do
    let d ← operand (Dst.ofCode (unLR w0).d)
    pure (.sar (unLR w0).n d (Src.ofCode (unLR w0).a) (Src.ofCode (unLR w0).b))
  else if (unLR w0).f = 19#6 then do
    let d ← operand (Dst.ofCode (unLR w0).d)
    pure (.rotl (unLR w0).n d (Src.ofCode (unLR w0).a) (Src.ofCode (unLR w0).b))
  else if (unLR w0).f = 24#6 then do
    let d ← operand (Dst.ofCode (unLR w0).d)
    pure (.min (unLR w0).n d (Src.ofCode (unLR w0).a) (Src.ofCode (unLR w0).b))
  else if (unLR w0).f = 25#6 then do
    let d ← operand (Dst.ofCode (unLR w0).d)
    pure (.max (unLR w0).n d (Src.ofCode (unLR w0).a) (Src.ofCode (unLR w0).b))
  else if (unLR w0).f = 26#6 then do
    let d ← operand (Dst.ofCode (unLR w0).d)
    pure (.minU (unLR w0).n d (Src.ofCode (unLR w0).a) (Src.ofCode (unLR w0).b))
  else if (unLR w0).f = 27#6 then do
    let d ← operand (Dst.ofCode (unLR w0).d)
    pure (.maxU (unLR w0).n d (Src.ofCode (unLR w0).a) (Src.ofCode (unLR w0).b))
  else throw .badFunction

/-- Opcode slot 0x02 of the L-set: NEG, ABS, NOT, CLZ, POPC, BREV, MOV. -/
def parse02 (w0 _w1 _w2 : Word) : Except Reject Instr :=
  if (unLR w0).f = 0#6 then do
    zeroField ((unLR w0).b = 0#5)
    let d ← operand (Dst.ofCode (unLR w0).d)
    pure (.neg (unLR w0).n d (Src.ofCode (unLR w0).a))
  else if (unLR w0).f = 1#6 then do
    zeroField ((unLR w0).b = 0#5)
    let d ← operand (Dst.ofCode (unLR w0).d)
    pure (.abs (unLR w0).n d (Src.ofCode (unLR w0).a))
  else if (unLR w0).f = 2#6 then do
    zeroField ((unLR w0).b = 0#5)
    let d ← operand (Dst.ofCode (unLR w0).d)
    pure (.not (unLR w0).n d (Src.ofCode (unLR w0).a))
  else if (unLR w0).f = 3#6 then do
    zeroField ((unLR w0).b = 0#5)
    let d ← operand (Dst.ofCode (unLR w0).d)
    pure (.clz (unLR w0).n d (Src.ofCode (unLR w0).a))
  else if (unLR w0).f = 4#6 then do
    zeroField ((unLR w0).b = 0#5)
    let d ← operand (Dst.ofCode (unLR w0).d)
    pure (.popc (unLR w0).n d (Src.ofCode (unLR w0).a))
  else if (unLR w0).f = 5#6 then do
    zeroField ((unLR w0).b = 0#5)
    let d ← operand (Dst.ofCode (unLR w0).d)
    pure (.brev (unLR w0).n d (Src.ofCode (unLR w0).a))
  else if (unLR w0).f = 6#6 then do
    zeroField ((unLR w0).b = 0#5)
    let d ← operand (Dst.ofCode (unLR w0).d)
    pure (.mov (unLR w0).n d (Src.ofCode (unLR w0).a))
  else throw .badFunction

/-- Opcode slot 0x03 of the L-set: MAD. -/
def parse03 (w0 _w1 _w2 : Word) : Except Reject Instr :=
  do
    zeroField (((unLR w0).f.extractLsb' 5 1) = 0#1)
    let d ← operand (Dst.ofCode (unLR w0).d)
    pure (.mad (unLR w0).n d (Src.ofCode (unLR w0).a) (Src.ofCode (unLR w0).b) (Src.ofCode ((unLR w0).f.extractLsb' 0 5)))

/-- Opcode slot 0x04 of the L-set: ADDW. -/
def parse04 (w0 _w1 _w2 : Word) : Except Reject Instr :=
  if (unLR w0).f = 0#6 then do
    let d ← operand (Dst.ofCode (unLR w0).d)
    pure (.addw (unLR w0).n d (Src.ofCode (unLR w0).a) (Src.ofCode (unLR w0).b))
  else throw .badFunction

/-- Opcode slot 0x05 of the L-set: LEA. -/
def parse05 (w0 _w1 _w2 : Word) : Except Reject Instr :=
  do
    let d ← operand (Dst.ofCode (unLR w0).d)
    pure (.lea (unLR w0).n d (Src.ofCode (unLR w0).a) (Src.ofCode (unLR w0).b) (unLR w0).f)

/-- Opcode slot 0x06 of the L-set: BFX, BFX_SIGNED. -/
def parse06 (w0 _w1 _w2 : Word) : Except Reject Instr :=
  if (unLI w0).i.extractLsb' 10 1 = 0#1 then do
    let d ← operand (Dst.ofCode (unLI w0).d)
    pure (.bfx (unLI w0).n d (Src.ofCode (unLI w0).a) ((unLI w0).i.extractLsb' 5 5) ((unLI w0).i.extractLsb' 0 5))
  else if (unLI w0).i.extractLsb' 10 1 = 1#1 then do
    let d ← operand (Dst.ofCode (unLI w0).d)
    pure (.bfxSigned (unLI w0).n d (Src.ofCode (unLI w0).a) ((unLI w0).i.extractLsb' 5 5) ((unLI w0).i.extractLsb' 0 5))
  else throw .badFunction

/-- Opcode slot 0x07 of the L-set: BFI. -/
def parse07 (w0 _w1 _w2 : Word) : Except Reject Instr :=
  do
    zeroField (((unLI w0).i.extractLsb' 10 1) = 0#1)
    let d ← operand (Dst.ofCode (unLI w0).d)
    pure (.bfi (unLI w0).n d (Src.ofCode (unLI w0).a) ((unLI w0).i.extractLsb' 5 5) ((unLI w0).i.extractLsb' 0 5))

/-- Opcode slot 0x08 of the L-set: SEL. -/
def parse08 (w0 _w1 _w2 : Word) : Except Reject Instr :=
  do
    zeroField (((unLR w0).f.extractLsb' 4 2) = 0#2)
    let d ← operand (Dst.ofCode (unLR w0).d)
    pure (.sel (unLR w0).n d (Src.ofCode (unLR w0).a) (Src.ofCode (unLR w0).b) ((unLR w0).f.extractLsb' 0 4))

/-- Opcode slot 0x09 of the L-set: CMP. -/
def parse09 (w0 _w1 _w2 : Word) : Except Reject Instr :=
  do
    zeroField (((unLR w0).d.extractLsb' 4 1) = 0#1)
    let c ← operand (IntCond.ofCode (unLR w0).f)
    pure (.cmp (unLR w0).n ((unLR w0).d.extractLsb' 0 4) (Src.ofCode (unLR w0).a) (Src.ofCode (unLR w0).b) c)

/-- Opcode slot 0x0A of the L-set: MOVI. -/
def parse0A (w0 _w1 _w2 : Word) : Except Reject Instr :=
  do
    zeroField ((unLI w0).a = 0#5)
    let d ← operand (Dst.ofCode (unLI w0).d)
    pure (.movi (unLI w0).n d (unLI w0).i)

/-- Opcode slot 0x0B of the L-set: MOVI_WIDE. -/
def parse0B (w0 w1 _w2 : Word) : Except Reject Instr :=
  do
    zeroField ((unLI w0).a = 0#5)
    zeroField ((unLI w0).i = 0#11)
    let d ← operand (Dst.ofCode (unLI w0).d)
    pure (.moviWide (unLI w0).n d w1)

/-- Opcode slot 0x0C of the L-set: ADD_IMM. -/
def parse0C (w0 _w1 _w2 : Word) : Except Reject Instr :=
  do
    let d ← operand (Dst.ofCode (unLI w0).d)
    pure (.addImm (unLI w0).n d (Src.ofCode (unLI w0).a) (unLI w0).i)

/-- Opcode slot 0x0D of the L-set: MUL_IMM. -/
def parse0D (w0 _w1 _w2 : Word) : Except Reject Instr :=
  do
    let d ← operand (Dst.ofCode (unLI w0).d)
    pure (.mulImm (unLI w0).n d (Src.ofCode (unLI w0).a) (unLI w0).i)

/-- Opcode slot 0x0E of the L-set: AND_IMM. -/
def parse0E (w0 _w1 _w2 : Word) : Except Reject Instr :=
  do
    let d ← operand (Dst.ofCode (unLI w0).d)
    pure (.andImm (unLI w0).n d (Src.ofCode (unLI w0).a) (unLI w0).i)

/-- Opcode slot 0x0F of the L-set: OR_IMM. -/
def parse0F (w0 _w1 _w2 : Word) : Except Reject Instr :=
  do
    let d ← operand (Dst.ofCode (unLI w0).d)
    pure (.orImm (unLI w0).n d (Src.ofCode (unLI w0).a) (unLI w0).i)

/-- Opcode slot 0x10 of the L-set: XOR_IMM. -/
def parse10 (w0 _w1 _w2 : Word) : Except Reject Instr :=
  do
    let d ← operand (Dst.ofCode (unLI w0).d)
    pure (.xorImm (unLI w0).n d (Src.ofCode (unLI w0).a) (unLI w0).i)

/-- Opcode slot 0x11 of the L-set: SHL_IMM. -/
def parse11 (w0 _w1 _w2 : Word) : Except Reject Instr :=
  do
    zeroField (((unLI w0).i.extractLsb' 5 6) = 0#6)
    let d ← operand (Dst.ofCode (unLI w0).d)
    pure (.shlImm (unLI w0).n d (Src.ofCode (unLI w0).a) ((unLI w0).i.extractLsb' 0 5))

/-- Opcode slot 0x12 of the L-set: SHR_IMM. -/
def parse12 (w0 _w1 _w2 : Word) : Except Reject Instr :=
  do
    zeroField (((unLI w0).i.extractLsb' 5 6) = 0#6)
    let d ← operand (Dst.ofCode (unLI w0).d)
    pure (.shrImm (unLI w0).n d (Src.ofCode (unLI w0).a) ((unLI w0).i.extractLsb' 0 5))

/-- Opcode slot 0x13 of the L-set: SAR_IMM. -/
def parse13 (w0 _w1 _w2 : Word) : Except Reject Instr :=
  do
    zeroField (((unLI w0).i.extractLsb' 5 6) = 0#6)
    let d ← operand (Dst.ofCode (unLI w0).d)
    pure (.sarImm (unLI w0).n d (Src.ofCode (unLI w0).a) ((unLI w0).i.extractLsb' 0 5))

/-- Opcode slot 0x14 of the L-set: ROTL_IMM. -/
def parse14 (w0 _w1 _w2 : Word) : Except Reject Instr :=
  do
    zeroField (((unLI w0).i.extractLsb' 5 6) = 0#6)
    let d ← operand (Dst.ofCode (unLI w0).d)
    pure (.rotlImm (unLI w0).n d (Src.ofCode (unLI w0).a) ((unLI w0).i.extractLsb' 0 5))

/-- Opcode slot 0x15 of the L-set: MIN_IMM. -/
def parse15 (w0 _w1 _w2 : Word) : Except Reject Instr :=
  do
    let d ← operand (Dst.ofCode (unLI w0).d)
    pure (.minImm (unLI w0).n d (Src.ofCode (unLI w0).a) (unLI w0).i)

/-- Opcode slot 0x16 of the L-set: MAX_IMM. -/
def parse16 (w0 _w1 _w2 : Word) : Except Reject Instr :=
  do
    let d ← operand (Dst.ofCode (unLI w0).d)
    pure (.maxImm (unLI w0).n d (Src.ofCode (unLI w0).a) (unLI w0).i)

/-- Opcode slot 0x18 of the L-set: HADD2, HSUB2, HMIN2, HMAX2, HADD2_SAT, HSUB2_SAT, HMIN2_U, HMAX2_U. -/
def parse18 (w0 _w1 _w2 : Word) : Except Reject Instr :=
  if (unLR w0).f = 0#6 then do
    let d ← operand (Dst.ofCode (unLR w0).d)
    pure (.hadd2 (unLR w0).n d (Src.ofCode (unLR w0).a) (Src.ofCode (unLR w0).b))
  else if (unLR w0).f = 1#6 then do
    let d ← operand (Dst.ofCode (unLR w0).d)
    pure (.hsub2 (unLR w0).n d (Src.ofCode (unLR w0).a) (Src.ofCode (unLR w0).b))
  else if (unLR w0).f = 2#6 then do
    let d ← operand (Dst.ofCode (unLR w0).d)
    pure (.hmin2 (unLR w0).n d (Src.ofCode (unLR w0).a) (Src.ofCode (unLR w0).b))
  else if (unLR w0).f = 3#6 then do
    let d ← operand (Dst.ofCode (unLR w0).d)
    pure (.hmax2 (unLR w0).n d (Src.ofCode (unLR w0).a) (Src.ofCode (unLR w0).b))
  else if (unLR w0).f = 4#6 then do
    let d ← operand (Dst.ofCode (unLR w0).d)
    pure (.hadd2Sat (unLR w0).n d (Src.ofCode (unLR w0).a) (Src.ofCode (unLR w0).b))
  else if (unLR w0).f = 5#6 then do
    let d ← operand (Dst.ofCode (unLR w0).d)
    pure (.hsub2Sat (unLR w0).n d (Src.ofCode (unLR w0).a) (Src.ofCode (unLR w0).b))
  else if (unLR w0).f = 6#6 then do
    let d ← operand (Dst.ofCode (unLR w0).d)
    pure (.hmin2U (unLR w0).n d (Src.ofCode (unLR w0).a) (Src.ofCode (unLR w0).b))
  else if (unLR w0).f = 7#6 then do
    let d ← operand (Dst.ofCode (unLR w0).d)
    pure (.hmax2U (unLR w0).n d (Src.ofCode (unLR w0).a) (Src.ofCode (unLR w0).b))
  else throw .badFunction

/-- Opcode slot 0x19 of the L-set: ACS2. -/
def parse19 (w0 _w1 _w2 : Word) : Except Reject Instr :=
  do
    zeroField (((unLR w0).f.extractLsb' 4 2) = 0#2)
    let d ← operand (Dst.ofCode (unLR w0).d)
    pure (.acs2 (unLR w0).n d (Src.ofCode (unLR w0).a) (Src.ofCode (unLR w0).b) ((unLR w0).f.extractLsb' 0 4))

/-- Opcode slot 0x20 of the L-set: FADD, FSUB, FMUL, FMIN, FMAX. -/
def parse20 (w0 _w1 _w2 : Word) : Except Reject Instr :=
  if (unLR w0).f = 0#6 then do
    let d ← operand (Dst.ofCode (unLR w0).d)
    pure (.fadd (unLR w0).n d (Src.ofCode (unLR w0).a) (Src.ofCode (unLR w0).b))
  else if (unLR w0).f = 1#6 then do
    let d ← operand (Dst.ofCode (unLR w0).d)
    pure (.fsub (unLR w0).n d (Src.ofCode (unLR w0).a) (Src.ofCode (unLR w0).b))
  else if (unLR w0).f = 2#6 then do
    let d ← operand (Dst.ofCode (unLR w0).d)
    pure (.fmul (unLR w0).n d (Src.ofCode (unLR w0).a) (Src.ofCode (unLR w0).b))
  else if (unLR w0).f = 3#6 then do
    let d ← operand (Dst.ofCode (unLR w0).d)
    pure (.fmin (unLR w0).n d (Src.ofCode (unLR w0).a) (Src.ofCode (unLR w0).b))
  else if (unLR w0).f = 4#6 then do
    let d ← operand (Dst.ofCode (unLR w0).d)
    pure (.fmax (unLR w0).n d (Src.ofCode (unLR w0).a) (Src.ofCode (unLR w0).b))
  else throw .badFunction

/-- Opcode slot 0x21 of the L-set: FFMA. -/
def parse21 (w0 _w1 _w2 : Word) : Except Reject Instr :=
  do
    zeroField (((unLR w0).f.extractLsb' 5 1) = 0#1)
    let d ← operand (Dst.ofCode (unLR w0).d)
    pure (.ffma (unLR w0).n d (Src.ofCode (unLR w0).a) (Src.ofCode (unLR w0).b) (Src.ofCode ((unLR w0).f.extractLsb' 0 5)))

/-- Opcode slot 0x22 of the L-set: FCMP. -/
def parse22 (w0 _w1 _w2 : Word) : Except Reject Instr :=
  do
    zeroField (((unLR w0).d.extractLsb' 4 1) = 0#1)
    let c ← operand (FloatCond.ofCode (unLR w0).f)
    pure (.fcmp (unLR w0).n ((unLR w0).d.extractLsb' 0 4) (Src.ofCode (unLR w0).a) (Src.ofCode (unLR w0).b) c)

/-- Opcode slot 0x23 of the L-set: FSFU. -/
def parse23 (w0 _w1 _w2 : Word) : Except Reject Instr :=
  do
    zeroField ((unLR w0).b = 0#5)
    let d ← operand (Dst.ofCode (unLR w0).d)
    let f ← operand (SfuFn.ofCode (unLR w0).f)
    pure (.fsfu (unLR w0).n d (Src.ofCode (unLR w0).a) f)

/-- Opcode slot 0x24 of the L-set: FCVT. -/
def parse24 (w0 _w1 _w2 : Word) : Except Reject Instr :=
  do
    zeroField (((unLR w0).b.extractLsb' 4 1) = 0#1)
    let d ← operand (Dst.ofCode (unLR w0).d)
    let r ← operand (Rnd.ofCode ((unLR w0).b.extractLsb' 0 3))
    let t ← operand (Fmt.ofCode ((unLR w0).f.extractLsb' 3 3))
    let u ← operand (Fmt.ofCode ((unLR w0).f.extractLsb' 0 3))
    pure (.fcvt (unLR w0).n d (Src.ofCode (unLR w0).a) ((unLR w0).b.extractLsb' 3 1) r t u)

/-- Opcode slot 0x25 of the L-set: FQ4. -/
def parse25 (w0 _w1 _w2 : Word) : Except Reject Instr :=
  do
    zeroField (((unLR w0).f.extractLsb' 2 4) = 0#4)
    let d ← operand (Dst.ofCode (unLR w0).d)
    let t ← operand (CodeType.ofCode ((unLR w0).f.extractLsb' 0 2))
    pure (.fq4 (unLR w0).n d (Src.ofCode (unLR w0).a) (Src.ofCode (unLR w0).b) t)

/-- Opcode slot 0x26 of the L-set: FDQ4. -/
def parse26 (w0 _w1 _w2 : Word) : Except Reject Instr :=
  do
    zeroField (((unLR w0).f.extractLsb' 2 4) = 0#4)
    let d ← operand (Dst.ofCode (unLR w0).d)
    let t ← operand (CodeType.ofCode ((unLR w0).f.extractLsb' 0 2))
    pure (.fdq4 (unLR w0).n d (Src.ofCode (unLR w0).a) (Src.ofCode (unLR w0).b) t)

/-- Opcode slot 0x28 of the L-set: SHFL. -/
def parse28 (w0 _w1 _w2 : Word) : Except Reject Instr :=
  do
    let d ← operand (Dst.ofCode (unLR w0).d)
    let m ← operand (ShflMode.ofCode ((unLR w0).f.extractLsb' 4 2))
    pure (.shfl (unLR w0).n d (Src.ofCode (unLR w0).a) (Src.ofCode (unLR w0).b) m ((unLR w0).f.extractLsb' 0 4))

/-- Opcode slot 0x29 of the L-set: VOTE. -/
def parse29 (w0 _w1 _w2 : Word) : Except Reject Instr :=
  do
    zeroField ((unLR w0).b = 0#5)
    let d ← operand (Dst.ofCode (unLR w0).d)
    let m ← operand (VoteKind.ofCode ((unLR w0).f.extractLsb' 4 2))
    pure (.vote (unLR w0).n d (Src.ofCode (unLR w0).a) m ((unLR w0).f.extractLsb' 0 4))

/-- Opcode slot 0x2A of the L-set: WRED. -/
def parse2A (w0 _w1 _w2 : Word) : Except Reject Instr :=
  do
    zeroField (((unLR w0).f.extractLsb' 4 2) = 0#2)
    let d ← operand (Dst.ofCode (unLR w0).d)
    let p ← operand (WredOp.ofCode (unLR w0).b)
    pure (.wred (unLR w0).n d (Src.ofCode (unLR w0).a) p ((unLR w0).f.extractLsb' 0 4))

/-- Opcode slot 0x30 of the L-set: RGN. -/
def parse30 (w0 w1 _w2 : Word) : Except Reject Instr :=
  do
    zeroField (((unLR w0).d.extractLsb' 4 1) = 0#1)
    zeroField ((unLR w0).a = 0#5)
    zeroField ((unLR w0).b = 0#5)
    zeroField (((unLR w0).f.extractLsb' 2 4) = 0#4)
    zeroField ((w1.extractLsb' 28 4) = 0#4)
    pure (.rgn (unLR w0).n ((unLR w0).d.extractLsb' 0 4) ((unLR w0).f.extractLsb' 0 2) (w1.extractLsb' 21 7) (w1.extractLsb' 14 7) (w1.extractLsb' 7 7) (w1.extractLsb' 0 7))

/-- Opcode slot 0x31 of the L-set: WBK. -/
def parse31 (w0 w1 _w2 : Word) : Except Reject Instr :=
  do
    zeroField (((unLR w0).d.extractLsb' 4 1) = 0#1)
    zeroField ((unLR w0).a = 0#5)
    zeroField ((unLR w0).b = 0#5)
    zeroField (((unLR w0).f.extractLsb' 2 4) = 0#4)
    zeroField ((w1.extractLsb' 28 4) = 0#4)
    pure (.wbk (unLR w0).n ((unLR w0).d.extractLsb' 0 4) ((unLR w0).f.extractLsb' 0 2) (w1.extractLsb' 21 7) (w1.extractLsb' 14 7) (w1.extractLsb' 7 7) (w1.extractLsb' 0 7))

/-- Opcode slot 0x32 of the L-set: MVM_FROM_MAIN, MVM_TO_MAIN. -/
def parse32 (w0 _w1 _w2 : Word) : Except Reject Instr :=
  if (unLI w0).i.extractLsb' 7 4 = 0#4 then do
    zeroField ((unLI w0).a = 0#5)
    let d ← operand (Dst.ofCode (unLI w0).d)
    pure (.mvmFromMain (unLI w0).n d ((unLI w0).i.extractLsb' 0 7))
  else if (unLI w0).i.extractLsb' 7 4 = 1#4 then do
    zeroField ((unLI w0).a = 0#5)
    pure (.mvmToMain (unLI w0).n (Src.ofCode (unLI w0).d) ((unLI w0).i.extractLsb' 0 7))
  else throw .badFunction

/-- Opcode slot 0x33 of the L-set: XBND. -/
def parse33 (w0 w1 _w2 : Word) : Except Reject Instr :=
  do
    zeroField ((unLR w0).d = 0#5)
    zeroField ((unLR w0).a = 0#5)
    zeroField ((unLR w0).b = 0#5)
    zeroField ((unLR w0).f = 0#6)
    zeroField ((w1.extractLsb' 15 17) = 0#17)
    zeroField ((w1.extractLsb' 7 1) = 0#1)
    pure (.xbnd (unLR w0).n (w1.extractLsb' 8 7) (w1.extractLsb' 0 7))

/-- Opcode slot 0x34 of the L-set: XSET. -/
def parse34 (w0 _w1 _w2 : Word) : Except Reject Instr :=
  do
    zeroField (((unLI w0).d.extractLsb' 2 3) = 5#3)
    pure (.xset (unLI w0).n ((unLI w0).d.extractLsb' 0 2) (Src.ofCode (unLI w0).a) (unLI w0).i)

/-- Opcode slot 0x35 of the L-set: LDX. -/
def parse35 (w0 _w1 _w2 : Word) : Except Reject Instr :=
  do
    zeroField (((unLI w0).a.extractLsb' 2 3) = 5#3)
    let d ← operand (Dst.ofCode (unLI w0).d)
    pure (.ldx (unLI w0).n d ((unLI w0).a.extractLsb' 0 2) (unLI w0).i)

/-- Opcode slot 0x36 of the L-set: STX. -/
def parse36 (w0 _w1 _w2 : Word) : Except Reject Instr :=
  do
    zeroField (((unLI w0).a.extractLsb' 2 3) = 5#3)
    pure (.stx (unLI w0).n (Src.ofCode (unLI w0).d) ((unLI w0).a.extractLsb' 0 2) (unLI w0).i)

/-- Opcode slot 0x38 of the L-set: LD. -/
def parse38 (w0 w1 _w2 : Word) : Except Reject Instr :=
  do
    zeroField ((unLR w0).b = 0#5)
    let d ← operand (Dst.ofCode (unLR w0).d)
    let w ← operand (Width.ofCode (unLR w0).f)
    let x ← operand (MemExt.ofCode w1)
    pure (.ld (unLR w0).n d (Src.ofCode (unLR w0).a) w x)

/-- Opcode slot 0x39 of the L-set: ST. -/
def parse39 (w0 w1 _w2 : Word) : Except Reject Instr :=
  do
    zeroField ((unLR w0).b = 0#5)
    let w ← operand (Width.ofCode (unLR w0).f)
    let x ← operand (MemExt.ofCode w1)
    pure (.st (unLR w0).n (Src.ofCode (unLR w0).d) (Src.ofCode (unLR w0).a) w x)

/-- Opcode slot 0x3A of the L-set: ATOM. -/
def parse3A (w0 w1 _w2 : Word) : Except Reject Instr :=
  do
    let d ← operand (Dst.ofCode (unLR w0).d)
    let p ← operand (AtomOp.ofCode (unLR w0).f)
    let x ← operand (MemExt.ofCode w1)
    pure (.atom (unLR w0).n d (Src.ofCode (unLR w0).a) (Src.ofCode (unLR w0).b) p x)

/-- Opcode slot 0x3B of the L-set: RED. -/
def parse3B (w0 w1 _w2 : Word) : Except Reject Instr :=
  do
    zeroField ((unLR w0).d = 0#5)
    let p ← operand (AtomOp.ofCode (unLR w0).f)
    let x ← operand (MemExt.ofCode w1)
    pure (.red (unLR w0).n (Src.ofCode (unLR w0).a) (Src.ofCode (unLR w0).b) p x)

/-- Opcode slot 0x3C of the L-set: PRF. -/
def parse3C (w0 w1 _w2 : Word) : Except Reject Instr :=
  do
    zeroField ((unLR w0).d = 0#5)
    zeroField ((unLR w0).b = 0#5)
    zeroField (((unLR w0).f.extractLsb' 1 5) = 0#5)
    let x ← operand (MemExt.ofCode w1)
    pure (.prf (unLR w0).n (Src.ofCode (unLR w0).a) ((unLR w0).f.extractLsb' 0 1) x)

/-- Opcode slot 0x3D of the L-set: FENCE. -/
def parse3D (w0 _w1 _w2 : Word) : Except Reject Instr :=
  do
    zeroField ((unLR w0).d = 0#5)
    zeroField ((unLR w0).a = 0#5)
    zeroField ((unLR w0).b = 0#5)
    let e ← operand (FenceSem.ofCode ((unLR w0).f.extractLsb' 3 3))
    let o ← operand (Scope.ofCode ((unLR w0).f.extractLsb' 0 3))
    pure (.fence (unLR w0).n e o)

/-- Opcode slot 0x40 of the L-set: LDS. -/
def parse40 (w0 _w1 _w2 : Word) : Except Reject Instr :=
  do
    let d ← operand (Dst.ofCode (unLR w0).d)
    let w ← operand (Width.ofCode (unLR w0).f)
    pure (.lds (unLR w0).n d (Src.ofCode (unLR w0).a) (Src.ofCode (unLR w0).b) w)

/-- Opcode slot 0x41 of the L-set: STS. -/
def parse41 (w0 _w1 _w2 : Word) : Except Reject Instr :=
  do
    let w ← operand (Width.ofCode (unLR w0).f)
    pure (.sts (unLR w0).n (Src.ofCode (unLR w0).d) (Src.ofCode (unLR w0).a) (Src.ofCode (unLR w0).b) w)

/-- Opcode slot 0x42 of the L-set: LDA. -/
def parse42 (w0 _w1 _w2 : Word) : Except Reject Instr :=
  if (unLR w0).f = 0#6 then do
    let d ← operand (Dst.ofCode (unLR w0).d)
    pure (.lda (unLR w0).n d (Src.ofCode (unLR w0).a) (Src.ofCode (unLR w0).b))
  else throw .badFunction

/-- Opcode slot 0x43 of the L-set: STA. -/
def parse43 (w0 _w1 _w2 : Word) : Except Reject Instr :=
  if (unLR w0).f = 0#6 then do
    pure (.sta (unLR w0).n (Src.ofCode (unLR w0).d) (Src.ofCode (unLR w0).a) (Src.ofCode (unLR w0).b))
  else throw .badFunction

/-- Opcode slot 0x44 of the L-set: LDT. -/
def parse44 (w0 _w1 _w2 : Word) : Except Reject Instr :=
  do
    zeroField ((unLR w0).b = 0#5)
    let d ← operand (Dst.ofCode (unLR w0).d)
    pure (.ldt (unLR w0).n d (Src.ofCode (unLR w0).a) (unLR w0).f)

/-- Opcode slot 0x45 of the L-set: TWAIT. -/
def parse45 (w0 _w1 _w2 : Word) : Except Reject Instr :=
  do
    zeroField ((unLR w0).d = 0#5)
    zeroField ((unLR w0).a = 0#5)
    zeroField ((unLR w0).b = 0#5)
    pure (.twait (unLR w0).n (unLR w0).f)

/-- Opcode slot 0x46 of the L-set: LDP. -/
def parse46 (w0 _w1 _w2 : Word) : Except Reject Instr :=
  do
    let d ← operand (Dst.ofCode (unLI w0).d)
    pure (.ldp (unLI w0).n d (Src.ofCode (unLI w0).a) ((unLI w0).i.extractLsb' 8 3) ((unLI w0).i.extractLsb' 0 8))

/-- Opcode slot 0x50 of the L-set: BRA. -/
def parse50 (w0 _w1 _w2 : Word) : Except Reject Instr :=
  do
    pure (.bra (unLB w0).n (unLB w0).i)

/-- Opcode slot 0x51 of the L-set: BRC. -/
def parse51 (w0 _w1 _w2 : Word) : Except Reject Instr :=
  do
    pure (.brc (unLB w0).n ((unLB w0).i.extractLsb' 20 1) ((unLB w0).i.extractLsb' 16 4) ((unLB w0).i.extractLsb' 0 16))

/-- Opcode slot 0x52 of the L-set: CALL. -/
def parse52 (w0 _w1 _w2 : Word) : Except Reject Instr :=
  do
    pure (.call (unLB w0).n (unLB w0).i)

/-- Opcode slot 0x53 of the L-set: BRX. -/
def parse53 (w0 _w1 _w2 : Word) : Except Reject Instr :=
  if (unLR w0).f = 0#6 then do
    zeroField ((unLR w0).d = 0#5)
    zeroField ((unLR w0).b = 0#5)
    pure (.brx (unLR w0).n (Src.ofCode (unLR w0).a))
  else throw .badFunction

/-- Opcode slot 0x54 of the L-set: NOP, EXIT, RET, VAC, YLD. -/
def parse54 (w0 _w1 _w2 : Word) : Except Reject Instr :=
  if (unLR w0).f = 0#6 then do
    zeroField ((unLR w0).d = 0#5)
    zeroField ((unLR w0).a = 0#5)
    zeroField ((unLR w0).b = 0#5)
    pure (.nop (unLR w0).n)
  else if (unLR w0).f = 1#6 then do
    zeroField ((unLR w0).d = 0#5)
    zeroField ((unLR w0).a = 0#5)
    zeroField ((unLR w0).b = 0#5)
    pure (.exit (unLR w0).n)
  else if (unLR w0).f = 2#6 then do
    zeroField ((unLR w0).d = 0#5)
    zeroField ((unLR w0).a = 0#5)
    zeroField ((unLR w0).b = 0#5)
    pure (.ret (unLR w0).n)
  else if (unLR w0).f = 3#6 then do
    zeroField ((unLR w0).d = 0#5)
    zeroField ((unLR w0).a = 0#5)
    zeroField ((unLR w0).b = 0#5)
    pure (.vac (unLR w0).n)
  else if (unLR w0).f = 4#6 then do
    zeroField ((unLR w0).d = 0#5)
    zeroField ((unLR w0).a = 0#5)
    zeroField ((unLR w0).b = 0#5)
    pure (.yld (unLR w0).n)
  else throw .badFunction

/-- Opcode slot 0x55 of the L-set: MAND, MOR, MNOT, MSET, MPOP, MFIRST. -/
def parse55 (w0 _w1 _w2 : Word) : Except Reject Instr :=
  if (unLR w0).f = 0#6 then do
    zeroField (((unLR w0).d.extractLsb' 4 1) = 0#1)
    zeroField (((unLR w0).a.extractLsb' 4 1) = 0#1)
    zeroField (((unLR w0).b.extractLsb' 4 1) = 0#1)
    pure (.mand (unLR w0).n ((unLR w0).d.extractLsb' 0 4) ((unLR w0).a.extractLsb' 0 4) ((unLR w0).b.extractLsb' 0 4))
  else if (unLR w0).f = 1#6 then do
    zeroField (((unLR w0).d.extractLsb' 4 1) = 0#1)
    zeroField (((unLR w0).a.extractLsb' 4 1) = 0#1)
    zeroField (((unLR w0).b.extractLsb' 4 1) = 0#1)
    pure (.mor (unLR w0).n ((unLR w0).d.extractLsb' 0 4) ((unLR w0).a.extractLsb' 0 4) ((unLR w0).b.extractLsb' 0 4))
  else if (unLR w0).f = 2#6 then do
    zeroField (((unLR w0).d.extractLsb' 4 1) = 0#1)
    zeroField (((unLR w0).a.extractLsb' 4 1) = 0#1)
    zeroField ((unLR w0).b = 0#5)
    pure (.mnot (unLR w0).n ((unLR w0).d.extractLsb' 0 4) ((unLR w0).a.extractLsb' 0 4))
  else if (unLR w0).f = 3#6 then do
    zeroField (((unLR w0).d.extractLsb' 4 1) = 0#1)
    zeroField ((unLR w0).b = 0#5)
    pure (.mset (unLR w0).n ((unLR w0).d.extractLsb' 0 4) (Src.ofCode (unLR w0).a))
  else if (unLR w0).f = 4#6 then do
    zeroField (((unLR w0).a.extractLsb' 4 1) = 0#1)
    zeroField ((unLR w0).b = 0#5)
    let d ← operand (Dst.ofCode (unLR w0).d)
    pure (.mpop (unLR w0).n d ((unLR w0).a.extractLsb' 0 4))
  else if (unLR w0).f = 5#6 then do
    zeroField (((unLR w0).a.extractLsb' 4 1) = 0#1)
    zeroField ((unLR w0).b = 0#5)
    let d ← operand (Dst.ofCode (unLR w0).d)
    pure (.mfirst (unLR w0).n d ((unLR w0).a.extractLsb' 0 4))
  else throw .badFunction

/-- Opcode slot 0x56 of the L-set: MJOIN, MLEAVE, MWAIT. -/
def parse56 (w0 _w1 _w2 : Word) : Except Reject Instr :=
  if (unLR w0).f = 0#6 then do
    zeroField ((unLR w0).d = 0#5)
    zeroField (((unLR w0).a.extractLsb' 4 1) = 0#1)
    zeroField ((unLR w0).b = 0#5)
    pure (.mjoin (unLR w0).n ((unLR w0).a.extractLsb' 0 4))
  else if (unLR w0).f = 1#6 then do
    zeroField ((unLR w0).d = 0#5)
    zeroField (((unLR w0).a.extractLsb' 4 1) = 0#1)
    zeroField ((unLR w0).b = 0#5)
    pure (.mleave (unLR w0).n ((unLR w0).a.extractLsb' 0 4))
  else if (unLR w0).f = 2#6 then do
    zeroField ((unLR w0).d = 0#5)
    zeroField (((unLR w0).a.extractLsb' 4 1) = 0#1)
    zeroField ((unLR w0).b = 0#5)
    pure (.mwait (unLR w0).n ((unLR w0).a.extractLsb' 0 4))
  else throw .badFunction

/-- Opcode slot 0x57 of the L-set: REFILL. -/
def parse57 (w0 _w1 _w2 : Word) : Except Reject Instr :=
  if (unLR w0).f = 0#6 then do
    zeroField ((unLR w0).a = 0#5)
    zeroField ((unLR w0).b = 0#5)
    let d ← operand (Dst.ofCode (unLR w0).d)
    pure (.refill (unLR w0).n d)
  else throw .badFunction

/-- Opcode slot 0x58 of the L-set: SPAWNL. -/
def parse58 (w0 w1 _w2 : Word) : Except Reject Instr :=
  if (unLR w0).f = 0#6 then do
    zeroField ((unLR w0).d = 0#5)
    zeroField ((w1.extractLsb' 0 26) = 0#26)
    pure (.spawnl (unLR w0).n (Src.ofCode (unLR w0).a) (Src.ofCode (unLR w0).b) (w1.extractLsb' 26 6))
  else throw .badFunction

/-- Opcode slot 0x59 of the L-set: GBAR. -/
def parse59 (w0 _w1 _w2 : Word) : Except Reject Instr :=
  do
    zeroField ((unLR w0).d = 0#5)
    zeroField ((unLR w0).a = 0#5)
    zeroField ((unLR w0).b = 0#5)
    zeroField (((unLR w0).f.extractLsb' 2 4) = 0#4)
    pure (.gbar (unLR w0).n ((unLR w0).f.extractLsb' 0 2))

/-- Opcode slot 0x5A of the L-set: LBAR. -/
def parse5A (w0 _w1 _w2 : Word) : Except Reject Instr :=
  do
    zeroField ((unLR w0).d = 0#5)
    zeroField ((unLR w0).a = 0#5)
    zeroField ((unLR w0).b = 0#5)
    zeroField ((unLR w0).f = 0#6)
    pure (.lbar (unLR w0).n)

/-- Opcode slot 0x70 of the L-set: TRAP. -/
def parse70 (w0 _w1 _w2 : Word) : Except Reject Instr :=
  do
    zeroField ((unLI w0).d = 0#5)
    zeroField ((unLI w0).a = 0#5)
    zeroField (((unLI w0).i.extractLsb' 8 3) = 0#3)
    pure (.trap (unLI w0).n ((unLI w0).i.extractLsb' 0 8))

/-- Opcode slot 0x71 of the L-set: TRET. -/
def parse71 (w0 _w1 _w2 : Word) : Except Reject Instr :=
  do
    zeroField ((unLR w0).d = 0#5)
    zeroField ((unLR w0).a = 0#5)
    zeroField ((unLR w0).b = 0#5)
    zeroField ((unLR w0).f = 0#6)
    pure (.tret (unLR w0).n)

/-- Opcode slot 0x72 of the L-set: ESC. -/
def parse72 (w0 _w1 _w2 : Word) : Except Reject Instr :=
  do
    zeroField ((unLI w0).d = 0#5)
    zeroField ((unLI w0).a = 0#5)
    zeroField (((unLI w0).i.extractLsb' 8 3) = 0#3)
    pure (.esc (unLI w0).n ((unLI w0).i.extractLsb' 0 8))

/-- Opcode slot 0x73 of the L-set: BRK. -/
def parse73 (w0 _w1 _w2 : Word) : Except Reject Instr :=
  do
    zeroField ((unLI w0).d = 0#5)
    zeroField ((unLI w0).a = 0#5)
    zeroField (((unLI w0).i.extractLsb' 8 3) = 0#3)
    pure (.brk (unLI w0).n ((unLI w0).i.extractLsb' 0 8))

/-- Opcode slot 0x74 of the L-set: RDSR. -/
def parse74 (w0 _w1 _w2 : Word) : Except Reject Instr :=
  do
    zeroField ((unLI w0).a = 0#5)
    zeroField (((unLI w0).i.extractLsb' 10 1) = 0#1)
    let d ← operand (Dst.ofCode (unLI w0).d)
    pure (.rdsr (unLI w0).n d ((unLI w0).i.extractLsb' 0 10))

/-- Opcode slot 0x75 of the L-set: WRSR. -/
def parse75 (w0 _w1 _w2 : Word) : Except Reject Instr :=
  do
    zeroField ((unLI w0).a = 0#5)
    zeroField (((unLI w0).i.extractLsb' 10 1) = 0#1)
    pure (.wrsr (unLI w0).n (Src.ofCode (unLI w0).d) ((unLI w0).i.extractLsb' 0 10))

/-- Opcode slot 0x01 of the U-set: SADD, SSUB, SMUL, SAND, SOR, SXOR, SMIN, SMAX. -/
def parse81 (w0 _w1 _w2 : Word) : Except Reject Instr :=
  if (unUR w0).f = 0#3 then do
    pure (.sadd (unUR w0).n (unUR w0).d (unUR w0).a (unUR w0).b)
  else if (unUR w0).f = 1#3 then do
    pure (.ssub (unUR w0).n (unUR w0).d (unUR w0).a (unUR w0).b)
  else if (unUR w0).f = 2#3 then do
    pure (.smul (unUR w0).n (unUR w0).d (unUR w0).a (unUR w0).b)
  else if (unUR w0).f = 3#3 then do
    pure (.sand (unUR w0).n (unUR w0).d (unUR w0).a (unUR w0).b)
  else if (unUR w0).f = 4#3 then do
    pure (.sor (unUR w0).n (unUR w0).d (unUR w0).a (unUR w0).b)
  else if (unUR w0).f = 5#3 then do
    pure (.sxor (unUR w0).n (unUR w0).d (unUR w0).a (unUR w0).b)
  else if (unUR w0).f = 6#3 then do
    pure (.smin (unUR w0).n (unUR w0).d (unUR w0).a (unUR w0).b)
  else if (unUR w0).f = 7#3 then do
    pure (.smax (unUR w0).n (unUR w0).d (unUR w0).a (unUR w0).b)
  else throw .badFunction

/-- Opcode slot 0x02 of the U-set: SSHL, SSHR, SSAR, SMIN_U, SMAX_U, SMOV. -/
def parse82 (w0 _w1 _w2 : Word) : Except Reject Instr :=
  if (unUR w0).f = 0#3 then do
    pure (.sshl (unUR w0).n (unUR w0).d (unUR w0).a (unUR w0).b)
  else if (unUR w0).f = 1#3 then do
    pure (.sshr (unUR w0).n (unUR w0).d (unUR w0).a (unUR w0).b)
  else if (unUR w0).f = 2#3 then do
    pure (.ssar (unUR w0).n (unUR w0).d (unUR w0).a (unUR w0).b)
  else if (unUR w0).f = 4#3 then do
    pure (.sminU (unUR w0).n (unUR w0).d (unUR w0).a (unUR w0).b)
  else if (unUR w0).f = 5#3 then do
    pure (.smaxU (unUR w0).n (unUR w0).d (unUR w0).a (unUR w0).b)
  else if (unUR w0).f = 3#3 then do
    zeroField ((unUR w0).b = 0#6)
    pure (.smov (unUR w0).n (unUR w0).d (unUR w0).a)
  else throw .badFunction

/-- Opcode slot 0x03 of the U-set: SCMP. -/
def parse83 (w0 _w1 _w2 : Word) : Except Reject Instr :=
  do
    let c ← operand (SCond.ofCode (unUR w0).f)
    pure (.scmp (unUR w0).n (unUR w0).d (unUR w0).a (unUR w0).b c)

/-- Opcode slot 0x04 of the U-set: SSEL. -/
def parse84 (w0 w1 _w2 : Word) : Except Reject Instr :=
  if (unUR w0).f = 0#3 then do
    zeroField ((w1.extractLsb' 6 26) = 0#26)
    pure (.ssel (unUR w0).n (unUR w0).d (unUR w0).a (unUR w0).b (w1.extractLsb' 0 6))
  else throw .badFunction

/-- Opcode slot 0x08 of the U-set: SADD_IMM. -/
def parse88 (w0 _w1 _w2 : Word) : Except Reject Instr :=
  do
    pure (.saddImm (unUI w0).n (unUI w0).d (unUI w0).a (unUI w0).i)

/-- Opcode slot 0x09 of the U-set: SMUL_IMM. -/
def parse89 (w0 _w1 _w2 : Word) : Except Reject Instr :=
  do
    pure (.smulImm (unUI w0).n (unUI w0).d (unUI w0).a (unUI w0).i)

/-- Opcode slot 0x0A of the U-set: SAND_IMM. -/
def parse8A (w0 _w1 _w2 : Word) : Except Reject Instr :=
  do
    pure (.sandImm (unUI w0).n (unUI w0).d (unUI w0).a (unUI w0).i)

/-- Opcode slot 0x0B of the U-set: SOR_IMM. -/
def parse8B (w0 _w1 _w2 : Word) : Except Reject Instr :=
  do
    pure (.sorImm (unUI w0).n (unUI w0).d (unUI w0).a (unUI w0).i)

/-- Opcode slot 0x0C of the U-set: SXOR_IMM. -/
def parse8C (w0 _w1 _w2 : Word) : Except Reject Instr :=
  do
    pure (.sxorImm (unUI w0).n (unUI w0).d (unUI w0).a (unUI w0).i)

/-- Opcode slot 0x0D of the U-set: SSHL_IMM. -/
def parse8D (w0 _w1 _w2 : Word) : Except Reject Instr :=
  do
    zeroField (((unUI w0).i.extractLsb' 6 3) = 0#3)
    pure (.sshlImm (unUI w0).n (unUI w0).d (unUI w0).a ((unUI w0).i.extractLsb' 0 6))

/-- Opcode slot 0x0E of the U-set: SSHR_IMM. -/
def parse8E (w0 _w1 _w2 : Word) : Except Reject Instr :=
  do
    zeroField (((unUI w0).i.extractLsb' 6 3) = 0#3)
    pure (.sshrImm (unUI w0).n (unUI w0).d (unUI w0).a ((unUI w0).i.extractLsb' 0 6))

/-- Opcode slot 0x0F of the U-set: SSAR_IMM. -/
def parse8F (w0 _w1 _w2 : Word) : Except Reject Instr :=
  do
    zeroField (((unUI w0).i.extractLsb' 6 3) = 0#3)
    pure (.ssarImm (unUI w0).n (unUI w0).d (unUI w0).a ((unUI w0).i.extractLsb' 0 6))

/-- Opcode slot 0x10 of the U-set: SMIN_IMM. -/
def parse90 (w0 _w1 _w2 : Word) : Except Reject Instr :=
  do
    pure (.sminImm (unUI w0).n (unUI w0).d (unUI w0).a (unUI w0).i)

/-- Opcode slot 0x11 of the U-set: SMAX_IMM. -/
def parse91 (w0 _w1 _w2 : Word) : Except Reject Instr :=
  do
    pure (.smaxImm (unUI w0).n (unUI w0).d (unUI w0).a (unUI w0).i)

/-- Opcode slot 0x12 of the U-set: SMOVI. -/
def parse92 (w0 _w1 _w2 : Word) : Except Reject Instr :=
  do
    zeroField ((unUI w0).a = 0#6)
    pure (.smovi (unUI w0).n (unUI w0).d (unUI w0).i)

/-- Opcode slot 0x13 of the U-set: SMOVI_32. -/
def parse93 (w0 w1 _w2 : Word) : Except Reject Instr :=
  do
    zeroField ((unUI w0).a = 0#6)
    zeroField ((unUI w0).i = 0#9)
    pure (.smovi32 (unUI w0).n (unUI w0).d w1)

/-- Opcode slot 0x14 of the U-set: SMOVI_64. -/
def parse94 (w0 w1 w2 : Word) : Except Reject Instr :=
  do
    zeroField ((unUI w0).a = 0#6)
    zeroField ((unUI w0).i = 0#9)
    pure (.smovi64 (unUI w0).n (unUI w0).d w1 w2)

/-- Opcode slot 0x20 of the U-set: BOND, BOND_STRAIT. -/
def parseA0 (w0 _w1 _w2 : Word) : Except Reject Instr :=
  if (unUI w0).i.extractLsb' 4 5 = 0#5 then do
    zeroField (((unUI w0).a.extractLsb' 2 4) = 0#4)
    pure (.bond (unUI w0).n (unUI w0).d ((unUI w0).a.extractLsb' 0 2) ((unUI w0).i.extractLsb' 2 2) ((unUI w0).i.extractLsb' 0 2))
  else if (unUI w0).i.extractLsb' 4 5 = 1#5 then do
    zeroField (((unUI w0).a.extractLsb' 2 4) = 0#4)
    zeroField (((unUI w0).i.extractLsb' 0 4) = 0#4)
    pure (.bondStrait (unUI w0).n (unUI w0).d ((unUI w0).a.extractLsb' 0 2))
  else throw .badFunction

/-- Opcode slot 0x21 of the U-set: UNBOND. -/
def parseA1 (w0 _w1 _w2 : Word) : Except Reject Instr :=
  do
    zeroField ((unUR w0).d = 0#6)
    zeroField (((unUR w0).a.extractLsb' 2 4) = 0#4)
    zeroField ((unUR w0).b = 0#6)
    zeroField ((unUR w0).f = 0#3)
    pure (.unbond (unUR w0).n ((unUR w0).a.extractLsb' 0 2))

/-- Opcode slot 0x22 of the U-set: MMA. -/
def parseA2 (w0 _w1 _w2 : Word) : Except Reject Instr :=
  if (unUR w0).f = 0#3 then do
    zeroField ((unUR w0).d = 0#6)
    zeroField ((unUR w0).b = 0#6)
    pure (.mma (unUR w0).n (unUR w0).a)
  else throw .badFunction

/-- Opcode slot 0x23 of the U-set: TALLOC. -/
def parseA3 (w0 _w1 _w2 : Word) : Except Reject Instr :=
  if (unUR w0).f = 0#3 then do
    zeroField ((unUR w0).b = 0#6)
    pure (.talloc (unUR w0).n (unUR w0).d (unUR w0).a)
  else throw .badFunction

/-- Opcode slot 0x24 of the U-set: TFREE. -/
def parseA4 (w0 _w1 _w2 : Word) : Except Reject Instr :=
  if (unUR w0).f = 0#3 then do
    zeroField ((unUR w0).a = 0#6)
    zeroField ((unUR w0).b = 0#6)
    pure (.tfree (unUR w0).n (unUR w0).d)
  else throw .badFunction

/-- Opcode slot 0x25 of the U-set: TCOPY. -/
def parseA5 (w0 _w1 _w2 : Word) : Except Reject Instr :=
  if (unUR w0).f = 0#3 then do
    zeroField (((unUR w0).d.extractLsb' 3 3) = 0#3)
    zeroField ((unUR w0).b = 0#6)
    pure (.tcopy (unUR w0).n ((unUR w0).d.extractLsb' 0 3) (unUR w0).a)
  else throw .badFunction

/-- Opcode slot 0x26 of the U-set: TQUANT. -/
def parseA6 (w0 _w1 _w2 : Word) : Except Reject Instr :=
  if (unUR w0).f = 0#3 then do
    zeroField (((unUR w0).d.extractLsb' 3 3) = 0#3)
    zeroField ((unUR w0).b = 0#6)
    pure (.tquant (unUR w0).n ((unUR w0).d.extractLsb' 0 3) (unUR w0).a)
  else throw .badFunction

/-- Opcode slot 0x27 of the U-set: AALLOC. -/
def parseA7 (w0 _w1 _w2 : Word) : Except Reject Instr :=
  do
    zeroField ((unUR w0).b = 0#6)
    zeroField (((unUR w0).f.extractLsb' 2 1) = 0#1)
    pure (.aalloc (unUR w0).n (unUR w0).d (unUR w0).a ((unUR w0).f.extractLsb' 0 2))

/-- Opcode slot 0x28 of the U-set: AFREE. -/
def parseA8 (w0 _w1 _w2 : Word) : Except Reject Instr :=
  do
    zeroField ((unUR w0).d = 0#6)
    zeroField ((unUR w0).a = 0#6)
    zeroField ((unUR w0).b = 0#6)
    zeroField (((unUR w0).f.extractLsb' 2 1) = 0#1)
    pure (.afree (unUR w0).n ((unUR w0).f.extractLsb' 0 2))

/-- Opcode slot 0x30 of the U-set: SLD. -/
def parseB0 (w0 _w1 _w2 : Word) : Except Reject Instr :=
  do
    pure (.sld (unUI w0).n (unUI w0).d (unUI w0).a (unUI w0).i)

/-- Opcode slot 0x31 of the U-set: SST. -/
def parseB1 (w0 _w1 _w2 : Word) : Except Reject Instr :=
  do
    pure (.sst (unUI w0).n (unUI w0).d (unUI w0).a (unUI w0).i)

/-- Opcode slot 0x32 of the U-set: LDP_UNIFORM. -/
def parseB2 (w0 _w1 _w2 : Word) : Except Reject Instr :=
  do
    pure (.ldpUniform (unUI w0).n (unUI w0).d (unUI w0).a ((unUI w0).i.extractLsb' 6 3) ((unUI w0).i.extractLsb' 0 6))

/-- Opcode slot 0x33 of the U-set: GRED. -/
def parseB3 (w0 _w1 _w2 : Word) : Except Reject Instr :=
  if (unUR w0).f = 0#3 then do
    let p ← operand (GredOp.ofCode ((unUR w0).b.extractLsb' 0 4))
    pure (.gred (unUR w0).n (unUR w0).d (unUR w0).a ((unUR w0).b.extractLsb' 4 2) p)
  else throw .badFunction

/-- Opcode slot 0x34 of the U-set: QFENCE. -/
def parseB4 (w0 _w1 _w2 : Word) : Except Reject Instr :=
  do
    zeroField ((unUI w0).d = 0#6)
    zeroField ((unUI w0).a = 0#6)
    zeroField (((unUI w0).i.extractLsb' 8 1) = 0#1)
    pure (.qfence (unUI w0).n ((unUI w0).i.extractLsb' 0 8))

/-- Opcode slot 0x35 of the U-set: QWAIT. -/
def parseB5 (w0 _w1 _w2 : Word) : Except Reject Instr :=
  do
    zeroField ((unUI w0).d = 0#6)
    zeroField ((unUI w0).a = 0#6)
    zeroField (((unUI w0).i.extractLsb' 8 1) = 0#1)
    pure (.qwait (unUI w0).n ((unUI w0).i.extractLsb' 0 8))

/-- Opcode slot 0x36 of the U-set: TTAG. -/
def parseB6 (w0 _w1 _w2 : Word) : Except Reject Instr :=
  if (unUR w0).f = 0#3 then do
    zeroField ((unUR w0).d = 0#6)
    zeroField ((unUR w0).b = 0#6)
    pure (.ttag (unUR w0).n (unUR w0).a)
  else throw .badFunction

/-- Opcode slot 0x37 of the U-set: TDISC. -/
def parseB7 (w0 _w1 _w2 : Word) : Except Reject Instr :=
  if (unUR w0).f = 0#3 then do
    zeroField ((unUR w0).d = 0#6)
    zeroField ((unUR w0).b = 0#6)
    pure (.tdisc (unUR w0).n (unUR w0).a)
  else throw .badFunction

/-- Opcode slot 0x38 of the U-set: GATH. -/
def parseB8 (w0 _w1 _w2 : Word) : Except Reject Instr :=
  if (unUR w0).f = 0#3 then do
    zeroField ((unUR w0).d = 0#6)
    zeroField ((unUR w0).b = 0#6)
    pure (.gath (unUR w0).n (unUR w0).a)
  else throw .badFunction

/-- Opcode slot 0x39 of the U-set: SCAT. -/
def parseB9 (w0 _w1 _w2 : Word) : Except Reject Instr :=
  if (unUR w0).f = 0#3 then do
    zeroField ((unUR w0).d = 0#6)
    zeroField ((unUR w0).b = 0#6)
    pure (.scat (unUR w0).n (unUR w0).a)
  else throw .badFunction

/-- Opcode slot 0x3A of the U-set: PROM. -/
def parseBA (w0 _w1 _w2 : Word) : Except Reject Instr :=
  do
    zeroField ((unUR w0).d = 0#6)
    zeroField ((unUR w0).b = 0#6)
    zeroField (((unUR w0).f.extractLsb' 1 2) = 0#2)
    pure (.prom (unUR w0).n (unUR w0).a ((unUR w0).f.extractLsb' 0 1))

/-- Opcode slot 0x3B of the U-set: DEM. -/
def parseBB (w0 _w1 _w2 : Word) : Except Reject Instr :=
  if (unUR w0).f = 0#3 then do
    zeroField ((unUR w0).d = 0#6)
    zeroField ((unUR w0).b = 0#6)
    pure (.dem (unUR w0).n (unUR w0).a)
  else throw .badFunction

/-- Opcode slot 0x40 of the U-set: UBRA. -/
def parseC0 (w0 _w1 _w2 : Word) : Except Reject Instr :=
  do
    pure (.ubra (unLB w0).n (unLB w0).i)

/-- Opcode slot 0x41 of the U-set: UBRC. -/
def parseC1 (w0 _w1 _w2 : Word) : Except Reject Instr :=
  do
    pure (.ubrc (unLB w0).n ((unLB w0).i.extractLsb' 15 6) ((unLB w0).i.extractLsb' 14 1) ((unLB w0).i.extractLsb' 0 14))

/-- Opcode slot 0x42 of the U-set: UCALL. -/
def parseC2 (w0 _w1 _w2 : Word) : Except Reject Instr :=
  do
    pure (.ucall (unLB w0).n (unLB w0).i)

/-- Opcode slot 0x43 of the U-set: URET. -/
def parseC3 (w0 _w1 _w2 : Word) : Except Reject Instr :=
  do
    zeroField ((unUR w0).d = 0#6)
    zeroField ((unUR w0).a = 0#6)
    zeroField ((unUR w0).b = 0#6)
    zeroField ((unUR w0).f = 0#3)
    pure (.uret (unUR w0).n)

/-- Opcode slot 0x44 of the U-set: SPAWN. -/
def parseC4 (w0 _w1 _w2 : Word) : Except Reject Instr :=
  if (unUR w0).f = 0#3 then do
    zeroField ((unUR w0).d = 0#6)
    pure (.spawn (unUR w0).n (unUR w0).a (unUR w0).b)
  else throw .badFunction

/-- Opcode slot 0x45 of the U-set: CONT. -/
def parseC5 (w0 _w1 _w2 : Word) : Except Reject Instr :=
  if (unUR w0).f = 0#3 then do
    zeroField ((unUR w0).d = 0#6)
    zeroField ((unUR w0).b = 0#6)
    pure (.cont (unUR w0).n (unUR w0).a)
  else throw .badFunction

/-- Opcode slot 0x46 of the U-set: PHASE. -/
def parseC6 (w0 _w1 _w2 : Word) : Except Reject Instr :=
  do
    zeroField ((unUI w0).d = 0#6)
    zeroField ((unUI w0).a = 0#6)
    zeroField (((unUI w0).i.extractLsb' 8 1) = 0#1)
    pure (.phase (unUI w0).n ((unUI w0).i.extractLsb' 0 8))

/-- Opcode slot 0x47 of the U-set: PERF. -/
def parseC7 (w0 _w1 _w2 : Word) : Except Reject Instr :=
  do
    zeroField ((unUI w0).d = 0#6)
    zeroField ((unUI w0).a = 0#6)
    zeroField (((unUI w0).i.extractLsb' 4 5) = 0#5)
    pure (.perf (unUI w0).n ((unUI w0).i.extractLsb' 0 4))

/-- Opcode slot 0x48 of the U-set: CARVE. -/
def parseC8 (w0 _w1 _w2 : Word) : Except Reject Instr :=
  do
    zeroField ((unUI w0).d = 0#6)
    zeroField ((unUI w0).a = 0#6)
    zeroField (((unUI w0).i.extractLsb' 3 6) = 0#6)
    pure (.carve (unUI w0).n ((unUI w0).i.extractLsb' 0 3))

/-- Opcode slot 0x70 of the U-set: RDSR_UNIFORM. -/
def parseF0 (w0 _w1 _w2 : Word) : Except Reject Instr :=
  do
    zeroField (((unUR w0).b.extractLsb' 0 2) = 0#2)
    zeroField ((unUR w0).f = 0#3)
    pure (.rdsrUniform (unUR w0).n (unUR w0).d (w0.extractLsb' 5 10))

/-- Opcode slot 0x71 of the U-set: WRSR_UNIFORM. -/
def parseF1 (w0 _w1 _w2 : Word) : Except Reject Instr :=
  do
    zeroField (((unUR w0).b.extractLsb' 0 2) = 0#2)
    zeroField ((unUR w0).f = 0#3)
    pure (.wrsrUniform (unUR w0).n (unUR w0).d (w0.extractLsb' 5 10))

/-- L-set slots 0x01 to 0x2A and on (03_encoding.md R79). -/
def lRows1 : List Row :=
  [⟨0x01, 0, parse01⟩,
   ⟨0x02, 0, parse02⟩,
   ⟨0x03, 0, parse03⟩,
   ⟨0x04, 0, parse04⟩,
   ⟨0x05, 0, parse05⟩,
   ⟨0x06, 0, parse06⟩,
   ⟨0x07, 0, parse07⟩,
   ⟨0x08, 0, parse08⟩,
   ⟨0x09, 0, parse09⟩,
   ⟨0x0A, 0, parse0A⟩,
   ⟨0x0B, 1, parse0B⟩,
   ⟨0x0C, 0, parse0C⟩,
   ⟨0x0D, 0, parse0D⟩,
   ⟨0x0E, 0, parse0E⟩,
   ⟨0x0F, 0, parse0F⟩,
   ⟨0x10, 0, parse10⟩,
   ⟨0x11, 0, parse11⟩,
   ⟨0x12, 0, parse12⟩,
   ⟨0x13, 0, parse13⟩,
   ⟨0x14, 0, parse14⟩,
   ⟨0x15, 0, parse15⟩,
   ⟨0x16, 0, parse16⟩,
   ⟨0x18, 0, parse18⟩,
   ⟨0x19, 0, parse19⟩,
   ⟨0x20, 0, parse20⟩,
   ⟨0x21, 0, parse21⟩,
   ⟨0x22, 0, parse22⟩,
   ⟨0x23, 0, parse23⟩,
   ⟨0x24, 0, parse24⟩,
   ⟨0x25, 0, parse25⟩,
   ⟨0x26, 0, parse26⟩,
   ⟨0x28, 0, parse28⟩,
   ⟨0x29, 0, parse29⟩,
   ⟨0x2A, 0, parse2A⟩,
   ⟨0x30, 1, parse30⟩,
   ⟨0x31, 1, parse31⟩]

/-- The other L-set slots (03_encoding.md R79). -/
def lRows2 : List Row :=
  [⟨0x32, 0, parse32⟩,
   ⟨0x33, 1, parse33⟩,
   ⟨0x34, 0, parse34⟩,
   ⟨0x35, 0, parse35⟩,
   ⟨0x36, 0, parse36⟩,
   ⟨0x38, 1, parse38⟩,
   ⟨0x39, 1, parse39⟩,
   ⟨0x3A, 1, parse3A⟩,
   ⟨0x3B, 1, parse3B⟩,
   ⟨0x3C, 1, parse3C⟩,
   ⟨0x3D, 0, parse3D⟩,
   ⟨0x40, 0, parse40⟩,
   ⟨0x41, 0, parse41⟩,
   ⟨0x42, 0, parse42⟩,
   ⟨0x43, 0, parse43⟩,
   ⟨0x44, 0, parse44⟩,
   ⟨0x45, 0, parse45⟩,
   ⟨0x46, 0, parse46⟩,
   ⟨0x50, 0, parse50⟩,
   ⟨0x51, 0, parse51⟩,
   ⟨0x52, 0, parse52⟩,
   ⟨0x53, 0, parse53⟩,
   ⟨0x54, 0, parse54⟩,
   ⟨0x55, 0, parse55⟩,
   ⟨0x56, 0, parse56⟩,
   ⟨0x57, 0, parse57⟩,
   ⟨0x58, 1, parse58⟩,
   ⟨0x59, 0, parse59⟩,
   ⟨0x5A, 0, parse5A⟩,
   ⟨0x70, 0, parse70⟩,
   ⟨0x71, 0, parse71⟩,
   ⟨0x72, 0, parse72⟩,
   ⟨0x73, 0, parse73⟩,
   ⟨0x74, 0, parse74⟩,
   ⟨0x75, 0, parse75⟩]

/-- U-set slots (03_encoding.md R82). -/
def uRows1 : List Row :=
  [⟨0x81, 0, parse81⟩,
   ⟨0x82, 0, parse82⟩,
   ⟨0x83, 0, parse83⟩,
   ⟨0x84, 1, parse84⟩,
   ⟨0x88, 0, parse88⟩,
   ⟨0x89, 0, parse89⟩,
   ⟨0x8A, 0, parse8A⟩,
   ⟨0x8B, 0, parse8B⟩,
   ⟨0x8C, 0, parse8C⟩,
   ⟨0x8D, 0, parse8D⟩,
   ⟨0x8E, 0, parse8E⟩,
   ⟨0x8F, 0, parse8F⟩,
   ⟨0x90, 0, parse90⟩,
   ⟨0x91, 0, parse91⟩,
   ⟨0x92, 0, parse92⟩,
   ⟨0x93, 1, parse93⟩,
   ⟨0x94, 2, parse94⟩,
   ⟨0xA0, 0, parseA0⟩,
   ⟨0xA1, 0, parseA1⟩,
   ⟨0xA2, 0, parseA2⟩,
   ⟨0xA3, 0, parseA3⟩,
   ⟨0xA4, 0, parseA4⟩,
   ⟨0xA5, 0, parseA5⟩,
   ⟨0xA6, 0, parseA6⟩,
   ⟨0xA7, 0, parseA7⟩]

/-- The other U-set slots (03_encoding.md R82). -/
def uRows2 : List Row :=
  [⟨0xA8, 0, parseA8⟩,
   ⟨0xB0, 0, parseB0⟩,
   ⟨0xB1, 0, parseB1⟩,
   ⟨0xB2, 0, parseB2⟩,
   ⟨0xB3, 0, parseB3⟩,
   ⟨0xB4, 0, parseB4⟩,
   ⟨0xB5, 0, parseB5⟩,
   ⟨0xB6, 0, parseB6⟩,
   ⟨0xB7, 0, parseB7⟩,
   ⟨0xB8, 0, parseB8⟩,
   ⟨0xB9, 0, parseB9⟩,
   ⟨0xBA, 0, parseBA⟩,
   ⟨0xBB, 0, parseBB⟩,
   ⟨0xC0, 0, parseC0⟩,
   ⟨0xC1, 0, parseC1⟩,
   ⟨0xC2, 0, parseC2⟩,
   ⟨0xC3, 0, parseC3⟩,
   ⟨0xC4, 0, parseC4⟩,
   ⟨0xC5, 0, parseC5⟩,
   ⟨0xC6, 0, parseC6⟩,
   ⟨0xC7, 0, parseC7⟩,
   ⟨0xC8, 0, parseC8⟩,
   ⟨0xF0, 0, parseF0⟩,
   ⟨0xF1, 0, parseF1⟩]

/-- Both opcode maps. -/
def rows : List Row := lRows1 ++ lRows2 ++ uRows1 ++ uRows2

/-- The row of a first word, none where its slot is not assigned. -/
def rowOf (w : Word) : Option Row := rows.find? (fun r => r.op = w.extractLsb' 24 8)

/-- The number of extension words that follow a first word (03_encoding.md R63). -/
def extWords (w : Word) : Nat :=
  match rowOf w with
  | some r => r.ext
  | none => 0

/-- The instruction of a first word and two words that follow it, of which only the row's extension words are read.
A word of an unassigned slot is the event UNASSIGNED_OPCODE (03_encoding.md R76 to R78). -/
def decode (w e g : Word) : Except Reject Instr :=
  match rowOf w with
  | none => .ok (.unassignedOpcode w)
  | some r => do
    let i ← r.parse w e g
    if wellFormed i then pure i else throw .badValue

/-- The words of an instruction, first word first, from the encodings of 03_encoding.md R64, R65, R79 to R82.
An event has none. -/
def encode (i : Instr) : List Word :=
  match i with
  | .add n d a b => [packLR 0x01 n d.code a.code b.code 0#6]
  | .sub n d a b => [packLR 0x01 n d.code a.code b.code 1#6]
  | .mul n d a b => [packLR 0x01 n d.code a.code b.code 2#6]
  | .mulh n d a b => [packLR 0x01 n d.code a.code b.code 3#6]
  | .mulhU n d a b => [packLR 0x01 n d.code a.code b.code 4#6]
  | .and n d a b => [packLR 0x01 n d.code a.code b.code 8#6]
  | .or n d a b => [packLR 0x01 n d.code a.code b.code 9#6]
  | .xor n d a b => [packLR 0x01 n d.code a.code b.code 10#6]
  | .andn n d a b => [packLR 0x01 n d.code a.code b.code 11#6]
  | .shl n d a b => [packLR 0x01 n d.code a.code b.code 16#6]
  | .shr n d a b => [packLR 0x01 n d.code a.code b.code 17#6]
  | .sar n d a b => [packLR 0x01 n d.code a.code b.code 18#6]
  | .rotl n d a b => [packLR 0x01 n d.code a.code b.code 19#6]
  | .min n d a b => [packLR 0x01 n d.code a.code b.code 24#6]
  | .max n d a b => [packLR 0x01 n d.code a.code b.code 25#6]
  | .minU n d a b => [packLR 0x01 n d.code a.code b.code 26#6]
  | .maxU n d a b => [packLR 0x01 n d.code a.code b.code 27#6]
  | .neg n d a => [packLR 0x02 n d.code a.code 0#5 0#6]
  | .abs n d a => [packLR 0x02 n d.code a.code 0#5 1#6]
  | .not n d a => [packLR 0x02 n d.code a.code 0#5 2#6]
  | .clz n d a => [packLR 0x02 n d.code a.code 0#5 3#6]
  | .popc n d a => [packLR 0x02 n d.code a.code 0#5 4#6]
  | .brev n d a => [packLR 0x02 n d.code a.code 0#5 5#6]
  | .mov n d a => [packLR 0x02 n d.code a.code 0#5 6#6]
  | .mad n d a b c => [packLR 0x03 n d.code a.code b.code (0#1 ++ c.code)]
  | .addw n d a b => [packLR 0x04 n d.code a.code b.code 0#6]
  | .lea n d a b h => [packLR 0x05 n d.code a.code b.code h]
  | .bfx n d a l p => [packLI 0x06 n d.code a.code (0#1 ++ l ++ p)]
  | .bfxSigned n d a l p => [packLI 0x06 n d.code a.code (1#1 ++ l ++ p)]
  | .bfi n d a l p => [packLI 0x07 n d.code a.code (0#1 ++ l ++ p)]
  | .sel n d a b k => [packLR 0x08 n d.code a.code b.code (0#2 ++ k)]
  | .cmp n k a b c => [packLR 0x09 n (0#1 ++ k) a.code b.code c.code]
  | .movi n d i => [packLI 0x0A n d.code 0#5 i]
  | .moviWide n d v => [packLI 0x0B n d.code 0#5 0#11, v]
  | .addImm n d a i => [packLI 0x0C n d.code a.code i]
  | .mulImm n d a i => [packLI 0x0D n d.code a.code i]
  | .andImm n d a i => [packLI 0x0E n d.code a.code i]
  | .orImm n d a i => [packLI 0x0F n d.code a.code i]
  | .xorImm n d a i => [packLI 0x10 n d.code a.code i]
  | .shlImm n d a p => [packLI 0x11 n d.code a.code (0#6 ++ p)]
  | .shrImm n d a p => [packLI 0x12 n d.code a.code (0#6 ++ p)]
  | .sarImm n d a p => [packLI 0x13 n d.code a.code (0#6 ++ p)]
  | .rotlImm n d a p => [packLI 0x14 n d.code a.code (0#6 ++ p)]
  | .minImm n d a i => [packLI 0x15 n d.code a.code i]
  | .maxImm n d a i => [packLI 0x16 n d.code a.code i]
  | .hadd2 n d a b => [packLR 0x18 n d.code a.code b.code 0#6]
  | .hsub2 n d a b => [packLR 0x18 n d.code a.code b.code 1#6]
  | .hmin2 n d a b => [packLR 0x18 n d.code a.code b.code 2#6]
  | .hmax2 n d a b => [packLR 0x18 n d.code a.code b.code 3#6]
  | .hadd2Sat n d a b => [packLR 0x18 n d.code a.code b.code 4#6]
  | .hsub2Sat n d a b => [packLR 0x18 n d.code a.code b.code 5#6]
  | .hmin2U n d a b => [packLR 0x18 n d.code a.code b.code 6#6]
  | .hmax2U n d a b => [packLR 0x18 n d.code a.code b.code 7#6]
  | .acs2 n d a b k => [packLR 0x19 n d.code a.code b.code (0#2 ++ k)]
  | .fadd n d a b => [packLR 0x20 n d.code a.code b.code 0#6]
  | .fsub n d a b => [packLR 0x20 n d.code a.code b.code 1#6]
  | .fmul n d a b => [packLR 0x20 n d.code a.code b.code 2#6]
  | .fmin n d a b => [packLR 0x20 n d.code a.code b.code 3#6]
  | .fmax n d a b => [packLR 0x20 n d.code a.code b.code 4#6]
  | .ffma n d a b c => [packLR 0x21 n d.code a.code b.code (0#1 ++ c.code)]
  | .fcmp n k a b c => [packLR 0x22 n (0#1 ++ k) a.code b.code c.code]
  | .fsfu n d a f => [packLR 0x23 n d.code a.code 0#5 f.code]
  | .fcvt n d a v r t u => [packLR 0x24 n d.code a.code (0#1 ++ v ++ r.code) (t.code ++ u.code)]
  | .fq4 n d a b t => [packLR 0x25 n d.code a.code b.code (0#4 ++ t.code)]
  | .fdq4 n d a b t => [packLR 0x26 n d.code a.code b.code (0#4 ++ t.code)]
  | .shfl n d a b m k => [packLR 0x28 n d.code a.code b.code (m.code ++ k)]
  | .vote n d a m k => [packLR 0x29 n d.code a.code 0#5 (m.code ++ k)]
  | .wred n d a p k => [packLR 0x2A n d.code a.code p.code (0#2 ++ k)]
  | .rgn n k c j3 j2 j1 j0 => [packLR 0x30 n (0#1 ++ k) 0#5 0#5 (0#4 ++ c), 0#4 ++ j3 ++ j2 ++ j1 ++ j0]
  | .wbk n k c j3 j2 j1 j0 => [packLR 0x31 n (0#1 ++ k) 0#5 0#5 (0#4 ++ c), 0#4 ++ j3 ++ j2 ++ j1 ++ j0]
  | .mvmFromMain n d m => [packLI 0x32 n d.code 0#5 (0#4 ++ m)]
  | .mvmToMain n d m => [packLI 0x32 n d.code 0#5 (1#4 ++ m)]
  | .xbnd n h l => [packLR 0x33 n 0#5 0#5 0#5 0#6, 0#17 ++ h ++ 0#1 ++ l]
  | .xset n x a i => [packLI 0x34 n (5#3 ++ x) a.code i]
  | .ldx n d x i => [packLI 0x35 n d.code (5#3 ++ x) i]
  | .stx n d x i => [packLI 0x36 n d.code (5#3 ++ x) i]
  | .ld n d a w x => [packLR 0x38 n d.code a.code 0#5 w.code, x.code]
  | .st n d a w x => [packLR 0x39 n d.code a.code 0#5 w.code, x.code]
  | .atom n d a b p x => [packLR 0x3A n d.code a.code b.code p.code, x.code]
  | .red n a b p x => [packLR 0x3B n 0#5 a.code b.code p.code, x.code]
  | .prf n a q x => [packLR 0x3C n 0#5 a.code 0#5 (0#5 ++ q), x.code]
  | .fence n e o => [packLR 0x3D n 0#5 0#5 0#5 (e.code ++ o.code)]
  | .lds n d a b w => [packLR 0x40 n d.code a.code b.code w.code]
  | .sts n d a b w => [packLR 0x41 n d.code a.code b.code w.code]
  | .lda n d a b => [packLR 0x42 n d.code a.code b.code 0#6]
  | .sta n d a b => [packLR 0x43 n d.code a.code b.code 0#6]
  | .ldt n d a t => [packLR 0x44 n d.code a.code 0#5 t]
  | .twait n t => [packLR 0x45 n 0#5 0#5 0#5 t]
  | .ldp n d a w i => [packLI 0x46 n d.code a.code (w ++ i)]
  | .bra n o => [packLB 0x50 n o]
  | .brc n e k o => [packLB 0x51 n (e ++ k ++ o)]
  | .call n o => [packLB 0x52 n o]
  | .brx n a => [packLR 0x53 n 0#5 a.code 0#5 0#6]
  | .nop n => [packLR 0x54 n 0#5 0#5 0#5 0#6]
  | .exit n => [packLR 0x54 n 0#5 0#5 0#5 1#6]
  | .ret n => [packLR 0x54 n 0#5 0#5 0#5 2#6]
  | .vac n => [packLR 0x54 n 0#5 0#5 0#5 3#6]
  | .yld n => [packLR 0x54 n 0#5 0#5 0#5 4#6]
  | .mand n d a b => [packLR 0x55 n (0#1 ++ d) (0#1 ++ a) (0#1 ++ b) 0#6]
  | .mor n d a b => [packLR 0x55 n (0#1 ++ d) (0#1 ++ a) (0#1 ++ b) 1#6]
  | .mnot n d a => [packLR 0x55 n (0#1 ++ d) (0#1 ++ a) 0#5 2#6]
  | .mset n d a => [packLR 0x55 n (0#1 ++ d) a.code 0#5 3#6]
  | .mpop n d k => [packLR 0x55 n d.code (0#1 ++ k) 0#5 4#6]
  | .mfirst n d k => [packLR 0x55 n d.code (0#1 ++ k) 0#5 5#6]
  | .mjoin n k => [packLR 0x56 n 0#5 (0#1 ++ k) 0#5 0#6]
  | .mleave n k => [packLR 0x56 n 0#5 (0#1 ++ k) 0#5 1#6]
  | .mwait n k => [packLR 0x56 n 0#5 (0#1 ++ k) 0#5 2#6]
  | .refill n d => [packLR 0x57 n d.code 0#5 0#5 0#6]
  | .spawnl n a b r => [packLR 0x58 n 0#5 a.code b.code 0#6, r ++ 0#26]
  | .gbar n g => [packLR 0x59 n 0#5 0#5 0#5 (0#4 ++ g)]
  | .lbar n => [packLR 0x5A n 0#5 0#5 0#5 0#6]
  | .trap n g => [packLI 0x70 n 0#5 0#5 (0#3 ++ g)]
  | .tret n => [packLR 0x71 n 0#5 0#5 0#5 0#6]
  | .esc n g => [packLI 0x72 n 0#5 0#5 (0#3 ++ g)]
  | .brk n g => [packLI 0x73 n 0#5 0#5 (0#3 ++ g)]
  | .rdsr n d r => [packLI 0x74 n d.code 0#5 (0#1 ++ r)]
  | .wrsr n d r => [packLI 0x75 n d.code 0#5 (0#1 ++ r)]
  | .sadd n d a b => [packUR 0x81 n d a b 0#3]
  | .ssub n d a b => [packUR 0x81 n d a b 1#3]
  | .smul n d a b => [packUR 0x81 n d a b 2#3]
  | .sand n d a b => [packUR 0x81 n d a b 3#3]
  | .sor n d a b => [packUR 0x81 n d a b 4#3]
  | .sxor n d a b => [packUR 0x81 n d a b 5#3]
  | .smin n d a b => [packUR 0x81 n d a b 6#3]
  | .smax n d a b => [packUR 0x81 n d a b 7#3]
  | .sshl n d a b => [packUR 0x82 n d a b 0#3]
  | .sshr n d a b => [packUR 0x82 n d a b 1#3]
  | .ssar n d a b => [packUR 0x82 n d a b 2#3]
  | .smov n d a => [packUR 0x82 n d a 0#6 3#3]
  | .sminU n d a b => [packUR 0x82 n d a b 4#3]
  | .smaxU n d a b => [packUR 0x82 n d a b 5#3]
  | .scmp n d a b c => [packUR 0x83 n d a b c.code]
  | .ssel n d a b c => [packUR 0x84 n d a b 0#3, 0#26 ++ c]
  | .saddImm n d a i => [packUI 0x88 n d a i]
  | .smulImm n d a i => [packUI 0x89 n d a i]
  | .sandImm n d a i => [packUI 0x8A n d a i]
  | .sorImm n d a i => [packUI 0x8B n d a i]
  | .sxorImm n d a i => [packUI 0x8C n d a i]
  | .sshlImm n d a p => [packUI 0x8D n d a (0#3 ++ p)]
  | .sshrImm n d a p => [packUI 0x8E n d a (0#3 ++ p)]
  | .ssarImm n d a p => [packUI 0x8F n d a (0#3 ++ p)]
  | .sminImm n d a i => [packUI 0x90 n d a i]
  | .smaxImm n d a i => [packUI 0x91 n d a i]
  | .smovi n d i => [packUI 0x92 n d 0#6 i]
  | .smovi32 n d v => [packUI 0x93 n d 0#6 0#9, v]
  | .smovi64 n d lo hi => [packUI 0x94 n d 0#6 0#9, lo, hi]
  | .bond n d k c r => [packUI 0xA0 n d (0#4 ++ k) (0#5 ++ c ++ r)]
  | .bondStrait n d k => [packUI 0xA0 n d (0#4 ++ k) (1#5 ++ 0#4)]
  | .unbond n k => [packUR 0xA1 n 0#6 (0#4 ++ k) 0#6 0#3]
  | .mma n a => [packUR 0xA2 n 0#6 a 0#6 0#3]
  | .talloc n t a => [packUR 0xA3 n t a 0#6 0#3]
  | .tfree n t => [packUR 0xA4 n t 0#6 0#6 0#3]
  | .tcopy n q a => [packUR 0xA5 n (0#3 ++ q) a 0#6 0#3]
  | .tquant n q a => [packUR 0xA6 n (0#3 ++ q) a 0#6 0#3]
  | .aalloc n d a k => [packUR 0xA7 n d a 0#6 (0#1 ++ k)]
  | .afree n k => [packUR 0xA8 n 0#6 0#6 0#6 (0#1 ++ k)]
  | .sld n d a i => [packUI 0xB0 n d a i]
  | .sst n d a i => [packUI 0xB1 n d a i]
  | .ldpUniform n d a w i => [packUI 0xB2 n d a (w ++ i)]
  | .gred n d a k p => [packUR 0xB3 n d a (k ++ p.code) 0#3]
  | .qfence n q => [packUI 0xB4 n 0#6 0#6 (0#1 ++ q)]
  | .qwait n q => [packUI 0xB5 n 0#6 0#6 (0#1 ++ q)]
  | .ttag n a => [packUR 0xB6 n 0#6 a 0#6 0#3]
  | .tdisc n a => [packUR 0xB7 n 0#6 a 0#6 0#3]
  | .gath n a => [packUR 0xB8 n 0#6 a 0#6 0#3]
  | .scat n a => [packUR 0xB9 n 0#6 a 0#6 0#3]
  | .prom n a p => [packUR 0xBA n 0#6 a 0#6 (0#2 ++ p)]
  | .dem n a => [packUR 0xBB n 0#6 a 0#6 0#3]
  | .ubra n o => [packLB 0xC0 n o]
  | .ubrc n c e o => [packLB 0xC1 n (c ++ e ++ o)]
  | .ucall n o => [packLB 0xC2 n o]
  | .uret n => [packUR 0xC3 n 0#6 0#6 0#6 0#3]
  | .spawn n a b => [packUR 0xC4 n 0#6 a b 0#3]
  | .cont n a => [packUR 0xC5 n 0#6 a 0#6 0#3]
  | .phase n m => [packUI 0xC6 n 0#6 0#6 (0#1 ++ m)]
  | .perf n l => [packUI 0xC7 n 0#6 0#6 (0#5 ++ l)]
  | .carve n k => [packUI 0xC8 n 0#6 0#6 (0#6 ++ k)]
  | .rdsrUniform n d r => [packUR 0xF0 n d (r.extractLsb' 4 6) (r.extractLsb' 0 4 ++ 0#2) 0#3]
  | .wrsrUniform n d r => [packUR 0xF1 n d (r.extractLsb' 4 6) (r.extractLsb' 0 4 ++ 0#2) 0#3]
  | .queueDoorbell _ _ _ _ => []
  | .launchAdmission => []
  | .snapshotCopy _ _ => []
  | .taskPop => []
  | .boundGroupPlacement _ _ => []
  | .castlingThreshold => []
  | .castling => []
  | .boardEntry => []
  | .fairnessForce => []
  | .yieldWindowEnd => []
  | .implicitRefill => []
  | .taskEnd => []
  | .stealRequest => []
  | .stealAnswer => []
  | .stealBackoff => []
  | .carveChange => []
  | .aallocServed => []
  | .leaseJoin => []
  | .leaseRelease => []
  | .tcopyLoad => []
  | .tcopyStore => []
  | .tcopyMove => []
  | .tquantOp => []
  | .gatherOp => []
  | .scatterOp => []
  | .fillLanding _ => []
  | .mmaOp _ => []
  | .pipeTrap => []
  | .engineCompletion => []
  | .redOp => []
  | .syncEngineAtomic => []
  | .syncOverflowMove _ _ => []
  | .promotion => []
  | .demotion => []
  | .channelArrival _ _ _ => []
  | .channelService _ _ _ => []
  | .agePromotion _ _ _ => []
  | .ferryVisit => []
  | .returnVisit => []
  | .l2Writeback _ _ => []
  | .remoteWriteApply _ _ => []
  | .meteringInterval => []
  | .arbiterRequest => []
  | .tlbMiss _ _ _ => []
  | .walk => []
  | .frespRetry _ _ => []
  | .frespFail _ _ => []
  | .drainConfirmed _ => []
  | .cmapWrite _ _ _ => []
  | .cpartWrite _ _ _ => []
  | .sync _ => []
  | .qbindWrite _ _ _ => []
  | .invAll _ _ => []
  | .invSpace _ _ => []
  | .invPages _ _ => []
  | .invDone => []
  | .regselWrite _ _ => []
  | .regulatorSwitchDone => []
  | .domainLoop _ => []
  | .pointChangeDone => []
  | .regulatorOvercurrent => []
  | .gateDie _ => []
  | .wakeDie _ => []
  | .gatingDone => []
  | .preemptLaunch _ => []
  | .preemptPartition _ => []
  | .preemptHalt => []
  | .contextSave => []
  | .restore _ => []
  | .restorePlacement => []
  | .killLaunch _ => []
  | .killPartition _ => []
  | .leaserev _ _ => []
  | .leaseRevokedFree => []
  | .unfreezeKill _ => []
  | .unfreezeReset _ => []
  | .cellmaskWrite _ _ _ _ => []
  | .fscfgWrite _ _ _ => []
  | .synovfWrite _ _ => []
  | .tqovfWrite _ _ _ _ => []
  | .faultqConfigWrite _ _ _ => []
  | .expwWrite _ _ _ => []
  | .registerWrite _ _ _ => []
  | .hostAccess _ => []
  | .fabricPeerAccess _ => []
  | .attestReq _ _ => []
  | .reportDone _ => []
  | .recoveryWriteChunk => []
  | .recoveryFinishImage => []
  | .rstctl _ => []
  | .errorConsumed _ _ => []
  | .rollback _ => []
  | .replayReadmission _ => []
  | .firmwareSwitch => []
  | .powerOn => []
  | .bringupStageDone _ _ => []
  | .vinLow => []
  | .supplyReset => []
  | .thermalTrip => []
  | .unassignedOpcode w => [w]
  | .faultQueueHeadWrite _ _ => []
  | .shortSaveResume _ => []
  | .hostLinkTrained => []

/-- A word of four bytes, low byte first (03_encoding.md R63). -/
def wordOf (a b c d : Byte) : Word := d ++ c ++ b ++ a

/-- The next word of a list of bytes and the bytes after it. -/
def takeWord : List Byte → Option (Word × List Byte)
  | a :: b :: c :: d :: r => some (wordOf a b c d, r)
  | _ => none

/-- The instruction at the head of a list of bytes, and the bytes after it (03_encoding.md R63). -/
def decodeBytes (bs : List Byte) : Except Reject (Instr × List Byte) :=
  match takeWord bs with
  | none => .error .tooShort
  | some (w, r) =>
    match extWords w with
    | 0 => (decode w 0 0).map (fun i => (i, r))
    | 1 =>
      match takeWord r with
      | none => .error .tooShort
      | some (e, r1) => (decode w e 0).map (fun i => (i, r1))
    | _ =>
      match takeWord r with
      | none => .error .tooShort
      | some (e, r1) =>
        match takeWord r1 with
        | none => .error .tooShort
        | some (g, r2) => (decode w e g).map (fun i => (i, r2))

/-- The bytes of a list of words, each word low byte first (03_encoding.md R63). -/
def wordBytes : List Word → List Byte
  | [] => []
  | w :: r => bytesOf 4 w.toNat ++ wordBytes r

/-- The words of a numbered instruction: bit 0 is the least significant bit of the first word, bits above nbits are 0. -/
def tableWords (nbits w : Nat) : List Word :=
  let v := w % 2 ^ nbits
  [BitVec.ofNat 32 v, BitVec.ofNat 32 (v / 2 ^ 32), BitVec.ofNat 32 (v / 2 ^ 64)]

/-- The instruction that the decoder reads from an instruction whose bits are w. -/
def decodeTableWord (nbits w : Nat) : Option Instr :=
  match decodeBytes (wordBytes (tableWords nbits w)) with
  | .ok (i, _) => some i
  | .error _ => none

/-- Length of an instruction in bytes: 4, 8 or 12 (03_encoding.md R63). -/
def instrBytes (i : Instr) : Nat := 4 * (encode i).length

end Sys2Proof
end

