-- ==== Sys2Proof/Machine/Region.lean ====
section
/-! DEFINITION. Register regions and arrays: the main file and the index registers (07_lane_arith.md R172 to R177). -/

namespace Sys2Proof.Machine

/-- The first c + 1 of four main-register numbers. -/
def regionOf (c : BitVec 2) (j3 j2 j1 j0 : BitVec 7) : List Nat :=
  [j0.toNat, j1.toNat, j2.toNat, j3.toNat].take (c.toNat + 1)

/-- o[K + k] := m[J_k] (07_lane_arith.md R172). -/
def execRgn (n : Stall) (k : BitVec 4) (c : BitVec 2) (j3 j2 j1 j0 : BitVec 7) (s : State) : Answer :=
  let js := regionOf c j3 j2 j1 j0
  laneOp n 8 0 (0, 0) (fun _ => js.map LRes.m)
    (fun v => { wr := js.zipIdx.map (fun p => (.o (k.toNat + p.2), v.main p.2 p.1)) }) s

/-- m[J_k] := o[K + k]; a lane with a locked register named writes nothing and traps (07_lane_arith.md R173). -/
def execWbk (n : Stall) (k : BitVec 4) (c : BitVec 2) (j3 j2 j1 j0 : BitVec 7) (s : State) : Answer :=
  let js := regionOf c j3 j2 j1 j0
  laneOp n 8 0 (0, 0) (fun _ => js.zipIdx.map (fun p => LRes.o (k.toNat + p.2)))
    (fun v =>
      if js.any v.ln.locked then .trapped 0x04
      else { wr := js.zipIdx.map (fun p => (.m p.1, v.oreg p.2 (k.toNat + p.2))) }) s

/-- d := m[N] (07_lane_arith.md R174). -/
def execMvmFromMain (n : Stall) (d : Dst) (m : BitVec 7) (s : State) : Answer :=
  laneOp n 4 2 (0, 0) (fun _ => [.m m.toNat]) (fun v => .val d (v.main 0 m.toNat)) s

/-- m[N] := d (07_lane_arith.md R174). -/
def execMvmToMain (n : Stall) (d : Src) (m : BitVec 7) (s : State) : Answer :=
  laneOp n 4 2 (0, 0) (fun _ => srcRes d)
    (fun v => if v.ln.locked m.toNat then .trapped 0x04 else { wr := [(.m m.toNat, v.src 0 d)] }) s

/-- The executing lanes' array bounds := m[LO] to m[HI], inclusive (07_lane_arith.md R175). -/
def execXbnd (n : Stall) (h l : BitVec 7) (s : State) : Answer :=
  match laneOp n 8 0 (0, 0) (fun _ => []) (fun _ => {}) s with
  | .next t => .next (t.updWarp s.cur.warp (fun w =>
      w.updLanes s.execLanes (fun _ ln => { ln with lo := l.toNat, hi := h.toNat })))
  | r => r

/-- x[N] := a + sext(imm11, 32) (07_lane_arith.md R176). -/
def execXset (n : Stall) (x : BitVec 2) (a : Src) (i : BitVec 11) (s : State) : Answer :=
  laneOp n 4 1 (1, 1) (fun _ => srcRes a) (fun v => { wr := [(.x x.toNat, v.src 0 a + imm11 i)] }) s

/-- The main register that ldx and stx name, none outside the lane's bounds (07_lane_arith.md R177). -/
def View.indexed (v : View) (x : BitVec 2) (i : BitVec 11) : Option Nat :=
  let idx : Int := (v.src 0 (.x x)).toInt + i.toInt
  if idx < v.ln.lo ∨ idx > v.ln.hi then none else some idx.toNat

/-- d := m[x[N] + imm] (07_lane_arith.md R177). -/
def execLdx (n : Stall) (d : Dst) (x : BitVec 2) (i : BitVec 11) (s : State) : Answer :=
  laneOp n 4 2 (1, 1) (fun v => .x x.toNat :: (v.indexed x i).toList.map LRes.m)
    (fun v => match v.indexed x i with
      | none => .trapped 0x04
      | some j => .val d (v.main 1 j)) s

/-- m[x[N] + imm] := d (07_lane_arith.md R177). -/
def execStx (n : Stall) (d : Src) (x : BitVec 2) (i : BitVec 11) (s : State) : Answer :=
  laneOp n 4 0 (1, 1) (fun _ => .x x.toNat :: srcRes d)
    (fun v => match v.indexed x i with
      | none => .trapped 0x04
      | some j => if v.ln.locked j then .trapped 0x04 else { wr := [(.m j, v.src 1 d)] }) s

end Sys2Proof.Machine
end

