-- ==== Sys2Proof/Machine/Interlock.lean ====
section
/-! DEFINITION. The results of variable latency and the instructions that wait for them: no lane or strand issues before the
sources of its next instruction have landed (03_encoding.md R72, R73, 13_scheduling.md R362). -/

namespace Sys2Proof.Machine

/-- The lane resources that an L-set instruction names as sources, in a lane. -/
def laneSources (l : Lane) : Instr → List LRes
  | .add _ _ a b | .sub _ _ a b | .mul _ _ a b | .mulh _ _ a b | .mulhU _ _ a b | .and _ _ a b | .or _ _ a b | .xor _ _ a b
  | .andn _ _ a b | .shl _ _ a b | .shr _ _ a b | .sar _ _ a b | .rotl _ _ a b | .min _ _ a b | .max _ _ a b | .minU _ _ a b
  | .maxU _ _ a b | .lea _ _ a b _ | .cmp _ _ a b _ | .hadd2 _ _ a b | .hsub2 _ _ a b | .hmin2 _ _ a b | .hmax2 _ _ a b
  | .hadd2Sat _ _ a b | .hsub2Sat _ _ a b | .hmin2U _ _ a b | .hmax2U _ _ a b | .acs2 _ _ a b _ | .fadd _ _ a b | .fsub _ _ a b
  | .fmul _ _ a b | .fmin _ _ a b | .fmax _ _ a b | .fcmp _ _ a b _ | .fq4 _ _ a b _ | .fdq4 _ _ a b _ | .shfl _ _ a b _ _
  | .lds _ _ a b _ | .lda _ _ a b | .spawnl _ a b _ | .sel _ _ a b _ => srcRes a ++ srcRes b
  | .neg _ _ a | .abs _ _ a | .not _ _ a | .clz _ _ a | .popc _ _ a | .brev _ _ a | .mov _ _ a | .bfx _ _ a _ _
  | .bfxSigned _ _ a _ _ | .addImm _ _ a _ | .mulImm _ _ a _ | .andImm _ _ a _ | .orImm _ _ a _ | .xorImm _ _ a _ | .shlImm _ _ a _
  | .shrImm _ _ a _ | .sarImm _ _ a _ | .rotlImm _ _ a _ | .minImm _ _ a _ | .maxImm _ _ a _ | .fsfu _ _ a _ | .fcvt _ _ a _ _ _ _
  | .vote _ _ a _ _ | .wred _ _ a _ _ | .xset _ _ a _ | .ld _ _ a _ _ | .prf _ a _ _ | .ldt _ _ a _ | .ldp _ _ a _ _ | .brx _ a
  | .mset _ _ a | .mvmToMain _ a _ | .wrsr _ a _ => srcRes a
  | .bfi _ d a _ _ => srcRes (dstSrc d) ++ srcRes a
  | .mad _ _ a b c | .ffma _ _ a b c => srcRes a ++ srcRes b ++ srcRes c
  | .addw _ _ a b => pairRes a ++ pairRes b
  | .rgn _ _ c j3 j2 j1 j0 => (regionOf c j3 j2 j1 j0).map LRes.m
  | .wbk _ k c j3 j2 j1 j0 => (regionOf c j3 j2 j1 j0).zipIdx.map (fun p => LRes.o (k.toNat + p.2))
  | .mvmFromMain _ _ m => [.m m.toNat]
  | .ldx _ _ x i => [.x x.toNat, .m ((l.x.get 0 x.toNat).toInt + i.toInt).toNat]
  | .stx _ d x _ => .x x.toNat :: srcRes d
  | .st _ d a w _ => srcRes a ++ storedRes d w
  | .atom _ _ a b p _ | .red _ a b p _ => srcRes a ++ atomRes p b
  | .sts _ d a b w => srcRes a ++ srcRes b ++ storedRes d w
  | .sta _ d a b => srcRes a ++ srcRes b ++ srcRes d
  | _ => []

/-- The s-registers that a source operand names. -/
def srcUni : Src → List Nat
  | .u n => [56 + n.toNat]
  | _ => []

/-- The uniform registers that an L-set instruction names as operands. -/
def laneUniform : Instr → List Nat
  | .add _ _ a b | .sub _ _ a b | .mul _ _ a b | .mulh _ _ a b | .mulhU _ _ a b | .and _ _ a b | .or _ _ a b | .xor _ _ a b
  | .andn _ _ a b | .shl _ _ a b | .shr _ _ a b | .sar _ _ a b | .rotl _ _ a b | .min _ _ a b | .max _ _ a b | .minU _ _ a b
  | .maxU _ _ a b | .lea _ _ a b _ | .cmp _ _ a b _ | .hadd2 _ _ a b | .hsub2 _ _ a b | .hmin2 _ _ a b | .hmax2 _ _ a b
  | .hadd2Sat _ _ a b | .hsub2Sat _ _ a b | .hmin2U _ _ a b | .hmax2U _ _ a b | .acs2 _ _ a b _ | .fadd _ _ a b | .fsub _ _ a b
  | .fmul _ _ a b | .fmin _ _ a b | .fmax _ _ a b | .fcmp _ _ a b _ | .fq4 _ _ a b _ | .fdq4 _ _ a b _ | .shfl _ _ a b _ _
  | .lds _ _ a b _ | .lda _ _ a b | .sel _ _ a b _ => srcUni a ++ srcUni b
  | .neg _ _ a | .abs _ _ a | .not _ _ a | .clz _ _ a | .popc _ _ a | .brev _ _ a | .mov _ _ a | .bfx _ _ a _ _
  | .bfxSigned _ _ a _ _ | .addImm _ _ a _ | .mulImm _ _ a _ | .andImm _ _ a _ | .orImm _ _ a _ | .xorImm _ _ a _ | .shlImm _ _ a _
  | .shrImm _ _ a _ | .sarImm _ _ a _ | .rotlImm _ _ a _ | .minImm _ _ a _ | .maxImm _ _ a _ | .fsfu _ _ a _ | .fcvt _ _ a _ _ _ _
  | .vote _ _ a _ _ | .wred _ _ a _ _ | .xset _ _ a _ | .ldt _ _ a _ | .ldp _ _ a _ _ | .brx _ a | .mset _ _ a | .mvmToMain _ a _
  | .wrsr _ a _ | .bfi _ _ a _ _ | .stx _ a _ _ => srcUni a
  | .mad _ _ a b c | .ffma _ _ a b c | .sts _ c a b _ | .sta _ c a b => srcUni a ++ srcUni b ++ srcUni c
  | .ld _ _ a _ x | .prf _ a _ x => x.base.toNat :: srcUni a
  | .st _ d a _ x => x.base.toNat :: srcUni a ++ srcUni d
  | .atom _ _ a b _ x | .red _ a b _ x => x.base.toNat :: srcUni a ++ srcUni b
  | .spawnl _ a b r => r.toNat :: srcUni a ++ srcUni b
  | _ => []

/-- The s-registers that a U-set instruction names as sources. -/
def strandSources : Instr → List Nat
  | .sadd _ _ a b | .ssub _ _ a b | .smul _ _ a b | .sand _ _ a b | .sor _ _ a b | .sxor _ _ a b | .smin _ _ a b | .smax _ _ a b
  | .sshl _ _ a b | .sshr _ _ a b | .ssar _ _ a b | .sminU _ _ a b | .smaxU _ _ a b | .scmp _ _ a b _ | .spawn _ a b
  | .sst _ b a _ => [a.toNat, b.toNat]
  | .ssel _ _ a b c => [a.toNat, b.toNat, c.toNat]
  | .smov _ _ a | .saddImm _ _ a _ | .smulImm _ _ a _ | .sandImm _ _ a _ | .sorImm _ _ a _ | .sxorImm _ _ a _ | .sshlImm _ _ a _
  | .sshrImm _ _ a _ | .ssarImm _ _ a _ | .sminImm _ _ a _ | .smaxImm _ _ a _ | .mma _ a | .talloc _ _ a | .tcopy _ _ a
  | .tquant _ _ a | .aalloc _ _ a _ | .sld _ _ a _ | .ldpUniform _ _ a _ _ | .gred _ _ a _ _ | .ttag _ a | .tdisc _ a | .gath _ a
  | .scat _ a | .prom _ a _ | .dem _ a | .ubrc _ a _ _ | .cont _ a | .wrsrUniform _ a _ => [a.toNat]
  | _ => []

/-- The lane registers that an L-set instruction writes whole, in a lane. -/
def laneResults (l : Lane) : Instr → List LRes
  | .add _ d .. | .sub _ d .. | .mul _ d .. | .mulh _ d .. | .mulhU _ d .. | .and _ d .. | .or _ d .. | .xor _ d ..
  | .andn _ d .. | .shl _ d .. | .shr _ d .. | .sar _ d .. | .rotl _ d .. | .min _ d .. | .max _ d .. | .minU _ d ..
  | .maxU _ d .. | .lea _ d .. | .hadd2 _ d .. | .hsub2 _ d .. | .hmin2 _ d .. | .hmax2 _ d .. | .hadd2Sat _ d ..
  | .hsub2Sat _ d .. | .hmin2U _ d .. | .hmax2U _ d .. | .acs2 _ d .. | .fadd _ d .. | .fsub _ d .. | .fmul _ d ..
  | .fmin _ d .. | .fmax _ d .. | .fq4 _ d .. | .fdq4 _ d .. | .shfl _ d .. | .lda _ d .. | .sel _ d .. | .neg _ d ..
  | .abs _ d .. | .not _ d .. | .clz _ d .. | .popc _ d .. | .brev _ d .. | .mov _ d .. | .bfx _ d .. | .bfxSigned _ d ..
  | .addImm _ d .. | .mulImm _ d .. | .andImm _ d .. | .orImm _ d .. | .xorImm _ d .. | .shlImm _ d .. | .shrImm _ d ..
  | .sarImm _ d .. | .rotlImm _ d .. | .minImm _ d .. | .maxImm _ d .. | .movi _ d .. | .moviWide _ d .. | .fsfu _ d ..
  | .fcvt _ d .. | .vote _ d .. | .wred _ d .. | .ldt _ d .. | .ldp _ d .. | .mvmFromMain _ d .. | .ldx _ d .. | .mpop _ d ..
  | .mfirst _ d .. | .rdsr _ d .. | .refill _ d .. | .mad _ d .. | .ffma _ d .. => dstRes d
  | .addw _ d .. => pairRes (dstSrc d)
  | .ld _ d _ w _ | .lds _ d _ _ w => storedRes (dstSrc d) w
  | .atom _ d _ _ p _ => storedRes (dstSrc d) (if atomSize p = 8 then .w64 else .w32)
  | .rgn _ k c j3 j2 j1 j0 => (regionOf c j3 j2 j1 j0).zipIdx.map (fun p => LRes.o (k.toNat + p.2))
  | .wbk _ _ c j3 j2 j1 j0 => (regionOf c j3 j2 j1 j0).map LRes.m
  | .mvmToMain _ _ m => [.m m.toNat]
  | .xset _ x .. => [.x x.toNat]
  | .stx _ _ x i => [.m ((l.x.get 0 x.toNat).toInt + i.toInt).toNat]
  | _ => []

/-- The s-registers that a U-set instruction writes. -/
def strandResults : Instr → List Nat
  | .sadd _ d .. | .ssub _ d .. | .smul _ d .. | .sand _ d .. | .sor _ d .. | .sxor _ d .. | .smin _ d .. | .smax _ d .. | .sshl _ d ..
  | .sshr _ d .. | .ssar _ d .. | .sminU _ d .. | .smaxU _ d .. | .scmp _ d .. | .ssel _ d .. | .smov _ d .. | .saddImm _ d ..
  | .smulImm _ d .. | .sandImm _ d .. | .sorImm _ d .. | .sxorImm _ d .. | .sshlImm _ d .. | .sshrImm _ d .. | .ssarImm _ d ..
  | .sminImm _ d .. | .smaxImm _ d .. | .smovi _ d .. | .smovi32 _ d .. | .smovi64 _ d .. | .bond _ d .. | .bondStrait _ d ..
  | .aalloc _ d .. | .sld _ d .. | .ldpUniform _ d .. | .gred _ d .. | .rdsrUniform _ d .. => [d.toNat]
  | _ => []

/-- The tile entry that an instruction names. -/
def tileNamed : Instr → Option Nat
  | .ldt _ _ _ t | .twait _ t | .talloc _ t _ | .tfree _ t => some t.toNat
  | _ => none

/-- The mask whose present value an instruction waits for: that of mpop, and in a converged warp that of brc
(03_encoding.md R72, 14_control_instr.md R379). -/
def maskAwaited (converged : Bool) : Instr → List LRes
  | .mpop _ _ k => [.mk k.toNat]
  | .brc _ _ k _ => if converged then [.mk k.toNat] else []
  | .brx _ a => if converged then srcRes a else []
  | _ => []

/-- Core cycles until every result under way to one of some resources has landed. -/
def awaitOf (l : List Await) (rs : List LRes) : Nat :=
  l.foldl (fun m a => if rs.contains a.res then max m (a.left.getD 0) else m) 0

def sawaitOf (l : List SAwait) (rs : List Nat) : Nat :=
  l.foldl (fun m a => if rs.contains a.reg then max m (a.left.getD 0) else m) 0

/-- Core cycles until every fixed-latency result among some resources is there. -/
def pendAwaited (l : List Pend) (rs : List LRes) : Nat :=
  l.foldl (fun m p => if rs.contains p.res then max m p.left else m) 0

/-- Draw when a result that has just been issued lands: a free number of core cycles, which no rule gives (log entry 2). -/
def drawAwaits (tick i : Nat) (l : List Await) : List Await :=
  (l.zipIdx.map (fun p => match p.1.left with
    | some _ => p.1
    | none => { p.1 with left := some (Config.freeDelay (2 ^ 128 * (64 * i + p.2 + 1) + tick)) })).filter
      (fun a => !decide (a.left = some 0))

def drawSAwaits (tick : Nat) (l : List SAwait) : List SAwait :=
  (l.zipIdx.map (fun p => match p.1.left with
    | some _ => p.1
    | none => { p.1 with left := some (Config.freeDelay (2 ^ 128 * (64 * 32 + p.2 + 1) + tick)) })).filter
      (fun a => !decide (a.left = some 0))

/-- Some result of the warp is on its way, or a mask is not yet there. -/
def Warp.underWay (w : Warp) : Bool :=
  !w.sawait.isEmpty || w.lanes.any (fun p => !p.2.await.isEmpty || !p.2.pend.isEmpty)

end Sys2Proof.Machine
end

