-- ==== Sys2Proof/Machine/Issue.lean ====
section
/-! DEFINITION. Fetching an instruction, words that are no instruction, the refill that no lane executes, who may issue, and
the time that an issue takes (02_execution.md R33 to R38, R45, 03_encoding.md R71, R76 to R78, 13_scheduling.md R362 to R368). -/

namespace Sys2Proof.Machine

/-! ## Fetching (03_encoding.md R63, R76) -/

/-- How the fetch of one word ends: the word, a wait for a token, a page that system software failed, or a stop. -/
inductive FetchedWord where
  | word (w : Word)
  | wait (tok : Nat)
  | failed
  | stop
  deriving DecidableEq, Repr

/-- Read one word for an issuer: the translation needs X, the physical address a range of the partition, and a word with an
uncorrectable error is consumed by the launch (15_isolation.md R409, R413, R418, R419, 16_recovery.md R439). -/
def State.fetchWord (s : State) (m : Master) (failed : List (Nat × Nat)) (pc : Addr) : State × FetchedWord :=
  match s.translate m pc.toNat .fetch failed with
  | (t, .wait tok) => (t, .wait tok)
  | (t, .failed) => (t, .failed)
  | (t, .frozen) => (t, .stop)
  | (t, .ok pa) =>
    if !t.paAllowed m.part pa .fetch then (t.freeze m pa .fetch, .stop)
    else if quarter pa = 3 then
      match t.remoteRead m pa 4 with
      | (u, some v) => (u, .word (BitVec.ofNat 32 v))
      | (u, none) => (u, .stop)
    else
      let a := canonPa pa
      let r := (t.trackRead m.lid a).meets m.die a 4
      match r.2 with
      | some e => (r.1.consumeAt m e, .stop)
      | none => (r.1, .word (BitVec.ofNat 32 (ofBytes (r.1.mem.lookN m.die a 4))))

/-- How a fetch ends: the first word and its extension words, a U-set word in a diverged warp, a wait for a token, a page that
system software failed, or a stop. -/
inductive Fetched where
  | words (w e g : Word)
  | uset
  | wait (tok : Nat)
  | failed
  | stop
  deriving DecidableEq, Repr

/-- Read the extension words of a first word (03_encoding.md R76). -/
def State.fetchMore (s : State) (m : Master) (failed : List (Nat × Nat)) (pc : Addr) (w : Word) : State × Fetched :=
  match extWords w with
  | 0 => (s, .words w 0 0)
  | k =>
    match s.fetchWord m failed (pc + 4) with
    | (t, .wait tok) => (t, .wait tok)
    | (t, .failed) => (t, .failed)
    | (t, .stop) => (t, .stop)
    | (t, .word e) =>
      if k = 1 then (t, .words w e 0)
      else
        match t.fetchWord m failed (pc + 8) with
        | (t, .wait tok) => (t, .wait tok)
        | (t, .failed) => (t, .failed)
        | (t, .stop) => (t, .stop)
        | (t, .word g) => (t, .words w e g)

/-- Fetch in the order of 03_encoding.md R76: the first word, the check for divergence, the extension words. -/
def State.fetch (s : State) (m : Master) (failed : List (Nat × Nat)) (pc : Addr) (converged : Bool) : State × Fetched :=
  match s.fetchWord m failed pc with
  | (t, .wait tok) => (t, .wait tok)
  | (t, .failed) => (t, .failed)
  | (t, .stop) => (t, .stop)
  | (t, .word w) => if bitAt w 31 && !converged then (t, .uset) else t.fetchMore m failed pc w

/-! ## Words that are no instruction (03_encoding.md R76 to R78) -/

/-- The executing lanes trap at their PCs. -/
def State.lanesTrap (s : State) (code : Nat) : State :=
  s.takeTraps s.cur.warp (s.execLanes.map (fun i => { lane := i, code := code, pc := ((s.warp s.cur.warp).lane i).pc }))

/-- A word is rejected: trap 0x01, or trap 0x02 for a U-set word that lanes of a diverged warp reach, with no other effect
(02_execution.md R38, 03_encoding.md R76, R78). -/
def State.rejected (s : State) (w : Word) : State :=
  if bitAt w 31 then
    if (s.warp s.cur.warp).converged then s.strandTrap s.cur.warp 0x01 (s.warp s.cur.warp).spc else s.lanesTrap 0x02
  else s.lanesTrap 0x01

/-- UNASSIGNED_OPCODE (03_encoding.md R78). -/
def execUnassignedOpcode (w : BitVec 32) (s : State) : Answer := .next (s.rejected w)

/-! ## Who may issue (13_scheduling.md R362) -/

/-- The warp is on the board and not castling, its launch runs, its core is not stopped, and the task still issues. -/
def State.mayIssue (s : State) (w : Nat) : Bool :=
  let wp := s.warp w
  decide (wp.slot = .board) && s.runs wp.lid && !(s.core (coreOf w)).frozen && decide (wp.ending = .running) && decide (wp.swait = .none)

/-- A lane is live and waits for nothing. -/
def Lane.ready (l : Lane) : Bool := decide (l.st = .live) && decide (l.wait = .none)

/-- The latest stall delay outstanding among lanes (03_encoding.md R71, R85). -/
def Warp.stallOf (w : Warp) (is : List Nat) : Nat := is.foldl (fun m i => max m (w.lane i).stallLeft) 0

/-- The ready lanes at the PC of a lane whose stall counts have elapsed d core cycles from now (13_scheduling.md R362). -/
def Warp.readyAt (w : Warp) (pc : Addr) (d : Nat) : Word :=
  maskOf (fun i => (w.lane i).ready && decide ((w.lane i).pc = pc) && decide ((w.lane i).stallLeft ≤ d))

/-- The PC group that a set of lanes names: with a converged warp every live lane, once none waits; with a diverged one the
ready lanes at the PC of its lowest ready lane, in the first core cycle in which the stall counts of the named ones among them
have elapsed (02_execution.md R35, 13_scheduling.md R362). -/
def Warp.pcGroup (w : Warp) (named : Word) : Word :=
  if w.converged then
    if (lanesOf w.live).all (fun i => (w.lane i).ready) && !w.startRefill then w.live else 0
  else
    match (lanesOf named).find? (fun i => (w.lane i).ready) with
    | none => 0
    | some j =>
      let pc := (w.lane j).pc
      w.readyAt pc (w.stallOf ((lanesOf named).filter (fun i => (w.lane i).ready && decide ((w.lane i).pc = pc))))

/-- The lanes that an actor issues for; none where its warp may not issue. The second group of a pair is cut to the lanes that
were picked for it (07_lane_arith.md R145, 13_scheduling.md R365). -/
def State.issuers (s : State) (who : Actor) : Word :=
  if s.mayIssue who.warp then
    let g := (s.warp who.warp).pcGroup who.lanes
    if who.second && !who.strand then g &&& who.lanes else g
  else 0

/-- The PC of an issuing group. -/
def Warp.groupPc (w : Warp) (group : Word) : Addr :=
  if w.converged then w.spc
  else
    match lanesOf group with
    | i :: _ => (w.lane i).pc
    | [] => w.spc

/-! ## The time that an issue takes (03_encoding.md R71, 13_scheduling.md R367, R368, 17_system_instr.md R476) -/

/-- Results on their way after some core cycles. -/
def ageAwaits (delta : Nat) (l : List Await) : List Await :=
  l.filterMap (fun a => match a.left with
    | some k => if k ≤ delta then none else some { a with left := some (k - delta) }
    | none => some a)

def ageSAwaits (delta : Nat) (l : List SAwait) : List SAwait :=
  l.filterMap (fun a => match a.left with
    | some k => if k ≤ delta then none else some { a with left := some (k - delta) }
    | none => some a)

/-- A lane after some core cycles. Its wait count advances in those in which it is ready, outside a yield window; where it
is not ready, or not up for issue at all, it returns to 0 (13_scheduling.md R367, R368). -/
def Lane.age (l : Lane) (delta : Nat) (up : Bool) : Lane :=
  { l with
    stallLeft := l.stallLeft - delta
    await := ageAwaits delta l.await
    yieldLeft := if l.yieldLeft = 0 then 0 else max 1 (l.yieldLeft - delta)
    waitCnt := if up && l.ready then l.waitCnt + (delta - max (l.stallLeft - 1) (l.yieldLeft - 1)) else 0 }

/-- A lane in a yield window in the d-th core cycle from now (13_scheduling.md R368). -/
def Lane.yields (l : Lane) (d : Nat) : Bool := decide (d < l.yieldLeft)

/-- A lane that issues: not again in this core cycle. -/
def Lane.issue (l : Lane) : Lane := { l with stallLeft := 1, waitCnt := 0 }

/-- A warp of the core after some core cycles, in the last of which some of its lanes issue. The lanes of a warp off the board,
or whose strand or whole warp waits or issues, are not up for issue (13_scheduling.md R362, R367). -/
def Warp.age (w : Warp) (delta : Nat) (group : Word) (strand : Bool) : Warp :=
  let up := decide (w.slot = .board) && decide (w.swait = .none) && !strand
  { w with sstall := w.sstall - delta, sawait := ageSAwaits delta w.sawait
           lanes := mapVals (fun i l =>
             if l.st = .live then (if bitAt group i then (l.age delta up).issue else l.age delta up) else l.age delta false) w.lanes }

/-- The core cycles from the present one until the issuer's stall counts have elapsed (03_encoding.md R71, R85). -/
def Warp.issueDelay (w : Warp) (group : Word) (strand : Bool) : Nat := if strand then w.sstall else w.stallOf (lanesOf group)

/-- The next issue that the agenda names for the core of a warp is the second group of a pair with it. -/
def State.pairs (s : State) (w : Nat) : Bool :=
  match s.agenda.find? (fun h => decide (h.what = none) && decide (coreOf h.who.warp = coreOf w)) with
  | some h => h.who.second && !h.who.strand && decide (h.who.warp = w)
  | none => false

/-- What the second group of a pair is to read of the warp (07_lane_arith.md R146). -/
def Warp.snapPair (w : Warp) : PairSeen := { mks := w.mks.set 0 w.live, stk := w.stk, chk := w.chk, tvec := w.tvec }

/-- A warp's first group did not issue: no second issues beside it. -/
def State.noPair (s : State) (w : Nat) : State := s.updWarp w (fun v => { v with pairSeen := none })

/-- It issues in the core cycle of the core's latest issue: the second group of a pair whose first has issued, or a U-set word
beside a lane group (13_scheduling.md R363, R365). -/
def State.besideLast (s : State) (who : Actor) (strand : Bool) : Bool :=
  who.second &&
  (if strand then (s.core (coreOf who.warp)).laneNow
   else match (s.warp who.warp).pairSeen with
     | some p => p.unissued
     | none => false)

/-- The masks and registers that the groups of an issue pair read, after an issue of a lane group of the warp: taken as the
first group issues, and no longer open once the second does. -/
def State.pairAfter (s : State) (w : Nat) (same : Bool) : Option PairSeen :=
  if same then (s.warp w).pairSeen.map (fun p => { p with unissued := false })
  else if s.pairs w then some (s.warp w).snapPair else none

/-- An issue begins: the core's cycles pass, in which every stall, yield window and result under way counts down, and the issuer
is recorded. What issues in the cycle of the issue before it lets no cycle pass; the second group of a pair reads the warp's
masks and registers from before the pair (13_scheduling.md R362, R363, R365, R368, 14_control_instr.md R389). -/
def State.beginIssue (s : State) (who : Actor) (group : Word) (strand : Bool) : State :=
  let w := who.warp
  let c := coreOf w
  let wp := s.warp w
  let delay := wp.issueDelay group strand
  let same := s.besideLast who strand && decide (delay = 0)
  let delta := if same then 0 else max 1 delay
  let seen := if strand then none else s.pairAfter w same
  let pass (k : Nat) (v : Warp) : Warp :=
    let v1 := v.age delta (if k = w ∧ !strand then group else 0) (decide (k = w) && strand)
    { v1 with pairSeen := if k = w then seen else none }
  let s1 := { s with warps := mapVals (fun k v => if coreOf k = c then pass k v else v) s.warps }
  let s2 := s1.updCore c (fun k =>
    { k with cyc := k.cyc + BitVec.ofNat 64 delta
             rotL := if strand then k.rotL else w % 16
             rotS := if strand then w % 16 else k.rotS
             laneNow := !strand })
  { s2.updWarp w (fun v =>
      { v with sfailed := if strand then v.sfailed else []
               dq := if v.converged && !strand then [v.spc] else [] }) with
    cur := { who with lanes := group, strand := strand, second := same && !strand } }

/-- A fetch of an issuing group waits on a translation fault: the strand of a converged warp, or the lanes
(15_isolation.md R419). -/
def State.fetchWaits (s : State) (w : Nat) (group : Word) (tok : Nat) : State :=
  s.updWarp w (fun v =>
    if v.converged then { v with swait := .fault tok } else v.updLanes (lanesOf group) (fun _ l => { l with wait := .fault tok }))

/-- The pages that system software has failed for the fetch of a group. -/
def Warp.fetchFailed (w : Warp) (group : Word) : List (Nat × Nat) :=
  if w.converged then w.sfailed else (lanesOf group).flatMap (fun i => (w.lane i).failed)

/-- A fetch that faults traps with code 0x0D at the first word (03_encoding.md R76, R84). -/
def State.fetchTrap (s : State) (who : Actor) (group : Word) (pc : Addr) : State :=
  s.takeTraps who.warp ((lanesOf group).map (fun i => { lane := i, code := 0x0D, pc := pc }))

/-! ## The choice of a core (13_scheduling.md R363 to R366) -/

/-- The units that the two groups of a pair share (13_scheduling.md R364). -/
inductive SharedUnit where
  | sfu | port | xbar
  deriving DecidableEq, Repr

/-- The shared resource of an instruction (13_scheduling.md R364). -/
def sharedUnit : Instr → Option SharedUnit
  | .fsfu .. => some .sfu
  | .ld .. | .st .. | .atom .. | .red .. | .prf .. | .lds .. | .sts .. | .lda .. | .sta .. | .ldt .. | .ldp ..
  | .ldx .. | .stx .. | .rgn .. | .wbk .. | .mvmFromMain .. | .mvmToMain .. => some .port
  | .shfl .. | .vote .. | .wred .. | .spawnl .. => some .xbar
  | _ => none

/-- The word that an issuer would fetch, where its fetch would succeed now. -/
def State.peek (s : State) (w : Nat) (group : Word) : Option (Word × Word × Word) :=
  let wp := s.warp w
  match (s.fetch (s.strandMaster w) (wp.fetchFailed group) (wp.groupPc group) true).2 with
  | .words x e g => some (x, e, g)
  | _ => none

/-- The instruction at the PC of a group, where its fetch would succeed now. -/
def State.nextOf (s : State) (w : Nat) (group : Word) : Option Instr :=
  match s.peek w group with
  | some (x, e, g) =>
    match decode x e g with
    | .ok i => some i
    | .error _ => none
  | none => none

/-- The core cycles for which the sources of an instruction keep a lane from being ready. -/
def Lane.waitsFor (l : Lane) (w : Warp) (i : Instr) : Nat :=
  max (sawaitOf w.sawait (laneUniform i))
    (max (awaitOf l.await (laneSources l i)) (pendAwaited l.pend (maskAwaited w.converged i)))

/-- The lanes and the strand of a warp wait for the sources of their next instructions (03_encoding.md R72, R73). -/
def State.interlockWarp (s : State) (k : Nat) (v0 : Warp) : Warp :=
  let t := 2 ^ 64 * (k + 1) + s.tick
  let v := { v0 with sawait := drawSAwaits t v0.sawait
                     lanes := mapVals (fun i l => { l with await := drawAwaits t i l.await }) v0.lanes }
  if v.converged then
    match s.nextOf k v.live with
    | none => v
    | some ins =>
      { v with sstall := max v.sstall (sawaitOf v.sawait (strandSources ins))
               lanes := mapVals (fun _ l =>
                 if l.ready then { l with stallLeft := max l.stallLeft (l.waitsFor v ins) } else l) v.lanes }
  else
    { v with lanes := mapVals (fun i l =>
        if l.ready then
          match s.nextOf k (maskOf (fun j => decide (j = i))) with
          | some ins => { l with stallLeft := max l.stallLeft (l.waitsFor v ins) }
          | none => l
        else l) v.lanes }

/-- The same for every warp with a result under way. -/
def State.interlock (s : State) : State :=
  if s.warps.any (fun p => p.2.underWay) then
    { s with warps := mapVals (fun k v => if v.underWay then s.interlockWarp k v else v) s.warps }
  else s

/-- The strand of a converged warp acts next: its word is a U-set word, or its fetch does not succeed. -/
def State.strandNext (s : State) (w : Nat) (group : Word) : Bool :=
  (s.warp w).converged && (match s.peek w group with
    | some (x, _, _) => bitAt x 31
    | none => true)

/-- A PC group as the choice of a pair sees it. -/
structure Group where
  lanes : Word
  pc : Nat
  wait : Nat
  size : Nat
  yields : Bool
  deriving DecidableEq, Repr

/-- The PC groups of a warp in the d-th core cycle from now, with their waits at its beginning (13_scheduling.md R362,
R367). -/
def Warp.pcGroups (w : Warp) (d : Nat) : List Group :=
  let masks :=
    if w.converged then (if w.pcGroup 0 = 0 ∨ d < w.stallOf (lanesOf w.live) then [] else [w.live])
    else (((lanesOf w.live).map (fun i => w.readyAt (w.lane i).pc d)).filter (fun m => !decide (m = 0))).dedup
  masks.map (fun m =>
    { lanes := m, pc := (w.groupPc m).toNat
      wait := (lanesOf m).foldl (fun x i => max x ((w.lane i).age (d - 1) true).waitCnt) 0
      size := (lanesOf m).length, yields := (lanesOf m).any (fun i => (w.lane i).yields d) })

/-- One group takes a place before another (13_scheduling.md R364, R369). -/
def Group.before (noprog : Bool) (a b : Group) : Bool :=
  let more (x y : Nat) : Bool := decide (y < x) || (decide (x = y) && decide (a.pc ≤ b.pc))
  if noprog then more a.size b.size
  else
    match decide (64 ≤ a.wait), decide (64 ≤ b.wait) with
    | true, true => more a.wait b.wait
    | true, false => true
    | false, true => false
    | false, false => if a.yields = b.yields then more a.size b.size else b.yields

/-- The slots of a core in rotation after one of them (13_scheduling.md R363). -/
def rotation (c last : Nat) : List Nat := (List.range 16).map (fun k => 16 * c + (last + 1 + k) % 16)

/-- The lane groups that a warp issues in the d-th core cycle from now (13_scheduling.md R364). -/
def State.pairOf (s : State) (w d : Nat) : List Happening :=
  let wp := s.warp w
  let unit (g : Group) : Option SharedUnit :=
    match s.peek w g.lanes with
    | some (x, e, y) =>
      match decode x e y with
      | .ok i => sharedUnit i
      | .error _ => none
    | none => none
  let act (g : Group) (second : Bool) : Happening := { who := { warp := w, lanes := g.lanes, second := second }, what := none }
  match (wp.pcGroups d).foldr (insertBy (Group.before (s.launch wp.lid).noprog)) [] with
  | [] => []
  | [a] => [act a false]
  | a :: b :: _ => if (unit a).isSome && decide (unit a = unit b) then [act a false] else [act a false, act b true]

/-- Core cycles until a warp may issue: until its strand may, or the first of its ready lanes, all of them where the warp is
converged. -/
def Warp.delays (w : Warp) (strand : Bool) : List Nat :=
  if w.converged then (if w.pcGroup 0 = 0 then [] else [w.issueDelay w.live strand])
  else ((lanesOf w.live).filter (fun i => (w.lane i).ready)).map (fun i => (w.lane i).stallLeft)

/-- What a core issues in the first cycle in which something is ready: a lane pair and a U-set word, each from the first board
warp of its rotation that has one ready (13_scheduling.md R363). -/
def State.cycleOf (s : State) (c : Nat) : List Happening :=
  let uset (w : Nat) : Bool := (s.warp w).converged && s.strandNext w (s.warp w).live
  let delays := (rotation c 15).flatMap (fun w => if s.mayIssue w then (s.warp w).delays (uset w) else [])
  match delays with
  | [] => []
  | x :: r =>
    let d := max 1 (r.foldl min x)
    let ready (w : Nat) : Bool := s.mayIssue w && ((s.warp w).delays (uset w)).any (fun k => decide (k ≤ d))
    let pair := match (rotation c (s.core c).rotL).find? (fun w => ready w && !uset w) with
      | some w => s.pairOf w d
      | none => []
    match (rotation c (s.core c).rotS).find? (fun w => ready w && uset w) with
    | some w => pair ++ [{ who := { warp := w, strand := true, second := !pair.isEmpty }, what := none }]
    | none => pair

/-! ## The refill that no lane executes (02_execution.md R45) -/

/-- IMPLICIT_REFILL: the agent's warp has vacant lanes and no live lane, and performs the start refill, whose word must be a
refill, or the refill at its refill address (02_execution.md R45 steps 1, 5 and 6). -/
def execImplicitRefill (s : State) : Answer :=
  let w := s.cur.warp
  let wp := s.warp w
  let pc := if wp.startRefill then wp.spc else wp.refillPc.getD (wp.trec.code.setWidth 56)
  .next (if !s.mayIssue w || !decide (wp.live = 0) || decide (wp.vacant = 0) then s
    else
      match s.fetch (s.strandMaster w) wp.sfailed pc true with
      | (t, .wait tok) => t.updWarp w (fun v => { v with swait := .fault tok })
      | (t, .failed) => t.refillTrap w pc 0x0D
      | (t, .stop) => t
      | (t, .uset) => t.refillTrap w pc 0x01
      | (t, .words x e g) =>
        match decode x e g with
        | .ok (.refill n d) => t.loneRefill w pc d n.toNat
        | _ => t.refillTrap w pc 0x01)

end Sys2Proof.Machine
end

