-- ==== Sys2Proof/Machine/Uniform.lean ====
section
/-! DEFINITION. Uniform arithmetic on s-registers (07_lane_arith.md R178 to R180). -/

namespace Sys2Proof.Machine

/-- Signed and unsigned minimum and maximum of s-register values (07_lane_arith.md R178). -/
def sMin64 (a b : Word64) : Word64 := if a.slt b then a else b
def sMax64 (a b : Word64) : Word64 := if a.slt b then b else a
def uMin64 (a b : Word64) : Word64 := if a.ult b then a else b
def uMax64 (a b : Word64) : Word64 := if a.ult b then b else a

/-- Shifts use b[5:0] (07_lane_arith.md R178). -/
def shl64 (a b : Word64) : Word64 := a <<< (b.toNat % 64)
def shr64 (a b : Word64) : Word64 := a >>> (b.toNat % 64)
def sar64 (a b : Word64) : Word64 := a.sshiftRight (b.toNat % 64)

/-- sext of a 9-bit immediate (03_encoding.md R66). -/
def imm9 (i : BitVec 9) : Word64 := i.signExtend 64

/-- s[d] := a + b modulo 2^64 (07_lane_arith.md R178). -/
def execSadd (n : Stall) (d a b : BitVec 6) (s : State) : Answer :=
  sOp2 n 1 1 d a b (fun a b => a + b) s

/-- s[d] := a + b modulo 2^64, with b = sext(imm9, 64) (07_lane_arith.md R178). -/
def execSaddImm (n : Stall) (d a : BitVec 6) (i : BitVec 9) (s : State) : Answer :=
  sOp1 n 4 1 1 d a (fun a => (fun a b => a + b) a (imm9 i)) s

/-- s[d] := a − b modulo 2^64 (07_lane_arith.md R178). -/
def execSsub (n : Stall) (d a b : BitVec 6) (s : State) : Answer :=
  sOp2 n 1 1 d a b (fun a b => a - b) s

/-- s[d] := low 64 bits of a × b (07_lane_arith.md R178). -/
def execSmul (n : Stall) (d a b : BitVec 6) (s : State) : Answer :=
  sOp2 n 3 1 d a b (fun a b => a * b) s

/-- s[d] := low 64 bits of a × b, with b = sext(imm9, 64) (07_lane_arith.md R178). -/
def execSmulImm (n : Stall) (d a : BitVec 6) (i : BitVec 9) (s : State) : Answer :=
  sOp1 n 4 3 1 d a (fun a => (fun a b => a * b) a (imm9 i)) s

/-- s[d] := a AND b (07_lane_arith.md R178). -/
def execSand (n : Stall) (d a b : BitVec 6) (s : State) : Answer :=
  sOp2 n 1 2 d a b (fun a b => a &&& b) s

/-- s[d] := a AND b, with b = sext(imm9, 64) (07_lane_arith.md R178). -/
def execSandImm (n : Stall) (d a : BitVec 6) (i : BitVec 9) (s : State) : Answer :=
  sOp1 n 4 1 2 d a (fun a => (fun a b => a &&& b) a (imm9 i)) s

/-- s[d] := a OR b (07_lane_arith.md R178). -/
def execSor (n : Stall) (d a b : BitVec 6) (s : State) : Answer :=
  sOp2 n 1 2 d a b (fun a b => a ||| b) s

/-- s[d] := a OR b, with b = sext(imm9, 64) (07_lane_arith.md R178). -/
def execSorImm (n : Stall) (d a : BitVec 6) (i : BitVec 9) (s : State) : Answer :=
  sOp1 n 4 1 2 d a (fun a => (fun a b => a ||| b) a (imm9 i)) s

/-- s[d] := a XOR b (07_lane_arith.md R178). -/
def execSxor (n : Stall) (d a b : BitVec 6) (s : State) : Answer :=
  sOp2 n 1 2 d a b (fun a b => a ^^^ b) s

/-- s[d] := a XOR b, with b = sext(imm9, 64) (07_lane_arith.md R178). -/
def execSxorImm (n : Stall) (d a : BitVec 6) (i : BitVec 9) (s : State) : Answer :=
  sOp1 n 4 1 2 d a (fun a => (fun a b => a ^^^ b) a (imm9 i)) s

/-- s[d] := signed minimum (07_lane_arith.md R178). -/
def execSmin (n : Stall) (d a b : BitVec 6) (s : State) : Answer :=
  sOp2 n 1 1 d a b (sMin64) s

/-- s[d] := signed minimum, with b = sext(imm9, 64) (07_lane_arith.md R178). -/
def execSminImm (n : Stall) (d a : BitVec 6) (i : BitVec 9) (s : State) : Answer :=
  sOp1 n 4 1 1 d a (fun a => (sMin64) a (imm9 i)) s

/-- s[d] := signed maximum (07_lane_arith.md R178). -/
def execSmax (n : Stall) (d a b : BitVec 6) (s : State) : Answer :=
  sOp2 n 1 1 d a b (sMax64) s

/-- s[d] := signed maximum, with b = sext(imm9, 64) (07_lane_arith.md R178). -/
def execSmaxImm (n : Stall) (d a : BitVec 6) (i : BitVec 9) (s : State) : Answer :=
  sOp1 n 4 1 1 d a (fun a => (sMax64) a (imm9 i)) s

/-- s[d] := a shifted left by b[5:0] (07_lane_arith.md R178). -/
def execSshl (n : Stall) (d a b : BitVec 6) (s : State) : Answer :=
  sOp2 n 1 2 d a b (shl64) s

/-- s[d] := a shifted left by b[5:0], by an immediate amount (07_lane_arith.md R178). -/
def execSshlImm (n : Stall) (d a : BitVec 6) (p : BitVec 6) (s : State) : Answer :=
  sOp1 n 4 1 2 d a (fun a => shl64 a (p.setWidth 64)) s

/-- s[d] := a shifted right by b[5:0], zero fill (07_lane_arith.md R178). -/
def execSshr (n : Stall) (d a b : BitVec 6) (s : State) : Answer :=
  sOp2 n 1 2 d a b (shr64) s

/-- s[d] := a shifted right by b[5:0], zero fill, by an immediate amount (07_lane_arith.md R178). -/
def execSshrImm (n : Stall) (d a : BitVec 6) (p : BitVec 6) (s : State) : Answer :=
  sOp1 n 4 1 2 d a (fun a => shr64 a (p.setWidth 64)) s

/-- s[d] := a shifted right by b[5:0], filled with a[63] (07_lane_arith.md R178). -/
def execSsar (n : Stall) (d a b : BitVec 6) (s : State) : Answer :=
  sOp2 n 1 2 d a b (sar64) s

/-- s[d] := a shifted right by b[5:0], filled with a[63], by an immediate amount (07_lane_arith.md R178). -/
def execSsarImm (n : Stall) (d a : BitVec 6) (p : BitVec 6) (s : State) : Answer :=
  sOp1 n 4 1 2 d a (fun a => sar64 a (p.setWidth 64)) s

/-- s[d] := unsigned minimum (07_lane_arith.md R178). -/
def execSminU (n : Stall) (d a b : BitVec 6) (s : State) : Answer :=
  sOp2 n 1 1 d a b (uMin64) s

/-- s[d] := unsigned maximum (07_lane_arith.md R178). -/
def execSmaxU (n : Stall) (d a b : BitVec 6) (s : State) : Answer :=
  sOp2 n 1 1 d a b (uMax64) s

/-- s[d] := a (07_lane_arith.md R178). -/
def execSmov (n : Stall) (d a : BitVec 6) (s : State) : Answer :=
  sOp1 n 4 1 2 d a (fun a => a) s

/-- The relation of scmp (07_lane_arith.md R178). -/
def sCompare (c : SCond) (a b : Word64) : Bool :=
  match c with
  | .eq => decide (a = b)
  | .ne => !decide (a = b)
  | .lt => a.slt b
  | .le => !b.slt a
  | .ltu => a.ult b
  | .leu => !b.ult a

/-- s[d] := 1 if a cond b, else 0 (07_lane_arith.md R178). -/
def execScmp (n : Stall) (d a b : BitVec 6) (c : SCond) (s : State) : Answer :=
  sOp2 n 1 1 d a b (fun a b => if sCompare c a b then 1 else 0) s

/-- s[d] := a where s[C] is not 0, else b (07_lane_arith.md R179). -/
def execSsel (n : Stall) (d a b c : BitVec 6) (s : State) : Answer :=
  strandOp (0x08, 2) [a.toNat, b.toNat, c.toNat]
    (fun s =>
      let w := s.cur.warp
      s.putS n.toNat 8 1 d.toNat (if s.sval w 2 c.toNat = 0 then s.sval w 1 b.toNat else s.sval w 0 a.toNat)) s

/-- s[d] := sext(imm9, 64) (07_lane_arith.md R180). -/
def execSmovi (n : Stall) (d : BitVec 6) (i : BitVec 9) (s : State) : Answer :=
  strandOp (0, 0) [] (fun s => s.putS n.toNat 4 1 d.toNat (imm9 i)) s

/-- s[d] := sext(extension, 64) (07_lane_arith.md R180). -/
def execSmovi32 (n : Stall) (d : BitVec 6) (v : BitVec 32) (s : State) : Answer :=
  strandOp (0, 0) [] (fun s => s.putS n.toNat 8 1 d.toNat (v.signExtend 64)) s

/-- s[d] := the two extension words, low half first (07_lane_arith.md R180). -/
def execSmovi64 (n : Stall) (d : BitVec 6) (lo hi : BitVec 32) (s : State) : Answer :=
  strandOp (0, 0) [] (fun s => s.putS n.toNat 12 1 d.toNat (hi ++ lo)) s

end Sys2Proof.Machine
end

