-- ==== Sys2Proof/Machine/WarpData.lean ====
section
/-! DEFINITION. Warp data instructions: shfl, vote and wred (07_lane_arith.md R168 to R171, 05_formats.md R121). -/

namespace Sys2Proof.Machine

/-- The lanes of an instruction whose lanes must all be there: the turned-away arrivals with their traps, the lanes that
take part, and whether the round is complete (07_lane_arith.md R168). -/
structure Round where
  turned : List (Nat × Nat)
  inst : List Nat
  complete : Bool
  deriving DecidableEq, Repr

/-- The address at which the issuer's lanes stand. -/
def State.groupPc (s : State) : Addr :=
  match s.execLanes with
  | i :: _ => ((s.warp s.cur.warp).lane i).pc
  | [] => 0

/-- A lane's own bit of the mask of a round, as it reads it (03_encoding.md R75; log entry 49). -/
def State.inRound (s : State) (mk i : Nat) : Bool := (s.view i).maskBit 2 mk

/-- Arrival of the issuer's lanes at a round on a mask (07_lane_arith.md R168 steps 1 and 2). -/
def State.arrive (s : State) (u : Nat × Nat) (mk : Nat) (reads : View → List LRes) : Round :=
  let w := s.warp s.cur.warp
  let m := w.maskSeen s.cur.second mk
  let verdict (i : Nat) : Option Nat :=
    match { s with glitch := none }.laneCheck u reads i with
    | some c => some c
    | none => if s.inRound mk i then none else some 0x06
  let turned := s.execLanes.filterMap (fun i => (verdict i).map (fun c => (i, c)))
  let came := s.execLanes.filter (fun i => (verdict i).isNone) ++ w.waiters mk s.groupPc
  { turned := turned
    inst := laneList.filter (fun i => came.contains i)
    complete := (lanesOf (m &&& w.live)).all (fun i => came.contains i) }

/-- shfl, vote and wred: the issuer's lanes arrive; once every present lane of the mask waits at this address, f gives
each lane its result from the lanes that take part (07_lane_arith.md R168). A mismatch is met by the instance when it executes. A lane within the gap of the mask's producer reads
its own bit as it was before or as it is, by a free choice (DESIGN CHOICE, log entry 49). -/
def roundOp (n : Stall) (lat : Nat) (u : Nat × Nat) (mk : Nat) (reads : View → List LRes)
    (f : List Nat → Nat → LaneRes) (s : State) : Answer :=
  let w := s.cur.warp
  let r := s.arrive u mk reads
  let turned := r.turned.map (fun p => (p.1, LaneRes.trapped p.2))
  let inside := r.inst.filter (fun i => s.inRound mk i)
  let outside := (r.inst.filter (fun i => !s.inRound mk i)).map (fun i => (i, LaneRes.trapped 0x06))
  if r.complete then
    .next (s.finishLanes w 4 lat n.toNat u
      (inside.map (fun i => (i, if s.glitch.isSome then LaneRes.trapped 0x10 else f inside i)) ++ outside ++ turned))
  else
    .next { ((s.updWarp w (fun v => v.updLanes r.inst (fun _ l => { l with wait := .round mk }))).finishLanes w 4 lat
      n.toNat u turned).stir w with glitch := s.glitch }

/-- The lane that shfl reads, if it takes part (07_lane_arith.md R169). -/
def shflFrom (m : ShflMode) (i : Nat) (b : Word) : Option Nat :=
  match m with
  | .idx => some b.toNat
  | .up => if b.toNat ≤ i then some (i - b.toNat) else none
  | .down => some (i + b.toNat)
  | .xor => some (i ^^^ b.toNat)

/-- Each lane takes another lane's a (07_lane_arith.md R169). -/
def execShfl (n : Stall) (d : Dst) (a b : Src) (m : ShflMode) (k : BitVec 4) (s : State) : Answer :=
  roundOp n 2 (7, 2) k.toNat (fun _ => .mk k.toNat :: srcRes a ++ srcRes b)
    (fun inst i =>
      let from_ := match shflFrom m i ((s.view i).src 1 b) with
        | some j => if inst.contains j then j else i
        | none => i
      .val d ((s.view from_).src 0 a)) s

/-- The result of vote over the values of the lanes that take part (07_lane_arith.md R170). -/
def voteOf (m : VoteKind) (vs : List (Nat × Word)) : Word :=
  let bool (b : Bool) : Word := if b then 1 else 0
  match m with
  | .all => bool (vs.all (fun p => !decide (p.2 = 0)))
  | .any => bool (vs.any (fun p => !decide (p.2 = 0)))
  | .uni => bool (match vs with
      | [] => true
      | p :: r => r.all (fun q => decide (q.2 = p.2)))
  | .ballot => vs.foldl (fun v p => setBit v p.1 (!decide (p.2 = 0))) 0

/-- A vote over the lanes of a mask (07_lane_arith.md R170). -/
def execVote (n : Stall) (d : Dst) (a : Src) (m : VoteKind) (k : BitVec 4) (s : State) : Answer :=
  roundOp n 2 (7, 2) k.toNat (fun _ => .mk k.toNat :: srcRes a)
    (fun inst _ => .val d (voteOf m (inst.map (fun j => (j, (s.view j).src 0 a))))) s

/-- One level of the tree: neighbours combine, an absent node is skipped (05_formats.md R121). -/
def treeLevel (op : Word → Word → Flagged Word) : List (Option (Flagged Word)) → List (Option (Flagged Word))
  | some l :: some r :: rest =>
    (let v := op l.val r.val
     some { val := v.val, flags := l.flags ||| r.flags ||| v.flags }) :: treeLevel op rest
  | none :: r :: rest => r :: treeLevel op rest
  | l :: none :: rest => l :: treeLevel op rest
  | l => l

/-- The fixed pairwise tree over lanes 0 to 31 (05_formats.md R121). -/
def treeReduce (op : Word → Word → Flagged Word) (vals : List (Nat × Word)) : Flagged Word :=
  let leaf := laneList.map (fun i =>
    (vals.find? (fun p => decide (p.1 = i))).map (fun p => ({ val := p.2, flags := 0 } : Flagged Word)))
  match treeLevel op (treeLevel op (treeLevel op (treeLevel op (treeLevel op leaf)))) with
  | some r :: _ => r
  | _ => { val := 0, flags := 0 }

/-- A combining step of wred (05_formats.md R121, 03_encoding.md R80). -/
def wredStep (p : WredOp) (flush : Bool) (a b : Word) : Flagged Word :=
  match p with
  | .add => ⟨a + b, 0⟩
  | .fadd => fAdd flush a b
  | .mins => ⟨sMin32 a b, 0⟩
  | .maxs => ⟨sMax32 a b, 0⟩
  | .minu => ⟨uMin32 a b, 0⟩
  | .maxu => ⟨uMax32 a b, 0⟩
  | .and => ⟨a &&& b, 0⟩
  | .or => ⟨a ||| b, 0⟩
  | .xor => ⟨a ^^^ b, 0⟩
  | .fmin => fMinMax false flush a b
  | .fmax => fMinMax true flush a b

/-- KIND of the checker that covers a wred operation (16_recovery.md R442). -/
def wredKind : WredOp → Nat
  | .and | .or | .xor => 2
  | _ => 1

/-- A reduction over the lanes of a mask (07_lane_arith.md R171). -/
def execWred (n : Stall) (d : Dst) (a : Src) (p : WredOp) (k : BitVec 4) (s : State) : Answer :=
  roundOp n 6 (7, wredKind p) k.toNat (fun _ => .mk k.toNat :: srcRes a)
    (fun inst _ => .flagged d (treeReduce (wredStep p (bitAt (s.warp s.cur.warp).trec.flags 0))
      (inst.map (fun j => (j, (s.view j).src 0 a))))) s

end Sys2Proof.Machine
end

