-- ==== Sys2Proof/Machine/Dispatch.lean ====
section
/-! DEFINITION. The meaning of every instruction and event: one arm for each constructor of Instr. -/

namespace Sys2Proof.Machine

def exec (i : Instr) (s : State) : Host.Outcome State Fault Refusal :=
  match i with
  | .add n d a b => Sys2Proof.Machine.execAdd n d a b s
  | .sub n d a b => Sys2Proof.Machine.execSub n d a b s
  | .mul n d a b => Sys2Proof.Machine.execMul n d a b s
  | .mulh n d a b => Sys2Proof.Machine.execMulh n d a b s
  | .mulhU n d a b => Sys2Proof.Machine.execMulhU n d a b s
  | .and n d a b => Sys2Proof.Machine.execAnd n d a b s
  | .or n d a b => Sys2Proof.Machine.execOr n d a b s
  | .xor n d a b => Sys2Proof.Machine.execXor n d a b s
  | .andn n d a b => Sys2Proof.Machine.execAndn n d a b s
  | .shl n d a b => Sys2Proof.Machine.execShl n d a b s
  | .shr n d a b => Sys2Proof.Machine.execShr n d a b s
  | .sar n d a b => Sys2Proof.Machine.execSar n d a b s
  | .rotl n d a b => Sys2Proof.Machine.execRotl n d a b s
  | .min n d a b => Sys2Proof.Machine.execMin n d a b s
  | .max n d a b => Sys2Proof.Machine.execMax n d a b s
  | .minU n d a b => Sys2Proof.Machine.execMinU n d a b s
  | .maxU n d a b => Sys2Proof.Machine.execMaxU n d a b s
  | .neg n d a => Sys2Proof.Machine.execNeg n d a s
  | .abs n d a => Sys2Proof.Machine.execAbs n d a s
  | .not n d a => Sys2Proof.Machine.execNot n d a s
  | .clz n d a => Sys2Proof.Machine.execClz n d a s
  | .popc n d a => Sys2Proof.Machine.execPopc n d a s
  | .brev n d a => Sys2Proof.Machine.execBrev n d a s
  | .mov n d a => Sys2Proof.Machine.execMov n d a s
  | .mad n d a b c => Sys2Proof.Machine.execMad n d a b c s
  | .addw n d a b => Sys2Proof.Machine.execAddw n d a b s
  | .lea n d a b h => Sys2Proof.Machine.execLea n d a b h s
  | .bfx n d a l p => Sys2Proof.Machine.execBfx n d a l p s
  | .bfxSigned n d a l p => Sys2Proof.Machine.execBfxSigned n d a l p s
  | .bfi n d a l p => Sys2Proof.Machine.execBfi n d a l p s
  | .sel n d a b k => Sys2Proof.Machine.execSel n d a b k s
  | .cmp n k a b c => Sys2Proof.Machine.execCmp n k a b c s
  | .movi n d im => Sys2Proof.Machine.execMovi n d im s
  | .moviWide n d v => Sys2Proof.Machine.execMoviWide n d v s
  | .addImm n d a im => Sys2Proof.Machine.execAddImm n d a im s
  | .mulImm n d a im => Sys2Proof.Machine.execMulImm n d a im s
  | .andImm n d a im => Sys2Proof.Machine.execAndImm n d a im s
  | .orImm n d a im => Sys2Proof.Machine.execOrImm n d a im s
  | .xorImm n d a im => Sys2Proof.Machine.execXorImm n d a im s
  | .shlImm n d a p => Sys2Proof.Machine.execShlImm n d a p s
  | .shrImm n d a p => Sys2Proof.Machine.execShrImm n d a p s
  | .sarImm n d a p => Sys2Proof.Machine.execSarImm n d a p s
  | .rotlImm n d a p => Sys2Proof.Machine.execRotlImm n d a p s
  | .minImm n d a im => Sys2Proof.Machine.execMinImm n d a im s
  | .maxImm n d a im => Sys2Proof.Machine.execMaxImm n d a im s
  | .hadd2 n d a b => Sys2Proof.Machine.execHadd2 n d a b s
  | .hsub2 n d a b => Sys2Proof.Machine.execHsub2 n d a b s
  | .hmin2 n d a b => Sys2Proof.Machine.execHmin2 n d a b s
  | .hmax2 n d a b => Sys2Proof.Machine.execHmax2 n d a b s
  | .hadd2Sat n d a b => Sys2Proof.Machine.execHadd2Sat n d a b s
  | .hsub2Sat n d a b => Sys2Proof.Machine.execHsub2Sat n d a b s
  | .hmin2U n d a b => Sys2Proof.Machine.execHmin2U n d a b s
  | .hmax2U n d a b => Sys2Proof.Machine.execHmax2U n d a b s
  | .acs2 n d a b k => Sys2Proof.Machine.execAcs2 n d a b k s
  | .fadd n d a b => Sys2Proof.Machine.execFadd n d a b s
  | .fsub n d a b => Sys2Proof.Machine.execFsub n d a b s
  | .fmul n d a b => Sys2Proof.Machine.execFmul n d a b s
  | .fmin n d a b => Sys2Proof.Machine.execFmin n d a b s
  | .fmax n d a b => Sys2Proof.Machine.execFmax n d a b s
  | .ffma n d a b c => Sys2Proof.Machine.execFfma n d a b c s
  | .fcmp n k a b c => Sys2Proof.Machine.execFcmp n k a b c s
  | .fsfu n d a f => Sys2Proof.Machine.execFsfu n d a f s
  | .fcvt n d a v r t u => Sys2Proof.Machine.execFcvt n d a v r t u s
  | .fq4 n d a b t => Sys2Proof.Machine.execFq4 n d a b t s
  | .fdq4 n d a b t => Sys2Proof.Machine.execFdq4 n d a b t s
  | .shfl n d a b m k => Sys2Proof.Machine.execShfl n d a b m k s
  | .vote n d a m k => Sys2Proof.Machine.execVote n d a m k s
  | .wred n d a p k => Sys2Proof.Machine.execWred n d a p k s
  | .rgn n k c j3 j2 j1 j0 => Sys2Proof.Machine.execRgn n k c j3 j2 j1 j0 s
  | .wbk n k c j3 j2 j1 j0 => Sys2Proof.Machine.execWbk n k c j3 j2 j1 j0 s
  | .mvmFromMain n d m => Sys2Proof.Machine.execMvmFromMain n d m s
  | .mvmToMain n d m => Sys2Proof.Machine.execMvmToMain n d m s
  | .xbnd n h l => Sys2Proof.Machine.execXbnd n h l s
  | .xset n x a im => Sys2Proof.Machine.execXset n x a im s
  | .ldx n d x im => Sys2Proof.Machine.execLdx n d x im s
  | .stx n d x im => Sys2Proof.Machine.execStx n d x im s
  | .ld n d a w x => Sys2Proof.Machine.execLd n d a w x s
  | .st n d a w x => Sys2Proof.Machine.execSt n d a w x s
  | .atom n d a b p x => Sys2Proof.Machine.execAtom n d a b p x s
  | .red n a b p x => Sys2Proof.Machine.execRed n a b p x s
  | .prf n a q x => Sys2Proof.Machine.execPrf n a q x s
  | .fence n e o => Sys2Proof.Machine.execFence n e o s
  | .lds n d a b w => Sys2Proof.Machine.execLds n d a b w s
  | .sts n d a b w => Sys2Proof.Machine.execSts n d a b w s
  | .lda n d a b => Sys2Proof.Machine.execLda n d a b s
  | .sta n d a b => Sys2Proof.Machine.execSta n d a b s
  | .ldt n d a t => Sys2Proof.Machine.execLdt n d a t s
  | .twait n t => Sys2Proof.Machine.execTwait n t s
  | .ldp n d a w im => Sys2Proof.Machine.execLdp n d a w im s
  | .bra n o => Sys2Proof.Machine.execBra n o s
  | .brc n e k o => Sys2Proof.Machine.execBrc n e k o s
  | .call n o => Sys2Proof.Machine.execCall n o s
  | .brx n a => Sys2Proof.Machine.execBrx n a s
  | .nop n => Sys2Proof.Machine.execNop n s
  | .exit n => Sys2Proof.Machine.execExit n s
  | .ret n => Sys2Proof.Machine.execRet n s
  | .vac n => Sys2Proof.Machine.execVac n s
  | .yld n => Sys2Proof.Machine.execYld n s
  | .mand n d a b => Sys2Proof.Machine.execMand n d a b s
  | .mor n d a b => Sys2Proof.Machine.execMor n d a b s
  | .mnot n d a => Sys2Proof.Machine.execMnot n d a s
  | .mset n d a => Sys2Proof.Machine.execMset n d a s
  | .mpop n d k => Sys2Proof.Machine.execMpop n d k s
  | .mfirst n d k => Sys2Proof.Machine.execMfirst n d k s
  | .mjoin n k => Sys2Proof.Machine.execMjoin n k s
  | .mleave n k => Sys2Proof.Machine.execMleave n k s
  | .mwait n k => Sys2Proof.Machine.execMwait n k s
  | .refill n d => Sys2Proof.Machine.execRefill n d s
  | .spawnl n a b r => Sys2Proof.Machine.execSpawnl n a b r s
  | .gbar n g => Sys2Proof.Machine.execGbar n g s
  | .lbar n => Sys2Proof.Machine.execLbar n s
  | .trap n g => Sys2Proof.Machine.execTrap n g s
  | .tret n => Sys2Proof.Machine.execTret n s
  | .esc n g => Sys2Proof.Machine.execEsc n g s
  | .brk n g => Sys2Proof.Machine.execBrk n g s
  | .rdsr n d r => Sys2Proof.Machine.execRdsr n d r s
  | .wrsr n d r => Sys2Proof.Machine.execWrsr n d r s
  | .sadd n d a b => Sys2Proof.Machine.execSadd n d a b s
  | .ssub n d a b => Sys2Proof.Machine.execSsub n d a b s
  | .smul n d a b => Sys2Proof.Machine.execSmul n d a b s
  | .sand n d a b => Sys2Proof.Machine.execSand n d a b s
  | .sor n d a b => Sys2Proof.Machine.execSor n d a b s
  | .sxor n d a b => Sys2Proof.Machine.execSxor n d a b s
  | .smin n d a b => Sys2Proof.Machine.execSmin n d a b s
  | .smax n d a b => Sys2Proof.Machine.execSmax n d a b s
  | .sshl n d a b => Sys2Proof.Machine.execSshl n d a b s
  | .sshr n d a b => Sys2Proof.Machine.execSshr n d a b s
  | .ssar n d a b => Sys2Proof.Machine.execSsar n d a b s
  | .smov n d a => Sys2Proof.Machine.execSmov n d a s
  | .sminU n d a b => Sys2Proof.Machine.execSminU n d a b s
  | .smaxU n d a b => Sys2Proof.Machine.execSmaxU n d a b s
  | .scmp n d a b c => Sys2Proof.Machine.execScmp n d a b c s
  | .ssel n d a b c => Sys2Proof.Machine.execSsel n d a b c s
  | .saddImm n d a im => Sys2Proof.Machine.execSaddImm n d a im s
  | .smulImm n d a im => Sys2Proof.Machine.execSmulImm n d a im s
  | .sandImm n d a im => Sys2Proof.Machine.execSandImm n d a im s
  | .sorImm n d a im => Sys2Proof.Machine.execSorImm n d a im s
  | .sxorImm n d a im => Sys2Proof.Machine.execSxorImm n d a im s
  | .sshlImm n d a p => Sys2Proof.Machine.execSshlImm n d a p s
  | .sshrImm n d a p => Sys2Proof.Machine.execSshrImm n d a p s
  | .ssarImm n d a p => Sys2Proof.Machine.execSsarImm n d a p s
  | .sminImm n d a im => Sys2Proof.Machine.execSminImm n d a im s
  | .smaxImm n d a im => Sys2Proof.Machine.execSmaxImm n d a im s
  | .smovi n d im => Sys2Proof.Machine.execSmovi n d im s
  | .smovi32 n d v => Sys2Proof.Machine.execSmovi32 n d v s
  | .smovi64 n d lo hi => Sys2Proof.Machine.execSmovi64 n d lo hi s
  | .bond n d k c r => Sys2Proof.Machine.execBond n d k c r s
  | .bondStrait n d k => Sys2Proof.Machine.execBondStrait n d k s
  | .unbond n k => Sys2Proof.Machine.execUnbond n k s
  | .mma n a => Sys2Proof.Machine.execMma n a s
  | .talloc n t a => Sys2Proof.Machine.execTalloc n t a s
  | .tfree n t => Sys2Proof.Machine.execTfree n t s
  | .tcopy n q a => Sys2Proof.Machine.execTcopy n q a s
  | .tquant n q a => Sys2Proof.Machine.execTquant n q a s
  | .aalloc n d a k => Sys2Proof.Machine.execAalloc n d a k s
  | .afree n k => Sys2Proof.Machine.execAfree n k s
  | .sld n d a im => Sys2Proof.Machine.execSld n d a im s
  | .sst n d a im => Sys2Proof.Machine.execSst n d a im s
  | .ldpUniform n d a w im => Sys2Proof.Machine.execLdpUniform n d a w im s
  | .gred n d a k p => Sys2Proof.Machine.execGred n d a k p s
  | .qfence n q => Sys2Proof.Machine.execQfence n q s
  | .qwait n q => Sys2Proof.Machine.execQwait n q s
  | .ttag n a => Sys2Proof.Machine.execTtag n a s
  | .tdisc n a => Sys2Proof.Machine.execTdisc n a s
  | .gath n a => Sys2Proof.Machine.execGath n a s
  | .scat n a => Sys2Proof.Machine.execScat n a s
  | .prom n a p => Sys2Proof.Machine.execProm n a p s
  | .dem n a => Sys2Proof.Machine.execDem n a s
  | .ubra n o => Sys2Proof.Machine.execUbra n o s
  | .ubrc n c e o => Sys2Proof.Machine.execUbrc n c e o s
  | .ucall n o => Sys2Proof.Machine.execUcall n o s
  | .uret n => Sys2Proof.Machine.execUret n s
  | .spawn n a b => Sys2Proof.Machine.execSpawn n a b s
  | .cont n a => Sys2Proof.Machine.execCont n a s
  | .phase n m => Sys2Proof.Machine.execPhase n m s
  | .perf n l => Sys2Proof.Machine.execPerf n l s
  | .carve n k => Sys2Proof.Machine.execCarve n k s
  | .rdsrUniform n d r => Sys2Proof.Machine.execRdsrUniform n d r s
  | .wrsrUniform n d r => Sys2Proof.Machine.execWrsrUniform n d r s
  | .queueDoorbell fn die q tail => Sys2Proof.Machine.execQueueDoorbell fn die q tail s
  | .snapshotCopy lid page => Sys2Proof.Machine.execSnapshotCopy lid page s
  | .boundGroupPlacement lid grp => Sys2Proof.Machine.execBoundGroupPlacement lid grp s
  | .fillLanding k => Sys2Proof.Machine.execFillLanding k s
  | .mmaOp rows => Sys2Proof.Machine.execMmaOp rows s
  | .syncOverflowMove die granule => Sys2Proof.Machine.execSyncOverflowMove die granule s
  | .channelArrival stack chan cyc => Sys2Proof.Machine.execChannelArrival stack chan cyc s
  | .channelService stack chan cyc => Sys2Proof.Machine.execChannelService stack chan cyc s
  | .agePromotion stack chan cyc => Sys2Proof.Machine.execAgePromotion stack chan cyc s
  | .l2Writeback die line => Sys2Proof.Machine.execL2Writeback die line s
  | .remoteWriteApply die idx => Sys2Proof.Machine.execRemoteWriteApply die idx s
  | .tlbMiss die space va => Sys2Proof.Machine.execTlbMiss die space va s
  | .frespRetry part token => Sys2Proof.Machine.execFrespRetry part token s
  | .frespFail part token => Sys2Proof.Machine.execFrespFail part token s
  | .drainConfirmed lid => Sys2Proof.Machine.execDrainConfirmed lid s
  | .cmapWrite die clu v => Sys2Proof.Machine.execCmapWrite die clu v s
  | .cpartWrite die clu v => Sys2Proof.Machine.execCpartWrite die clu v s
  | .sync v => Sys2Proof.Machine.execSync v s
  | .qbindWrite die q v => Sys2Proof.Machine.execQbindWrite die q v s
  | .invAll die v => Sys2Proof.Machine.execInvAll die v s
  | .invSpace die v => Sys2Proof.Machine.execInvSpace die v s
  | .invPages die v => Sys2Proof.Machine.execInvPages die v s
  | .regselWrite clu v => Sys2Proof.Machine.execRegselWrite clu v s
  | .domainLoop sense => Sys2Proof.Machine.execDomainLoop sense s
  | .gateDie v => Sys2Proof.Machine.execGateDie v s
  | .wakeDie v => Sys2Proof.Machine.execWakeDie v s
  | .preemptLaunch v => Sys2Proof.Machine.execPreemptLaunch v s
  | .preemptPartition v => Sys2Proof.Machine.execPreemptPartition v s
  | .restore v => Sys2Proof.Machine.execRestore v s
  | .killLaunch v => Sys2Proof.Machine.execKillLaunch v s
  | .killPartition v => Sys2Proof.Machine.execKillPartition v s
  | .leaserev die v => Sys2Proof.Machine.execLeaserev die v s
  | .unfreezeKill v => Sys2Proof.Machine.execUnfreezeKill v s
  | .unfreezeReset v => Sys2Proof.Machine.execUnfreezeReset v s
  | .cellmaskWrite die clu core v => Sys2Proof.Machine.execCellmaskWrite die clu core v s
  | .fscfgWrite stack bank v => Sys2Proof.Machine.execFscfgWrite stack bank v s
  | .synovfWrite die v => Sys2Proof.Machine.execSynovfWrite die v s
  | .tqovfWrite die clu word v => Sys2Proof.Machine.execTqovfWrite die clu word v s
  | .faultqConfigWrite part off v => Sys2Proof.Machine.execFaultqConfigWrite part off v s
  | .expwWrite part word v => Sys2Proof.Machine.execExpwWrite part word v s
  | .registerWrite addr size v => Sys2Proof.Machine.execRegisterWrite addr size v s
  | .hostAccess req => Sys2Proof.Machine.execHostAccess req s
  | .fabricPeerAccess req => Sys2Proof.Machine.execFabricPeerAccess req s
  | .attestReq fn v => Sys2Proof.Machine.execAttestReq fn v s
  | .reportDone fn => Sys2Proof.Machine.execReportDone fn s
  | .rstctl v => Sys2Proof.Machine.execRstctl v s
  | .errorConsumed lid addr => Sys2Proof.Machine.execErrorConsumed lid addr s
  | .rollback lid => Sys2Proof.Machine.execRollback lid s
  | .replayReadmission lid => Sys2Proof.Machine.execReplayReadmission lid s
  | .bringupStageDone ok code => Sys2Proof.Machine.execBringupStageDone ok code s
  | .unassignedOpcode w => Sys2Proof.Machine.execUnassignedOpcode w s
  | .faultQueueHeadWrite part v => Sys2Proof.Machine.execFaultQueueHeadWrite part v s
  | .shortSaveResume v => Sys2Proof.Machine.execShortSaveResume v s
  | .launchAdmission => Sys2Proof.Machine.execLaunchAdmission s
  | .taskPop => Sys2Proof.Machine.execTaskPop s
  | .castlingThreshold => Sys2Proof.Machine.execCastlingThreshold s
  | .castling => Sys2Proof.Machine.execCastling s
  | .boardEntry => Sys2Proof.Machine.execBoardEntry s
  | .fairnessForce => Sys2Proof.Machine.execFairnessForce s
  | .yieldWindowEnd => Sys2Proof.Machine.execYieldWindowEnd s
  | .implicitRefill => Sys2Proof.Machine.execImplicitRefill s
  | .taskEnd => Sys2Proof.Machine.execTaskEnd s
  | .stealRequest => Sys2Proof.Machine.execStealRequest s
  | .stealAnswer => Sys2Proof.Machine.execStealAnswer s
  | .stealBackoff => Sys2Proof.Machine.execStealBackoff s
  | .carveChange => Sys2Proof.Machine.execCarveChange s
  | .aallocServed => Sys2Proof.Machine.execAallocServed s
  | .leaseJoin => Sys2Proof.Machine.execLeaseJoin s
  | .leaseRelease => Sys2Proof.Machine.execLeaseRelease s
  | .tcopyLoad => Sys2Proof.Machine.execTcopyLoad s
  | .tcopyStore => Sys2Proof.Machine.execTcopyStore s
  | .tcopyMove => Sys2Proof.Machine.execTcopyMove s
  | .tquantOp => Sys2Proof.Machine.execTquantOp s
  | .gatherOp => Sys2Proof.Machine.execGatherOp s
  | .scatterOp => Sys2Proof.Machine.execScatterOp s
  | .pipeTrap => Sys2Proof.Machine.execPipeTrap s
  | .engineCompletion => Sys2Proof.Machine.execEngineCompletion s
  | .redOp => Sys2Proof.Machine.execRedOp s
  | .syncEngineAtomic => Sys2Proof.Machine.execSyncEngineAtomic s
  | .promotion => Sys2Proof.Machine.execPromotion s
  | .demotion => Sys2Proof.Machine.execDemotion s
  | .ferryVisit => Sys2Proof.Machine.execFerryVisit s
  | .returnVisit => Sys2Proof.Machine.execReturnVisit s
  | .meteringInterval => Sys2Proof.Machine.execMeteringInterval s
  | .arbiterRequest => Sys2Proof.Machine.execArbiterRequest s
  | .walk => Sys2Proof.Machine.execWalk s
  | .invDone => Sys2Proof.Machine.execInvDone s
  | .regulatorSwitchDone => Sys2Proof.Machine.execRegulatorSwitchDone s
  | .pointChangeDone => Sys2Proof.Machine.execPointChangeDone s
  | .regulatorOvercurrent => Sys2Proof.Machine.execRegulatorOvercurrent s
  | .gatingDone => Sys2Proof.Machine.execGatingDone s
  | .preemptHalt => Sys2Proof.Machine.execPreemptHalt s
  | .contextSave => Sys2Proof.Machine.execContextSave s
  | .restorePlacement => Sys2Proof.Machine.execRestorePlacement s
  | .leaseRevokedFree => Sys2Proof.Machine.execLeaseRevokedFree s
  | .recoveryWriteChunk => Sys2Proof.Machine.execRecoveryWriteChunk s
  | .recoveryFinishImage => Sys2Proof.Machine.execRecoveryFinishImage s
  | .firmwareSwitch => Sys2Proof.Machine.execFirmwareSwitch s
  | .powerOn => Sys2Proof.Machine.execPowerOn s
  | .vinLow => Sys2Proof.Machine.execVinLow s
  | .supplyReset => Sys2Proof.Machine.execSupplyReset s
  | .thermalTrip => Sys2Proof.Machine.execThermalTrip s
  | .hostLinkTrained => Sys2Proof.Machine.execHostLinkTrained s

end Sys2Proof.Machine
end

