-- ==== Sys2Proof/Machine/Run.lean ====
section
/-! DEFINITION. One happening: an event, or the issue of the word at a PC; and who moves where the agenda is empty
(13_scheduling.md R362 to R366). -/

namespace Sys2Proof.Machine

/-! ## Errors that cannot be corrected, outside memory (16_recovery.md R438, R439, R442) -/

/-- A place is in error. -/
def State.spoilt (s : State) (u : Upset) : Bool := s.mem.upsets.contains u

/-- The sources of the issued instruction that are in error: registers of the executing lanes, s-registers, and its tile entry. -/
def State.badSources (s : State) (i : Instr) : List Upset :=
  let w := s.cur.warp
  (s.execLanes.flatMap (fun j => (laneSources ((s.warp w).lane j) i).map (Upset.lane w j)) ++
    (strandSources i ++ laneUniform i).map (Upset.uni w) ++ ((tileNamed i).map (Upset.tile (coreOf w))).toList).filter s.spoilt

/-- The results of the issued instruction in places that were in error: written over whole, they hold none, which is logged. A lane
that traps or waits has written nothing. -/
def State.mendResults (t s : State) (i : Instr) : State :=
  let w := s.cur.warp
  let wrote (j : Nat) : Bool := decide (((t.warp w).lane j).wait = .none) && !(((t.warp w).lane j).inH && !((s.warp w).lane j).inH)
  let us := ((s.execLanes.filter wrote).flatMap (fun j => (laneResults ((s.warp w).lane j) i).map (Upset.lane w j)) ++
    (if (t.warp w).spc = (s.warp w).spc then [] else (strandResults i).map (Upset.uni w))).filter t.spoilt
  us.foldl (fun t u => (t.updMem (fun m => m.clear (fun v => decide (v = u)))).logErr
    { lid := (s.warp w).lid, kind := 5, what := 4, where_ := coreOf w }) t

/-- The lanes of a join or wait that has completed have met (11_ordering.md R293). -/
def State.meetAfter (t s : State) (i : Instr) : State :=
  let w := s.cur.warp
  let at_ (k : Nat) : List Nat :=
    let came := match i with
      | .mjoin _ m | .mwait _ m => if m.toNat = k then s.execLanes else []
      | _ => []
    laneList.filter (fun j => (came.contains j || decide (((s.warp w).lane j).wait = .join k) || decide (((s.warp w).lane j).wait = .meet k)) &&
      decide (((t.warp w).lane j).wait = .none) && decide (((t.warp w).lane j).st = .live))
  (List.range 12).foldl (fun t k => if (at_ k).length < 2 then t else t.meetLanes w (at_ k)) t

/-- The issued instruction executes, unless a source of it is in error: its launch consumes that, WHAT being the register files', or
for a tile entry the row of SECDED SRAMs (16_recovery.md R438, R439). -/
def State.execIssued (s : State) (i : Instr) : Answer :=
  match s.badSources i with
  | u :: _ =>
    let what := match u with
      | .tile _ _ => 1
      | _ => 4
    .next (s.consume (some (s.warp s.cur.warp).lid) 0 what (coreOf s.cur.warp))
  | [] =>
    match exec i s with
    | .next t => .next ((t.meetAfter s i).mendResults s i)
    | r => r

/-- The issue of the word at the PC of a group, once it is fetched (02_execution.md R35, R38, 03_encoding.md R76). -/
def State.issueWord (s : State) (who : Actor) (group : Word) : Answer :=
  let w := who.warp
  let wp := s.warp w
  let pc := wp.groupPc group
  match s.fetch (s.strandMaster w) (wp.fetchFailed group) pc wp.converged with
  | (t, .wait tok) => .next ((t.noPair w).fetchWaits w group tok)
  | (t, .failed) => .next ((t.noPair w).fetchTrap who group pc)
  | (t, .stop) => .next (t.noPair w)
  | (t, .uset) => .next ((t.beginIssue who group false).lanesTrap 0x02)
  | (t, .words x e g) =>
    match decode x e g with
    | .ok i => (t.beginIssue who group (bitAt x 31)).execIssued i
    | .error _ => .next ((t.beginIssue who group (bitAt x 31)).rejected x)

/-- What happened has ended waits in some warps. A warp of a core other than the issuing one comes to itself a free number of
its core's cycles from now: the manual has no time base between cores and agents (01_machine.md R4; log entry 5). -/
def State.rouse (t s : State) (issuing : Option Nat) : State :=
  { t with warps := mapVals (fun k v =>
      let v0 := s.warp k
      let whole := decide (v.swait = .none) && decide (v.slot = .board) &&
        !(decide (v0.swait = .none) && decide (v0.slot = .board) && decide (v0.taskId = v.taskId) && decide (v0.lid = v.lid))
      let woken (p : Nat × Lane) : Bool := p.2.ready && (whole || !(v0.lane p.1).ready)
      if issuing = some (coreOf k) ∨ !v.lanes.any woken then v
      else
        let d := Config.freeDelay (2 ^ 64 * (k + 1) + t.tick)
        { v with
          sstall := if whole then max v.sstall d else v.sstall
          lanes := mapVals (fun i l => if woken (i, l) then { l with stallLeft := max l.stallLeft d } else l) v.lanes }) t.warps }

/-- What a happening leaves to be recorded: the use of granules that writes off the strait have reached, and sectors that write-backs
have stored poisoned (11_ordering.md R298, 16_recovery.md R441). -/
def State.reckon (s : State) : State :=
  let t := s.noteTouched
  if t.mem.poisons.isEmpty then t
  else (t.mem.poisons.foldl (fun t k => t.logErr { addr := 32 * k, kind := 3, what := 0, where_ := 1024 * homeOf (32 * k) }) t).updMem
    (fun m => { m with poisons := [] })

/-- The same for an answer. -/
def rouseAnswer (s : State) (issuing : Option Nat) : Answer → Answer
  | .next t => .next (t.reckon.rouse s issuing)
  | r => r

/-- The error that keeps an event from happening: a tile entry of the engine operation, the record that is to be popped, the saved
state of a slot that enters the board, or the command processor's second mismatch; with the launch that consumes it, if one is
concerned, WHAT and WHERE (16_recovery.md R438, R439, R441, R442). -/
def State.upsetOf (s : State) (i : Instr) : Option (Upset × Option Nat × Nat × Nat) :=
  let g := s.cur.clu
  let opTiles : Option (Upset × Option Nat × Nat × Nat) :=
    match s.headOf s.actorQueue with
    | none => none
    | some o =>
      let ts := o.reads ++ (match o.fillTile with
        | some t => o.dests.map (fun d => (d.1, t))
        | none => [])
      (ts.find? (fun d => s.spoilt (.tile d.1 d.2))).map (fun d => (.tile d.1 d.2, some o.lid, 1, d.1))
  let boards (c : Nat) : Option (Upset × Option Nat × Nat × Nat) :=
    ((s.core c).castle.filter (fun k => s.spoilt (.save k.inn))).map (fun k => (.save k.inn, some (s.warp k.inn).lid, 1, c))
  let command (lid : Option Nat) : Option (Upset × Option Nat × Nat × Nat) :=
    if s.spoilt (.command s.cur.die) then some (.command s.cur.die, lid, 8, 1024 * s.cur.die) else none
  match i with
  | .tcopyLoad | .tcopyStore | .tcopyMove | .tquantOp | .gatherOp | .scatterOp | .fillLanding _ | .mmaOp _ | .engineCompletion => opTiles
  | .taskPop =>
    ((s.cluster g).queue.find? (fun q => (s.popTo g q).isSome && s.spoilt (.head g q.id q.lid))).map
      (fun q => (.head g q.id q.lid, some q.lid, 1, 16 * g))
  | .castling | .boardEntry => boards s.cur.core
  | .launchAdmission => command none
  | .drainConfirmed lid => command (some lid)
  | _ => none

/-- An event happens, unless an error keeps it from it. -/
def State.execEvent (s : State) (i : Instr) : Answer :=
  if s.mem.upsets.isEmpty then exec i s
  else
    match s.upsetOf i with
    | some (u, lid, what, place) => .next ((s.updMem (fun m => m.clear (fun v => decide (v = u)))).consume lid 0 what place)
    | none => exec i s

/-- One entry of the agenda happens, once the errors corrected before it are counted and the results under way are weighed. Before
an issue, the lane atomics that no lane waited for have been performed; an issue for which no lane is ready changes nothing
else. -/
def State.happen (s : State) (h : Happening) : Answer :=
  let t := { s.countCorrected with tick := s.tick + 1 }
  match h.what with
  | some i => rouseAnswer t none ({ t with cur := h.who }.execEvent i)
  | none =>
    let t := t.syncAll.interlock
    if t.issuers h.who = 0 then .next t
    else rouseAnswer t (some (coreOf h.who.warp)) (t.issueWord h.who (t.issuers h.who))

/-! ## Who moves where the agenda is empty -/

/-- An event by a warp, a core, a cluster or another agent. -/
def byWarp (w : Nat) (i : Instr) : Happening := { who := { warp := w }, what := some i }
def byQueue (w q : Nat) (i : Instr) : Happening := { who := { warp := w, core := coreOf w, q := q }, what := some i }
def byCore (c : Nat) (i : Instr) : Happening := { who := { core := c }, what := some i }
def byCluster (g idx : Nat) (i : Instr) : Happening := { who := { clu := g, idx := idx }, what := some i }
def byDie (d idx : Nat) (i : Instr) : Happening := { who := { die := d, idx := idx }, what := some i }

/-- Events that the engines of a warp's queues may make. -/
def State.queueEvents (s : State) (w : Nat) : List Happening :=
  (s.warp w).queues.flatMap (fun p =>
    match p.2 with
    | [] => []
    | o :: _ =>
      (match o.kind with
       | .tcopy => [Instr.tcopyLoad, .tcopyStore, .tcopyMove]
       | .tquant => [.tquantOp]
       | .gath => [.gatherOp]
       | .scat => [.scatterOp]
       | .red => [.redOp]
       | .prom _ => [.promotion]
       | .dem => [.demotion]
       | .mma => []).map (byQueue w p.1) ++
      byQueue w p.1 .engineCompletion ::
        (List.range o.dests.length).map (fun k =>
          { who := { warp := w, core := coreOf w, q := p.1, idx := k }, what := some (.fillLanding o.data.length) }))

/-- Events of warps, cores and clusters. -/
def State.coreEvents (s : State) : List Happening :=
  s.warps.flatMap (fun p =>
    if p.2.resident then
      [.implicitRefill, .taskEnd, .pipeTrap].map (byWarp p.1) ++
      { who := { warp := p.1, lanes := p.2.live }, what := some .yieldWindowEnd } ::
      byWarp p.1 .castlingThreshold :: { who := { warp := p.1, idx := 1 }, what := some .castlingThreshold } ::
      s.queueEvents p.1
    else []) ++
  s.cores.flatMap (fun p =>
    [.carveChange, .mmaOp 1, .engineCompletion].map (byCore p.1)) ++
  (s.warps.map (fun p => coreOf p.1)).dedup.flatMap (fun c => [byCore c .castling, byCore c .boardEntry])

def State.clusterEvents (s : State) : List Happening :=
  ((List.range 128).filter (fun g => (s.cpart g).isSome)).flatMap (fun g =>
    [.taskPop, .aallocServed, .stealRequest, .stealAnswer, .stealBackoff].map (byCluster g 0) ++
    (List.range (s.cluster g).leases.length).flatMap (fun k =>
      [.leaseJoin, .leaseRelease, .leaseRevokedFree].map (byCluster g k)))

/-- Events of the command processors, the memory system and the services of the package. -/
def State.launchEvents (s : State) : List Happening :=
  (if s.boot.stage = 8 then [byDie 0 0 .launchAdmission, byDie 1 0 .launchAdmission] else []) ++
  s.launches.flatMap (fun p =>
    [.drainConfirmed p.1, .rollback p.1, .replayReadmission p.1].map (byDie p.2.die 0) ++
    p.2.groups.map (fun g => byDie p.2.die 0 (.boundGroupPlacement p.1 g.1)))

def State.memoryEvents (s : State) : List Happening :=
  (if s.mem.syncReqs.isEmpty then [] else [byDie 0 0 .syncEngineAtomic]) ++
  (List.range s.mem.strait.length).flatMap (fun k => [byDie 0 0 (.remoteWriteApply 0 k), byDie 1 0 (.remoteWriteApply 1 k)]) ++
  s.mem.l2.map (fun p => byDie (p.1 / 2 ^ 41) 0 (.l2Writeback (p.1 / 2 ^ 41) (p.1 % 2 ^ 41))) ++
  [byDie 0 0 .walk, byDie 1 0 .walk, byDie 0 0 .invDone, byDie 1 0 .invDone] ++
  s.mem.arbs.flatMap (fun p => [byDie 0 p.1 .arbiterRequest, byDie 0 p.1 .meteringInterval]) ++
  s.mem.chans.flatMap (fun p =>
    let cyc := p.2.now + Config.freeDelay s.tick
    [.channelArrival (p.1 / 64) (p.1 % 64) cyc, .channelService (p.1 / 64) (p.1 % 64) cyc].map (byDie 0 0)) ++
  s.mem.toSlice.map (fun p => byDie (p.1 / 64 / 128) (p.1 / 64 % 128) .ferryVisit) ++
  s.mem.toClu.map (fun p => byCluster (64 * (p.1 / 64 / 128) + p.1 % 64) 0 .returnVisit)

def State.packageEvents (s : State) : List Happening :=
  [.bringupStageDone true 0, .preemptHalt, .contextSave, .restorePlacement, .gatingDone, .recoveryWriteChunk,
   .recoveryFinishImage, .firmwareSwitch].map (byDie 0 0) ++
  s.sys.switching.map (fun p => byCluster p.1 0 .regulatorSwitchDone) ++
  s.sys.domains.map (fun p => byDie 0 p.1 .pointChangeDone) ++
  s.boot.reports.map (fun f => byDie 0 0 (.reportDone f))

/-- An event would change something besides who acts. -/
def State.changedBy (s : State) (h : Happening) : Bool :=
  match h.what with
  | none => true
  | some i =>
    match exec i { s with cur := h.who } with
    | .next t => !decide ({ t with cur := s.cur } = s)
    | _ => false

/-- What the cores issue that a free choice puts in one core cycle, in ascending core order (08_bonds.md R194, R195,
13_scheduling.md R372; log entry 99). -/
def State.sameCycle (s : State) (l : List (Nat × List Happening)) : List Happening :=
  match (l.filter (fun p => Config.freeBool (2 ^ 64 * (p.1 + 1) + s.tick))).flatMap (fun p => p.2) with
  | [] => []
  | h :: r => h :: r.map (fun x => { x with who := { x.who with together := true } })

/-- The cores that have something to issue, with what they issue in the first core cycle in which they have. -/
def State.cycles (s : State) : List (Nat × List Happening) :=
  (((s.warps.map (fun p => coreOf p.1)).dedup).map (fun c => (c, s.cycleOf c))).filter (fun p => !p.2.isEmpty)

/-- What may happen next where the agenda is empty: an event of an agent of the device, a core's cycle, or the cycles of several
cores as one. -/
def State.choices (s : State) : List (List Happening) :=
  ((s.packageEvents ++ s.launchEvents ++ s.clusterEvents ++ s.coreEvents ++ s.memoryEvents).filter s.changedBy).map (fun h => [h]) ++
  s.cycles.map (fun p => p.2) ++ [s.sameCycle s.cycles].filter (fun l => !l.isEmpty)

/-- Which of them happens: a free choice where there are several, for the manual gives no order between agents; the core or
agent that has nothing to do leaves the machine as it is (log entry 1). -/
def State.plan (s : State) : List Happening :=
  match s.choices with
  | [] => []
  | [l] => l
  | ls => (ls[Config.freeDelay s.tick % ls.length]?).getD []

end Sys2Proof.Machine
end

