-- ==== Sys2Proof/Machine/Step.lean ====
section
/-! DEFINITION. One step of the machine, and a state whose next step runs a given instruction. -/

namespace Sys2Proof.Machine

/-- The entry of an agenda that happens first, and what is left: of the issues of one core cycle at its head, the first of the
lowest core (08_bonds.md R194, R195, 13_scheduling.md R372). -/
def firstOf (h : Happening) (r : List Happening) : Happening × List Happening :=
  let batch := h :: r.takeWhile (fun x => x.who.together && decide (x.what = none))
  let c := batch.foldl (fun m x => min m (coreOf x.who.warp)) (coreOf h.who.warp)
  if coreOf h.who.warp = c ∨ h.what ≠ none then (h, r)
  else
    match r.find? (fun x => decide (coreOf x.who.warp = c)) with
    | some x => (x, h :: r.erase x)
    | none => (h, r)

/-- One step: the head of the agenda happens; with an empty agenda, what the free choice among the agents' next moves
gives; and where nothing can move, time passes. -/
def step (s : State) : Host.Outcome State Fault Refusal :=
  match s.agenda with
  | h :: r => { s with agenda := (firstOf h r).2 }.happen (firstOf h r).1
  | [] =>
    match s.interlock.plan with
    | h :: r => { s with agenda := (firstOf h r).2 }.happen (firstOf h r).1
    | [] => .next { s with tick := s.tick + 1 }

/-- What the agenda has happen next. -/
def State.nextUp (s : State) : Option Happening :=
  match s.agenda with
  | h :: r => some (firstOf h r).1
  | [] => none

/-- Where the next step fetches its first word: die and quarter-00 address, where the agenda has an issue next whose fetch of three
words in one page succeeds. -/
def State.fetchSpot (s0 : State) : Option (Nat × Nat) :=
  let s := s0.interlock
  match s.nextUp with
  | some { who := who, what := none } =>
    let group := s.issuers who
    let wp := s.warp who.warp
    let pc := wp.groupPc group
    if group = 0 ∨ 65536 < pc.toNat % 65536 + 12 then none
    else
      match s.fetch (s.strandMaster who.warp) (wp.fetchFailed group) pc wp.converged, s.translate (s.strandMaster who.warp) pc.toNat .fetch [] with
      | (_, .words _ _ _), (_, .ok pa) => if quarter pa = 0 then some (warpDie who.warp, pa) else none
      | _, _ => none
  | _ => none

/-- A running launch with one resident warp on the board, one live lane at virtual address 0x10000, a translation and a
range that let its fetch through, and its issue at the head of the agenda (log entry 8). -/
def State.setUpFetch (s : State) : State :=
  { s with
    warps := s.warps.set 0
      { slot := .board, spc := 0x10000, trec := { code := 0x10000 }, lanes := [(0, { Lane.dflt with st := .live, pc := 0x10000 })] }
    cores := s.cores.set 0 { s.core 0 with frozen := false, castle := none }
    launches := s.launches.set 0 { lid := 0, die := 0, q := 0, entry := 0, part := 0, space := 0 }
    mem := { s.mem with
      tlb := { die := 0, space := 0, vpage := 1, bits := 16, pbase := 0, rd := true, wr := true, ex := true } :: s.mem.tlb
      bad := s.mem.bad.filter (fun x => !decide (x = 0))
      upsets := [] }
    regs := (s.regs.set (pkgBlk 0x10000) 0xC000000000000000).set (pkgBlk 0x10008) 0
    sys := { s.sys with gated0 := false, gating := none, rangeOld := [] }
    agenda := { who := { warp := 0, lanes := 1 }, what := none } :: s.agenda
    glitch := none }

/-- Place bytes so that accesses of a die read them. -/
def Mem.place (m : Mem) (d a : Nat) : List Byte → Mem
  | [] => m
  | b :: r =>
    Mem.place (if m.l2.isEmpty && m.strait.isEmpty && m.granules.isEmpty then m.stackSet a b else m.putN (backMaster d) a 1 b.toNat)
      d (a + 1) r

/-- The state with an instruction stored where the next step fetches: the first nbits bits as given, the others 0. -/
def State.withFetchWord (s : State) (nbits w : Nat) : State :=
  let s := s.syncAll
  let t := if s.fetchSpot.isSome then s else s.setUpFetch
  match t.fetchSpot with
  | some (d, a) => t.updMem (fun m => m.place d a (wordBytes (tableWords nbits w)))
  | none => t

end Sys2Proof.Machine
end

