-- ==== Sys2Proof/Safety.lean ====
section
/-! DEFINITION. The terms in which statements speak of a step: what an instruction does to a lane, to the strand and to
nothing else, and the states in which it executes undisturbed. -/

namespace Sys2Proof.Machine

/-! ## Undisturbed states -/

/-- No checker mismatch is due, and with gap checking on no executing lane reads a resource that the instruction reads in it
within its gap (03_encoding.md R75, 16_recovery.md R443). -/
def State.ClearBy (s : State) (rs : View → List LRes) : Prop :=
  s.glitch = none ∧
  ((s.warp s.cur.warp).seenChk s.cur.second = true →
    ∀ i ∈ s.execLanes, ∀ r ∈ rs (s.view i), pendOf ((s.warp s.cur.warp).lane i).pend r = none)

/-- The same where every lane reads the same resources. -/
def State.Clear (s : State) (rs : List LRes) : Prop := s.ClearBy (fun _ => rs)

/-- No live lane of the issuer's warp waits for anything. -/
def State.Calm (s : State) : Prop :=
  ∀ i ∈ lanesOf (s.warp s.cur.warp).live, ((s.warp s.cur.warp).lane i).wait = .none

/-- The strand of a converged warp executes: no held engine operation waits to be told, no checker mismatch is due, and with
gap checking on it reads none of the s-registers within its gap (02_execution.md R38, 03_encoding.md R75, 16_recovery.md
R443, R444). -/
def State.StrandClear (s : State) (rs : List Nat) : Prop :=
  (s.warp s.cur.warp).converged = true ∧ s.untold s.cur.warp = none ∧ s.glitch = none ∧
  ((s.warp s.cur.warp).chk = true → ∀ p ∈ (s.warp s.cur.warp).spend, p.reg ∈ rs → p.left = 0)

/-- The mask registers that an L-set instruction reads (03_encoding.md R74). -/
def maskSources : Instr → List LRes
  | .sel _ _ _ _ k | .shfl _ _ _ _ _ k | .vote _ _ _ _ k | .wred _ _ _ _ k | .brc _ _ k _ | .mfirst _ _ k | .mjoin _ k | .mwait _ k
  | .mleave _ k | .mnot _ _ k => [.mk k.toNat]
  | .mand _ _ a b | .mor _ _ a b => [.mk a.toNat, .mk b.toNat]
  | _ => []

/-- An instruction of the lanes that acts in its lanes alone, or on the data of their warp: no access to memory, to a tile or to a
queue, no special register, and no index that names a source. -/
def withinWarp : Instr → Bool
  | .ld .. | .st .. | .atom .. | .red .. | .prf .. | .lds .. | .sts .. | .lda .. | .sta .. | .ldt .. | .ldp .. | .spawnl .. | .wrsr ..
  | .ldx .. => false
  | _ => true

/-! ## What an instruction does in a lane -/

/-- What an instruction does in one lane: the registers it writes, the first entry of a number counting; the value that
enters the result history; the lane's bits of mask registers; the flags raised; and the next PC where it is not that of the
following instruction. -/
structure Effect where
  o : List (Nat × Word) := []
  m : List (Nat × Word) := []
  x : List (Nat × Word) := []
  hist : Option Word := none
  mkb : List (Nat × Bool) := []
  flags : Nat := 0
  pc : Option Addr := none

/-- A result in d, which code 18 discards, and in the result history (03_encoding.md R67, R68). -/
def result (d : Dst) (v : Word) : Effect :=
  { o := match d with
      | .o k => [(k.toNat, v)]
      | .zero => []
    hist := some v }

/-- A result that raises flags. -/
def flagged (d : Dst) (v : Flagged Word) : Effect := { result d v.val with flags := v.flags }

/-- What a loaded value of a width gives (12_memory_instr.md R313, R314): the low word enters the result history. -/
def loadEffect (d : Dst) (w : Width) (v : Nat) : Effect :=
  let word (k : Nat) : Word := BitVec.ofNat 32 (v / 2 ^ (32 * k))
  let more (c : Nat) : List (Nat × Word) :=
    match d with
    | .o r => (List.range c).map (fun k => (r.toNat + k + 1, word (k + 1)))
    | .zero => []
  match w with
  | .u8 => result d (BitVec.ofNat 32 (v % 256))
  | .s8 => result d (BitVec.ofInt 32 ((v : Int).bmod 256))
  | .u16 => result d (BitVec.ofNat 32 (v % 65536))
  | .s16 => result d (BitVec.ofInt 32 ((v : Int).bmod 65536))
  | .w32 => result d (word 0)
  | .w64 => { result d (word 0) with o := (result d (word 0)).o ++ more 1 }
  | .w128 => { result d (word 0) with o := (result d (word 0)).o ++ more 3 }

/-- A lane after an instruction of len bytes with stall n and a given effect: its registers, and nothing else but its PC and
its scheduling counters. -/
structure Lane.Becomes (l l' : Lane) (n : Stall) (len : Nat) (e : Effect) : Prop where
  rest : l' = { l with o := l'.o, m := l'.m, x := l'.x, l0 := l'.l0, l1 := l'.l1, pend := l'.pend, await := l'.await,
                       pc := e.pc.getD (l.pc + BitVec.ofNat 56 len), wait := .none, stallLeft := n.toNat + 1, waitCnt := 0,
                       failed := [] }
  o : ∀ k, l'.o.get 0 k = (e.o.lookup k).getD (l.o.get 0 k)
  m : ∀ k, l'.m.get 0 k = (e.m.lookup k).getD (l.m.get 0 k)
  x : ∀ k, l'.x.get 0 k = (e.x.lookup k).getD (l.x.get 0 k)
  l0 : l'.l0 = e.hist.getD l.l0
  l1 : l'.l1 = if e.hist.isSome then l.l0 else l.l1

/-- A lane that goes on at a PC after an instruction with stall n, with nothing else changed but its gaps. -/
def Lane.Went (l l' : Lane) (n : Stall) (pc : Addr) : Prop :=
  l' = { l with pc := pc, pend := l'.pend, await := l'.await, wait := .none, stallLeft := n.toNat + 1, waitCnt := 0, failed := [] }

/-! ## Float values -/

/-- An FP32 word that is a NaN, and one that is a number (05_formats.md R108). -/
def fpNan (x : Word) : Prop := x.toNat / 2 ^ 23 % 256 = 255 ∧ x.toNat % 2 ^ 23 ≠ 0
def fpFinite (x : Word) : Prop := x.toNat / 2 ^ 23 % 256 ≠ 255

/-- The value of an FP32 word, an infinity standing for 2^128 of its sign (05_formats.md R107, R108). -/
def fpValue (x : Word) : ℚ :=
  let e : Nat := x.toNat / 2 ^ 23 % 256
  let m : Nat := x.toNat % 2 ^ 23
  (if bitAt x 31 then -1 else 1) * (if e = 0 then (m : ℚ) else 2 ^ 23 + m) * 2 ^ ((max e 1 : Nat) - 150 : ℤ)

/-- The value that an instruction under FLUSH reads: a subnormal is a zero (05_formats.md R116). -/
def fpRead (flush : Bool) (x : Word) : ℚ := if flush = true ∧ abs (fpValue x) < 2 ^ (-126 : ℤ) then 0 else fpValue x

/-- An FP32 result is the value x, not 0, rounded to nearest with ties to even, with the flags of the rounding: e and k are those of
the manual's procedure (05_formats.md R111, R112, R116, R117). -/
def RoundsTo (flush : Bool) (x : ℚ) (r : Flagged Word) : Prop :=
  (flush = true ∧ abs x < 2 ^ (-126 : ℤ) → r = ⟨if x < 0 then 0x80000000 else 0, fUF + fNX⟩) ∧
  (flush = false ∨ 2 ^ (-126 : ℤ) ≤ abs x → ∃ (e : ℤ) (k : ℕ),
    let y : ℚ := k * 2 ^ (e - 23)
    abs x < 2 ^ (e + 1) ∧ -126 ≤ e ∧ (e = -126 ∨ 2 ^ e ≤ abs x) ∧
    abs (abs x - y) ≤ 2 ^ (e - 24) ∧ (abs (abs x - y) = 2 ^ (e - 24) → k % 2 = 0) ∧ bitAt r.val 31 = decide (x < 0) ∧
    (2 ^ 128 ≤ y → abs (fpValue r.val) = 2 ^ 128 ∧ ¬fpNan r.val ∧ r.flags = fOF + fNX) ∧
    (y < 2 ^ 128 → fpFinite r.val ∧ abs (fpValue r.val) = y ∧
      r.flags = if y = abs x then 0 else if abs x < 2 ^ (-126 : ℤ) then fUF + fNX else fNX))

/-- A node of the reduction tree: that of level d with the lanes from 2^d × j on (05_formats.md R121). -/
def treeNode (op : Word → Word → Flagged Word) (v : Nat → Option Word) : Nat → Nat → Option (Flagged Word)
  | 0, j => (v j).map (fun x => ⟨x, 0⟩)
  | d + 1, j =>
    match treeNode op v d (2 * j), treeNode op v d (2 * j + 1) with
    | some l, some r => some ⟨(op l.val r.val).val, l.flags ||| r.flags ||| (op l.val r.val).flags⟩
    | some l, none => some l
    | none, r => r

/-- Nothing changes but the slot of the issuer's warp, and in it only the executing lanes, the masks, the sticky flags, whether
and where it is converged, and what the decision queue holds or the strand last waited on. -/
structure State.LanesOnly (s t : State) : Prop where
  rest : t = { s with warps := t.warps, glitch := none }
  others : ∀ k, k ≠ s.cur.warp → t.warp k = s.warp k
  shared : t.warp s.cur.warp =
    { s.warp s.cur.warp with lanes := (t.warp s.cur.warp).lanes, mks := (t.warp s.cur.warp).mks, stk := (t.warp s.cur.warp).stk,
                             converged := (t.warp s.cur.warp).converged, spc := (t.warp s.cur.warp).spc,
                             dq := (t.warp s.cur.warp).dq, waitOn := (t.warp s.cur.warp).waitOn }
  idle : ∀ i, i ∉ s.execLanes → (t.warp s.cur.warp).lane i = (s.warp s.cur.warp).lane i

/-- Each executing lane has had its effect, a function of what it saw, and nothing else has changed. -/
def State.Given (s t : State) (n : Stall) (len : Nat) (e : View → Effect) : Prop :=
  s.LanesOnly t ∧
    (∀ j ∈ s.execLanes, ((s.warp s.cur.warp).lane j).Becomes ((t.warp s.cur.warp).lane j) n len (e (s.view j))) ∧
    (∀ k j, bitAt ((t.warp s.cur.warp).mks.get 0 k) j =
      if j ∈ s.execLanes then ((e (s.view j)).mkb.lookup k).getD (bitAt ((s.warp s.cur.warp).mks.get 0 k) j)
      else bitAt ((s.warp s.cur.warp).mks.get 0 k) j) ∧
    (t.warp s.cur.warp).stk = (s.warp s.cur.warp).stk ||| BitVec.ofNat 32 (orFlags (s.execLanes.map (fun j => (e (s.view j)).flags)))

/-- The instruction completes: each executing lane has its effect as a function of what the lane saw, and nothing else
changes. -/
def State.Gives (s : State) (i : Instr) (n : Stall) (len : Nat) (e : View → Effect) : Prop :=
  ∃ t, exec i s = .next t ∧ s.Given t n len e

/-- Each executing lane has become what the given relation says, and nothing else has changed, neither masks nor flags. -/
def State.Moved (s t : State) (r : View → Lane → Lane → Prop) : Prop :=
  s.LanesOnly t ∧
    (∀ j ∈ s.execLanes, r (s.view j) ((s.warp s.cur.warp).lane j) ((t.warp s.cur.warp).lane j)) ∧
    (t.warp s.cur.warp).mks = (s.warp s.cur.warp).mks ∧ (t.warp s.cur.warp).stk = (s.warp s.cur.warp).stk

/-- The instruction completes: each executing lane becomes what the given relation says, and nothing else changes, neither
masks nor flags. -/
def State.Moves (s : State) (i : Instr) (r : View → Lane → Lane → Prop) : Prop := ∃ t, exec i s = .next t ∧ s.Moved t r

/-- The instruction completes with a function of one source operand in d. -/
def State.Gives1 (s : State) (n : Stall) (d : Dst) (a : Src) (i : Instr) (f : Word → Word) : Prop :=
  s.Gives i n 4 (fun v => result d (f (v.src 0 a)))

/-- The instruction completes with a function of two source operands in d. -/
def State.Gives2 (s : State) (n : Stall) (d : Dst) (a b : Src) (i : Instr) (f : Word → Word → Word) : Prop :=
  s.Gives i n 4 (fun v => result d (f (v.src 0 a) (v.src 1 b)))

/-! ## What an instruction of the strand does -/

/-- What an instruction does in the strand: s-registers written, the uniform return stack where it changes, and the next PC
where it is not that of the following instruction. -/
structure StrandEffect where
  s : List (Nat × Word64) := []
  ustk : Option (List Addr) := none
  pc : Option Addr := none

/-- Nothing changes but the slot of the issuer's warp, in which the strand and every live lane go on at one PC
(14_control_instr.md R384). -/
structure State.StrandOnly (s t : State) (n : Stall) (len : Nat) (e : StrandEffect) : Prop where
  rest : t = { s with warps := t.warps }
  others : ∀ k, k ≠ s.cur.warp → t.warp k = s.warp k
  shared : t.warp s.cur.warp =
    { s.warp s.cur.warp with lanes := (t.warp s.cur.warp).lanes, s := (t.warp s.cur.warp).s, spend := (t.warp s.cur.warp).spend,
                             sawait := (t.warp s.cur.warp).sawait,
                             spc := e.pc.getD ((s.warp s.cur.warp).spc + BitVec.ofNat 56 len),
                             ustk := e.ustk.getD (s.warp s.cur.warp).ustk, sstall := n.toNat + 1, swait := .none, sfailed := [],
                             dq := [], waitOn := none }
  lane : ∀ j, (t.warp s.cur.warp).lane j =
    if j ∈ lanesOf (s.warp s.cur.warp).live then
      { (s.warp s.cur.warp).lane j with pc := e.pc.getD ((s.warp s.cur.warp).spc + BitVec.ofNat 56 len) }
    else (s.warp s.cur.warp).lane j
  reg : ∀ k, (t.warp s.cur.warp).sreg k = (e.s.lookup k).getD ((s.warp s.cur.warp).sreg k)

/-- The instruction of the strand completes with its effect. -/
def State.StrandGives (s : State) (i : Instr) (n : Stall) (len : Nat) (e : StrandEffect) : Prop :=
  ∃ t, exec i s = .next t ∧ s.StrandOnly t n len e

/-! ## What a trap does -/

/-- A lane that has entered the handler: trap.code, trap.pc, trap.mask, its mark, and its PC (16_recovery.md R447,
17_system_instr.md R479). -/
def Lane.Enters (l l' : Lane) (code arg : Nat) (resume : Addr) (mask : Word) (tvec : Word64) : Prop :=
  l' = { l with trapCode := BitVec.ofNat 32 (code + 256 * arg), trapPc := resume.setWidth 64, trapMask := mask, inH := true,
                pc := tvec.setWidth 56, wait := .none, failed := [] }

/-- A lane as it traps: a trap that its instruction is executed to raise counts in its gaps and its stall, and any other leaves them
(03_encoding.md R71, R74, 17_system_instr.md R483). -/
def Lane.counted (l : Lane) (code : Nat) (n : Stall) : Lane := if code = 0x11 ∨ code = 0x12 then l.ran n.toNat else l

/-- A trap of the warp enters its handler: there is one, the warp is on the board with its strand not waiting, and no live
lane is in the handler already (16_recovery.md R447, R449). -/
def State.Handled (s : State) : Prop :=
  (s.warp s.cur.warp).tvec ≠ 0 ∧ (s.warp s.cur.warp).slot = .board ∧ (s.warp s.cur.warp).swait = .none ∧
  (s.warp s.cur.warp).sfailed = [] ∧ ∀ i ∈ lanesOf (s.warp s.cur.warp).live, ((s.warp s.cur.warp).lane i).inH = false

/-- The executing lanes that do not trap have their effect, and the others have entered the handler together with a code, an
argument and the address at which they resume; nothing else has changed (16_recovery.md R447). -/
def State.Split (s t : State) (n : Stall) (len : Nat) (e : View → Effect) (trap : View → Option (Nat × Nat × Addr)) : Prop :=
  s.LanesOnly t ∧
    (∀ j ∈ s.execLanes, match trap (s.view j) with
      | none => ((s.warp s.cur.warp).lane j).Becomes ((t.warp s.cur.warp).lane j) n len (e (s.view j))
      | some (code, arg, pc) => (((s.warp s.cur.warp).lane j).counted code n).Enters ((t.warp s.cur.warp).lane j) code arg pc
          (maskOf (fun k => decide (k ∈ s.execLanes) && (trap (s.view k)).isSome)) (s.warp s.cur.warp).tvec) ∧
    (t.warp s.cur.warp).mks = (s.warp s.cur.warp).mks ∧ (t.warp s.cur.warp).stk = (s.warp s.cur.warp).stk

/-- The instruction completes in the executing lanes that do not trap, and the others enter the handler together (16_recovery.md
R447). -/
def State.Splits (s : State) (i : Instr) (n : Stall) (len : Nat) (e : View → Effect) (trap : View → Option (Nat × Nat × Addr)) :
    Prop :=
  ∃ t, exec i s = .next t ∧ s.Split t n len e trap

/-- A trap of the strand: every live lane enters the handler, and the strand with them (16_recovery.md R447). -/
def State.StrandTraps (s : State) (i : Instr) (code : Nat) : Prop :=
  ∃ t, exec i s = .next t ∧ t = { s with warps := t.warps } ∧ (∀ k, k ≠ s.cur.warp → t.warp k = s.warp k) ∧
    t.warp s.cur.warp =
      { s.warp s.cur.warp with lanes := (t.warp s.cur.warp).lanes, spc := (s.warp s.cur.warp).tvec.setWidth 56,
                               dq := [], waitOn := none } ∧
    ∀ j, if j ∈ lanesOf (s.warp s.cur.warp).live then
        ((s.warp s.cur.warp).lane j).Enters ((t.warp s.cur.warp).lane j) code 0 (s.warp s.cur.warp).spc
          (s.warp s.cur.warp).live (s.warp s.cur.warp).tvec
      else (t.warp s.cur.warp).lane j = (s.warp s.cur.warp).lane j

/-! ## Where an access lands -/

/-- Memory and the structures before it hold no error (16_recovery.md R438, R439). -/
def Mem.Sound (m : Mem) : Prop := m.bad = [] ∧ m.badHalf = [] ∧ m.upsets = []

/-- An access of a master at a virtual address lands at a physical address of the stacks: the address translates, the
master's partition may access it, nothing in memory holds an error, and its page adds nothing to what the launch has read
and written (12_memory_instr.md R310, 16_recovery.md R463, R465). -/
def State.Reach (s : State) (m : Master) (va : Addr) (k : AccKind) (pa : Nat) : Prop :=
  s.translate m va.toNat k [] = (s, .ok pa) ∧ s.paAllowed m.part pa k = true ∧ quarter pa < 2 ∧ s.mem.Sound ∧
  s.trackRead m.lid (canonPa pa) = s ∧ (k.writes = true → s.trackWrite m.lid (canonPa pa) = s)

/-- The effective address of a lane: a uniform register, an operand and an offset, modulo 2^56 (12_memory_instr.md R313). -/
def lanePlace (a : Src) (x : MemExt) (v : View) : Addr :=
  BitVec.ofInt 56 ((v.w.sreg x.base.toNat).toNat + (v.src 0 a).toInt + x.off.toInt)

/-- Every executing lane's access of some bytes lands, aligned, at its physical address. -/
def State.LanesReach (s : State) (a : Src) (x : MemExt) (size : Nat) (k : AccKind) (pa : Nat → Nat) : Prop :=
  s.mem.syncReqs = [] ∧ ∀ i ∈ s.execLanes, ((s.warp s.cur.warp).lane i).failed = [] ∧
    (lanePlace a x (s.view i)).toNat % size = 0 ∧ canonPa (pa i) % size = 0 ∧
    s.Reach (s.laneMaster s.cur.warp x) (lanePlace a x (s.view i)) k (pa i)

/-- The byte of a core's L1 at an address, where it holds the line. -/
def State.l1Byte (s : State) (c b : Nat) : Option Byte :=
  ((s.core c).l1? (b / 128)).map (fun l => lineGet l.data (b % 128))

/-- The same for an access of the strand, which must be a multiple of its size (12_memory_instr.md R310, R324). -/
def State.StrandReaches (s : State) (va : Addr) (size : Nat) (k : AccKind) (pa : Nat) : Prop :=
  s.mem.syncReqs = [] ∧ (s.warp s.cur.warp).sfailed = [] ∧ va.toNat % size = 0 ∧ s.Reach (s.strandMaster s.cur.warp) va k pa

/-- The line of an address is in the L2 of the issuer's die, and no synchronisation engine holds a granule. -/
def State.InL2 (s : State) (pa : Nat) : Prop :=
  s.mem.granules = [] ∧ (s.mem.line? (warpDie s.cur.warp) (canonPa pa / 128)).isSome = true

/-- The same, and L1 of the issuer's core does not hold the line. -/
def State.AtL2 (s : State) (pa : Nat) : Prop := (s.core (coreOf s.cur.warp)).l1? (canonPa pa / 128) = none ∧ s.InL2 pa

/-- What is recorded of unseen bytes but for who knows of them (11_ordering.md R290, R308; log entry 35). -/
def Wrote.forget (x : Wrote) : Wrote := { x with seenBy := [], offered := false }

/-- Nothing changes but which agents know of bytes that the host does not see yet (11_ordering.md R290, R308; log entry 35). -/
structure State.KnowsMore (s t : State) : Prop where
  rest : t = { s with cores := t.cores, mem := { s.mem with unseen := t.mem.unseen } }
  unseen : t.mem.unseen.map (fun u => { u with w := u.w.forget }) = s.mem.unseen.map (fun u => { u with w := u.w.forget })
  core : ∀ k, t.core k = { s.core k with l1 := (t.core k).l1 }
  line : ∀ k j, ((t.core k).l1? j).map (fun l => { l with who := l.who.map Wrote.forget }) =
    ((s.core k).l1? j).map (fun l => { l with who := l.who.map Wrote.forget })

/-- No red of an executing lane to the n bytes that it reads stands in q6 (11_ordering.md R284, 12_memory_instr.md R318). -/
def State.NoRedOwed (s : State) (n : Nat) (pa : Nat → Nat) : Prop :=
  ∀ i ∈ s.execLanes, redUpTo ((s.warp s.cur.warp).queues.get [] 6) i (pa i) n = 0

/-- Of the command queues nothing changes but whether they have been told of a change of TAIL (13_scheduling.md R345). -/
def State.OnlyTold (s t : State) : Prop := ∀ k, t.cmdQueue k = { s.cmdQueue k with told := (t.cmdQueue k).told }

/-- L1 of the issuer's core holds no dirty line. -/
def State.CleanL1 (s : State) : Prop := ∀ k l, (s.core (coreOf s.cur.warp)).l1? k = some l → l.dirty = 0

/-- Each core's state is as before but for its L1, and its L1 holds the same lines. -/
def State.SameCores (s t : State) : Prop :=
  ∀ k, t.core k = { s.core k with l1 := (t.core k).l1 } ∧ ∀ line, (t.core k).l1? line = (s.core k).l1? line

/-- The synchronisation engine of a die has room for one more granule, and no record is held on a counter. -/
def State.EngineRoom (s : State) (d : Nat) : Prop := s.mem.held = [] ∧ (s.mem.inSram d).length < syncRoom

/-- What an atomic at its engine changes besides the warps: its granule, with the tag of its line, the requests that it makes, and
what the host sees. -/
def State.AtomicOnly (s t : State) : Prop :=
  s.SameCores t ∧ s.OnlyTold t ∧
  t = { s with cores := t.cores, clock := t.clock, cmdQueues := t.cmdQueues
               mem := { s.mem with granules := t.mem.granules, l2 := t.mem.l2, toSlice := t.mem.toSlice, arbs := t.mem.arbs,
                                   chans := t.mem.chans, unseen := t.mem.unseen } }

/-- The strand places an operation at the end of a queue of its task and goes on; that the operation follows what the strand knows of
is told to who records it (09_tensor_instr.md R210, 11_ordering.md R301, R302; log entry 35). -/
def State.Places (s : State) (i : Instr) (n : Stall) (q : Nat) (o : EngOp) : Prop :=
  ∃ s0 t, exec i s = .next t ∧ s.KnowsMore s0 ∧
    (s0.updWarp s.cur.warp (fun v => { v with queues := v.queues.set q (v.queues.get [] q ++ [o]), opNum := v.opNum + 1 })).StrandOnly t n 4 {}

/-- An operation as the strand issues it: its task, its number in the task's issue order, its queue, and the address of its
block or row. -/
def State.issued (s : State) (k : OpKind) (q : Nat) (va : Addr) : EngOp :=
  let w := s.warp s.cur.warp
  { kind := k, warp := s.cur.warp, lid := w.lid, taskId := w.taskId, num := w.opNum, q := q, block := va, tid := w.tid }

/-! ## Device registers and agents -/

/-- Only the device register at an address has changed: the bits that w names hold those of v, and the others what they held
(00_scope.md R6, 15_isolation.md R405). -/
def State.Stored (s t : State) (a : Nat) (w : Nat → Bool) (v : Word64) : Prop :=
  t = { s with regs := t.regs } ∧ (∀ b, b ≠ a → t.reg b = s.reg b) ∧
  ∀ k, bitAt (t.reg a) k = if w k then bitAt v k else bitAt (s.reg a) k

/-- A register write was ignored: ERR in the DSTAT of a die is set, and nothing else changes (16_recovery.md R440). -/
def State.Ignored (s t : State) (d : Nat) : Prop :=
  s.Stored t (dieBlk d 0x4000) (fun k => decide (k = 63)) (BitVec.allOnes 64)

/-- The same for the package block: die 0, or die 1 while die 0 is off. -/
def State.PkgIgnored (s t : State) : Prop := s.Ignored t (if s.sys.off 0 then 1 else 0)

/-- A cluster that is idle has no resident task, queued record, lease or pending carve-out change, and is not lent
(15_isolation.md R407). -/
def State.Idle (s : State) (g : Nat) : Prop :=
  (s.cluster g).queue = [] ∧ (s.cluster g).leases = [] ∧ s.lentOut g = false ∧
  ∀ i < 16, s.residents (16 * g + i) = [] ∧ (s.core (16 * g + i)).carves = []

/-- No granule, message between the dies, error or promoted row stands between a die's L2 and its stacks. -/
def Mem.Plain (m : Mem) : Prop := m.granules = [] ∧ m.strait = [] ∧ m.Sound ∧ m.slots = [] ∧ Memory.wf m.bytes

/-- An access of a master at a virtual address lands at a physical address whose line the die's L2 holds, by a translation that a TLB
holds, and its page adds nothing to what the launch has read and written: so it lands there whatever the accesses before it have
changed (12_memory_instr.md R310, 16_recovery.md R463, R465). -/
def State.Within (s : State) (m : Master) (va : Nat) (k : AccKind) (pa : Nat) : Prop :=
  (∃ e, s.tlbFor m (va % 2 ^ 56) = some e ∧ e.permits k = true ∧ pa = e.pbase + va % 2 ^ 56 % 2 ^ e.bits) ∧
  s.paAllowed m.part pa k = true ∧ quarter pa < 2 ∧ s.mem.Sound ∧ s.trackRead m.lid (canonPa pa) = s ∧
  (k.writes = true → s.trackWrite m.lid (canonPa pa) = s) ∧ (s.mem.line? m.die (canonPa pa / 128)).isSome = true

/-- The task of a record starts in a slot, in no other: its PC, its uniform registers, and its lanes, those up to the number
in FLAGS live, or vacant where the task has an item queue (02_execution.md R44). -/
def State.Starts (s t : State) (w : Nat) (q : QRec) : Prop :=
  (∀ j, j ≠ w → t.warp j = s.warp j) ∧ (t.warp w).slot = .reserveReady ∧ (t.warp w).trec = q.trec ∧ (t.warp w).taskId = q.id ∧
  (t.warp w).spc = q.trec.code.setWidth 56 ∧ (t.warp w).converged = true ∧
  (∀ k, (t.warp w).sreg k = [q.trec.frame, q.trec.itemq, q.trec.arg0, q.trec.arg1].getD k 0) ∧
  ∀ i < 32, (t.warp w).lane i =
    { Lane.dflt with pc := q.trec.code.setWidth 56
                     st := if i ≤ field q.trec.flags 12 8 then (if q.trec.itemq = 0 then .live else .vacant) else .exited }

/-- A slot of a core in a state has been in it longest, the lowest of several (02_execution.md R58, 13_scheduling.md R361). -/
def State.Longest (s : State) (c : Nat) (st : SlotSt) (w : Nat) : Prop :=
  w / 16 = c ∧ (s.warp w).slot = st ∧ ∀ j, j / 16 = c → (s.warp j).slot = st →
    (s.warp w).since < (s.warp j).since ∨ (s.warp w).since = (s.warp j).since ∧ w ≤ j

/-! ## The canonical form of the machine's bytes -/

/-- The bytes of the stacks, of the device's buffers and of every scratchpad stand in canonical form. -/
def State.Canonical (s : State) : Prop :=
  Memory.wf s.mem.bytes ∧ Memory.wf s.devBytes ∧ ∀ p ∈ s.cores, Memory.wf p.2.spad

end Sys2Proof.Machine
end

