-- ==== Sys2Proof/Certificates/Slice0/Obligations.lean ====
section
/-! DEFINITION. The statements for the provers. -/

open Sys2Proof Sys2Proof.Machine

/-- For every well-formed instruction that has words, whatever bytes follow: decoding its words laid out in memory order
gives the instruction and the bytes that follow. (R63, R64, R65, R67, R70, R79, R80, R81, R82.) -/
def Obligations.DecodeOfEncode : Prop :=
  ∀ (i : Instr) (rest : List Byte), wellFormed i = true → encode i ≠ [] →
    decodeBytes (wordBytes (encode i) ++ rest) = .ok (i, rest)

/-- Whatever three words decode to an instruction, the instruction is well formed, and its encoding is the first word and
exactly the extension words of its opcode. (R76, R78, R79, R82, R84.) -/
def Obligations.EncodeOfDecode : Prop :=
  ∀ (w e g : Word) (i : Instr), decode w e g = .ok i →
    (encode i = [w, e, g].take (1 + extWords w)) ∧ (slotAssigned w = true → wellFormed i = true)

/-- The worked encodings of the manual, one or more of each family, decode to the instructions beside them, and the words
it rejects are rejected. (R155, R160, R165, R166, R169, R171, R174, R175, R177, R178, R179.) -/
def Obligations.DecodeOfSpecWords : Prop :=
  decode 0x01430E40 0 0 = .ok (.add 2 (.o 3) (.o 1) (.u 1)) ∧
  decode 0x0C0217FD 0 0 = .ok (.addImm 0 (.o 2) (.o 2) (-3)) ∧
  decode 0x81220A30 0 0 = .ok (.sadd 1 4 5 6) ∧
  decode 0x01098840 0 0 = .ok (.add 0 (.o 9) .l1 (.o 1)) ∧
  decode 0x06011468 0 0 = .ok (.bfxSigned 0 (.o 1) (.o 2) 3 8) ∧
  decode 0x190410C2 0 0 = .ok (.acs2 0 (.o 4) (.o 2) (.o 3) 2) ∧
  decode 0x24071018 0 0 = .ok (.fcvt 0 (.o 7) (.o 2) 0 .nearest .e4m3 .fp32) ∧
  decode 0x25050981 0 0 = .ok (.fq4 0 (.o 5) (.o 1) (.o 6) .e2m1) ∧
  decode 0x280100F0 0 0 = .ok (.shfl 0 (.o 1) (.o 0) (.o 3) .xor 0) ∧
  decode 0x2A020840 0 0 = .ok (.wred 0 (.o 2) (.o 1) .fadd 0) ∧
  decode 0x32020028 0 0 = .ok (.mvmFromMain 0 (.o 2) 40) ∧
  decode 0x320200A8 0 0 = .ok (.mvmToMain 0 (.o 2) 40) ∧
  decode 0x33000000 0x1708 0 = .ok (.xbnd 0 23 8) ∧
  decode 0x3503A802 0 0 = .ok (.ldx 0 (.o 3) 1 2) ∧
  decode 0x8D020A0C 0 0 = .ok (.sshlImm 0 4 5 12) ∧
  decode 0x84039048 0x0A 0 = .ok (.ssel 0 7 8 9 10) ∧
  decode 0x09130800 0 0 = .error .reservedField ∧
  decode 0x090C0800 0 0 = .error .badValue ∧
  decode 0x09000800 0 0 = .error .badValue ∧
  decode 0x01000005 0 0 = .error .badFunction ∧
  decode 0 0 0 = .ok (.unassignedOpcode 0) ∧
  decode 0xFFFFFFFF 0 0 = .ok (.unassignedOpcode 0xFFFFFFFF)

/-- Where the agenda has an issue next, the group may issue, the fetch at its PC succeeds and the words decode to an
instruction, the step is that instruction, once the errors corrected are counted, the waiting results are weighed, the
issue has begun (the core's cycles pass and the issuer is recorded), and no source of it is in error. What the
instruction gives is the step's state, but for what is noted after it and for the warps of other cores that it has
woken; the warps of its own core are as it left them. The model's choices, by entry of its assumption log: the agenda
and the order between agents (log entries 1, 5), the issues of one core cycle (log entry 99), the landing of results
of variable latency (log entries 2, 130), the performing of the lane atomics that nothing waits for before an issue
(log entry 68). (R35, R76, R362.) -/
def Obligations.StepRunsDecoded : Prop :=
  ∀ (s t : State) (h : Happening) (who : Actor) (r rest : List Happening) (x e g : Word) (i : Instr),
    s.agenda = h :: r → firstOf h r = ({ who := who, what := none }, rest) →
    let s1 : State := { ({ s with agenda := rest } : State).countCorrected with tick := s.tick + 1 }.syncAll.interlock
    let group := s1.issuers who
    let w := s1.warp who.warp
    group ≠ 0 →
    s1.fetch (s1.strandMaster who.warp) (w.fetchFailed group) (w.groupPc group) w.converged = (t, .words x e g) →
    decode x e g = .ok i →
    let s2 := t.beginIssue who group (bitAt x 31)
    step s = rouseAnswer s1 (some (coreOf who.warp)) (s2.execIssued i) ∧
    (∀ u, s2.badSources i = [] → exec i s2 = .next u → (u.meetAfter s2 i).mem.upsets = [] →
      step s = .next ((u.meetAfter s2 i).reckon.rouse s1 (some (coreOf who.warp)))) ∧
    (∀ u : State, (∀ j, ((s2.warp s2.cur.warp).lane j).wait = .none) → (∀ n m, i ≠ .mjoin n m ∧ i ≠ .mwait n m) →
      u.meetAfter s2 i = u) ∧
    (∀ u : State, u.mem.granules = [] → u.mem.poisons = [] → u.reckon = u) ∧
    (∀ u : State, u.rouse s1 (some (coreOf who.warp)) = { u with warps := (u.rouse s1 (some (coreOf who.warp))).warps } ∧
      ∀ k, coreOf k = coreOf who.warp → (u.rouse s1 (some (coreOf who.warp))).warp k = u.warp k) ∧
    ((∀ y, r.head? = some y → y.who.together = false) → firstOf h r = (h, r))

/-- Where the translation of the PC, and of each extension word of the word there, answers an address of the stacks that
the partition may fetch from, nothing there holds an error and what is tracked of the launch's reads does not change,
the fetch gives the words of the four bytes at each, low byte first, as the die reads them, and changes no state; a
word of the U-set gives the divergence trap instead where the warp is diverged, before its extension words are read.
The model's choices, by entry of its assumption log: what a fetch reads of bytes that are under way or dirty elsewhere
(log entry 69). (R63, R76.) -/
def Obligations.FetchReadsBytes : Prop :=
  ∀ (s : State) (m : Master) (failed : List (Nat × Nat)) (pc : Addr) (pa : Nat → Nat) (converged : Bool),
    let word := fun k => BitVec.ofNat 32 (ofBytes (s.mem.lookN m.die (canonPa (pa k)) 4))
    s.mem.Sound →
    (∀ k ≤ extWords (word 0), s.translate m (pc + BitVec.ofNat 56 (4 * k)).toNat .fetch failed = (s, .ok (pa k)) ∧
      s.paAllowed m.part (pa k) .fetch = true ∧ quarter (pa k) ≠ 3 ∧ s.trackRead m.lid (canonPa (pa k)) = s) →
    s.fetch m failed pc converged = (s,
      if bitAt (word 0) 31 = true ∧ converged = false then .uset
      else .words (word 0) (if 1 ≤ extWords (word 0) then word 1 else 0) (if 2 ≤ extWords (word 0) then word 2 else 0))

/-- Where the agenda has an event next, the step is that event, made by its agent, once each die has counted in CECNT the
errors that it has corrected, saturating, which changes nothing else. What the event gives is the step's state, but
for what is noted after it and for the warps that it has woken; an event whose own structure is in error is kept from
happening. The model's choices, by entry of its assumption log: the agenda of events and the counting of corrected
errors at the head of a step (log entries 1, 5), the time at which a warp that an event has woken comes to itself (log
entry 5). (R33, R76, R438, R440.) -/
def Obligations.StepMakesEvent : Prop :=
  ∀ (s : State) (h : Happening) (who : Actor) (i : Instr) (r rest : List Happening),
    s.agenda = h :: r → firstOf h r = ({ who := who, what := some i }, rest) →
    let c := ({ s with agenda := rest } : State).countCorrected
    let s1 : State := { c with tick := s.tick + 1 }
    let s2 : State := { s1 with cur := who }
    step s = rouseAnswer s1 none (s2.execEvent i) ∧
    (s2.mem.upsets = [] ∨ s2.upsetOf i = none → s2.execEvent i = exec i s2) ∧
    (∀ u, (s2.mem.upsets = [] ∨ s2.upsetOf i = none) → exec i s2 = .next u → step s = .next (u.reckon.rouse s1 none)) ∧
    (∀ u : State, (u.rouse s1 none) = { u with warps := (u.rouse s1 none).warps } ∧
      ∀ k, (∀ p ∈ (u.warp k).lanes, p.2.ready = false ∨ (((s1.warp k).lane p.1).ready = true ∧ (s1.warp k).swait = .none ∧ (s1.warp k).slot = .board ∧
        (s1.warp k).taskId = (u.warp k).taskId ∧ (s1.warp k).lid = (u.warp k).lid)) → (u.rouse s1 none).warp k = u.warp k) ∧
    c.corrected = [] ∧ (s.corrected = [] → c = { s with agenda := rest }) ∧ c.mem = s.mem ∧ c.warps = s.warps ∧
    (∀ d < 2, field (c.reg (dieBlk d 0x4000)) 63 32 = field (s.reg (dieBlk d 0x4000)) 63 32 ∧
      field (c.reg (dieBlk d 0x4000)) 31 0 =
        min 0xFFFFFFFF (field (s.reg (dieBlk d 0x4000)) 31 0 + (s.corrected.filter (fun k => decide (k % 2 = d))).length))

/-- From every state a step answers a next state: nothing that a program, the host or an agent does stops the machine, for
the manual gives every misuse an outcome. (R2.) -/
def Obligations.StepAnswers : Prop :=
  ∀ s : State, ∃ t, step s = .next t

/-- With no result of the lane within its gap, a source operand reads its o-register, l0, l1, 0, the lane number, its
index register, or bits [31:0] of its uniform register, and each register of a group of registers its own; a mask
operand reads the bit of the mask register, mk0 being the live lanes; the strand reads its s-registers. Within its gap
an operand reads the value before its producer or the new one, and the two halves of one result are both old or both
new. The second group of a pair reads the masks as they were before the pair. (R67, R33, R75, R146.) -/
def Obligations.OperandForms : Prop :=
  (∀ (v : View) (k : Nat), v.ln.pend = [] → v.second = false →
    (∀ n, v.src k (.o n) = v.ln.o.get 0 n.toNat) ∧ (∀ n j, v.part k n j = v.ln.o.get 0 (n + j)) ∧ v.src k .l0 = v.ln.l0 ∧ v.src k .l1 = v.ln.l1 ∧ v.src k .zero = 0 ∧
    v.src k .lane = BitVec.ofNat 32 v.i ∧ (∀ n, v.src k (.x n) = v.ln.x.get 0 n.toNat) ∧
    (∀ n, v.src k (.u n) = BitVec.ofNat 32 (v.w.sreg (56 + n.toNat)).toNat) ∧
    (∀ m, 1 ≤ m → v.maskBit k m = bitAt (v.w.mks.get 0 m) v.i) ∧
    (v.maskBit k 0 = true ↔ v.i < 32 ∧ v.ln.st = .live) ∧
    (∀ (s : State) (w r : Nat), (s.warp w).spend = [] → s.sval w k r = (s.warp w).sreg r)) ∧
  (∀ (v : View) (k n : Nat) (p : Pend), pendOf v.ln.pend (.o n) = some p → v.oreg k n = p.old ∨ v.oreg k n = v.ln.o.get 0 n) ∧
  (∀ (v : View) (k n : Nat) (p q : Pend), pendOf v.ln.pend (.o n) = some p → pendOf v.ln.pend (.o (n + 1)) = some q → q.pair = true →
    (v.part k n 0 = p.old ∧ v.part k n 1 = q.old) ∨ (v.part k n 0 = v.ln.o.get 0 n ∧ v.part k n 1 = v.ln.o.get 0 (n + 1))) ∧
  (∀ (v : View) (k m : Nat) (p : PairSeen), v.ln.pend = [] → v.second = true → v.w.pairSeen = some p → v.mask k m = p.mks.get 0 m)

/-- Each of add, sub, mul, mulh, mulh.u, and, or, xor, andn, shl, shr, sar, rotl, min, max, min.u and max.u completes:
every executing lane receives the result of the table in d and in its result history, goes on at the next word, and
nothing else changes. (R145, R146, R147, R148, R150, R68.) -/
def Obligations.LaneInteger : Prop :=
  ∀ (s : State) (n : Stall) (d : Dst) (a b : Src), s.Clear (srcRes a ++ srcRes b) →
    s.Gives2 n d a b (.add n d a b) (fun x y => BitVec.ofNat 32 (x.toNat + y.toNat)) ∧
    s.Gives2 n d a b (.sub n d a b) (fun x y => BitVec.ofInt 32 ((x.toNat : Int) - y.toNat)) ∧
    s.Gives2 n d a b (.mul n d a b) (fun x y => BitVec.ofNat 32 (x.toNat * y.toNat)) ∧
    s.Gives2 n d a b (.mulh n d a b) (fun x y => BitVec.ofInt 32 (x.toInt * y.toInt / 2 ^ 32)) ∧
    s.Gives2 n d a b (.mulhU n d a b) (fun x y => BitVec.ofNat 32 (x.toNat * y.toNat / 2 ^ 32)) ∧
    s.Gives2 n d a b (.and n d a b) (fun x y => maskOf (fun k => bitAt x k && bitAt y k)) ∧
    s.Gives2 n d a b (.or n d a b) (fun x y => maskOf (fun k => bitAt x k || bitAt y k)) ∧
    s.Gives2 n d a b (.xor n d a b) (fun x y => maskOf (fun k => bitAt x k != bitAt y k)) ∧
    s.Gives2 n d a b (.andn n d a b) (fun x y => maskOf (fun k => bitAt x k && !bitAt y k)) ∧
    s.Gives2 n d a b (.shl n d a b) (fun x y => BitVec.ofNat 32 (x.toNat * 2 ^ (y.toNat % 32))) ∧
    s.Gives2 n d a b (.shr n d a b) (fun x y => BitVec.ofNat 32 (x.toNat / 2 ^ (y.toNat % 32))) ∧
    s.Gives2 n d a b (.sar n d a b) (fun x y => BitVec.ofInt 32 (x.toInt / 2 ^ (y.toNat % 32))) ∧
    s.Gives2 n d a b (.rotl n d a b) (fun x y => maskOf (fun k => bitAt x ((k + 32 - y.toNat % 32) % 32))) ∧
    s.Gives2 n d a b (.min n d a b) (fun x y => if x.toInt ≤ y.toInt then x else y) ∧
    s.Gives2 n d a b (.max n d a b) (fun x y => if x.toInt ≤ y.toInt then y else x) ∧
    s.Gives2 n d a b (.minU n d a b) (fun x y => if x.toNat ≤ y.toNat then x else y) ∧
    s.Gives2 n d a b (.maxU n d a b) (fun x y => if x.toNat ≤ y.toNat then y else x)

/-- The immediate forms complete with the results of the register forms, the second operand being the sign-extended 11-bit
immediate, or for shifts and rotates an amount from 0 to 31. (R145, R150, R66, R68.) -/
def Obligations.LaneImmediate : Prop :=
  ∀ (s : State) (n : Stall) (d : Dst) (a : Src) (im : BitVec 11) (p : BitVec 5), s.Clear (srcRes a) →
    let b : Word := BitVec.ofInt 32 im.toInt
    s.Gives1 n d a (.addImm n d a im) (fun x => BitVec.ofInt 32 (x.toNat + im.toInt)) ∧
    s.Gives1 n d a (.mulImm n d a im) (fun x => BitVec.ofInt 32 (x.toNat * im.toInt)) ∧
    s.Gives1 n d a (.andImm n d a im) (fun x => maskOf (fun k => bitAt x k && bitAt b k)) ∧
    s.Gives1 n d a (.orImm n d a im) (fun x => maskOf (fun k => bitAt x k || bitAt b k)) ∧
    s.Gives1 n d a (.xorImm n d a im) (fun x => maskOf (fun k => bitAt x k != bitAt b k)) ∧
    s.Gives1 n d a (.shlImm n d a p) (fun x => BitVec.ofNat 32 (x.toNat * 2 ^ p.toNat)) ∧
    s.Gives1 n d a (.shrImm n d a p) (fun x => BitVec.ofNat 32 (x.toNat / 2 ^ p.toNat)) ∧
    s.Gives1 n d a (.sarImm n d a p) (fun x => BitVec.ofInt 32 (x.toInt / 2 ^ p.toNat)) ∧
    s.Gives1 n d a (.rotlImm n d a p) (fun x => maskOf (fun k => bitAt x ((k + 32 - p.toNat) % 32))) ∧
    s.Gives1 n d a (.minImm n d a im) (fun x => if x.toInt ≤ im.toInt then x else b) ∧
    s.Gives1 n d a (.maxImm n d a im) (fun x => if x.toInt ≤ im.toInt then b else x)

/-- neg, abs, not, clz, popc, brev, mov, mad and lea complete with the results the manual gives. bfx, bfx.signed, bfi,
sel, both forms of movi and addw complete with the results the manual gives; addw writes a pair of o-registers and its
low word enters the result history. (R145, R151, R152, R154, R68, R153, R155, R156, R158.) -/
def Obligations.LaneUnaryAndFields : Prop :=
  (∀ (s : State) (n : Stall) (d : Dst) (a b c : Src) (h : BitVec 6), s.Clear (srcRes a ++ srcRes b ++ srcRes c) →
    s.Gives1 n d a (.neg n d a) (fun x => BitVec.ofInt 32 (-(x.toNat : Int))) ∧
    s.Gives1 n d a (.abs n d a) (fun x => BitVec.ofNat 32 x.toInt.natAbs) ∧
    s.Gives1 n d a (.not n d a) (fun x => maskOf (fun k => !bitAt x k)) ∧
    s.Gives1 n d a (.clz n d a) (fun x => BitVec.ofNat 32 (laneList.takeWhile (fun k => !bitAt x (31 - k))).length) ∧
    s.Gives1 n d a (.popc n d a) (fun x => BitVec.ofNat 32 (laneList.filter (bitAt x)).length) ∧
    s.Gives1 n d a (.brev n d a) (fun x => maskOf (fun k => bitAt x (31 - k))) ∧
    s.Gives1 n d a (.mov n d a) (fun x => x) ∧
    s.Gives (.mad n d a b c) n 4 (fun v =>
      result d (BitVec.ofNat 32 ((v.src 0 a).toNat * (v.src 1 b).toNat + (v.src 2 c).toNat))) ∧
    s.Gives (.lea n d a b h) n 4 (fun v => result d (BitVec.ofNat 32 ((v.src 0 a).toNat + (v.src 1 b).toNat * 2 ^ h.toNat)))) ∧
  (∀ (s : State) (n : Stall) (d : Dst) (r : BitVec 4) (a b : Src) (l p : BitVec 5) (k : BitVec 4) (im : BitVec 11) (x : Word),
    s.Clear (LRes.mk k.toNat :: dstRes d ++ srcRes a ++ srcRes b ++ pairRes a ++ pairRes b) →
    let pair := fun (v : View) (j : Nat) (q : Src) => match q with
      | .o c => (v.part j c.toNat 1).toNat * 2 ^ 32 + (v.part j c.toNat 0).toNat
      | _ => 0
    let sum := fun (v : View) => (pair v 0 a + pair v 2 b) % 2 ^ 64
    s.Gives (.bfx n d a l p) n 4 (fun v => result d (BitVec.ofNat 32 ((v.src 0 a).toNat / 2 ^ p.toNat % 2 ^ (l.toNat + 1)))) ∧
    s.Gives (.bfxSigned n d a l p) n 4 (fun v =>
      result d (BitVec.ofInt 32 (((v.src 0 a).toInt / 2 ^ p.toNat).bmod (2 ^ (l.toNat + 1))))) ∧
    s.Gives (.bfi n d a l p) n 4 (fun v => result d (maskOf (fun j =>
      if p.toNat ≤ j ∧ j ≤ p.toNat + l.toNat then bitAt (v.src 1 a) (j - p.toNat) else bitAt (v.src 0 (dstSrc d)) j))) ∧
    s.Gives (.sel n d a b k) n 4 (fun v => result d (if v.maskBit 2 k.toNat then v.src 0 a else v.src 1 b)) ∧
    s.Gives (.movi n d im) n 4 (fun _ => result d (BitVec.ofInt 32 im.toInt)) ∧
    s.Gives (.moviWide n d x) n 8 (fun _ => result d x) ∧
    s.Gives (.addw n (.o r) a b) n 4 (fun v =>
      { o := [(r.toNat, BitVec.ofNat 32 (sum v)), (r.toNat + 1, BitVec.ofNat 32 (sum v / 2 ^ 32))]
        hist := some (BitVec.ofNat 32 (sum v)) }))

/-- The packed-half instructions work on each half alone, with clamping in the .sat forms; acs2 writes the smaller
saturated sum of each half and the two decision bits. (R145, R159, R160, R68.) -/
def Obligations.PackedHalves : Prop :=
  ∀ (s : State) (n : Stall) (d : Dst) (a b : Src) (k : BitVec 4), s.Clear (srcRes a ++ srcRes b) →
    let half := fun (x : Word) (h : Nat) => BitVec.ofNat 16 (x.toNat / 2 ^ (16 * h))
    let both := fun (x y : BitVec 16) => BitVec.ofNat 32 (y.toNat * 2 ^ 16 + x.toNat)
    let each := fun (f : BitVec 16 → BitVec 16 → BitVec 16) (x y : Word) => both (f (half x 0) (half y 0)) (f (half x 1) (half y 1))
    let clamp := fun (z : Int) => BitVec.ofInt 16 (max (-32768) (min 32767 z))
    s.Gives2 n d a b (.hadd2 n d a b) (each (fun x y => BitVec.ofNat 16 (x.toNat + y.toNat))) ∧
    s.Gives2 n d a b (.hsub2 n d a b) (each (fun x y => BitVec.ofInt 16 ((x.toNat : Int) - y.toNat))) ∧
    s.Gives2 n d a b (.hadd2Sat n d a b) (each (fun x y => clamp (x.toInt + y.toInt))) ∧
    s.Gives2 n d a b (.hsub2Sat n d a b) (each (fun x y => clamp (x.toInt - y.toInt))) ∧
    s.Gives2 n d a b (.hmin2 n d a b) (each (fun x y => if x.toInt ≤ y.toInt then x else y)) ∧
    s.Gives2 n d a b (.hmax2 n d a b) (each (fun x y => if x.toInt ≤ y.toInt then y else x)) ∧
    s.Gives2 n d a b (.hmin2U n d a b) (each (fun x y => if x.toNat ≤ y.toNat then x else y)) ∧
    s.Gives2 n d a b (.hmax2U n d a b) (each (fun x y => if x.toNat ≤ y.toNat then y else x)) ∧
    (s.Calm → s.Gives (.acs2 n d a b k) n 4 (fun v =>
      let u := fun (x : Word) (h : Nat) => (half x h).toNat
      let x0 := min 65535 (u (v.src 0 a) 0 + u (v.src 1 b) 0)
      let y0 := min 65535 (u (v.src 0 a) 1 + u (v.src 1 b) 1)
      let x1 := min 65535 (u (v.src 0 a) 0 + u (v.src 1 b) 1)
      let y1 := min 65535 (u (v.src 0 a) 1 + u (v.src 1 b) 0)
      { result d (BitVec.ofNat 32 (min x1 y1 * 2 ^ 16 + min x0 y0)) with
        mkb := [(k.toNat + 1, decide (y1 < x1)), (k.toNat, decide (y0 < x0))] }))

/-- cmp, fcmp, mand, mor, mnot and mset write the executing lanes' own bits of the named mask and no other bit, and leave
the result history; mpop and mfirst give the number of lanes of a mask and its lowest lane, 32 for none; mpop, which
is interlocked, reads the mask as its producer left it. With no lane of the warp waiting. The model's choices, by
entry of its assumption log: that mpop waits for a mask that is not yet there (log entry 130). (R145, R147, R157,
R163, R388.) -/
def Obligations.MaskInstructions : Prop :=
  ∀ (s : State) (n : Stall) (d : Dst) (a b : Src) (k j l : BitVec 4) (c : IntCond) (f : FloatCond),
    s.Calm → s.Clear (LRes.mk j.toNat :: LRes.mk l.toNat :: srcRes a ++ srcRes b) →
    let holds := fun (x y : Word) => match c with
      | .eq => x = y
      | .ne => x ≠ y
      | .lt => x.toInt < y.toInt
      | .le => x.toInt ≤ y.toInt
      | .gt => y.toInt < x.toInt
      | .ge => y.toInt ≤ x.toInt
      | .ltu => x.toNat < y.toNat
      | .leu => x.toNat ≤ y.toNat
      | .gtu => y.toNat < x.toNat
      | .geu => y.toNat ≤ x.toNat
    (∃ e : View → Effect, s.Gives (.cmp n k a b c) n 4 e ∧ ∀ v, ∃ bit, e v = { mkb := [(k.toNat, bit)] } ∧
      (bit = true ↔ holds (v.src 0 a) (v.src 1 b))) ∧
    s.Gives (.fcmp n k a b f) n 4 (fun v =>
      let r := fCompare f (bitAt v.w.trec.flags 0) (v.src 0 a) (v.src 1 b)
      { mkb := [(k.toNat, r.val)], flags := r.flags }) ∧
    s.Gives (.mand n k j l) n 4 (fun v => { mkb := [(k.toNat, v.maskBit 0 j.toNat && v.maskBit 1 l.toNat)] }) ∧
    s.Gives (.mor n k j l) n 4 (fun v => { mkb := [(k.toNat, v.maskBit 0 j.toNat || v.maskBit 1 l.toNat)] }) ∧
    s.Gives (.mnot n k j) n 4 (fun v => { mkb := [(k.toNat, !v.maskBit 0 j.toNat)] }) ∧
    s.Gives (.mset n k a) n 4 (fun v => { mkb := [(k.toNat, bitAt (v.src 0 a) v.i)] }) ∧
    s.Gives (.mpop n d j) n 4 (fun v => result d (BitVec.ofNat 32 (lanesOf (v.w.maskSeen v.second j.toNat)).length)) ∧
    s.Gives (.mfirst n d j) n 4 (fun v =>
      result d (BitVec.ofNat 32 (laneList.takeWhile (fun i => !bitAt (v.mask 0 j.toNat) i)).length))

/-- Each float instruction of the lanes completes with the value and the flags of its function under the task's FLUSH bit,
and its flags are ORed into stk. On finite operands, read under FLUSH, fadd, fmul and ffma give the exact sum,
product, or product and sum, rounded once to nearest with ties to even, with the flags of the rounding; an exact zero
has the sign of the manual and no flag. Of the quotient num / den of a sign, nearest picks the closest integer and the
even one on a tie, zero the floor, up and down the ceiling or the floor by the sign. (R109, R111, R115, R116, R117,
R118, R161, R162, R164, R165, R166, R167.) -/
def Obligations.LaneFloats : Prop :=
  (∀ (s : State) (n : Stall) (d : Dst) (a b c : Src) (q : SfuFn) (v : BitVec 1) (r : Rnd) (t u : Fmt) (y : CodeType),
    s.Clear (srcRes a ++ srcRes b ++ srcRes c) →
    let flush := bitAt (s.warp s.cur.warp).trec.flags 0
    let one := fun (i : Instr) (f : Word → Flagged Word) => s.Gives i n 4 (fun w => flagged d (f (w.src 0 a)))
    let two := fun (i : Instr) (f : Word → Word → Flagged Word) => s.Gives i n 4 (fun w => flagged d (f (w.src 0 a) (w.src 1 b)))
    two (.fadd n d a b) (fAdd flush) ∧
    two (.fsub n d a b) (fun x z => fAdd flush x (z ^^^ 0x80000000)) ∧
    two (.fmul n d a b) (fMul flush) ∧
    two (.fmin n d a b) (fMinMax false flush) ∧
    two (.fmax n d a b) (fMinMax true flush) ∧
    s.Gives (.ffma n d a b c) n 4 (fun w => flagged d (fFma flush (w.src 0 a) (w.src 1 b) (w.src 2 c))) ∧
    one (.fsfu n d a q) (sfu q flush) ∧
    one (.fcvt n d a v r t u) (fConvert t u r (decide (v = 1)) flush) ∧
    two (.fq4 n d a b y) (fq4 y) ∧
    two (.fdq4 n d a b y) (fdq4 y)) ∧
  (∀ (flush : Bool) (a b c : Word), fpFinite a → fpFinite b → fpFinite c →
    let v := fpRead flush
    let zero := fun (neg : Bool) => (⟨if neg then 0x80000000 else 0, 0⟩ : Flagged Word)
    (v a + v b ≠ 0 → RoundsTo flush (v a + v b) (fAdd flush a b)) ∧
    (v a + v b = 0 → fAdd flush a b = zero (bitAt a 31 && bitAt b 31)) ∧
    (v a * v b ≠ 0 → RoundsTo flush (v a * v b) (fMul flush a b)) ∧
    (v a * v b = 0 → fMul flush a b = zero (bitAt a 31 != bitAt b 31)) ∧
    (v a * v b + v c ≠ 0 → RoundsTo flush (v a * v b + v c) (fFma flush a b c)) ∧
    (v a * v b + v c = 0 → fFma flush a b c = zero ((bitAt a 31 != bitAt b 31) && bitAt c 31))) ∧
  (∀ (neg : Bool) (num den : Nat), 0 < den →
    let k := fun m => roundInt m neg num den
    (2 * ((num : Int) - k .nearest * den).natAbs ≤ den ∧
      (2 * ((num : Int) - k .nearest * den).natAbs = den → k .nearest % 2 = 0)) ∧
    (k .zero * den ≤ num ∧ num < (k .zero + 1) * den) ∧
    (neg = false → num ≤ k .up * den ∧ k .up * den < num + den ∧ k .down = k .zero) ∧
    (neg = true → num ≤ k .down * den ∧ k .down * den < num + den ∧ k .up = k .zero))

/-- A NaN operand gives the canonical NaN; infinity times zero, and infinities of opposite signs in a sum, give it with
NV; ffma on infinity times zero sets NV even when c is a NaN; fmin and fmax take the operand that is no NaN. Of two
FP32 operands read under FLUSH, each relation of fcmp holds as the values stand, infinities outermost and the zeros
equal; with a NaN eq, the orderings and ord do not hold and ne and un do, and the orderings set NV. The conversions
that the manual works out, value and flags, and its examples of fq4, fdq4 and the special functions. (R109, R115,
R161, R164, R163, R116, R120, R165, R166, R167.) -/
def Obligations.FloatSpecialsAndConversions : Prop :=
  (∀ (flush : Bool) (a b c : Word),
    let nan := fun (x : Word) => x.toNat / 2 ^ 23 % 256 = 255 ∧ x.toNat % 2 ^ 23 ≠ 0
    let inf := fun (x : Word) => x = 0x7F800000 ∨ x = 0xFF800000
    let zero := fun (x : Word) => x = 0 ∨ x = 0x80000000
    let q : Flagged Word := ⟨0x7FC00000, 0⟩
    let bad : Flagged Word := ⟨0x7FC00000, fNV⟩
    (nan a ∨ nan b → fAdd flush a b = q ∧ fMul flush a b = q) ∧
    (inf a → inf b → fAdd flush a b = if a = b then ⟨a, 0⟩ else bad) ∧
    (inf a → zero b → fMul flush a b = bad ∧ fMul flush b a = bad ∧ fFma flush a b c = bad ∧ fFma flush b a c = bad) ∧
    (nan c → ¬(inf a ∧ zero b) → ¬(zero a ∧ inf b) → (flush = false) → fFma flush a b c = q) ∧
    (nan a → ¬nan b → flush = false → fMinMax false flush a b = ⟨b, 0⟩ ∧ fMinMax true flush a b = ⟨b, 0⟩) ∧
    (nan a → nan b → fMinMax false flush a b = q ∧ fMinMax true flush a b = q) ∧
    (nan a → ∀ f, sfu f flush a = q) ∧
    (zero a → sfu .rcp flush a = ⟨a ^^^ 0x7F800000, fDZ⟩ ∧ sfu .lg2 flush a = ⟨0xFF800000, fDZ⟩ ∧ sfu .ex2 flush a = ⟨0x3F800000, 0⟩ ∧
      sfu .rsq flush a = ⟨a ^^^ 0x7F800000, fDZ⟩ ∧ sfu .sin flush a = ⟨a, 0⟩ ∧ sfu .cos flush a = ⟨0x3F800000, 0⟩) ∧
    (inf a → sfu .sin flush a = bad ∧ sfu .cos flush a = bad ∧ sfu .rcp flush a = ⟨a &&& 0x80000000, 0⟩) ∧
    sfu .rsq flush 0x7F800000 = ⟨0, 0⟩ ∧ sfu .lg2 flush 0xBF800000 = bad ∧ sfu .rsq flush 0xBF800000 = bad) ∧
  (∀ (flush : Bool) (a b : Word),
    let un := fpNan a ∨ fpNan b
    let x := fpRead flush a
    let y := fpRead flush b
    let f := fun (c : FloatCond) => fCompare c flush a b
    ((f .eq).val = true ↔ ¬un ∧ x = y) ∧ ((f .ne).val = true ↔ un ∨ x ≠ y) ∧
    ((f .lt).val = true ↔ ¬un ∧ x < y) ∧ ((f .le).val = true ↔ ¬un ∧ x ≤ y) ∧
    ((f .gt).val = true ↔ ¬un ∧ y < x) ∧ ((f .ge).val = true ↔ ¬un ∧ y ≤ x) ∧
    ((f .un).val = true ↔ un) ∧ ((f .ord).val = true ↔ ¬un) ∧
    (∀ c ∈ [FloatCond.lt, .le, .gt, .ge], (un → (f c).flags = fNV) ∧ (¬un → (f c).flags = 0)) ∧
    (∀ c ∈ [FloatCond.eq, .ne, .un, .ord], (f c).flags = 0)) ∧
  (fConvert .e4m3 .fp32 .nearest false false 0x3E99999A = ⟨0x2A, fNX⟩ ∧
  fConvert .e4m3 .fp32 .zero false false 0x3E99999A = ⟨0x29, fNX⟩ ∧
  fConvert .e5m2 .fp32 .nearest false false 0x3E99999A = ⟨0x35, fNX⟩ ∧
  (∀ v, fConvert .e4m3 .fp32 .nearest v false 0x43E80000 = ⟨0x7E, fNX⟩) ∧
  fConvert .e4m3 .fp32 .nearest false false 0x43EB0000 = ⟨0x7E, fOF + fNX⟩ ∧
  fConvert .e4m3 .fp32 .nearest true false 0x43EB0000 = ⟨0x7F, fOF + fNX⟩ ∧
  fConvert .bf16 .fp32 .nearest false false 0x3F808000 = ⟨0x3F80, fNX⟩ ∧
  fConvert .bf16 .fp32 .up false false 0x3F808000 = ⟨0x3F81, fNX⟩ ∧
  fConvert .bf16 .fp32 .nearest false false 0x3F818000 = ⟨0x3F82, fNX⟩ ∧
  fConvert .e4m3 .fp32 .nearest false false 0x3AC00000 = ⟨0x01, fUF + fNX⟩ ∧
  fConvert .e4m3 .fp32 .nearest false false 0x3A000000 = ⟨0, fUF + fNX⟩ ∧
  fConvert .e5m2 .fp32 .nearest false false 0x7F800000 = ⟨0x7B, fOF + fNX⟩ ∧
  fConvert .e5m2 .fp32 .nearest true false 0x7F800000 = ⟨0x7C, 0⟩ ∧
  fConvert .int32 .fp32 .nearest false false 0xC0200000 = ⟨0xFFFFFFFE, fNX⟩ ∧
  fConvert .int32 .fp32 .down false false 0xC0200000 = ⟨0xFFFFFFFD, fNX⟩ ∧
  fConvert .int32 .fp32 .nearest false false 0x4F32D05E = ⟨0x7FFFFFFF, fNV⟩ ∧
  fConvert .int32 .fp32 .nearest false false 0x7FC00000 = ⟨0, fNV⟩ ∧
  fq4 .e2m1 0x3E4CCCCD 0xFFFFFFFC = ⟨5, fNX⟩ ∧
  fdq4 .e2m1 5 0xFFFFFFFC = ⟨0x3E400000, 0⟩)

/-- With no lane of the warp waiting, where the executing lanes are exactly the present lanes of the mask and each reads
its own bit so, the operation completes in each of them: shfl takes a lane's value where the lane named takes part and
its own otherwise, vote gives each the verdict over all, and wred the reduction by the fixed tree. Over any lanes,
every reduction is the top node of the tree of lanes 0 to 31, in which an absent node is skipped and each step is that
of the lane instruction: so for fadd, fmin and fmax under FLUSH. Over any lanes, add gives the sum modulo 2^32, and,
or and xor the bitwise results, the minima and maxima an extreme value of a lane; a lane alone gives its value; the
manual's example of fadd over four lanes gives 16,777,218 with NX. (R168, R169, R170, R171, R118, R121.) -/
def Obligations.WarpData : Prop :=
  (∀ (s : State) (n : Stall) (d : Dst) (a b : Src) (k : BitVec 4) (m : ShflMode) (p : WredOp),
    s.Calm → s.Clear (LRes.mk k.toNat :: srcRes a ++ srcRes b) →
    (∀ i, i ∈ s.execLanes ↔ i ∈ lanesOf ((s.warp s.cur.warp).maskSeen s.cur.second k.toNat &&& (s.warp s.cur.warp).live)) →
    (∀ i ∈ s.execLanes, (s.view i).maskBit 2 k.toNat = true) →
    let own := fun j => (s.view j).src 0 a
    s.Gives (.shfl n d a b m k) n 4 (fun v =>
      let x := (v.src 1 b).toNat
      let j : Int := match m with
        | .idx => x
        | .up => (v.i : Int) - x
        | .down => v.i + x
        | .xor => (BitVec.ofNat 32 v.i ^^^ v.src 1 b).toNat
      result d (own (if 0 ≤ j ∧ j.toNat ∈ s.execLanes then j.toNat else v.i))) ∧
    (∃ e, s.Gives (.vote n d a .all k) n 4 (fun _ => result d e) ∧
      (e = 0 ∨ e = 1) ∧ (e = 1 ↔ ∀ j ∈ s.execLanes, own j ≠ 0)) ∧
    (∃ e, s.Gives (.vote n d a .any k) n 4 (fun _ => result d e) ∧
      (e = 0 ∨ e = 1) ∧ (e = 1 ↔ ∃ j ∈ s.execLanes, own j ≠ 0)) ∧
    (∃ e, s.Gives (.vote n d a .uni k) n 4 (fun _ => result d e) ∧
      (e = 0 ∨ e = 1) ∧ (e = 1 ↔ ∀ i ∈ s.execLanes, ∀ j ∈ s.execLanes, own i = own j)) ∧
    s.Gives (.vote n d a .ballot k) n 4 (fun _ =>
      result d (maskOf (fun j => decide (j ∈ s.execLanes) && !decide (own j = 0)))) ∧
    s.Gives (.wred n d a p k) n 4 (fun v =>
      flagged d (treeReduce (wredStep p (bitAt v.w.trec.flags 0)) (s.execLanes.map (fun j => (j, own j)))))) ∧
  ((∀ (f : Nat → Word) (is : List Nat), is.Sublist laneList → is ≠ [] →
    let red := fun p => (treeReduce (wredStep p false) (is.map (fun j => (j, f j))))
    red .add = ⟨BitVec.ofNat 32 ((is.map (fun j => (f j).toNat)).sum), 0⟩ ∧
    (∀ k < 32, bitAt (red .and).val k = is.all (fun j => bitAt (f j) k)) ∧
    (∀ k < 32, bitAt (red .or).val k = is.any (fun j => bitAt (f j) k)) ∧
    (∀ k < 32, bitAt (red .xor).val k = decide ((is.filter (fun j => bitAt (f j) k)).length % 2 = 1)) ∧
    ((∃ j ∈ is, (red .mins).val = f j) ∧ ∀ j ∈ is, (red .mins).val.toInt ≤ (f j).toInt) ∧
    ((∃ j ∈ is, (red .maxs).val = f j) ∧ ∀ j ∈ is, (f j).toInt ≤ (red .maxs).val.toInt) ∧
    ((∃ j ∈ is, (red .minu).val = f j) ∧ ∀ j ∈ is, (red .minu).val.toNat ≤ (f j).toNat) ∧
    ((∃ j ∈ is, (red .maxu).val = f j) ∧ ∀ j ∈ is, (f j).toNat ≤ (red .maxu).val.toNat)) ∧
  (∀ (p : WredOp) (flush : Bool) (f : Nat → Word) (is : List Nat), is.Sublist laneList → is ≠ [] →
    some (treeReduce (wredStep p flush) (is.map (fun j => (j, f j)))) =
      treeNode (wredStep p flush) (fun j => if j ∈ is then some (f j) else none) 5 0) ∧
  (∀ (flush : Bool), wredStep .fadd flush = fAdd flush ∧ wredStep .fmin flush = fMinMax false flush ∧ wredStep .fmax flush = fMinMax true flush) ∧
  (∀ (p : WredOp) (flush : Bool) (i : Nat) (x : Word), i < 32 → treeReduce (wredStep p flush) [(i, x)] = ⟨x, 0⟩) ∧
  treeReduce (wredStep .fadd false) [(0, 0x3F800000), (1, 0x4B800000), (2, 0x3F800000), (3, 0x3F800000)] = ⟨0x4B800001, fNX⟩)

/-- rgn, wbk, both directions of mvm, xbnd, xset, ldx and stx complete: the registers named receive the values of the
others, a main register named twice the later one, and neither bounds nor the result history change but by xbnd and by
the forms with a result. No register written is locked, and an index lies within the bounds. Where a handler is set:
wbk, mvm and stx on a locked main register, and ldx and stx outside the bounds, trap with code 0x04 in those lanes
with nothing written there, and complete in the others;  with gap checking on, where every executing lane reads a
register or mask within its gap, each instruction that acts within its warp traps in them with code 0x03, and so does
ldx where its index register is within its gap; where only some lanes of an add do, those alone trap. (R32, R172,
R173, R174, R175, R176, R177, R68, R75, R446, R447, R479.) -/
def Obligations.RegisterRegionsAndTraps : Prop :=
  (∀ (s : State) (n : Stall) (d : Dst) (a : Src) (k : BitVec 4) (c x : BitVec 2) (j3 j2 j1 j0 m h l : BitVec 7) (im : BitVec 11),
    let js := [j0.toNat, j1.toNat, j2.toNat, j3.toNat].take (c.toNat + 1)
    let index := fun (v : View) => (v.src 0 (.x x)).toInt + im.toInt
    (s.Clear (js.map LRes.m) → s.Gives (.rgn n k c j3 j2 j1 j0) n 8 (fun v =>
      { o := js.zipIdx.map (fun p => (k.toNat + p.2, v.main p.2 p.1)) })) ∧
    (s.Clear (js.zipIdx.map (fun p => LRes.o (k.toNat + p.2))) →
      (∀ i ∈ s.execLanes, ∀ j ∈ js, ((s.warp s.cur.warp).lane i).locked j = false) →
      s.Gives (.wbk n k c j3 j2 j1 j0) n 8 (fun v =>
        { m := (js.zipIdx.map (fun p => (p.1, v.oreg p.2 (k.toNat + p.2)))).reverse })) ∧
    (s.Clear [LRes.m m.toNat] → s.Gives (.mvmFromMain n d m) n 4 (fun v => result d (v.main 0 m.toNat))) ∧
    (s.Clear (srcRes a) → (∀ i ∈ s.execLanes, ((s.warp s.cur.warp).lane i).locked m.toNat = false) →
      s.Gives (.mvmToMain n a m) n 4 (fun v => { m := [(m.toNat, v.src 0 a)] })) ∧
    (s.Clear [] → s.Moves (.xbnd n h l) (fun _ q q' => ∃ q1, q.Went q1 n (q.pc + 8) ∧ q' = { q1 with lo := l.toNat, hi := h.toNat })) ∧
    (s.Clear (srcRes a) → s.Gives (.xset n x a im) n 4 (fun v =>
      { x := [(x.toNat, BitVec.ofInt 32 ((v.src 0 a).toNat + im.toInt))] })) ∧
    ((∀ i ∈ s.execLanes, ((s.view i).ln.lo : Int) ≤ index (s.view i) ∧ index (s.view i) ≤ ((s.view i).ln.hi : Int)) →
      (s.ClearBy (fun v => [LRes.x x.toNat, LRes.m (index v).toNat]) →
        s.Gives (.ldx n d x im) n 4 (fun v => result d (v.main 1 (index v).toNat))) ∧
      (s.Clear (LRes.x x.toNat :: srcRes a) →
        (∀ i ∈ s.execLanes, ((s.warp s.cur.warp).lane i).locked (index (s.view i)).toNat = false) →
        s.Gives (.stx n a x im) n 4 (fun v => { m := [((index v).toNat, v.src 1 a)] })))) ∧
  (∀ (s : State) (n : Stall) (d : Dst) (a b : Src) (k : BitVec 4) (c x : BitVec 2) (j3 j2 j1 j0 m : BitVec 7) (im : BitVec 11),
    s.Handled → s.Calm → s.glitch = none →
    let js := [j0.toNat, j1.toNat, j2.toNat, j3.toNat].take (c.toNat + 1)
    let index := fun (v : View) => (v.src 0 (.x x)).toInt + im.toInt
    let out := fun (v : View) => index v < v.ln.lo ∨ (v.ln.hi : Int) < index v
    (s.Clear (js.zipIdx.map (fun p => LRes.o (k.toNat + p.2))) → s.Splits (.wbk n k c j3 j2 j1 j0) n 8
      (fun v => { m := (js.zipIdx.map (fun p => (p.1, v.oreg p.2 (k.toNat + p.2)))).reverse })
      (fun v => if js.any v.ln.locked then some (0x04, 0, v.ln.pc) else none)) ∧
    (s.Clear (srcRes a) → s.Splits (.mvmToMain n a m) n 4 (fun v => { m := [(m.toNat, v.src 0 a)] })
      (fun v => if v.ln.locked m.toNat then some (0x04, 0, v.ln.pc) else none)) ∧
    (s.ClearBy (fun v => [LRes.x x.toNat, LRes.m (index v).toNat]) → s.Splits (.ldx n d x im) n 4
      (fun v => result d (v.main 1 (index v).toNat)) (fun v => if out v then some (0x04, 0, v.ln.pc) else none)) ∧
    (s.Clear (LRes.x x.toNat :: srcRes a) → s.Splits (.stx n a x im) n 4 (fun v => { m := [((index v).toNat, v.src 1 a)] })
      (fun v => if out v ∨ v.ln.locked (index v).toNat then some (0x04, 0, v.ln.pc) else none)) ∧
    (∀ i : Instr, (s.warp s.cur.warp).seenChk s.cur.second = true → withinWarp i = true →
      (∀ j ∈ s.execLanes, ∃ r ∈ laneSources (s.view j).ln i ++ maskSources i, (pendOf (s.view j).ln.pend r).isSome = true) → s.execLanes ≠ [] →
      s.Splits i n 4 (fun _ => {}) (fun v => some (0x03, 0, v.ln.pc))) ∧
    ((s.warp s.cur.warp).seenChk s.cur.second = true →
      (∀ j ∈ s.execLanes, (pendOf (s.view j).ln.pend (.x x.toNat)).isSome = true) → s.Splits (.ldx n d x im) n 4
      (fun _ => {}) (fun v => some (0x03, 0, v.ln.pc))) ∧
    ((s.warp s.cur.warp).seenChk s.cur.second = true → s.Splits (.add n d a b) n 4
      (fun v => result d (BitVec.ofNat 32 ((v.src 0 a).toNat + (v.src 1 b).toNat)))
      (fun v => if (srcRes a ++ srcRes b).any (fun r => (pendOf v.ln.pend r).isSome) then some (0x03, 0, v.ln.pc) else none)))

/-- bra, brc and brx send each executing lane to its target modulo 2^56 and nop to the next word; call puts the return
address on top of the lane's entries, the oldest beyond eight moving to the main file from m127 downward, and ret
takes the latest entry; yld opens a window of 32 cycles where the launch keeps the progress promise. Where a handler
is set, a call by a lane that holds 16 entries and a ret by a lane that holds none trap with code 0x04 and leave PC
and stack unchanged for the resume; ucall with 8 entries and uret with none trap every live lane so. (R31, R32, R378,
R380, R381, R382, R383, R387, R368, R369, R385, R446.) -/
def Obligations.LaneBranches : Prop :=
  (∀ (s : State) (n : Stall) (a : Src) (k : BitVec 4) (e : BitVec 1) (o : BitVec 21) (p : BitVec 16), 
    let dest := fun (l : Lane) (x : Int) => BitVec.ofInt 56 (l.pc.toNat + 4 * x)
    let went := fun (l l' : Lane) (pc : Addr) =>
      l' = { l with pc := pc, m := l'.m, rstk := l'.rstk, spill := l'.spill, pend := l'.pend, wait := .none,
                    stallLeft := n.toNat + 1, waitCnt := 0, failed := [] }
    (s.Clear [] → s.Moves (.bra n o) (fun _ l l' => l.Went l' n (dest l o.toInt))) ∧
    (s.Clear [LRes.mk k.toNat] → s.Moves (.brc n e k p) (fun v l l' =>
      l.Went l' n (if v.waited.maskBit 0 k.toNat = decide (e = 1) then dest l p.toInt else l.pc + 4))) ∧
    (s.Clear (srcRes a) → s.Moves (.brx n a) (fun v l l' => l.Went l' n (dest l (v.waited.src 0 a).toInt))) ∧
    (s.Clear [] → s.Moves (.nop n) (fun _ l l' => l.Went l' n (l.pc + 4))) ∧
    (s.Clear [] → s.Moves (.yld n) (fun _ l l' => ∃ l1, l.Went l1 n (l.pc + 4) ∧
      l' = { l1 with yieldLeft := if (s.launch (s.warp s.cur.warp).lid).noprog then l.yieldLeft else 33 })) ∧
    (s.Clear [] → (∀ i ∈ s.execLanes, ((s.warp s.cur.warp).lane i).rstk.length ≤ 8 ∧
        ((s.warp s.cur.warp).lane i).rstk.length + ((s.warp s.cur.warp).lane i).spill.length < 16 ∧
        ((s.warp s.cur.warp).lane i).spill.length ≤ 8) →
      s.Moves (.call n o) (fun _ l l' => went l l' (dest l o.toInt) ∧
        l'.rstk ++ l'.spill = (l.pc + 4) :: (l.rstk ++ l.spill) ∧ l'.rstk.length ≤ 8 ∧
        l'.spill.length = l.spill.length + (if l.rstk.length = 8 then 1 else 0) ∧
        ∀ j, j + l'.spill.length < 128 → l'.m.get 0 j = l.m.get 0 j)) ∧
    (s.Clear [] → (∀ i ∈ s.execLanes, ((s.warp s.cur.warp).lane i).rstk ++ ((s.warp s.cur.warp).lane i).spill ≠ []) →
      s.Moves (.ret n) (fun _ l l' => ∃ pc, went l l' pc ∧ l.rstk ++ l.spill = pc :: (l'.rstk ++ l'.spill) ∧ l'.m = l.m))) ∧
  (∀ (s : State) (n : Stall) (o : BitVec 21), s.Handled →
    (s.Calm → s.Clear [] → (∀ i ∈ s.execLanes, ((s.warp s.cur.warp).lane i).rstk.length = 8 ∧ ((s.warp s.cur.warp).lane i).spill.length = 8) →
      s.Splits (.call n o) n 4 (fun _ => {}) (fun v => some (0x04, 0, v.ln.pc))) ∧
    (s.Calm → s.Clear [] → (∀ i ∈ s.execLanes, ((s.warp s.cur.warp).lane i).rstk = [] ∧ ((s.warp s.cur.warp).lane i).spill = []) →
      s.Splits (.ret n) n 4 (fun _ => {}) (fun v => some (0x04, 0, v.ln.pc))) ∧
    (s.StrandClear [] → (s.warp s.cur.warp).live ≠ 0 →
      ((s.warp s.cur.warp).ustk.length = 8 → s.StrandTraps (.ucall n o) 0x04) ∧
      ((s.warp s.cur.warp).ustk = [] → s.StrandTraps (.uret n) 0x04)))

/-- With no lane of the warp waiting, exit makes each executing lane exited and vac makes it vacant with no return
entries; their other registers and every mask keep their values. vac in a task without an item queue traps with code
0x01. With no lane of the warp waiting and every executing lane in the mask: where the executing lanes are the present
lanes of the mask, mjoin and mwait complete at once and change nothing but PCs; where a present lane of the mask is
not among them, they wait at the instruction; mleave clears their bits of the mask. An executing lane outside the mask
traps with code 0x06. Where every live lane of the warp is in the mask and executes the mjoin or waits at one of its
mask, all at one address, the join completes and makes the warp converged: the strand and every live lane go on at the
next word. (R33, R386, R395, R32, R37, R390, R391, R392, R393, R394, R85, R446.) -/
def Obligations.SharedLeavingAndJoining : Prop :=
  (∀ (s : State) (n : Stall), s.Calm → s.Clear [] →
    s.Moves (.exit n) (fun _ l l' => ∃ l1, l.Went l1 n (l.pc + 4) ∧ l' = { l1 with st := .exited }) ∧
    ((s.warp s.cur.warp).trec.itemq ≠ 0 →
      s.Moves (.vac n) (fun _ l l' => ∃ l1, l.Went l1 n (l.pc + 4) ∧ l' = { l1 with st := .vacant, rstk := [], spill := [] })) ∧
    ((s.warp s.cur.warp).trec.itemq = 0 → s.Handled →
      s.Splits (.vac n) n 4 (fun _ => {}) (fun v => some (0x01, 0, v.ln.pc)))) ∧
  (∀ (s : State) (n : Stall) (k : BitVec 4), s.Clear [LRes.mk k.toNat] → k.toNat < 12 →
    (∀ p : Addr, s.execLanes ≠ [] → (∀ i ∈ s.execLanes, (s.view i).maskBit 0 k.toNat = true) →
      (∀ i ∈ lanesOf (s.warp s.cur.warp).live, ((s.warp s.cur.warp).lane i).pc = p ∧ bitAt ((s.warp s.cur.warp).mask k.toNat) i = true ∧
        (i ∈ s.execLanes ∨ ((s.warp s.cur.warp).lane i).wait = .join k.toNat)) →
      ∃ t, exec (.mjoin n k) s = .next t ∧ t = { s with warps := t.warps, glitch := none } ∧ (∀ j, j ≠ s.cur.warp → t.warp j = s.warp j) ∧
        (t.warp s.cur.warp).converged = true ∧ (t.warp s.cur.warp).spc = p + 4 ∧ (t.warp s.cur.warp).live = (s.warp s.cur.warp).live ∧
        ∀ i ∈ lanesOf (s.warp s.cur.warp).live, ((t.warp s.cur.warp).lane i).pc = p + 4 ∧ ((t.warp s.cur.warp).lane i).wait = .none) ∧
    (s.Calm →
    let inside := ∀ i ∈ s.execLanes, (s.view i).maskBit 0 k.toNat = true
    let here := ∀ i ∈ lanesOf ((s.warp s.cur.warp).mask k.toNat &&& (s.warp s.cur.warp).live), i ∈ s.execLanes
    let stays := fun (w : LaneWait) (l l' : Lane) => ∃ l1, l.Went l1 n l.pc ∧ l' = { l1 with wait := w }
    (inside → here → s.cur.second = false → s.execLanes ≠ [] →
      (∀ i ∈ s.execLanes, bitAt ((s.warp s.cur.warp).mask k.toNat) i = true) →
      s.Moves (.mjoin n k) (fun _ l l' => l.Went l' n (l.pc + 4)) ∧ s.Moves (.mwait n k) (fun _ l l' => l.Went l' n (l.pc + 4))) ∧
    (inside → ¬here →
      s.Moves (.mjoin n k) (fun _ => stays (.join k.toNat)) ∧ s.Moves (.mwait n k) (fun _ => stays (.meet k.toNat))) ∧
    (inside → s.Gives (.mleave n k) n 4 (fun _ => { mkb := [(k.toNat, false)] })) ∧
    ((∀ i ∈ s.execLanes, (s.view i).maskBit 0 k.toNat = false) → s.Handled → ∀ q ∈ [Instr.mjoin n k, .mwait n k, .mleave n k],
      s.Splits q n 4 (fun _ => {}) (fun v => some (0x06, 0, v.ln.pc)))))

/-- Where a handler is set, trap and brk send every executing lane into it with code 0x12 or 0x11, the argument, the
address of the next word, and the mask of the lanes that enter together; tret clears the mark and resumes at trap.pc.
A tret outside the handler traps with code 0x01. (R446, R447, R479, R483, R485.) -/
def Obligations.SoftTraps : Prop :=
  ∀ (s : State) (n : Stall) (g : BitVec 8), s.Clear [] → s.Calm →
    (s.Handled →
      s.Splits (.trap n g) n 4 (fun _ => {}) (fun v => some (0x12, g.toNat, v.ln.pc + 4)) ∧
      s.Splits (.brk n g) n 4 (fun _ => {}) (fun v => some (0x11, g.toNat, v.ln.pc + 4))) ∧
    ((∀ i ∈ s.execLanes, ((s.warp s.cur.warp).lane i).inH = true) →
      ∃ t, exec (.tret n) s = .next (t.resumeHeld s.cur.warp) ∧ s.Moved t (fun _ l l' =>
        ∃ l1, l.Went l1 n (l.trapPc.setWidth 56) ∧ l' = { l1 with inH := false })) ∧
    (s.Handled → ∃ t, exec (.tret n) s = .next (t.resumeHeld s.cur.warp) ∧
      s.Split t n 4 (fun _ => {}) (fun v => some (0x01, 0, v.ln.pc)))

/-- Where sys.tvec is 0, or an executing lane is already in the handler, a trap or brk ends its running launch: the fault
record names the trap and says whether it was nested, and every task of the launch leaves its slot. (R449, R460,
R483.) -/
def Obligations.FatalTrap : Prop :=
  ∀ (s : State) (n : Stall) (g : BitVec 8) (l : Launch),
    s.Clear [] → s.execLanes ≠ [] → s.launch? (s.warp s.cur.warp).lid = some l → l.st ≠ .ended →
    let nested := s.execLanes.any (fun i => ((s.warp s.cur.warp).lane i).inH)
    ((s.warp s.cur.warp).tvec = 0 ∨ nested = true) →
    ∀ q ∈ [(Instr.trap n g, 0x12), (Instr.brk n g, 0x11)], ∃ t f, exec q.1 s = .next t ∧
      t.launch? (s.warp s.cur.warp).lid = some { l with st := .ended, fault := some f } ∧
      f.code = 0x09 ∧ f.trap = q.2 ∧ f.nest = nested ∧ f.task = (s.warp s.cur.warp).taskId ∧ f.lanes = maskOf (fun i => decide (i ∈ s.execLanes)) ∧
      ∀ k, (s.warp k).resident = true → (s.warp k).lid = (s.warp s.cur.warp).lid → t.warp k = Warp.dflt

/-- Each uniform arithmetic instruction on two s-registers completes: the strand writes s[d] with the result of the table,
every live lane goes on with it at the next word, and nothing else changes. The immediate forms complete with the
sign-extended 9-bit immediate or the shift amount as the second operand; smovi writes a 9-bit or 32-bit value sign-
extended, or the two extension words, low half first. (R178, R179, R69, R384, R180, R66, R83.) -/
def Obligations.StrandArithmetic : Prop :=
  (∀ (s : State) (n : Stall) (d a b c : BitVec 6), s.StrandClear [a.toNat, b.toNat, c.toNat] →
    let r := fun (k : Nat) (x : BitVec 6) => s.sval s.cur.warp k x.toNat
    let x := r 0 a
    let y := r 1 b
    let gives := fun (i : Instr) (v : Word64) => s.StrandGives i n 4 { s := [(d.toNat, v)] }
    let nat := fun (z : Nat) => BitVec.ofNat 64 z
    let int := fun (z : Int) => BitVec.ofInt 64 z
    let flag := fun (p : Bool) => if p then (1 : Word64) else 0
    gives (.sadd n d a b) (nat (x.toNat + y.toNat)) ∧
    gives (.ssub n d a b) (int ((x.toNat : Int) - y.toNat)) ∧
    gives (.smul n d a b) (nat (x.toNat * y.toNat)) ∧
    gives (.sand n d a b) (x &&& y) ∧
    gives (.sor n d a b) (x ||| y) ∧
    gives (.sxor n d a b) (x ^^^ y) ∧
    gives (.smin n d a b) (if x.toInt ≤ y.toInt then x else y) ∧
    gives (.smax n d a b) (if x.toInt ≤ y.toInt then y else x) ∧
    gives (.sminU n d a b) (if x.toNat ≤ y.toNat then x else y) ∧
    gives (.smaxU n d a b) (if x.toNat ≤ y.toNat then y else x) ∧
    gives (.sshl n d a b) (nat (x.toNat * 2 ^ (y.toNat % 64))) ∧
    gives (.sshr n d a b) (nat (x.toNat / 2 ^ (y.toNat % 64))) ∧
    gives (.ssar n d a b) (int (x.toInt / 2 ^ (y.toNat % 64))) ∧
    gives (.smov n d a) x ∧
    gives (.scmp n d a b .eq) (flag (decide (x = y))) ∧
    gives (.scmp n d a b .ne) (flag (decide (x ≠ y))) ∧
    gives (.scmp n d a b .lt) (flag (decide (x.toInt < y.toInt))) ∧
    gives (.scmp n d a b .le) (flag (decide (x.toInt ≤ y.toInt))) ∧
    gives (.scmp n d a b .ltu) (flag (decide (x.toNat < y.toNat))) ∧
    gives (.scmp n d a b .leu) (flag (decide (x.toNat ≤ y.toNat))) ∧
    s.StrandGives (.ssel n d a b c) n 8 { s := [(d.toNat, if r 2 c ≠ 0 then x else y)] }) ∧
  (∀ (s : State) (n : Stall) (d a p : BitVec 6) (im : BitVec 9) (lo hi : BitVec 32), s.StrandClear [a.toNat] →
    let x := s.sval s.cur.warp 0 a.toNat
    let y : Word64 := BitVec.ofInt 64 im.toInt
    let gives := fun (i : Instr) (v : Word64) => s.StrandGives i n 4 { s := [(d.toNat, v)] }
    gives (.saddImm n d a im) (BitVec.ofInt 64 (x.toNat + im.toInt)) ∧
    gives (.smulImm n d a im) (BitVec.ofInt 64 (x.toNat * im.toInt)) ∧
    gives (.sandImm n d a im) (x &&& y) ∧
    gives (.sorImm n d a im) (x ||| y) ∧
    gives (.sxorImm n d a im) (x ^^^ y) ∧
    gives (.sminImm n d a im) (if x.toInt ≤ im.toInt then x else y) ∧
    gives (.smaxImm n d a im) (if x.toInt ≤ im.toInt then y else x) ∧
    gives (.sshlImm n d a p) (BitVec.ofNat 64 (x.toNat * 2 ^ p.toNat)) ∧
    gives (.sshrImm n d a p) (BitVec.ofNat 64 (x.toNat / 2 ^ p.toNat)) ∧
    gives (.ssarImm n d a p) (BitVec.ofInt 64 (x.toInt / 2 ^ p.toNat)) ∧
    gives (.smovi n d im) y ∧
    s.StrandGives (.smovi32 n d lo) n 8 { s := [(d.toNat, BitVec.ofInt 64 lo.toInt)] } ∧
    s.StrandGives (.smovi64 n d lo hi) n 12 { s := [(d.toNat, BitVec.ofNat 64 (hi.toNat * 2 ^ 32 + lo.toNat))] })

/-- ubra, ubrc, ucall and uret move the strand and every live lane of a converged warp; ucall pushes the next address
while fewer than 8 are held, and uret pops the latest. (R378, R384, R385.) -/
def Obligations.StrandBranches : Prop :=
  ∀ (s : State) (n : Stall) (o : BitVec 21) (c : BitVec 6) (e : BitVec 1) (p : BitVec 14), s.StrandClear [c.toNat] →
    let w := s.warp s.cur.warp
    let dest := fun (x : Int) => BitVec.ofInt 56 (w.spc.toNat + 4 * x)
    s.StrandGives (.ubra n o) n 4 { pc := some (dest o.toInt) } ∧
    s.StrandGives (.ubrc n c e p) n 4 { pc := if (w.sreg c.toNat ≠ 0 ↔ e = 1) then some (dest p.toInt) else none } ∧
    (w.ustk.length < 8 → s.StrandGives (.ucall n o) n 4 { pc := some (dest o.toInt), ustk := some ((w.spc + 4) :: w.ustk) }) ∧
    (∀ x r, w.ustk = x :: r → s.StrandGives (.uret n) n 4 { pc := some x, ustk := some r })

/-- After lanes of a converged warp have moved, it stays converged with the strand at their PC where every live lane is at
one address, and diverges otherwise. Where a group of a diverged warp reaches a word of the U-set, whatever that word
is, the step does not execute it: with a handler set, the lanes that reached it trap with code 0x02 at it, and the
warp is otherwise as the beginning of the issue left it. The model's choices, by entry of its assumption log: the
agenda and the order between agents (log entries 1, 5). (R36, R38, R379, R446, R447.) -/
def Obligations.Divergence : Prop :=
  (∀ (w : Warp) (p : Addr), w.converged = true → w.live ≠ 0 →
    ((∀ i ∈ lanesOf w.live, (w.lane i).pc = p) → w.settle = { w with spc := p, dq := if p = w.spc then w.dq else [] }) ∧
    ((∃ i ∈ lanesOf w.live, ∃ j ∈ lanesOf w.live, (w.lane i).pc ≠ (w.lane j).pc) → w.settle = { w with converged := false, dq := [] })) ∧
  (∀ (s t : State) (m : Master) (failed : List (Nat × Nat)) (pc : Addr) (x : Word), s.fetchWord m failed pc = (t, .word x) → bitAt x 31 = true →
    s.fetch m failed pc false = (t, .uset)) ∧
  (∀ (s t : State) (h : Happening) (who : Actor) (r rest : List Happening) (n : Stall),
    s.agenda = h :: r → firstOf h r = ({ who := who, what := none }, rest) →
    let s1 : State := { ({ s with agenda := rest } : State).countCorrected with tick := s.tick + 1 }.syncAll.interlock
    let group := s1.issuers who
    let w := s1.warp who.warp
    group ≠ 0 → w.converged = false →
    s1.fetch (s1.strandMaster who.warp) (w.fetchFailed group) (w.groupPc group) false = (t, .uset) →
    let s2 := t.beginIssue who group false
    s2.Handled → s2.glitch = none →
    ∃ u, s2.Split u n 4 (fun _ => {}) (fun v => some (0x02, 0, v.ln.pc)) ∧
      step s = .next (u.reckon.rouse s1 (some (coreOf who.warp)))) ∧
  (∀ (s : State) (n : Stall) (d a b : BitVec 6), s.Handled → s.glitch = none → (s.warp s.cur.warp).converged = false →
    s.Splits (.sadd n d a b) n 4 (fun _ => {}) (fun v => some (0x02, 0, v.ln.pc)))

/-- For each special register of the table, a lane's rdsr of its number gives the low 32 bits and latches the high half of
a 64-bit register, and an rdsr of the second number gives the latch; the strand's rdsr gives all 64 bits, or the high
half, a lane copy being that of the lowest live lane. win.g0 to win.g3 give the offset of the window of the core-bound
group that the slot names, 0xFFFFFFFF where it names none; dlm the sums over all channels of the missed deadlines of
the cluster's requests, of its lanes below and of its copy engine above, each saturating. The second group of a pair
reads chk, stk and sys.tvec as they were before the pair. A number that names no register traps with code 0x01.
Exactly the numbers of the table name a special register. (R473, R474, R475, R477, R478, R479, R480, R481, R482,
R248.) -/
def Obligations.SpecialRegisterReading : Prop :=
  (∀ (s : State) (n : Stall) (d : Dst) (e : BitVec 6),
    let w := s.warp s.cur.warp
    let c := s.cur.warp / 16
    let win := fun (k : Nat) => BitVec.ofNat 64 (s.winOffset s.cur.warp k)
    let missed := fun (id : Nat) => min 0xFFFFFFFF ((List.range 12).flatMap (fun k => (List.range 64).map (fun h => s.missCount k h id))).sum
    let regs : List (Nat × Bool × (Lane → Word64)) :=
      [(0x000, true, fun _ => (s.core c).cyc), (0x008, false, fun _ => if w.seenChk s.cur.second then 1 else 0), (0x010, false, fun _ => (w.seenStk s.cur.second).setWidth 64),
       (0x018, true, fun _ => w.mrow), (0x020, true, fun _ => w.q7st), (0x040, true, fun _ => w.seenTvec s.cur.second),
       (0x048, false, fun l => l.trapCode.setWidth 64), (0x049, true, fun l => l.trapPc), (0x04B, false, fun l => l.trapMask.setWidth 64),
       (0x050, true, fun l => l.errSyn), (0x052, false, fun l => l.errUnit.setWidth 64), (0x053, false, fun l => l.errTr.setWidth 64),
       (0x054, false, fun l => l.errTc.setWidth 64), (0x080, false, fun _ => BitVec.ofNat 64 w.taskId),
       (0x081, false, fun _ => BitVec.ofNat 64 w.lid), (0x082, false, fun _ => BitVec.ofNat 64 (c % 16)),
       (0x083, false, fun _ => BitVec.ofNat 64 (c / 16 % 64)), (0x084, false, fun _ => BitVec.ofNat 64 (c / 1024)),
       (0x088, false, fun _ => win 0), (0x089, false, fun _ => win 1), (0x08A, false, fun _ => win 2), (0x08B, false, fun _ => win 3),
       (0x090, true, fun _ => BitVec.ofNat 64 (missed (128 + c / 16) * 2 ^ 32 + missed (c / 16)))]
    let word := fun (x : Word64) => BitVec.ofNat 32 x.toNat
    let high := fun (x : Word64) => BitVec.ofNat 32 (x.toNat / 2 ^ 32)
    (s.Clear [] → ∀ p ∈ regs,
      s.Moves (.rdsr n d (BitVec.ofNat 10 p.1)) (fun _ l l' => ∃ l1, l.Becomes l1 n 4 (result d (word (p.2.2 l))) ∧
        l' = { l1 with latch := if p.2.1 then some (high (p.2.2 l)) else l.latch }) ∧
      (p.2.1 = true → s.Gives (.rdsr n d (BitVec.ofNat 10 (p.1 + 1))) n 4 (fun v =>
        result d (v.ln.latch.getD (high (p.2.2 v.ln)))))) ∧
    (s.StrandClear [] → ∀ p ∈ regs, ∀ i, (lanesOf w.live).head? = some i →
      s.StrandGives (.rdsrUniform n e (BitVec.ofNat 10 p.1)) n 4 { s := [(e.toNat, p.2.2 (w.lane i))] } ∧
      (p.2.1 = true → s.StrandGives (.rdsrUniform n e (BitVec.ofNat 10 (p.1 + 1))) n 4
        { s := [(e.toNat, BitVec.ofNat 64 ((p.2.2 (w.lane i)).toNat / 2 ^ 32))] })) ∧
    (∀ k, (∀ g, w.trec.group? k = some g → ((s.launch w.lid).group g).place ≠ 1) → s.winOffset s.cur.warp k = 0xFFFFFFFF) ∧
    (∀ k g v, w.trec.group? k = some g → ((s.launch w.lid).group g).place = 1 → v.lid = w.lid → v.grp = g → (s.core c).wins = [v] →
      s.winOffset s.cur.warp k = v.off) ∧
    (∀ r : BitVec 10, spReg r.toNat = none → s.Handled →
      (s.Calm → s.Clear [] → s.Splits (.rdsr n d r) n 4 (fun _ => {}) (fun v => some (0x01, 0, v.ln.pc))) ∧
      (s.StrandClear [] → w.live ≠ 0 → s.StrandTraps (.rdsrUniform n e r) 0x01))) ∧
  (∀ r : BitVec 10, (spReg r.toNat).isSome =
    ([0x000, 0x001, 0x008, 0x010, 0x018, 0x019, 0x020, 0x021, 0x040, 0x041, 0x048, 0x049, 0x04A, 0x04B, 0x050, 0x051, 0x052, 0x053,
      0x054, 0x080, 0x081, 0x082, 0x083, 0x084, 0x088, 0x089, 0x08A, 0x08B, 0x090, 0x091] : List Nat).contains r.toNat)

/-- A lane wrsr writes stk, chk and a half of sys.tvec from the highest executing lane and a half of trap.pc in each
executing lane; the strand's writes all 64 bits, or a half, trap.pc in every live lane. Reserved bits read 0, chk is
fixed where the launch checks, and a write to a read-only register changes nothing but the PC. (R474, R475, R477,
R478, R482.) -/
def Obligations.SpecialRegisterWrites : Prop :=
  ∀ (s : State) (n : Stall) (a : Src) (e : BitVec 6),
    let w := s.warp s.cur.warp
    let pc64 : Word64 := 0x00FFFFFFFFFFFFFC
    let low := fun (old : Word64) (v : Word) => BitVec.ofNat 64 (old.toNat / 2 ^ 32 * 2 ^ 32 + v.toNat)
    let high := fun (old : Word64) (v : Word) => BitVec.ofNat 64 (v.toNat * 2 ^ 32 + old.toNat % 2 ^ 32)
    let checks := (s.launch w.lid).check
    let lanes := fun (r : BitVec 10) (f : Warp → Warp) => ∃ t, s.Moved t (fun _ l l' => l.Went l' n (l.pc + 4)) ∧
      exec (.wrsr n a r) s = .next (t.updWarp s.cur.warp f)
    let strand := fun (r : BitVec 10) (f : Warp → Warp) => ∃ t, s.StrandOnly t n 4 {} ∧
      exec (.wrsrUniform n e r) s = .next (t.updWarp s.cur.warp f)
    (s.Clear (srcRes a) → ∀ j, s.execLanes.getLast? = some j →
      let v := (s.view j).src 0 a
      lanes 0x010 (fun x => { x with stk := v &&& 0x7FF }) ∧
      lanes 0x008 (fun x => { x with chk := if checks then x.chk else bitAt v 0 }) ∧
      lanes 0x040 (fun x => { x with tvec := low w.tvec v &&& pc64 }) ∧
      lanes 0x041 (fun x => { x with tvec := high w.tvec v &&& pc64 }) ∧
      s.Moves (.wrsr n a 0x049) (fun u l l' => ∃ l1, l.Went l1 n (l.pc + 4) ∧ l' = { l1 with trapPc := low l.trapPc (u.src 0 a) &&& pc64 }) ∧
      s.Moves (.wrsr n a 0x04A) (fun u l l' => ∃ l1, l.Went l1 n (l.pc + 4) ∧ l' = { l1 with trapPc := high l.trapPc (u.src 0 a) &&& pc64 })) ∧
    (s.Clear (srcRes a) → ∀ r ∈ [0x000, 0x001, 0x018, 0x019, 0x020, 0x021, 0x048, 0x04B, 0x050, 0x051, 0x052, 0x053, 0x054, 0x080, 0x081,
        0x082, 0x083, 0x084, 0x088, 0x089, 0x08A, 0x08B, 0x090, 0x091],
      s.Moves (.wrsr n a r) (fun _ l l' => l.Went l' n (l.pc + 4))) ∧
    (s.StrandClear [e.toNat] →
      let v := s.sval s.cur.warp 0 e.toNat
      strand 0x010 (fun x => { x with stk := BitVec.ofNat 32 v.toNat &&& 0x7FF }) ∧
      strand 0x008 (fun x => { x with chk := if checks then x.chk else bitAt v 0 }) ∧
      strand 0x040 (fun x => { x with tvec := v &&& pc64 }) ∧
      strand 0x041 (fun x => { x with tvec := high w.tvec (BitVec.ofNat 32 v.toNat) &&& pc64 }) ∧
      (∃ t, exec (.wrsrUniform n e 0x049) s = .next t ∧ t = { s with warps := t.warps } ∧
        ∀ i ∈ lanesOf w.live, (t.warp s.cur.warp).lane i = { w.lane i with pc := w.spc + 4, trapPc := v &&& pc64 }))

/-- Where L1 of the core holds the line of every executing lane and no red of a lane to its bytes is outstanding, a plain
ld of any width completes: each lane receives the bytes of its line at its effective address, little-endian, in its
registers, and nothing else changes but which unseen bytes it knows of. The model's choices, by entry of its
assumption log: a line that L1 holds is read there whatever CACHE holds (log entry 77); who knows of unseen bytes (log
entry 35). (R253, R310, R313, R314.) -/
def Obligations.LoadsFromL1 : Prop :=
  ∀ (s : State) (n : Stall) (d : Dst) (a : Src) (w : Width) (x : MemExt) (pa : Nat → Nat) (l : Nat → L1Line),
    s.Clear (srcRes a) → s.execLanes ≠ [] → x.sem = .plain → s.LanesReach a x (widthSize w) .read pa → s.NoRedOwed (widthSize w) pa →
    (∀ i ∈ s.execLanes, (s.core (s.cur.warp / 16)).l1? (canonPa (pa i) / 128) = some (l i)) →
    ∃ (s0 t : State), exec (.ld n d a w x) s = .next t ∧ s.KnowsMore s0 ∧
      (s0.updWarp s.cur.warp (fun v => { v with loadOut := true })).Given t n 8 (fun v => loadEffect d w
        (ofBytes ((List.range (widthSize w)).map (fun k => lineGet (l v.i).data (canonPa (pa v.i) % 128 + k)))))

/-- Where L1 of the core holds the line of every executing lane, a plain st that does not bypass L1 completes: the bytes
stored hold the values of the highest lane that stores them and are dirty, every other byte of L1, every other core
and all of memory are unchanged, and no register changes. (R253, R281, R310, R313, R314.) -/
def Obligations.StoresToL1 : Prop :=
  ∀ (s : State) (n : Stall) (d a : Src) (w : Width) (x : MemExt) (pa : Nat → Nat),
    let c := s.cur.warp / 16
    s.Clear (srcRes a ++ storedRes d w) → x.sem = .plain → x.cache ≠ .l2only → s.LanesReach a x (widthSize w) .write pa →
    (∀ i ∈ s.execLanes, ((s.core c).l1? (canonPa (pa i) / 128)).isSome = true) →
    ∃ (s1 t : State), exec (.st n d a w x) s = .next t ∧ s1.Given t n 8 (fun _ => {}) ∧ s1 = { s with cores := s1.cores } ∧
      (∀ k, k ≠ c → s1.core k = s.core k) ∧ s1.core c = { s.core c with l1 := (s1.core c).l1 } ∧
      ∀ b, let is := s.execLanes.filter (fun i => decide (canonPa (pa i) ≤ b) && decide (b < canonPa (pa i) + widthSize w))
        match is.getLast? with
        | none => s1.l1Byte c b = s.l1Byte c b
        | some i => s1.l1Byte c b = some (BitVec.ofNat 8 (stored (s.view i) 1 d w / 2 ^ (8 * (b - canonPa (pa i))))) ∧
            ((s1.core c).l1? (b / 128)).any (fun (l : L1Line) => bitAt l.dirty (b % 128)) = true

/-- Where the line of every executing lane is in the L2 of its die and not in L1, no synchronisation engine holds a
granule, no red of a lane to its bytes is outstanding, and no write is on its way between the dies, an ld that
bypasses L1, or one with acquire semantics at cluster scope or wider, completes: each lane receives the bytes that its
die sees, and an acquire leaves no clean line in L1. (R253, R286, R310, R312, R313, R314.) -/
def Obligations.LoadsAtL2 : Prop :=
  ∀ (s : State) (n : Stall) (d : Dst) (a : Src) (w : Width) (x : MemExt) (pa : Nat → Nat),
    let c := s.cur.warp / 16
    let far := x.sem = .acquire ∧ x.scope ∈ [Scope.cluster, .die, .device, .system]
    s.Clear (srcRes a) → s.execLanes ≠ [] → s.LanesReach a x (widthSize w) .read pa → s.NoRedOwed (widthSize w) pa → s.mem.strait = [] →
    s.mem.granules = [] → (∀ k l, (s.core c).l1? k = some l → l.dirty ≠ 0 → (s.mem.line? (warpDie s.cur.warp) k).isSome = true) →
    (far ∨ (x.sem = .plain ∧ x.cache = .l2only)) →
    (∀ i ∈ s.execLanes, (s.core c).l1? (canonPa (pa i) / 128) = none ∧
      (s.mem.line? (warpDie s.cur.warp) (canonPa (pa i) / 128)).isSome = true) →
    ∃ (s1 t : State), exec (.ld n d a w x) s = .next t ∧
      s1.Given t n 8 (fun v => loadEffect d w (ofBytes (s.mem.lookN (warpDie s.cur.warp) (canonPa (pa v.i)) (widthSize w)))) ∧
      s1 = { s with cores := s1.cores, warps := s1.warps, mem := { s.mem with toClu := s1.mem.toClu, unseen := s1.mem.unseen } } ∧
      s1.mem.unseen.map (fun u => { u with w := u.w.forget }) = s.mem.unseen.map (fun u => { u with w := u.w.forget }) ∧
      (∀ k, s1.warp k = if k = s.cur.warp then { s.warp k with loadOut := true } else s.warp k) ∧
      (∀ k, k ≠ c → s1.core k = s.core k) ∧ s1.core c = { s.core c with l1 := (s1.core c).l1 } ∧
      (far → ∀ k l, (s1.core c).l1? k = some l → l.dirty ≠ 0) ∧ (¬far → ∀ k, (s1.core c).l1? k = (s.core c).l1? k)

/-- Where the line of every executing lane is at its home L2 on the die and not in L1, and no synchronisation engine holds
a granule, a plain st that bypasses L1 completes: to its die the bytes stored hold the values of the highest lane that
stores them, every other byte reads as before, and no register changes. A release at cluster scope or wider by a lane
whose core has a dirty line in L1: the line is clean before the access is made, to the die its bytes are what they
were in L1, and at device scope or wider the epoch of the die has advanced by one, the writes of the line carrying the
epoch before and the release's own write the epoch after. So a st.rel, which then writes at L2, and an atom.acqrel,
whose acquire leaves no clean line in L1; a red.rel cleans L1 as it enters q6, and its epoch advances as it is
performed. At system scope the release is sent out between the lane's messages. The model's choices, by entry of its
assumption log: who knows of bytes that the host does not see (log entry 35). (R253, R256, R281, R284, R313, R314,
R286, R287, R290, R293, R312, R317.) -/
def Obligations.StoresAtL2 : Prop :=
  (∀ (s : State) (n : Stall) (d a : Src) (w : Width) (x : MemExt) (pa : Nat → Nat),
    let c := s.cur.warp / 16
    let die := warpDie s.cur.warp
    s.Clear (srcRes a ++ storedRes d w) → x.sem = .plain → x.cache = .l2only → s.LanesReach a x (widthSize w) .write pa →
    s.mem.granules = [] →
    (∀ i ∈ s.execLanes, (s.core c).l1? (canonPa (pa i) / 128) = none ∧ homeOf (canonPa (pa i)) = die ∧
      homeOf (canonPa (pa i) / 128 * 128) = die ∧ (s.mem.line? die (canonPa (pa i) / 128)).isSome = true) →
    ∃ (s1 t : State), exec (.st n d a w x) s = .next t ∧ s1.Given t n 8 (fun _ => {}) ∧
      s1 = { s with cmdQueues := s1.cmdQueues, mem := { s.mem with l2 := s1.mem.l2, strait := s1.mem.strait, toSlice := s1.mem.toSlice,
                                                                   unseen := s1.mem.unseen } } ∧
      s.OnlyTold s1 ∧
      ∀ b, let is := s.execLanes.filter (fun i => decide (canonPa (pa i) ≤ b) && decide (b < canonPa (pa i) + widthSize w))
        s1.mem.look die b = match is.getLast? with
        | none => s.mem.look die b
        | some i => BitVec.ofNat 8 (stored (s.view i) 1 d w / 2 ^ (8 * (b - canonPa (pa i))))) ∧
  (∀ (s : State) (n : Stall) (r : BitVec 4) (d a b : Src) (v : Width) (x : MemExt) (pa j line : Nat) (l : L1Line),
    let c := coreOf s.cur.warp
    let die := warpDie s.cur.warp
    let far := x.scope ∈ [Scope.device, .system]
    let w := s.warp s.cur.warp
    x.scope ∈ [Scope.cluster, .die, .device, .system] →
    s.mem.granules = [] → s.mem.strait = [] → s.mem.held = [] → (s.core c).l1 = [(line, l)] → l.dirty ≠ 0 → homeOf (line * 128) = die →
    (s.mem.line? die line).isSome = true → s.execLanes = [j] → homeOf (canonPa pa) = die → homeOf (canonPa pa / 128 * 128) = die →
    canonPa pa / 128 ≠ line → (s.mem.line? die (canonPa pa / 128)).isSome = true →
    let dirty := fun (q : Nat) => q / 128 = line ∧ bitAt l.dirty (q % 128) = true
    let outs := if x.scope = .system then s.outs ++ [Out.release (64 * s.cur.warp + j)] else s.outs
    (s.Clear (srcRes a ++ storedRes d v) → x.sem = .release → s.LanesReach a x (widthSize v) .write (fun _ => pa) →
      ∃ (s1 t : State), exec (.st n d a v x) s = .next t ∧ s1.Given t n 8 (fun _ => {}) ∧
        s1 = { s with cores := s1.cores, cmdQueues := s1.cmdQueues, outs := outs
                      mem := { s.mem with l2 := s1.mem.l2, strait := s1.mem.strait, toSlice := s1.mem.toSlice, unseen := s1.mem.unseen,
                                          e0 := s1.mem.e0, e1 := s1.mem.e1 } } ∧ s.OnlyTold s1 ∧
        (∀ k m, (s1.core c).l1? k = some m → m.dirty = 0) ∧ (∀ k, k ≠ c → s1.core k = s.core k) ∧
        (∀ e < 2, s1.mem.epoch e = s.mem.epoch e + if far ∧ e = die then 1 else 0) ∧
        (∀ g ∈ s1.mem.strait, g.src = die ∧ (g.line = line → g.k = s.mem.epoch die) ∧ (g.line = canonPa pa / 128 → g.k = s1.mem.epoch die)) ∧
        ∀ q, (canonPa pa ≤ q ∧ q < canonPa pa + widthSize v →
            s1.mem.look die q = BitVec.ofNat 8 (stored (s.view j) 1 d v / 2 ^ (8 * (q - canonPa pa)))) ∧
          (dirty q → s1.mem.look die q = lineGet l.data (q % 128)) ∧
          (¬(canonPa pa ≤ q ∧ q < canonPa pa + widthSize v) → ¬dirty q → s1.mem.look die q = s.mem.look die q)) ∧
    (∀ op : AtomOp, s.Clear (srcRes a ++ atomRes op b) → x.sem = .acqRel → s.LanesReach a x (atomSize op) .atomic (fun _ => pa) →
      s.NoRedOwed (atomSize op) (fun _ => pa) →
      let old := ofBytes (s.mem.lookN die (canonPa pa) (atomSize op))
      let args := atomArgs (s.view j) op b
      let new := (atomNew op (BitVec.ofNat 64 old) args.1 args.2).getD (BitVec.ofNat 64 old)
      ∃ (s1 t : State), exec (.atom n (.o r) a b op x) s = .next t ∧
        s1.Given t n 8 (fun _ => loadEffect (.o r) (if atomSize op = 8 then .w64 else .w32) old) ∧
        (s1.core c).l1 = [] ∧ (∀ k, k ≠ c → s1.core k = s.core k) ∧ s1.outs = outs ∧
        (∀ e < 2, s1.mem.epoch e = s.mem.epoch e + if far ∧ e = die then 1 else 0) ∧
        ∀ q, (canonPa pa ≤ q ∧ q < canonPa pa + atomSize op → s1.mem.look die q = BitVec.ofNat 8 (new.toNat / 2 ^ (8 * (q - canonPa pa)))) ∧
          (dirty q → s1.mem.look die q = lineGet l.data (q % 128)) ∧
          (¬(canonPa pa ≤ q ∧ q < canonPa pa + atomSize op) → ¬dirty q → s1.mem.look die q = s.mem.look die q)) ∧
    (∀ op : AtomOp, s.Clear (srcRes a ++ atomRes op b) → x.sem = .release → s.LanesReach a x (atomSize op) .atomic (fun _ => pa) →
      (w.queues.get [] 6).length < 16 →
      ∃ (s1 t : State), exec (.red n a b op x) s = .next t ∧ s1.Given t n 8 (fun _ => {}) ∧
        (∀ k m, (s1.core c).l1? k = some m → m.dirty = 0) ∧ (∀ k, k ≠ c → s1.core k = s.core k) ∧ s1.outs = s.outs ∧
        (∀ e < 2, s1.mem.epoch e = s.mem.epoch e) ∧
        (∃ o : EngOp, (s1.warp s.cur.warp).queues.get [] 6 = w.queues.get [] 6 ++ [o] ∧ o.kind = .red ∧ o.redAddr = pa ∧ o.redOp = op ∧
          o.redVal = (atomArgs (s.view j) op b).1 ∧ o.redScope = some x.scope ∧ o.lane = j ∧ o.num = w.opNum) ∧
        ∀ q, s1.mem.look die q = if dirty q then lineGet l.data (q % 128) else s.mem.look die q))

/-- Where a handler is set: ld, st, atom and red at an address that is no multiple of the access size trap with code 0x0C
in those lanes; a lane whose page system software has failed traps with code 0x0D; ldp of an unbound window traps with
code 0x07; sld at an address that is no multiple of 8 traps the strand with code 0x0C. (R309, R310, R311, R313, R316,
R324, R326, R327, R446.) -/
def Obligations.MemoryTraps : Prop :=
  ∀ (s : State) (n : Stall) (d : Dst) (q a b : Src) (w : Width) (x : MemExt) (p : AtomOp) (k : BitVec 3) (i : BitVec 8) (j : BitVec 6)
    (e r : BitVec 6) (im : BitVec 9), s.Handled →
    let off := fun (size : Nat) => ∀ l ∈ s.execLanes, (lanePlace a x (s.view l)).toNat % size ≠ 0
    let all := fun (i : Instr) (len code : Nat) => s.Splits i n len (fun _ => {}) (fun v => some (code, 0, v.ln.pc))
    (s.Calm → s.mem.syncReqs = [] →
      (s.Clear (srcRes a) → off (widthSize w) → all (.ld n d a w x) 8 0x0C) ∧
      (s.Clear (srcRes a ++ storedRes q w) → off (widthSize w) → all (.st n q a w x) 8 0x0C) ∧
      (s.Clear (srcRes a ++ atomRes p b) → off (atomSize p) → all (.atom n d a b p x) 8 0x0C ∧
        (s.redStuck s.cur.warp s.execLanes.length = false → all (.red n a b p x) 8 0x0C)) ∧
      (s.Clear (srcRes a) → (∀ l ∈ s.execLanes, (lanePlace a x (s.view l)).toNat % widthSize w = 0 ∧
          ((s.warp s.cur.warp).space, (lanePlace a x (s.view l)).toNat / 65536) ∈ ((s.warp s.cur.warp).lane l).failed) →
        all (.ld n d a w x) 8 0x0D) ∧
      (s.Clear (srcRes a) → ((s.launch (s.warp s.cur.warp).lid).window k.toNat).2 = 0 → all (.ldp n d a k i) 4 0x07)) ∧
    (s.StrandClear [r.toNat] → s.mem.syncReqs = [] → (s.warp s.cur.warp).live ≠ 0 →
      (BitVec.ofInt 56 ((s.sval s.cur.warp 0 r.toNat).toNat + im.toInt)).toNat % 8 ≠ 0 →
      s.StrandTraps (.sld n e r im) 0x0C) ∧
    (s.StrandClear [r.toNat] → s.mem.syncReqs = [] → (s.warp s.cur.warp).live ≠ 0 →
      ((s.launch (s.warp s.cur.warp).lid).window k.toNat).2 = 0 → s.StrandTraps (.ldpUniform n e r k j) 0x07)

/-- Where an access of the strand lands and its line is in the L2 of the die and in no synchronisation engine: sld writes
the 8 bytes that the die sees at s[a] + imm into s[d]; sst stores s[d], and to the die every other byte reads as
before; ldp of a bound window writes word idx + s[a] of 8 bytes, or 0 with POVR beyond its size. Nothing else changes
but the PC, and which unseen bytes the strand knows of. Each executing lane of an ldp of a bound window receives the
word idx + a of 4 bytes of the window, or 0 with the flag POVR where the word passes the window's size; lanes of both
kinds may stand in one group. No red of a lane to its word is outstanding. (R309, R310, R311, R324, R325, R327, R326.) -/
def Obligations.StrandAndWindowReads : Prop :=
  (∀ (s : State) (n : Stall) (d a : BitVec 6) (im : BitVec 9) (k : BitVec 3) (i : BitVec 6) (pa : Nat),
    let die := warpDie s.cur.warp
    let place : Addr := BitVec.ofInt 56 ((s.sval s.cur.warp 0 a.toNat).toNat + im.toInt)
    let win := (s.launch (s.warp s.cur.warp).lid).window k.toNat
    let word := i.toNat + (s.sval s.cur.warp 0 a.toNat).toNat
    let seen : Word64 := BitVec.ofNat 64 (ofBytes (s.mem.lookN die (canonPa pa) 8))
    let reads := fun (i : Instr) => ∃ (s0 s1 t : State), exec i s = .next t ∧ s1.StrandOnly t n 4 { s := [(d.toNat, seen)] } ∧
      s.KnowsMore s0 ∧ s1 = { s0 with warps := s1.warps, mem := { s0.mem with toClu := s1.mem.toClu } } ∧
      ∀ j, s1.warp j = if j = s.cur.warp then { s.warp j with loadOut := true } else s.warp j
    (s.StrandClear [a.toNat] → s.StrandReaches place 8 .read pa → s.InL2 pa → reads (.sld n d a im)) ∧
    (s.StrandClear [a.toNat, d.toNat] → s.StrandReaches place 8 .write pa → s.InL2 pa → canonPa pa % 8 = 0 →
      homeOf (canonPa pa) = die → homeOf (canonPa pa / 128 * 128) = die →
      ∃ (s1 t : State), exec (.sst n d a im) s = .next t ∧ s1.StrandOnly t n 4 {} ∧ s.OnlyTold s1 ∧
        s1 = { s with cmdQueues := s1.cmdQueues, mem := { s.mem with l2 := s1.mem.l2, strait := s1.mem.strait, toSlice := s1.mem.toSlice,
                                                                     unseen := s1.mem.unseen } } ∧
        ∀ b, s1.mem.look die b =
          if canonPa pa ≤ b ∧ b < canonPa pa + 8 then BitVec.ofNat 8 ((s.sval s.cur.warp 1 d.toNat).toNat / 2 ^ (8 * (b - canonPa pa)))
          else s.mem.look die b) ∧
    (s.StrandClear [a.toNat] → s.mem.syncReqs = [] → win.2 ≠ 0 → win.2 < 8 * word + 8 →
      ∃ t, exec (.ldpUniform n d a k i) s = .next t ∧
        (s.updWarp s.cur.warp (fun v => { v with stk := v.stk ||| 0x200 })).StrandOnly t n 4 { s := [(d.toNat, 0)] }) ∧
    (s.StrandClear [a.toNat] → 8 * word + 8 ≤ win.2 → s.StrandReaches (BitVec.ofNat 56 (win.1 + 8 * word)) 1 .read pa → s.InL2 pa →
      reads (.ldpUniform n d a k i))) ∧
  (∀ (s : State) (n : Stall) (d : Dst) (a : Src) (k : BitVec 3) (i : BitVec 8) (pa : Nat → Nat) (l : Nat → L1Line),
    let win := (s.launch (s.warp s.cur.warp).lid).window k.toNat
    let word := fun (v : View) => i.toNat + (v.src 0 a).toNat
    s.Clear (srcRes a) → s.mem.syncReqs = [] → s.NoRedOwed 4 pa → win.2 ≠ 0 →
    (∀ j ∈ s.execLanes, win.2 < 4 * word (s.view j) + 4 ∨
      (((s.warp s.cur.warp).lane j).failed = [] ∧
       s.Reach (s.strandMaster s.cur.warp) (BitVec.ofNat 56 (win.1 + 4 * word (s.view j))) .read (pa j) ∧
       (s.core (coreOf s.cur.warp)).l1? (canonPa (pa j) / 128) = some (l j))) →
    ∃ (s0 t : State), exec (.ldp n d a k i) s = .next t ∧ s.KnowsMore s0 ∧ (s0.updWarp s.cur.warp (fun w =>
        { w with loadOut := w.loadOut || s.execLanes.any (fun j => decide (4 * word (s.view j) + 4 ≤ win.2)) })).Given t n 4 (fun v =>
      if win.2 < 4 * word v + 4 then { result d 0 with flags := 0x200 }
      else result d (BitVec.ofNat 32 (ofBytes ((List.range 4).map (fun b => lineGet (l v.i).data (canonPa (pa v.i) % 128 + b)))))))

/-- With one executing lane, its address homed on the die, its line not in L1, no red of the lane to it outstanding, no
write on its way between the dies, room in the engine and no record held on a counter: a plain atom of any operation
leaves the new value of the table at its address, as the die sees it, every other byte as before, and gives the lane
the old value. One to code 18 does not wait: before the next issue it is performed, and its old value enters l0. The
model's choices, by entry of its assumption log: that a plain atom to code 18 is performed before the next issue (log
entry 68). With one executing lane whose address translates to quarter 11: an ld leaves as a read by the port of the
partition's destination node and gives the lane what the node answers; a st leaves as a write of its value, an atom as
the atomic, whose old value the node answers, and both end that the launch can be replayed. One of 16 bytes goes as
two of 8. Neither L1, L2 nor memory changes. The model's choices, by entry of its assumption log: what a node answers
is a free value (log entry 2), and the messages on a port stand in State.outs. (R316, R317, R318, R68, R296, R309,
R262, R308, R315, R319, R433, R464.) -/
def Obligations.Atomics : Prop :=
  (∀ (s : State) (n : Stall) (r : BitVec 4) (a b : Src) (x : MemExt) (pa j : Nat),
    let die := warpDie s.cur.warp
    let reg := fun (v : View) (m : Nat) => match b with
      | .o r => (v.part 1 r.toNat m).toNat
      | _ => 0
    let new : List (AtomOp × Nat × (View → Nat → Nat)) :=
      let u := fun (v : View) => (v.src 1 b).toNat
      let i32 := fun (z : Nat) => (BitVec.ofNat 32 z).toInt
      let r64 := fun (v : View) (m : Nat) => reg v m + 2 ^ 32 * reg v (m + 1)
      [(.add32, 4, fun v o => (o + u v) % 2 ^ 32), (.add64, 8, fun v o => (o + r64 v 0) % 2 ^ 64),
       (.fadd32, 4, fun v o => (fAdd false (BitVec.ofNat 32 o) (BitVec.ofNat 32 (u v))).val.toNat),
       (.mins32, 4, fun v o => if i32 o < i32 (u v) then o else u v), (.maxs32, 4, fun v o => if i32 o < i32 (u v) then u v else o),
       (.minu32, 4, fun v o => min o (u v)), (.maxu32, 4, fun v o => max o (u v)),
       (.and32, 4, fun v o => Nat.land o (u v)), (.or32, 4, fun v o => Nat.lor o (u v)), (.xor32, 4, fun v o => Nat.xor o (u v)),
       (.swap32, 4, fun v _ => u v), (.swap64, 8, fun v _ => r64 v 0),
       (.cas32, 4, fun v o => if o = reg v 0 then reg v 1 else o), (.cas64, 8, fun v o => if o = r64 v 0 then r64 v 2 else o)]
    ∀ p ∈ new,
      let op := p.1
      let size := p.2.1
      let old := ofBytes (s.mem.lookN die (canonPa pa) size)
      let left := fun (m : Mem) => ∀ q, m.look die q =
        if canonPa pa ≤ q ∧ q < canonPa pa + size then BitVec.ofNat 8 (p.2.2 (s.view j) old / 2 ^ (8 * (q - canonPa pa))) else s.mem.look die q
      s.Clear (srcRes a ++ atomRes op b) → s.execLanes = [j] → x.sem = .plain → s.LanesReach a x size .atomic (fun _ => pa) →
      s.NoRedOwed size (fun _ => pa) → s.EngineRoom die → s.mem.strait = [] → homeOf (canonPa pa) = die → (s.core (coreOf s.cur.warp)).l1? (canonPa pa / 128) = none →
      (∃ (s1 t : State), exec (.atom n (.o r) a b op x) s = .next t ∧
        s1.Given t n 8 (fun _ => loadEffect (.o r) (if size = 8 then .w64 else .w32) old) ∧ s.AtomicOnly s1 ∧ left s1.mem) ∧
      ((s.warp s.cur.warp).slot ≠ .free →
        ∃ (s1 t : State), exec (.atom n .zero a b op x) s = .next t ∧ s1.Given t n 8 (fun _ => result .zero 0) ∧ s.SameCores s1 ∧
          s1 = { s with cores := s1.cores, mem := { s.mem with syncReqs := s1.mem.syncReqs } } ∧
          left t.syncAll.mem ∧ t.syncAll.mem.syncReqs = [] ∧
          ((t.syncAll.warp s.cur.warp).lane j).l0 = BitVec.ofNat 32 old)) ∧
  (∀ (s : State) (n : Stall) (r : BitVec 4) (d a b : Src) (v : Width) (x : MemExt) (pa j : Nat) (port node off : Nat),
    let m := s.laneMaster s.cur.warp x
    let who := 64 * s.cur.warp + j
    let w := s.warp s.cur.warp
    let reaches := fun (size : Nat) (k : AccKind) => s.mem.syncReqs = [] ∧ s.mem.Sound ∧ ((s.warp s.cur.warp).lane j).failed = [] ∧
      (lanePlace a x (s.view j)).toNat % size = 0 ∧ s.translate m (lanePlace a x (s.view j)).toNat k [] = (s, .ok pa) ∧
      s.paAllowed w.part pa k = true ∧ s.NoRedOwed size (fun _ => pa)
    s.execLanes = [j] → x.sem = .plain → pa / 2 ^ 46 % 4 = 3 → node = pa / 2 ^ 38 % 256 → off = pa % 2 ^ 38 →
    port = (s.portOf w.part node).getD 0 →
    let answers := fun (o : Nat) (size t : Nat) => Config.peerRead w.part node o size t % 2 ^ (8 * size)
    let time := 2 ^ 64 * s.clock + s.outs.length
    (s.Clear (srcRes a) → reaches (widthSize v) .read → v ≠ .w128 →
      ∃ t, exec (.ld n (.o r) a v x) s = .next t ∧
        (({ s with outs := s.outs ++ [.nodeRead port w.part node off (widthSize v) who] } : State).updWarp s.cur.warp
          (fun u => { u with loadOut := true })).Given t n 8 (fun _ => loadEffect (.o r) v (answers off (widthSize v) time))) ∧
    (s.Clear (srcRes a) → reaches 16 .read → off + 16 ≤ 2 ^ 38 →
      ∃ t, exec (.ld n (.o r) a .w128 x) s = .next t ∧
        (({ s with outs := s.outs ++ [.nodeRead port w.part node off 8 who, .nodeRead port w.part node (off + 8) 8 who] } : State).updWarp
          s.cur.warp (fun u => { u with loadOut := true })).Given t n 8 (fun _ => loadEffect (.o r) .w128
            (answers off 8 time + answers (off + 8) 8 (time + 1) * 2 ^ 64))) ∧
    (s.Clear (srcRes a ++ storedRes d v) → reaches (widthSize v) .write → (v = .w128 → off + 16 ≤ 2 ^ 38) →
      let val := stored (s.view j) 1 d v
      let sent := if v = .w128 then [Out.node port w.part node off 8 (val % 2 ^ 64) who, .node port w.part node (off + 8) 8 (val / 2 ^ 64 % 2 ^ 64) who]
        else [Out.node port w.part node off (widthSize v) (val % 2 ^ (8 * widthSize v)) who]
      ∃ t, exec (.st n d a v x) s = .next t ∧
        (({ s with outs := s.outs ++ sent } : State).markNrepl w.lid).Given t n 8 (fun _ => {})) ∧
    (∀ op : AtomOp, s.Clear (srcRes a ++ atomRes op b) → reaches (atomSize op) .atomic →
      let args := atomArgs (s.view j) op b
      ∃ t, exec (.atom n (.o r) a b op x) s = .next t ∧
        (({ s with outs := s.outs ++ [.nodeAtomic port w.part node off op args.1 args.2 who] } : State).markNrepl w.lid).Given t n 8
          (fun _ => loadEffect (.o r) (if atomSize op = 8 then .w64 else .w32) (answers off (atomSize op) time))) ∧
    (∀ k, k ≠ w.lid → (s.markNrepl w.lid).launch? k = s.launch? k) ∧
    (∀ L, s.launch? w.lid = some L → (s.markNrepl w.lid).launch? w.lid = some { L with nrmark := true, nrepl := true }))

/-- With one executing lane and room in q6, a plain red places its operation at the end of q6 and completes without
changing memory or a register; the event RED_OP performs the oldest operation of q6, homed on the die and its line not
in L1, as the atom of the same operation, and takes it out; where it is a release at device scope or wider, the epoch
of its die advances by one first, and at system scope the release is sent out. (R316, R317, R318, R300, R301.) -/
def Obligations.QueuedAtomics : Prop :=
  ∀ (s : State) (n : Stall) (a b : Src) (x : MemExt) (pa j : Nat) (o : EngOp) (rest : List EngOp),
    let w := s.warp s.cur.warp
    let die := warpDie s.cur.warp
    (∀ op : AtomOp, s.Clear (srcRes a ++ atomRes op b) → s.execLanes = [j] → x.sem = .plain →
      s.LanesReach a x (atomSize op) .atomic (fun _ => pa) → (s.core (coreOf s.cur.warp)).l1? (canonPa pa / 128) = none →
      (w.queues.get [] 6).length < 16 →
      ∃ (s1 t : State), exec (.red n a b op x) s = .next t ∧ s1.Given t n 8 (fun _ => {}) ∧ s.SameCores s1 ∧
        s1 = { s with cores := s1.cores, warps := s1.warps } ∧
        ∀ k, s1.warp k = if k = s.cur.warp then
            { w with opNum := w.opNum + 1, queues := w.queues.set 6 (w.queues.get [] 6 ++
              [{ kind := .red, warp := s.cur.warp, lid := w.lid, taskId := w.taskId, num := w.opNum, q := 6, redAddr := pa, redOp := op,
                 redVal := (atomArgs (s.view j) op b).1, tid := w.tid, lane := j, cls := x.cls.toNat,
                 slack := (s.laneMaster s.cur.warp x).slack }]) }
          else s.warp k) ∧
    (w.queues.get [] 6 = o :: rest → o.warp = s.cur.warp → (s.core (coreOf s.cur.warp)).l1? (canonPa o.redAddr / 128) = none →
      s.EngineRoom die → s.opLive o = true → s.opFrozen o (warpClu s.cur.warp) = false →
      quarter o.redAddr < 2 → canonPa o.redAddr % atomSize o.redOp = 0 → homeOf (canonPa o.redAddr) = die → s.mem.strait = [] →
      s.mem.Sound → s.trackWrite (some w.lid) (canonPa o.redAddr) = s →
      let old := BitVec.ofNat 64 (ofBytes (s.mem.lookN die (canonPa o.redAddr) (atomSize o.redOp)))
      let far := o.redScope ∈ [some Scope.device, some .system]
      let opened : State := { s with mem := if far then s.mem.bump die else s.mem
                                     outs := if o.redScope = some .system then s.outs ++ [.release (64 * o.warp + o.lane)] else s.outs }
      ∃ t, exec .redOp s = .next t ∧ (t.warp s.cur.warp).queues.get [] 6 = rest ∧
        (∃ s0 s1 : State, opened.KnowsMore s0 ∧ s0.AtomicOnly s1 ∧ t = { s1 with warps := t.warps }) ∧
        (∀ e < 2, t.mem.epoch e = s.mem.epoch e + if far ∧ e = die then 1 else 0) ∧
        ∀ q, t.mem.look die q = if canonPa o.redAddr ≤ q ∧ q < canonPa o.redAddr + atomSize o.redOp then
            BitVec.ofNat 8 (((atomNew o.redOp old o.redVal 0).getD old).toNat / 2 ^ (8 * (q - canonPa o.redAddr)))
          else s.mem.look die q)

/-- A prf completes in every state without errors in memory: each executing lane goes on at the next word and no register
changes; where the translation that a TLB holds lets no lane read its line, it does nothing else, and where it does
and L2 holds the line, a prf to L2 only changes nothing else but the count of lines on their way, and one to L1 by a
single lane leaves the line there. A fence of every kind and scope completes in every state: each executing lane goes
on at the next word. One that acquires at cluster scope or wider leaves no clean line in L1; one that releases there
leaves no dirty line, and its bytes are what the die sees; at device scope a releasing fence advances the epoch of its
die by one, and fence.sc takes one ticket. (R286, R287, R294, R295, R320, R328, R329.) -/
def Obligations.PrefetchAndFence : Prop :=
  ∀ (s : State) (n : Stall) (a : Src) (q : BitVec 1) (x : MemExt) (e : FenceSem) (o : Scope) (line i : Nat) (l : L1Line) (ent : Nat → TlbEnt),
    let c := coreOf s.cur.warp
    let die := warpDie s.cur.warp
    let wide := o ∈ [Scope.cluster, .die, .device, .system]
    let far := o ∈ [Scope.device, .system]
    let epoch := fun (t : State) => t.mem.epoch die
    let m := fun (j : Nat) => (s.laneMaster s.cur.warp x).by s.cur.warp j
    let va := fun (j : Nat) => (lanePlace a x (s.view j)).toNat
    let pa := fun (j : Nat) => (ent j).pbase + va j % 2 ^ (ent j).bits
    let read := fun (j : Nat) => (ent j).rd = true ∧ quarter (pa j) < 2 ∧ s.allowed (m j).part (pa j) false = true
    let held := ∀ j ∈ s.execLanes, s.tlbFor (m j) (va j) = some (ent j)
    (s.Clear (srcRes a) → s.mem.Sound →
      ∃ (s1 t : State), exec (.prf n a q x) s = .next t ∧ s.Given s1 n 8 (fun _ => {}) ∧
        t = { s1 with cores := t.cores, cmdQueues := t.cmdQueues, clock := t.clock, mem := t.mem } ∧ s.OnlyTold t ∧
        (held → (∀ j ∈ s.execLanes, ¬read j) → t = s1) ∧
        (held → s.mem.granules = [] → (∀ j ∈ s.execLanes, read j ∧ (s.mem.line? die (canonPa (pa j) / 128)).isSome = true) → q = 1 →
          t = { s1 with mem := { s.mem with toClu := t.mem.toClu } }) ∧
        (held → s.execLanes = [i] → read i → q = 0 → ((t.core c).l1? (canonPa (pa i) / 128)).isSome = true)) ∧
    (s.Clear [] →
      ∃ (s1 t : State), exec (.fence n e o) s = .next t ∧ s1.Given t n 4 (fun _ => {}) ∧
        s1 = { s.syncAll with cores := s1.cores, cmdQueues := s1.cmdQueues, mem := s1.mem, regs := s1.regs, devBytes := s1.devBytes,
                              outs := s1.outs, clock := s1.clock } ∧
        (s.mem.syncReqs = [] → s.mem.granules = [] → s.mem.strait = [] → s.mem.Sound → (s.core c).l1 = [(line, l)] → l.dirty ≠ 0 →
          homeOf (line * 128) = die →
          (∀ k, k ≠ c → s1.core k = s.core k) ∧ s.OnlyTold s1 ∧
          (wide → e = .acq → ∀ k, ((s1.core c).l1? k).isSome = decide (k = line)) ∧
          (wide → e ≠ .acq → (∀ k m, (s1.core c).l1? k = some m → m.dirty = 0) ∧
            ∀ b < 128, bitAt l.dirty b = true → s1.mem.look die (line * 128 + b) = lineGet l.data b) ∧
          (wide → e ∈ [FenceSem.acqRel, .sc] → (s1.core c).l1 = []) ∧
          (¬wide → s1 = s) ∧
          epoch s1 = (if far ∧ e ≠ .acq then epoch s + 1 else epoch s) ∧
          s1.mem.tickets = (if far ∧ e = .sc then s.mem.tickets + 1 else s.mem.tickets)))

/-- Each executing lane of lds receives the bytes of its core's scratchpad at a + b; sts stores there, the highest lane
prevailing, and changes no other byte and no register. An offset that is no multiple of the size traps with code 0x0C,
and else one whose access passes the end with code 0x0B. Each executing lane of lda receives the accumulator word a +
b of its core, and sta writes it, the highest lane prevailing, where the word lies in a grant of the task; a word of
32768 or above, or one in no grant on the core, traps with code 0x0B. (R246, R247, R309, R321, R235, R249, R322,
R323.) -/
def Obligations.LocalMemory : Prop :=
  (∀ (s : State) (n : Stall) (d : Dst) (q a b : Src) (w : Width),
    let c := s.cur.warp / 16
    let size := widthSize w
    let room := 32768 * (s.core c).ways
    let off := fun (v : View) => (v.src 0 a + v.src 1 b).toNat
    let fits := ∀ i ∈ s.execLanes, off (s.view i) % size = 0 ∧ off (s.view i) + size ≤ room
    let trap := fun (v : View) => if off v % size ≠ 0 then some (0x0C, 0, v.ln.pc) else if room < off v + size then some (0x0B, 0, v.ln.pc) else none
    (s.Clear (srcRes a ++ srcRes b) → fits → s.mem.badSpad = [] →
      s.Gives (.lds n d a b w) n 4 (fun v => loadEffect d w (ofBytes ((List.range size).map (fun k => cellGet (s.core c).spad (off v + k)))))) ∧
    (s.Clear (srcRes a ++ srcRes b ++ storedRes q w) → fits → s.mem.badSpad = [] → cellsWf (s.core c).spad = true →
      ∃ (s1 t : State), exec (.sts n q a b w) s = .next t ∧ s1.Given t n 4 (fun _ => {}) ∧ s1 = { s with cores := s1.cores } ∧
        (∀ k, k ≠ c → s1.core k = s.core k) ∧ s1.core c = { s.core c with spad := (s1.core c).spad } ∧
        ∀ k, let is := s.execLanes.filter (fun i => decide (off (s.view i) ≤ k) && decide (k < off (s.view i) + size))
          cellGet (s1.core c).spad k = match is.getLast? with
          | none => cellGet (s.core c).spad k
          | some i => BitVec.ofNat 8 (stored (s.view i) 2 q w / 2 ^ (8 * (k - off (s.view i))))) ∧
    (s.Handled → s.Calm → s.Clear (srcRes a ++ srcRes b) → (∀ i ∈ s.execLanes, (trap (s.view i)).isSome) →
      s.Splits (.lds n d a b w) n 4 (fun _ => {}) trap) ∧
    (s.Handled → s.Calm → s.Clear (srcRes a ++ srcRes b ++ storedRes q w) → (∀ i ∈ s.execLanes, (trap (s.view i)).isSome) →
      s.Splits (.sts n q a b w) n 4 (fun _ => {}) trap)) ∧
  (∀ (s : State) (n : Stall) (d : Dst) (q a b : Src),
    let c := s.cur.warp / 16
    let word := fun (v : View) => (v.src 0 a + v.src 1 b).toNat
    let granted := ∀ i ∈ s.execLanes, word (s.view i) < 32768 ∧
      ∃ g ∈ (s.core c).grants, g.holder = .task s.cur.warp ∧ g.base ≤ word (s.view i) ∧ word (s.view i) < g.base + g.size
    let outside := ∀ i ∈ s.execLanes, 32768 ≤ word (s.view i) ∨
      ∀ g ∈ (s.core c).grants, word (s.view i) < g.base ∨ g.base + g.size ≤ word (s.view i)
    (s.Clear (srcRes a ++ srcRes b) → granted → s.mem.badAcc = [] →
      s.Gives (.lda n d a b) n 4 (fun v => result d ((s.core c).acc.get 0 (word v)))) ∧
    (s.Clear (srcRes a ++ srcRes b ++ srcRes q) → granted → s.mem.badAcc = [] →
      ∃ (s1 t : State), exec (.sta n q a b) s = .next t ∧ s1.Given t n 4 (fun _ => {}) ∧ s1 = { s with cores := s1.cores } ∧
        (∀ k, k ≠ c → s1.core k = s.core k) ∧ s1.core c = { s.core c with acc := (s1.core c).acc } ∧
        ∀ k, (s1.core c).acc.get 0 k = match (s.execLanes.filter (fun i => decide (word (s.view i) = k))).getLast? with
          | none => (s.core c).acc.get 0 k
          | some i => (s.view i).src 2 q) ∧
    (s.Handled → s.Calm → outside →
      (s.Clear (srcRes a ++ srcRes b) → s.Splits (.lda n d a b) n 4 (fun _ => {}) (fun v => some (0x0B, 0, v.ln.pc))) ∧
      (s.Clear (srcRes a ++ srcRes b ++ srcRes q) → s.Splits (.sta n q a b) n 4 (fun _ => {}) (fun v => some (0x0B, 0, v.ln.pc)))))

/-- talloc of an empty entry with a descriptor that meets the conditions makes the entry, Filling or, with nothing
expected, Ready; tfree empties an entry that nothing fills or reads, and else marks it; twait and ldt wait while the
entry fills, and once it is Ready twait goes on and ldt gives each lane a word of it. An empty entry traps with code
0x0B. ttag sets the task's tensor id to bits 11 to 0 of s[a]. tdisc of an id other than 0 takes every line of the
partition with that id out of every L1 and both L2s, and every such granule out of its engine, without writing it
back, and no other; one of id 0 takes none. The bytes of the stacks and every register stay. The model's choices, by
entry of its assumption log: that the granules of such lines leave the synchronisation engines, and the writes to such
lines the strait, is its choice (log entry 24): R261 names the lines of L1 and L2. The entries that a group owns are
not spoken of. (R214, R215, R217, R218, R220, R221, R222, R223, R260, R261, R332, R333.) -/
def Obligations.TilesAndTensorIds : Prop :=
  (∀ (s : State) (n : Stall) (t a : BitVec 6) (d : Dst) (q : Src) (e : Tile) (base size expect fmt swz : Nat),
    let c := s.cur.warp / 16
    let w := s.warp s.cur.warp
    let tiles := (s.core c).tiles
    let unwatched := ∀ k, ∀ p ∈ (s.warp k).lanes, p.2.wait ≠ .tile t.toNat
    let changed := fun (s1 : State) => s1 = { s with cores := s1.cores } ∧ (∀ k, k ≠ c → s1.core k = s.core k) ∧
      s1.core c = { s.core c with tiles := (s1.core c).tiles } ∧ ∀ k, k ≠ t.toNat → (s1.core c).tiles.find? k = tiles.find? k
    let off := fun (v : View) => (v.src 0 q).toNat
    (s.StrandClear [a.toNat] → unwatched → tiles.find? t.toNat = none →
      s.sval s.cur.warp 0 a.toNat = BitVec.ofNat 64 (base + size * 2 ^ 14 + expect * 2 ^ 28 + fmt * 2 ^ 42 + swz * 2 ^ 46) →
      base < 2 ^ 14 → 0 < size → size ≤ 14336 → expect ≤ size → fmt < 8 → swz < 7 → (base + size) * 16 ≤ 32768 * (s.core c).ways →
      (∀ p ∈ tiles, base + size ≤ p.2.base ∨ p.2.base + p.2.size ≤ base) →
      (swz ≠ 0 → base * 16 % 2 ^ (swz + 3) = 0 ∧ size * 16 % 2 ^ (swz + 3) = 0) →
      ∃ (s1 u : State), exec (.talloc n t a) s = .next u ∧ s1.StrandOnly u n 4 {} ∧ changed s1 ∧
        (s1.core c).tiles.find? t.toNat = some
          { st := if expect = 0 then .ready else .filling, owner := .task s.cur.warp, base := base,
            size := size, expect := expect, tfmt := fmt, swz := swz }) ∧
    (s.StrandClear [] → unwatched → tiles.find? t.toNat = some e → e.owner = .task s.cur.warp → e.freeing = false → tiles.rising = true →
      ∃ (s1 u : State), exec (.tfree n t) s = .next u ∧ s1.StrandOnly u n 4 {} ∧ changed s1 ∧
        (s1.core c).tiles.find? t.toNat = if e.fills = 0 ∧ e.readers = 0 then none else some { e with freeing := true }) ∧
    (s.Clear (srcRes q) → tiles.find? t.toNat = some e → e.owner = .task s.cur.warp → e.freeing = false → e.fail = false →
      (e.st = .ready → s.Gives (.twait n t) n 4 (fun _ => {})) ∧
      (e.st ≠ .ready → s.untold s.cur.warp = none → ∀ i ∈ [Instr.twait n t, .ldt n d q t], ∃ u, exec i s = .next u ∧
        u = { s with warps := u.warps, clock := u.clock } ∧
        (∀ j ∈ s.execLanes, (u.warp s.cur.warp).lane j = { w.lane j with wait := .tile t.toNat }) ∧
        ∀ j, j ∉ s.execLanes → (u.warp s.cur.warp).lane j = w.lane j)) ∧
    (s.Clear (srcRes q) → tiles.find? t.toNat = some e → e.owner = .task s.cur.warp → e.freeing = false → e.fail = false → e.st = .ready →
      s.mem.badSpad = [] → (∀ i ∈ s.execLanes, off (s.view i) % 4 = 0 ∧ off (s.view i) + 4 ≤ 16 * e.size) →
      s.Gives (.ldt n d q t) n 4 (fun v => result d (BitVec.ofNat 32 (ofBytes ((List.range 4).map (fun k =>
        cellGet (s.core c).spad (16 * e.base + off v + k))))))) ∧
    (s.Handled → s.Calm → s.Clear (srcRes q) → tiles.find? t.toNat = none →
      ∀ i ∈ [Instr.twait n t, .ldt n d q t], s.Splits i n 4 (fun _ => {}) (fun v => some (0x0B, 0, v.ln.pc)))) ∧
  (∀ (s : State) (n : Stall) (a : BitVec 6), s.StrandClear [a.toNat] → s.mem.syncReqs = [] →
    let id := (s.sval s.cur.warp 0 a.toNat).toNat % 4096
    let part := (s.warp s.cur.warp).part
    (∃ t, exec (.ttag n a) s = .next t ∧ (s.updWarp s.cur.warp (fun v => { v with tid := id })).StrandOnly t n 4 {}) ∧
    ∃ (s1 t : State), exec (.tdisc n a) s = .next t ∧ s1.StrandOnly t n 4 {} ∧ (id = 0 → s1 = s) ∧
      s1 = { s with cores := s1.cores, mem := { s.mem with l2 := s1.mem.l2, strait := s1.mem.strait, granules := s1.mem.granules } } ∧
      (∀ c, s1.core c = { s.core c with l1 := (s1.core c).l1 }) ∧
      (id ≠ 0 → (∀ c k l, (k, l) ∈ (s1.core c).l1 ↔ (k, l) ∈ (s.core c).l1 ∧ ¬(l.tid = id ∧ l.part = part)) ∧
        (∀ k l, (k, l) ∈ s1.mem.l2 ↔ (k, l) ∈ s.mem.l2 ∧ ¬(l.tid = id ∧ l.part = part)) ∧
        ∀ k g, (k, g) ∈ s1.mem.granules ↔ (k, g) ∈ s.mem.granules ∧ ¬(g.tid = id ∧ g.part = part)))

/-- Where the holder is the task alone, has no grant, and no request waits in the cluster, aalloc of a legal size with a
free range completes: the task has one more grant on its core, of that size at a base that is a multiple of 256 and
meets no other grant, and s[d] receives base + size × 2^16. An illegal size gives the code AGRANT, 0x0B, with bit 63
set, a second request traps with code 0x0A, and afree releases the grant. (R235, R236, R372.) -/
def Obligations.Grants : Prop :=
  ∀ (s : State) (n : Stall) (d a : BitVec 6) (k : BitVec 2) (size b : Nat),
    let c := s.cur.warp / 16
    let w := s.warp s.cur.warp
    let g := c / 16
    let mine := fun (x : Grant) => x.holder = .task s.cur.warp
    let asked := s.sval s.cur.warp 0 a.toNat
    s.StrandClear [a.toNat] → w.trec.group? k.toNat = none →
    ((∀ p ∈ s.cores, ∀ x ∈ p.2.grants, ¬mine x) → (∀ p ∈ s.clusters, ∀ x ∈ p.2.areqs, x.holder ≠ .task s.cur.warp) →
      (asked.toNat = size → 256 ≤ size → size ≤ 32768 → size % 256 = 0 → (s.cluster g).areqs = [] → b % 256 = 0 → b + size ≤ 32768 →
        (∀ x ∈ (s.core c).grants, b + size ≤ x.base ∨ x.base + x.size ≤ b) → (∀ x ∈ (s.core c).grants, 0 < x.size) →
        ∃ (t : State) (base num : Nat), exec (.aalloc n d a k) s = .next t ∧ base % 256 = 0 ∧ base + size ≤ 32768 ∧
          (∀ x ∈ (s.core c).grants, base + size ≤ x.base ∨ x.base + x.size ≤ base) ∧
          (t.core c).grants = (s.core c).grants ++ [{ holder := .task s.cur.warp, base := base, size := size, num := num }] ∧
          (∀ r, (t.warp s.cur.warp).sreg r = if r = d.toNat then BitVec.ofNat 64 (base + size * 2 ^ 16) else w.sreg r) ∧
          (t.warp s.cur.warp).spc = w.spc + 4 ∧ (t.warp s.cur.warp).swait = .none ∧ (t.cluster g).areqs = [] ∧
          t = { s with warps := t.warps, cores := t.cores, clusters := t.clusters, clock := t.clock } ∧
          (∀ j, j ≠ c → t.core j = s.core j) ∧ ∀ j, j ≠ s.cur.warp → t.warp j = s.warp j) ∧
      (asked.toNat < 256 ∨ 32768 < asked.toNat ∨ asked.toNat % 256 ≠ 0 →
        s.StrandGives (.aalloc n d a k) n 4 { s := [(d.toNat, BitVec.ofNat 64 (2 ^ 63 + 0x0B))] })) ∧
    ((∃ p ∈ s.cores, ∃ x ∈ p.2.grants, mine x) → s.Handled → w.live ≠ 0 → s.StrandTraps (.aalloc n d a k) 0x0A) ∧
    ((∀ p ∈ s.cores, p.2.q0 = []) → (∀ p ∈ s.clusters, p.2.leases = []) → w.waitOn = none →
      ∃ (s1 t : State), exec (.afree n k) s = .next t ∧ s1.StrandOnly t n 4 {} ∧ s1 = { s with cores := s1.cores } ∧
        ∀ j, s1.core j = { s.core j with grants := (s1.core j).grants } ∧
          ∀ x, x ∈ (s1.core j).grants ↔ x ∈ (s.core j).grants ∧ ¬mine x)

/-- A bond of a shape is granted where the group is cluster-bound and holds a resident member on every core of the aligned
rectangle, and no lease covers one of them: s[d] is 0 and the cluster has one more lease, of exactly those cores. A
strait bond is granted over both clusters of a usable seam pair whose other cluster is idle and of the same partition
and regulator. Codes 1 to 7 answer the requests that the table names, in its order; a shape code of 3 traps; unbond of
an idle lease ends it. The model's choices, by entry of its assumption log: that a group answers HELD, code 2, for as
long as a revoked lease of it still drains, its mark cleared, is its choice (log entry 42). (R189, R190, R191, R193,
R196, R237, R238.) -/
def Obligations.Bonds : Prop :=
  ∀ (s : State) (n : Stall) (d : BitVec 6) (k cc rc : BitVec 2) (g h i : Nat) (l : Lease),
    let w := s.warp s.cur.warp
    let c := s.cur.warp / 16
    let cl := c / 16
    let shape := fun (x : BitVec 2) => if x = 0 then 1 else if x = 1 then 2 else 4
    let L := s.launch w.lid
    let answers := fun (j : Instr) (v : Nat) => s.StrandGives j n 4 { s := [(d.toNat, BitVec.ofNat 64 v)] }
    let member := fun (x : Nat) => ∃ u, u / 16 = x ∧ (s.warp u).slot ≠ .free ∧ (s.warp u).lid = w.lid ∧ g ∈ (s.warp u).groupNos
    let free := fun (x : Nat) => (s.leaseAt x).isNone = true
    let granted := fun (j : Instr) (ok : Lease → Prop) => ∃ (s1 t : State), exec j s = .next t ∧
      s1.StrandOnly t n 4 { s := [(d.toNat, 0)] } ∧ (∀ x, x ≠ cl → s1.cluster x = s.cluster x) ∧
      s1 = { s with clusters := s1.clusters, cores := s1.cores, clock := s1.clock } ∧
      ∃ y, (s1.cluster cl).leases = (s.cluster cl).leases ++ [y] ∧ y.lid = w.lid ∧ y.grp = g ∧ y.st = .held ∧ y.q0 = [] ∧ ok y
    let inRect := fun (a b x : Nat) => x / 16 = cl ∧ x % 16 / 4 / a = c % 16 / 4 / a ∧ x % 4 / b = c % 4 / b
    s.StrandClear [] →
    (cc ≠ 3 → rc ≠ 3 → w.trec.group? k.toNat = none → answers (.bond n d k cc rc) 1 ∧ answers (.bondStrait n d k) 1) ∧
    (cc ≠ 3 → rc ≠ 3 → w.trec.group? k.toNat = some g → (L.group g).place = 2 → (s.leaseOf w.lid g).isSome = true →
      answers (.bond n d k cc rc) 2 ∧ answers (.bondStrait n d k) 2) ∧
    (cc ≠ 3 → rc ≠ 3 → w.trec.group? k.toNat = some g → (L.group g).place = 2 → (s.leaseOf w.lid g).isNone = true →
      (L.gstate g).revoked = false → (∀ x, inRect (shape rc) (shape cc) x → member x ∧ free x ∧ (s.core x).q0 = []) →
      granted (.bond n d k cc rc) (fun y => y.rows = shape rc ∧ y.cols = shape cc ∧ y.strait = false ∧
        ∀ x, x ∈ y.cores ↔ inRect (shape rc) (shape cc) x)) ∧
    (cc ≠ 3 → rc ≠ 3 → w.trec.group? k.toNat = some g → (L.group g).place = 2 → (s.leaseOf w.lid g).isNone = true →
      (L.gstate g).revoked = false →
      let rect := inRect (shape rc) (shape cc)
      let both := fun (x : Nat) => x / 16 = cl ∨ ∃ h i, seamOf cl = some (h, i) ∧ x / 16 = h
      ((∃ x, rect x ∧ ¬member x) → answers (.bond n d k cc rc) 3) ∧
      ((∃ x, x / 16 = cl ∧ ¬member x) → answers (.bondStrait n d k) 3) ∧
      ((∀ x, rect x → member x) → (∃ x, rect x ∧ ¬free x) → answers (.bond n d k cc rc) 4) ∧
      ((∀ x, x / 16 = cl → member x) → (∃ x, both x ∧ ¬free x) → answers (.bondStrait n d k) 4)) ∧
    (w.trec.group? k.toNat = some g → (L.group g).place = 2 → (s.leaseOf w.lid g).isNone = true → (L.gstate g).revoked = false →
      (∀ x, x / 16 = cl → member x ∧ free x ∧ (s.core x).q0 = []) →
      (seamOf cl = none → answers (.bondStrait n d k) 5) ∧
      (seamOf cl = some (h, i) → s.seamMap / 2 ^ i % 2 = 0 → (∀ x, x / 16 = h → free x) → answers (.bondStrait n d k) 5) ∧
      (seamOf cl = some (h, i) → s.seamMap / 2 ^ i % 2 = 1 → (∀ x, x / 16 = h → free x) →
        (s.cpart cl ≠ s.cpart h ∨ s.regulator cl ≠ s.regulator h → answers (.bondStrait n d k) 6) ∧
        (s.cpart cl = s.cpart h → s.regulator cl = s.regulator h → (∃ x, x / 16 = h ∧ s.residents x ≠ []) →
          answers (.bondStrait n d k) 7)) ∧
      (seamOf cl = some (h, i) → s.seamMap / 2 ^ i % 2 = 1 → s.cpart cl = s.cpart h → s.regulator cl = s.regulator h →
        (∀ x, x / 16 = h → free x ∧ (s.core x).q0 = [] ∧ s.residents x = []) →
        (∀ j < 16, (s.core (16 * h + j)).ways = (s.core (16 * cl + j)).ways ∧
          ∀ p ∈ (s.core (16 * h + j)).l1, (s.core (16 * h + j)).ways ≤ p.2.way) →
        granted (.bondStrait n d k) (fun y => y.rows = 4 ∧ y.cols = 8 ∧ y.strait = true ∧ y.lent = some h ∧
          ∀ x, x ∈ y.cores ↔ x / 16 = cl ∨ x / 16 = h))) ∧
    (cc = 3 ∨ rc = 3 → s.Handled → w.live ≠ 0 → s.StrandTraps (.bond n d k cc rc) 0x01) ∧
    (w.trec.group? k.toNat = some g → (L.gstate g).revoked = false → s.leaseOf w.lid g = some (cl, l) → l.q0 = [] → l.st = .held → w.waitOn = none →
      ∃ (s1 t : State), exec (.unbond n k) s = .next t ∧ s1.StrandOnly t n 4 {} ∧ s1 = { s with clusters := s1.clusters } ∧
        ∀ x, s1.cluster x = { s.cluster x with leases := (s1.cluster x).leases } ∧
          ∀ y, y ∈ (s1.cluster x).leases ↔ y ∈ (s.cluster x).leases ∧ ¬(y.lid = w.lid ∧ y.grp = g)) ∧
    (w.trec.group? k.toNat = none → s.StrandGives (.unbond n k) n 4 {})

/-- With L1 clean and room in the queue, tcopy and tquant place an operation in their queue and gath and scat in q5, with
the address of a parameter block that must be a multiple of 64 (else trap 0x0C); prom and dem place one in q7 with the
physical address of their row; mma reads its parameter block and places one in q0 of its core where its tiles and
shape pass the checks. A full queue makes the strand wait. The model's choices, by entry of its assumption log: what
is recorded of who knows of bytes that the host does not see yet is its choice (log entry 35). qfence records its set
with the number of the next operation and the strand goes on; on the empty set it does nothing. qwait goes on at once
where no operation of the task stands in a queue of the set, having acquired at die scope, and else waits and changes
nothing else. An operation behind a fence may not begin while an operation before it stands in a queue of its set.
(R210, R211, R224, R234, R239, R241, R300, R301, R302, R334, R338, R304.) -/
def Obligations.EngineQueuesAndFences : Prop :=
  (∀ (s : State) (n : Stall) (q : BitVec 3) (a : BitVec 6) (p : BitVec 1) (pa : Nat),
    let w := s.warp s.cur.warp
    let c := s.cur.warp / 16
    let va : Addr := (s.sval s.cur.warp 0 a.toNat).setWidth 56
    let blocks : List (Instr × OpKind × Nat) :=
      [(.tcopy n q a, .tcopy, q.toNat), (.tquant n q a, .tquant, q.toNat), (.gath n a, .gath, 5), (.scat n a, .scat, 5)]
    let rows : List (Instr × OpKind) := [(.prom n a p, .prom (decide (p = 1))), (.dem n a, .dem)]
    s.StrandClear [a.toNat] → s.mem.syncReqs = [] → s.CleanL1 →
    (∀ b ∈ blocks, (va.toNat % 64 = 0 → (w.queues.get [] b.2.2).length < 16 → s.Places b.1 n b.2.2 (s.issued b.2.1 b.2.2 va)) ∧
      (va.toNat % 64 = 0 → 16 ≤ (w.queues.get [] b.2.2).length →
        exec b.1 s = .next (s.updWarp s.cur.warp (fun v => { v with swait := .qfull b.2.2 }))) ∧
      (va.toNat % 64 ≠ 0 → s.Handled → w.live ≠ 0 → s.StrandTraps b.1 0x0C)) ∧
    (∀ b ∈ rows, s.StrandReaches va 1 .read pa → (w.queues.get [] 7).length < 16 →
      s.Places b.1 n 7 { s.issued b.2 7 va with redAddr := pa }) ∧
    (s.revokedFor s.cur.warp = true → s.Handled → w.live ≠ 0 → s.StrandTraps (.mma n a) 0x13) ∧
    (s.revokedFor s.cur.warp = false → s.StrandReaches va 64 .read pa → s.InL2 pa → s.liveLease c = none → (s.core c).q0.length < 16 →
      let o : EngOp := { s.issued .mma 0 va with pb := s.mem.lookN (warpDie s.cur.warp) (canonPa pa) 64, cores := [c] }
      o.mTiles.any (s.mmaTileBad s.cur.warp) = false → s.mmaShape s.cur.warp o = false →
      ∃ (s0 s1 t : State), exec (.mma n a) s = .next t ∧ s1.StrandOnly t n 4 {} ∧ s.KnowsMore s0 ∧
        s1 = { s0 with cores := s1.cores, warps := s1.warps, mem := { s0.mem with toClu := s1.mem.toClu } } ∧
        (∀ k, s1.warp k = if k = s.cur.warp then { w with opNum := w.opNum + 1, mrow := 0 } else s.warp k) ∧
        (∀ k, k ≠ c → s1.core k = s0.core k) ∧ s1.core c = { s0.core c with q0 := (s.core c).q0 ++ [{ o with dests := [(c, 0)] }] })) ∧
  (∀ (s : State) (n : Stall) (q : BitVec 8) (o e : EngOp) (f : QFence), s.StrandClear [] →
    let w := s.warp s.cur.warp
    let c := s.cur.warp / 16
    let within := fun (x : EngOp) => bitAt q x.q = true
    (∃ (kept : List QFence) (t : State), exec (.qfence n q) s = .next t ∧
      (∀ x ∈ w.fences, x ∈ kept ∨ ∀ y ∈ s.opsOf s.cur.warp, x.num ≤ y.num) ∧ (∀ x ∈ kept, x ∈ w.fences) ∧
      (s.updWarp s.cur.warp (fun v => { v with fences := if q = 0 then v.fences else kept ++ [{ set := q.toNat, num := v.opNum }] })).StrandOnly
        t n 4 {}) ∧
    ((∀ x ∈ s.opsOf s.cur.warp, ¬within x) →
      (∀ k l, (s.core c).l1? k = some l → l.dirty ≠ 0 → (s.mem.line? (warpDie s.cur.warp) k).isSome = true) → s.mem.granules = [] →
      ∃ (s1 t : State), exec (.qwait n q) s = .next t ∧ s1.StrandOnly t n 4 {} ∧
      (q = 0 → s1 = s) ∧ s1 = { s with cores := s1.cores, mem := { s.mem with toClu := s1.mem.toClu, unseen := s1.mem.unseen } } ∧ (∀ k, k ≠ c → s1.core k = s.core k) ∧
      s1.core c = { s.core c with l1 := (s1.core c).l1 } ∧ (q ≠ 0 → ∀ k l, (s1.core c).l1? k = some l → l.dirty ≠ 0)) ∧
    ((∃ x ∈ s.opsOf s.cur.warp, within x) →
      exec (.qwait n q) s = .next (s.updWarp s.cur.warp (fun v => { v with swait := .queues q.toNat v.opNum }))) ∧
    (f ∈ (s.warp o.warp).fences → bitAt (BitVec.ofNat 8 f.set) o.q = true → f.num ≤ o.num → e ∈ s.opsOf o.warp →
      bitAt (BitVec.ofNat 8 f.set) e.q = true → e.num < f.num → s.mayStart o = false))

/-- A member that arrives last, every other member of its group having been created and having arrived at the same
instance or ended, goes on at the next word, and its gred receives the operation over the values in ascending order of
task id; one that others are missing from waits. The launch barrier does the same for the initial tasks of a launch
that needs every core. A barrier in a diverged warp traps with code 0x05, on an empty group slot with code 0x0B, and
on an unbound group of a launch without CORES with code 0x08. Where a handler is set: gbar and lbar in a diverged warp
trap with code 0x05 in the executing lanes; gbar on an empty group slot traps with code 0x0B, and on a group that is
not bound in a launch without CORES with code 0x08; lbar in such a launch, or in a task that is no initial task, traps
with code 0x08; gred does the same as gbar for the strand. (R54, R342, R343, R370, R371, R400, R401.) -/
def Obligations.BarriersAndReductions : Prop :=
  (∀ (s : State) (n : Stall) (k : BitVec 2) (d a : BitVec 6) (p : GredOp) (g : Nat) (L : Launch) (r0 : RedArr),
    let w := s.warp s.cur.warp
    let me := w.taskId
    let on := fun (t : State) => (t.warp s.cur.warp).swait = .none ∧ (t.warp s.cur.warp).spc = w.spc + 4 ∧
      ∀ i ∈ lanesOf w.live, ((t.warp s.cur.warp).lane i).pc = w.spc + 4
    let value := s.sval s.cur.warp 0 a.toNat
    let two := fun (q : GredOp) (x y : Word64) => match q with
      | .add => BitVec.ofNat 64 (x.toNat + y.toNat)
      | .fadd => (fAdd false (BitVec.ofNat 32 x.toNat) (BitVec.ofNat 32 y.toNat)).val.setWidth 64
      | .min => if x.toInt ≤ y.toInt then x else y
      | .max => if x.toInt < y.toInt then y else x
      | .and => x &&& y
      | .or => x ||| y
      | .xor => x ^^^ y
    w.slot ≠ .free → w.converged = true → s.launch? w.lid = some L → L.cores = true →
    (w.trec.group? k.toNat = some g → s.glitch = none → s.untold s.cur.warp = none →
      (L.gstate g).created = (L.group g).count →
      ((L.barAt g (L.barCount g me) ++ [me] ++ (L.gstate g).ended).dedup.length = (L.group g).count →
        ∃ t, exec (.gbar n k) s = .next t ∧ on t) ∧
      ((L.barAt g (L.barCount g me) ++ [me] ++ (L.gstate g).ended).dedup.length ≠ (L.group g).count →
        ∃ t, exec (.gbar n k) s = .next t ∧ (t.warp s.cur.warp).swait = .gbar k.toNat ∧ (t.warp s.cur.warp).spc = w.spc) ∧
      (s.StrandClear [a.toNat] → L.redAt g (L.redCount g me) = [] → ([me] ++ (L.gstate g).ended).dedup.length = (L.group g).count →
        ∃ t, exec (.gred n d a k p) s = .next t ∧ on t ∧ (t.warp s.cur.warp).sreg d.toNat = value) ∧
      (s.StrandClear [a.toNat] → L.redAt g (L.redCount g me) = [r0] → r0.id ≠ me →
        ([r0.id, me] ++ (L.gstate g).ended).dedup.length = (L.group g).count →
        ∃ t, exec (.gred n d a k p) s = .next t ∧ on t ∧ (t.warp s.cur.warp).sreg d.toNat =
          if r0.id < me then two r0.op r0.val value else two p value r0.val)) ∧
    (me < L.nrec →
      let at_ := (L.lbarAt.filter (fun x => decide (x.1 = L.lbarCount me))).map (·.2)
      let here := ((at_ ++ [me] ++ L.endedInit).filter (fun i => decide (i < L.nrec))).dedup.length
      (here = L.nrec → ∃ t, exec (.lbar n) s = .next t ∧ on t) ∧
      (here ≠ L.nrec → ∃ t, exec (.lbar n) s = .next t ∧ (t.warp s.cur.warp).swait = .lbar ∧ (t.warp s.cur.warp).spc = w.spc))) ∧
  (∀ (s : State) (n : Stall) (k : BitVec 2) (d a : BitVec 6) (p : GredOp) (g : Nat), s.Handled → s.Calm → s.glitch = none →
    let w := s.warp s.cur.warp
    let L := s.launch w.lid
    let all := fun (i : Instr) (code : Nat) => s.Splits i n 4 (fun _ => {}) (fun v => some (code, 0, v.ln.pc))
    (w.converged = false → all (.gbar n k) 0x05 ∧ all (.lbar n) 0x05) ∧
    (w.converged = true →
      (w.trec.group? k.toNat = none → all (.gbar n k) 0x0B ∧
        (s.StrandClear [a.toNat] → w.live ≠ 0 → s.StrandTraps (.gred n d a k p) 0x0B)) ∧
      (w.trec.group? k.toNat = some g → (L.group g).place = 0 → L.cores = false → all (.gbar n k) 0x08 ∧
        (s.StrandClear [a.toNat] → w.live ≠ 0 → s.StrandTraps (.gred n d a k p) 0x08)) ∧
      (L.cores = false ∨ L.nrec ≤ w.taskId → all (.lbar n) 0x08)))

/-- Where the launch runs and the template, without counter and groups, is read at L2: spawn puts one record at the end of
the cluster's queue with the next task id, ARG0 from s[b], CONT clear and the launch's id; spawnl puts one for each
executing lane in ascending order, with ARG0 and ARG1 from the lane; each is a release at device scope. cont ends
every lane of a task without bound groups and keeps the record that its descriptor makes until the task has ended. The
model's choices, by entry of its assumption log: the address that the record of a spawn, spawnl or cont bears, that of
its template or descriptor, is its choice (log entry 47), and so is what it records of who knows of bytes that the
host does not see yet (log entry 35). (R40, R47, R50, R51, R61, R397, R398, R399.) -/
def Obligations.TaskCreation : Prop :=
  ∀ (s : State) (n : Stall) (a b r : BitVec 6) (x y : Src) (pa : Nat) (L : Launch),
    let w := s.warp s.cur.warp
    let g := s.cur.warp / 256
    let die := warpDie s.cur.warp
    let bytes := s.mem.lookN die (canonPa pa) 64
    let tmpl := taskRecOf bytes
    let child := fun (a0 a1 : Word64) => { tmpl with
      launch := BitVec.ofNat 32 L.lid, arg0 := a0, arg1 := a1,
      flags := (tmpl.flags &&& ~~~(4 : Word)) ||| (if L.check then 2 else 0) }
    let at_ := fun (e : BitVec 6) => ((s.sval s.cur.warp 0 e.toNat).setWidth 56 : Addr)
    let made := fun (s1 : State) (k : Nat) => s1.launch? w.lid = some { L with nextId := L.nextId + k } ∧
      (∀ j, j ≠ w.lid → s1.launch? j = s.launch? j) ∧ s1.mem.epoch die = s.mem.epoch die + k ∧
      (∀ j, j ≠ g → s1.cluster j = s.cluster j) ∧
      ∃ s0, s.KnowsMore s0 ∧ s1 = { s0 with clusters := s1.clusters, launches := s1.launches,
                                            mem := { s0.mem with toClu := s1.mem.toClu, e0 := s1.mem.e0, e1 := s1.mem.e1 } }
    let sound := tmpl.join = 0 ∧ tmpl.groupNos = [] ∧ s.launch? w.lid = some L ∧ L.st = .running ∧ s.CleanL1 ∧ s.InL2 pa
    (s.StrandClear [a.toNat, b.toNat] → s.StrandReaches (at_ a) 64 .read pa → sound → L.nextId < 2 ^ 32 → (s.cluster g).queue.length < 256 →
      ∃ (s1 t : State), exec (.spawn n a b) s = .next t ∧ s1.StrandOnly t n 4 {} ∧ made s1 1 ∧
        s1.cluster g = { s.cluster g with queue := (s.cluster g).queue ++
          [{ trec := child (s.sval s.cur.warp 1 b.toNat) tmpl.arg1, id := L.nextId,
             lid := w.lid, addr := (at_ a).toNat, initial := false, excess := false }] }) ∧
    (let va : Addr := (w.sreg r.toNat).setWidth 56
     s.Clear (srcRes x ++ srcRes y) → s.execLanes ≠ [] → (∀ i ∈ s.execLanes, (w.lane i).failed = []) → s.StrandReaches va 64 .read pa → sound →
      L.nextId + 32 < 2 ^ 32 → (s.cluster g).queue.length + 32 < 256 →
      ∃ (s1 t : State), exec (.spawnl n x y r) s = .next t ∧ s1.Given t n 8 (fun _ => {}) ∧ made s1 s.execLanes.length ∧
        s1.cluster g = { s.cluster g with queue := (s.cluster g).queue ++ s.execLanes.zipIdx.map (fun p =>
          { trec := child (((s.view p.1).src 0 x).setWidth 64) (((s.view p.1).src 1 y).setWidth 64), id := L.nextId + p.2,
            lid := w.lid, addr := va.toNat, initial := false, excess := false }) }) ∧
    (s.StrandClear [a.toNat] → s.StrandReaches (at_ a) 64 .read pa → s.AtL2 pa → (s.launch w.lid).namesBound w.trec = false →
      numAt bytes 32 8 % 8 = 0 → numAt bytes 56 8 = 0 →
      ∃ s0 t, exec (.cont n a) s = .next t ∧ (∀ i < 32, ((t.warp s.cur.warp).lane i).st = .exited) ∧ s.KnowsMore s0 ∧
        t = { s0 with warps := t.warps, mem := { s0.mem with toClu := t.mem.toClu } } ∧
        (∀ j, j ≠ s.cur.warp → t.warp j = s.warp j) ∧
        (t.warp s.cur.warp).ending = .contEnding
          { code := BitVec.ofNat 64 (numAt bytes 0 8), frame := BitVec.ofNat 64 (numAt bytes 8 8), join := BitVec.ofNat 64 (numAt bytes 16 8),
            itemq := BitVec.ofNat 64 (numAt bytes 24 8), launch := BitVec.ofNat 32 w.lid, groups := w.trec.groups,
            flags := w.trec.flags ||| 4, arg0 := BitVec.ofNat 64 (numAt bytes 40 8), arg1 := BitVec.ofNat 64 (numAt bytes 48 8) }
          (numAt bytes 32 8) (at_ a).toNat)

/-- Where the item queue of the task is homed on its die and holds an item, one lane of the warp is vacant, and the
executing lanes stand at one PC: refill advances HEAD by one, and the vacant lane becomes live after the refill with
the item in d, empty result history and the mask bits of the lowest executing lane; the executing lanes go on with
their registers. A task without an item queue traps with code 0x01. The model's choices, by entry of its assumption
log: that the item lies at BASE rounded down to a multiple of 4 and that the bits 63 to 56 of ITEMQ and BASE are
dropped is its choice (log entry 46); the rules give no such case. (R45, R46, R396.) -/
def Obligations.Refill : Prop :=
  ∀ (s : State) (n : Stall) (d : Dst) (p : Addr) (v i0 pa ipa : Nat) (e : TlbEnt),
    let w := s.warp s.cur.warp
    let die := warpDie s.cur.warp
    let m := s.strandMaster s.cur.warp
    let desc := s.mem.lookN die pa 32
    let head := numAt desc 16 4
    let iva := (numAt desc 0 8 / 4 * 4 + 4 * (head % numAt desc 8 4)) % 2 ^ 56
    let item := BitVec.ofNat 32 (ofBytes (s.mem.lookN die ipa 4))
    (w.trec.itemq ≠ 0 → s.glitch = none → s.mem.syncReqs = [] → lanesOf w.vacant = [v] → s.execLanes.head? = some i0 →
      (∀ i ∈ s.execLanes, (w.lane i).pc = p ∧ (w.lane i).failed = []) →
      s.Reach m (w.trec.itemq.setWidth 56) .atomic pa → pa / 2 ^ 46 = 0 → pa % 32 = 0 → homeOf pa = die → homeOf (pa / 128 * 128) = die →
      s.AtL2 pa → s.CleanL1 → s.mem.held = [] →
      numAt desc 8 4 ≠ 0 → numAt desc 8 4 ≤ 2 ^ 31 → numAt desc 12 4 = 0 → numAt desc 24 8 = 0 → numAt desc 20 4 ≠ head →
      s.tlbFor m iva = some e → e.rd = true → ipa = e.pbase + iva % 2 ^ e.bits → ipa / 2 ^ 46 = 0 → s.sys.rangeOld = [] →
      s.paAllowed w.part ipa .read = true → s.trackRead (some w.lid) ipa = s → s.mem.strait = [] →
      homeOf ipa = die → homeOf (ipa / 128 * 128) = die → (s.mem.line? die (ipa / 128)).isSome = true → ipa / 8 ≠ (pa + 16) / 8 →
      ipa % 4 = 0 → ∃ t, exec (.refill n d) s = .next t ∧
        ofBytes (t.mem.lookN die (pa + 16) 4) = (head + 1) % 2 ^ 32 ∧ (t.warp s.cur.warp).refillPc = some p ∧
        (let l := (t.warp s.cur.warp).lane v
         l.st = .live ∧ l.pc = p + 4 ∧ l.l0 = 0 ∧ l.l1 = 0 ∧ l.rstk = [] ∧ l.m = (w.lane v).m ∧ l.x = (w.lane v).x ∧
         (∀ k, l.o.get 0 k = match d with
           | .o r => if k = r.toNat then item else (w.lane v).o.get 0 k
           | .zero => (w.lane v).o.get 0 k)) ∧
        (∀ k, 1 ≤ k → k < 12 → bitAt ((t.warp s.cur.warp).mks.get 0 k) v = bitAt (w.mks.get 0 k) i0) ∧
        ∀ i ∈ s.execLanes, (w.lane i).Went ((t.warp s.cur.warp).lane i) n (p + 4)) ∧
    (w.trec.itemq = 0 → s.Handled → s.Calm → s.Clear [] → s.Splits (.refill n d) n 4 (fun _ => {}) (fun v => some (0x01, 0, v.ln.pc)))

/-- phase sets the phase marker of the issuing cluster, and with it that of the partition, and changes no more where the
partition has it already; perf sets the task's request; carve with codes 1 to 5 adds a request for code + 2 ways to
the core, unless the core already has that size and nothing waits, and with codes 0, 6 and 7 traps with code 0x01; esc
rolls the launch back: its record names ECC class code, task, core and the operand, and no slot holds a task of it any
more. (R252, R402, R403, R404, R450, R466, R486.) -/
def Obligations.SystemInstructions : Prop :=
  ∀ (s : State) (n : Stall) (v : BitVec 8) (p : BitVec 4) (k : BitVec 3) (L : Launch),
    let w := s.warp s.cur.warp
    let c := s.cur.warp / 16
    let asks := 1 ≤ k.toNat ∧ k.toNat ≤ 5
    (s.StrandClear [] → let s0 := s.updCluster (c / 16) (fun g => { g with phase := v })
      ∃ (s1 t : State), exec (.phase n v) s = .next t ∧ s1.StrandOnly t n 4 {} ∧
        s1 = { s0 with regs := s1.regs, sys := s1.sys, clock := s1.clock } ∧ s1.sys.markers.get 0 w.part = v.toNat ∧
        (s.sys.markers.get 0 w.part = v.toNat → s1 = s0)) ∧
    (s.StrandClear [] → ∃ t, exec (.perf n p) s = .next t ∧ (s.updWarp s.cur.warp (fun x => { x with perf := some p.toNat })).StrandOnly t n 4 {}) ∧
    (s.StrandClear [] → asks → (s.core c).ways = k.toNat + 2 → (s.core c).carves = [] → s.StrandGives (.carve n k) n 4 {}) ∧
    (s.StrandClear [] → asks → ((s.core c).ways ≠ k.toNat + 2 ∨ (s.core c).carves ≠ []) →
      ∃ t, exec (.carve n k) s = .next t ∧ (s.updCore c (fun x =>
        { x with carves := x.carves ++ [{ ways := k.toNat + 2, residents := s.residents c, trec := none }] })).StrandOnly t n 4 {}) ∧
    (s.StrandClear [] → ¬asks → s.Handled → w.live ≠ 0 → s.StrandTraps (.carve n k) 0x01) ∧
    (s.Clear [] → s.Calm → s.launch? w.lid = some L → L.st = .running →
      ∃ t, exec (.esc n v) s = .next t ∧ (∀ j, (t.warp j).slot ≠ .free → (t.warp j).lid ≠ w.lid) ∧
        t.launch? w.lid = some
          { L with st := .rolledBack, roll := true
                   fault := some { code := 0x0C, task := w.taskId, where_ := c, escr := v.toNat } })

/-- CMAP, CPART and the task-queue overflow registers take a write while the cluster is idle, CELLMASK (with a stage above
8 stored as 8) while every logical cluster mapped to the position is, SYNOVF while its overflow area is empty, BASE
and CAP of a fault queue while HEAD = TAIL; otherwise the write is ignored and sets ERR. QBIND, EXPW (a size above
131,072 stored as 131,072), VEC and HEAD take every write. REGSEL of an idle cluster begins a switch, during which
nothing is placed on the cluster, and REGULATOR_SWITCH_DONE ends it; FSCFG empties the bank's slots and sets their
number to at most 1,024; SYNC makes every range-table word the one in force. Each changes its own register alone.
Before READY no write of these takes effect, and none of a die that is off. The model's choices, by entry of its
assumption log: that a write of CMAP or of CELLMASK tells the machine that the repair of its cluster is done is entry
45. (R6, R405, R407, R409, R410, R424, R299, R356, R420, R434, R440, R469.) -/
def Obligations.DeviceRegisters : Prop :=
  ∀ (s : State) (die clu core stack bank q part : Nat) (v : BitVec 64),
    die < 2 → clu < 64 → core < 16 → stack < 12 → bank < 4096 → q < 64 → part < 16 →
    let g := 64 * die + clu
    let ht := s.reg (faultReg part 16)
    let die1 : List Instr := [.cmapWrite die clu v, .cpartWrite die clu v, .tqovfWrite die clu 0 v, .tqovfWrite die clu 1 v,
      .cellmaskWrite die clu core v, .synovfWrite die v, .qbindWrite die q v]
    let pkg1 : List Instr := [.expwWrite part 0 v, .expwWrite part 1 v, .regselWrite g v, .fscfgWrite stack bank v, .sync v,
      .faultqConfigWrite part 0 v, .faultqConfigWrite part 8 v, .faultqConfigWrite part 12 v, .faultQueueHeadWrite part v]
    (s.boot.stage ≠ 8 → ∀ i ∈ die1 ++ pkg1, exec i s = .next s) ∧
    (s.sys.off die = true → ∀ i ∈ die1, exec i s = .next s) ∧
    (∃ t, exec .regulatorSwitchDone s = .next t ∧ t = { s with sys := { s.sys with switching := t.sys.switching } } ∧
      ∀ p, p ∈ t.sys.switching ↔ p ∈ s.sys.switching ∧ p.1 ≠ s.cur.clu) ∧
    (s.boot.stage = 8 → s.sys.off die = false →
    (s.Idle g → ∃ t, exec (.cmapWrite die clu v) s = .next t ∧
      (s.repaired [g]).Stored t (dieBlk die (8 * clu)) (fun k => decide (k ≤ 6)) v) ∧
    (¬s.Idle g → ∃ t, exec (.cmapWrite die clu v) s = .next t ∧ s.Ignored t die) ∧
    (∀ p ∈ ([(.cpartWrite die clu v, 0x1000 + 8 * clu, fun k => decide (k = 7 ∨ k ≤ 3)),
             (.tqovfWrite die clu 0 v, 0x5000 + 16 * clu, fun k => decide (12 ≤ k ∧ k ≤ 47)),
             (.tqovfWrite die clu 1 v, 0x5008 + 16 * clu, fun k => decide (k ≤ 23))] : List (Instr × Nat × (Nat → Bool))),
      (s.Idle g → ∃ t, exec p.1 s = .next t ∧ s.Stored t (dieBlk die p.2.1) p.2.2 v) ∧
      (¬s.Idle g → ∃ t, exec p.1 s = .next t ∧ s.Ignored t die)) ∧
    (∀ pos < 68,
      let named := ∀ l < 64, field (s.reg (dieBlk die (8 * l))) 6 0 = pos → s.Idle (64 * die + l)
      (named → ∃ t, exec (.cellmaskWrite die pos core v) s = .next t ∧
        (s.repaired ((s.mapped die pos).map (fun l => 64 * die + l))).Stored t
          (dieBlk die (0x8000 + 8 * (16 * pos + core))) (fun k => decide (k ≤ 4))
          (BitVec.ofNat 64 (v.toNat / 16 * 16 + min 8 (v.toNat % 16)))) ∧
      (¬named → ∃ t, exec (.cellmaskWrite die pos core v) s = .next t ∧ s.Ignored t die)) ∧
    ((∀ p ∈ s.mem.granules, homeOf (8 * p.1) = die → p.2.area = none) →
      ∃ t, exec (.synovfWrite die v) s = .next t ∧ s.Stored t (dieBlk die 0x6000) (fun k => decide (k ≤ 47)) v) ∧
    ((∃ p ∈ s.mem.granules, homeOf (8 * p.1) = die ∧ p.2.area ≠ none) →
      ∃ t, exec (.synovfWrite die v) s = .next t ∧ s.Ignored t die) ∧
    (∃ t, exec (.qbindWrite die q v) s = .next t ∧
      s.Stored t (dieBlk die (0x2000 + 16 * q)) (fun k => decide (k = 63 ∨ 8 ≤ k ∧ k ≤ 11 ∨ k ≤ 3)) v) ∧
    (∃ t, exec (.expwWrite part 0 v) s = .next t ∧
      s.Stored t (pkgBlk (0x62000 + 16 * part)) (fun k => decide (21 ≤ k ∧ k ≤ 47)) v) ∧
    (∃ t, exec (.expwWrite part 1 v) s = .next t ∧
      s.Stored t (pkgBlk (0x62008 + 16 * part)) (fun k => decide (k ≤ 17)) (BitVec.ofNat 64 (min 131072 (v.toNat % 2 ^ 18)))) ∧
    (s.Idle g → s.regulator g = field v 1 0 → exec (.regselWrite g v) s = .next s) ∧
    (s.Idle g → s.regulator g ≠ field v 1 0 →
      ∃ t, exec (.regselWrite g v) s = .next t ∧ t.regulator g = field v 1 0 ∧ (∀ j, j ≠ g → t.regulator j = s.regulator j) ∧
        (g, field v 1 0) ∈ t.sys.switching ∧ t.schedules g = false ∧
        t = { s with regs := t.regs, sys := { s.sys with runs := t.sys.runs, switching := t.sys.switching } }) ∧
    (¬s.Idle g → ∃ t, exec (.regselWrite g v) s = .next t ∧ s.PkgIgnored t) ∧
    (∃ t, exec (.fscfgWrite stack bank v) s = .next t ∧ t.slotsOf stack bank = min 1024 (v.toNat % 2048) ∧
      (∀ f < 1024, t.slotAt stack bank f = none) ∧
      ∀ st b f, b < 4096 → f < 1024 → ¬(st = stack ∧ b = bank) →
        t.slotsOf st b = s.slotsOf st b ∧ t.slotAt st b f = s.slotAt st b f) ∧
    (∃ t, exec (.sync 1) s = .next t ∧ t.regs = s.regs ∧ ∀ a, t.rangeWord a = s.reg a) ∧
    (v ≠ 1 → exec (.sync v) s = .next s) ∧
    ((∀ f ∈ s.faults, f.part = part → f.written = true) →
      (field ht 31 0 = field ht 63 32 →
        (∃ t, exec (.faultqConfigWrite part 0 v) s = .next t ∧ s.Stored t (faultReg part 0) (fun k => decide (5 ≤ k ∧ k ≤ 47)) v) ∧
        ∃ t, exec (.faultqConfigWrite part 8 v) s = .next t ∧ s.Stored t (faultReg part 8) (fun k => decide (k ≤ 31)) v) ∧
      (∃ t, exec (.faultqConfigWrite part 12 v) s = .next t ∧
        s.Stored t (faultReg part 8) (fun k => decide (k = 63 ∨ 32 ≤ k ∧ k ≤ 42)) (v <<< 32)) ∧
      ∃ t, exec (.faultQueueHeadWrite part v) s = .next t ∧ s.Stored t (faultReg part 16) (fun k => decide (k ≤ 31)) v) ∧
    (field ht 31 0 ≠ field ht 63 32 → ∀ off ∈ [0, 8], ∃ t, exec (.faultqConfigWrite part off v) s = .next t ∧ s.PkgIgnored t))

/-- At READY a write of 8 bytes to a register that acts is that register's event; to a budget register it stores the
budget and clears the count bits written as 1; to a register of a die that is off, or before READY outside the
housekeeping block and the recovery mailbox, it is ignored. A host request within one granule that its partition may
make reads memory as the host sees it or writes it to the die, a release closing the epoch of the die, and is
answered; a violation stops the function, and a stopped function is refused. A peer reads its partition's outward
window, and nothing beyond its size. REQ = 1 starts a report, whose end puts it into BUF with DONE and raises vector
1; with no attestation key it ends with ERROR 1 instead. The model's choices, by entry of its assumption log: what the
host and a peer see of a device write, and when, is entry 35; that registers of a gated die 1 act as those of a gated
die 0 do is entry 116; the key under which a virtual function's mailbox stands is entry 123; that a request which
cannot be served is answered without success is entry 124; DONE 0 and no vector where there is no attestation key are
entry 137. (R6, R308, R405, R409, R413, R427, R430, R432, R434, R436, R437, R530.) -/
def Obligations.HostAndPeers : Prop :=
  ∀ (s : State) (v : BitVec 64),
    (s.boot.powered = true → s.boot.stage = 8 → ∀ die l c w : Nat, die < 2 → l < 64 → c < 16 → w < 2 →
      (s.sys.off die = false →
        ∀ p ∈ ([(dieBlk die (8 * l), .cmapWrite die l v), (dieBlk die (0x1000 + 8 * l), .cpartWrite die l v),
                (dieBlk die (0x2000 + 16 * l), .qbindWrite die l v), (dieBlk die (0x5000 + 16 * l + 8 * w), .tqovfWrite die l w v),
                (dieBlk die 0x6000, .synovfWrite die v), (dieBlk die (0x8000 + 8 * (16 * l + c)), .cellmaskWrite die l c v),
                (dieBlk die 0x3100, .leaserev die v), (pkgBlk (0x1000 + 8 * l), .regselWrite l v), (pkgBlk 0x11000, .sync v),
                (faultReg c 0, .faultqConfigWrite c 0 v), (faultReg c 16, .faultQueueHeadWrite c v),
                (pkgBlk (0x62000 + 16 * c + 8 * w), .expwWrite c w v), (pkgBlk 0x70000, .gateDie v), (pkgBlk 0x80020, .restore v),
                (pkgBlk 0xA0028, .rstctl v), (baseBlk (c % 12) (0x100000 + 8 * l), .fscfgWrite (c % 12) l v)] : List (Nat × Instr)),
          exec (.registerWrite p.1 8 v) s = exec p.2 s) ∧
      (s.sys.off die = true → ∀ o, o < 0x8000000 → o % 8 = 0 → exec (.registerWrite (dieBlk die o) 8 v) s = .next s) ∧
      (∃ t, exec (.registerWrite (budgetReg (c % 12) (64 * die + l)) 8 v) s = .next t ∧
        s.Stored t (budgetReg (c % 12) (64 * die + l)) (fun k => decide (k ≤ 55))
          ((v &&& 0xFFFFFFFF) ||| (s.reg (budgetReg (c % 12) (64 * die + l)) &&& ~~~v &&& 0xFFFFFF00000000)))) ∧
    (s.boot.stage ≠ 8 → ∀ a n, n ≤ 8 - a % 8 → (a < pkgBlk 0xA0000 ∨ pkgBlk 0xC0000 ≤ a) → exec (.registerWrite a n v) s = .next s) ∧
    (∀ (fn a n : Nat) (b : List Byte) (rel acq : Bool),
      let ok := fun (wr : Bool) => if fn = 0 then s.allowedAny a wr else s.allowed (fn - 1) a wr
      let die := if s.sys.off 0 then 1 else 0
      let m := canonPa a
      s.boot.hostUp = true → s.boot.stage = 8 → quarter a < 2 → fn ≤ 16 →
      (fn ∉ s.frozenFns → s.mem.Plain → homeOf m = die → (s.mem.line? die (m / 128)).isSome = true →
        (1 ≤ n → a % 8 + n ≤ 8 → ok false = true →
          ∃ t, exec (.hostAccess { fn := fn, addr := a, op := .read n, acq := acq }) s = .next t ∧
            t = { s with outs := s.outs ++ [.resp fn a (ofBytes ((List.range n).map (fun k => s.mem.hostByte die (m + k)))) true] }) ∧
        (b ≠ [] → a % 8 + b.length ≤ 8 → ok true = true →
          ∃ t, exec (.hostAccess { fn := fn, addr := a, op := .write b, rel := rel }) s = .next t ∧
            t = { s with cmdQueues := t.cmdQueues, outs := s.outs ++ [.resp fn a 0 true]
                         mem := { s.mem with l2 := t.mem.l2, strait := t.mem.strait, unseen := t.mem.unseen, e0 := t.mem.e0,
                                             e1 := t.mem.e1 } } ∧
            s.OnlyTold t ∧ (∀ d < 2, t.mem.epoch d = s.mem.epoch d + if rel = true ∧ d = die then 1 else 0) ∧
            ∀ q, t.mem.look die q = if m ≤ q ∧ q < m + b.length then b.getD (q - m) 0 else s.mem.look die q)) ∧
      (fn ∉ s.frozenFns → b ≠ [] → a % 8 + b.length ≤ 8 → ok true = false →
        ∃ t, exec (.hostAccess { fn := fn, addr := a, op := .write b }) s = .next t ∧ fn ∈ t.frozenFns ∧ t.mem = s.mem ∧
          t.outs = s.outs ++ [.vector 0 0, .resp fn a 0 false]) ∧
      (fn ∈ s.frozenFns → exec (.hostAccess { fn := fn, addr := a, op := .write b }) s =
        .next { s with outs := s.outs ++ [.resp fn a 0 false] })) ∧
    (∀ (port off n : Nat),
      let r := s.reg (pkgBlk (0x60000 + 8 * port))
      let p := field r 3 0
      let a := 2 ^ 21 * field (s.reg (pkgBlk (0x62000 + 16 * p))) 47 21 + off
      let die := port / 32
      s.boot.stage = 8 → port < 64 → bitAt r 7 = true → s.sys.off die = false → 1 ≤ n → off % 8 + n ≤ 8 →
      (off + n ≤ 2 ^ 21 * field (s.reg (pkgBlk (0x62008 + 16 * p))) 17 0 → s.allowed p a false = true → s.mem.Plain →
        homeOf (canonPa a) = die → (s.mem.line? die (canonPa a / 128)).isSome = true →
        ∃ t, exec (.fabricPeerAccess { port := port, off := off, op := .read n }) s = .next t ∧
          t = { s with outs := s.outs ++ [.peer port off
                         (ofBytes ((List.range n).map (fun k => s.mem.hostByte die (canonPa a + k)))) true] }) ∧
      (2 ^ 21 * field (s.reg (pkgBlk (0x62008 + 16 * p))) 17 0 < off + n →
        exec (.fabricPeerAccess { port := port, off := off, op := .read n }) s =
          .next { s with outs := s.outs ++ [.peer port off 0 false] })) ∧
    (∀ fn : Nat, Memory.wf s.devBytes →
      (s.boot.stage = 8 → field v 31 0 = 1 → fn ∉ s.frozenFns → fn ∉ s.boot.reports →
        ∃ t, exec (.attestReq fn v) s = .next t ∧ fn ∈ t.boot.reports ∧ getBytes t.devBytes (boxOf fn + 0x24) 4 = bytesOf 4 2 ∧
          ∀ o, 0x40 ≤ o → t.boxByte fn o = 0) ∧
      (fn ∈ s.boot.reports → s.boot.attestKey = none →
        ∃ t, exec (.reportDone fn) s = .next t ∧ fn ∉ t.boot.reports ∧ t.outs = s.outs ∧
          getBytes t.devBytes (boxOf fn + 0x24) 4 = bytesOf 4 0x100 ∧ ∀ o, o < 0x24 ∨ 0x28 ≤ o →
            cellGet t.devBytes (boxOf fn + o) = cellGet s.devBytes (boxOf fn + o)) ∧
      (fn ∈ s.boot.reports → s.boot.attestKey ≠ none →
        ∃ t, exec (.reportDone fn) s = .next t ∧ fn ∉ t.boot.reports ∧ t.outs = s.outs ++ [.vector fn 1] ∧
          getBytes t.devBytes (boxOf fn + 0x24) 4 = bytesOf 4 1 ∧
          getBytes t.devBytes (boxOf fn + 0x40) 32 = getBytes s.devBytes (boxOf fn) 32))

/-- DIEPWR begins to gate a die that has no partition's cluster, bound queue or covered memory while the other die is
neither gated nor failed, and is ignored with ERR otherwise; clearing the bit wakes it; GATING_DONE ends either, a
gated die keeping no core, cluster or translation. The loop gives each domain a target within the limits of its
partitions, its sensors and the module, which POINT_CHANGE_DONE reaches; over-current and a low supply set budgets to
1,024. Resets leave every register at its reset value; a stage of bring-up that completes leads to the next, and one
that fails stops with its code in BOOTST: stage 2 with that of the first image that is absent, badly signed or too
old; a die with a channel of two rings that will not lock is gated with its bit of DIEFAIL, and where both are so
bring-up stops; only an image that verifies takes over; the recovery mailbox collects the bytes of an image and
replaces it once all of them are there. The model's choices, by entry of its assumption log: when a GATE bit that is
written during a change takes effect is entry 67; that a fall of VIN alone is the same reset, and what a reset keeps,
are entry 120; the codes that a stage's end carries are entry 121; the staged image that takes over is entry 122; the
order in which images are rejected, the host link after a rejection and what a failed stage 5 leaves are entry 138.
(R425, R427, R429, R430, R471, R524, R525, R526, R527, R528, R529, R531.) -/
def Obligations.PowerAndBringup : Prop :=
  ∀ (s : State) (v : BitVec 64) (x : Sensors),
    let pwr := field (s.reg (pkgBlk 0x70000)) 1 0
    (∀ d < 2, pwr / 2 ^ d % 2 = 0 → field v 1 0 = pwr + 2 ^ d →
      let may := (∀ l < 64, s.cpart (64 * d + l) = none) ∧ (∀ q < 64, s.binding d q = none) ∧ s.rangeOnDie d = false ∧
        pwr = 0 ∧ s.boot.dieFail / 2 ^ (1 - d) % 2 = 0
      (may → s.boot.stage = 8 → s.sys.gating = none → (∀ e < 2, s.sys.off e = false) →
        ∃ t, exec (.gateDie v) s = .next t ∧ t.sys.gating = some (d, true) ∧ t.sys.off d = true ∧
          field (t.reg (pkgBlk 0x70000)) 1 0 = field v 1 0) ∧
      (¬may → s.boot.stage = 8 → ∃ t, exec (.gateDie v) s = .next t ∧ s.PkgIgnored t)) ∧
    (s.boot.stage ≠ 8 → exec (.gateDie v) s = .next s ∧ exec (.wakeDie v) s = .next s) ∧
    (∀ d < 2, s.boot.stage = 8 → s.sys.gating = none → s.boot.dieFail = 0 → s.sys.off d = true → s.sys.off (1 - d) = false → pwr = 2 ^ d →
      field v 1 0 = 0 →
      ∃ t, exec (.wakeDie v) s = .next t ∧ t.sys.gating = some (d, false) ∧ field (t.reg (pkgBlk 0x70000)) 1 0 = 0) ∧
    (∀ d < 2, s.sys.gating = some (d, true) →
      let u := s.settleAll
      u.sys.gating = s.sys.gating → u.sys.off (1 - d) = false → field (u.reg (pkgBlk 0x70000)) 1 0 = 2 ^ d →
      ∃ t, exec .gatingDone s = .next t ∧ t.sys.gating = none ∧ t.sys.off d = true ∧ (∀ p ∈ t.cores, dieOf (cluOf p.1) ≠ d) ∧
        (∀ p ∈ t.clusters, dieOf p.1 ≠ d) ∧ ∀ e ∈ t.mem.tlb, e.die ≠ d) ∧
    (∀ d < 2, s.sys.gating = some (d, false) → s.sys.off (1 - d) = false → pwr = 0 →
      ∃ t, exec .gatingDone s = .next t ∧ t.sys.gating = none ∧ t.sys.off d = false) ∧
    (s.boot.stage ≠ 8 → exec (.domainLoop x) s = .next s) ∧
    (s.boot.stage = 8 → ∃ t, exec (.domainLoop x) s = .next t ∧ t.boot = { s.boot with tempDie := x.tempDie, tempStack := x.tempStack } ∧
      ∀ r < 4,
        let d := t.sys.domains.get { } r
        let goal := d.target.getD d.point
        d.point = s.pointOf r ∧ goal ≤ x.caps.getD r 0 ∧ goal ≤ 15 ∧ (4400 < x.power → goal ≤ 13) ∧
        (∀ p ∈ s.partsIn r, goal ≤ s.maxOp p) ∧ ((∃ g < 128, s.regulator g = r ∧ dieOf g ∈ x.hot) → goal = 0)) ∧
    (∀ p, (s.sys.domains.get { } s.cur.idx).target = some p → s.straitBusy s.cur.idx = false →
      ∃ t, exec .pointChangeDone s = .next t ∧ t.sys.domains.get { } s.cur.idx = { point := p, target := none } ∧
        (∀ r, r ≠ s.cur.idx → t.sys.domains.get { } r = s.sys.domains.get { } r) ∧
        t = { s with sys := { s.sys with domains := t.sys.domains } }) ∧
    (∀ p ∈ ([(.regulatorOvercurrent, fun g => decide (s.regulator g = s.cur.idx)), (.vinLow, fun _ => true)] : List (Instr × (Nat → Bool))),
      ∃ t, exec p.1 s = .next t ∧ t = { s with regs := t.regs } ∧ ∀ a < 12, ∀ g < 128,
        field (t.reg (budgetReg a g)) 31 0 = if p.2 g = true then 1024 else field (s.reg (budgetReg a g)) 31 0) ∧
    (∀ p ∈ ([(.rstctl v, s.boot.powered = true ∧ field v 7 0 = 0x5A, 2, true, s.boot.trip), (.powerOn, s.boot.powered = false, 1, true, false),
             (.supplyReset, True, 1, false, false), (.thermalTrip, s.boot.powered = true, 1, true, true)] :
          List (Instr × Prop × Nat × Bool × Bool)),
      p.2.1 → ∃ t, exec p.1 s = .next t ∧ t.boot.stage = p.2.2.1 ∧ t.boot.powered = p.2.2.2.1 ∧ t.boot.trip = p.2.2.2.2 ∧
        t.boot.flash = s.boot.flash ∧ t.mem = {} ∧ t.launches = [] ∧ t.warps = [] ∧ ∀ a, t.reg a = regReset a) ∧
    (field v 7 0 ≠ 0x5A → exec (.rstctl v) s = .next s) ∧
    (s.boot.powered = true → 3 ≤ s.boot.stage ∨ s.boot.stopped ≠ none → exec .hostLinkTrained s = .next { s with boot := { s.boot with hostUp := true } }) ∧
    (s.boot.powered = true → s.boot.stopped = none → ∀ c : BitVec 8,
      let good := fun k => ∃ b, imageOf s.boot.flash k = some b ∧ Config.verifies b = true ∧ Config.minVersion ≤ Config.imageVersion b
      (s.boot.stage < 8 → (s.boot.stage = 2 → ∀ k < 3, good k) → (s.boot.stage = 5 → c.toNat % 4 ≠ 3) →
        ∃ t, exec (.bringupStageDone true c) s = .next t ∧ t.boot.stage = s.boot.stage + 1 ∧ t.boot.stopped = none ∧
          (s.boot.stage = 2 → (∀ k < 3, imageOf s.boot.flash k = some (t.boot.inUse.get [] k)) ∧
            t.boot.attestKey = Config.attestKey (Config.shake256 64 (t.boot.inUse.get [] 0))) ∧
          (s.boot.stage = 5 → t.boot.dieFail = c.toNat % 4 ∧ t.sys.gated0 = decide (c.toNat % 2 = 1) ∧
            t.sys.gated1 = decide (2 ≤ c.toNat % 4)) ∧
          (s.boot.stage = 6 → ∀ d a, t.mem.look d a = 0)) ∧
      (s.boot.stage = 2 → ∀ ok : Bool, ∀ k < 3, (∀ j < k, good j) → ∀ code : Nat,
        (imageOf s.boot.flash k = none ∧ code = 3 ∨ ∃ b, imageOf s.boot.flash k = some b ∧
          (Config.verifies b = false ∧ code = 1 ∨
           Config.verifies b = true ∧ Config.imageVersion b < Config.minVersion ∧ code = 2)) →
        ∃ t, exec (.bringupStageDone ok c) s = .next t ∧ t.boot.stopped = some code ∧ t.houseReg 0x10 % 2 ^ 16 = 256 * code + 15) ∧
      (∀ p ∈ [(3, 4), (5, 6), (6, 5)], s.boot.stage = p.1 →
        ∃ t, exec (.bringupStageDone false c) s = .next t ∧ t.boot.stopped = some p.2 ∧ t.houseReg 0x10 % 2 ^ 16 = 256 * p.2 + 15) ∧
      (s.boot.stage = 5 → c.toNat % 4 = 3 → ∃ t, exec (.bringupStageDone true c) s = .next t ∧ t.boot.stopped = some 6 ∧
        t.boot.dieFail = 3 ∧ t.sys.off 0 = true ∧ t.sys.off 1 = true)) ∧
    (let b := Config.stagedImage s.tick
     (s.boot.stage ≠ 8 → exec .firmwareSwitch s = .next s) ∧
     (s.boot.stage = 8 → Config.verifies b = true → ∃ t, exec .firmwareSwitch s = .next t ∧ t.boot.inUse.get [] 0 = b) ∧
     (s.boot.stage = 8 → Config.verifies b = false → exec .firmwareSwitch s = .next { s with boot := { s.boot with sram := b } })) ∧
    (s.boot.cmd = 1 → s.mailOk = true → s.mailOff % 65536 = 0 → 1 ≤ s.mailChunk → s.mailChunk ≤ 65536 →
      s.mailOff + s.mailChunk ≤ s.mailLen →
      ∃ t, exec .recoveryWriteChunk s = .next t ∧ t.boot.cmd = 0 ∧
        (t.reg (pkgBlk 0xA8020) = 0x200 ∨ t.reg (pkgBlk 0xA8020) = 2 ∧ ∀ k < s.mailChunk,
          SMap.find? (t.boot.staged.get [] s.mailKind) (s.mailOff + k) = some (cellGet s.devBytes (pkgBlk 0xA9000 + k)))) ∧
    (s.boot.cmd = 2 → s.mailOk = true → ∀ f : Nat → Byte,
      (∀ k < s.mailLen, SMap.find? (s.boot.staged.get [] s.mailKind) k = some (f k)) →
      ∃ t, exec .recoveryFinishImage s = .next t ∧ t.boot.cmd = 0 ∧ t.reg (pkgBlk 0xA8020) = 2 ∧
        imageOf t.boot.flash s.mailKind = some ((List.range s.mailLen).map f))

/-- A synchronisation engine performs the oldest lane atomic, moves a granule from its full SRAM to its overflow area, and
gives up the least recently used one where that is full too, changing nothing that its home die reads. A ferry takes
up to 4 lines of the next cluster and a return token up to 2 of the next slice. An arbiter passes a request that is
not holdable, or while the budget is 0, nothing of the interval has passed, or the sum stays within it; else it holds
it, and at the next interval the held request passes and its cluster's count of such intervals rises. A channel serves
the request that goes before every other whose bank is free, within 96 cycles for each access and 100 for each bank
operation since it arrived, and counts a missed deadline; write-back leaves a clean line and its bytes in the stack; a
write from the other die arrives. The model's choices, by entry of its assumption log: how many granules the SRAM
holds, and that one which finds it full makes room first, are entry 21; the cycles of a channel, and the order in
which requests reach an arbiter and a channel, are entry 127. (R256, R258, R259, R273, R274, R276, R288, R296, R298,
R376, R377, R504.) -/
def Obligations.MemoryTraffic : Prop :=
  ∀ (s : State) (d g stack chan cyc line : Nat),
    let m := s.mem
    (∀ r rest, let u : State := { s with mem := { m with syncReqs := rest } }
      m.syncReqs = r :: rest → r.op = .add32 → u.trackRead r.m.lid r.addr = u → u.trackWrite r.m.lid r.addr = u → m.Sound → m.strait = [] →
      homeOf r.addr = r.m.die → r.addr % 4 = 0 → s.EngineRoom r.m.die →
      let old := ofBytes (m.lookN r.m.die r.addr 4)
      ∃ t, exec .syncEngineAtomic s = .next t ∧ t.mem.syncReqs = rest ∧
        ofBytes (t.mem.lookN r.m.die r.addr 4) = (old + r.b.toNat) % 2 ^ 32 ∧
        (∀ q, q < r.addr ∨ r.addr + 4 ≤ q → t.mem.look r.m.die q = m.look r.m.die q) ∧
        ((s.warp r.warp).slot ≠ .free → r.m.lid = some (s.warp r.warp).lid → (s.warp r.warp).taskId = r.task →
          ((t.warp r.warp).lane r.lane).l0 = BitVec.ofNat 32 old)) ∧
    ((m.inSram d).length < syncRoom → exec (.syncOverflowMove d g) s = .next s) ∧
    (∀ x, m.granules.find? g = some x → homeOf (8 * g) = d → x.area = none → syncRoom ≤ (m.inSram d).length → m.slots = [] →
      (m.inArea d).length < s.overflowRoom d →
      ∃ t k, exec (.syncOverflowMove d g) s = .next t ∧ k < s.overflowRoom d ∧ (∀ p ∈ m.inArea d, p.2.area ≠ some k) ∧
        t.mem.granules.find? g = some { x with area := some k } ∧ (∀ j, j ≠ g → t.mem.granules.find? j = m.granules.find? j) ∧
        (∀ b, b < s.overflowAt d k ∨ s.overflowAt d k + 16 ≤ b → t.mem.stackGet b = m.stackGet b) ∧
        t = { s with mem := { m with granules := t.mem.granules, bytes := t.mem.bytes, arbs := t.mem.arbs, chans := t.mem.chans } }) ∧
    (∀ x, m.granules.find? g = some x → homeOf (8 * g) = d → syncRoom ≤ (m.inSram d).length → s.overflowRoom d ≤ (m.inArea d).length →
      (∀ p ∈ m.granules, p.1 ≠ g → homeOf (8 * p.1) = d → x.used < p.2.used) → m.granules.keys.Nodup → m.strait = [] →
      (m.line? d (g / 16)).isSome = true →
      ∃ t, exec (.syncOverflowMove d g) s = .next t ∧ t.mem.granules.find? g = none ∧ ∀ a, t.mem.atHome a = m.atHome a) ∧
    (s.cur.idx < 128 →
      let k := 128 * s.cur.die + s.cur.idx
      let c := m.ferry.get 0 k
      ∃ t, exec .ferryVisit s = .next t ∧ t.mem.ferry.get 0 k = (c + 1) % 64 ∧
        (∀ p, t.mem.toSlice.get [] p = if p = 64 * k + c then (m.toSlice.get [] p).drop 4 else m.toSlice.get [] p) ∧
        t = { s with mem := { m with ferry := t.mem.ferry, toSlice := t.mem.toSlice } }) ∧
    (let c := s.cur.clu
     let k := m.token.get 0 c
     ∃ t, exec .returnVisit s = .next t ∧ t.mem.token.get 0 c = (k + 1) % 128 ∧
       (∀ p, t.mem.toClu.get [] p = if p = 64 * (128 * (c / 64) + k) + c % 64 then (m.toClu.get [] p).drop 2 else m.toClu.get [] p) ∧
       t = { s with mem := { m with token := t.mem.token, toClu := t.mem.toClu } }) ∧
    (∀ (r : ArbReq) (rest : List ArbReq),
      let a := s.cur.idx
      let b := m.arbs.get Arb.dflt a
      let u := 128 * field (s.reg (budgetReg a r.clu)) 31 0
      let n := b.counts.get 0 r.clu
      let k := placeOf r.pa
      b.arriving = r :: rest →
      (r.holdable = false ∨ u = 0 ∨ n = 0 ∨ n + r.bytes ≤ u →
        ∃ t, exec .arbiterRequest s = .next t ∧ (t.mem.chan k.stack k.chan).reqs = (m.chan k.stack k.chan).reqs ++ [r.req] ∧
          (t.mem.arbs.get Arb.dflt a).arriving = rest ∧ (t.mem.arbs.get Arb.dflt a).counts.get 0 r.clu = n + r.bytes ∧
          (t.mem.arbs.get Arb.dflt a).held = b.held) ∧
      (r.holdable = true → u ≠ 0 → n ≠ 0 → u < n + r.bytes →
        ∃ t, exec .arbiterRequest s = .next t ∧ t.mem.arbs.get Arb.dflt a = { b with arriving := rest, held := b.held ++ [r] } ∧
          t.mem.chans = m.chans)) ∧
    (∀ r : ArbReq,
      let a := s.cur.idx
      let k := placeOf r.pa
      let n := field (s.reg (budgetReg a r.clu)) 55 32
      (m.arbs.get Arb.dflt a).held = [r] → a < 12 → r.clu < 128 →
      ∃ t, exec .meteringInterval s = .next t ∧ (t.mem.arbs.get Arb.dflt a).held = [] ∧
        (t.mem.chan k.stack k.chan).reqs = (m.chan k.stack k.chan).reqs ++ [r.req] ∧ (t.mem.arbs.get Arb.dflt a).counts.get 0 r.clu = r.bytes ∧
        field (t.reg (budgetReg a r.clu)) 55 32 = min (n + 1) 0xFFFFFF ∧
        field (t.reg (budgetReg a r.clu)) 31 0 = field (s.reg (budgetReg a r.clu)) 31 0) ∧
    (∀ (r : ChanReq) (l1 l2 : List ChanReq), (m.chan stack chan).reqs = l1 ++ r :: l2 → (∀ x ∈ l1, x.arrived ≠ none) → r.arrived = none →
      (m.chan stack chan).mayBe cyc = true →
      ∃ (t : State) (due : Nat), exec (.channelArrival stack chan cyc) s = .next t ∧
        (t.mem.chan stack chan).reqs = l1 ++ { r with arrived := some (cyc, due), bankOps := (m.chan stack chan).opsLeft cyc } :: l2 ∧
        16 * cyc + 25 * r.slackNs ≤ 16 * due ∧ 16 * due < 16 * cyc + 25 * r.slackNs + 16) ∧
    (∀ (r : ChanReq) (arr due : Nat),
      let c := m.chan stack chan
      stack < 12 → chan < 64 → r.id < 274 → r ∈ c.reqs → r.arrived = some (arr, due) → c.busy.get 0 r.bank ≤ cyc →
      (∀ x ∈ c.reqs, x.arrived ≠ none → c.busy.get 0 x.bank ≤ cyc → x ≠ r → r.before cyc x = true) →
      (c.now ≤ cyc → cyc ≤ arr + 96 * (r.passed + 1) + 100 * r.bankOps → (c.served r).mayBe (cyc + 1) = true →
        ∃ t, exec (.channelService stack chan cyc) s = .next t ∧
          (t.mem.chan stack chan).reqs =
            (c.reqs.erase r).map (fun x => if x.arrived.isSome then { x with passed := x.passed + 1 } else x) ∧
          t.missCount stack chan r.id =
            if due < cyc then min (s.missCount stack chan r.id + 1) 0xFFFFFFFF else s.missCount stack chan r.id) ∧
      (arr + 96 * (r.passed + 1) + 100 * r.bankOps < cyc → exec (.channelService stack chan cyc) s = .next s)) ∧
    ((m.chan stack chan).mayBe cyc = true →
      ∃ t, exec (.agePromotion stack chan cyc) s = .next t ∧ (t.mem.chan stack chan).reqs = (m.chan stack chan).reqs.map (fun r =>
        match r.arrived with
        | some (a, _) => if a + 4096 ≤ cyc then { r with aged := true } else r
        | none => r)) ∧
    (∀ l, m.line? d line = some l → homeOf (128 * line) = d → l.dirty ≠ 0 → m.slots = [] → Memory.wf m.bytes →
      ∃ t, exec (.l2Writeback d line) s = .next t ∧ t.mem.line? d line = some { l with dirty := 0 } ∧
        (∀ k < 128, bitAt l.dirty k = true → t.mem.stackGet (128 * line + k) = lineGet l.data k) ∧
        ∀ e < 2, ∀ a, t.mem.look e a = m.look e a) ∧
    (∀ x : Msg, m.strait = [x] → d < 2 → x.src = 1 - d → m.granules = [] →
      (m.line? d x.line).isSome = true →
      ∃ t, exec (.remoteWriteApply d 0) s = .next t ∧ t.mem.strait = [] ∧
        ∀ a, t.mem.look d a = if a / 128 = x.line ∧ bitAt x.mask (a % 128) = true then lineGet x.data (a % 128) else m.look d a)

/-- A walk of up to five levels, whose entries stand in L2, gives the page of the leaf that it meets, with the leaf's
permissions, or for an unset root the fault of reason 4. A miss enters the table of pending walks unless the page is
there already or the table is full; the end of the oldest walk puts its page into the TLBs of its die and of its agent
and completes every pending miss inside it, or raises a fault, whose record is written while the partition's queue has
room. The three forms of INV drop what they name and keep the rest, and DONE reads 0 until INV_DONE, which waits for
every queued access that may have used what any of the writes has named. FRESP lets every lane that waits on a token
go on, a retry without the page that failed in a TLB; with FAIL the page counts as failed for it; a token that is not
outstanding changes nothing. The model's choices, by entry of its assumption log: which accesses join an outstanding
token, and that a page which fails at one access fails at the others, are entry 88; the launch of a miss whose warp is
gone is entry 90; which accesses INV_DONE waits for is entry 91. (R411, R416, R417, R418, R419, R420, R421, R422,
R423.) -/
def Obligations.Translation : Prop :=
  ∀ (s : State) (d part space va : Nat) (v : BitVec 64), d < 2 →
    (∀ (m : Master) (n perm b : Nat) (tb : Nat → Nat),
      let lo := fun i => [44, 33, 29, 21, 16].getD i 0
      let wide := fun i => [12, 11, 4, 8, 5].getD i 0
      let root := s.reg (pkgBlk (0x20000 + 8 * m.space))
      let at_ := fun i => tb i + 8 * (va / 2 ^ lo i % 2 ^ wide i)
      let entry := fun i => ofBytes (s.mem.lookN m.die (canonPa (at_ i)) 8)
      bitAt root 63 = true → tb 0 = 2 ^ 15 * field root 47 15 → 1 ≤ n → n ≤ 4 → (∀ i ≤ n, s.allowed m.part (at_ i) false = true) →
      s.mem.Sound → s.mem.granules = [] → (∀ i ≤ n, (s.mem.line? m.die (canonPa (at_ i) / 128)).isSome = true) →
      (∀ i < n, entry i = tb (i + 1) + 1 ∧ tb (i + 1) % 256 = 0 ∧ tb (i + 1) < 2 ^ 48) →
      entry n = b + 4 * perm + 3 → perm < 8 → b % 2 ^ lo n = 0 → b < 2 ^ 48 →
      s.walk m va = (s, .page { die := m.die, space := m.space, vpage := va / 2 ^ lo n, bits := lo n, pbase := b,
                                rd := bitAt (BitVec.ofNat 3 perm) 0, wr := bitAt (BitVec.ofNat 3 perm) 1,
                                ex := bitAt (BitVec.ofNat 3 perm) 2 })) ∧
    (∀ m : Master, bitAt (s.reg (pkgBlk (0x20000 + 8 * m.space))) 63 = false → s.walk m va = (s, .fault 4)) ∧
    (space < 256 → va < 2 ^ 56 →
      let there := ∃ y ∈ s.mem.walks d, y.space = space ∧ y.va / 65536 = va / 65536
      let m : Master :=
        { s.strandMaster s.cur.warp with die := d, space := space, part := space / 16,
                                         lid := if (s.warp s.cur.warp).resident then some (s.warp s.cur.warp).lid else none }
      (s.tlbFor m va = none → ¬there → (s.mem.walks d).length < 512 →
        ∃ t, exec (.tlbMiss d space va) s = .next t ∧ t.mem.walks d = s.mem.walks d ++ [{ space := space, va := va, m := m, kind := 0 }] ∧
          t = { s with mem := { s.mem with walks0 := t.mem.walks0, walks1 := t.mem.walks1 } }) ∧
      (s.tlbFor m va ≠ none ∨ there ∨ 512 ≤ (s.mem.walks d).length → exec (.tlbMiss d space va) s = .next s)) ∧
    (∀ (y : Walk) (rest : List Walk), s.cur.die = d → s.mem.walks d = y :: rest →
      let m : Master := { y.m with die := d, space := y.space }
      (∀ u e, s.walk m y.va = (u, .page e) →
        ∃ t, exec .walk s = .next t ∧ t.tlbFor m y.va = some e ∧ t.tlbHit d y.space y.va = some e ∧
          ∀ z, z ∈ t.mem.walks d ↔ z ∈ rest ∧ ¬(z.space = y.space ∧ z.va / 2 ^ e.bits = y.va / 2 ^ e.bits)) ∧
      (∀ u r, s.walk m y.va = (u, .fault r) → u.faults = [] → y.m.part < 16 → y.m.space = y.space →
        ∃ (t : State) (f : PFault), exec .walk s = .next t ∧ t.faults = [f] ∧ f.tok = u.nextTok ∧ f.part = y.m.part ∧ f.space = y.m.space ∧
          f.va = y.va ∧ f.reason = r ∧ f.written = u.faultRoom y.m.part ∧
          (u.faultRoom y.m.part = true →
            field (t.reg (faultReg y.m.part 16)) 63 32 = (field (u.reg (faultReg y.m.part 16)) 63 32 + 1) % 2 ^ 32))) ∧
    (∀ p ∈ ([(.invAll d v, 0, fun _ => True), (.invSpace d v, 1, fun e => e.space = field v 60 53),
             (.invPages d v, 2, fun e => e.space = field v 60 53 ∧
               e.vpage * 2 ^ (e.bits - 16) < field v 39 0 + max 1 (field v 52 40) ∧
               field v 39 0 < (e.vpage + 1) * 2 ^ (e.bits - 16))] : List (Instr × Nat × (TlbEnt → Prop))),
      field v 62 61 = p.2.1 → s.boot.stage = 8 → s.sys.off d = false →
      ∃ t, exec p.1 s = .next t ∧ (∀ e, e ∈ t.mem.tlb ↔ e ∈ s.mem.tlb ∧ ¬p.2.2 e) ∧
        (∀ k e, e ∈ t.mem.tlbs.get [] k ↔ e ∈ s.mem.tlbs.get [] k ∧ ¬p.2.2 e) ∧
        bitAt (BitVec.ofNat 64 (t.regRead (dieBlk d 0x3000))) 63 = false ∧
        t = { s with mem := { s.mem with tlb := t.mem.tlb, tlbs := t.mem.tlbs }, sys := { s.sys with inv := t.sys.inv } }) ∧
    (∀ vs, s.cur.die = d → s.sys.inv.find? d = some vs → vs.any s.stillUsed = true → exec .invDone s = .next s) ∧
    (s.cur.die = d → s.sys.inv.keys.Nodup → (∀ vs, s.sys.inv.find? d = some vs → vs.any s.stillUsed = false) →
      ∃ t, exec .invDone s = .next t ∧ t = { s with sys := { s.sys with inv := t.sys.inv } } ∧
      bitAt (BitVec.ofNat 64 (t.regRead (dieBlk d 0x3000))) 63 = true) ∧
    (∀ tok : Nat,
      let open_ := ∃ f ∈ s.faults, f.tok = tok ∧ f.part = part
      (¬open_ → exec (.frespRetry part tok) s = .next s ∧ exec (.frespFail part tok) s = .next s) ∧
      (open_ → s.boot.stage = 8 → s.mem.ctrWaits = [] →
        ∃ t, exec (.frespRetry part tok) s = .next t ∧ (∀ f, f ∈ t.faults ↔ f ∈ s.faults ∧ f.tok ≠ tok) ∧
          t.mem = { s.mem with tlb := t.mem.tlb, tlbs := t.mem.tlbs } ∧
          (∀ f, s.faults = [f] → ∀ e, e ∈ t.mem.tlb ↔ e ∈ s.mem.tlb ∧ ¬(e.space = f.space ∧ e.vpage = f.va / 2 ^ e.bits)) ∧
          ∀ w i, (t.warp w).lane i =
            if ((s.warp w).lane i).wait = .fault tok then { (s.warp w).lane i with wait := .none } else (s.warp w).lane i)) ∧
    (∀ f, s.boot.stage = 8 → s.faults = [f] → f.part = part → s.mem.ctrWaits = [] → s.opsWaiting f.tok = [] →
      ∃ t, exec (.frespFail part f.tok) s = .next t ∧ t.faults = [] ∧ t.mem = s.mem ∧
        ∀ w i, (t.warp w).lane i =
          if ((s.warp w).lane i).wait = .fault f.tok then
            { (s.warp w).lane i with wait := .none, failed := (f.space, f.va / 65536) :: ((s.warp w).lane i).failed }
          else (s.warp w).lane i)

/-- The oldest record that a core can take leaves the queue of its cluster and starts in a slot of the core with the
fewest tasks, or ends its launch with code 0x06 where it fails its check; a core-bound group of one member is placed
on the first core. Castling exchanges the slot stalled longest with the slot ready longest in two events, board entry
fills a free board slot likewise; a load out beyond the threshold stalls the slot until it returns. A group that has
waited 64 cycles issues next; yield windows end. A carve-out change takes effect on an empty core. A steal round asks
the victims in order, and the answer ships records. A refill that no lane executes hands items to vacant lanes or ends
the task, whose end frees its slot, tiles and grants. A word that is no instruction traps with code 0x01, in a
diverged warp a U-set word with 0x02. The model's choices, by entry of its assumption log: that each of these happens
as an event of the agenda is entry 1; the implicit refill at CODE before any refill is entry 70; the address that
BADREC gives for a spawned record is entry 47. (R44, R45, R57, R58, R62, R78, R252, R353, R354, R358, R359, R364.) -/
def Obligations.Scheduling : Prop :=
  ∀ (s : State) (c : Nat),
    let g := s.cur.clu
    let w := s.cur.warp
    let wp := s.warp w
    (∀ (q : QRec) (pre post : List QRec) (k j : Nat) (ws : List Nat),
      s.schedules g = true → (s.cluster g).queue = pre ++ q :: post → (∀ x ∈ pre, s.popTo g x = none) → k / 16 = g → s.canTake q k = true →
      (∀ b, b / 16 = g → s.canTake q b = true → (s.residents k).length < (s.residents b).length ∨
        (s.residents k).length = (s.residents b).length ∧ k ≤ b) →
      s.openSlots k q = j :: ws →
      ∃ t, exec .taskPop s = .next t ∧ (t.cluster g).queue = (if (s.launch q.lid).recordBad q then (t.cluster g).queue else pre ++ post) ∧
        ((s.launch q.lid).recordBad q = false → s.Starts t j q) ∧
        ((s.launch q.lid).recordBad q = true → (t.launch q.lid).st = .ended ∧
          (t.launch q.lid).fault = some { code := 0x06, task := q.id, addr := q.addr })) ∧
    (∀ (q : QRec) (grp h j : Nat) (ws hs : List Nat),
      let l := s.launch q.lid
      s.runs q.lid = true → s.boundRecs q.lid = [q] → q.slot = none → s.launches.keys.Nodup → q.trec.groupNos = [grp] → l.group grp = ⟨1, 1, 0⟩ → q.trec.carve = 0 → l.recordBad q = false →
      (∀ p ∈ s.launches, p.2.plan = []) → (s.clustersOf l.part).filter s.schedules = h :: hs → (s.core (16 * h)).carves = [] →
      s.freeSlots (16 * h) q.lid true = j :: ws →
      ∃ t, exec (.boundGroupPlacement q.lid grp) s = .next t ∧ s.Starts t j q ∧ ∀ x, q ∉ (t.cluster x).queue) ∧
    (s.cur.core = c → (s.core c).castle = none → ∀ o i,
      (s.Longest c .boardStalled o → s.Longest c .reserveReady i →
        ∃ t, exec .castling s = .next t ∧ (t.core c).castle = some { out := some o, inn := i } ∧
          ∀ j, (t.warp j).slot = if j = o ∨ j = i then .castling else (s.warp j).slot) ∧
      (s.Longest c .reserveReady i → s.boardUsed c < 8 →
        ∃ t, exec .boardEntry s = .next t ∧ (t.core c).castle = some { out := none, inn := i } ∧
          ∀ j, (t.warp j).slot = if j = i then .castling else (s.warp j).slot)) ∧
    (s.cur.core = c → ∀ o i, o ≠ i → (s.warp i).slot = .castling →
      let entered : SlotSt := if (s.warp i).waitsLong then .boardStalled else .board
      ((s.core c).castle = some { out := some o, inn := i } → (s.warp o).slot = .castling →
        ∃ t, exec .castling s = .next t ∧ (t.core c).castle = none ∧ (t.warp i).slot = entered ∧
          (t.warp o).slot = (if (s.warp o).loadOut || (s.warp o).waitsLong then .reserveWaiting else .reserveReady)) ∧
      ((s.core c).castle = some { out := none, inn := i } →
        ∃ t, exec .boardEntry s = .next t ∧ (t.core c).castle = none ∧ (t.warp i).slot = entered)) ∧
    (wp.loadOut = true →
      (s.cur.idx ≠ 1 → wp.slot = .board → ∃ t, exec .castlingThreshold s = .next t ∧ (t.warp w).slot = .boardStalled) ∧
      (s.cur.idx = 1 → wp.waitsLong = false → ∃ t, exec .castlingThreshold s = .next t ∧ (t.warp w).loadOut = false ∧
        (wp.slot = .boardStalled → (t.warp w).slot = .board) ∧ (wp.slot = .reserveWaiting → (t.warp w).slot = .reserveReady))) ∧
    ((∃ i ∈ s.execLanes, 64 ≤ (wp.lane i).waitCnt) → wp.slot = .board →
      ((s.launch wp.lid).noprog = false → exec .fairnessForce s =
        .next { s with agenda := { who := { s.cur with strand := false }, what := none } :: s.agenda }) ∧
      ((s.launch wp.lid).noprog = true → exec .fairnessForce s = .next s)) ∧
    (∃ t, exec .yieldWindowEnd s = .next t ∧ t = { s with warps := t.warps } ∧ (∀ j, j ≠ w → t.warp j = s.warp j) ∧
      ∀ i, (t.warp w).lane i =
        if i ∈ s.execLanes ∧ (wp.lane i).yieldLeft = 1 then { wp.lane i with yieldLeft := 0 } else wp.lane i) ∧
    (∀ (r : CarveReq) (rest : List CarveReq), s.cur.core = c → (s.core c).carves = r :: rest → r.trec = none →
      (s.mayCarve c r = false → exec .carveChange s = .next s) ∧
      (r.residents = [] → (s.core c).tiles = [] → (s.core c).grants = [] → (s.core c).wins = [] → s.leaseAt c = none →
        s.lentOut (c / 16) = false →
        ∃ t, exec .carveChange s = .next t ∧ (t.core c).ways = r.ways ∧
          (t.core c).carves = (match rest with
            | [] => []
            | x :: l => { x with residents := s.residents c } :: l) ∧
          ∀ b, cellGet (t.core c).spad b = if b < 32768 * min (s.core c).ways r.ways then cellGet (s.core c).spad b else 0)) ∧
    (∀ (v : Nat) (vs : List Nat),
      ((s.cluster g).asked = none → s.schedules g = true → s.idle g = true → (s.cluster g).steal = .idle → s.victims g = v :: vs →
        ∃ t, exec .stealRequest s = .next t ∧ (t.cluster g).asked = some v ∧ (t.cluster g).steal = .asking vs false) ∧
      ((s.cluster g).asked = some v → v ≠ g → (s.cluster g).queue.length + 8 ≤ 256 → (s.cluster v).queue.Nodup →
        ∃ t, exec .stealAnswer s = .next t ∧ (t.cluster g).asked = none ∧
          (t.cluster g).queue = (s.cluster g).queue ++ s.shipped g v ∧ (s.shipped g v).length ≤ 8 ∧
          ∀ q, q ∈ (t.cluster v).queue ↔ q ∈ (s.cluster v).queue ∧ q ∉ s.shipped g v) ∧
      ((s.cluster g).steal = .backoff → ∃ t, exec .stealBackoff s = .next t ∧ (t.cluster g).steal = .idle)) ∧
    (∀ (u : State) (x e y : Word) (n : Stall) (d : BitVec 4) (items : List Word),
      let pc := if wp.startRefill then wp.spc else wp.refillPc.getD (wp.trec.code.setWidth 56)
      s.mayIssue w = true → wp.live = 0 → wp.vacant ≠ 0 → s.fetch (s.strandMaster w) wp.sfailed pc true = (s, .words x e y) →
      decode x e y = .ok (.refill n (.o d)) → s.syncAll.popItems w (lanesOf wp.vacant).length wp.sfailed = (u, .done items) →
      ∃ t, exec .implicitRefill s = .next t ∧
        (items = [] → (t.warp w).ending = .ending ∧ ∀ i < 32, ((t.warp w).lane i).st = .exited) ∧
        ∀ (j i : Nat) (it : Word), (lanesOf (u.warp w).vacant)[j]? = some i → items[j]? = some it →
          let l := (t.warp w).lane i
          l.st = .live ∧ l.pc = pc + 4 ∧ l.o.get 0 d.toNat = it ∧ l.l0 = 0 ∧ l.l1 = 0 ∧ l.rstk = [] ∧
          ∀ k, 1 ≤ k → k < 12 → bitAt ((t.warp w).mks.get 0 k) i = false) ∧
    (wp.slot ≠ .free → wp.live = 0 → wp.vacant = 0 → wp.ending = .running → (s.core (w / 16)).frozen = false → s.opsOf w = [] →
      s.mem.syncReqs = [] → wp.trec.join = 0 → wp.groupNos = [] →
      ∃ t, exec .taskEnd s = .next t ∧ t.warp w = Warp.dflt ∧
        ∀ j, (∀ p ∈ (t.core j).tiles, p.2.owner ≠ .task w) ∧ ∀ x ∈ (t.core j).grants, x.holder ≠ .task w) ∧
    (∀ x : Word, s.Handled → wp.live ≠ 0 →
      (bitAt x 31 = true → wp.converged = true → s.StrandTraps (.unassignedOpcode x) 0x01) ∧
      (bitAt x 31 = false ∨ wp.converged = false → s.execLanes ≠ [] →
        ∃ t, exec (.unassignedOpcode x) s = .next t ∧ t = { s with warps := t.warps } ∧ (∀ j, j ≠ w → t.warp j = s.warp j) ∧
          ∀ i, if i ∈ s.execLanes then
              (wp.lane i).Enters ((t.warp w).lane i) (if bitAt x 31 then 0x02 else 0x01) 0 (wp.lane i).pc
                (maskOf (fun k => decide (k ∈ s.execLanes))) wp.tvec
            else (t.warp w).lane i = wp.lane i))

/-- A die's command processor admits the launch at the head of its one bound queue: it runs with the next id, its
partition's markers are clear and its record is dealt; a doorbell of the queue's partition writes TAIL into the
descriptor. Once the drain is confirmed by a check of its die's idle tree, of which 8 run at once, and the fault
record and STATUS are written, the launch is gone, dependences on it lapse and its vector is raised. An error that a
launch consumes kills it for rollback, while one in a clean fast copy only makes its slot invalid; the rollback waits
for a check that the set has drained, and restores its pages from their frames, after which it is admitted again; the
first write of a page copies it into a free frame. KILLCTL ends the launch or the partition's launches that it names
and discards what they hold, and is ignored while an earlier one waits. The model's choices, by entry of its
assumption log: what the admission, snapshot and error events stand for is entry 92; when a processor looks at a queue
is entry 104; a doorbell of a queue with no valid binding, and one whose page fails, are entry 106; that saved
launches are killed with their set is entry 115; the die whose tree checks a launch is entry 135. (R345, R348, R349,
R350, R352, R373, R374, R439, R460, R463, R465, R466.) -/
def Obligations.Launches : Prop :=
  ∀ (s : State) (lid page : Nat) (v : BitVec 64),
    (∀ (q part space desc head entry g : Nat) (t1 u : State) (l : Launch) (r : QRec) (cs : List Nat),
      let d := s.cur.die
      let m := queueMaster d q part space
      s.sys.off d = false → (∀ p ∈ s.launches, p.2.st ≠ .rolledBack) → q < 64 → s.binding d q = some (part, space) →
      (∀ j < 64, j ≠ q → s.binding d j = none) → s.cmdQueue (64 * d + q) = CmdQueue.dflt →
      s.lookHead d q part space = (t1, .accept desc head entry l [r] cs) →
      t1.cpWrites m [] [(entry + 40, bytesOf 4 l.lid), (desc + 16, bytesOf 4 ((head + 1) % 2 ^ 32))] = (u, none) →
      l.st = .running → l.namesBound r.trec = false → u.clustersOf l.part = [g] → (u.cluster g).queue.length < 256 →
      ∃ (t : State) (L : Launch), exec .launchAdmission s = .next t ∧ t.launch? l.lid = some L ∧ L.st = .running ∧ L.nextId = l.nrec ∧
        (t.cluster g).queue = (u.cluster g).queue ++ [{ r with lid := l.lid }] ∧ (t.cluster g).phase = 0 ∧
        (t.cp.get { } d).nextLid = ((u.cp.get { } d).nextLid + 1) % (2 ^ 31 - 1) ∧ (t.cp.get { } d).rot = q) ∧
    (∀ (fn d q part space pa : Nat) (tail : BitVec 32),
      let m := queueMaster d q part space
      let s1 := s.updQueue (64 * d + q) (fun c => { c with bell := some tail.toNat, told := true })
      s.binding d q = some (part, space) →
      s.frozenFns.contains fn = false →
      (fn = part + 1 → s.boot.stage = 8 → d < 2 → (s.cmdQueue (64 * d + q)).failed = [] →
        s1.Reach m (BitVec.ofNat 56 (s.queueDesc d q + 20)) .write pa → s.mem.Plain → homeOf (canonPa pa) = d →
        (s.mem.line? d (canonPa pa / 128)).isSome = true → canonPa pa % 8 = 4 →
        ∃ t, exec (.queueDoorbell fn d q tail) s = .next t ∧ ofBytes (t.mem.lookN d (canonPa pa) 4) = tail.toNat ∧
          (t.cmdQueue (64 * d + q)).bell = none ∧ (t.cmdQueue (64 * d + q)).told = true ∧
          ∀ a, a < canonPa pa ∨ canonPa pa + 4 ≤ a → t.mem.look d a = s.mem.look d a) ∧
      (fn ≠ part + 1 → exec (.queueDoorbell fn d q tail) s = .next s)) ∧
    (∀ u : State,
      let l := s.launch lid
      let f := l.faultRec
      let s0 : State := { s with sys := { s.sys with checks := s.sys.checks.erase (l.server, [lid]) } }
      s.mayEnd lid = true → (s.sys.checks.filter (fun x => decide (x.1 = l.server))).length < 8 →
      (s0.settleAll.updMem (fun m => m.publishAll lid)).cpWrites (queueMaster l.server l.q l.part l.space) l.failed
        [(l.entry.toNat + 192, f.bytes l.replays l.nrmark), (l.entry.toNat, bytesOf 8 (2 ^ 63 + f.code))] = (u, none) →
      u.launches.keys.Nodup →
      ∃ t, exec (.drainConfirmed lid) s = .next t ∧ t.launch? lid = none ∧ (∀ k L, t.launch? k = some L → lid ∉ L.deps) ∧
        t.outs = u.outs ++ (if l.irq then [.vector (l.part + 1) l.vec] else [])) ∧
    (s.mayEnd lid = false → ∃ t, exec (.drainConfirmed lid) s = .next t ∧ t = { s with sys := { s.sys with checks := t.sys.checks } }) ∧
    (8 ≤ (s.sys.checks.filter (fun x => decide (x.1 = (s.launch lid).server))).length → ((s.launch lid).server, [lid]) ∉ s.sys.checks →
      exec (.drainConfirmed lid) s = .next s) ∧
    (∀ (l n : Launch) (r : QRec) (u : State) (cs : List Nat) (g : Nat), s.launch? lid = some l →
      (l.st ≠ .rolledBack ∨ l.roll = true ∨ (s.cmdQueue (64 * l.server + l.q)).frozen = true →
        exec (.replayReadmission lid) s = .next s) ∧
      (l.st = .rolledBack → l.roll = false → l.tok = none → (s.cmdQueue (64 * l.server + l.q)).frozen = false →
        (∀ p ∈ s.launches, p.2.st = .rolledBack → p.2.server = l.server → l.order ≤ p.2.order) →
        ({ s with launches := s.launches.del lid } : State).judgeEntry (queueMaster l.server l.q l.part l.space) l.failed l.die l.q
          l.entry.toNat lid = (u, .inl (.accept cs, n, [r])) →
        n.lid = lid → n.st = .running → n.namesBound r.trec = false → u.clustersOf n.part = [g] → (u.cluster g).queue.length < 256 →
        ∃ (t : State) (L : Launch), exec (.replayReadmission lid) s = .next t ∧ t.launch? lid = some L ∧ L.st = .running ∧
          L.replays = l.replays + 1 ∧ L.order = l.order ∧ (t.cluster g).queue = (u.cluster g).queue ++ [{ r with lid := lid }])) ∧
    (∀ (l : Launch) (addr : Nat), s.launches = [(lid, l)] → l.st = .running → s.hole addr = false → quarter addr < 2 →
      let a := canonPa addr
      let e := fun (x : State) => field (x.reg (dieBlk (homeOf a) 0x4000)) 55 40
      (∀ k x, s.mem.slots = [(k, x)] → slotOf? s.mem.slots (placeOf a).stack (placeOf a).bankIx (placeOf a).row = some (k, x) →
        x.dirty = false → s.mem.standsAt a / 32 ≠ a / 32 → a / 32 ∉ s.mem.bad →
        ∃ t, exec (.errorConsumed lid addr) s = .next t ∧ (s.mem.standsAt a / 32) ∈ t.mem.bad ∧
          t = { s with mem := { s.mem with bad := t.mem.bad, slots := [] } }) ∧
      (s.mem.slots = [] → ∃ t, exec (.errorConsumed lid addr) s = .next t ∧ (s.mem.standsAt a / 32) ∈ t.mem.bad ∧ e t = min (e s + 1) 0xFFFF ∧
        (∀ j, (t.warp j).slot ≠ .free → (t.warp j).lid ≠ lid) ∧
        t.launch? lid = some { l with st := .rolledBack, roll := true
                                      fault := some { code := 0x0C, addr := a / 32 * 32, where_ := 1024 * homeOf a } })) ∧
    (∀ (l : Launch) (f n : Nat), s.mem.slots = [] → Memory.wf s.mem.bytes → f / 65536 ≠ page →
      (s.launches = [(lid, l)] → l.roll = true → s.settled lid = false →
        ∃ t, exec (.rollback lid) s = .next t ∧ t = { s with sys := { s.sys with checks := t.sys.checks } }) ∧
      (s.launches = [(lid, l)] → l.st = .rolledBack → l.roll = true → s.settled lid = true →
        (s.sys.checks.filter (fun x => decide (x.1 = l.server))).length < 8 → l.snaps = [(page, f, n)] → l.replays < 3 → l.nrepl = false →
        s.mem.Sound → s.mem.syncReqs = [] → f % 65536 = 0 → f < 2 ^ 48 → page < 2 ^ 32 →
        ∃ t, exec (.rollback lid) s = .next t ∧ (∀ k < 65536, t.mem.atHome (65536 * page + k) = s.mem.atHome (f + k)) ∧
          (∀ a < 2 ^ 48, a / 65536 ≠ page → t.mem.atHome a = s.mem.atHome a) ∧
          t.launch? lid = some { l with snaps := [], wrote := [], deps := [], roll := false }) ∧
      (s.launch? lid = some l → l.st = .running → page ∉ l.wrote → s.freeFrame l.part = some f →
        ∃ t, exec (.snapshotCopy lid page) s = .next t ∧ (∀ k < 65536, t.mem.stackGet (f + k) = s.mem.atHome (65536 * page + k)) ∧
          t.launch? lid = some { l with snaps := l.snaps ++ [(page, f, s.clock)], wrote := l.wrote ++ [page] })) ∧
    (∀ l : Launch, s.launch? lid = some l → l.st = .running → page ∈ l.wrote → exec (.snapshotCopy lid page) s = .next s) ∧
    (s.boot.stage ≠ 8 → exec (.killLaunch v) s = .next s ∧ exec (.killPartition v) s = .next s) ∧
    (bitAt v 60 = false → s.killDone = true → s.boot.stage = 8 →
      (∀ l : Launch, field v 62 61 = 0 → field v 31 0 = lid → s.launch? lid = some l → l.st = .running → lid ∉ l.deps →
        ∃ t, exec (.killLaunch v) s = .next t ∧ t.killDone = false ∧ (∀ j, (t.warp j).slot ≠ .free → (t.warp j).lid ≠ lid) ∧
          t.launch? lid = some { l with st := .ended, fault := some { code := 0x0C }, roll := false } ∧
          ∀ k L, t.launch? k = some L → lid ∉ L.deps) ∧
      (field v 62 61 = 1 → ∃ t, exec (.killPartition v) s = .next t ∧
        ∀ (k : Nat) (l : Launch), s.launch? k = some l → l.st = .running → l.part = field v 35 32 →
          (∀ j, (t.warp j).slot ≠ .free → (t.warp j).lid ≠ k) ∧
          ∃ L : Launch, t.launch? k = some { l with st := .ended, fault := some { code := 0x0C }, roll := false, deps := L.deps })) ∧
    (s.killDone = false → s.boot.stage = 8 →
      (field v 62 61 = 0 → ∃ t, exec (.killLaunch v) s = .next t ∧ s.PkgIgnored t) ∧
      (field v 62 61 = 1 → ∃ t, exec (.killPartition v) s = .next t ∧ s.PkgIgnored t))

/-- PRECTL names a running launch, the running launches of a partition, or those left halted, and is ignored while a pre-
emption runs. The halt stops a launch, abandons its waits on translation faults and lifts the metering holds of its
clusters. The save, once the launch is drained, writes its context, which holds its tasks, where there is room, and
lets go of its slots; else the launch stays halted and SHORT is set. RESTORE places a context in its partition, or
ends with result 2 where there is none, and is ignored while one runs. LEASEREV revokes the lease of a core unless it
is breaking, discards its operations not begun with REVOKED and marks the group; a lease joins when the earlier
operations of its cores are done, and a released or revoked one is gone when its own are. UNFRZ kills the launches
with work on a core, returns a master to service, or resets a function. The model's choices, by entry of its
assumption log: the layout of a context's bytes is entry 64; that one boundary halts all named launches is entry 112;
the core that takes a restored free task is entry 113; that a launch left halted counts as running is entry 115; the
die whose idle tree checks the halted launches is entry 135. (R196, R197, R199, R237, R415, R452, R453, R457, R458,
R459, R461.) -/
def Obligations.Preemption : Prop :=
  ∀ (s : State) (lid die : Nat) (v : BitVec 64),
    (∀ p ∈ ([(.preemptLaunch v, fun k _ => k = field v 31 0, fun n => n = 0),
             (.preemptPartition v, fun _ L => L.part = field v 35 32, fun n => n = 1),
             (.shortSaveResume v, fun _ _ => False, fun n => 2 ≤ n)] : List (Instr × (Nat → Launch → Prop) × (Nat → Prop))),
      (s.boot.stage ≠ 8 → exec p.1 s = .next s) ∧
      (p.2.2 (field v 61 60) → s.boot.stage = 8 →
      let named := fun k => k ∈ s.sys.short ∨ ∃ L, s.launch? k = some L ∧ L.st = .running ∧ p.2.1 k L
      (s.sys.preempt ≠ none → ∃ t, exec p.1 s = .next t ∧ s.PkgIgnored t) ∧
      (s.sys.preempt = none → s.launches.keys.Nodup →
        ∃ (t : State) (y : Sys), exec p.1 s = .next t ∧ t = { s with sys := y } ∧
          y = { s.sys with preempt := y.preempt, short := y.short, shortFlag := y.shortFlag, presz := y.presz } ∧
          (t.sys.preempt = none ∧ (∀ k, ¬named k) ∨ ∃ l, t.sys.preempt = some (l, false) ∧ l ≠ [] ∧ ∀ k, k ∈ l ↔ named k)))) ∧
    (∀ L : Launch, s.sys.preempt = some ([lid], false) → s.launch? lid = some L → L.st = .running → s.mem.syncReqs = [] →
      (∀ w, (s.warp w).lid = lid → (s.core (w / 16)).castle = none ∧ ∀ q, (s.warp w).queues.get [] q = []) →
      (∀ c, ∀ o ∈ (s.core c).q0, o.lid ≠ lid) → (∀ g, ∀ l ∈ (s.cluster g).leases, ∀ o ∈ l.q0, o.lid ≠ lid) →
      ∃ t, exec .preemptHalt s = .next t ∧ t.sys.preempt = some ([lid], true) ∧ t.launch? lid = some { L with st := .halted } ∧
        (∀ f, f ∈ t.faults ↔ f ∈ s.faults ∧ (f.lid ≠ lid ∨ s.waitedElse lid f.tok = true)) ∧
        (∀ w i, (t.warp w).lane i =
          if (s.warp w).lid = lid then
            (match ((s.warp w).lane i).wait with
             | .fault _ => { (s.warp w).lane i with wait := .none }
             | _ => (s.warp w).lane i)
          else (s.warp w).lane i) ∧
        ∀ a < 12, ∀ r ∈ (t.mem.arbs.get Arb.dflt a).held, ∀ w, (s.warp w).slot ≠ .free → (s.warp w).lid = lid → w / 256 ≠ r.clu) ∧
    (∀ L : Launch,
      let x := s.contextOf lid (field (s.reg (pkgBlk 0x80008)) 47 12 * 4096 + s.sys.presz)
      let room := 4096 * field (s.reg (pkgBlk 0x80010)) 31 0
      let free := (s.sys.checks.filter (fun x => decide (x.1 = if s.sys.off 0 then 1 else 0))).length < 8
      s.sys.preempt = some ([lid], true) → s.launch? lid = some L → L.st = .halted → s.sys.short = [] →
      (s.mem.noneOf lid = false →
        ∃ t, exec .contextSave s = .next t ∧ t = { s with sys := { s.sys with checks := t.sys.checks } }) ∧
      (∀ w, (s.warp w).slot ≠ .free → (s.warp w).lid = lid →
        ∃ e ∈ x.tasks, e.key = w ∧ e.warp.s = (s.warp w).s ∧ e.warp.spc = (s.warp w).spc ∧ e.warp.trec = (s.warp w).trec ∧
          e.warp.mks = (s.warp w).mks ∧ ∀ i, e.warp.lane i = { (s.warp w).lane i with waitCnt := 0, yieldLeft := 0, latch := none }) ∧
      (s.mem.noneOf lid = true → free → s.sys.presz + x.bytes ≤ room →
        ∃ t, exec .contextSave s = .next t ∧ x ∈ t.contexts ∧ t.sys.preempt = none ∧ t.sys.shortFlag = false ∧
          t.sys.presz = s.sys.presz + x.bytes ∧ t.launch? lid = some { L with st := .saved, plan := [], slots := [], boundSlots := [] } ∧
          ∀ w, (t.warp w).slot ≠ .free → (t.warp w).lid ≠ lid) ∧
      (s.mem.noneOf lid = true → free → room < s.sys.presz + x.bytes →
        ∃ t, exec .contextSave s = .next t ∧ t.contexts = s.contexts ∧ t.sys.preempt = none ∧ t.sys.shortFlag = true ∧
          t.sys.short = [lid] ∧ t.launches = s.launches ∧ t.warps = s.warps)) ∧
    (s.boot.stage ≠ 8 → exec (.restore v) s = .next s ∧ exec (.leaserev die v) s = .next s ∧ exec (.unfreezeKill v) s = .next s ∧
      exec (.unfreezeReset v) s = .next s) ∧
    (s.boot.stage = 8 → (s.sys.restore ≠ none → ∃ t, exec (.restore v) s = .next t ∧ s.PkgIgnored t) ∧
     (s.sys.restore = none → exec (.restore v) s =
       .next { s with sys := { s.sys with restore := some (field v 47 12 * 4096, field v 55 52), restoreResult := 0 } })) ∧
    (∀ addr part : Nat, s.sys.restore = some (addr, part) → (∀ x ∈ s.contexts, x.addr ≠ addr) →
      ∃ t, exec .restorePlacement s = .next t ∧ t = { s with sys := { s.sys with restore := none, restoreResult := 2 } }) ∧
    (∀ (addr part g w : Nat) (ws : List Nat) (x : Context) (e : SavedTask) (L : Launch),
      s.sys.restore = some (addr, part) → s.contexts = [x] → x.addr = addr → s.launch? x.lid = some L → L.st = .saved →
      s.readContext x = some x → L.cores = false → x.tasks = [e] → e.warp.trec.groupNos = [] → e.warp.queues = [] → e.warp.swait = .none →
      x.cores = [{ core := e.key / 16, ways := 0, tiles := [], grants := [], wins := [], spad := [], acc := [], q0 := [] }] →
      x.leases = [] → x.queued = [] → x.heldOn = [] → x.ctrWaits = [] → x.areqs = [] → s.clustersOf part = [g] → s.schedules g = true →
      (s.core (16 * g)).carves = [] → s.freeSlots (16 * g) x.lid true = w :: ws →
      ∃ (t : State) (M : Launch), exec .restorePlacement s = .next t ∧ t.sys.restore = none ∧ t.sys.restoreResult = 0 ∧
        t.contexts = [] ∧ t.launch? x.lid = some M ∧ M.st = .running ∧ M.part = part ∧ M.space = 16 * part + L.space % 16 ∧
        (t.warp w).slot ≠ .free ∧
        t.warp w = { e.warp with part := part, space := 16 * part + L.space % 16, since := s.clock, slot := (t.warp w).slot } ∧
        ∀ j, j ≠ w → t.warp j = (match (s.warp j).swait with
          | .queues _ _ | .qfull _ | .unbond _ | .afree _ => { s.warp j with swait := .none }
          | _ => s.warp j)) ∧
    (let c := 16 * (64 * die + field v 5 0) + field v 11 8
     let hit := fun (y : Lease) => (∃ p ∈ s.clusters, y ∈ p.2.leases) ∧ y.st ≠ .breaking ∧ (c ∈ y.cores ∨ y.lent = some (c / 16))
     die < 2 → s.boot.stage = 8 → s.sys.off die = false →
     (s.sys.lrev.find? die ≠ none → ∃ t, exec (.leaserev die v) s = .next t ∧ s.Ignored t die) ∧
     (s.sys.lrev.find? die = none → (∀ y, ¬hit y) → exec (.leaserev die v) s = .next s) ∧
     (∀ (l : Lease) (L : Launch), s.sys.lrev.find? die = none → (∀ y, hit y ↔ y = l) → s.launch? l.lid = some L →
       ∃ t, exec (.leaserev die v) s = .next t ∧ ((t.launch l.lid).gstate l.grp).revoked = true ∧
         bitAt (BitVec.ofNat 64 (t.regRead (dieBlk die 0x3100))) 63 = false ∧
         ∀ g, (t.cluster g).leases = (s.cluster g).leases.map (fun z =>
           if z.lid = l.lid ∧ z.grp = l.grp then
             { z with st := .revoked, q0 := z.q0.map (fun o =>
                 if o.st = .queued then { o with st := .performed, code := 0x0C, info := 0 } else o) }
           else z))) ∧
    (∀ l : Lease, (s.cluster s.cur.clu).leases[s.cur.idx]? = some l →
      let gone := fun (t : State) => ∀ g y, y ∈ (t.cluster g).leases ↔ y ∈ (s.cluster g).leases ∧ ¬(y.lid = l.lid ∧ y.grp = l.grp)
      (l.st = .joining → (∀ c ∈ l.cores, (s.core c).q0 = []) →
        ∃ t, exec .leaseJoin s = .next t ∧ ∀ g, (t.cluster g).leases = (s.cluster g).leases.map (fun z =>
          if z.lid = l.lid ∧ z.grp = l.grp then { z with st := .held } else z)) ∧
      (l.st ≠ .joining ∨ (∃ c ∈ l.cores, (s.core c).q0 ≠ []) → exec .leaseJoin s = .next s) ∧
      (l.st = .releasing → l.q0 = [] → ∃ t, exec .leaseRelease s = .next t ∧ gone t) ∧
      (l.st ≠ .releasing ∨ l.q0 ≠ [] → exec .leaseRelease s = .next s) ∧
      (l.st = .revoked → l.q0 = [] → s.sys.lrev.keys.Nodup →
        ∃ t, exec .leaseRevokedFree s = .next t ∧ gone t ∧ ∀ d < 2, (∃ c ∈ l.cores, s.sys.lrev.find? d = some c) →
          bitAt (BitVec.ofNat 64 (t.regRead (dieBlk d 0x3100))) 63 = true) ∧
      (l.st ≠ .revoked ∨ l.q0 ≠ [] → exec .leaseRevokedFree s = .next s)) ∧
    (let code := field v 15 0
     let ix := code % 4096
     s.boot.stage = 8 →
     (∀ (l : Launch) (w : Nat), field v 17 16 = 0 → code / 4096 = 0 → (∀ j, j ∈ s.residents ix ↔ j = w) → (s.core ix).q0 = [] →
       s.leaseAt ix = none → (s.warp w).lid = lid → s.launch? lid = some l → l.st = .running → lid ∉ l.deps →
       ∃ t, exec (.unfreezeKill v) s = .next t ∧ (t.core ix).frozen = false ∧ (∀ j, (t.warp j).slot ≠ .free → (t.warp j).lid ≠ lid) ∧
         t.launch? lid = some { l with st := .ended, fault := some { code := 0x0C }, roll := false }) ∧
     (field v 17 16 = 0 → code / 4096 < 3 → ∃ t, exec (.unfreezeKill v) s = .next t ∧
       (code / 4096 = 0 → (t.core ix).frozen = false) ∧ (code / 4096 = 1 → (t.cluster ix).copyFrozen = false) ∧
       (code / 4096 = 2 → (t.cluster ix).gathFrozen = false)) ∧
     (field v 17 16 = 1 → code / 4096 = 4 → ∃ t, exec (.unfreezeReset v) s = .next t ∧ t = { s with frozenFns := t.frozenFns } ∧
       ∀ f, f ∈ t.frozenFns ↔ f ∈ s.frozenFns ∧ f ≠ ix) ∧
     (field v 17 16 ≠ 0 → exec (.unfreezeKill v) s = .next s) ∧
     (field v 17 16 ≠ 1 ∨ code / 4096 ≠ 4 → exec (.unfreezeReset v) s = .next s))

/-- A LOAD in progress reads its box, element by element at the addresses of R228, converted as the block says, and a
quantising LOAD the records of the box; a gather reads its list and its elements, with zeros for indices out of range.
What was read then lands in the destination tiles, byte for byte; the entry becomes ready with the last byte that it
expects, and the operation is performed with the last byte of the last destination. A STORE or a MOVE writes its
element and is performed with code 0; a scatter writes its element, which then stands in the bank, or has code 0x0E
where the index is out of range. An operation that its engine refuses has the lowest code. Nothing else in memory
changes, but for which agents know of bytes that the host does not see yet. The model's choices, by entry of its
assumption log: that a step reads or writes as many elements as go on without a wait is entry 51; that an element is
read and written at its bank is entry 52; that each event takes up the head of one kind and direction is entry 96;
that bytes of records land in whole records is entry 97. (R213, R217, R226, R228, R229, R230, R231, R234, R335, R336,
R337.) -/
def Obligations.CopiesAndGathers : Prop :=
  ∀ (s : State) (o : EngOp) (pa : Nat → Nat → Nat),
    let r := QRef.own s.cur.warp s.cur.q
    let w := o.warp
    let cm := s.copyMaster o
    let gm := s.gatherMaster o
    let looks := fun (d n : Nat) (f : Nat → Nat) => (units n).flatMap (fun u => s.mem.lookN d (canonPa (f u.1)) u.2)
    let reach := fun (m : Master) (va n : Nat) (k : AccKind) (f : Nat → Nat) => ∀ u ∈ units n, s.Within m (va + u.1) k (f u.1)
    let running := o.st = .running ∧ o.tok = none ∧ s.runs o.lid = true ∧ s.glitch = none ∧ o.pass = 0 ∧ o.seq = 0 ∧ o.data = [] ∧ s.mem.Sound ∧ s.mem.granules = []
    let free := (s.cluster (s.copyClu o)).copyFrozen = false ∧ s.copyTurn (s.copyClu o) r = true
    let gfree := (s.cluster (w / 256)).gathFrozen = false
    let size := fmtSize o.fmt
    let source := fun k => looks cm.die size (pa k)
    let onlyRead := fun (t : State) => t.mem = { s.mem with toClu := t.mem.toClu, unseen := t.mem.unseen } ∧
      t.mem.unseen.map (fun u => { u with w := u.w.forget }) = s.mem.unseen.map (fun u => { u with w := u.w.forget })
    let putOnly := fun (t : State) (d a : Nat) (b : List Byte) => t.mem.lookN d a b.length = b ∧
      ∀ q, q < a ∨ a + b.length ≤ q → t.mem.look d q = s.mem.look d q
    s.headOf r = some o →
    (running → free → o.kind = .tcopy → o.dir = 0 → o.poison = [] → (∀ k < o.total, reach cm (o.maddr k) size .read (pa k)) →
      (o.fmt = 7 → o.cvt = 0 ∧ s.mem.strait = [] ∧ ∀ k < o.total, padBad (source k) = false) →
      ∃ t, exec .tcopyLoad s = .next t ∧ onlyRead t ∧
        t.headOf r = some { o with seq := o.total, pass := 1
                                   data := (List.range o.total).flatMap (fun k => (o.convert (ofBytes (source k))).1)
                                   flags := (List.range o.total).foldl (fun f k => f ||| (o.convert (ofBytes (source k))).2) o.flags }) ∧
    (∀ v : Nat, o.fmt < 7 →
      (o.cvt = 0 → (o.convert v).1 = bytesOf size v ∧ (o.convert v).2 = 0) ∧
      (o.cvt = 1 → (o.convert v).1 = bytesOf 2 (narrow flBF16 true (BitVec.ofNat 32 v)).val.toNat) ∧
      (o.cvt = 2 → (o.convert v).1 = bytesOf 2 (narrow flFP16 true (BitVec.ofNat 32 v)).val.toNat) ∧
      (o.cvt = 3 → (o.convert v).1 = bytesOf 1 (narrow flE4M3 false (BitVec.ofNat 32 v)).val.toNat) ∧
      (o.cvt = 4 → (o.convert v).1 = bytesOf 1 (narrow flE5M2 false (BitVec.ofNat 32 v)).val.toNat)) ∧
    (∀ k : Nat, o.dims = 2 → o.perm 0 = 0 → o.perm 1 = 1 → o.dext 0 ≠ 0 → k < o.dext 0 * o.dext 1 →
      let at_ := fun (j x : Nat) => max 0 (min (o.org j + x) ((o.bnd j : Int) - 1)) * o.mstr j
      ((o.maddr k : Nat) : Int) = ((o.mbase : Int) + at_ 0 (k % o.dext 0) + at_ 1 (k / o.dext 0)) % 2 ^ 56) ∧
    (running → free → o.kind = .tquant → o.dir = 0 → o.poison = [] → o.fmt = 0 ∨ o.fmt = 2 →
      (∀ k < o.total, reach cm (o.maddr k) size .read (pa k)) →
      let q := o.quantise (fun k => quantIn o.fmt (if k < o.total then ofBytes (source k) else 0))
      ∃ t, exec .tquantOp s = .next t ∧ onlyRead t ∧
        t.headOf r = some { o with seq := o.total, pass := 1, data := q.1.flatten, flags := o.flags ||| q.2 }) ∧
    (running → free → o.kind = .tcopy → o.fmt < 7 → o.total = 1 → s.mem.Plain →
      (∀ (c x : Nat) (e : Tile), o.dir = 1 → o.srcAcc = false → o.reads = [(c, x)] → s.tile? c x = some e → s.mem.badSpad = [] →
        let b := (o.convert (ofBytes (getBytes (s.core c).spad (16 * e.base + o.tileOff) size))).1
        reach cm (o.maddr 0) b.length .write (pa 0) → homeOf (canonPa (pa 0 0)) = cm.die → canonPa (pa 0 0) % b.length = 0 →
        ∃ (t : State) (p : EngOp), exec .tcopyStore s = .next t ∧ t.headOf r = some p ∧ p.st = .performed ∧ p.code = 0 ∧
          putOnly t cm.die (canonPa (pa 0 0)) b ∧
          t.tile? c x = if e.freeing = true ∧ e.fills = 0 ∧ e.readers ≤ 1 then none
            else some { e with readers := e.readers - 1, st := if e.readers ≤ 1 ∧ e.st = .draining then .ready else e.st }) ∧
      (∀ f : Nat → Nat, o.dir = 2 → o.permuting = false → reach cm (o.maddr 0) size .read (pa 0) →
        let b := (o.convert (ofBytes (source 0))).1
        reach cm (o.oaddr 0) b.length .write f → homeOf (canonPa (f 0)) = cm.die → canonPa (f 0) % b.length = 0 →
        ∃ (t : State) (p : EngOp), exec .tcopyMove s = .next t ∧ t.headOf r = some p ∧ p.st = .performed ∧ p.code = 0 ∧
          putOnly t cm.die (canonPa (f 0)) b)) ∧
    (∀ (ix : Nat → Nat), s.cur.q = 5 → running → gfree → o.row = 0 → o.gWidth ≤ 8 →
      (∀ i < o.gCount, s.Within gm (o.gIdx + o.gWidth * i) .read (ix i)) →
      let x := fun i => ofBytes (s.mem.lookN gm.die (canonPa (ix i)) o.gWidth)
      let out := (List.range o.gCount).filter (fun i => decide (o.gBound ≤ x i))
      (o.kind = .gath → s.mem.Plain →
        (∀ i < o.gCount, x i < o.gBound → s.Within gm (o.elemAddr (x i)) .read (pa i 0)) →
        ∃ t, exec .gatherOp s = .next t ∧ (∀ d q, t.mem.look d q = s.mem.look d q) ∧
          t.headOf r = some { o with seq := o.gCount, pass := 1, row := out.length, info := out.headD o.info
                                     data := (List.range o.gCount).flatMap (fun i =>
                                       if x i < o.gBound then
                                         (List.range o.gSize).map (fun j => s.mem.atHome (canonPa (pa i 0) + j))
                                       else List.replicate o.gSize 0) }) ∧
      (∀ e : Tile, o.kind = .scat → o.gCount = 1 → o.gSize ≤ 16 → s.tile? (w / 16) o.gTile = some e →
        s.mem.badSpad = [] → s.mem.Plain →
        let b := getBytes (s.core (w / 16)).spad (16 * e.base + o.gOff) o.gSize
        let a := canonPa (pa 0 0)
        (x 0 < o.gBound → s.Within gm (o.elemAddr (x 0)) .write (pa 0 0) → homeOf a = gm.die → a % o.gSize = 0 →
          ∃ (t : State) (p : EngOp), exec .scatterOp s = .next t ∧ t.headOf r = some p ∧ p.st = .performed ∧ p.code = 0 ∧
            putOnly t gm.die a b ∧ ∀ k < o.gSize, t.mem.stackGet (a + k) = b.getD k 0) ∧
        (o.gBound ≤ x 0 → ∃ (t : State) (p : EngOp), exec .scatterOp s = .next t ∧ t.headOf r = some p ∧ p.st = .performed ∧
          p.code = 0x0E ∧ p.info = 0 ∧ ∀ d q, t.mem.look d q = s.mem.look d q))) ∧
    (∀ (x c landed k : Nat) (e : Tile), s.cur.q ≠ 0 → o.fillTile = some x → o.dests[s.cur.idx]? = some (c, landed) →
      o.pass = 1 ∨ o.kind = .tcopy ∧ o.dstFmt ≠ 7 → o.st = .running ∨ o.isHeld = true → s.opStopped o = false →
      s.runs o.lid = true → s.tile? c x = some e → o.poison = [] → s.mem.badSpad = [] →
      cellsWf (s.core c).spad = true →
      let n := min (if o.kind ≠ .gath ∧ o.dstFmt = 7 then (k + 143) / 144 * 144 else k) (o.data.length - landed)
      let from_ := 16 * e.base + o.fillOff + landed
      let ds := o.dests.set s.cur.idx (c, landed + n)
      let all := o.pass = 1 ∧ o.st = .running ∧ ∀ d ∈ ds, d.2 = o.data.length
      ∃ (t : State) (p : EngOp), exec (.fillLanding k) s = .next t ∧ t.headOf r = some p ∧
        (∀ a, cellGet (t.core c).spad a =
          if from_ ≤ a ∧ a < from_ + n then o.data.getD (landed + (a - from_)) 0 else cellGet (s.core c).spad a) ∧
        t.tile? c x = some { e with landed := e.landed + n, reserved := e.reserved - n
                                    st := if e.landed + n = 16 * e.expect ∧ e.fail = false then .ready else e.st } ∧
        (all → p.st = .performed ∧ p.code = if o.kind = .gath ∧ o.row ≠ 0 then 0x0E else 0) ∧ (¬all → p = { o with dests := ds })) ∧
    (∀ (x c landed k : Nat), s.cur.q ≠ 0 → o.fillTile = some x → o.dests[s.cur.idx]? = some (c, landed) → s.opStopped o = true →
      exec (.fillLanding k) s = .next s) ∧
    (∀ f : Nat → Nat, o.st = .queued → o.tok = none → s.runs o.lid = true → s.mayStart o = true → s.mem.Sound → s.mem.granules = [] →
      (o.kind = .tcopy ∨ o.kind = .tquant → free → reach { cm with tid := 0 } o.block.toNat 192 .read f →
        let p := { o with pb := looks cm.die 192 f }
        p.dir % 3 = 0 → s.copyWaits p = false → s.copyCode p ≠ 0 →
        ∃ t, exec (if o.kind = .tcopy then .tcopyLoad else .tquantOp) s = .next t ∧ onlyRead t ∧
          t.headOf r = some { p with st := .performed, code := s.copyCode p, info := 0, tok := none }) ∧
      (s.cur.q = 5 → o.kind = .gath ∨ o.kind = .scat → gfree →
        reach { gm with cls := 1, slack := (s.launch o.lid).slack } o.block.toNat 64 .read f →
        let p := { o with pb := looks gm.die 64 f }
        s.gatherWaits p = false → s.gatherCode p ≠ 0 →
        ∃ t, exec (if o.kind = .gath then .gatherOp else .scatterOp) s = .next t ∧ onlyRead t ∧
          t.headOf r = some { p with st := .performed, code := s.gatherCode p, info := 0, tok := none }))

/-- An operation of q0 begins once its tiles are ready, which then drain. A row of an INT8 product of one slice on one
core adds the exact dot products to the accumulator words of its row, saturating, column after column in the order in
which they arrive, now or while the operation goes on, and changes no other word; mrow counts the row, and once the
sums of the last row have all arrived the operation is performed. A performed operation, unless its engine is frozen,
writes its status word and leaves its queue, and its flags reach stk. A held operation traps the lanes that wait on
its tile with code 0x10. An accumulator request that fits is served: the grant on each of its cores and the handle. A
promotion copies a row into a slot, a demotion frees the slot: each leaves every byte as it reads, and q7.st holds the
outcome; without slots the code is 4, with PREF. The model's choices, by entry of its assumption log: up to which
cycle the sums have arrived at a step is entry 50; what the status word's release shows is entry 95; when a tile that
an operand reads becomes ready again is entry 98. (R122, R187, R212, R235, R242, R243, R268, R269, R339, R340, R341,
R445.) -/
def Obligations.EngineEvents : Prop :=
  ∀ (s : State) (o : EngOp),
    let w := s.cur.warp
    let wp := s.warp w
    let own := QRef.own w s.cur.q
    let live := o.tok = none ∧ s.runs o.lid = true ∧ s.glitch = none
    (let c := s.cur.core
     let k := s.core c
     let r := QRef.core c
     s.cur.q = 0 → s.leaseAt c = none → k.q0.head? = some o → o.kind = .mma → live → (s.core (o.warp / 16)).frozen = false →
     (o.st = .queued → s.mayStart o = true → o.mTiles.Nodup → o.late = [] →
       ((∀ p ∈ o.mTiles, ∃ e, s.tile? p.1 p.2 = some e ∧ e.st = .ready) →
         ∃ t, exec (.mmaOp 0) s = .next t ∧ t.headOf r = some { o with st := .running, reads := o.mTiles, pass := 0, row := 0 } ∧
           ∀ p ∈ o.mTiles, ∀ e, s.tile? p.1 p.2 = some e → t.tile? p.1 p.2 = some { e with st := .draining, readers := e.readers + 1 }) ∧
       ((∃ p ∈ o.mTiles, ∀ e, s.tile? p.1 p.2 = some e → e.st ≠ .ready) → ∀ n, exec (.mmaOp n) s = .next s)) ∧
     (∀ a b : Tile, o.st = .running → o.cores = [c] → o.ra = 1 → o.rb = 1 → o.aFmt = 2 → o.bFmt = 2 → o.iMode = false → o.aMem = false →
       o.mK = 64 → 1 ≤ o.mN → o.mN ≤ 8 → 8 ≤ o.accStride → o.row < o.mM → o.pass = 0 → o.bset = [] → o.bnext = [] → o.late = [] →
       s.tile? c (o.aOp % 64) = some a → s.tile? c (o.bOp % 64) = some b → s.mem.badSpad = [] → s.mem.badAcc = [] → s.mem.badB = [] → s.mem.badLink = [] →
       let byte := fun (x : Nat) => (cellGet k.spad x).toInt
       let dot := fun (j : Nat) => ((List.range 64).map (fun i =>
         byte (16 * a.base + 64 * o.row + i) * byte (16 * b.base + 64 * j + i))).sum
       let word := fun (j : Nat) => o.accFirst + o.row * o.accStride + j
       let before := fun (j : Nat) => if o.zAcc = true then (0 : Int) else (k.acc.get 0 (word j)).toInt
       let late := fun (j : Nat) =>
         ({ arrives := o.row + j, core := c, word := word j, sum := BitVec.ofInt 32 (dot j), replace := o.zAcc } : LateSum)
       ∃ (t : State) (p : EngOp) (n : Nat), exec (.mmaOp 1) s = .next t ∧ t.headOf r = some p ∧ n ≤ o.mN ∧
         (∀ j < n, (t.core c).acc.get 0 (word j) = BitVec.ofInt 32 (max (-(2 ^ 31)) (min (2 ^ 31 - 1) (before j + dot j)))) ∧
         (∀ x, (∀ j < n, x ≠ word j) → (t.core c).acc.get 0 x = k.acc.get 0 x) ∧ (∀ j, j ≠ c → (t.core j).acc = (s.core j).acc) ∧
         p.late = ((List.range o.mN).drop n).map late ∧ p.st = .running ∧
         (o.row + 1 < o.mM → p.pass = 0 ∧ p.row = o.row + 1) ∧ (o.row + 1 = o.mM → p.pass = 1 ∧ p.row = 0 ∧ 1 ≤ n) ∧
         ((s.warp o.warp).lid = o.lid → (s.warp o.warp).taskId = o.taskId → (∀ q ∈ s.opsOf o.warp, q.q ≠ 0 ∨ q.num ≤ o.num) →
           (t.warp o.warp).mrow = if o.row + 1 = o.mM then 2 ^ 32 else BitVec.ofNat 64 (o.row + 1))) ∧
     (∀ x : LateSum, o.st = .running → o.passes ≤ o.pass → o.aFmt = 2 → o.bFmt = 2 → s.mem.badAcc = [] →
       let done := fun (t : State) => ∃ p, t.headOf r = some p ∧ p.st = .performed ∧ p.code = 0 ∧ p.reads = [] ∧ p.late = []
       let before := if x.replace = true then (0 : Int) else ((s.core x.core).acc.get 0 x.word).toInt
       (o.late = [] → ∃ t, exec (.mmaOp 1) s = .next t ∧ done t ∧ ∀ j, (t.core j).acc = (s.core j).acc) ∧
       (o.late = [x] → ∃ t, exec (.mmaOp 1) s = .next t ∧ done t ∧
         (t.core x.core).acc.get 0 x.word = BitVec.ofInt 32 (max (-(2 ^ 31)) (min (2 ^ 31 - 1) (before + x.sum.toInt))) ∧
         ∀ j i, j ≠ x.core ∨ i ≠ x.word → (t.core j).acc.get 0 i = (s.core j).acc.get 0 i))) ∧
    (∀ (rest : List EngOp) (pa : Nat),
      let m := s.opMaster o
      let u := s.updMem (fun x => x.bump m.die)
      s.cur.q ≠ 0 → s.queueAt own = o :: rest → o.warp = w → o.st = .performed → live → s.opStopped o = false → s.mem.Plain →
      u.Within m o.block.toNat .write pa → homeOf (canonPa pa) = m.die → canonPa pa % 8 = 0 →
      ∃ t, exec .engineCompletion s = .next t ∧ t.queueAt own = rest ∧
        t.mem.lookN m.die (canonPa pa) 8 = bytesOf 8 (2 ^ 63 + 256 * (o.info % 2 ^ 32) + o.code % 256) ∧
        (∀ q, q < canonPa pa ∨ canonPa pa + 8 ≤ q → t.mem.look m.die q = s.mem.look m.die q) ∧
        (wp.slot ≠ .free → wp.lid = o.lid → wp.taskId = o.taskId → (t.warp w).stk = wp.stk ||| BitVec.ofNat 32 o.flags) ∧
        ∀ j, match (s.warp j).swait with
          | .queues _ _ | .qfull _ | .unbond _ | .afree _ => (t.warp j).swait = .none
          | x => (t.warp j).swait = x) ∧
    (o.st ≠ .performed ∨ s.opStopped o = true → s.headOf s.actorQueue = some o → exec .engineCompletion s = .next s) ∧
    (∀ (x : Nat) (g : List Nat), s.untolds w = [o] → o.fillTile = some x → (∃ p ∈ o.dests, p.1 = w / 16) → wp.tileGroups x = [g] →
      wp.tvec ≠ 0 → (∀ i ∈ g, (wp.lane i).inH = false) →
      ∃ t, exec .pipeTrap s = .next t ∧ (∀ j, j ≠ w → t.warp j = s.warp j) ∧ t.untold w = none ∧
        ∀ i, (t.warp w).lane i =
          if i ∈ g then
            { wp.lane i with trapCode := 0x10, trapPc := (wp.lane i).pc.setWidth 64, trapMask := maskOf (fun j => decide (j ∈ g))
                             inH := true, pc := wp.tvec.setWidth 56, wait := .none, failed := [], errSyn := o.syn
                             errUnit := BitVec.ofNat 32 o.unit, errTr := BitVec.ofNat 32 o.tr, errTc := BitVec.ofNat 32 o.tc }
          else wp.lane i) ∧
    (s.untold w = none → exec .pipeTrap s = .next s) ∧
    (∀ (y : AReq) (d : Nat),
      let g := s.cur.clu
      let fits := fun (b : Nat) => b % 256 = 0 ∧ b + y.size ≤ 32768 ∧ ∀ c ∈ y.cores, ∀ x ∈ (s.core c).grants, b + y.size ≤ x.base ∨ x.base + x.size ≤ b
      (s.cluster g).areqs = [y] → (s.warp y.warp).swait = .aalloc d → y.cores.Nodup → 256 ≤ y.size →
      ((∃ b, fits b) → ∃ (t : State) (b : Nat), exec .aallocServed s = .next t ∧ fits b ∧ (t.cluster g).areqs = [] ∧
        (∀ c, t.core c = if c ∈ y.cores then
            { s.core c with grants := (s.core c).grants ++ [{ holder := y.holder, base := b, size := y.size, num := s.clock }] } else s.core c) ∧
        (t.warp y.warp).sreg d = BitVec.ofNat 64 (b + y.size * 2 ^ 16) ∧ (t.warp y.warp).swait = .none ∧
        (t.warp y.warp).spc = (s.warp y.warp).spc + 4) ∧
      ((∀ b, ¬fits b) → exec .aallocServed s = .next s)) ∧
    (let part := (s.warp o.warp).part
     let pa := o.redAddr
     let p := { placeOf pa with col := 0 }
     let fs := s.windowSlots p.stack p.bankIx part
     let same := fun (t : State) => ∀ a < 768 * gib, (placeOf a).row < 15360 → t.mem.stackGet a = s.mem.stackGet a
     let ends := fun (t : State) (code : Nat) => (t.warp o.warp).q7st = BitVec.ofNat 64 (pa / 1024 * 1024 + code) ∧
       t.queueAt (.own w 7) = (s.queueAt (.own w 7)).tail
     s.headOf (.own w 7) = some o → o.warp = w → o.st = .queued → live → s.mayStart o = true → (s.core (w / 16)).frozen = false →
     pa < 768 * gib → p.row < 15360 → Memory.wf s.mem.bytes → s.mem.Sound →
     (∀ (pin : Bool) (f : Nat) (l : List Nat), o.kind = .prom pin → s.mem.slots = [] →
       (fs = f :: l → ∃ t, exec .promotion s = .next t ∧ ends t 0 ∧ same t ∧ t.mem.slots = [(slotKey p.stack p.bankIx f,
         { dirty := false, pin := pin, seq := s.mem.nextSeq.get 0 (4096 * p.stack + p.bankIx), hrow := p.row })]) ∧
       (fs = [] → ∃ t, exec .promotion s = .next t ∧ ends t 4 ∧ t.mem = { s.mem with arbs := t.mem.arbs } ∧
         (wp.slot ≠ .free → wp.lid = o.lid → wp.taskId = o.taskId → bitAt (t.warp w).stk 10 = true))) ∧
     (∀ (f : Nat) (e : SlotEnt), o.kind = .dem → f ∈ fs → s.mem.slots = [(slotKey p.stack p.bankIx f, e)] →
       (e.hrow = p.row → (e.dirty = false → ∀ a, s.mem.stackGet a = cellGet s.mem.bytes a) →
         ∃ t, exec .demotion s = .next t ∧ ends t 0 ∧ same t ∧ t.mem.slots = []) ∧
       (e.hrow ≠ p.row → ∃ t, exec .demotion s = .next t ∧ ends t 5 ∧ t.mem = { s.mem with arbs := t.mem.arbs })))

/-- Every element of a zero tile, of whatever type, decodes to +0. For every tile record, element (j, i) of the transposed
record has the same FP32 bits as element (i, j) of the record; the copy engine writes the transposed record for a
transposing element. (R129, R138.) -/
def Obligations.TileRecords : Prop :=
  ∀ (b : List Byte) (i j : Nat), b.length = 144 → i < 16 → j < 16 →
    let byte := fun (x : List Byte) (k : Nat) => (x.getD k 0).toNat
    let scale := fun (x : List Byte) => byte x 136
    let dec := fun (x : List Byte) (i j : Nat) =>
      (fdq4 (codeTypeOf (scale x / 64)) (BitVec.ofNat 32 (byte x (8 * i + j / 2) / 16 ^ (j % 2) % 16))
        (BitVec.ofInt 32 (((scale x % 64 : Nat) : Int) - 32 - (byte x (128 + i / 4) / 4 ^ (i % 4) % 4 : Nat) -
          (byte x (132 + j / 4) / 4 ^ (j % 4) % 4 : Nat)))).val
    ((∀ k < 136, b.getD k 0 = 0) → scale b % 64 = 0 → (∀ k, 137 ≤ k → b.getD k 0 = 0) → dec b i j = 0) ∧
    dec (TileRec.transpose (TileRec.ofBytes b)).bytes j i = dec b i j ∧
    (∀ o : EngOp, o.cvt = 0 → o.fmt = 7 → o.rtrans = true →
      o.convert (ofBytes b) = ((TileRec.transpose (TileRec.ofBytes b)).bytes, 0))

/-- The words 0x00000000 and 0xFFFFFFFF have opcodes 0x00 of the L-set and 0x7F of the U-set and are no instruction; a
converged warp that fetches one of them with a handler set raises trap 0x01 at it: each of its executing lanes, for
the U-set word every live lane, enters the handler with the address of the word. The model's choices, by entry of its
assumption log: the agenda and the order between agents (log entries 1, 5, 99). (R77.) -/
def Obligations.ErasedMemory : Prop :=
  ∀ (s t : State) (h : Happening) (who : Actor) (r rest : List Happening) (x e g : Word), x = 0 ∨ x = 0xFFFFFFFF →
    decode x e g = .ok (.unassignedOpcode x) ∧ field x 30 24 = (if bitAt x 31 then 0x7F else 0x00) ∧
    (s.agenda = h :: r → firstOf h r = ({ who := who, what := none }, rest) →
      let s1 : State := { ({ s with agenda := rest } : State).countCorrected with tick := s.tick + 1 }.syncAll.interlock
      let group := s1.issuers who
      let w := s1.warp who.warp
      group ≠ 0 → w.converged = true →
      s1.fetch (s1.strandMaster who.warp) (w.fetchFailed group) (w.groupPc group) true = (t, .words x e g) →
      let u := t.beginIssue who group (bitAt x 31)
      let v := u.warp who.warp
      u.Handled → v.converged = true → u.execLanes ≠ [] → v.live ≠ 0 → (∀ i ∈ lanesOf v.live, (v.lane i).pc = v.spc) →
      let traps := if bitAt x 31 then lanesOf v.live else u.execLanes
      ∃ y, step s = .next y ∧ ∀ i ∈ traps,
        (v.lane i).Enters ((y.warp who.warp).lane i) 0x01 0 v.spc (maskOf (fun k => decide (k ∈ traps))) v.tvec)

/-- After reset every cluster map is the identity, every partition register 0, every CELLMASK 8 and every REGSEL its
cluster modulo 4; both epochs are 0, every core has 3 ways and a clock of 0, every row-buffer counter is 1, and DONE
of PRECTL, RESTORE, KILLCTL, INV and LEASEREV reads 1. Nothing is resident, queued or running, bring-up stands at
stage 1, and the bytes are in canonical form. The model's choices, by entry of its assumption log: the empty agenda
and queues, and every value for which no rule gives a reset value, are entry 3; the canonical form of the bytes, and
that memory reads 0 before stage 6, are entry 83. (R246, R275, R287, R407, R423, R424, R452, R459, R460, R461, R469,
R526.) -/
def Obligations.ResetState : Prop :=
  let s := State.reset
  s.Canonical ∧ s.boot.stage = 1 ∧ s.launches = [] ∧ s.agenda = [] ∧ s.mem.e0 = 0 ∧ s.mem.e1 = 0 ∧
  (∀ d < 2, ∀ l < 64, s.reg (dieBlk d (8 * l)) = BitVec.ofNat 64 l ∧ s.reg (dieBlk d (0x1000 + 8 * l)) = 0) ∧
  (∀ d < 2, ∀ j < 68, ∀ k < 16, s.reg (dieBlk d (0x8000 + 8 * (16 * j + k))) = 8) ∧
  (∀ c < 128, s.reg (pkgBlk (0x1000 + 8 * c)) = BitVec.ofNat 64 (c % 4)) ∧
  (∀ c, (s.core c).ways = 3 ∧ (s.core c).cyc = 0) ∧ (∀ w, (s.warp w).slot = .free) ∧ (∀ g, (s.cluster g).queue = []) ∧
  (∀ k j, (s.mem.chans.get Chan.dflt k).pred.get 1 j = 1) ∧
  (∀ a ∈ [pkgBlk 0x80000, pkgBlk 0x80020, pkgBlk 0x80028, dieBlk 0 0x3000, dieBlk 0 0x3100, dieBlk 1 0x3000, dieBlk 1 0x3100],
    bitAt (BitVec.ofNat 64 (s.regRead a)) 63 = true)

/-- From every state in which the bytes of the stacks, of the device buffers and of the scratchpads stand in canonical
form (rising addresses, no byte 0 listed), a step leads only to such a state, whichever instruction or event it makes.
The model's choices, by entry of its assumption log: the canonical form is the model's own representation of the
bytes, entry 83; no rule of the spec speaks of it. (10_memory.md, Inside the core, 10_memory.md, Physical addresses.) -/
def Obligations.MemoryCanonical : Prop :=
  ∀ s t : State, s.Canonical → step s = .next t → t.Canonical
end

