-- ==== Sys2Proof/Laws/Decode.lean ====
section
/-! SUPPORT. Fields of packed words, operand codes, and what they say of decoding an encoded word (03_encoding.md R64 to R67). -/

namespace Sys2Proof

/-! ## Fields of a word put together from fields -/

theorem extract_append_low {w v : Nat} (x : BitVec w) (y : BitVec v) (s l : Nat) (h : s + l ≤ v) :
    (x ++ y).extractLsb' s l = y.extractLsb' s l := by
  apply BitVec.eq_of_getLsbD_eq
  intro i hi
  simp only [BitVec.getLsbD_extractLsb', BitVec.getLsbD_append, hi, decide_true, Bool.true_and]
  rw [if_pos (by omega)]

theorem extract_append_high {w v : Nat} (x : BitVec w) (y : BitVec v) (s l : Nat) (h : v ≤ s) :
    (x ++ y).extractLsb' s l = x.extractLsb' (s - v) l := by
  apply BitVec.eq_of_getLsbD_eq
  intro i hi
  simp only [BitVec.getLsbD_extractLsb', BitVec.getLsbD_append, hi, decide_true, Bool.true_and]
  rw [if_neg (by omega)]
  congr 1; omega

theorem extract_all {w : Nat} (x : BitVec w) : x.extractLsb' 0 w = x := by simp

@[simp] theorem op_packLR (op : BitVec 8) (n : BitVec 3) (d a b : BitVec 5) (f : BitVec 6) :
    (packLR op n d a b f).extractLsb' 24 8 = op :=
  ((extract_append_high (w := 26) (v := 6) (op ++ n ++ d ++ a ++ b) f 24 8 (by decide)).trans ((extract_append_high (w := 21) (v := 5) (op ++ n ++ d ++ a) b 18 8 (by decide)).trans ((extract_append_high (w := 16) (v := 5) (op ++ n ++ d) a 13 8 (by decide)).trans ((extract_append_high (w := 11) (v := 5) (op ++ n) d 8 8 (by decide)).trans ((extract_append_high (w := 8) (v := 3) (op) n 3 8 (by decide)).trans (extract_all op))))))

@[simp] theorem unLR_packLR (op : BitVec 8) (n : BitVec 3) (d a b : BitVec 5) (f : BitVec 6) :
    unLR (packLR op n d a b f) = ⟨n, d, a, b, f⟩ := by
  have hn : (packLR op n d a b f).extractLsb' 21 3 = n :=
    ((extract_append_high (w := 26) (v := 6) (op ++ n ++ d ++ a ++ b) f 21 3 (by decide)).trans ((extract_append_high (w := 21) (v := 5) (op ++ n ++ d ++ a) b 15 3 (by decide)).trans ((extract_append_high (w := 16) (v := 5) (op ++ n ++ d) a 10 3 (by decide)).trans ((extract_append_high (w := 11) (v := 5) (op ++ n) d 5 3 (by decide)).trans ((extract_append_low (w := 8) (v := 3) (op) n 0 3 (by decide)).trans (extract_all n))))))
  have hd : (packLR op n d a b f).extractLsb' 16 5 = d :=
    ((extract_append_high (w := 26) (v := 6) (op ++ n ++ d ++ a ++ b) f 16 5 (by decide)).trans ((extract_append_high (w := 21) (v := 5) (op ++ n ++ d ++ a) b 10 5 (by decide)).trans ((extract_append_high (w := 16) (v := 5) (op ++ n ++ d) a 5 5 (by decide)).trans ((extract_append_low (w := 11) (v := 5) (op ++ n) d 0 5 (by decide)).trans (extract_all d)))))
  have ha : (packLR op n d a b f).extractLsb' 11 5 = a :=
    ((extract_append_high (w := 26) (v := 6) (op ++ n ++ d ++ a ++ b) f 11 5 (by decide)).trans ((extract_append_high (w := 21) (v := 5) (op ++ n ++ d ++ a) b 5 5 (by decide)).trans ((extract_append_low (w := 16) (v := 5) (op ++ n ++ d) a 0 5 (by decide)).trans (extract_all a))))
  have hb : (packLR op n d a b f).extractLsb' 6 5 = b :=
    ((extract_append_high (w := 26) (v := 6) (op ++ n ++ d ++ a ++ b) f 6 5 (by decide)).trans ((extract_append_low (w := 21) (v := 5) (op ++ n ++ d ++ a) b 0 5 (by decide)).trans (extract_all b)))
  have hf : (packLR op n d a b f).extractLsb' 0 6 = f :=
    ((extract_append_low (w := 26) (v := 6) (op ++ n ++ d ++ a ++ b) f 0 6 (by decide)).trans (extract_all f))
  simp only [unLR, hn, hd, ha, hb, hf]

@[simp] theorem op_packLI (op : BitVec 8) (n : BitVec 3) (d a : BitVec 5) (i : BitVec 11) :
    (packLI op n d a i).extractLsb' 24 8 = op :=
  ((extract_append_high (w := 21) (v := 11) (op ++ n ++ d ++ a) i 24 8 (by decide)).trans ((extract_append_high (w := 16) (v := 5) (op ++ n ++ d) a 13 8 (by decide)).trans ((extract_append_high (w := 11) (v := 5) (op ++ n) d 8 8 (by decide)).trans ((extract_append_high (w := 8) (v := 3) (op) n 3 8 (by decide)).trans (extract_all op)))))

@[simp] theorem unLI_packLI (op : BitVec 8) (n : BitVec 3) (d a : BitVec 5) (i : BitVec 11) :
    unLI (packLI op n d a i) = ⟨n, d, a, i⟩ := by
  have hn : (packLI op n d a i).extractLsb' 21 3 = n :=
    ((extract_append_high (w := 21) (v := 11) (op ++ n ++ d ++ a) i 21 3 (by decide)).trans ((extract_append_high (w := 16) (v := 5) (op ++ n ++ d) a 10 3 (by decide)).trans ((extract_append_high (w := 11) (v := 5) (op ++ n) d 5 3 (by decide)).trans ((extract_append_low (w := 8) (v := 3) (op) n 0 3 (by decide)).trans (extract_all n)))))
  have hd : (packLI op n d a i).extractLsb' 16 5 = d :=
    ((extract_append_high (w := 21) (v := 11) (op ++ n ++ d ++ a) i 16 5 (by decide)).trans ((extract_append_high (w := 16) (v := 5) (op ++ n ++ d) a 5 5 (by decide)).trans ((extract_append_low (w := 11) (v := 5) (op ++ n) d 0 5 (by decide)).trans (extract_all d))))
  have ha : (packLI op n d a i).extractLsb' 11 5 = a :=
    ((extract_append_high (w := 21) (v := 11) (op ++ n ++ d ++ a) i 11 5 (by decide)).trans ((extract_append_low (w := 16) (v := 5) (op ++ n ++ d) a 0 5 (by decide)).trans (extract_all a)))
  have hi : (packLI op n d a i).extractLsb' 0 11 = i :=
    ((extract_append_low (w := 21) (v := 11) (op ++ n ++ d ++ a) i 0 11 (by decide)).trans (extract_all i))
  simp only [unLI, hn, hd, ha, hi]

@[simp] theorem op_packLB (op : BitVec 8) (n : BitVec 3) (i : BitVec 21) :
    (packLB op n i).extractLsb' 24 8 = op :=
  ((extract_append_high (w := 11) (v := 21) (op ++ n) i 24 8 (by decide)).trans ((extract_append_high (w := 8) (v := 3) (op) n 3 8 (by decide)).trans (extract_all op)))

@[simp] theorem unLB_packLB (op : BitVec 8) (n : BitVec 3) (i : BitVec 21) :
    unLB (packLB op n i) = ⟨n, i⟩ := by
  have hn : (packLB op n i).extractLsb' 21 3 = n :=
    ((extract_append_high (w := 11) (v := 21) (op ++ n) i 21 3 (by decide)).trans ((extract_append_low (w := 8) (v := 3) (op) n 0 3 (by decide)).trans (extract_all n)))
  have hi : (packLB op n i).extractLsb' 0 21 = i :=
    ((extract_append_low (w := 11) (v := 21) (op ++ n) i 0 21 (by decide)).trans (extract_all i))
  simp only [unLB, hn, hi]

@[simp] theorem op_packUR (op : BitVec 8) (n : BitVec 3) (d a b : BitVec 6) (f : BitVec 3) :
    (packUR op n d a b f).extractLsb' 24 8 = op :=
  ((extract_append_high (w := 29) (v := 3) (op ++ n ++ d ++ a ++ b) f 24 8 (by decide)).trans ((extract_append_high (w := 23) (v := 6) (op ++ n ++ d ++ a) b 21 8 (by decide)).trans ((extract_append_high (w := 17) (v := 6) (op ++ n ++ d) a 15 8 (by decide)).trans ((extract_append_high (w := 11) (v := 6) (op ++ n) d 9 8 (by decide)).trans ((extract_append_high (w := 8) (v := 3) (op) n 3 8 (by decide)).trans (extract_all op))))))

@[simp] theorem unUR_packUR (op : BitVec 8) (n : BitVec 3) (d a b : BitVec 6) (f : BitVec 3) :
    unUR (packUR op n d a b f) = ⟨n, d, a, b, f⟩ := by
  have hn : (packUR op n d a b f).extractLsb' 21 3 = n :=
    ((extract_append_high (w := 29) (v := 3) (op ++ n ++ d ++ a ++ b) f 21 3 (by decide)).trans ((extract_append_high (w := 23) (v := 6) (op ++ n ++ d ++ a) b 18 3 (by decide)).trans ((extract_append_high (w := 17) (v := 6) (op ++ n ++ d) a 12 3 (by decide)).trans ((extract_append_high (w := 11) (v := 6) (op ++ n) d 6 3 (by decide)).trans ((extract_append_low (w := 8) (v := 3) (op) n 0 3 (by decide)).trans (extract_all n))))))
  have hd : (packUR op n d a b f).extractLsb' 15 6 = d :=
    ((extract_append_high (w := 29) (v := 3) (op ++ n ++ d ++ a ++ b) f 15 6 (by decide)).trans ((extract_append_high (w := 23) (v := 6) (op ++ n ++ d ++ a) b 12 6 (by decide)).trans ((extract_append_high (w := 17) (v := 6) (op ++ n ++ d) a 6 6 (by decide)).trans ((extract_append_low (w := 11) (v := 6) (op ++ n) d 0 6 (by decide)).trans (extract_all d)))))
  have ha : (packUR op n d a b f).extractLsb' 9 6 = a :=
    ((extract_append_high (w := 29) (v := 3) (op ++ n ++ d ++ a ++ b) f 9 6 (by decide)).trans ((extract_append_high (w := 23) (v := 6) (op ++ n ++ d ++ a) b 6 6 (by decide)).trans ((extract_append_low (w := 17) (v := 6) (op ++ n ++ d) a 0 6 (by decide)).trans (extract_all a))))
  have hb : (packUR op n d a b f).extractLsb' 3 6 = b :=
    ((extract_append_high (w := 29) (v := 3) (op ++ n ++ d ++ a ++ b) f 3 6 (by decide)).trans ((extract_append_low (w := 23) (v := 6) (op ++ n ++ d ++ a) b 0 6 (by decide)).trans (extract_all b)))
  have hf : (packUR op n d a b f).extractLsb' 0 3 = f :=
    ((extract_append_low (w := 29) (v := 3) (op ++ n ++ d ++ a ++ b) f 0 3 (by decide)).trans (extract_all f))
  simp only [unUR, hn, hd, ha, hb, hf]

@[simp] theorem op_packUI (op : BitVec 8) (n : BitVec 3) (d a : BitVec 6) (i : BitVec 9) :
    (packUI op n d a i).extractLsb' 24 8 = op :=
  ((extract_append_high (w := 23) (v := 9) (op ++ n ++ d ++ a) i 24 8 (by decide)).trans ((extract_append_high (w := 17) (v := 6) (op ++ n ++ d) a 15 8 (by decide)).trans ((extract_append_high (w := 11) (v := 6) (op ++ n) d 9 8 (by decide)).trans ((extract_append_high (w := 8) (v := 3) (op) n 3 8 (by decide)).trans (extract_all op)))))

@[simp] theorem unUI_packUI (op : BitVec 8) (n : BitVec 3) (d a : BitVec 6) (i : BitVec 9) :
    unUI (packUI op n d a i) = ⟨n, d, a, i⟩ := by
  have hn : (packUI op n d a i).extractLsb' 21 3 = n :=
    ((extract_append_high (w := 23) (v := 9) (op ++ n ++ d ++ a) i 21 3 (by decide)).trans ((extract_append_high (w := 17) (v := 6) (op ++ n ++ d) a 12 3 (by decide)).trans ((extract_append_high (w := 11) (v := 6) (op ++ n) d 6 3 (by decide)).trans ((extract_append_low (w := 8) (v := 3) (op) n 0 3 (by decide)).trans (extract_all n)))))
  have hd : (packUI op n d a i).extractLsb' 15 6 = d :=
    ((extract_append_high (w := 23) (v := 9) (op ++ n ++ d ++ a) i 15 6 (by decide)).trans ((extract_append_high (w := 17) (v := 6) (op ++ n ++ d) a 6 6 (by decide)).trans ((extract_append_low (w := 11) (v := 6) (op ++ n) d 0 6 (by decide)).trans (extract_all d))))
  have ha : (packUI op n d a i).extractLsb' 9 6 = a :=
    ((extract_append_high (w := 23) (v := 9) (op ++ n ++ d ++ a) i 9 6 (by decide)).trans ((extract_append_low (w := 17) (v := 6) (op ++ n ++ d) a 0 6 (by decide)).trans (extract_all a)))
  have hi : (packUI op n d a i).extractLsb' 0 9 = i :=
    ((extract_append_low (w := 23) (v := 9) (op ++ n ++ d ++ a) i 0 9 (by decide)).trans (extract_all i))
  simp only [unUI, hn, hd, ha, hi]

/-! ## Parts of fields -/

@[simp] theorem part_1_2_x (x : BitVec 1) (y : BitVec 2) : @BitVec.extractLsb' 3 2 1 (x ++ y) = x :=
  ((extract_append_high (w := 1) (v := 2) (x) y 2 1 (by decide)).trans (extract_all x))
@[simp] theorem part_1_2_y (x : BitVec 1) (y : BitVec 2) : @BitVec.extractLsb' 3 0 2 (x ++ y) = y :=
  ((extract_append_low (w := 1) (v := 2) (x) y 0 2 (by decide)).trans (extract_all y))
@[simp] theorem part_2_1_x (x : BitVec 2) (y : BitVec 1) : @BitVec.extractLsb' 3 1 2 (x ++ y) = x :=
  ((extract_append_high (w := 2) (v := 1) (x) y 1 2 (by decide)).trans (extract_all x))
@[simp] theorem part_2_1_y (x : BitVec 2) (y : BitVec 1) : @BitVec.extractLsb' 3 0 1 (x ++ y) = y :=
  ((extract_append_low (w := 2) (v := 1) (x) y 0 1 (by decide)).trans (extract_all y))
@[simp] theorem part_1_4_x (x : BitVec 1) (y : BitVec 4) : @BitVec.extractLsb' 5 4 1 (x ++ y) = x :=
  ((extract_append_high (w := 1) (v := 4) (x) y 4 1 (by decide)).trans (extract_all x))
@[simp] theorem part_1_4_y (x : BitVec 1) (y : BitVec 4) : @BitVec.extractLsb' 5 0 4 (x ++ y) = y :=
  ((extract_append_low (w := 1) (v := 4) (x) y 0 4 (by decide)).trans (extract_all y))
@[simp] theorem part_2_3_x (x : BitVec 2) (y : BitVec 3) : @BitVec.extractLsb' 5 3 2 (x ++ y) = x :=
  ((extract_append_high (w := 2) (v := 3) (x) y 3 2 (by decide)).trans (extract_all x))
@[simp] theorem part_2_3_y (x : BitVec 2) (y : BitVec 3) : @BitVec.extractLsb' 5 0 3 (x ++ y) = y :=
  ((extract_append_low (w := 2) (v := 3) (x) y 0 3 (by decide)).trans (extract_all y))
@[simp] theorem part_3_2_x (x : BitVec 3) (y : BitVec 2) : @BitVec.extractLsb' 5 2 3 (x ++ y) = x :=
  ((extract_append_high (w := 3) (v := 2) (x) y 2 3 (by decide)).trans (extract_all x))
@[simp] theorem part_3_2_y (x : BitVec 3) (y : BitVec 2) : @BitVec.extractLsb' 5 0 2 (x ++ y) = y :=
  ((extract_append_low (w := 3) (v := 2) (x) y 0 2 (by decide)).trans (extract_all y))
@[simp] theorem part_4_1_x (x : BitVec 4) (y : BitVec 1) : @BitVec.extractLsb' 5 1 4 (x ++ y) = x :=
  ((extract_append_high (w := 4) (v := 1) (x) y 1 4 (by decide)).trans (extract_all x))
@[simp] theorem part_4_1_y (x : BitVec 4) (y : BitVec 1) : @BitVec.extractLsb' 5 0 1 (x ++ y) = y :=
  ((extract_append_low (w := 4) (v := 1) (x) y 0 1 (by decide)).trans (extract_all y))
@[simp] theorem part_1_5_x (x : BitVec 1) (y : BitVec 5) : @BitVec.extractLsb' 6 5 1 (x ++ y) = x :=
  ((extract_append_high (w := 1) (v := 5) (x) y 5 1 (by decide)).trans (extract_all x))
@[simp] theorem part_1_5_y (x : BitVec 1) (y : BitVec 5) : @BitVec.extractLsb' 6 0 5 (x ++ y) = y :=
  ((extract_append_low (w := 1) (v := 5) (x) y 0 5 (by decide)).trans (extract_all y))
@[simp] theorem part_2_4_x (x : BitVec 2) (y : BitVec 4) : @BitVec.extractLsb' 6 4 2 (x ++ y) = x :=
  ((extract_append_high (w := 2) (v := 4) (x) y 4 2 (by decide)).trans (extract_all x))
@[simp] theorem part_2_4_y (x : BitVec 2) (y : BitVec 4) : @BitVec.extractLsb' 6 0 4 (x ++ y) = y :=
  ((extract_append_low (w := 2) (v := 4) (x) y 0 4 (by decide)).trans (extract_all y))
@[simp] theorem part_3_3_x (x : BitVec 3) (y : BitVec 3) : @BitVec.extractLsb' 6 3 3 (x ++ y) = x :=
  ((extract_append_high (w := 3) (v := 3) (x) y 3 3 (by decide)).trans (extract_all x))
@[simp] theorem part_3_3_y (x : BitVec 3) (y : BitVec 3) : @BitVec.extractLsb' 6 0 3 (x ++ y) = y :=
  ((extract_append_low (w := 3) (v := 3) (x) y 0 3 (by decide)).trans (extract_all y))
@[simp] theorem part_4_2_x (x : BitVec 4) (y : BitVec 2) : @BitVec.extractLsb' 6 2 4 (x ++ y) = x :=
  ((extract_append_high (w := 4) (v := 2) (x) y 2 4 (by decide)).trans (extract_all x))
@[simp] theorem part_4_2_y (x : BitVec 4) (y : BitVec 2) : @BitVec.extractLsb' 6 0 2 (x ++ y) = y :=
  ((extract_append_low (w := 4) (v := 2) (x) y 0 2 (by decide)).trans (extract_all y))
@[simp] theorem part_5_1_x (x : BitVec 5) (y : BitVec 1) : @BitVec.extractLsb' 6 1 5 (x ++ y) = x :=
  ((extract_append_high (w := 5) (v := 1) (x) y 1 5 (by decide)).trans (extract_all x))
@[simp] theorem part_5_1_y (x : BitVec 5) (y : BitVec 1) : @BitVec.extractLsb' 6 0 1 (x ++ y) = y :=
  ((extract_append_low (w := 5) (v := 1) (x) y 0 1 (by decide)).trans (extract_all y))
@[simp] theorem part_1_8_x (x : BitVec 1) (y : BitVec 8) : @BitVec.extractLsb' 9 8 1 (x ++ y) = x :=
  ((extract_append_high (w := 1) (v := 8) (x) y 8 1 (by decide)).trans (extract_all x))
@[simp] theorem part_1_8_y (x : BitVec 1) (y : BitVec 8) : @BitVec.extractLsb' 9 0 8 (x ++ y) = y :=
  ((extract_append_low (w := 1) (v := 8) (x) y 0 8 (by decide)).trans (extract_all y))
@[simp] theorem part_2_7_x (x : BitVec 2) (y : BitVec 7) : @BitVec.extractLsb' 9 7 2 (x ++ y) = x :=
  ((extract_append_high (w := 2) (v := 7) (x) y 7 2 (by decide)).trans (extract_all x))
@[simp] theorem part_2_7_y (x : BitVec 2) (y : BitVec 7) : @BitVec.extractLsb' 9 0 7 (x ++ y) = y :=
  ((extract_append_low (w := 2) (v := 7) (x) y 0 7 (by decide)).trans (extract_all y))
@[simp] theorem part_3_6_x (x : BitVec 3) (y : BitVec 6) : @BitVec.extractLsb' 9 6 3 (x ++ y) = x :=
  ((extract_append_high (w := 3) (v := 6) (x) y 6 3 (by decide)).trans (extract_all x))
@[simp] theorem part_3_6_y (x : BitVec 3) (y : BitVec 6) : @BitVec.extractLsb' 9 0 6 (x ++ y) = y :=
  ((extract_append_low (w := 3) (v := 6) (x) y 0 6 (by decide)).trans (extract_all y))
@[simp] theorem part_4_5_x (x : BitVec 4) (y : BitVec 5) : @BitVec.extractLsb' 9 5 4 (x ++ y) = x :=
  ((extract_append_high (w := 4) (v := 5) (x) y 5 4 (by decide)).trans (extract_all x))
@[simp] theorem part_4_5_y (x : BitVec 4) (y : BitVec 5) : @BitVec.extractLsb' 9 0 5 (x ++ y) = y :=
  ((extract_append_low (w := 4) (v := 5) (x) y 0 5 (by decide)).trans (extract_all y))
@[simp] theorem part_5_4_x (x : BitVec 5) (y : BitVec 4) : @BitVec.extractLsb' 9 4 5 (x ++ y) = x :=
  ((extract_append_high (w := 5) (v := 4) (x) y 4 5 (by decide)).trans (extract_all x))
@[simp] theorem part_5_4_y (x : BitVec 5) (y : BitVec 4) : @BitVec.extractLsb' 9 0 4 (x ++ y) = y :=
  ((extract_append_low (w := 5) (v := 4) (x) y 0 4 (by decide)).trans (extract_all y))
@[simp] theorem part_6_3_x (x : BitVec 6) (y : BitVec 3) : @BitVec.extractLsb' 9 3 6 (x ++ y) = x :=
  ((extract_append_high (w := 6) (v := 3) (x) y 3 6 (by decide)).trans (extract_all x))
@[simp] theorem part_6_3_y (x : BitVec 6) (y : BitVec 3) : @BitVec.extractLsb' 9 0 3 (x ++ y) = y :=
  ((extract_append_low (w := 6) (v := 3) (x) y 0 3 (by decide)).trans (extract_all y))
@[simp] theorem part_7_2_x (x : BitVec 7) (y : BitVec 2) : @BitVec.extractLsb' 9 2 7 (x ++ y) = x :=
  ((extract_append_high (w := 7) (v := 2) (x) y 2 7 (by decide)).trans (extract_all x))
@[simp] theorem part_7_2_y (x : BitVec 7) (y : BitVec 2) : @BitVec.extractLsb' 9 0 2 (x ++ y) = y :=
  ((extract_append_low (w := 7) (v := 2) (x) y 0 2 (by decide)).trans (extract_all y))
@[simp] theorem part_8_1_x (x : BitVec 8) (y : BitVec 1) : @BitVec.extractLsb' 9 1 8 (x ++ y) = x :=
  ((extract_append_high (w := 8) (v := 1) (x) y 1 8 (by decide)).trans (extract_all x))
@[simp] theorem part_8_1_y (x : BitVec 8) (y : BitVec 1) : @BitVec.extractLsb' 9 0 1 (x ++ y) = y :=
  ((extract_append_low (w := 8) (v := 1) (x) y 0 1 (by decide)).trans (extract_all y))
@[simp] theorem part_1_10_x (x : BitVec 1) (y : BitVec 10) : @BitVec.extractLsb' 11 10 1 (x ++ y) = x :=
  ((extract_append_high (w := 1) (v := 10) (x) y 10 1 (by decide)).trans (extract_all x))
@[simp] theorem part_1_10_y (x : BitVec 1) (y : BitVec 10) : @BitVec.extractLsb' 11 0 10 (x ++ y) = y :=
  ((extract_append_low (w := 1) (v := 10) (x) y 0 10 (by decide)).trans (extract_all y))
@[simp] theorem part_2_9_x (x : BitVec 2) (y : BitVec 9) : @BitVec.extractLsb' 11 9 2 (x ++ y) = x :=
  ((extract_append_high (w := 2) (v := 9) (x) y 9 2 (by decide)).trans (extract_all x))
@[simp] theorem part_2_9_y (x : BitVec 2) (y : BitVec 9) : @BitVec.extractLsb' 11 0 9 (x ++ y) = y :=
  ((extract_append_low (w := 2) (v := 9) (x) y 0 9 (by decide)).trans (extract_all y))
@[simp] theorem part_3_8_x (x : BitVec 3) (y : BitVec 8) : @BitVec.extractLsb' 11 8 3 (x ++ y) = x :=
  ((extract_append_high (w := 3) (v := 8) (x) y 8 3 (by decide)).trans (extract_all x))
@[simp] theorem part_3_8_y (x : BitVec 3) (y : BitVec 8) : @BitVec.extractLsb' 11 0 8 (x ++ y) = y :=
  ((extract_append_low (w := 3) (v := 8) (x) y 0 8 (by decide)).trans (extract_all y))
@[simp] theorem part_4_7_x (x : BitVec 4) (y : BitVec 7) : @BitVec.extractLsb' 11 7 4 (x ++ y) = x :=
  ((extract_append_high (w := 4) (v := 7) (x) y 7 4 (by decide)).trans (extract_all x))
@[simp] theorem part_4_7_y (x : BitVec 4) (y : BitVec 7) : @BitVec.extractLsb' 11 0 7 (x ++ y) = y :=
  ((extract_append_low (w := 4) (v := 7) (x) y 0 7 (by decide)).trans (extract_all y))
@[simp] theorem part_5_6_x (x : BitVec 5) (y : BitVec 6) : @BitVec.extractLsb' 11 6 5 (x ++ y) = x :=
  ((extract_append_high (w := 5) (v := 6) (x) y 6 5 (by decide)).trans (extract_all x))
@[simp] theorem part_5_6_y (x : BitVec 5) (y : BitVec 6) : @BitVec.extractLsb' 11 0 6 (x ++ y) = y :=
  ((extract_append_low (w := 5) (v := 6) (x) y 0 6 (by decide)).trans (extract_all y))
@[simp] theorem part_6_5_x (x : BitVec 6) (y : BitVec 5) : @BitVec.extractLsb' 11 5 6 (x ++ y) = x :=
  ((extract_append_high (w := 6) (v := 5) (x) y 5 6 (by decide)).trans (extract_all x))
@[simp] theorem part_6_5_y (x : BitVec 6) (y : BitVec 5) : @BitVec.extractLsb' 11 0 5 (x ++ y) = y :=
  ((extract_append_low (w := 6) (v := 5) (x) y 0 5 (by decide)).trans (extract_all y))
@[simp] theorem part_7_4_x (x : BitVec 7) (y : BitVec 4) : @BitVec.extractLsb' 11 4 7 (x ++ y) = x :=
  ((extract_append_high (w := 7) (v := 4) (x) y 4 7 (by decide)).trans (extract_all x))
@[simp] theorem part_7_4_y (x : BitVec 7) (y : BitVec 4) : @BitVec.extractLsb' 11 0 4 (x ++ y) = y :=
  ((extract_append_low (w := 7) (v := 4) (x) y 0 4 (by decide)).trans (extract_all y))
@[simp] theorem part_8_3_x (x : BitVec 8) (y : BitVec 3) : @BitVec.extractLsb' 11 3 8 (x ++ y) = x :=
  ((extract_append_high (w := 8) (v := 3) (x) y 3 8 (by decide)).trans (extract_all x))
@[simp] theorem part_8_3_y (x : BitVec 8) (y : BitVec 3) : @BitVec.extractLsb' 11 0 3 (x ++ y) = y :=
  ((extract_append_low (w := 8) (v := 3) (x) y 0 3 (by decide)).trans (extract_all y))
@[simp] theorem part_9_2_x (x : BitVec 9) (y : BitVec 2) : @BitVec.extractLsb' 11 2 9 (x ++ y) = x :=
  ((extract_append_high (w := 9) (v := 2) (x) y 2 9 (by decide)).trans (extract_all x))
@[simp] theorem part_9_2_y (x : BitVec 9) (y : BitVec 2) : @BitVec.extractLsb' 11 0 2 (x ++ y) = y :=
  ((extract_append_low (w := 9) (v := 2) (x) y 0 2 (by decide)).trans (extract_all y))
@[simp] theorem part_10_1_x (x : BitVec 10) (y : BitVec 1) : @BitVec.extractLsb' 11 1 10 (x ++ y) = x :=
  ((extract_append_high (w := 10) (v := 1) (x) y 1 10 (by decide)).trans (extract_all x))
@[simp] theorem part_10_1_y (x : BitVec 10) (y : BitVec 1) : @BitVec.extractLsb' 11 0 1 (x ++ y) = y :=
  ((extract_append_low (w := 10) (v := 1) (x) y 0 1 (by decide)).trans (extract_all y))
@[simp] theorem part_1_1_3_x (x : BitVec 1) (y : BitVec 1) (z : BitVec 3) : @BitVec.extractLsb' 5 4 1 (x ++ y ++ z) = x :=
  ((extract_append_high (w := 2) (v := 3) (x ++ y) z 4 1 (by decide)).trans ((extract_append_high (w := 1) (v := 1) (x) y 1 1 (by decide)).trans (extract_all x)))
@[simp] theorem part_1_1_3_y (x : BitVec 1) (y : BitVec 1) (z : BitVec 3) : @BitVec.extractLsb' 5 3 1 (x ++ y ++ z) = y :=
  ((extract_append_high (w := 2) (v := 3) (x ++ y) z 3 1 (by decide)).trans ((extract_append_low (w := 1) (v := 1) (x) y 0 1 (by decide)).trans (extract_all y)))
@[simp] theorem part_1_1_3_z (x : BitVec 1) (y : BitVec 1) (z : BitVec 3) : @BitVec.extractLsb' 5 0 3 (x ++ y ++ z) = z :=
  ((extract_append_low (w := 2) (v := 3) (x ++ y) z 0 3 (by decide)).trans (extract_all z))
@[simp] theorem part_1_5_5_x (x : BitVec 1) (y : BitVec 5) (z : BitVec 5) : @BitVec.extractLsb' 11 10 1 (x ++ y ++ z) = x :=
  ((extract_append_high (w := 6) (v := 5) (x ++ y) z 10 1 (by decide)).trans ((extract_append_high (w := 1) (v := 5) (x) y 5 1 (by decide)).trans (extract_all x)))
@[simp] theorem part_1_5_5_y (x : BitVec 1) (y : BitVec 5) (z : BitVec 5) : @BitVec.extractLsb' 11 5 5 (x ++ y ++ z) = y :=
  ((extract_append_high (w := 6) (v := 5) (x ++ y) z 5 5 (by decide)).trans ((extract_append_low (w := 1) (v := 5) (x) y 0 5 (by decide)).trans (extract_all y)))
@[simp] theorem part_1_5_5_z (x : BitVec 1) (y : BitVec 5) (z : BitVec 5) : @BitVec.extractLsb' 11 0 5 (x ++ y ++ z) = z :=
  ((extract_append_low (w := 6) (v := 5) (x ++ y) z 0 5 (by decide)).trans (extract_all z))
@[simp] theorem part_1_4_16_x (x : BitVec 1) (y : BitVec 4) (z : BitVec 16) : @BitVec.extractLsb' 21 20 1 (x ++ y ++ z) = x :=
  ((extract_append_high (w := 5) (v := 16) (x ++ y) z 20 1 (by decide)).trans ((extract_append_high (w := 1) (v := 4) (x) y 4 1 (by decide)).trans (extract_all x)))
@[simp] theorem part_1_4_16_y (x : BitVec 1) (y : BitVec 4) (z : BitVec 16) : @BitVec.extractLsb' 21 16 4 (x ++ y ++ z) = y :=
  ((extract_append_high (w := 5) (v := 16) (x ++ y) z 16 4 (by decide)).trans ((extract_append_low (w := 1) (v := 4) (x) y 0 4 (by decide)).trans (extract_all y)))
@[simp] theorem part_1_4_16_z (x : BitVec 1) (y : BitVec 4) (z : BitVec 16) : @BitVec.extractLsb' 21 0 16 (x ++ y ++ z) = z :=
  ((extract_append_low (w := 5) (v := 16) (x ++ y) z 0 16 (by decide)).trans (extract_all z))
@[simp] theorem part_6_1_14_x (x : BitVec 6) (y : BitVec 1) (z : BitVec 14) : @BitVec.extractLsb' 21 15 6 (x ++ y ++ z) = x :=
  ((extract_append_high (w := 7) (v := 14) (x ++ y) z 15 6 (by decide)).trans ((extract_append_high (w := 6) (v := 1) (x) y 1 6 (by decide)).trans (extract_all x)))
@[simp] theorem part_6_1_14_y (x : BitVec 6) (y : BitVec 1) (z : BitVec 14) : @BitVec.extractLsb' 21 14 1 (x ++ y ++ z) = y :=
  ((extract_append_high (w := 7) (v := 14) (x ++ y) z 14 1 (by decide)).trans ((extract_append_low (w := 6) (v := 1) (x) y 0 1 (by decide)).trans (extract_all y)))
@[simp] theorem part_6_1_14_z (x : BitVec 6) (y : BitVec 1) (z : BitVec 14) : @BitVec.extractLsb' 21 0 14 (x ++ y ++ z) = z :=
  ((extract_append_low (w := 7) (v := 14) (x ++ y) z 0 14 (by decide)).trans (extract_all z))
@[simp] theorem part_6_26_x (x : BitVec 6) (y : BitVec 26) : @BitVec.extractLsb' 32 26 6 (x ++ y) = x :=
  ((extract_append_high (w := 6) (v := 26) (x) y 26 6 (by decide)).trans (extract_all x))
@[simp] theorem part_6_26_y (x : BitVec 6) (y : BitVec 26) : @BitVec.extractLsb' 32 0 26 (x ++ y) = y :=
  ((extract_append_low (w := 6) (v := 26) (x) y 0 26 (by decide)).trans (extract_all y))
@[simp] theorem part_26_6_x (x : BitVec 26) (y : BitVec 6) : @BitVec.extractLsb' 32 6 26 (x ++ y) = x :=
  ((extract_append_high (w := 26) (v := 6) (x) y 6 26 (by decide)).trans (extract_all x))
@[simp] theorem part_26_6_y (x : BitVec 26) (y : BitVec 6) : @BitVec.extractLsb' 32 0 6 (x ++ y) = y :=
  ((extract_append_low (w := 26) (v := 6) (x) y 0 6 (by decide)).trans (extract_all y))
@[simp] theorem part_5_2_2_x (x : BitVec 5) (y : BitVec 2) (z : BitVec 2) : @BitVec.extractLsb' 9 4 5 (x ++ y ++ z) = x :=
  ((extract_append_high (w := 7) (v := 2) (x ++ y) z 4 5 (by decide)).trans ((extract_append_high (w := 5) (v := 2) (x) y 2 5 (by decide)).trans (extract_all x)))
@[simp] theorem part_5_2_2_y (x : BitVec 5) (y : BitVec 2) (z : BitVec 2) : @BitVec.extractLsb' 9 2 2 (x ++ y ++ z) = y :=
  ((extract_append_high (w := 7) (v := 2) (x ++ y) z 2 2 (by decide)).trans ((extract_append_low (w := 5) (v := 2) (x) y 0 2 (by decide)).trans (extract_all y)))
@[simp] theorem part_5_2_2_z (x : BitVec 5) (y : BitVec 2) (z : BitVec 2) : @BitVec.extractLsb' 9 0 2 (x ++ y ++ z) = z :=
  ((extract_append_low (w := 7) (v := 2) (x ++ y) z 0 2 (by decide)).trans (extract_all z))
@[simp] theorem part_4_7_7_7_7_x (x : BitVec 4) (y : BitVec 7) (z : BitVec 7) (u : BitVec 7) (v : BitVec 7) : @BitVec.extractLsb' 32 28 4 (x ++ y ++ z ++ u ++ v) = x :=
  ((extract_append_high (w := 25) (v := 7) (x ++ y ++ z ++ u) v 28 4 (by decide)).trans ((extract_append_high (w := 18) (v := 7) (x ++ y ++ z) u 21 4 (by decide)).trans ((extract_append_high (w := 11) (v := 7) (x ++ y) z 14 4 (by decide)).trans ((extract_append_high (w := 4) (v := 7) (x) y 7 4 (by decide)).trans (extract_all x)))))
@[simp] theorem part_4_7_7_7_7_y (x : BitVec 4) (y : BitVec 7) (z : BitVec 7) (u : BitVec 7) (v : BitVec 7) : @BitVec.extractLsb' 32 21 7 (x ++ y ++ z ++ u ++ v) = y :=
  ((extract_append_high (w := 25) (v := 7) (x ++ y ++ z ++ u) v 21 7 (by decide)).trans ((extract_append_high (w := 18) (v := 7) (x ++ y ++ z) u 14 7 (by decide)).trans ((extract_append_high (w := 11) (v := 7) (x ++ y) z 7 7 (by decide)).trans ((extract_append_low (w := 4) (v := 7) (x) y 0 7 (by decide)).trans (extract_all y)))))
@[simp] theorem part_4_7_7_7_7_z (x : BitVec 4) (y : BitVec 7) (z : BitVec 7) (u : BitVec 7) (v : BitVec 7) : @BitVec.extractLsb' 32 14 7 (x ++ y ++ z ++ u ++ v) = z :=
  ((extract_append_high (w := 25) (v := 7) (x ++ y ++ z ++ u) v 14 7 (by decide)).trans ((extract_append_high (w := 18) (v := 7) (x ++ y ++ z) u 7 7 (by decide)).trans ((extract_append_low (w := 11) (v := 7) (x ++ y) z 0 7 (by decide)).trans (extract_all z))))
@[simp] theorem part_4_7_7_7_7_u (x : BitVec 4) (y : BitVec 7) (z : BitVec 7) (u : BitVec 7) (v : BitVec 7) : @BitVec.extractLsb' 32 7 7 (x ++ y ++ z ++ u ++ v) = u :=
  ((extract_append_high (w := 25) (v := 7) (x ++ y ++ z ++ u) v 7 7 (by decide)).trans ((extract_append_low (w := 18) (v := 7) (x ++ y ++ z) u 0 7 (by decide)).trans (extract_all u)))
@[simp] theorem part_4_7_7_7_7_v (x : BitVec 4) (y : BitVec 7) (z : BitVec 7) (u : BitVec 7) (v : BitVec 7) : @BitVec.extractLsb' 32 0 7 (x ++ y ++ z ++ u ++ v) = v :=
  ((extract_append_low (w := 25) (v := 7) (x ++ y ++ z ++ u) v 0 7 (by decide)).trans (extract_all v))
@[simp] theorem part_17_7_1_7_x (x : BitVec 17) (y : BitVec 7) (z : BitVec 1) (u : BitVec 7) : @BitVec.extractLsb' 32 15 17 (x ++ y ++ z ++ u) = x :=
  ((extract_append_high (w := 25) (v := 7) (x ++ y ++ z) u 15 17 (by decide)).trans ((extract_append_high (w := 24) (v := 1) (x ++ y) z 8 17 (by decide)).trans ((extract_append_high (w := 17) (v := 7) (x) y 7 17 (by decide)).trans (extract_all x))))
@[simp] theorem part_17_7_1_7_y (x : BitVec 17) (y : BitVec 7) (z : BitVec 1) (u : BitVec 7) : @BitVec.extractLsb' 32 8 7 (x ++ y ++ z ++ u) = y :=
  ((extract_append_high (w := 25) (v := 7) (x ++ y ++ z) u 8 7 (by decide)).trans ((extract_append_high (w := 24) (v := 1) (x ++ y) z 1 7 (by decide)).trans ((extract_append_low (w := 17) (v := 7) (x) y 0 7 (by decide)).trans (extract_all y))))
@[simp] theorem part_17_7_1_7_z (x : BitVec 17) (y : BitVec 7) (z : BitVec 1) (u : BitVec 7) : @BitVec.extractLsb' 32 7 1 (x ++ y ++ z ++ u) = z :=
  ((extract_append_high (w := 25) (v := 7) (x ++ y ++ z) u 7 1 (by decide)).trans ((extract_append_low (w := 24) (v := 1) (x ++ y) z 0 1 (by decide)).trans (extract_all z)))
@[simp] theorem part_17_7_1_7_u (x : BitVec 17) (y : BitVec 7) (z : BitVec 1) (u : BitVec 7) : @BitVec.extractLsb' 32 0 7 (x ++ y ++ z ++ u) = u :=
  ((extract_append_low (w := 25) (v := 7) (x ++ y ++ z) u 0 7 (by decide)).trans (extract_all u))

/-- A number of 10 bits laid across fields a and b (03_encoding.md R82, opcodes 0x70 and 0x71). -/
@[simp] theorem packUR_number (op : BitVec 8) (n : BitVec 3) (d : BitVec 6) (r : BitVec 10) :
    (packUR op n d (r.extractLsb' 4 6) (r.extractLsb' 0 4 ++ 0#2) 0#3).extractLsb' 5 10 = r := by
  have h := unUR_packUR op n d (r.extractLsb' 4 6) (r.extractLsb' 0 4 ++ 0#2) 0#3
  generalize packUR op n d (r.extractLsb' 4 6) (r.extractLsb' 0 4 ++ 0#2) 0#3 = w at h ⊢
  simp only [unUR, UrFields.mk.injEq] at h
  obtain ⟨-, -, ha, hb, -⟩ := h
  apply BitVec.eq_of_getLsbD_eq
  intro i hi
  rw [BitVec.getLsbD_extractLsb']
  by_cases h4 : i < 4
  · have := congrArg (fun v : BitVec 6 => v.getLsbD (2 + i)) hb
    rw [BitVec.getLsbD_extractLsb'] at this
    have h2 : (BitVec.extractLsb' 0 4 r ++ 0#2).getLsbD (2 + i) = r.getLsbD i := by
      rw [BitVec.getLsbD_append, if_neg (by omega), BitVec.getLsbD_extractLsb']
      simp [h4]
    have h3 : (BitVec.extractLsb' 0 4 r ++ 0#2 : BitVec 6).getLsbD (2 + i) = r.getLsbD i := h2
    simp only [h3] at this
    rw [← this]
    simp [hi, show 2 + i < 6 by omega, show 3 + (2 + i) = 5 + i by omega]
  · have := congrArg (fun v : BitVec 6 => v.getLsbD (i - 4)) ha
    simp only [BitVec.getLsbD_extractLsb', show i - 4 < 6 by omega, decide_true, Bool.true_and, show 4 + (i - 4) = i by omega,
      show 9 + (i - 4) = 5 + i by omega] at this
    simp [hi, this]

/-! ## Operand codes -/

@[simp] theorem Src.ofCode_code (s : Src) : Src.ofCode s.code = s := by
  cases s with
  | o n => revert n; decide
  | x n => revert n; decide
  | u n => revert n; decide
  | _ => decide

@[simp] theorem Dst.ofCode_code (d : Dst) : Dst.ofCode d.code = some d := by
  cases d with
  | o n => revert n; decide
  | zero => decide

theorem Src.code_ofCode (c : BitVec 5) : (Src.ofCode c).code = c := by revert c; decide

theorem Dst.code_of_ofCode {c : BitVec 5} {d : Dst} (h : Dst.ofCode c = some d) : d.code = c := by
  have : ∀ c : BitVec 5, ∀ d, Dst.ofCode c = some d → d.code = c := by
    intro c d h
    have h2 : (Dst.ofCode c).map Dst.code = some d.code := by rw [h]; rfl
    have h3 : ∀ c : BitVec 5, (Dst.ofCode c).map Dst.code = some c ∨ Dst.ofCode c = none := by decide
    rcases h3 c with h4 | h4
    · rw [h4] at h2; exact (Option.some.inj h2).symm
    · rw [h] at h4; cases h4
  exact this c d h

@[simp] theorem IntCond.ofCode_code (x : IntCond) : IntCond.ofCode x.code = some x := by cases x <;> rfl
@[simp] theorem FloatCond.ofCode_code (x : FloatCond) : FloatCond.ofCode x.code = some x := by cases x <;> rfl
@[simp] theorem SCond.ofCode_code (x : SCond) : SCond.ofCode x.code = some x := by cases x <;> rfl
@[simp] theorem SfuFn.ofCode_code (x : SfuFn) : SfuFn.ofCode x.code = some x := by cases x <;> rfl
@[simp] theorem Fmt.ofCode_code (x : Fmt) : Fmt.ofCode x.code = some x := by cases x <;> rfl
@[simp] theorem Rnd.ofCode_code (x : Rnd) : Rnd.ofCode x.code = some x := by cases x <;> rfl
@[simp] theorem ShflMode.ofCode_code (x : ShflMode) : ShflMode.ofCode x.code = some x := by cases x <;> rfl
@[simp] theorem VoteKind.ofCode_code (x : VoteKind) : VoteKind.ofCode x.code = some x := by cases x <;> rfl
@[simp] theorem WredOp.ofCode_code (x : WredOp) : WredOp.ofCode x.code = some x := by cases x <;> rfl
@[simp] theorem CodeType.ofCode_code (x : CodeType) : CodeType.ofCode x.code = some x := by cases x <;> rfl
@[simp] theorem Width.ofCode_code (x : Width) : Width.ofCode x.code = some x := by cases x <;> rfl
@[simp] theorem AtomOp.ofCode_code (x : AtomOp) : AtomOp.ofCode x.code = some x := by cases x <;> rfl
@[simp] theorem GredOp.ofCode_code (x : GredOp) : GredOp.ofCode x.code = some x := by cases x <;> rfl
@[simp] theorem Scope.ofCode_code (x : Scope) : Scope.ofCode x.code = some x := by cases x <;> rfl
@[simp] theorem FenceSem.ofCode_code (x : FenceSem) : FenceSem.ofCode x.code = some x := by cases x <;> rfl
@[simp] theorem Sem.ofCode_code (x : Sem) : Sem.ofCode x.code = some x := by cases x <;> rfl
@[simp] theorem CacheMode.ofCode_code (x : CacheMode) : CacheMode.ofCode x.code = some x := by cases x <;> rfl

@[simp] theorem MemExt.ofCode_code (x : MemExt) : MemExt.ofCode x.code = some x := by
  have h0 : x.code.extractLsb' 26 6 = x.base :=
    ((extract_append_high (w := 19) (v := 13) (x.base ++ x.cls ++ x.scope.code ++ x.sem.code ++ x.cache.code ++ x.slack) x.off 26 6 (by decide)).trans ((extract_append_high (w := 15) (v := 4) (x.base ++ x.cls ++ x.scope.code ++ x.sem.code ++ x.cache.code) x.slack 13 6 (by decide)).trans ((extract_append_high (w := 13) (v := 2) (x.base ++ x.cls ++ x.scope.code ++ x.sem.code) x.cache.code 9 6 (by decide)).trans ((extract_append_high (w := 11) (v := 2) (x.base ++ x.cls ++ x.scope.code) x.sem.code 7 6 (by decide)).trans ((extract_append_high (w := 8) (v := 3) (x.base ++ x.cls) x.scope.code 5 6 (by decide)).trans ((extract_append_high (w := 6) (v := 2) (x.base) x.cls 2 6 (by decide)).trans (extract_all x.base)))))))
  have h1 : x.code.extractLsb' 24 2 = x.cls :=
    ((extract_append_high (w := 19) (v := 13) (x.base ++ x.cls ++ x.scope.code ++ x.sem.code ++ x.cache.code ++ x.slack) x.off 24 2 (by decide)).trans ((extract_append_high (w := 15) (v := 4) (x.base ++ x.cls ++ x.scope.code ++ x.sem.code ++ x.cache.code) x.slack 11 2 (by decide)).trans ((extract_append_high (w := 13) (v := 2) (x.base ++ x.cls ++ x.scope.code ++ x.sem.code) x.cache.code 7 2 (by decide)).trans ((extract_append_high (w := 11) (v := 2) (x.base ++ x.cls ++ x.scope.code) x.sem.code 5 2 (by decide)).trans ((extract_append_high (w := 8) (v := 3) (x.base ++ x.cls) x.scope.code 3 2 (by decide)).trans ((extract_append_low (w := 6) (v := 2) (x.base) x.cls 0 2 (by decide)).trans (extract_all x.cls)))))))
  have h2 : x.code.extractLsb' 21 3 = x.scope.code :=
    ((extract_append_high (w := 19) (v := 13) (x.base ++ x.cls ++ x.scope.code ++ x.sem.code ++ x.cache.code ++ x.slack) x.off 21 3 (by decide)).trans ((extract_append_high (w := 15) (v := 4) (x.base ++ x.cls ++ x.scope.code ++ x.sem.code ++ x.cache.code) x.slack 8 3 (by decide)).trans ((extract_append_high (w := 13) (v := 2) (x.base ++ x.cls ++ x.scope.code ++ x.sem.code) x.cache.code 4 3 (by decide)).trans ((extract_append_high (w := 11) (v := 2) (x.base ++ x.cls ++ x.scope.code) x.sem.code 2 3 (by decide)).trans ((extract_append_low (w := 8) (v := 3) (x.base ++ x.cls) x.scope.code 0 3 (by decide)).trans (extract_all x.scope.code))))))
  have h3 : x.code.extractLsb' 19 2 = x.sem.code :=
    ((extract_append_high (w := 19) (v := 13) (x.base ++ x.cls ++ x.scope.code ++ x.sem.code ++ x.cache.code ++ x.slack) x.off 19 2 (by decide)).trans ((extract_append_high (w := 15) (v := 4) (x.base ++ x.cls ++ x.scope.code ++ x.sem.code ++ x.cache.code) x.slack 6 2 (by decide)).trans ((extract_append_high (w := 13) (v := 2) (x.base ++ x.cls ++ x.scope.code ++ x.sem.code) x.cache.code 2 2 (by decide)).trans ((extract_append_low (w := 11) (v := 2) (x.base ++ x.cls ++ x.scope.code) x.sem.code 0 2 (by decide)).trans (extract_all x.sem.code)))))
  have h4 : x.code.extractLsb' 17 2 = x.cache.code :=
    ((extract_append_high (w := 19) (v := 13) (x.base ++ x.cls ++ x.scope.code ++ x.sem.code ++ x.cache.code ++ x.slack) x.off 17 2 (by decide)).trans ((extract_append_high (w := 15) (v := 4) (x.base ++ x.cls ++ x.scope.code ++ x.sem.code ++ x.cache.code) x.slack 4 2 (by decide)).trans ((extract_append_low (w := 13) (v := 2) (x.base ++ x.cls ++ x.scope.code ++ x.sem.code) x.cache.code 0 2 (by decide)).trans (extract_all x.cache.code))))
  have h5 : x.code.extractLsb' 13 4 = x.slack :=
    ((extract_append_high (w := 19) (v := 13) (x.base ++ x.cls ++ x.scope.code ++ x.sem.code ++ x.cache.code ++ x.slack) x.off 13 4 (by decide)).trans ((extract_append_low (w := 15) (v := 4) (x.base ++ x.cls ++ x.scope.code ++ x.sem.code ++ x.cache.code) x.slack 0 4 (by decide)).trans (extract_all x.slack)))
  have h6 : x.code.extractLsb' 0 13 = x.off :=
    ((extract_append_low (w := 19) (v := 13) (x.base ++ x.cls ++ x.scope.code ++ x.sem.code ++ x.cache.code ++ x.slack) x.off 0 13 (by decide)).trans (extract_all x.off))
  simp only [MemExt.ofCode, h0, h1, h2, h3, h4, h5, h6, Scope.ofCode_code, Sem.ofCode_code, CacheMode.ofCode_code]
  rfl

@[simp] theorem operand_some {α : Type} (a : α) : operand (some a) = .ok a := rfl
@[simp] theorem zeroField_true (p : Prop) [Decidable p] (h : p) : zeroField p = .ok () := if_pos h

end Sys2Proof
end

