-- ==== Sys2Proof/Laws/Maps.lean ====
section
/-! SUPPORT. Laws of the plain types: keyed lists, bits of words, lanes of a mask, and bytes in canonical form. -/

namespace Sys2Proof

variable {α : Type}

theorem SMap.find?_set (m : SMap α) (k j : Nat) (v : α) :
    SMap.find? (SMap.set m k v) j = if k = j then some v else SMap.find? m j := by
  induction m with
  | nil => simp [SMap.set, SMap.find?]
  | cons p r ih =>
    obtain ⟨a, w⟩ := p
    simp only [SMap.set]
    split
    · simp only [SMap.find?]
    · split
      · subst_vars
        simp only [SMap.find?]
        split <;> rfl
      · simp only [SMap.find?, ih]
        split
        · rw [if_neg (by omega)]
        · rfl

@[simp] theorem SMap.get_set_same (d : α) (m : SMap α) (k : Nat) (v : α) : SMap.get d (SMap.set m k v) k = v := by
  simp [SMap.get, SMap.find?_set]

theorem SMap.get_set (d : α) (m : SMap α) (k j : Nat) (v : α) :
    SMap.get d (SMap.set m k v) j = if k = j then v else SMap.get d m j := by
  simp only [SMap.get, SMap.find?_set]
  split <;> rfl

theorem SMap.get_set_other (d : α) (m : SMap α) {k j : Nat} (v : α) (h : k ≠ j) :
    SMap.get d (SMap.set m k v) j = SMap.get d m j := by rw [SMap.get_set, if_neg h]

theorem SMap.set_set (m : SMap α) (k : Nat) (v w : α) : SMap.set (SMap.set m k v) k w = SMap.set m k w := by
  induction m with
  | nil => simp [SMap.set]
  | cons p r ih =>
    obtain ⟨j, x⟩ := p
    by_cases h1 : k < j
    · simp [SMap.set, h1]
    · by_cases h2 : k = j
      · simp [SMap.set, h2]
      · simp [SMap.set, h1, h2, ih]

theorem SMap.find?_mapVals (f : Nat → α → α) (m : SMap α) (k : Nat) :
    SMap.find? (Machine.mapVals f m) k = (SMap.find? m k).map (f k) := by
  induction m with
  | nil => rfl
  | cons p r ih =>
    simp only [Machine.mapVals, List.map_cons, SMap.find?] at ih ⊢
    split
    · subst_vars; rfl
    · exact ih

theorem SMap.get_mapVals (d : α) (f : Nat → α → α) (m : SMap α) (k : Nat) (h : f k d = d) :
    SMap.get d (Machine.mapVals f m) k = f k (SMap.get d m k) := by
  simp only [SMap.get, SMap.find?_mapVals]
  cases SMap.find? m k <;> simp [h]

/-! ## Bits and lanes -/

theorem bitAt_setBit {w : Nat} (v : BitVec w) (n k : Nat) (b : Bool) :
    bitAt (setBit v n b) k = if k = n ∧ k < w then b else bitAt v k := by
  simp only [bitAt, setBit]
  cases b <;> simp only [Bool.false_eq_true, if_false, if_true, BitVec.getLsbD_or, BitVec.getLsbD_and, BitVec.getLsbD_not,
    BitVec.getLsbD_twoPow]
  · by_cases h : k = n
    · subst h
      by_cases hw : k < w
      · simp [hw]
      · simp [hw, BitVec.getLsbD_of_ge v k (by omega)]
    · simp only [h, false_and, if_false, show ¬ n = k by omega, decide_false, Bool.and_false, Bool.not_false, Bool.and_true]
      by_cases hw : k < w
      · simp [hw]
      · simp [hw, BitVec.getLsbD_of_ge v k (by omega)]
  · by_cases h : k = n
    · subst h
      by_cases hw : k < w <;> simp [hw]
    · simp only [h, false_and, if_false, show ¬ n = k by omega, decide_false, Bool.and_false, Bool.or_false]

theorem mem_lanesOf {m : Word} {i : Nat} : i ∈ lanesOf m ↔ i < 32 ∧ bitAt m i = true := by
  simp [lanesOf, laneList]

theorem lanesOf_nodup (m : Word) : (lanesOf m).Nodup := List.Nodup.filter _ List.nodup_range

theorem bitAt_maskOf (f : Nat → Bool) (i : Nat) : bitAt (maskOf f) i = (decide (i < 32) && f i) := by
  have key : ∀ (l : List Nat), l.Nodup → (∀ j ∈ l, j < 32) → ∀ (m : Word),
      bitAt (l.foldl (fun m i => setBit m i (f i)) m) i = if i ∈ l then f i else bitAt m i := by
    intro l
    induction l with
    | nil => simp
    | cons a r ih =>
      intro hn hl m
      rw [List.foldl_cons, ih (List.nodup_cons.mp hn).2 (fun j hj => hl j (List.mem_cons_of_mem _ hj)), bitAt_setBit]
      have ha : a ∉ r := (List.nodup_cons.mp hn).1
      have h32 : a < 32 := hl a List.mem_cons_self
      by_cases h : i = a
      · subst h; simp [ha, h32]
      · simp [h]
  rw [maskOf, laneList, key _ List.nodup_range (fun j hj => List.mem_range.mp hj)]
  by_cases h : i < 32 <;> simp [h, bitAt]

end Sys2Proof

namespace Sys2Proof.Machine

/-! ## Bytes in canonical form -/

theorem cellsAbove_iff {b : Nat} {m : List Host.Cell} : cellsAbove b m = true ↔ ∀ p ∈ m, b < p.1 := by
  simp [cellsAbove]

theorem cellSet_above {b : Nat} {m : List Host.Cell} {a : Nat} {v : Byte} (h : cellsAbove b m = true) (hb : b < a) :
    cellsAbove b (cellSet m a v) = true := by
  induction m with
  | nil => simp only [cellSet]; split <;> simp [cellsAbove, hb]
  | cons p r ih =>
    obtain ⟨k, w⟩ := p
    have hk : b < k := cellsAbove_iff.mp h (k, w) List.mem_cons_self
    have hr : cellsAbove b r = true := cellsAbove_iff.mpr (fun q hq => cellsAbove_iff.mp h q (List.mem_cons_of_mem _ hq))
    have hcons : ∀ (x : Byte) (l : List Host.Cell), cellsAbove b l = true → cellsAbove b ((k, x) :: l) = true := by
      intro x l hl; simp only [cellsAbove, List.all_cons, Bool.and_eq_true, decide_eq_true_eq] at hl ⊢; exact ⟨hk, hl⟩
    simp only [cellSet]
    split
    · split
      · exact hcons w r hr
      · simp only [cellsAbove, List.all_cons, Bool.and_eq_true, decide_eq_true_eq] at hr ⊢; exact ⟨hb, hk, hr⟩
    · split
      · split
        · exact hr
        · simp only [cellsAbove, List.all_cons, Bool.and_eq_true, decide_eq_true_eq] at hr ⊢; exact ⟨hb, hr⟩
      · exact hcons w _ (ih hr)

/-- A write keeps the canonical form. -/
theorem cellSet_wf {m : List Host.Cell} (h : Memory.wf m) (a : Nat) (v : Byte) : Memory.wf (cellSet m a v) := by
  induction m with
  | nil =>
    simp only [cellSet, Memory.wf]
    split <;> simp_all [cellsWf, cellsAbove]
  | cons p r ih =>
    obtain ⟨k, w⟩ := p
    simp only [Memory.wf, cellsWf, Bool.and_eq_true, Bool.not_eq_true', decide_eq_false_iff_not] at h ih
    obtain ⟨⟨hw, hk⟩, hr⟩ := h
    simp only [cellSet, Memory.wf]
    split
    · rename_i hak
      split
      · simpa [cellsWf, hk, hr] using hw
      · rename_i hv
        have : cellsAbove a ((k, w) :: r) = true := by
          rw [cellsAbove_iff]
          intro q hq
          rcases List.mem_cons.mp hq with h1 | h1
          · subst h1; exact hak
          · exact Nat.lt_trans hak (cellsAbove_iff.mp hk q h1)
        simpa [cellsWf, this, hk, hr] using And.intro hv hw
    · split
      · rename_i h1 h2
        subst h2
        split
        · exact hr
        · rename_i hv; simpa [cellsWf, hk, hr] using hv
      · rename_i h1 h2
        simp only [cellsWf, Bool.and_eq_true, Bool.not_eq_true', decide_eq_false_iff_not]
        exact ⟨⟨hw, cellSet_above hk (by omega)⟩, ih hr⟩

theorem cellGet_of_above {b : Nat} {m : List Host.Cell} (h : cellsAbove b m = true) : cellGet m b = 0 := by
  induction m with
  | nil => rfl
  | cons p r ih =>
    obtain ⟨k, w⟩ := p
    have hk : b < k := cellsAbove_iff.mp h (k, w) List.mem_cons_self
    have hr : cellsAbove b r = true := cellsAbove_iff.mpr (fun q hq => cellsAbove_iff.mp h q (List.mem_cons_of_mem _ hq))
    simp only [cellGet, if_neg (show k ≠ b by omega)]
    exact ih hr

theorem cellGet_of_above' {b c : Nat} {m : List Host.Cell} (h : cellsAbove b m = true) (hc : c ≤ b) : cellGet m c = 0 :=
  cellGet_of_above (cellsAbove_iff.mpr (fun q hq => Nat.lt_of_le_of_lt hc (cellsAbove_iff.mp h q hq)))

/-- Reading after a write in canonical form: the byte written, and every other byte as before. -/
theorem cellGet_cellSet {m : List Host.Cell} (h : Memory.wf m) (a b : Nat) (v : Byte) :
    cellGet (cellSet m a v) b = if a = b then v else cellGet m b := by
  induction m with
  | nil =>
    simp only [cellSet]
    split
    · rename_i hv; subst hv; simp [cellGet]
    · simp only [cellGet]
  | cons p r ih =>
    obtain ⟨k, w⟩ := p
    simp only [Memory.wf, cellsWf, Bool.and_eq_true, Bool.not_eq_true', decide_eq_false_iff_not] at h ih
    obtain ⟨⟨hw, hk⟩, hr⟩ := h
    simp only [cellSet]
    split
    · rename_i hak
      split
      · rename_i hv
        subst hv
        by_cases hab : a = b
        · subst hab
          simp only [cellGet, if_neg (show k ≠ a by omega), if_true]
          exact cellGet_of_above' hk (by omega)
        · rw [if_neg hab]
      · simp only [cellGet]
    · split
      · rename_i h1 h2
        subst h2
        split
        · rename_i hv
          subst hv
          simp only [cellGet]
          split
          · rename_i hab; subst hab; exact cellGet_of_above hk
          · rfl
        · simp only [cellGet]
          split <;> rfl
      · rename_i h1 h2
        simp only [cellGet, ih hr]
        by_cases hab : a = b
        · subst hab; simp [show k ≠ a by omega]
        · simp [hab]

theorem putBytes_wf {m : List Host.Cell} (h : Memory.wf m) (a : Nat) (l : List Byte) : Memory.wf (putBytes m a l) := by
  induction l generalizing m a with
  | nil => exact h
  | cons b r ih => exact ih (cellSet_wf h a b) (a + 1)

/-- A filter keeps the canonical form. -/
theorem filter_wf {m : List Host.Cell} (h : Memory.wf m) (f : Host.Cell → Bool) : Memory.wf (m.filter f) := by
  induction m with
  | nil => rfl
  | cons p r ih =>
    obtain ⟨k, w⟩ := p
    simp only [Memory.wf, cellsWf, Bool.and_eq_true, Bool.not_eq_true', decide_eq_false_iff_not] at h ih
    obtain ⟨⟨hw, hk⟩, hr⟩ := h
    rw [List.filter_cons]
    split
    · simp only [Memory.wf, cellsWf, Bool.and_eq_true, Bool.not_eq_true', decide_eq_false_iff_not]
      exact ⟨⟨hw, cellsAbove_iff.mpr (fun q hq => cellsAbove_iff.mp hk q (List.mem_of_mem_filter hq))⟩, ih hr⟩
    · exact ih hr

end Sys2Proof.Machine
end

