-- ==== Sys2Proof/Laws/State.lean ====
section
/-! SUPPORT. What each named update of the state leaves as it was, one lemma a field, and what it changes. -/

namespace Sys2Proof.Machine

/-! ## setWarp -/

@[simp] theorem State.setWarp_cores (s : State) (w : Nat) (v : Warp) : (s.setWarp w v).cores = s.cores := rfl
@[simp] theorem State.setWarp_clusters (s : State) (w : Nat) (v : Warp) : (s.setWarp w v).clusters = s.clusters := rfl
@[simp] theorem State.setWarp_mem (s : State) (w : Nat) (v : Warp) : (s.setWarp w v).mem = s.mem := rfl
@[simp] theorem State.setWarp_launches (s : State) (w : Nat) (v : Warp) : (s.setWarp w v).launches = s.launches := rfl
@[simp] theorem State.setWarp_contexts (s : State) (w : Nat) (v : Warp) : (s.setWarp w v).contexts = s.contexts := rfl
@[simp] theorem State.setWarp_cmdQueues (s : State) (w : Nat) (v : Warp) : (s.setWarp w v).cmdQueues = s.cmdQueues := rfl
@[simp] theorem State.setWarp_cp (s : State) (w : Nat) (v : Warp) : (s.setWarp w v).cp = s.cp := rfl
@[simp] theorem State.setWarp_faults (s : State) (w : Nat) (v : Warp) : (s.setWarp w v).faults = s.faults := rfl
@[simp] theorem State.setWarp_nextTok (s : State) (w : Nat) (v : Warp) : (s.setWarp w v).nextTok = s.nextTok := rfl
@[simp] theorem State.setWarp_regs (s : State) (w : Nat) (v : Warp) : (s.setWarp w v).regs = s.regs := rfl
@[simp] theorem State.setWarp_devBytes (s : State) (w : Nat) (v : Warp) : (s.setWarp w v).devBytes = s.devBytes := rfl
@[simp] theorem State.setWarp_sys (s : State) (w : Nat) (v : Warp) : (s.setWarp w v).sys = s.sys := rfl
@[simp] theorem State.setWarp_boot (s : State) (w : Nat) (v : Warp) : (s.setWarp w v).boot = s.boot := rfl
@[simp] theorem State.setWarp_frozenFns (s : State) (w : Nat) (v : Warp) : (s.setWarp w v).frozenFns = s.frozenFns := rfl
@[simp] theorem State.setWarp_outs (s : State) (w : Nat) (v : Warp) : (s.setWarp w v).outs = s.outs := rfl
@[simp] theorem State.setWarp_clock (s : State) (w : Nat) (v : Warp) : (s.setWarp w v).clock = s.clock := rfl
@[simp] theorem State.setWarp_cur (s : State) (w : Nat) (v : Warp) : (s.setWarp w v).cur = s.cur := rfl
@[simp] theorem State.setWarp_agenda (s : State) (w : Nat) (v : Warp) : (s.setWarp w v).agenda = s.agenda := rfl
@[simp] theorem State.setWarp_tick (s : State) (w : Nat) (v : Warp) : (s.setWarp w v).tick = s.tick := rfl
@[simp] theorem State.setWarp_glitch (s : State) (w : Nat) (v : Warp) : (s.setWarp w v).glitch = s.glitch := rfl
@[simp] theorem State.setWarp_corrected (s : State) (w : Nat) (v : Warp) : (s.setWarp w v).corrected = s.corrected := rfl

/-! ## updWarp -/

@[simp] theorem State.updWarp_cores (s : State) (w : Nat) (f : Warp → Warp) : (s.updWarp w f).cores = s.cores := rfl
@[simp] theorem State.updWarp_clusters (s : State) (w : Nat) (f : Warp → Warp) : (s.updWarp w f).clusters = s.clusters := rfl
@[simp] theorem State.updWarp_mem (s : State) (w : Nat) (f : Warp → Warp) : (s.updWarp w f).mem = s.mem := rfl
@[simp] theorem State.updWarp_launches (s : State) (w : Nat) (f : Warp → Warp) : (s.updWarp w f).launches = s.launches := rfl
@[simp] theorem State.updWarp_contexts (s : State) (w : Nat) (f : Warp → Warp) : (s.updWarp w f).contexts = s.contexts := rfl
@[simp] theorem State.updWarp_cmdQueues (s : State) (w : Nat) (f : Warp → Warp) : (s.updWarp w f).cmdQueues = s.cmdQueues := rfl
@[simp] theorem State.updWarp_cp (s : State) (w : Nat) (f : Warp → Warp) : (s.updWarp w f).cp = s.cp := rfl
@[simp] theorem State.updWarp_faults (s : State) (w : Nat) (f : Warp → Warp) : (s.updWarp w f).faults = s.faults := rfl
@[simp] theorem State.updWarp_nextTok (s : State) (w : Nat) (f : Warp → Warp) : (s.updWarp w f).nextTok = s.nextTok := rfl
@[simp] theorem State.updWarp_regs (s : State) (w : Nat) (f : Warp → Warp) : (s.updWarp w f).regs = s.regs := rfl
@[simp] theorem State.updWarp_devBytes (s : State) (w : Nat) (f : Warp → Warp) : (s.updWarp w f).devBytes = s.devBytes := rfl
@[simp] theorem State.updWarp_sys (s : State) (w : Nat) (f : Warp → Warp) : (s.updWarp w f).sys = s.sys := rfl
@[simp] theorem State.updWarp_boot (s : State) (w : Nat) (f : Warp → Warp) : (s.updWarp w f).boot = s.boot := rfl
@[simp] theorem State.updWarp_frozenFns (s : State) (w : Nat) (f : Warp → Warp) : (s.updWarp w f).frozenFns = s.frozenFns := rfl
@[simp] theorem State.updWarp_outs (s : State) (w : Nat) (f : Warp → Warp) : (s.updWarp w f).outs = s.outs := rfl
@[simp] theorem State.updWarp_clock (s : State) (w : Nat) (f : Warp → Warp) : (s.updWarp w f).clock = s.clock := rfl
@[simp] theorem State.updWarp_cur (s : State) (w : Nat) (f : Warp → Warp) : (s.updWarp w f).cur = s.cur := rfl
@[simp] theorem State.updWarp_agenda (s : State) (w : Nat) (f : Warp → Warp) : (s.updWarp w f).agenda = s.agenda := rfl
@[simp] theorem State.updWarp_tick (s : State) (w : Nat) (f : Warp → Warp) : (s.updWarp w f).tick = s.tick := rfl
@[simp] theorem State.updWarp_glitch (s : State) (w : Nat) (f : Warp → Warp) : (s.updWarp w f).glitch = s.glitch := rfl
@[simp] theorem State.updWarp_corrected (s : State) (w : Nat) (f : Warp → Warp) : (s.updWarp w f).corrected = s.corrected := rfl

/-! ## setCore -/

@[simp] theorem State.setCore_warps (s : State) (c : Nat) (v : Core) : (s.setCore c v).warps = s.warps := rfl
@[simp] theorem State.setCore_clusters (s : State) (c : Nat) (v : Core) : (s.setCore c v).clusters = s.clusters := rfl
@[simp] theorem State.setCore_mem (s : State) (c : Nat) (v : Core) : (s.setCore c v).mem = s.mem := rfl
@[simp] theorem State.setCore_launches (s : State) (c : Nat) (v : Core) : (s.setCore c v).launches = s.launches := rfl
@[simp] theorem State.setCore_contexts (s : State) (c : Nat) (v : Core) : (s.setCore c v).contexts = s.contexts := rfl
@[simp] theorem State.setCore_cmdQueues (s : State) (c : Nat) (v : Core) : (s.setCore c v).cmdQueues = s.cmdQueues := rfl
@[simp] theorem State.setCore_cp (s : State) (c : Nat) (v : Core) : (s.setCore c v).cp = s.cp := rfl
@[simp] theorem State.setCore_faults (s : State) (c : Nat) (v : Core) : (s.setCore c v).faults = s.faults := rfl
@[simp] theorem State.setCore_nextTok (s : State) (c : Nat) (v : Core) : (s.setCore c v).nextTok = s.nextTok := rfl
@[simp] theorem State.setCore_regs (s : State) (c : Nat) (v : Core) : (s.setCore c v).regs = s.regs := rfl
@[simp] theorem State.setCore_devBytes (s : State) (c : Nat) (v : Core) : (s.setCore c v).devBytes = s.devBytes := rfl
@[simp] theorem State.setCore_sys (s : State) (c : Nat) (v : Core) : (s.setCore c v).sys = s.sys := rfl
@[simp] theorem State.setCore_boot (s : State) (c : Nat) (v : Core) : (s.setCore c v).boot = s.boot := rfl
@[simp] theorem State.setCore_frozenFns (s : State) (c : Nat) (v : Core) : (s.setCore c v).frozenFns = s.frozenFns := rfl
@[simp] theorem State.setCore_outs (s : State) (c : Nat) (v : Core) : (s.setCore c v).outs = s.outs := rfl
@[simp] theorem State.setCore_clock (s : State) (c : Nat) (v : Core) : (s.setCore c v).clock = s.clock := rfl
@[simp] theorem State.setCore_cur (s : State) (c : Nat) (v : Core) : (s.setCore c v).cur = s.cur := rfl
@[simp] theorem State.setCore_agenda (s : State) (c : Nat) (v : Core) : (s.setCore c v).agenda = s.agenda := rfl
@[simp] theorem State.setCore_tick (s : State) (c : Nat) (v : Core) : (s.setCore c v).tick = s.tick := rfl
@[simp] theorem State.setCore_glitch (s : State) (c : Nat) (v : Core) : (s.setCore c v).glitch = s.glitch := rfl
@[simp] theorem State.setCore_corrected (s : State) (c : Nat) (v : Core) : (s.setCore c v).corrected = s.corrected := rfl

/-! ## updCore -/

@[simp] theorem State.updCore_warps (s : State) (c : Nat) (f : Core → Core) : (s.updCore c f).warps = s.warps := rfl
@[simp] theorem State.updCore_clusters (s : State) (c : Nat) (f : Core → Core) : (s.updCore c f).clusters = s.clusters := rfl
@[simp] theorem State.updCore_mem (s : State) (c : Nat) (f : Core → Core) : (s.updCore c f).mem = s.mem := rfl
@[simp] theorem State.updCore_launches (s : State) (c : Nat) (f : Core → Core) : (s.updCore c f).launches = s.launches := rfl
@[simp] theorem State.updCore_contexts (s : State) (c : Nat) (f : Core → Core) : (s.updCore c f).contexts = s.contexts := rfl
@[simp] theorem State.updCore_cmdQueues (s : State) (c : Nat) (f : Core → Core) : (s.updCore c f).cmdQueues = s.cmdQueues := rfl
@[simp] theorem State.updCore_cp (s : State) (c : Nat) (f : Core → Core) : (s.updCore c f).cp = s.cp := rfl
@[simp] theorem State.updCore_faults (s : State) (c : Nat) (f : Core → Core) : (s.updCore c f).faults = s.faults := rfl
@[simp] theorem State.updCore_nextTok (s : State) (c : Nat) (f : Core → Core) : (s.updCore c f).nextTok = s.nextTok := rfl
@[simp] theorem State.updCore_regs (s : State) (c : Nat) (f : Core → Core) : (s.updCore c f).regs = s.regs := rfl
@[simp] theorem State.updCore_devBytes (s : State) (c : Nat) (f : Core → Core) : (s.updCore c f).devBytes = s.devBytes := rfl
@[simp] theorem State.updCore_sys (s : State) (c : Nat) (f : Core → Core) : (s.updCore c f).sys = s.sys := rfl
@[simp] theorem State.updCore_boot (s : State) (c : Nat) (f : Core → Core) : (s.updCore c f).boot = s.boot := rfl
@[simp] theorem State.updCore_frozenFns (s : State) (c : Nat) (f : Core → Core) : (s.updCore c f).frozenFns = s.frozenFns := rfl
@[simp] theorem State.updCore_outs (s : State) (c : Nat) (f : Core → Core) : (s.updCore c f).outs = s.outs := rfl
@[simp] theorem State.updCore_clock (s : State) (c : Nat) (f : Core → Core) : (s.updCore c f).clock = s.clock := rfl
@[simp] theorem State.updCore_cur (s : State) (c : Nat) (f : Core → Core) : (s.updCore c f).cur = s.cur := rfl
@[simp] theorem State.updCore_agenda (s : State) (c : Nat) (f : Core → Core) : (s.updCore c f).agenda = s.agenda := rfl
@[simp] theorem State.updCore_tick (s : State) (c : Nat) (f : Core → Core) : (s.updCore c f).tick = s.tick := rfl
@[simp] theorem State.updCore_glitch (s : State) (c : Nat) (f : Core → Core) : (s.updCore c f).glitch = s.glitch := rfl
@[simp] theorem State.updCore_corrected (s : State) (c : Nat) (f : Core → Core) : (s.updCore c f).corrected = s.corrected := rfl

/-! ## updCluster -/

@[simp] theorem State.updCluster_warps (s : State) (g : Nat) (f : Cluster → Cluster) : (s.updCluster g f).warps = s.warps := rfl
@[simp] theorem State.updCluster_cores (s : State) (g : Nat) (f : Cluster → Cluster) : (s.updCluster g f).cores = s.cores := rfl
@[simp] theorem State.updCluster_mem (s : State) (g : Nat) (f : Cluster → Cluster) : (s.updCluster g f).mem = s.mem := rfl
@[simp] theorem State.updCluster_launches (s : State) (g : Nat) (f : Cluster → Cluster) : (s.updCluster g f).launches = s.launches := rfl
@[simp] theorem State.updCluster_contexts (s : State) (g : Nat) (f : Cluster → Cluster) : (s.updCluster g f).contexts = s.contexts := rfl
@[simp] theorem State.updCluster_cmdQueues (s : State) (g : Nat) (f : Cluster → Cluster) : (s.updCluster g f).cmdQueues = s.cmdQueues := rfl
@[simp] theorem State.updCluster_cp (s : State) (g : Nat) (f : Cluster → Cluster) : (s.updCluster g f).cp = s.cp := rfl
@[simp] theorem State.updCluster_faults (s : State) (g : Nat) (f : Cluster → Cluster) : (s.updCluster g f).faults = s.faults := rfl
@[simp] theorem State.updCluster_nextTok (s : State) (g : Nat) (f : Cluster → Cluster) : (s.updCluster g f).nextTok = s.nextTok := rfl
@[simp] theorem State.updCluster_regs (s : State) (g : Nat) (f : Cluster → Cluster) : (s.updCluster g f).regs = s.regs := rfl
@[simp] theorem State.updCluster_devBytes (s : State) (g : Nat) (f : Cluster → Cluster) : (s.updCluster g f).devBytes = s.devBytes := rfl
@[simp] theorem State.updCluster_sys (s : State) (g : Nat) (f : Cluster → Cluster) : (s.updCluster g f).sys = s.sys := rfl
@[simp] theorem State.updCluster_boot (s : State) (g : Nat) (f : Cluster → Cluster) : (s.updCluster g f).boot = s.boot := rfl
@[simp] theorem State.updCluster_frozenFns (s : State) (g : Nat) (f : Cluster → Cluster) : (s.updCluster g f).frozenFns = s.frozenFns := rfl
@[simp] theorem State.updCluster_outs (s : State) (g : Nat) (f : Cluster → Cluster) : (s.updCluster g f).outs = s.outs := rfl
@[simp] theorem State.updCluster_clock (s : State) (g : Nat) (f : Cluster → Cluster) : (s.updCluster g f).clock = s.clock := rfl
@[simp] theorem State.updCluster_cur (s : State) (g : Nat) (f : Cluster → Cluster) : (s.updCluster g f).cur = s.cur := rfl
@[simp] theorem State.updCluster_agenda (s : State) (g : Nat) (f : Cluster → Cluster) : (s.updCluster g f).agenda = s.agenda := rfl
@[simp] theorem State.updCluster_tick (s : State) (g : Nat) (f : Cluster → Cluster) : (s.updCluster g f).tick = s.tick := rfl
@[simp] theorem State.updCluster_glitch (s : State) (g : Nat) (f : Cluster → Cluster) : (s.updCluster g f).glitch = s.glitch := rfl
@[simp] theorem State.updCluster_corrected (s : State) (g : Nat) (f : Cluster → Cluster) : (s.updCluster g f).corrected = s.corrected := rfl

/-! ## updMem -/

@[simp] theorem State.updMem_warps (s : State) (f : Mem → Mem) : (s.updMem f).warps = s.warps := rfl
@[simp] theorem State.updMem_cores (s : State) (f : Mem → Mem) : (s.updMem f).cores = s.cores := rfl
@[simp] theorem State.updMem_clusters (s : State) (f : Mem → Mem) : (s.updMem f).clusters = s.clusters := rfl
@[simp] theorem State.updMem_launches (s : State) (f : Mem → Mem) : (s.updMem f).launches = s.launches := rfl
@[simp] theorem State.updMem_contexts (s : State) (f : Mem → Mem) : (s.updMem f).contexts = s.contexts := rfl
@[simp] theorem State.updMem_cmdQueues (s : State) (f : Mem → Mem) : (s.updMem f).cmdQueues = s.cmdQueues := rfl
@[simp] theorem State.updMem_cp (s : State) (f : Mem → Mem) : (s.updMem f).cp = s.cp := rfl
@[simp] theorem State.updMem_faults (s : State) (f : Mem → Mem) : (s.updMem f).faults = s.faults := rfl
@[simp] theorem State.updMem_nextTok (s : State) (f : Mem → Mem) : (s.updMem f).nextTok = s.nextTok := rfl
@[simp] theorem State.updMem_regs (s : State) (f : Mem → Mem) : (s.updMem f).regs = s.regs := rfl
@[simp] theorem State.updMem_devBytes (s : State) (f : Mem → Mem) : (s.updMem f).devBytes = s.devBytes := rfl
@[simp] theorem State.updMem_sys (s : State) (f : Mem → Mem) : (s.updMem f).sys = s.sys := rfl
@[simp] theorem State.updMem_boot (s : State) (f : Mem → Mem) : (s.updMem f).boot = s.boot := rfl
@[simp] theorem State.updMem_frozenFns (s : State) (f : Mem → Mem) : (s.updMem f).frozenFns = s.frozenFns := rfl
@[simp] theorem State.updMem_outs (s : State) (f : Mem → Mem) : (s.updMem f).outs = s.outs := rfl
@[simp] theorem State.updMem_clock (s : State) (f : Mem → Mem) : (s.updMem f).clock = s.clock := rfl
@[simp] theorem State.updMem_cur (s : State) (f : Mem → Mem) : (s.updMem f).cur = s.cur := rfl
@[simp] theorem State.updMem_agenda (s : State) (f : Mem → Mem) : (s.updMem f).agenda = s.agenda := rfl
@[simp] theorem State.updMem_tick (s : State) (f : Mem → Mem) : (s.updMem f).tick = s.tick := rfl
@[simp] theorem State.updMem_glitch (s : State) (f : Mem → Mem) : (s.updMem f).glitch = s.glitch := rfl
@[simp] theorem State.updMem_corrected (s : State) (f : Mem → Mem) : (s.updMem f).corrected = s.corrected := rfl

/-! ## setReg -/

@[simp] theorem State.setReg_warps (s : State) (a : Nat) (v : Word64) : (s.setReg a v).warps = s.warps := rfl
@[simp] theorem State.setReg_cores (s : State) (a : Nat) (v : Word64) : (s.setReg a v).cores = s.cores := rfl
@[simp] theorem State.setReg_clusters (s : State) (a : Nat) (v : Word64) : (s.setReg a v).clusters = s.clusters := rfl
@[simp] theorem State.setReg_mem (s : State) (a : Nat) (v : Word64) : (s.setReg a v).mem = s.mem := rfl
@[simp] theorem State.setReg_launches (s : State) (a : Nat) (v : Word64) : (s.setReg a v).launches = s.launches := rfl
@[simp] theorem State.setReg_contexts (s : State) (a : Nat) (v : Word64) : (s.setReg a v).contexts = s.contexts := rfl
@[simp] theorem State.setReg_cmdQueues (s : State) (a : Nat) (v : Word64) : (s.setReg a v).cmdQueues = s.cmdQueues := rfl
@[simp] theorem State.setReg_cp (s : State) (a : Nat) (v : Word64) : (s.setReg a v).cp = s.cp := rfl
@[simp] theorem State.setReg_faults (s : State) (a : Nat) (v : Word64) : (s.setReg a v).faults = s.faults := rfl
@[simp] theorem State.setReg_nextTok (s : State) (a : Nat) (v : Word64) : (s.setReg a v).nextTok = s.nextTok := rfl
@[simp] theorem State.setReg_devBytes (s : State) (a : Nat) (v : Word64) : (s.setReg a v).devBytes = s.devBytes := rfl
@[simp] theorem State.setReg_sys (s : State) (a : Nat) (v : Word64) : (s.setReg a v).sys = s.sys := rfl
@[simp] theorem State.setReg_boot (s : State) (a : Nat) (v : Word64) : (s.setReg a v).boot = s.boot := rfl
@[simp] theorem State.setReg_frozenFns (s : State) (a : Nat) (v : Word64) : (s.setReg a v).frozenFns = s.frozenFns := rfl
@[simp] theorem State.setReg_outs (s : State) (a : Nat) (v : Word64) : (s.setReg a v).outs = s.outs := rfl
@[simp] theorem State.setReg_clock (s : State) (a : Nat) (v : Word64) : (s.setReg a v).clock = s.clock := rfl
@[simp] theorem State.setReg_cur (s : State) (a : Nat) (v : Word64) : (s.setReg a v).cur = s.cur := rfl
@[simp] theorem State.setReg_agenda (s : State) (a : Nat) (v : Word64) : (s.setReg a v).agenda = s.agenda := rfl
@[simp] theorem State.setReg_tick (s : State) (a : Nat) (v : Word64) : (s.setReg a v).tick = s.tick := rfl
@[simp] theorem State.setReg_glitch (s : State) (a : Nat) (v : Word64) : (s.setReg a v).glitch = s.glitch := rfl
@[simp] theorem State.setReg_corrected (s : State) (a : Nat) (v : Word64) : (s.setReg a v).corrected = s.corrected := rfl

/-! ## raise -/

@[simp] theorem State.raise_warps (s : State) (a b : Nat) : (s.raise a b).warps = s.warps := rfl
@[simp] theorem State.raise_cores (s : State) (a b : Nat) : (s.raise a b).cores = s.cores := rfl
@[simp] theorem State.raise_clusters (s : State) (a b : Nat) : (s.raise a b).clusters = s.clusters := rfl
@[simp] theorem State.raise_mem (s : State) (a b : Nat) : (s.raise a b).mem = s.mem := rfl
@[simp] theorem State.raise_launches (s : State) (a b : Nat) : (s.raise a b).launches = s.launches := rfl
@[simp] theorem State.raise_contexts (s : State) (a b : Nat) : (s.raise a b).contexts = s.contexts := rfl
@[simp] theorem State.raise_cmdQueues (s : State) (a b : Nat) : (s.raise a b).cmdQueues = s.cmdQueues := rfl
@[simp] theorem State.raise_cp (s : State) (a b : Nat) : (s.raise a b).cp = s.cp := rfl
@[simp] theorem State.raise_faults (s : State) (a b : Nat) : (s.raise a b).faults = s.faults := rfl
@[simp] theorem State.raise_nextTok (s : State) (a b : Nat) : (s.raise a b).nextTok = s.nextTok := rfl
@[simp] theorem State.raise_regs (s : State) (a b : Nat) : (s.raise a b).regs = s.regs := rfl
@[simp] theorem State.raise_devBytes (s : State) (a b : Nat) : (s.raise a b).devBytes = s.devBytes := rfl
@[simp] theorem State.raise_sys (s : State) (a b : Nat) : (s.raise a b).sys = s.sys := rfl
@[simp] theorem State.raise_boot (s : State) (a b : Nat) : (s.raise a b).boot = s.boot := rfl
@[simp] theorem State.raise_frozenFns (s : State) (a b : Nat) : (s.raise a b).frozenFns = s.frozenFns := rfl
@[simp] theorem State.raise_clock (s : State) (a b : Nat) : (s.raise a b).clock = s.clock := rfl
@[simp] theorem State.raise_cur (s : State) (a b : Nat) : (s.raise a b).cur = s.cur := rfl
@[simp] theorem State.raise_agenda (s : State) (a b : Nat) : (s.raise a b).agenda = s.agenda := rfl
@[simp] theorem State.raise_tick (s : State) (a b : Nat) : (s.raise a b).tick = s.tick := rfl
@[simp] theorem State.raise_glitch (s : State) (a b : Nat) : (s.raise a b).glitch = s.glitch := rfl
@[simp] theorem State.raise_corrected (s : State) (a b : Nat) : (s.raise a b).corrected = s.corrected := rfl

/-! ## updLaunch -/

@[simp] theorem State.updLaunch_warps (s : State) (l : Nat) (f : Launch → Launch) : (s.updLaunch l f).warps = s.warps := by
  unfold State.updLaunch; split <;> rfl
@[simp] theorem State.updLaunch_cores (s : State) (l : Nat) (f : Launch → Launch) : (s.updLaunch l f).cores = s.cores := by
  unfold State.updLaunch; split <;> rfl
@[simp] theorem State.updLaunch_clusters (s : State) (l : Nat) (f : Launch → Launch) : (s.updLaunch l f).clusters = s.clusters := by
  unfold State.updLaunch; split <;> rfl
@[simp] theorem State.updLaunch_mem (s : State) (l : Nat) (f : Launch → Launch) : (s.updLaunch l f).mem = s.mem := by
  unfold State.updLaunch; split <;> rfl
@[simp] theorem State.updLaunch_contexts (s : State) (l : Nat) (f : Launch → Launch) : (s.updLaunch l f).contexts = s.contexts := by
  unfold State.updLaunch; split <;> rfl
@[simp] theorem State.updLaunch_cmdQueues (s : State) (l : Nat) (f : Launch → Launch) : (s.updLaunch l f).cmdQueues = s.cmdQueues := by
  unfold State.updLaunch; split <;> rfl
@[simp] theorem State.updLaunch_cp (s : State) (l : Nat) (f : Launch → Launch) : (s.updLaunch l f).cp = s.cp := by
  unfold State.updLaunch; split <;> rfl
@[simp] theorem State.updLaunch_faults (s : State) (l : Nat) (f : Launch → Launch) : (s.updLaunch l f).faults = s.faults := by
  unfold State.updLaunch; split <;> rfl
@[simp] theorem State.updLaunch_nextTok (s : State) (l : Nat) (f : Launch → Launch) : (s.updLaunch l f).nextTok = s.nextTok := by
  unfold State.updLaunch; split <;> rfl
@[simp] theorem State.updLaunch_regs (s : State) (l : Nat) (f : Launch → Launch) : (s.updLaunch l f).regs = s.regs := by
  unfold State.updLaunch; split <;> rfl
@[simp] theorem State.updLaunch_devBytes (s : State) (l : Nat) (f : Launch → Launch) : (s.updLaunch l f).devBytes = s.devBytes := by
  unfold State.updLaunch; split <;> rfl
@[simp] theorem State.updLaunch_sys (s : State) (l : Nat) (f : Launch → Launch) : (s.updLaunch l f).sys = s.sys := by
  unfold State.updLaunch; split <;> rfl
@[simp] theorem State.updLaunch_boot (s : State) (l : Nat) (f : Launch → Launch) : (s.updLaunch l f).boot = s.boot := by
  unfold State.updLaunch; split <;> rfl
@[simp] theorem State.updLaunch_frozenFns (s : State) (l : Nat) (f : Launch → Launch) : (s.updLaunch l f).frozenFns = s.frozenFns := by
  unfold State.updLaunch; split <;> rfl
@[simp] theorem State.updLaunch_outs (s : State) (l : Nat) (f : Launch → Launch) : (s.updLaunch l f).outs = s.outs := by
  unfold State.updLaunch; split <;> rfl
@[simp] theorem State.updLaunch_clock (s : State) (l : Nat) (f : Launch → Launch) : (s.updLaunch l f).clock = s.clock := by
  unfold State.updLaunch; split <;> rfl
@[simp] theorem State.updLaunch_cur (s : State) (l : Nat) (f : Launch → Launch) : (s.updLaunch l f).cur = s.cur := by
  unfold State.updLaunch; split <;> rfl
@[simp] theorem State.updLaunch_agenda (s : State) (l : Nat) (f : Launch → Launch) : (s.updLaunch l f).agenda = s.agenda := by
  unfold State.updLaunch; split <;> rfl
@[simp] theorem State.updLaunch_tick (s : State) (l : Nat) (f : Launch → Launch) : (s.updLaunch l f).tick = s.tick := by
  unfold State.updLaunch; split <;> rfl
@[simp] theorem State.updLaunch_glitch (s : State) (l : Nat) (f : Launch → Launch) : (s.updLaunch l f).glitch = s.glitch := by
  unfold State.updLaunch; split <;> rfl
@[simp] theorem State.updLaunch_corrected (s : State) (l : Nat) (f : Launch → Launch) : (s.updLaunch l f).corrected = s.corrected := by
  unfold State.updLaunch; split <;> rfl

/-! ## countCorrected -/

/-- Counting corrected errors writes registers only. -/
theorem State.countCorrected_rest (s : State) :
    s.countCorrected = { s with regs := s.countCorrected.regs, corrected := [] } := by
  have h (l : List Nat) : ∀ u : State, l.foldl State.countCe u = { u with regs := (l.foldl State.countCe u).regs } := by
    induction l with
    | nil => exact fun u => rfl
    | cons d r ih => exact fun u => ih (u.countCe d)
  exact congrArg (fun u : State => { u with corrected := [] }) (h s.corrected s)

theorem State.countCorrected_none (s : State) (h : s.corrected = []) : s.countCorrected = s := by
  cases s; simp_all [State.countCorrected]

/-! ## Reading after an update -/

theorem State.warp_setWarp (s : State) (w k : Nat) (v : Warp) :
    (s.setWarp w v).warp k = if w = k then v else s.warp k := SMap.get_set _ _ _ _ _

@[simp] theorem State.warp_setWarp_same (s : State) (w : Nat) (v : Warp) : (s.setWarp w v).warp w = v := by
  simp [State.warp_setWarp]

theorem State.warp_glitch (s : State) (g : Option Glitch) (k : Nat) : ({ s with glitch := g } : State).warp k = s.warp k := rfl

theorem State.warp_updWarp (s : State) (w k : Nat) (f : Warp → Warp) :
    (s.updWarp w f).warp k = if w = k then f (s.warp w) else s.warp k := State.warp_setWarp _ _ _ _

@[simp] theorem State.warp_updWarp_same (s : State) (w : Nat) (f : Warp → Warp) :
    (s.updWarp w f).warp w = f (s.warp w) := State.warp_setWarp_same _ _ _

theorem State.core_updCore (s : State) (c k : Nat) (f : Core → Core) :
    (s.updCore c f).core k = if c = k then f (s.core c) else s.core k := SMap.get_set _ _ _ _ _

@[simp] theorem State.core_updCore_same (s : State) (c : Nat) (f : Core → Core) :
    (s.updCore c f).core c = f (s.core c) := by simp [State.core_updCore]

theorem State.cluster_updCluster (s : State) (g k : Nat) (f : Cluster → Cluster) :
    (s.updCluster g f).cluster k = if g = k then f (s.cluster g) else s.cluster k := SMap.get_set _ _ _ _ _

theorem State.reg_setReg (s : State) (a k : Nat) (v : Word64) :
    (s.setReg a v).reg k = if a = k then v else s.reg k := by
  simp only [State.reg, State.setReg, SMap.get, SMap.find?_set]
  split <;> rename_i h
  · subst h; rfl
  · rfl

@[simp] theorem State.warp_updCore (s : State) (c k : Nat) (f : Core → Core) : (s.updCore c f).warp k = s.warp k := rfl
@[simp] theorem State.warp_updMem (s : State) (f : Mem → Mem) (k : Nat) : (s.updMem f).warp k = s.warp k := rfl
@[simp] theorem State.warp_setReg (s : State) (a k : Nat) (v : Word64) : (s.setReg a v).warp k = s.warp k := rfl
@[simp] theorem State.core_setWarp (s : State) (w c : Nat) (v : Warp) : (s.setWarp w v).core c = s.core c := rfl
@[simp] theorem State.core_updWarp (s : State) (w c : Nat) (f : Warp → Warp) : (s.updWarp w f).core c = s.core c := rfl
@[simp] theorem State.core_updMem (s : State) (f : Mem → Mem) (c : Nat) : (s.updMem f).core c = s.core c := rfl
@[simp] theorem State.launch_updWarp (s : State) (w l : Nat) (f : Warp → Warp) : (s.updWarp w f).launch l = s.launch l := rfl
@[simp] theorem State.launch_updCore (s : State) (c l : Nat) (f : Core → Core) : (s.updCore c f).launch l = s.launch l := rfl
@[simp] theorem State.launch_updMem (s : State) (f : Mem → Mem) (l : Nat) : (s.updMem f).launch l = s.launch l := rfl

/-! ## Slots and lanes -/

theorem Warp.lane_setLane (w : Warp) (i j : Nat) (l : Lane) :
    (w.setLane i l).lane j = if i = j then l else w.lane j := SMap.get_set _ _ _ _ _

@[simp] theorem Warp.lane_setLane_same (w : Warp) (i : Nat) (l : Lane) : (w.setLane i l).lane i = l := by
  simp [Warp.lane_setLane]

theorem Warp.lane_updLane (w : Warp) (i j : Nat) (f : Lane → Lane) :
    (w.updLane i f).lane j = if i = j then f (w.lane i) else w.lane j := Warp.lane_setLane _ _ _ _

@[simp] theorem Warp.lane_updLane_same (w : Warp) (i : Nat) (f : Lane → Lane) : (w.updLane i f).lane i = f (w.lane i) := by
  simp [Warp.lane_updLane]

theorem Warp.sreg_setSreg (w : Warp) (r k : Nat) (v : Word64) :
    (w.setSreg r v).sreg k = if r = k then v else w.sreg k := SMap.get_set _ _ _ _ _

@[simp] theorem Warp.lane_setSreg (w : Warp) (r i : Nat) (v : Word64) : (w.setSreg r v).lane i = w.lane i := rfl
@[simp] theorem Warp.lane_setFlags (w : Warp) (f i : Nat) : (w.setFlags f).lane i = w.lane i := rfl
@[simp] theorem Warp.lane_setMaskBit (w : Warp) (k j i : Nat) (b : Bool) : (w.setMaskBit k j b).lane i = w.lane i := rfl

/-- Changing lanes changes nothing else of a slot. -/
theorem Warp.updLanes_rest (is : List Nat) (f : Nat → Lane → Lane) (w : Warp) :
    w.updLanes is f = { w with lanes := (w.updLanes is f).lanes } := by
  unfold Warp.updLanes
  induction is generalizing w with
  | nil => rfl
  | cons i r ih => rw [List.foldl_cons, ih]; rfl

theorem Warp.lane_updLanes (is : List Nat) (hn : is.Nodup) (f : Nat → Lane → Lane) (w : Warp) (j : Nat) :
    (w.updLanes is f).lane j = if j ∈ is then f j (w.lane j) else w.lane j := by
  unfold Warp.updLanes
  induction is generalizing w with
  | nil => rfl
  | cons i r ih =>
    rw [List.foldl_cons, ih (List.nodup_cons.mp hn).2, Warp.lane_updLane]
    have hi : i ∉ r := (List.nodup_cons.mp hn).1
    by_cases h : i = j
    · subst h; simp [hi]
    · simp [h, Ne.symm h]

@[simp] theorem Warp.sreg_updLanes (is : List Nat) (f : Nat → Lane → Lane) (w : Warp) (r : Nat) :
    (w.updLanes is f).sreg r = w.sreg r := by rw [Warp.updLanes_rest]; rfl

@[simp] theorem Warp.follow_spc (w : Warp) (p : Addr) : (w.follow p).spc = p := rfl

theorem Warp.follow_rest (w : Warp) (p : Addr) : w.follow p = { w with lanes := (w.follow p).lanes, spc := p, dq := [] } := by
  unfold Warp.follow; rw [Warp.updLanes_rest]

theorem Warp.lane_follow (w : Warp) (p : Addr) (j : Nat) :
    (w.follow p).lane j = if j ∈ lanesOf w.live then { w.lane j with pc := p } else w.lane j :=
  Warp.lane_updLanes _ (lanesOf_nodup _) _ _ _

end Sys2Proof.Machine
end

