-- ==== Sys2Proof/Laws/Lanes.lean ====
section
/-! SUPPORT. What an instruction that acts in lanes alone does, said once (07_lane_arith.md R145, R146). -/

namespace Sys2Proof.Machine

/-! ## One lane -/

theorem Lane.put_rest (l : Lane) (lat n : Nat) (r : LRes) (v : Word) :
    l.put lat n r v = { l with o := (l.put lat n r v).o, m := (l.put lat n r v).m, x := (l.put lat n r v).x,
                               l0 := (l.put lat n r v).l0, l1 := (l.put lat n r v).l1, pend := (l.put lat n r v).pend } := by
  cases r <;> rfl

theorem Lane.putD_rest (l : Lane) (lat n : Nat) (d : Option (Dst × Word)) :
    l.putD lat n d = { l with o := (l.putD lat n d).o, m := (l.putD lat n d).m, x := (l.putD lat n d).x,
                              l0 := (l.putD lat n d).l0, l1 := (l.putD lat n d).l1, pend := (l.putD lat n d).pend } := by
  rcases d with _ | ⟨d, v⟩
  · rfl
  · cases d <;> rfl

/-- The registers written, in the order of the writes. -/
def wrO (wr : List (LRes × Word)) : List (Nat × Word) := wr.reverse.filterMap (fun p => match p.1 with
  | .o k => some (k, p.2)
  | _ => none)
def wrM (wr : List (LRes × Word)) : List (Nat × Word) := wr.reverse.filterMap (fun p => match p.1 with
  | .m k => some (k, p.2)
  | _ => none)
def wrX (wr : List (LRes × Word)) : List (Nat × Word) := wr.reverse.filterMap (fun p => match p.1 with
  | .x k => some (k, p.2)
  | _ => none)

/-- The effect of a result. -/
def LaneRes.effect (r : LaneRes) : Effect :=
  { o := (match r.d with
      | some (.o k, v) => [(k.toNat, v)]
      | _ => []) ++ wrO r.wr
    m := wrM r.wr
    x := wrX r.wr
    hist := r.d.map (fun p => p.2)
    mkb := r.mkb.reverse
    flags := r.flags
    pc := r.go }

theorem lookup_append_getD {α : Type} (l r : List (Nat × α)) (k : Nat) (d : α) :
    ((l ++ r).lookup k).getD d = (l.lookup k).getD ((r.lookup k).getD d) := by
  rw [List.lookup_append]
  cases l.lookup k <;> rfl

theorem lookup_snoc (w : List (Nat × Word)) (j k : Nat) (v d : Word) :
    ((w ++ [(j, v)]).lookup k).getD d = (w.lookup k).getD (if j = k then v else d) := by
  rw [lookup_append_getD]
  congr 1
  by_cases h : j = k
  · subst h; simp [List.lookup]
  · have h' : (k == j) = false := by simpa using Ne.symm h
    simp [List.lookup, h, h']

/-- Writing registers in order: the last write of a register counts. -/
theorem foldl_put_spec (lat n : Nat) (wr : List (LRes × Word)) (l : Lane) (hl : ∀ p ∈ wr, p.1 ≠ LRes.l0 ∧ p.1 ≠ LRes.l1) :
    ∃ o m x ps, wr.foldl (fun l p => l.put lat n p.1 p.2) l = { l with o := o, m := m, x := x, pend := ps } ∧
      (∀ k, o.get 0 k = ((wrO wr).lookup k).getD (l.o.get 0 k)) ∧
      (∀ k, m.get 0 k = ((wrM wr).lookup k).getD (l.m.get 0 k)) ∧
      (∀ k, x.get 0 k = ((wrX wr).lookup k).getD (l.x.get 0 k)) := by
  induction wr generalizing l with
  | nil => exact ⟨l.o, l.m, l.x, l.pend, rfl, fun _ => rfl, fun _ => rfl, fun _ => rfl⟩
  | cons p r ih =>
    obtain ⟨q, v⟩ := p
    have hq := hl (q, v) List.mem_cons_self
    obtain ⟨o, m, x, ps, h1, h2, h3, h4⟩ := ih (l.put lat n q v) (fun p hp => hl p (List.mem_cons_of_mem _ hp))
    refine ⟨o, m, x, ps, ?_, ?_, ?_, ?_⟩
    · rw [List.foldl_cons, h1]
      cases q <;> first | rfl | exact absurd rfl hq.1 | exact absurd rfl hq.2
    · intro k
      rw [h2]
      cases q <;> simp only [wrO, List.reverse_cons, List.filterMap_append, List.filterMap_cons, List.filterMap_nil,
        lookup_snoc, Lane.put, SMap.get_set, List.append_nil]
    · intro k
      rw [h3]
      cases q <;> simp only [wrM, List.reverse_cons, List.filterMap_append, List.filterMap_cons, List.filterMap_nil,
        lookup_snoc, Lane.put, SMap.get_set, List.append_nil]
    · intro k
      rw [h4]
      cases q <;> simp only [wrX, List.reverse_cons, List.filterMap_append, List.filterMap_cons, List.filterMap_nil,
        lookup_snoc, Lane.put, SMap.get_set, List.append_nil]

/-- A result that neither traps, waits, calls, ends the lane nor leaves a handler. -/
def LaneRes.Plain (r : LaneRes) : Prop :=
  r.trap = none ∧ r.calls = none ∧ r.hold = none ∧ r.ends = none ∧ r.leaves = false ∧ r.latch = none ∧
  ∀ p ∈ r.wr, p.1 ≠ LRes.l0 ∧ p.1 ≠ LRes.l1

theorem Lane.finish_becomes (l : Lane) (len lat : Nat) (n : Stall) (r : LaneRes) (h : r.Plain) :
    l.Becomes (l.finish len lat n.toNat r) n len r.effect := by
  obtain ⟨-, hc, hh, he, hv, ht, hw⟩ := h
  obtain ⟨o, m, x, ps, h1, h2, h3, h4⟩ := foldl_put_spec lat n.toNat r.wr { l with pend := agePends n.toNat l.pend } hw
  rcases r with ⟨tr, ar, d, wr, mb, fl, go, ca, ho, en, le, la, wd⟩
  simp only at hc hh he hv ht h1 h2 h3 h4
  subst hc hh he hv ht
  have hfin : ∃ qs as, l.finish len lat n.toNat ⟨tr, ar, d, wr, mb, fl, go, none, none, none, false, none, wd⟩ =
      { ({ l with o := o, m := m, x := x, pend := ps } : Lane).putD lat n.toNat d with
        pend := qs, await := as, pc := go.getD (l.pc + BitVec.ofNat 56 len), wait := .none, stallLeft := n.toNat + 1, waitCnt := 0, failed := [] } := by
    refine ⟨(l.finish len lat n.toNat ⟨tr, ar, d, wr, mb, fl, go, none, none, none, false, none, wd⟩).pend,
      (l.finish len lat n.toNat ⟨tr, ar, d, wr, mb, fl, go, none, none, none, false, none, wd⟩).await, ?_⟩
    simp only [Lane.finish, h1, Bool.false_eq_true, if_false, Option.isSome_none, Option.getD_none]
    rcases d with _ | ⟨d, v⟩
    · rfl
    · cases d <;> rfl
  obtain ⟨qs, as, hfin⟩ := hfin
  rw [hfin]
  rcases d with _ | ⟨d, v⟩
  · exact ⟨rfl, fun k => by simpa [LaneRes.effect, Lane.putD] using h2 k, h3, h4, rfl, rfl⟩
  · cases d with
    | zero => exact ⟨rfl, fun k => by simpa [LaneRes.effect, Lane.putD, Lane.history] using h2 k, h3, h4, rfl, rfl⟩
    | o b =>
      refine ⟨rfl, fun k => ?_, h3, h4, rfl, rfl⟩
      simp only [Lane.putD, Lane.history, Lane.put, SMap.get_set, h2, LaneRes.effect, lookup_append_getD]
      by_cases hb : b.toNat = k
      · subst hb; simp
      · have : (k == b.toNat) = false := by simpa using Ne.symm hb
        simp [hb, this, List.lookup]

/-! ## One lane's result in its slot -/

theorem Warp.putMask_rest (w : Warp) (old : SMap Word) (lat n i : Nat) (q : Nat × Bool) :
    w.putMask old lat n i q = { w with lanes := (w.putMask old lat n i q).lanes, mks := (w.putMask old lat n i q).mks } := rfl

theorem Warp.putMask_lane (w : Warp) (old : SMap Word) (lat n i : Nat) (q : Nat × Bool) :
    ∃ ps, (w.putMask old lat n i q).lane i = { w.lane i with pend := ps } :=
  ⟨_, by simp [Warp.putMask]; rfl⟩

theorem Warp.putMask_other (w : Warp) (old : SMap Word) (lat n i j : Nat) (q : Nat × Bool) (h : i ≠ j) :
    (w.putMask old lat n i q).lane j = w.lane j := by simp [Warp.putMask, Warp.lane_updLane, h]

theorem Warp.putMask_mks (w : Warp) (old : SMap Word) (lat n i : Nat) (q : Nat × Bool) (hi : i < 32) (k j : Nat) :
    bitAt ((w.putMask old lat n i q).mks.get 0 k) j = if j = i ∧ q.1 = k then q.2 else bitAt (w.mks.get 0 k) j := by
  simp only [Warp.putMask, Warp.setMaskBit, Warp.updLane, Warp.setLane, SMap.get_set]
  by_cases hk : q.1 = k
  · subst hk
    simp only [if_true, bitAt_setBit, and_true]
    by_cases hj : j = i
    · subst hj; simp [hi]
    · simp [hj]
  · simp [hk]

theorem foldl_putMask (old : SMap Word) (lat n i : Nat) (hi : i < 32) (qs : List (Nat × Bool)) (w : Warp) :
    ∃ ls ms ps, qs.foldl (fun w q => w.putMask old lat n i q) w = { w with lanes := ls, mks := ms } ∧
      SMap.get Lane.dflt ls i = { w.lane i with pend := ps } ∧
      (∀ j, j ≠ i → SMap.get Lane.dflt ls j = w.lane j) ∧
      (∀ k j, bitAt (ms.get 0 k) j = if j = i then (qs.reverse.lookup k).getD (bitAt (w.mks.get 0 k) j) else bitAt (w.mks.get 0 k) j) := by
  induction qs generalizing w with
  | nil => exact ⟨w.lanes, w.mks, (w.lane i).pend, rfl, rfl, fun _ _ => rfl, fun k j => by simp⟩
  | cons q r ih =>
    obtain ⟨ls, ms, ps, h1, h2, h3, h4⟩ := ih (w.putMask old lat n i q)
    obtain ⟨p2, hp⟩ := Warp.putMask_lane w old lat n i q
    refine ⟨ls, ms, ps, ?_, ?_, ?_, ?_⟩
    · rw [List.foldl_cons, h1]; rfl
    · rw [h2, hp]
    · intro j hj; rw [h3 j hj, Warp.putMask_other _ _ _ _ _ _ _ (Ne.symm hj)]
    · intro k j
      rw [h4, Warp.putMask_mks _ _ _ _ _ _ hi, List.reverse_cons, List.lookup_append]
      by_cases hj : j = i
      · simp only [hj, true_and, if_true]
        cases r.reverse.lookup k with
        | some v => rfl
        | none =>
          by_cases hk : q.1 = k
          · obtain ⟨q1, q2⟩ := q; simp only at hk; subst hk; simp [List.lookup]
          · obtain ⟨q1, q2⟩ := q
            simp only at hk
            have : (k == q1) = false := by simpa using Ne.symm hk
            simp [hk, List.lookup, this]
      · simp [hj]

/-- Applying one plain result. -/
theorem Warp.applyRes_spec (old : SMap Word) (w : Warp) (len lat : Nat) (n : Stall) (i : Nat) (r : LaneRes) (hi : i < 32) (h : r.Plain) :
    ∃ ls ms ps, w.applyRes old len lat n.toNat (i, r) = { w with lanes := ls, mks := ms, stk := w.stk ||| BitVec.ofNat 32 r.flags } ∧
      SMap.get Lane.dflt ls i = { (w.lane i).finish len lat n.toNat r with pend := ps } ∧
      (∀ j, j ≠ i → SMap.get Lane.dflt ls j = w.lane j) ∧
      (∀ k j, bitAt (ms.get 0 k) j = if j = i then (r.mkb.reverse.lookup k).getD (bitAt (w.mks.get 0 k) j) else bitAt (w.mks.get 0 k) j) := by
  obtain ⟨ls, ms, ps, h1, h2, h3, h4⟩ := foldl_putMask old lat n.toNat i hi r.mkb (w.updLane i (fun l => l.finish len lat n.toNat r))
  refine ⟨ls, ms, ps, ?_, ?_, ?_, h4⟩
  · simp only [Warp.applyRes, h.1, h1]; rfl
  · rw [h2, Warp.lane_updLane_same]
  · intro j hj; rw [h3 j hj, Warp.lane_updLane, if_neg (Ne.symm hj)]

theorem Lane.Becomes.pend {l l' : Lane} {n : Stall} {len : Nat} {e : Effect} (h : l.Becomes l' n len e) (ps : List Pend) :
    l.Becomes { l' with pend := ps } n len e := by
  obtain ⟨h1, h2, h3, h4, h5, h6⟩ := h
  refine ⟨?_, h2, h3, h4, h5, h6⟩
  have := congrArg (fun x : Lane => { x with pend := ps }) h1
  exact this

theorem orFlags_or (a b : Nat) : BitVec.ofNat 32 (a ||| b) = BitVec.ofNat 32 a ||| BitVec.ofNat 32 b := by
  apply BitVec.eq_of_toNat_eq; simp

theorem foldl_or (l : List Nat) (a : Nat) : l.foldl (fun x y => x ||| y) a = a ||| l.foldl (fun x y => x ||| y) 0 := by
  induction l generalizing a with
  | nil => simp
  | cons b r ih => rw [List.foldl_cons, List.foldl_cons, ih, ih (0 ||| b), Nat.zero_or, Nat.or_assoc]

theorem orFlags_cons (a : Nat) (l : List Nat) : orFlags (a :: l) = a ||| orFlags l := by
  simp only [orFlags, List.foldl_cons]; rw [foldl_or, Nat.zero_or]

/-- Applying the plain results of several lanes. -/
theorem foldl_applyRes (old : SMap Word) (len lat : Nat) (n : Stall) (f : Nat → LaneRes) (is : List Nat) (hn : is.Nodup)
    (hi : ∀ i ∈ is, i < 32) (hp : ∀ i ∈ is, (f i).Plain) (w : Warp) :
    ∃ ls ms, (is.map (fun i => (i, f i))).foldl (fun v p => v.applyRes old len lat n.toNat p) w =
        { w with lanes := ls, mks := ms, stk := w.stk ||| BitVec.ofNat 32 (orFlags (is.map (fun i => (f i).flags))) } ∧
      (∀ j ∈ is, (w.lane j).Becomes (SMap.get Lane.dflt ls j) n len (f j).effect) ∧
      (∀ j, j ∉ is → SMap.get Lane.dflt ls j = w.lane j) ∧
      (∀ k j, bitAt (ms.get 0 k) j = if j ∈ is then ((f j).mkb.reverse.lookup k).getD (bitAt (w.mks.get 0 k) j)
        else bitAt (w.mks.get 0 k) j) := by
  induction is generalizing w with
  | nil => exact ⟨w.lanes, w.mks, by simp [orFlags], by simp, fun _ _ => rfl, by simp⟩
  | cons i r ih =>
    obtain ⟨l1, m1, ps, h1, h2, h3, h4⟩ := Warp.applyRes_spec old w len lat n i (f i) (hi i List.mem_cons_self) (hp i List.mem_cons_self)
    obtain ⟨ls, ms, g1, g2, g3, g4⟩ := ih (List.nodup_cons.mp hn).2 (fun j hj => hi j (List.mem_cons_of_mem _ hj))
      (fun j hj => hp j (List.mem_cons_of_mem _ hj)) (w.applyRes old len lat n.toNat (i, f i))
    have hir : i ∉ r := (List.nodup_cons.mp hn).1
    have hl : ∀ j, (w.applyRes old len lat n.toNat (i, f i)).lane j = SMap.get Lane.dflt l1 j := fun j => by rw [h1]; rfl
    refine ⟨ls, ms, ?_, ?_, ?_, ?_⟩
    · rw [List.map_cons, List.foldl_cons, g1, h1]
      simp only [List.map_cons, orFlags_cons, orFlags_or, BitVec.or_assoc]
    · intro j hj
      rcases List.mem_cons.mp hj with rfl | hj
      · rw [g3 j hir, hl, h2]
        exact (Lane.finish_becomes _ _ _ _ _ (hp j List.mem_cons_self)).pend ps
      · have hne : j ≠ i := fun h => hir (h ▸ hj)
        have := g2 j hj
        rw [hl, h3 j hne] at this
        exact this
    · intro j hj
      rw [g3 j (fun h => hj (List.mem_cons_of_mem _ h)), hl, h3 j (fun h => hj (h ▸ List.mem_cons_self))]
    · intro k j
      rw [g4]
      have hm : (w.applyRes old len lat n.toNat (i, f i)).mks = m1 := by rw [h1]
      rw [hm, h4]
      by_cases hji : j = i
      · subst hji; simp [hir]
      · simp [hji]

/-! ## The whole group -/

theorem Warp.settle_rest (w : Warp) :
    w.settle = { w with converged := w.settle.converged, spc := w.settle.spc, dq := w.settle.dq } := by
  have : ∃ c p q, w.settle = { w with converged := c, spc := p, dq := q } := by
    unfold Warp.settle
    split
    · split
      · exact ⟨_, _, _, rfl⟩
      · simp only
        split <;> exact ⟨_, _, _, rfl⟩
    · exact ⟨_, _, _, rfl⟩
  obtain ⟨c, p, q, h⟩ := this
  rw [h]

@[simp] theorem Warp.settle_lane (w : Warp) (i : Nat) : w.settle.lane i = w.lane i := by rw [Warp.settle_rest]; rfl
@[simp] theorem Warp.settle_lanes (w : Warp) : w.settle.lanes = w.lanes := by rw [Warp.settle_rest]
@[simp] theorem Warp.settle_mks (w : Warp) : w.settle.mks = w.mks := by rw [Warp.settle_rest]
@[simp] theorem Warp.settle_stk (w : Warp) : w.settle.stk = w.stk := by rw [Warp.settle_rest]

theorem Warp.live_lanes (w w' : Warp) (h : w'.lanes = w.lanes) : w'.live = w.live := by
  unfold Warp.live Warp.lane; rw [h]

@[simp] theorem Warp.settle_live (w : Warp) : w.settle.live = w.live := Warp.live_lanes _ _ (Warp.settle_lanes w)

theorem Warp.bitAt_live (w : Warp) (i : Nat) : bitAt w.live i = (decide (i < 32) && decide ((w.lane i).st = .live)) :=
  bitAt_maskOf _ _

theorem Warp.mem_live {w : Warp} {i : Nat} : i ∈ lanesOf w.live ↔ i < 32 ∧ (w.lane i).st = .live := by
  rw [mem_lanesOf, Warp.bitAt_live]; simp

theorem Warp.live_congr {w w' : Warp} (h : ∀ i < 32, ((w'.lane i).st = .live) = ((w.lane i).st = .live)) :
    lanesOf w'.live = lanesOf w.live := by
  unfold lanesOf laneList
  apply List.filter_congr
  intro i hi
  have hi := List.mem_range.mp hi
  rw [Warp.bitAt_live, Warp.bitAt_live]
  simp [h i hi]

theorem State.execLanes_nodup (s : State) : s.execLanes.Nodup := lanesOf_nodup _

theorem State.execLanes_lt {s : State} {i : Nat} (h : i ∈ s.execLanes) : i < 32 := (mem_lanesOf.mp h).1

theorem State.execLanes_live {s : State} {i : Nat} (h : i ∈ s.execLanes) : ((s.warp s.cur.warp).lane i).st = .live := by
  have := (mem_lanesOf.mp h).2
  rw [bitAt, BitVec.getLsbD_and] at this
  have h2 : bitAt (s.warp s.cur.warp).live i = true := (Bool.and_eq_true _ _ ▸ this).2
  rw [Warp.bitAt_live, Bool.and_eq_true] at h2
  exact of_decide_eq_true h2.2

theorem State.laneCheck_clear {s : State} {rs : View → List LRes} (h : s.ClearBy rs) (u : Nat × Nat) (reads : View → List LRes)
    (i : Nat) (hi : i ∈ s.execLanes) (hr : ∀ r ∈ reads (s.view i), r ∈ rs (s.view i)) : s.laneCheck u reads i = none := by
  obtain ⟨hg, hc⟩ := h
  unfold State.laneCheck
  simp only [hg]
  split
  · rename_i hh
    simp only [Bool.and_eq_true, List.any_eq_true] at hh
    obtain ⟨h1, r, h2, h3⟩ := hh
    have := hc h1 i hi r (hr r h2)
    simp only [View.ln] at h3
    rw [show (s.view i).w = s.warp s.cur.warp from rfl, show (s.view i).i = i from rfl, this] at h3
    cases h3
  · rfl

theorem trapsOf_plain (w : Warp) (u : Nat × Nat) (g : Option Glitch) (is : List Nat) (f : Nat → LaneRes)
    (h : ∀ i ∈ is, (f i).trap = none) : trapsOf w u g (is.map (fun i => (i, f i))) = [] := by
  unfold trapsOf
  rw [List.filterMap_eq_nil_iff]
  intro p hp
  obtain ⟨i, hi, rfl⟩ := List.mem_map.mp hp
  simp [h i hi]

theorem State.wake_calm (s : State) (w : Nat) (h : ∀ i ∈ lanesOf (s.warp w).live, ((s.warp w).lane i).wait = .none) :
    s.wake w = s := by
  unfold State.wake
  rw [if_pos]
  simpa using h

/-- Lanes that wait for nothing complete nothing, and stall no slot. -/
theorem State.stir_calm (s : State) (w : Nat) (h : ∀ i ∈ lanesOf (s.warp w).live, ((s.warp w).lane i).wait = .none) :
    s.stir w = s := by
  unfold State.stir State.stallIf
  rw [State.wake_calm s w h]
  dsimp only
  rw [if_neg]
  simp only [Warp.lanesLong, Bool.and_eq_true, List.any_eq_true, not_and]
  rintro - ⟨i, hi, hw⟩
  rw [h i hi] at hw
  simp at hw

/-- Plain results of a group: the effects, and nothing else. -/
theorem State.finishLanes_plain (s : State) (len lat : Nat) (n : Stall) (u : Nat × Nat) (f : Nat → LaneRes)
    (hp : ∀ i ∈ s.execLanes, (f i).Plain) (hm : (∀ i ∈ s.execLanes, (f i).mkb = []) ∨ s.Calm) :
    let t := s.finishLanes s.cur.warp len lat n.toNat u (s.execLanes.map (fun i => (i, f i)))
    s.LanesOnly t ∧
    (∀ j ∈ s.execLanes, ((s.warp s.cur.warp).lane j).Becomes ((t.warp s.cur.warp).lane j) n len (f j).effect) ∧
    (∀ k j, bitAt ((t.warp s.cur.warp).mks.get 0 k) j =
      if j ∈ s.execLanes then ((f j).effect.mkb.lookup k).getD (bitAt ((s.warp s.cur.warp).mks.get 0 k) j)
      else bitAt ((s.warp s.cur.warp).mks.get 0 k) j) ∧
    (t.warp s.cur.warp).stk = (s.warp s.cur.warp).stk ||| BitVec.ofNat 32 (orFlags (s.execLanes.map (fun j => (f j).effect.flags))) := by
  obtain ⟨ls, ms, h1, h2, h3, h4⟩ := foldl_applyRes (s.warp s.cur.warp).mks len lat n f s.execLanes s.execLanes_nodup
    (fun i hi => State.execLanes_lt hi) hp (s.warp s.cur.warp)
  have hst : ∀ i < 32, ((SMap.get Lane.dflt ls i).st = .live) = (((s.warp s.cur.warp).lane i).st = .live) := by
    intro i _
    by_cases hi : i ∈ s.execLanes
    · rw [(h2 i hi).rest]
    · rw [h3 i hi]
  have ht : s.finishLanes s.cur.warp len lat n.toNat u (s.execLanes.map (fun i => (i, f i))) =
      { s.updWarp s.cur.warp (fun v =>
          ((s.execLanes.map (fun i => (i, f i))).foldl (fun v' p => v'.applyRes v.mks len lat n.toNat p) v).settle) with glitch := none } := by
    unfold State.finishLanes
    simp only
    split
    · rename_i hs
      rw [trapsOf_plain _ _ _ _ _ (fun i hi => (hp i hi).1)]
      simp only [State.takeTraps]
      rw [State.stir_calm]
      rcases hm with hm | hm
      · exfalso
        rw [List.any_eq_true] at hs
        obtain ⟨p, hp1, hp2⟩ := hs
        obtain ⟨i, hi, rfl⟩ := List.mem_map.mp hp1
        obtain ⟨a1, -, a3, a4, -⟩ := hp i hi
        simp [LaneRes.stirs, a1, a3, a4, hm i hi] at hp2
      · intro i hi
        simp only [State.warp_updWarp_same, Warp.settle_live, Warp.settle_lane] at hi ⊢
        rw [h1] at hi ⊢
        change (SMap.get Lane.dflt ls i).wait = .none
        by_cases hx : i ∈ s.execLanes
        · rw [(h2 i hx).rest]
        · rw [h3 i hx]
          apply hm
          rw [← Warp.live_congr (w := s.warp s.cur.warp) (w' := { s.warp s.cur.warp with lanes := ls }) hst]
          exact hi
    · rfl
  have hw : (s.finishLanes s.cur.warp len lat n.toNat u (s.execLanes.map (fun i => (i, f i)))).warp s.cur.warp =
      ({ s.warp s.cur.warp with
          lanes := ls, mks := ms, stk := (s.warp s.cur.warp).stk ||| BitVec.ofNat 32 (orFlags (s.execLanes.map (fun i => (f i).flags))) } : Warp).settle := by
    rw [ht, ← h1]
    exact (State.warp_glitch _ _ _).trans (State.warp_updWarp_same s s.cur.warp _)
  have ho : ∀ k, k ≠ s.cur.warp → (s.finishLanes s.cur.warp len lat n.toNat u (s.execLanes.map (fun i => (i, f i)))).warp k =
      s.warp k := by
    intro k hk
    rw [ht]
    exact (State.warp_glitch _ _ _).trans ((State.warp_updWarp s _ k _).trans (if_neg (Ne.symm hk)))
  have hr : s.finishLanes s.cur.warp len lat n.toNat u (s.execLanes.map (fun i => (i, f i))) =
      { s with warps := (s.finishLanes s.cur.warp len lat n.toNat u (s.execLanes.map (fun i => (i, f i)))).warps,
               glitch := none } := by
    rw [ht]; rfl
  generalize s.finishLanes s.cur.warp len lat n.toNat u (s.execLanes.map (fun i => (i, f i))) = t at hw ho hr ⊢
  refine ⟨⟨hr, ho, ?_, ?_⟩, ?_, ?_, ?_⟩
  · rw [hw, Warp.settle_rest]
  · intro i hi; rw [hw, Warp.settle_lane]; exact h3 i hi
  · intro j hj; rw [hw, Warp.settle_lane]; exact h2 j hj
  · intro k j; rw [hw, Warp.settle_mks]; exact h4 k j
  · rw [hw, Warp.settle_stk]; rfl

/-- An instruction that acts in lanes alone completes with its effects. -/
theorem laneOp_gives {s : State} {i : Instr} {n : Stall} {len lat : Nat} {u : Nat × Nat} {reads : View → List LRes}
    {f : View → LaneRes} {rs : View → List LRes} (hx : exec i s = laneOp n len lat u reads f s) (hc : s.ClearBy rs)
    (hr : ∀ j ∈ s.execLanes, ∀ r ∈ reads (s.view j), r ∈ rs (s.view j)) (hp : ∀ j ∈ s.execLanes, (f (s.view j)).Plain)
    (hm : (∀ j ∈ s.execLanes, (f (s.view j)).mkb = []) ∨ s.Calm) :
    s.Gives i n len (fun v => (f v).effect) := by
  have hl : laneOp n len lat u reads f s =
      .next (s.finishLanes s.cur.warp len lat n.toNat u (s.execLanes.map (fun j => (j, f (s.view j))))) := by
    unfold laneOp
    congr 2
    apply List.map_congr_left
    intro j hj
    rw [State.laneCheck_clear hc u reads j hj (hr j hj)]
  exact ⟨_, hx.trans hl, State.finishLanes_plain s len lat n u (fun j => f (s.view j)) hp hm⟩

theorem State.Gives.congr {s : State} {i : Instr} {n : Stall} {len : Nat} {e e' : View → Effect}
    (h : s.Gives i n len e) (he : ∀ j ∈ s.execLanes, e (s.view j) = e' (s.view j)) : s.Gives i n len e' := by
  obtain ⟨t, h1, h2, h3, h4, h5⟩ := h
  refine ⟨t, h1, h2, fun j hj => he j hj ▸ h3 j hj, fun k j => ?_, ?_⟩
  · rw [h4]
    by_cases hj : j ∈ s.execLanes
    · simp [hj, he j hj]
    · simp [hj]
  · rw [h5]
    congr 3
    exact List.map_congr_left (fun j hj => by rw [he j hj])

theorem LaneRes.plain_val (d : Dst) (v : Word) : (LaneRes.val d v).Plain := by simp [LaneRes.Plain, LaneRes.val]

@[simp] theorem LaneRes.effect_val (d : Dst) (v : Word) : (LaneRes.val d v).effect = result d v := by
  cases d <;> simp [LaneRes.effect, LaneRes.val, result, wrO, wrM, wrX]

/-- An instruction with one source and one result. -/
theorem laneOp1_gives {s : State} {i : Instr} {n : Stall} {lat : Nat} {u : Nat × Nat} {d : Dst} {a : Src} {f : Word → Word}
    {rs : List LRes} (g : Word → Word) (hc : s.Clear rs) (hr : ∀ r ∈ srcRes a, r ∈ rs)
    (hx : exec i s = laneOp1 n lat u d a f s) (hg : ∀ x, f x = g x) : s.Gives1 n d a i g :=
  (laneOp_gives hx hc (fun _ _ => hr) (fun _ _ => LaneRes.plain_val _ _) (Or.inl fun _ _ => rfl)).congr
    (fun _ _ => by simp only [LaneRes.effect_val, hg])

/-- An instruction with two sources and one result. -/
theorem laneOp2_gives {s : State} {i : Instr} {n : Stall} {lat : Nat} {u : Nat × Nat} {d : Dst} {a b : Src}
    {f : Word → Word → Word} {rs : List LRes} (g : Word → Word → Word) (hc : s.Clear rs)
    (hr : ∀ r ∈ srcRes a ++ srcRes b, r ∈ rs) (hx : exec i s = laneOp2 n lat u d a b f s) (hg : ∀ x y, f x y = g x y) :
    s.Gives2 n d a b i g :=
  (laneOp_gives hx hc (fun _ _ => hr) (fun _ _ => LaneRes.plain_val _ _) (Or.inl fun _ _ => rfl)).congr
    (fun _ _ => by simp only [LaneRes.effect_val, hg])

/-- An instruction with three sources and one result. -/
theorem laneOp3_gives {s : State} {i : Instr} {n : Stall} {lat : Nat} {u : Nat × Nat} {d : Dst} {a b c : Src}
    {f : Word → Word → Word → Word} {rs : List LRes} (g : Word → Word → Word → Word) (hc : s.Clear rs)
    (hr : ∀ r ∈ srcRes a ++ srcRes b ++ srcRes c, r ∈ rs) (hx : exec i s = laneOp3 n lat u d a b c f s)
    (hg : ∀ x y z, f x y z = g x y z) :
    s.Gives i n 4 (fun v => result d (g (v.src 0 a) (v.src 1 b) (v.src 2 c))) :=
  (laneOp_gives hx hc (fun _ _ => hr) (fun _ _ => LaneRes.plain_val _ _) (Or.inl fun _ _ => rfl)).congr
    (fun _ _ => by simp only [LaneRes.effect_val, hg])

theorem LaneRes.plain_flagged (d : Dst) (v : Flagged Word) : (LaneRes.flagged d v).Plain := by simp [LaneRes.Plain, LaneRes.flagged]

@[simp] theorem LaneRes.effect_flagged (d : Dst) (v : Flagged Word) : (LaneRes.flagged d v).effect = Machine.flagged d v := by
  cases d <;> simp [LaneRes.effect, LaneRes.flagged, Machine.flagged, result, wrO, wrM, wrX]

/-- An instruction with one source and a result that raises flags. -/
theorem flagOp1_gives {s : State} {i : Instr} {n : Stall} {lat : Nat} {u : Nat × Nat} {d : Dst} {a : Src}
    {f : Bool → Word → Flagged Word} {rs : List LRes} (hc : s.Clear rs) (hr : ∀ r ∈ srcRes a, r ∈ rs)
    (hx : exec i s = flagOp1 n lat u d a f s) :
    s.Gives i n 4 (fun v => flagged d (f (bitAt (s.warp s.cur.warp).trec.flags 0) (v.src 0 a))) :=
  (laneOp_gives (f := fun v => .flagged d (f (bitAt v.w.trec.flags 0) (v.src 0 a))) hx hc (fun _ _ => hr)
    (fun _ _ => LaneRes.plain_flagged _ _) (Or.inl fun _ _ => rfl)).congr
    (fun _ _ => by simp only [LaneRes.effect_flagged]; rfl)

/-- An instruction with two sources and a result that raises flags. -/
theorem flagOp2_gives {s : State} {i : Instr} {n : Stall} {lat : Nat} {u : Nat × Nat} {d : Dst} {a b : Src}
    {f : Bool → Word → Word → Flagged Word} {rs : List LRes} (hc : s.Clear rs) (hr : ∀ r ∈ srcRes a ++ srcRes b, r ∈ rs)
    (hx : exec i s = flagOp2 n lat u d a b f s) :
    s.Gives i n 4 (fun v => flagged d (f (bitAt (s.warp s.cur.warp).trec.flags 0) (v.src 0 a) (v.src 1 b))) :=
  (laneOp_gives (f := fun v => .flagged d (f (bitAt v.w.trec.flags 0) (v.src 0 a) (v.src 1 b))) hx hc (fun _ _ => hr)
    (fun _ _ => LaneRes.plain_flagged _ _) (Or.inl fun _ _ => rfl)).congr
    (fun _ _ => by simp only [LaneRes.effect_flagged]; rfl)

theorem bit_ext {x y : Word} (h : ∀ i < 32, bitAt x i = bitAt y i) : x = y := BitVec.eq_of_getLsbD_eq h

end Sys2Proof.Machine
end

