-- ==== Sys2Proof/Laws/Memory.lean ====
section
/-! SUPPORT. Every memory operation keeps the bytes of the stacks in canonical form: most leave them alone, the others write
them through the one canonical write. -/

namespace Sys2Proof.Machine

/-! ## Rows and bytes of the stacks -/

theorem copyRow_wf {m : List Host.Cell} (h : Memory.wf m) (src dst : Place) (n : Nat) : Memory.wf (copyRow m src dst n) := by
  induction n generalizing m with
  | zero => exact h
  | succ n ih => exact ih (cellSet_wf h _ _)

theorem Mem.stackSet_wf {m : Mem} (h : Memory.wf m.bytes) (o : Nat) (v : Byte) : Memory.wf (m.stackSet o v).bytes := by
  unfold Mem.stackSet
  split
  · exact cellSet_wf h _ _
  · dsimp only
    split <;> exact cellSet_wf h _ _

theorem Mem.moveRow_wf {m : Mem} (h : Memory.wf m.bytes) (src dst : Place) : Memory.wf (m.moveRow src dst).bytes := by
  unfold Mem.moveRow
  generalize 1024 = n
  exact copyRow_wf h src dst n

theorem Mem.writeBackSlot_wf {m : Mem} (h : Memory.wf m.bytes) (stack b f : Nat) (e : SlotEnt) :
    Memory.wf (m.writeBackSlot stack b f e).bytes := by
  unfold Mem.writeBackSlot
  dsimp only
  split
  · dsimp only
    exact Mem.moveRow_wf (m := m.bankOp stack b) h _ _
  · exact h

/-- A fold of operations that each keep the form keeps it. -/
theorem Mem.foldl_wf {α : Type} (f : Mem → α → Mem) (hf : ∀ m a, Memory.wf m.bytes → Memory.wf (f m a).bytes) (l : List α) {m : Mem}
    (h : Memory.wf m.bytes) : Memory.wf (l.foldl f m).bytes := by
  induction l generalizing m with
  | nil => exact h
  | cons a r ih => exact ih (hf m a h)

theorem copyUp_wf {m : Mem} (h : Memory.wf m.bytes) (src dst n : Nat) : Memory.wf (copyUp m src dst n).bytes := by
  induction n generalizing m with
  | zero => exact h
  | succ n ih => exact ih (Mem.stackSet_wf h _ _)

/-- A fold of canonical writes. -/
theorem cells_foldl_wf {α : Type} (k : α → Nat) (v : α → Byte) (l : List α) {m : List Host.Cell} (h : Memory.wf m) :
    Memory.wf (l.foldl (fun b x => cellSet b (k x) (v x)) m) := by
  induction l generalizing m with
  | nil => exact h
  | cons a r ih => exact ih (cellSet_wf h _ _)

theorem Mem.loseRow_wf {m : Mem} (h : Memory.wf m.bytes) (p : Place) (seed : Nat) : Memory.wf (m.loseRow p seed).bytes := by
  unfold Mem.loseRow
  generalize List.range 1024 = l
  exact cells_foldl_wf (fun k => ({ p with col := k } : Place).off) (fun k => (Config.freeWord64 (1024 * seed + k)).setWidth 8) l h

/-! ## Lines, messages, granules and requests leave the bytes of the stacks alone -/

@[simp] theorem Mem.bump_bytes (m : Mem) (d : Nat) : (m.bump d).bytes = m.bytes := by unfold Mem.bump; split <;> rfl
@[simp] theorem Mem.setLine_bytes (m : Mem) (d line : Nat) (l : L2Line) : (m.setLine d line l).bytes = m.bytes := rfl
@[simp] theorem Mem.setGranule_bytes (m : Mem) (a : Nat) (g : Granule) : (m.setGranule a g).bytes = m.bytes := rfl
@[simp] theorem Mem.unsend_bytes (m : Mem) (src line : Nat) (k : BitVec 128) : (m.unsend src line k).bytes = m.bytes := rfl
@[simp] theorem Mem.setChan_bytes (m : Mem) (a b : Nat) (c : Chan) : (m.setChan a b c).bytes = m.bytes := rfl
@[simp] theorem Mem.toChan_bytes (m : Mem) (a : Nat) (r : ChanReq) : (m.toChan a r).bytes = m.bytes := rfl
@[simp] theorem Mem.pass_bytes (m : Mem) (r : ArbReq) : (m.pass r).bytes = m.bytes := rfl
@[simp] theorem Mem.writeGranules_bytes (m : Mem) (line : Nat) (k : BitVec 128) (x : BitVec 1024) (f : Granule → Granule) :
    (m.writeGranules line k x f).bytes = m.bytes := rfl
@[simp] theorem Mem.setWalks_bytes (m : Mem) (d : Nat) (l : List Walk) : (m.setWalks d l).bytes = m.bytes := by
  unfold Mem.setWalks; split <;> rfl
@[simp] theorem Mem.request_bytes (m : Mem) (q : Master) (a n : Nat) (w : Bool) : (m.request q a n w).bytes = m.bytes := by
  unfold Mem.request; dsimp only; split <;> rfl
@[simp] theorem Mem.publish_bytes (m : Mem) (a : Agent) : (m.publish a).bytes = m.bytes := rfl
@[simp] theorem Mem.publishAll_bytes (m : Mem) (lid : Nat) : (m.publishAll lid).bytes = m.bytes := rfl
@[simp] theorem Mem.reveal_bytes (m : Mem) (line : Nat) (k : BitVec 128) : (m.reveal line k).bytes = m.bytes := rfl
@[simp] theorem Mem.poison_bytes (m : Mem) (o : Nat) : (m.poison o).bytes = m.bytes := rfl
@[simp] theorem Mem.clear_bytes (m : Mem) (p : Upset → Bool) : (m.clear p).bytes = m.bytes := by unfold Mem.clear; split <;> rfl
@[simp] theorem Mem.bring_bytes (m : Mem) (d : Nat) (g : Msg) : (m.bring d g).bytes = m.bytes := by unfold Mem.bring; split <;> rfl
@[simp] theorem Mem.hide_bytes (m : Mem) (d line : Nat) (x : Wrote) : (m.hide d line x).bytes = m.bytes := by
  unfold Mem.hide
  dsimp only
  repeat' split
  all_goals rfl
@[simp] theorem Mem.retagHome_bytes (m : Mem) (line tid part : Nat) : (m.retagHome line tid part).bytes = m.bytes := by
  unfold Mem.retagHome
  repeat' split
  all_goals rfl

/-- A fold of operations that each leave the bytes alone leaves them alone. -/
theorem Mem.foldl_bytes {α : Type} (f : Mem → α → Mem) (hf : ∀ m a, (f m a).bytes = m.bytes) (l : List α) (m : Mem) :
    (l.foldl f m).bytes = m.bytes := by
  induction l generalizing m with
  | nil => rfl
  | cons a r ih => exact (ih _).trans (hf m a)

@[simp] theorem Mem.poisonFrom_bytes (m : Mem) (d line : Nat) (k : BitVec 128) : (m.poisonFrom d line k).bytes = m.bytes := by
  unfold Mem.poisonFrom
  split
  · rfl
  · exact Mem.foldl_bytes _ (fun m k => by split <;> rfl) _ _

@[simp] theorem Mem.takeErrors_bytes (m1 m : Mem) (src dst : Nat) : (m1.takeErrors m src dst).bytes = m1.bytes := by
  unfold Mem.takeErrors
  exact (Mem.foldl_bytes _ (fun m k => Mem.poison_bytes m (dst + 32 * k)) _ _).trans rfl

theorem Mem.copyPage_wf {m : Mem} (h : Memory.wf m.bytes) (src dst : Nat) : Memory.wf (m.copyPage src dst).bytes := by
  unfold Mem.copyPage
  dsimp only
  generalize 65536 = n
  split
  · exact copyUp_wf h _ _ _
  · rw [Mem.takeErrors_bytes]; exact copyUp_wf h _ _ _

/-! ## Write-back, eviction and room -/

theorem Mem.writeBack_wf {m : Mem} (h : Memory.wf m.bytes) (line : Nat) : Memory.wf (m.writeBack line).bytes := by
  unfold Mem.writeBack
  dsimp only
  split
  · split
    · exact h
    · rw [Mem.request_bytes, Mem.setLine_bytes]
      refine Mem.foldl_wf _ (fun m k hm => ?_) _ (by rw [Mem.poisonFrom_bytes]; exact h)
      split
      · exact Mem.stackSet_wf hm _ _
      · exact hm
  · exact h

theorem Mem.evict_wf {m : Mem} (h : Memory.wf m.bytes) (d line : Nat) : Memory.wf (m.evict d line).bytes := by
  unfold Mem.evict
  split
  · dsimp only
    rw [Mem.clear_bytes]
    exact Mem.writeBack_wf h _
  · dsimp only
    rw [Mem.clear_bytes]
    exact h

theorem Mem.roomFor_wf {m : Mem} (h : Memory.wf m.bytes) (d line : Nat) : Memory.wf (m.roomFor d line).bytes := by
  unfold Mem.roomFor
  dsimp only
  repeat' split
  all_goals first | exact h | exact Mem.evict_wf h _ _

theorem Mem.writeThrough_wf {m : Mem} (h : Memory.wf m.bytes) (a n : Nat) : Memory.wf (m.writeThrough a n).bytes := by
  unfold Mem.writeThrough
  dsimp only
  split
  · split
    · exact h
    · rw [Mem.request_bytes, Mem.setLine_bytes]
      exact Mem.foldl_wf _ (fun m k hm => Mem.stackSet_wf hm _ _) _ (by rw [Mem.poisonFrom_bytes]; exact h)
  · exact h

/-! ## Lines and messages -/

theorem Mem.fillHome_wf {m : Mem} (h : Memory.wf m.bytes) (q : Master) (line : Nat) (w : Bool) :
    Memory.wf (m.fillHome q line w).bytes := by
  unfold Mem.fillHome
  dsimp only
  split
  · exact h
  · rw [Mem.setLine_bytes, Mem.clear_bytes]
    exact Mem.roomFor_wf (by rw [Mem.request_bytes]; exact h) _ _

theorem Mem.writeHome_wf {m : Mem} (h : Memory.wf m.bytes) (q : Master) (line : Nat) (k : BitVec 128) (x : BitVec 1024) (clk : Nat) :
    Memory.wf (m.writeHome q line k x clk).bytes := by
  unfold Mem.writeHome
  dsimp only
  split <;> exact Mem.fillHome_wf h _ _ _

theorem Mem.arrive_wf {m : Mem} (h : Memory.wf m.bytes) (g : Msg) : Memory.wf (m.arrive g).bytes := by
  unfold Mem.arrive
  dsimp only
  split
  · split
    · rw [Mem.bring_bytes]; exact h
    · exact h
  · rw [Mem.bring_bytes, Mem.unsend_bytes]
    split
    · exact h
    · exact Mem.writeHome_wf (m := m.writeGranules _ _ _ _) h _ _ _ _ _

theorem Mem.applyList_wf {m : Mem} (h : Memory.wf m.bytes) (l : List Msg) : Memory.wf (m.applyList l).bytes := by
  unfold Mem.applyList
  refine Mem.foldl_wf _ (fun m g hm => ?_) _ h
  split
  · exact Mem.arrive_wf (m := { m with strait := m.strait.erase g }) hm _
  · exact hm

theorem Mem.applyAll_wf {m : Mem} (h : Memory.wf m.bytes) (p : Msg → Bool) : Memory.wf (m.applyAll p).bytes := Mem.applyList_wf h _
theorem Mem.drain_wf {m : Mem} (h : Memory.wf m.bytes) (src k : Nat) : Memory.wf (m.drain src k).bytes := Mem.applyAll_wf h _
theorem Mem.arriveAt_wf {m : Mem} (h : Memory.wf m.bytes) (i : Nat) : Memory.wf (m.arriveAt i).bytes := Mem.applyList_wf h _

theorem Mem.drainLine_wf {m : Mem} (h : Memory.wf m.bytes) (src line : Nat) : Memory.wf (m.drainLine src line).bytes := by
  unfold Mem.drainLine
  dsimp only
  split
  · exact Mem.applyAll_wf (Mem.drain_wf h _ _) _
  · exact Mem.applyList_wf h _

theorem Mem.claim_wf {m : Mem} (h : Memory.wf m.bytes) (a n : Nat) : Memory.wf (m.claim a n).bytes :=
  Mem.foldl_wf _ (fun _ _ hm => Mem.drainLine_wf (Mem.drainLine_wf hm _ _) _ _) _ h

theorem Mem.fetch_wf {m : Mem} (h : Memory.wf m.bytes) (q : Master) (line : Nat) (w : Bool) : Memory.wf (m.fetch q line w).bytes := by
  unfold Mem.fetch
  dsimp only
  split
  · exact Mem.fillHome_wf h _ _ _
  · split
    · exact h
    · rw [Mem.setLine_bytes, Mem.clear_bytes]
      refine Mem.roomFor_wf (Mem.drain_wf ?_ _ _) _ _
      split
      · exact h
      · rw [Mem.request_bytes]; exact h

theorem Mem.l2In_wf {m : Mem} (h : Memory.wf m.bytes) (q : Master) (line : Nat) (w : Bool) : Memory.wf (m.l2In q line w).bytes := by
  unfold Mem.l2In
  split
  · exact h
  · exact Mem.fetch_wf h _ _ _

theorem Mem.put_wf {m : Mem} (h : Memory.wf m.bytes) (q : Master) (line : Nat) (k : BitVec 128) (x : BitVec 1024) (r : Nat) :
    Memory.wf (m.put q line k x r).bytes := by
  have h1 : ∀ (held : BitVec 128) (f : Granule → Granule),
      Memory.wf (if held = 0 then m else (if q.die = homeOf (128 * line) then m else m.drainLine q.die line).writeGranules line held x f).bytes := by
    intro held f
    split
    · exact h
    · rw [Mem.writeGranules_bytes]
      split
      · exact h
      · exact Mem.drainLine_wf h _ _
  have h2 := h1 (m.heldMask line &&& k) (fun g => (g.stamp q.die (m.epoch q.die)).retag q.tid q.part)
  unfold Mem.put
  dsimp only
  generalize (if m.heldMask line &&& k = 0 then m
    else (if q.die = homeOf (128 * line) then m else m.drainLine q.die line).writeGranules line (m.heldMask line &&& k) x
      (fun g => (g.stamp q.die (m.epoch q.die)).retag q.tid q.part)) = m1 at h2 ⊢
  split
  · exact h2
  · have h3 : ∀ (clk : Nat) (rest : BitVec 128) (l' : L2Line → L2Line), Memory.wf (if q.die = homeOf (128 * line) then m1.writeHome q line rest x clk
        else match m1.line? q.die line with
          | some l => m1.setLine q.die line (l' l)
          | none => m1).bytes := by
      intro clk rest l'
      split
      · exact Mem.writeHome_wf h2 _ _ _ _ _
      · split <;> exact h2
    split
    · exact h3 _ _ _
    · refine Mem.drainLine_wf ?_ _ _; exact h3 _ _ _

theorem Mem.putN_wf {m : Mem} (h : Memory.wf m.bytes) (q : Master) (a n v : Nat) : Memory.wf (m.putN q a n v).bytes :=
  Mem.put_wf h _ _ _ _ _

theorem Mem.putBytes_wf {m : Mem} (h : Memory.wf m.bytes) (d a : Nat) (l : List Byte) : Memory.wf (m.putBytes d a l).bytes := by
  induction l generalizing m a with
  | nil => exact h
  | cons b r ih =>
    unfold Mem.putBytes
    apply ih
    rw [Mem.reveal_bytes]
    exact Mem.putN_wf h _ _ _ _

theorem Mem.bankRead_wf {m : Mem} (h : Memory.wf m.bytes) (d a n : Nat) : Memory.wf (m.bankRead d a n).1.bytes := by
  unfold Mem.bankRead
  apply Mem.writeThrough_wf
  split
  · exact h
  · exact Mem.drainLine_wf h _ _

theorem Mem.bankWrite_wf {m : Mem} (h : Memory.wf m.bytes) (q : Master) (a n v : Nat) : Memory.wf (m.bankWrite q a n v).bytes := by
  have h0 : Memory.wf (if q.die = homeOf a then m else m.drainLine q.die (a / 128)).bytes := by
    split
    · exact h
    · exact Mem.drainLine_wf h _ _
  have cells : ∀ (m1 : Mem) (rest : BitVec 128) (data : BitVec 1024), Memory.wf m1.bytes →
      Memory.wf ((List.range n).foldl (fun m j =>
        if bitAt rest (a % 128 + j) then m.stackSet (a + j) (lineGet data (a % 128 + j)) else m) m1).bytes := by
    intro m1 rest data h1
    refine Mem.foldl_wf _ (fun m j hm => ?_) _ h1
    split
    · exact Mem.stackSet_wf hm _ _
    · exact hm
  unfold Mem.bankWrite
  dsimp only
  generalize (if q.die = homeOf a then m else m.drainLine q.die (a / 128)) = m0 at h0 ⊢
  split
  · exact h0
  · have h2 := cells (m0.writeGranules (a / 128) (m0.heldMask (a / 128) &&& runMask (a % 128) n) (runData (a % 128) (v % 2 ^ (8 * n)))
      (fun g => (g.stamp q.die (m0.epoch q.die)).retag q.tid q.part)) (runMask (a % 128) n &&& ~~~(m0.heldMask (a / 128) &&& runMask (a % 128) n))
      (runData (a % 128) (v % 2 ^ (8 * n))) h0
    generalize (List.range n).foldl _ _ = m2 at h2 ⊢
    have h3 : ∀ (l' : L2Line → L2Line) (k : Nat) (c : SMap Nat), Memory.wf (match m2.line? (homeOf a) (a / 128) with
        | some l => m2.setLine (homeOf a) (a / 128) (l' l)
        | none => if k = 0 then m2 else { m2 with lineClk := c }).bytes := by
      intro l' k c
      split
      · exact h2
      · split <;> exact h2
    split
    · split
      · exact h3 _ _ _
      · refine Mem.drainLine_wf ?_ _ _; exact h3 _ _ _
    · split
      · rw [Mem.setLine_bytes, Mem.unsend_bytes]; exact h3 _ _ _
      · rw [Mem.unsend_bytes]; exact h3 _ _ _

/-! ## Granules, acquires and fences -/

theorem Mem.giveUp_wf {m : Mem} (h : Memory.wf m.bytes) (a : Nat) : Memory.wf (m.giveUp a).bytes := by
  unfold Mem.giveUp
  split
  · exact h
  · rename_i g _
    dsimp only
    rw [Mem.unsend_bytes]
    dsimp only
    have h1 := Mem.writeHome_wf (Mem.drain_wf (Mem.drain_wf (m := { m with granules := m.granules.del (a / 8) }) h 0 g.clk0) 1 g.clk1)
      { syncMaster (homeOf a) with tid := g.tid, part := g.part } (a / 128) (runMask (a % 128 / 8 * 8) 8)
      (runData (a % 128 / 8 * 8) g.val.toNat) (if homeOf a = 0 then g.clk0 else g.clk1)
    generalize Mem.writeHome _ _ _ _ _ _ = m1 at h1 ⊢
    split <;> exact h1

theorem Mem.grab_wf {m : Mem} (h : Memory.wf m.bytes) (a stamp tid part : Nat) : Memory.wf (m.grab a stamp tid part).bytes := by
  unfold Mem.grab
  split
  · exact h
  · dsimp only
    rw [Mem.setGranule_bytes]
    have h0 : ∀ (b : Bool) (m : Mem), Memory.wf m.bytes → ∀ d, Memory.wf (if b = true then m.drainLine d (a / 128) else m).bytes := by
      intro b m h d
      split
      · exact Mem.drainLine_wf h _ _
      · exact h
    have h1 := h0 (m.strait.any (fun g => decide (g.src = 1) && decide (g.line = a / 128) && !decide (g.rec_ = 0))) _
      (h0 (m.strait.any (fun g => decide (g.src = 0) && decide (g.line = a / 128) && !decide (g.rec_ = 0))) m h 0) 1
    generalize (if m.strait.any (fun g => decide (g.src = 1) && decide (g.line = a / 128) && !decide (g.rec_ = 0)) = true then _ else _) = m1
      at h1 ⊢
    split
    · exact h1
    · rw [Mem.clear_bytes]; exact h1

theorem Mem.acquireAt_wf {m : Mem} (h : Memory.wf m.bytes) (e a : Nat) : Memory.wf (m.acquireAt e a).bytes := by
  unfold Mem.acquireAt
  split
  · exact Mem.drain_wf h _ _
  · exact h

theorem Mem.acquireSeen_wf {m : Mem} (h : Memory.wf m.bytes) (e : Nat) : Memory.wf (m.acquireSeen e).bytes := Mem.drain_wf h _ _

theorem Mem.fenceSc_wf {m : Mem} (h : Memory.wf m.bytes) (d : Nat) : Memory.wf (m.fenceSc d).bytes := by
  have h1 (n : Nat) := Mem.drain_wf (m := m.bump d) (by rw [Mem.bump_bytes]; exact h) (1 - d) n
  unfold Mem.fenceSc
  dsimp only
  split <;> exact h1 _

theorem Mem.atomic_wf {m : Mem} (h : Memory.wf m.bytes) (d a stamp : Nat) (op : AtomOp) (b c : Word64) (acq : Bool) (tid part : Nat) :
    Memory.wf (m.atomic d a stamp op b c acq tid part).1.bytes := by
  have h1 : Memory.wf ((if homeOf a = d then m else m.drainLine d (a / 128)).grab a stamp tid part).bytes := by
    apply Mem.grab_wf
    split
    · exact h
    · exact Mem.drainLine_wf h _ _
  have h2 : Memory.wf (if acq then ((if homeOf a = d then m else m.drainLine d (a / 128)).grab a stamp tid part).acquireAt d a
      else (if homeOf a = d then m else m.drainLine d (a / 128)).grab a stamp tid part).bytes := by
    split
    · exact Mem.acquireAt_wf h1 _ _
    · exact h1
  unfold Mem.atomic
  dsimp only
  split
  · exact h2
  · split
    · rw [Mem.retagHome_bytes, Mem.setGranule_bytes]; exact h2
    · exact h2

theorem Mem.place_wf {m : Mem} (h : Memory.wf m.bytes) (d a : Nat) (l : List Byte) : Memory.wf (m.place d a l).bytes := by
  induction l generalizing m a with
  | nil => exact h
  | cons b r ih =>
    unfold Mem.place
    apply ih
    split
    · exact Mem.stackSet_wf h _ _
    · exact Mem.putN_wf h _ _ _ _

/-! ## Scratchpads -/

theorem keptBytes_wf (tiles : SMap Tile) (wins : List Win) {b : List Host.Cell} (h : Memory.wf b) : Memory.wf (keptBytes tiles wins b) :=
  filter_wf h _

/-- What a restored core holds keeps the form, whatever bytes its context lists. -/
theorem Core.takeOver_wf {k : Core} (h : Memory.wf k.spad) (v : SavedCore) (m : Moves) :
    Memory.wf (k.takeOver v m).spad := by
  unfold Core.takeOver
  dsimp only
  exact cells_foldl_wf _ _ _ (filter_wf (keptBytes_wf _ _ h) _)

/-- The machine after reset stands in canonical form. -/
theorem reset_bytes_wf : Memory.wf State.reset.mem.bytes ∧ Memory.wf State.reset.devBytes := ⟨rfl, rfl⟩

end Sys2Proof.Machine
end

