-- ==== Sys2Proof/Laws/Reach.lean ====
section
/-! SUPPORT. What a translation that a TLB holds gives, and the accesses of a launch that runs alone: where both hold, an access
lands without changing any state. -/

namespace Sys2Proof.Machine

/-- A translation that is held and permits the access answers at once and changes nothing. -/
theorem State.translate_of_held {s : State} {m : Master} {va : Nat} {k : AccKind} {e : TlbEnt} (h : s.tlbFor m va = some e)
    (hp : e.permits k = true) : s.translate m va k [] = (s, .ok (e.pbase + va % 2 ^ e.bits)) := by
  simp [State.translate, h, hp]

/-- A launch that is alone depends on none. -/
theorem State.depend_alone {s : State} {l : Nat} {L : Launch} (h : s.launches = [(l, L)]) (page : Nat) : s.depend l page = s := by
  obtain ⟨⟩ := s
  simp only at h
  subst h
  simp [State.depend, State.updLaunch, SMap.find?, SMap.set]

/-- A page that the launch has written already needs no snapshot. -/
theorem State.snapshot_written {s : State} {l page : Nat} {L : Launch} (h : s.launch? l = some L) (hw : page ∈ L.wrote) :
    s.snapshot l page = s := by
  simp [State.snapshot, h, hw]

/-- Every access of a launch that runs alone to a page that it has written lands where the held translation puts it. -/
theorem State.reach_alone {s : State} {m : Master} {va : Addr} {k : AccKind} {e : TlbEnt} {l pa : Nat} {L : Launch}
    (h : s.tlbFor m va.toNat = some e) (hp : e.permits k = true) (hpa : e.pbase + va.toNat % 2 ^ e.bits = pa)
    (ha : s.paAllowed m.part pa k = true) (hq : quarter pa < 2) (hb : s.mem.Sound) (hl : s.launches = [(l, L)]) (hm : m.lid = some l)
    (hw : canonPa pa / 65536 ∈ L.wrote) : s.Reach m va k pa := by
  have hL : s.launch? l = some L := by simp [State.launch?, hl, SMap.find?]
  refine ⟨hpa ▸ State.translate_of_held h hp, ha, hq, hb, ?_, fun _ => ?_⟩
  · simp [State.trackRead, hm, State.depend_alone hl]
  · simp [State.trackWrite, hm, State.depend_alone hl, State.snapshot_written hL hw]

/-- The same where the die's L2 holds the line. -/
theorem State.within_alone {s : State} {m : Master} {va pa l : Nat} {k : AccKind} {e : TlbEnt} {L : Launch} (hv : va < 2 ^ 56)
    (h : s.tlbFor m va = some e) (hp : e.permits k = true) (hpa : e.pbase + va % 2 ^ e.bits = pa)
    (ha : s.paAllowed m.part pa k = true) (hq : quarter pa < 2) (hb : s.mem.Sound) (hl : s.launches = [(l, L)]) (hm : m.lid = some l)
    (hw : canonPa pa / 65536 ∈ L.wrote) (hline : (s.mem.line? m.die (canonPa pa / 128)).isSome = true) : s.Within m va k pa := by
  have hL : s.launch? l = some L := by simp [State.launch?, hl, SMap.find?]
  have hn : va % 2 ^ 56 = va := Nat.mod_eq_of_lt hv
  refine ⟨⟨e, by rw [hn]; exact h, hp, by rw [hn]; exact hpa.symm⟩, ha, hq, hb, ?_, fun _ => ?_, hline⟩
  · simp [State.trackRead, hm, State.depend_alone hl]
  · simp [State.trackWrite, hm, State.depend_alone hl, State.snapshot_written hL hw]

end Sys2Proof.Machine
end

