-- ==== Sys2Proof/Laws/Strand.lean ====
section
/-! SUPPORT. What an instruction of the strand does, said once (03_encoding.md R72 to R75, 14_control_instr.md R384). -/

namespace Sys2Proof.Machine

theorem State.strandCheck_clear {s : State} {rs : List Nat} (h : s.StrandClear rs) (u : Nat × Nat) (reads : List Nat)
    (hr : ∀ r ∈ reads, r ∈ rs) : s.strandCheck u reads = none := by
  obtain ⟨h1, h2, h3, h4⟩ := h
  unfold State.strandCheck
  simp only [h1, h2, h3, Bool.not_true, Bool.false_eq_true, if_false]
  rw [if_neg]
  intro hx
  simp only [Bool.and_eq_true, List.any_eq_true, decide_eq_true_eq] at hx
  obtain ⟨hc, p, hp, hreg, hl⟩ := hx
  have := h4 hc p hp (hr _ (by simpa using hreg))
  omega

theorem strandOp_clear {s : State} {rs : List Nat} (h : s.StrandClear rs) (u : Nat × Nat) (reads : List Nat)
    (hr : ∀ r ∈ reads, r ∈ rs) (body : State → State) : strandOp u reads body s = .next (body s) := by
  unfold strandOp
  rw [State.strandCheck_clear h u reads hr]

theorem Warp.passU_rest (w : Warp) (n : Nat) (p : Addr) :
    w.passU n p = { w with lanes := (w.follow p).lanes, spc := p, spend := ageSPends n w.spend, sstall := n + 1, swait := .none,
                           sfailed := [], dq := [], waitOn := none } := by
  unfold Warp.passU; rw [Warp.follow_rest]

theorem Warp.passU_lane (w : Warp) (n : Nat) (p : Addr) (j : Nat) :
    (w.passU n p).lane j = if j ∈ lanesOf w.live then { w.lane j with pc := p } else w.lane j := by
  rw [Warp.passU_rest]; exact Warp.lane_follow w p j

/-- The strand goes on, and nothing else changes. -/
theorem State.passU_only (s : State) (n : Stall) (len : Nat) (p : Addr) (hp : p = (s.warp s.cur.warp).spc + BitVec.ofNat 56 len) :
    s.StrandOnly (s.updWarp s.cur.warp (fun w => w.passU n.toNat p)) n len {} := by
  subst hp
  refine ⟨rfl, fun k hk => ?_, ?_, fun j => ?_, fun k => ?_⟩
  · rw [State.warp_updWarp, if_neg (Ne.symm hk)]
  · rw [State.warp_updWarp_same, Warp.passU_rest]; rfl
  · rw [State.warp_updWarp_same, Warp.passU_lane]; rfl
  · rw [State.warp_updWarp_same, Warp.passU_rest]; rfl

/-- The strand branches. -/
theorem State.branch_only (s : State) (n : Stall) (len : Nat) (p : Addr) :
    s.StrandOnly (s.updWarp s.cur.warp (fun w => w.passU n.toNat p)) n len { pc := some p } := by
  refine ⟨rfl, fun k hk => ?_, ?_, fun j => ?_, fun k => ?_⟩
  · rw [State.warp_updWarp, if_neg (Ne.symm hk)]
  · rw [State.warp_updWarp_same, Warp.passU_rest]; rfl
  · rw [State.warp_updWarp_same, Warp.passU_lane]; rfl
  · rw [State.warp_updWarp_same, Warp.passU_rest]; rfl

/-- One s-register is written. -/
theorem State.putS_only (s : State) (n : Stall) (len lat d : Nat) (v : Word64) :
    s.StrandOnly (s.putS n.toNat len lat d v) n len { s := [(d, v)] } := by
  unfold State.putS
  refine ⟨rfl, fun k hk => ?_, ?_, fun j => ?_, fun k => ?_⟩
  · rw [State.warp_updWarp, if_neg (Ne.symm hk)]
  · rw [State.warp_updWarp_same, Warp.passU_rest]; rfl
  · rw [State.warp_updWarp_same]; exact Warp.passU_lane (s.warp s.cur.warp) n.toNat ((s.warp s.cur.warp).spc + BitVec.ofNat 56 len) j
  · rw [State.warp_updWarp_same]
    have h : ((((s.warp s.cur.warp).passU n.toNat ((s.warp s.cur.warp).spc + BitVec.ofNat 56 len)).putS lat n.toNat d v).sreg k) =
        if d = k then v else (s.warp s.cur.warp).sreg k := by
      rw [Warp.passU_rest]; exact Warp.sreg_setSreg _ _ _ _
    rw [h]
    by_cases hk : d = k
    · subst hk; simp [List.lookup]
    · have hk' : (k == d) = false := by simpa using Ne.symm hk
      simp [hk, List.lookup, hk']

/-- A uniform instruction with one result. -/
theorem strandOp_gives {s : State} {i : Instr} {n : Stall} {len lat d : Nat} {u : Nat × Nat} {reads : List Nat} {f : State → Word64}
    (hx : exec i s = strandOp u reads (fun s => s.putS n.toNat len lat d (f s)) s) (h : s.StrandClear reads) :
    s.StrandGives i n len { s := [(d, f s)] } :=
  ⟨_, hx.trans (strandOp_clear h u reads (fun _ hr => hr) _), State.putS_only s n len lat d (f s)⟩

end Sys2Proof.Machine
end

