-- ==== Sys2Proof/Laws/Traps.lean ====
section
/-! SUPPORT. What an instruction of the lanes does whose lanes move, wait, end or trap, said once (07_lane_arith.md R146,
16_recovery.md R445 to R449). -/

namespace Sys2Proof.Machine

/-- A result that writes neither masks nor flags. -/
def LaneRes.Quiet (r : LaneRes) : Prop := r.mkb = [] ∧ r.flags = 0

theorem Warp.setFlags_zero (w : Warp) : w.setFlags 0 = w := by
  unfold Warp.setFlags
  simp

/-- A lane after a result: trapped as it is or with its trap counted, or finished. -/
def Lane.after (l : Lane) (len lat : Nat) (n : Stall) (r : LaneRes) : Lane :=
  match r.trap with
  | some c => l.counted c n
  | none => l.finish len lat n.toNat r

theorem Warp.applyRes_quiet (old : SMap Word) (w : Warp) (len lat : Nat) (n : Stall) (i : Nat) (r : LaneRes) (h : r.Quiet) :
    w.applyRes old len lat n.toNat (i, r) = { w with lanes := (w.applyRes old len lat n.toNat (i, r)).lanes } ∧
    ∀ j, (w.applyRes old len lat n.toNat (i, r)).lane j = if i = j then (w.lane j).after len lat n r else w.lane j := by
  unfold Warp.applyRes Lane.after Lane.counted
  cases ht : r.trap with
  | some c =>
    by_cases hc : c = 0x11 ∨ c = 0x12
    · refine ⟨by simp only [hc, if_true]; rfl, fun j => ?_⟩
      simp only [hc, if_true, Warp.lane_updLane]
      by_cases hij : i = j <;> simp [hij]
    · refine ⟨by simp only [hc, if_false], fun j => ?_⟩
      simp only [hc, if_false, ite_self]
  | none =>
    simp only [h.1, h.2, List.foldl_nil, Warp.setFlags_zero]
    refine ⟨rfl, fun j => ?_⟩
    rw [Warp.lane_updLane]
    by_cases hij : i = j <;> simp [hij]

/-- Applying quiet results of several lanes. -/
theorem foldl_applyRes_quiet (old : SMap Word) (len lat : Nat) (n : Stall) (f : Nat → LaneRes) (is : List Nat) (hn : is.Nodup)
    (hq : ∀ i ∈ is, (f i).Quiet) (w : Warp) :
    ∃ ls, (is.map (fun i => (i, f i))).foldl (fun v p => v.applyRes old len lat n.toNat p) w = { w with lanes := ls } ∧
      ∀ j, SMap.get Lane.dflt ls j = if j ∈ is then (w.lane j).after len lat n (f j) else w.lane j := by
  induction is generalizing w with
  | nil => exact ⟨w.lanes, rfl, fun j => by simp [Warp.lane]⟩
  | cons i r ih =>
    obtain ⟨ls, h1, h2⟩ := ih (List.nodup_cons.mp hn).2 (fun j hj => hq j (List.mem_cons_of_mem _ hj))
      (w.applyRes old len lat n.toNat (i, f i))
    obtain ⟨k1, k2⟩ := Warp.applyRes_quiet old w len lat n i (f i) (hq i List.mem_cons_self)
    have hir : i ∉ r := (List.nodup_cons.mp hn).1
    refine ⟨ls, ?_, fun j => ?_⟩
    · rw [List.map_cons, List.foldl_cons, h1, k1]
    · rw [h2, k2]
      by_cases hij : i = j
      · subst hij; simp [hir]
      · simp [hij, Ne.symm hij]

/-- The lanes that trap together. -/
theorem trapsOf_of (w : Warp) (u : Nat × Nat) (g : Option Glitch) (is : List Nat) (f : Nat → LaneRes)
    (h : ∀ i ∈ is, (f i).trap ≠ some 0x10) :
    trapsOf w u g (is.map (fun i => (i, f i))) = (is.filter (fun i => (f i).trap.isSome)).map (fun i =>
      { lane := i, code := (f i).trap.getD 0,
        arg := if (f i).trap = some 0x11 ∨ (f i).trap = some 0x12 then (f i).arg else 0,
        pc := if (f i).trap = some 0x11 ∨ (f i).trap = some 0x12 then (w.lane i).pc + 4 else (w.lane i).pc }) := by
  induction is with
  | nil => rfl
  | cons i r ih =>
    have ih := ih (fun j hj => h j (List.mem_cons_of_mem _ hj))
    have hi := h i List.mem_cons_self
    unfold trapsOf at ih ⊢
    rw [List.map_cons, List.filterMap_cons, ih]
    cases ht : (f i).trap with
    | none => simp [ht]
    | some c =>
      have hc : c ≠ 0x10 := fun hc => hi (by rw [ht, hc])
      by_cases h1 : c = 0x11 ∨ c = 0x12
      · simp [ht, h1]
      · have h2 : ¬(c = 0x11) ∧ ¬(c = 0x12) := not_or.mp h1
        simp [ht, h2]

theorem trapMask_map (is : List Nat) (g : Nat → TrapIn) (hg : ∀ i, (g i).lane = i) (hi : ∀ i ∈ is, i < 32) :
    trapMask (is.map g) = maskOf (fun k => decide (k ∈ is)) := by
  have key : ∀ (l : List Nat) (m : Word), (∀ i ∈ l, i < 32) → ∀ k < 32,
      bitAt ((l.map g).foldl (fun m t => setBit m t.lane true) m) k = (decide (k ∈ l) || bitAt m k) := by
    intro l
    induction l with
    | nil => intro m _ k _; simp
    | cons i r ih =>
      intro m hl k hk
      rw [List.map_cons, List.foldl_cons, ih _ (fun j hj => hl j (List.mem_cons_of_mem _ hj)) k hk, hg, bitAt_setBit]
      by_cases hki : k = i
      · subst hki; simp [hk]
      · simp [hki]
  apply bit_ext
  intro k hk
  rw [bitAt_maskOf]
  unfold trapMask
  rw [key is 0 hi k hk]
  simp [hk, bitAt]

/-- Entering the handler, lane by lane. -/
theorem foldl_enter (mask : Word) (tvec : Word64) (is : List Nat) (g : Nat → TrapIn) (hg : ∀ i, (g i).lane = i) (hn : is.Nodup)
    (w : Warp) :
    ∃ ls, (is.map g).foldl (fun v t => v.updLane t.lane (fun l => l.enter t mask tvec)) w = { w with lanes := ls } ∧
      ∀ j, SMap.get Lane.dflt ls j = if j ∈ is then (w.lane j).enter (g j) mask tvec else w.lane j := by
  induction is generalizing w with
  | nil => exact ⟨w.lanes, rfl, fun j => by simp [Warp.lane]⟩
  | cons i r ih =>
    obtain ⟨ls, h1, h2⟩ := ih (List.nodup_cons.mp hn).2 (w.updLane i (fun l => l.enter (g i) mask tvec))
    have hir : i ∉ r := (List.nodup_cons.mp hn).1
    refine ⟨ls, ?_, fun j => ?_⟩
    · rw [List.map_cons, List.foldl_cons, hg, h1]; rfl
    · rw [h2, Warp.lane_updLane]
      by_cases hij : i = j
      · subst hij; simp [hir]
      · simp [hij, Ne.symm hij]

/-- Traps that a handler takes (16_recovery.md R447). -/
theorem State.takeTraps_handled (s : State) (w : Nat) (is : List Nat) (g : Nat → TrapIn) (hg : ∀ i, (g i).lane = i) (hn : is.Nodup)
    (hi : ∀ i ∈ is, i < 32) (hc : ∀ i ∈ is, (g i).code ≠ 0x10) (hne : is ≠ []) (ht : (s.warp w).tvec ≠ 0)
    (hin : ∀ i ∈ is, ((s.warp w).lane i).inH = false) (hs : (s.warp w).slot = .board) :
    ∃ ls c p, s.takeTraps w (is.map g) = s.setWarp w { s.warp w with lanes := ls, converged := c, spc := p, swait := .none, sfailed := [], dq := [], waitOn := none } ∧
      (∀ j, SMap.get Lane.dflt ls j =
        if j ∈ is then ((s.warp w).lane j).enter (g j) (maskOf (fun k => decide (k ∈ is))) (s.warp w).tvec else (s.warp w).lane j) ∧
      (c = ((s.warp w).converged && decide (maskOf (fun k => decide (k ∈ is)) = (s.warp w).live))) ∧
      p = if c then (s.warp w).tvec.setWidth 56 else (s.warp w).spc := by
  obtain ⟨ls, h1, h2⟩ := foldl_enter (maskOf (fun k => decide (k ∈ is))) (s.warp w).tvec is g hg hn (s.warp w)
  refine ⟨ls, _, _, ?_, h2, rfl, rfl⟩
  unfold State.takeTraps
  split
  · rename_i h; exact absurd (List.map_eq_nil_iff.mp h) hne
  · have hf : fatalTrap (s.warp w) (is.map g) = none := by
      unfold fatalTrap
      rw [List.find?_eq_none.mpr]
      · rw [if_neg ht]
      · intro x hx
        obtain ⟨i, hi, rfl⟩ := List.mem_map.mp hx
        simp [hg, hin i hi]
    have hp : (is.map g).find? (fun t => decide (t.code = 0x10)) = none := by
      rw [List.find?_eq_none]
      intro x hx
      obtain ⟨i, hi, rfl⟩ := List.mem_map.mp hx
      simp [hc i hi]
    simp only [hf, hp]
    rw [trapMask_map is g hg hi, h1]
    have hb : ∀ (v : Warp) (c : Nat), v.slot = .board → v.clearStall c = v := by
      intro v c hv
      unfold Warp.clearStall
      split
      · rfl
      · rw [hv]
    exact congrArg (s.setWarp w) (hb _ _ hs)

/-- Results of a group that are quiet: each lane that does not trap is finished, the traps are delivered, and nothing else
changes. No lane of the warp waits, or none waits, ends or traps. -/
theorem State.finishLanes_quiet (s : State) (len lat : Nat) (n : Stall) (u : Nat × Nat) (f : Nat → LaneRes)
    (hq : ∀ i ∈ s.execLanes, (f i).Quiet ∧ (f i).trap = none)
    (hm : (∀ i ∈ s.execLanes, (f i).hold = none ∧ (f i).ends = none) ∨
      (s.Calm ∧ ∀ i ∈ s.execLanes, (f i).hold = none)) :
    s.Moved (s.finishLanes s.cur.warp len lat n.toNat u (s.execLanes.map (fun i => (i, f i))))
      (fun v l l' => l' = l.finish len lat n.toNat (f v.i)) := by
  obtain ⟨ls, h1, h2⟩ := foldl_applyRes_quiet (s.warp s.cur.warp).mks len lat n f s.execLanes s.execLanes_nodup (fun i hi => (hq i hi).1)
    (s.warp s.cur.warp)
  have h2 : ∀ j, SMap.get Lane.dflt ls j =
      if j ∈ s.execLanes then ((s.warp s.cur.warp).lane j).finish len lat n.toNat (f j) else (s.warp s.cur.warp).lane j := by
    intro j
    rw [h2 j]
    split
    · rename_i hj
      simp only [Lane.after, (hq j hj).2]
    · rfl
  have ht : s.finishLanes s.cur.warp len lat n.toNat u (s.execLanes.map (fun i => (i, f i))) =
      { s.updWarp s.cur.warp (fun _ => ({ s.warp s.cur.warp with lanes := ls } : Warp).settle) with glitch := none } := by
    unfold State.finishLanes
    simp only
    rw [State.updWarp, h1, trapsOf_plain _ _ _ _ _ (fun i hi => (hq i hi).2)]
    simp only [State.takeTraps]
    rcases hm with hm | ⟨hc, hm⟩
    · rw [if_neg]
      · rfl
      · rw [List.any_eq_true]
        rintro ⟨p, hp1, hp2⟩
        obtain ⟨i, hi, rfl⟩ := List.mem_map.mp hp1
        simp [LaneRes.stirs, (hq i hi).2, (hq i hi).1.1, (hm i hi).1, (hm i hi).2] at hp2
    · split
      · rw [State.stir_calm]
        · rfl
        · intro i hi
          simp only [State.warp_setWarp_same, Warp.settle_live, Warp.settle_lane] at hi ⊢
          change (SMap.get Lane.dflt ls i).wait = .none
          have hl := Warp.mem_live.mp hi
          rw [h2 i]
          have h3 : SMap.get Lane.dflt ls i = _ := h2 i
          split
          · rename_i hx
            have : ∀ (l : Lane) (r : LaneRes), r.hold = none → (l.finish len lat n.toNat r).wait = .none := by
              intro l r hr
              unfold Lane.finish Lane.leave
              simp only [hr]
              split <;> rfl
            exact this _ _ (hm i hx)
          · rename_i hx
            rw [if_neg hx] at h3
            apply hc
            rw [Warp.mem_live]
            exact ⟨hl.1, by rw [← h3]; exact hl.2⟩
      · rfl
  have hw : (s.finishLanes s.cur.warp len lat n.toNat u (s.execLanes.map (fun i => (i, f i)))).warp s.cur.warp =
      ({ s.warp s.cur.warp with lanes := ls } : Warp).settle := by
    rw [ht]
    exact (State.warp_glitch _ _ _).trans (State.warp_updWarp_same s s.cur.warp _)
  have ho : ∀ k, k ≠ s.cur.warp → (s.finishLanes s.cur.warp len lat n.toNat u (s.execLanes.map (fun i => (i, f i)))).warp k =
      s.warp k := by
    intro k hk
    rw [ht]
    exact (State.warp_glitch _ _ _).trans ((State.warp_updWarp s _ k _).trans (if_neg (Ne.symm hk)))
  have hr : s.finishLanes s.cur.warp len lat n.toNat u (s.execLanes.map (fun i => (i, f i))) =
      { s with warps := (s.finishLanes s.cur.warp len lat n.toNat u (s.execLanes.map (fun i => (i, f i)))).warps,
               glitch := none } := by
    rw [ht]; rfl
  generalize s.finishLanes s.cur.warp len lat n.toNat u (s.execLanes.map (fun i => (i, f i))) = t at hw ho hr ⊢
  refine ⟨⟨hr, ho, ?_, ?_⟩, ?_, ?_, ?_⟩
  · rw [hw, Warp.settle_rest]
  · intro i hi
    rw [hw, Warp.settle_lane]
    exact (h2 i).trans (if_neg hi)
  · intro j hj
    rw [hw, Warp.settle_lane]
    exact (h2 j).trans (if_pos hj)
  · rw [hw, Warp.settle_mks]
  · rw [hw, Warp.settle_stk]

/-- An instruction of the lanes with quiet results. -/
theorem laneOp_moves {s : State} {i : Instr} {n : Stall} {len lat : Nat} {u : Nat × Nat} {reads : View → List LRes}
    {f : View → LaneRes} {rs : View → List LRes} (hx : exec i s = laneOp n len lat u reads f s) (hc : s.ClearBy rs)
    (hr : ∀ j ∈ s.execLanes, ∀ r ∈ reads (s.view j), r ∈ rs (s.view j))
    (hq : ∀ j ∈ s.execLanes, (f (s.view j)).Quiet ∧ (f (s.view j)).trap = none)
    (hm : (∀ j ∈ s.execLanes, (f (s.view j)).hold = none ∧ (f (s.view j)).ends = none) ∨
      (s.Calm ∧ ∀ j ∈ s.execLanes, (f (s.view j)).hold = none)) :
    s.Moves i (fun v l l' => l' = l.finish len lat n.toNat (f v)) := by
  have hl : laneOp n len lat u reads f s =
      .next (s.finishLanes s.cur.warp len lat n.toNat u (s.execLanes.map (fun j => (j, f (s.view j))))) := by
    unfold laneOp
    congr 2
    apply List.map_congr_left
    intro j hj
    rw [State.laneCheck_clear hc u reads j hj (hr j hj)]
  obtain ⟨h1, h2, h3, h4⟩ := State.finishLanes_quiet s len lat n u (fun j => f (s.view j)) hq hm
  exact ⟨_, hx.trans hl, h1, h2, h3, h4⟩

theorem State.Moved.mono {s t : State} {r r' : View → Lane → Lane → Prop} (h : s.Moved t r)
    (hr : ∀ j ∈ s.execLanes, ∀ l', r (s.view j) ((s.warp s.cur.warp).lane j) l' → r' (s.view j) ((s.warp s.cur.warp).lane j) l') :
    s.Moved t r' := ⟨h.1, fun j hj => hr j hj _ (h.2.1 j hj), h.2.2.1, h.2.2.2⟩

theorem State.Moves.mono {s : State} {i : Instr} {r r' : View → Lane → Lane → Prop} (h : s.Moves i r)
    (hr : ∀ j ∈ s.execLanes, ∀ l', r (s.view j) ((s.warp s.cur.warp).lane j) l' → r' (s.view j) ((s.warp s.cur.warp).lane j) l') :
    s.Moves i r' := let ⟨t, h1, h2⟩ := h; ⟨t, h1, h2.mono hr⟩

/-- Quiet results of a group, some of them traps that a handler takes, in a warp of which no lane waits. -/
theorem State.finishLanes_split (s : State) (len lat : Nat) (n : Stall) (u : Nat × Nat) (f : Nat → LaneRes) (hc : s.Calm)
    (hh : s.Handled) (hg : s.glitch = none)
    (hq : ∀ i ∈ s.execLanes, (f i).Quiet ∧ ((f i).trap = none → (f i).Plain) ∧ (f i).trap ≠ some 0x10) :
    s.Split (s.finishLanes s.cur.warp len lat n.toNat u (s.execLanes.map (fun i => (i, f i)))) n len
      (fun v => (f v.i).effect)
      (fun v => (f v.i).trap.map (fun c => (c, if c = 0x11 ∨ c = 0x12 then (f v.i).arg else 0,
        if c = 0x11 ∨ c = 0x12 then v.ln.pc + 4 else v.ln.pc))) := by
  obtain ⟨ls, h1, h2⟩ := foldl_applyRes_quiet (s.warp s.cur.warp).mks len lat n f s.execLanes s.execLanes_nodup (fun i hi => (hq i hi).1)
    (s.warp s.cur.warp)
  have haft : ∀ j ∈ s.execLanes, ∀ l : Lane, (l.after len lat n (f j)).st = l.st ∧ (l.after len lat n (f j)).inH = l.inH ∧
      (l.wait = .none → (l.after len lat n (f j)).wait = .none) := by
    intro j hj l
    unfold Lane.after
    cases hx : (f j).trap with
    | none =>
      rw [(Lane.finish_becomes l len lat n _ ((hq j hj).2.1 hx)).rest]
      exact ⟨rfl, rfl, fun _ => rfl⟩
    | some c =>
      simp only [Lane.counted]
      split
      · exact ⟨rfl, rfl, fun h => h⟩
      · exact ⟨rfl, rfl, fun h => h⟩
  have hst : ∀ i < 32, ((SMap.get Lane.dflt ls i).st = .live) = (((s.warp s.cur.warp).lane i).st = .live) := by
    intro i _
    rw [h2 i]
    split
    · rename_i hx
      rw [(haft i hx _).1]
    · rfl
  let is := s.execLanes.filter (fun i => (f i).trap.isSome)
  let g : Nat → TrapIn := fun i =>
    { lane := i, code := (f i).trap.getD 0,
      arg := if (f i).trap = some 0x11 ∨ (f i).trap = some 0x12 then (f i).arg else 0,
      pc := if (f i).trap = some 0x11 ∨ (f i).trap = some 0x12 then ((s.warp s.cur.warp).lane i).pc + 4
        else ((s.warp s.cur.warp).lane i).pc }
  have htr : trapsOf (s.warp s.cur.warp) u s.glitch (s.execLanes.map (fun i => (i, f i))) = is.map g :=
    trapsOf_of _ _ _ _ _ (fun i hi => (hq i hi).2.2)
  have his : ∀ i ∈ is, i ∈ s.execLanes ∧ (f i).trap.isSome = true := fun i hi => List.mem_filter.mp hi
  let w1 : Warp := ({ s.warp s.cur.warp with lanes := ls } : Warp).settle
  let s1 : State := s.setWarp s.cur.warp w1
  have hlane : ∀ j, w1.lane j = SMap.get Lane.dflt ls j := fun j => Warp.settle_lane _ j
  have hcalm : ∀ j, ((s.warp s.cur.warp).lane j).st = .live → j < 32 → (w1.lane j).wait = .none := by
    intro j hj hlt
    rw [hlane, h2 j]
    split
    · rename_i hx
      exact (haft j hx _).2.2 (hc j (Warp.mem_live.mpr ⟨hlt, hj⟩))
    · exact hc j (Warp.mem_live.mpr ⟨hlt, hj⟩)
  have main : ∃ ls' c p q r, s.finishLanes s.cur.warp len lat n.toNat u (s.execLanes.map (fun i => (i, f i))) =
      { s.setWarp s.cur.warp { s.warp s.cur.warp with lanes := ls', converged := c, spc := p, dq := q, waitOn := r } with glitch := none } ∧
      ∀ j, SMap.get Lane.dflt ls' j = if j ∈ is then (SMap.get Lane.dflt ls j).enter (g j) (maskOf (fun k => decide (k ∈ is)))
        (s.warp s.cur.warp).tvec else SMap.get Lane.dflt ls j := by
    have hs1 : s.updWarp s.cur.warp (fun v =>
        ((s.execLanes.map (fun i => (i, f i))).foldl (fun v' p => v'.applyRes v.mks len lat n.toNat p) v).settle) = s1 := by
      rw [State.updWarp, h1]
    have hlive : ∀ i, i ∈ lanesOf w1.live → i < 32 ∧ ((s.warp s.cur.warp).lane i).st = .live := by
      intro i hi
      have := Warp.mem_live.mp hi
      rw [hlane, hst i this.1] at this
      exact this
    unfold State.finishLanes
    simp only
    rw [hs1, htr]
    by_cases hne : is = []
    · refine ⟨ls, w1.converged, w1.spc, w1.dq, (s.warp s.cur.warp).waitOn, ?_, ?_⟩
      · rw [hne]
        simp only [List.map_nil, State.takeTraps]
        have hw1 : w1 = { s.warp s.cur.warp with lanes := ls, converged := w1.converged, spc := w1.spc, dq := w1.dq, waitOn := (s.warp s.cur.warp).waitOn } := Warp.settle_rest _
        have hwk : s1.stir s.cur.warp = s1 := by
          apply State.stir_calm
          intro i hi
          rw [State.warp_setWarp_same] at hi ⊢
          exact hcalm i (hlive i hi).2 (hlive i hi).1
        rw [hwk, ite_self]
        exact congrArg (fun v : Warp => ({ s.setWarp s.cur.warp v with glitch := none } : State)) hw1
      · intro j; rw [hne]; simp
    · obtain ⟨ls', c, p, k1, k2, -, -⟩ := State.takeTraps_handled s1 s.cur.warp is g (fun _ => rfl) (s.execLanes_nodup.filter _)
        (fun i hi => State.execLanes_lt (his i hi).1)
        (fun i hi => by
          have := (hq i (his i hi).1).2.2
          have h3 := (his i hi).2
          cases hx : (f i).trap with
          | none => simp [hx] at h3
          | some c => simp only [g, hx, Option.getD_some]; exact fun hc => this (by rw [hx, hc]))
        hne
        (by rw [State.warp_setWarp_same, show w1.tvec = (s.warp s.cur.warp).tvec by rw [show w1 = _ from Warp.settle_rest _]]; exact hh.1)
        (fun i hi => by
          rw [State.warp_setWarp_same, hlane, h2 i]
          rw [if_pos (his i hi).1, (haft i (his i hi).1 _).2.1]
          exact hh.2.2.2.2 i (Warp.mem_live.mpr ⟨State.execLanes_lt (his i hi).1, State.execLanes_live (his i hi).1⟩))
        (by rw [State.warp_setWarp_same, show w1.slot = (s.warp s.cur.warp).slot by rw [show w1 = _ from Warp.settle_rest _]]; exact hh.2.1)
      rw [State.warp_setWarp_same] at k1 k2
      refine ⟨ls', c, p, [], none, ?_, ?_⟩
      · have hstir : (s.execLanes.map (fun i => (i, f i))).any (fun p => p.2.stirs) = true := by
          rw [List.any_eq_true]
          obtain ⟨i, hi⟩ := List.exists_mem_of_ne_nil _ hne
          exact ⟨(i, f i), List.mem_map.mpr ⟨i, (his i hi).1, rfl⟩, by simp [LaneRes.stirs, (his i hi).2]⟩
        rw [if_pos hstir, k1]
        have hw1 : ({ w1 with lanes := ls', converged := c, spc := p, swait := .none, sfailed := [], dq := [], waitOn := none } : Warp) =
            { s.warp s.cur.warp with lanes := ls', converged := c, spc := p, dq := [], waitOn := none } := by
          rw [show w1 = _ from Warp.settle_rest _]
          have a := hh.2.2.1
          have b := hh.2.2.2.1
          rw [← a, ← b]
        rw [hw1]
        have hset : s1.setWarp s.cur.warp { s.warp s.cur.warp with lanes := ls', converged := c, spc := p, dq := [], waitOn := none } =
            s.setWarp s.cur.warp { s.warp s.cur.warp with lanes := ls', converged := c, spc := p, dq := [], waitOn := none } := by
          simp only [s1, State.setWarp, SMap.set_set]
        rw [hset, State.stir_calm]
        intro i hi
        rw [State.warp_setWarp_same] at hi ⊢
        have hm := Warp.mem_live.mp hi
        change (SMap.get Lane.dflt ls' i).wait = .none
        change i < 32 ∧ (SMap.get Lane.dflt ls' i).st = .live at hm
        rw [k2 i, hlane] at hm ⊢
        split
        · have : ∀ (l : Lane) (t : TrapIn) (m : Word) (v : Word64), (l.enter t m v).wait = .none := by
            intro l t m v; unfold Lane.enter; simp only; split <;> rfl
          exact this _ _ _ _
        · rename_i hx
          rw [if_neg hx, hst i hm.1] at hm
          rw [← hlane]
          exact hcalm i hm.2 hm.1
      · intro j
        have hv : w1.tvec = (s.warp s.cur.warp).tvec := by rw [show w1 = _ from Warp.settle_rest _]
        rw [k2 j, hlane, hv]
  obtain ⟨ls', c, p, q, r, hfin, hl'⟩ := main
  have hw : (s.finishLanes s.cur.warp len lat n.toNat u (s.execLanes.map (fun i => (i, f i)))).warp s.cur.warp =
      { s.warp s.cur.warp with lanes := ls', converged := c, spc := p, dq := q, waitOn := r } := by
    rw [hfin]
    exact (State.warp_glitch _ _ _).trans (State.warp_setWarp_same _ _ _)
  have ho : ∀ k, k ≠ s.cur.warp → (s.finishLanes s.cur.warp len lat n.toNat u (s.execLanes.map (fun i => (i, f i)))).warp k =
      s.warp k := by
    intro k hk
    rw [hfin]
    exact (State.warp_glitch _ _ _).trans ((State.warp_setWarp _ _ k _).trans (if_neg (Ne.symm hk)))
  have hr : s.finishLanes s.cur.warp len lat n.toNat u (s.execLanes.map (fun i => (i, f i))) =
      { s with warps := (s.finishLanes s.cur.warp len lat n.toNat u (s.execLanes.map (fun i => (i, f i)))).warps,
               glitch := none } := by
    rw [hfin]; rfl
  generalize s.finishLanes s.cur.warp len lat n.toNat u (s.execLanes.map (fun i => (i, f i))) = t at hw ho hr ⊢
  refine ⟨⟨hr, ho, ?_, ?_⟩, ?_, ?_, ?_⟩
  · rw [hw]
  · intro i hi
    rw [hw]
    exact (hl' i).trans ((if_neg (fun h => hi (his i h).1)).trans ((h2 i).trans (if_neg hi)))
  · intro j hj
    rw [hw]
    have hlj := hl' j
    have hfj := h2 j
    change match (f j).trap.map _ with
      | none => Lane.Becomes _ (SMap.get Lane.dflt ls' j) n len _
      | some (code, arg, pc) => Lane.Enters _ (SMap.get Lane.dflt ls' j) code arg pc _ _
    cases hx : (f j).trap with
    | none =>
      rw [if_neg (fun h => by have := (his j h).2; simp [hx] at this)] at hlj
      rw [if_pos hj] at hfj
      rw [hlj, hfj]
      simp only [Lane.after, hx]
      exact Lane.finish_becomes _ _ _ _ _ ((hq j hj).2.1 hx)
    | some cd =>
      rw [if_pos (List.mem_filter.mpr ⟨hj, by simp [hx]⟩)] at hlj
      rw [if_pos hj] at hfj
      rw [hlj, hfj]
      have hne : cd ≠ 0x10 := fun h => (hq j hj).2.2 (by rw [hx, h])
      have hmask : (maskOf (fun k => decide (k ∈ is))) =
          maskOf (fun k => decide (k ∈ s.execLanes) && ((f (s.view k).i).trap.map (fun c => (c, if c = 0x11 ∨ c = 0x12 then (f (s.view k).i).arg else 0,
            if c = 0x11 ∨ c = 0x12 then (s.view k).ln.pc + 4 else (s.view k).ln.pc))).isSome) := by
        congr 1
        funext k
        simp [is, List.mem_filter, State.view]
      simp only [Option.map_some]
      rw [Lane.Enters]
      rw [← hmask]
      simp only [Lane.enter, g, hx, Option.getD_some, hne, if_false, Option.some.injEq, Lane.after]
      rfl
  · rw [hw]
  · rw [hw]

/-- An instruction of the lanes with quiet results, some of them traps. -/
theorem laneOp_splits {s : State} {i : Instr} {n : Stall} {len lat : Nat} {u : Nat × Nat} {reads : View → List LRes}
    {f : View → LaneRes} {rs : View → List LRes} (hx : exec i s = laneOp n len lat u reads f s) (hc : s.ClearBy rs)
    (hr : ∀ j ∈ s.execLanes, ∀ r ∈ reads (s.view j), r ∈ rs (s.view j)) (hk : s.Calm) (hh : s.Handled)
    (hq : ∀ j ∈ s.execLanes, (f (s.view j)).Quiet ∧ ((f (s.view j)).trap = none → (f (s.view j)).Plain) ∧
      (f (s.view j)).trap ≠ some 0x10) :
    s.Splits i n len (fun v => (f v).effect)
      (fun v => (f v).trap.map (fun c => (c, if c = 0x11 ∨ c = 0x12 then (f v).arg else 0,
        if c = 0x11 ∨ c = 0x12 then v.ln.pc + 4 else v.ln.pc))) := by
  have hl : laneOp n len lat u reads f s =
      .next (s.finishLanes s.cur.warp len lat n.toNat u (s.execLanes.map (fun j => (j, f (s.view j))))) := by
    unfold laneOp
    congr 2
    apply List.map_congr_left
    intro j hj
    rw [State.laneCheck_clear hc u reads j hj (hr j hj)]
  exact ⟨_, hx.trans hl, State.finishLanes_split s len lat n u (fun j => f (s.view j)) hk hh hc.1 hq⟩

end Sys2Proof.Machine
end

