-- ==== Sys2Proof/Tests/Slice0.lean ====
section
/-! SUPPORT. Tests of the model on small states. Every expected value is worked out from the manual; a theorem named
test_meets_… shows that the hypotheses of a statement, or of one of its clauses, can be met together. -/

set_option Elab.async false

namespace Sys2Proof.Tests
open Sys2Proof.Machine

/-- A plain access of a lane to base register s33. -/
def ext : MemExt := ⟨33, 1, .lane, .plain, .normal, 0, 0⟩
/-! ## Well-formedness: one ill-formed term for each check (03_encoding.md R67, R70, R76, R79 to R82) -/

/-- An odd register of a pair, a shift above 4, masks mk12 and mk0, equal formats, registers beyond o15, an unused slot that
is not 0, bounds that cross, widths that do not fit, SEM, SCOPE and CACHE values that an access has not, a shape code
of 3, a queue that is no copy queue, carve codes 0 and 6, and numbers that no device has. -/
theorem test_ill_formed : ([
    .addw 0 (.o 1) (.o 2) (.o 4), .addw 0 .zero (.o 2) (.o 4), .addw 0 (.o 2) (.o 1) (.o 4), .addw 0 (.o 2) (.o 4) .l0,
    .lea 0 (.o 1) (.o 2) (.o 3) 5, .sel 0 (.o 1) (.o 2) (.o 3) 12, .cmp 0 0 (.o 1) (.o 2) .eq, .cmp 0 12 (.o 1) (.o 2) .eq,
    .acs2 0 (.o 1) (.o 2) (.o 3) 0, .acs2 0 (.o 1) (.o 2) (.o 3) 11, .fcmp 0 0 (.o 1) (.o 2) .eq,
    .fcvt 0 (.o 1) (.o 2) 0 .nearest .fp32 .fp32, .shfl 0 (.o 1) (.o 2) (.o 3) .idx 12, .vote 0 (.o 1) (.o 2) .all 12,
    .wred 0 (.o 1) (.o 2) .add 12, .rgn 0 13 3 1 1 1 1, .rgn 0 4 0 0 0 1 1, .wbk 0 4 1 0 1 1 1, .wbk 0 4 2 1 1 1 1,
    .xbnd 0 4 5, .ld 0 (.o 1) (.o 2) .w64 ext, .ld 0 (.o 2) (.o 2) .w128 ext, .ld 0 .zero (.o 2) .w64 ext,
    .ld 0 (.o 1) (.o 2) .w32 { ext with sem := .release }, .ld 0 (.o 1) (.o 2) .w32 { ext with scope := .die },
    .st 0 (.o 1) (.o 2) .s8 ext, .st 0 (.o 1) (.o 2) .w64 ext, .st 0 .l0 (.o 2) .w64 ext, .st 0 (.o 1) (.o 2) .w32 { ext with sem := .acquire },
    .st 0 (.o 1) (.o 2) .w32 { ext with sem := .acqRel }, .atom 0 (.o 1) (.o 2) (.o 4) .add64 ext, .atom 0 (.o 2) (.o 2) (.o 3) .swap64 ext,
    .atom 0 (.o 1) (.o 2) .zero .cas32 ext, .atom 0 (.o 2) (.o 2) (.o 14) .cas64 ext, .atom 0 (.o 1) (.o 2) (.o 3) .add32 { ext with cache := .streaming },
    .red 0 (.o 2) (.o 3) .swap32 ext, .red 0 (.o 2) (.o 3) .add64 ext, .red 0 (.o 2) (.o 3) .add32 { ext with sem := .acquire },
    .red 0 (.o 2) (.o 3) .add32 { ext with cache := .l2only }, .prf 0 (.o 2) 0 { ext with sem := .acquire }, .prf 0 (.o 2) 0 { ext with cache := .streaming },
    .lds 0 (.o 1) (.o 2) (.o 3) .w64, .sts 0 (.o 1) (.o 2) (.o 3) .s16, .sts 0 (.o 2) (.o 2) (.o 3) .w128, .brc 0 0 12 0,
    .mand 0 0 1 1, .mand 0 1 12 1, .mand 0 1 1 12, .mor 0 12 1 1, .mor 0 1 12 1, .mnot 0 0 1, .mnot 0 1 12, .mset 0 0 (.o 1),
    .mpop 0 (.o 1) 12, .mfirst 0 (.o 1) 12, .mjoin 0 12, .mleave 0 0, .mleave 0 12, .mwait 0 12, .bond 0 1 0 3 0, .bond 0 1 0 0 3,
    .tcopy 0 0 1, .tcopy 0 5 1, .tquant 0 7 1, .carve 0 0, .carve 0 6, .queueDoorbell 0 2 0 0, .syncOverflowMove 2 0, .l2Writeback 2 0,
    .remoteWriteApply 2 0, .tlbMiss 2 0 0, .cmapWrite 2 0 0, .cmapWrite 0 128 0, .cpartWrite 2 0 0, .cpartWrite 0 128 0,
    .qbindWrite 2 0 0, .invAll 2 0, .invSpace 2 0, .invPages 2 0, .regselWrite 128 0, .leaserev 2 0, .cellmaskWrite 2 0 0 0,
    .cellmaskWrite 0 128 0 0, .cellmaskWrite 0 0 2048 0, .synovfWrite 2 0, .tqovfWrite 2 0 0 0, .tqovfWrite 0 128 0 0,
    .unassignedOpcode 0x01000000] : List Instr).all (fun i => !wellFormed i) = true := by decide +kernel

/-- The values next to those of test_ill_formed that the manual allows. -/
theorem test_well_formed : ([
    .addw 0 (.o 2) .zero (.o 4), .lea 0 (.o 1) (.o 2) (.o 3) 4, .sel 0 (.o 1) (.o 2) (.o 3) 11, .cmp 0 1 (.o 1) (.o 2) .eq,
    .acs2 0 (.o 1) (.o 2) (.o 3) 10, .fcvt 0 (.o 1) (.o 2) 0 .nearest .fp32 .fp16, .rgn 0 12 3 1 1 1 1, .xbnd 0 5 5,
    .ld 0 (.o 4) (.o 2) .w128 { ext with sem := .acquire, scope := .die, cache := .streaming }, .st 0 (.o 2) (.o 2) .w64 { ext with sem := .release },
    .atom 0 .zero (.o 2) (.o 12) .cas64 { ext with sem := .acqRel, scope := .system }, .red 0 (.o 2) .zero .add64 ext, .prf 0 (.o 2) 1 ext,
    .sts 0 (.o 8) (.o 2) (.o 3) .w128, .mleave 0 1, .mjoin 0 0, .bond 0 1 0 2 2, .tcopy 0 4 1, .tquant 0 1 1, .carve 0 5,
    .unassignedOpcode 0xFFFFFFFF] : List Instr).all wellFormed = true := by decide +kernel

/-! ## Decoding: for every instruction a word written out from the encoding tables (03_encoding.md R79 to R82) -/

/-- Every row of words decodes to its instruction, and the instruction has exactly those words. -/
def reads (l : List (Word × Word × Word × Instr)) : Bool :=
  l.all (fun p => (match decode p.1 p.2.1 p.2.2.1 with | .ok i => decide (i = p.2.2.2) | .error _ => false) &&
    decide (encode p.2.2.2 = [p.1, p.2.1, p.2.2.1].take (1 + extWords p.1)))

theorem test_decode_lane_integer_1 : reads [
    (0x1AAED80, 0, 0, .add 5 (.o 10) (.u 5) (.x 2)),
    (0x1AAED81, 0, 0, .sub 5 (.o 10) (.u 5) (.x 2)),
    (0x1AAED82, 0, 0, .mul 5 (.o 10) (.u 5) (.x 2)),
    (0x1AAED83, 0, 0, .mulh 5 (.o 10) (.u 5) (.x 2)),
    (0x1AAED84, 0, 0, .mulhU 5 (.o 10) (.u 5) (.x 2)),
    (0x1AAED88, 0, 0, .and 5 (.o 10) (.u 5) (.x 2)),
    (0x1AAED89, 0, 0, .or 5 (.o 10) (.u 5) (.x 2)),
    (0x1AAED8A, 0, 0, .xor 5 (.o 10) (.u 5) (.x 2)),
    (0x1AAED8B, 0, 0, .andn 5 (.o 10) (.u 5) (.x 2)),
    (0x1AAED90, 0, 0, .shl 5 (.o 10) (.u 5) (.x 2)),
    (0x1AAED91, 0, 0, .shr 5 (.o 10) (.u 5) (.x 2)),
    (0x1AAED92, 0, 0, .sar 5 (.o 10) (.u 5) (.x 2)),
    (0x1AAED93, 0, 0, .rotl 5 (.o 10) (.u 5) (.x 2)),
    (0x1AAED98, 0, 0, .min 5 (.o 10) (.u 5) (.x 2)),
    (0x1AAED99, 0, 0, .max 5 (.o 10) (.u 5) (.x 2)),
    (0x1AAED9A, 0, 0, .minU 5 (.o 10) (.u 5) (.x 2)),
    (0x1AAED9B, 0, 0, .maxU 5 (.o 10) (.u 5) (.x 2)),
    (0x2AAE800, 0, 0, .neg 5 (.o 10) (.u 5)),
    (0x2AAE801, 0, 0, .abs 5 (.o 10) (.u 5)),
    (0x2AAE802, 0, 0, .not 5 (.o 10) (.u 5)),
    (0x2AAE803, 0, 0, .clz 5 (.o 10) (.u 5)),
    (0x2AAE804, 0, 0, .popc 5 (.o 10) (.u 5)),
    (0x2AAE805, 0, 0, .brev 5 (.o 10) (.u 5)),
    (0x2AAE806, 0, 0, .mov 5 (.o 10) (.u 5))] = true := by decide +kernel

theorem test_decode_lane_integer_2 : reads [
    (0x3AAED91, 0, 0, .mad 5 (.o 10) (.u 5) (.x 2) .l1),
    (0x4AA9300, 0, 0, .addw 5 (.o 10) .zero (.o 12)),
    (0x5AAED83, 0, 0, .lea 5 (.o 10) (.u 5) (.x 2) 3),
    (0x6AAE933, 0, 0, .bfx 5 (.o 10) (.u 5) 9 19),
    (0x6AAED33, 0, 0, .bfxSigned 5 (.o 10) (.u 5) 9 19),
    (0x7AAE933, 0, 0, .bfi 5 (.o 10) (.u 5) 9 19),
    (0x8AAED8B, 0, 0, .sel 5 (.o 10) (.u 5) (.x 2) 11),
    (0x9ABED86, 0, 0, .cmp 5 11 (.u 5) (.x 2) .ltu),
    (0xAAA05A3, 0, 0, .movi 5 (.o 10) 1443),
    (0xCAAEDA3, 0, 0, .addImm 5 (.o 10) (.u 5) 1443),
    (0xDAAEDA3, 0, 0, .mulImm 5 (.o 10) (.u 5) 1443),
    (0xEAAEDA3, 0, 0, .andImm 5 (.o 10) (.u 5) 1443),
    (0xFAAEDA3, 0, 0, .orImm 5 (.o 10) (.u 5) 1443),
    (0xB670000, 0x12345678, 0, .moviWide 3 (.o 7) 0x12345678)] = true := by decide +kernel

theorem test_decode_lane_immediate_and_packed : reads [
    (0x10AAEDA3, 0, 0, .xorImm 5 (.o 10) (.u 5) 1443),
    (0x11AAE813, 0, 0, .shlImm 5 (.o 10) (.u 5) 19),
    (0x12AAE813, 0, 0, .shrImm 5 (.o 10) (.u 5) 19),
    (0x13AAE813, 0, 0, .sarImm 5 (.o 10) (.u 5) 19),
    (0x14AAE813, 0, 0, .rotlImm 5 (.o 10) (.u 5) 19),
    (0x15AAEDA3, 0, 0, .minImm 5 (.o 10) (.u 5) 1443),
    (0x16AAEDA3, 0, 0, .maxImm 5 (.o 10) (.u 5) 1443),
    (0x18AAED80, 0, 0, .hadd2 5 (.o 10) (.u 5) (.x 2)),
    (0x18AAED81, 0, 0, .hsub2 5 (.o 10) (.u 5) (.x 2)),
    (0x18AAED82, 0, 0, .hmin2 5 (.o 10) (.u 5) (.x 2)),
    (0x18AAED83, 0, 0, .hmax2 5 (.o 10) (.u 5) (.x 2)),
    (0x18AAED84, 0, 0, .hadd2Sat 5 (.o 10) (.u 5) (.x 2)),
    (0x18AAED85, 0, 0, .hsub2Sat 5 (.o 10) (.u 5) (.x 2)),
    (0x18AAED86, 0, 0, .hmin2U 5 (.o 10) (.u 5) (.x 2)),
    (0x18AAED87, 0, 0, .hmax2U 5 (.o 10) (.u 5) (.x 2)),
    (0x19AAED8A, 0, 0, .acs2 5 (.o 10) (.u 5) (.x 2) 10)] = true := by decide +kernel

theorem test_decode_float_and_warp : reads [
    (0x20AAED80, 0, 0, .fadd 5 (.o 10) (.u 5) (.x 2)),
    (0x20AAED81, 0, 0, .fsub 5 (.o 10) (.u 5) (.x 2)),
    (0x20AAED82, 0, 0, .fmul 5 (.o 10) (.u 5) (.x 2)),
    (0x20AAED83, 0, 0, .fmin 5 (.o 10) (.u 5) (.x 2)),
    (0x20AAED84, 0, 0, .fmax 5 (.o 10) (.u 5) (.x 2)),
    (0x21AAED91, 0, 0, .ffma 5 (.o 10) (.u 5) (.x 2) .l1),
    (0x22ABED87, 0, 0, .fcmp 5 11 (.u 5) (.x 2) .ord),
    (0x23AAE803, 0, 0, .fsfu 5 (.o 10) (.u 5) .lg2),
    (0x24AAEAA1, 0, 0, .fcvt 5 (.o 10) (.u 5) 1 .up .e5m2 .fp16),
    (0x25AAED83, 0, 0, .fq4 5 (.o 10) (.u 5) (.x 2) .hyb),
    (0x26AAED83, 0, 0, .fdq4 5 (.o 10) (.u 5) (.x 2) .hyb),
    (0x28AAEDAB, 0, 0, .shfl 5 (.o 10) (.u 5) (.x 2) .down 11),
    (0x29AAE83B, 0, 0, .vote 5 (.o 10) (.u 5) .ballot 11),
    (0x2AAAEA4B, 0, 0, .wred 5 (.o 10) (.u 5) .fmin 11)] = true := by decide +kernel

theorem test_decode_region_and_memory : reads [
    (0x32AA004D, 0, 0, .mvmFromMain 5 (.o 10) 77),
    (0x32A300CD, 0, 0, .mvmToMain 5 (.o 3) 77),
    (0x34B6EDA3, 0, 0, .xset 5 2 (.u 5) 1443),
    (0x35AAB5A3, 0, 0, .ldx 5 (.o 10) 2 1443),
    (0x36A3B5A3, 0, 0, .stx 5 (.o 3) 2 1443),
    (0x3DA00014, 0, 0, .fence 5 .acqRel .die),
    (0x30040002, 0xC101, 0, .rgn 0 4 2 0 3 2 1),
    (0x310C0003, 0xB0007F, 0, .wbk 0 12 3 5 64 0 127),
    (0x33000000, 0x1708, 0, .xbnd 0 23 8),
    (0x3848E806, 0x86AB3FFF, 0, .ld 2 (.o 8) (.u 5) .w128 ⟨33, 2, .device, .acquire, .streaming, 9, 0x1FFF⟩),
    (0x39040805, 0xFC740008, 0, .st 0 (.o 4) (.o 1) .w64 ⟨63, 0, .cluster, .release, .l2only, 0, 8⟩),
    (0x3A22930D, 0x5D80000, 0, .atom 1 (.o 2) .zero (.o 12) .cas64 ⟨1, 1, .system, .acqRel, .normal, 0, 0⟩),
    (0x3B000381, 0xB31F000, 0, .red 0 (.o 0) (.o 14) .add64 ⟨2, 3, .warp, .release, .normal, 15, 0x1000⟩),
    (0x3C009801, 0xA0000FFF, 0, .prf 0 .lane 1 ⟨40, 0, .lane, .plain, .normal, 0, 0xFFF⟩)] = true := by decide +kernel

theorem test_decode_local_memory : reads [
    (0x40AAED84, 0, 0, .lds 5 (.o 10) (.u 5) (.x 2) .w32),
    (0x41A3ED84, 0, 0, .sts 5 (.o 3) (.u 5) (.x 2) .w32),
    (0x42AAED80, 0, 0, .lda 5 (.o 10) (.u 5) (.x 2)),
    (0x43A3ED80, 0, 0, .sta 5 (.o 3) (.u 5) (.x 2)),
    (0x44AAE82D, 0, 0, .ldt 5 (.o 10) (.u 5) 45),
    (0x45A0002D, 0, 0, .twait 5 45),
    (0x46AAEDA5, 0, 0, .ldp 5 (.o 10) (.u 5) 5 165)] = true := by decide +kernel

theorem test_decode_control : reads [
    (0x50BABCDE, 0, 0, .bra 5 1752286),
    (0x51BB9ABC, 0, 0, .brc 5 1 11 39612),
    (0x52BABCDE, 0, 0, .call 5 1752286),
    (0x53A0E800, 0, 0, .brx 5 (.u 5)),
    (0x54A00000, 0, 0, .nop 5),
    (0x54A00001, 0, 0, .exit 5),
    (0x54A00002, 0, 0, .ret 5),
    (0x54A00003, 0, 0, .vac 5),
    (0x54A00004, 0, 0, .yld 5),
    (0x55A932C0, 0, 0, .mand 5 9 6 11),
    (0x55A932C1, 0, 0, .mor 5 9 6 11),
    (0x55A93002, 0, 0, .mnot 5 9 6),
    (0x55A9E803, 0, 0, .mset 5 9 (.u 5)),
    (0x55AA5804, 0, 0, .mpop 5 (.o 10) 11),
    (0x55AA5805, 0, 0, .mfirst 5 (.o 10) 11),
    (0x56A05800, 0, 0, .mjoin 5 11),
    (0x56A05801, 0, 0, .mleave 5 11),
    (0x56A05802, 0, 0, .mwait 5 11),
    (0x57AA0000, 0, 0, .refill 5 (.o 10)),
    (0x59A00002, 0, 0, .gbar 5 2),
    (0x5AA00000, 0, 0, .lbar 5),
    (0x58E07C40, 0xF8000000, 0, .spawnl 7 (.o 15) .l1 62)] = true := by decide +kernel

theorem test_decode_system : reads [
    (0x70A000C3, 0, 0, .trap 5 195),
    (0x71A00000, 0, 0, .tret 5),
    (0x72A000C3, 0, 0, .esc 5 195),
    (0x73A000C3, 0, 0, .brk 5 195),
    (0x74AA02A7, 0, 0, .rdsr 5 (.o 10) 679),
    (0x75A302A7, 0, 0, .wrsr 5 (.o 3) 679)] = true := by decide +kernel

theorem test_decode_uniform : reads [
    (0x81B4E528, 0, 0, .sadd 5 41 50 37),
    (0x81B4E529, 0, 0, .ssub 5 41 50 37),
    (0x81B4E52A, 0, 0, .smul 5 41 50 37),
    (0x81B4E52B, 0, 0, .sand 5 41 50 37),
    (0x81B4E52C, 0, 0, .sor 5 41 50 37),
    (0x81B4E52D, 0, 0, .sxor 5 41 50 37),
    (0x81B4E52E, 0, 0, .smin 5 41 50 37),
    (0x81B4E52F, 0, 0, .smax 5 41 50 37),
    (0x82B4E528, 0, 0, .sshl 5 41 50 37),
    (0x82B4E529, 0, 0, .sshr 5 41 50 37),
    (0x82B4E52A, 0, 0, .ssar 5 41 50 37),
    (0x82B4E403, 0, 0, .smov 5 41 50),
    (0x82B4E52C, 0, 0, .sminU 5 41 50 37),
    (0x82B4E52D, 0, 0, .smaxU 5 41 50 37),
    (0x83B4E52C, 0, 0, .scmp 5 41 50 37 .ltu),
    (0x88B4E5A5, 0, 0, .saddImm 5 41 50 421),
    (0x89B4E5A5, 0, 0, .smulImm 5 41 50 421),
    (0x8AB4E5A5, 0, 0, .sandImm 5 41 50 421),
    (0x8BB4E5A5, 0, 0, .sorImm 5 41 50 421),
    (0x8CB4E5A5, 0, 0, .sxorImm 5 41 50 421),
    (0x8DB4E433, 0, 0, .sshlImm 5 41 50 51),
    (0x8EB4E433, 0, 0, .sshrImm 5 41 50 51),
    (0x8FB4E433, 0, 0, .ssarImm 5 41 50 51),
    (0x84039048, 0xA, 0, .ssel 0 7 8 9 10)] = true := by decide +kernel

theorem test_decode_uniform_immediate : reads [
    (0x90B4E5A5, 0, 0, .sminImm 5 41 50 421),
    (0x91B4E5A5, 0, 0, .smaxImm 5 41 50 421),
    (0x92B481A5, 0, 0, .smovi 5 41 421),
    (0x93030000, 0xFFFFFFFE, 0, .smovi32 0 6 0xFFFFFFFE),
    (0x94030000, 0x11111111, 0x22222222, .smovi64 0 6 0x11111111 0x22222222)] = true := by decide +kernel

theorem test_decode_tensor : reads [
    (0xA0B48406, 0, 0, .bond 5 41 2 1 2),
    (0xA0B48410, 0, 0, .bondStrait 5 41 2),
    (0xA1A00400, 0, 0, .unbond 5 2),
    (0xA2A06400, 0, 0, .mma 5 50),
    (0xA3B6E400, 0, 0, .talloc 5 45 50),
    (0xA4B68000, 0, 0, .tfree 5 45),
    (0xA5A26400, 0, 0, .tcopy 5 4 50),
    (0xA6A26400, 0, 0, .tquant 5 4 50),
    (0xA7B4E402, 0, 0, .aalloc 5 41 50 2),
    (0xA8A00002, 0, 0, .afree 5 2)] = true := by decide +kernel

theorem test_decode_uniform_memory : reads [
    (0xB0B4E5A5, 0, 0, .sld 5 41 50 421),
    (0xB1B4E5A5, 0, 0, .sst 5 41 50 421),
    (0xB2B4E565, 0, 0, .ldpUniform 5 41 50 5 37),
    (0xB3B4E530, 0, 0, .gred 5 41 50 2 .xor),
    (0xB4A000B6, 0, 0, .qfence 5 182),
    (0xB5A000B6, 0, 0, .qwait 5 182),
    (0xB6A06400, 0, 0, .ttag 5 50),
    (0xB7A06400, 0, 0, .tdisc 5 50),
    (0xB8A06400, 0, 0, .gath 5 50),
    (0xB9A06400, 0, 0, .scat 5 50),
    (0xBAA06401, 0, 0, .prom 5 50 1),
    (0xBBA06400, 0, 0, .dem 5 50)] = true := by decide +kernel

theorem test_decode_uniform_control : reads [
    (0xC0BABCDE, 0, 0, .ubra 5 1752286),
    (0xC1B5EABC, 0, 0, .ubrc 5 43 1 10940),
    (0xC2BABCDE, 0, 0, .ucall 5 1752286),
    (0xC3A00000, 0, 0, .uret 5),
    (0xC4A06528, 0, 0, .spawn 5 50 37),
    (0xC5A06400, 0, 0, .cont 5 50),
    (0xC6A0005A, 0, 0, .phase 5 90),
    (0xC7A0000D, 0, 0, .perf 5 13),
    (0xC8A00004, 0, 0, .carve 5 4)] = true := by decide +kernel

theorem test_decode_uniform_system : reads [
    (0xF0B4D4E0, 0, 0, .rdsrUniform 5 41 679),
    (0xF1B4D4E0, 0, 0, .wrsrUniform 5 41 679)] = true := by decide +kernel

/-- The values of a shared field, in ascending order of their codes, each decode so in the words of an instruction. -/
def codes {α : Type} (l : List α) (base step : Nat) (f : α → Instr) : Bool :=
  reads (l.zipIdx.map (fun p => (BitVec.ofNat 32 (base + step * p.2), 0, 0, f p.1)))

/-- The codes of each shared field: conditions, functions, formats, rounding, code types, modes, operations, widths, scopes
and fence kinds (03_encoding.md R70, R79, R80, R82). -/
theorem test_codes_lane :
    codes [.eq, .ne, .lt, .le, .gt, .ge, .ltu, .leu, .gtu, .geu] 0x09010840 1 (fun x => .cmp 0 1 (.o 1) (.o 1) x) = true ∧
    codes [.eq, .ne, .lt, .le, .gt, .ge, .un, .ord] 0x22010840 1 (fun x => .fcmp 0 1 (.o 1) (.o 1) x) = true ∧
    codes [.rcp, .rsq, .ex2, .lg2, .sin, .cos] 0x23010800 1 (fun x => .fsfu 0 (.o 1) (.o 1) x) = true ∧
    codes [.fp32, .fp16, .bf16, .e4m3, .e5m2, .int32, .uint32] 0x24010807 8 (fun x => .fcvt 0 (.o 1) (.o 1) 0 .nearest x .int8) = true ∧
    codes [.nearest, .zero, .up, .down] 0x24010807 64 (fun x => .fcvt 0 (.o 1) (.o 1) 0 x .fp32 .int8) = true ∧
    codes [.int, .e2m1, .pow2, .hyb] 0x25010840 1 (fun x => .fq4 0 (.o 1) (.o 1) (.o 1) x) = true ∧
    codes [.idx, .up, .down, .xor] 0x28010840 16 (fun x => .shfl 0 (.o 1) (.o 1) (.o 1) x 0) = true ∧
    codes [.all, .any, .uni, .ballot] 0x29010800 16 (fun x => .vote 0 (.o 1) (.o 1) x 0) = true ∧
    codes [.add, .fadd, .mins, .maxs, .minu, .maxu, .and, .or, .xor, .fmin, .fmax] 0x2A010800 64 (fun x => .wred 0 (.o 1) (.o 1) x 0) = true := by
  decide +kernel

theorem test_codes_memory :
    codes [.u8, .s8, .u16, .s16, .w32, .w64, .w128] 0x40040840 1 (fun x => .lds 0 (.o 4) (.o 1) (.o 1) x) = true ∧
    codes [.lane, .warp, .core, .cluster, .die, .device, .system] 0x3D000018 1 (fun x => .fence 0 .sc x) = true ∧
    codes [.acq, .rel, .acqRel, .sc] 0x3D000006 8 (fun x => .fence 0 x .system) = true ∧
    codes [.eq, .ne, .lt, .le, .ltu, .leu] 0x83008208 1 (fun x => .scmp 0 1 1 1 x) = true ∧
    codes [.add, .fadd, .min, .max, .and, .or, .xor] 0xB3008200 8 (fun x => .gred 0 1 1 0 x) = true ∧
    codes [.add32, .add64, .fadd32, .mins32, .maxs32, .minu32, .maxu32, .and32, .or32, .xor32, .swap32, .swap64, .cas32, .cas64] 0x3A020880 1
      (fun x => .atom 0 (.o 2) (.o 1) (.o 2) x ⟨0, 0, .lane, .plain, .normal, 0, 0⟩) = true := by
  decide +kernel

/-- The operand codes of a source field, 0 to 31 (03_encoding.md R67). -/
theorem test_operand_codes :
    codes [.o 0, .o 1, .o 2, .o 3, .o 4, .o 5, .o 6, .o 7, .o 8, .o 9, .o 10, .o 11, .o 12, .o 13, .o 14, .o 15, .l0, .l1, .zero, .lane,
      .x 0, .x 1, .x 2, .x 3, .u 0, .u 1, .u 2, .u 3, .u 4, .u 5, .u 6, .u 7] 0x02120006 2048 (fun x => .mov 0 .zero x) = true := by
  decide +kernel

/-- Words that the manual rejects, and by which check (03_encoding.md R70, R76, R80, R81). -/
theorem test_rejects :
    (decode 0x09130800 0 0, decode 0x090C0800 0 0, decode 0x09000800 0 0, decode 0x01000005 0 0) =
      (.error .reservedField, .error .badValue, .error .badValue, .error .badFunction) ∧
    ([(0x3D000007, 0), (0x24010800, 0), (0x38010004, 0x01800000), (0x38010004, 0x00060000), (0x39010004, 0x00080000), (0x02000040, 0),
      (0xA000000F, 0), (0xA5000000, 0), (0x01160000, 0)] : List (Word × Word)).all (fun p =>
        match decode p.1 p.2 0 with | .error _ => true | .ok _ => false) = true := by
  decide +kernel

/-- The empty word of each set is no instruction (03_encoding.md R77, R78). -/
theorem test_unassigned : decode 0 0 0 = .ok (.unassignedOpcode 0) ∧ decode 0xFFFFFFFF 0 0 = .ok (.unassignedOpcode 0xFFFFFFFF) := by
  decide +kernel

/-- Three words in memory order, and words that end too soon (03_encoding.md R63). -/
theorem test_decode_bytes :
    decodeBytes [0x11, 0x00, 0x03, 0x94, 1, 2, 3, 4, 5, 6, 7, 8, 0xEE] = .error .reservedField ∧
    decodeBytes [0x00, 0x00, 0x03, 0x94, 1, 2, 3, 4, 5, 6, 7, 8, 0xEE] = .ok (.smovi64 0 6 0x04030201 0x08070605, [0xEE]) ∧
    decodeBytes [0x00, 0x00, 0x03, 0x94, 1, 2, 3, 4, 5, 6, 7] = .error .tooShort := by
  decide +kernel

/-! ## A small laboratory: one task with two live lanes, converged, in slot 0 of core 0 -/

def labLane (o : SMap Word) : Lane := { Lane.dflt with st := .live, pc := 0x10000, o := o }

def labTask : Warp :=
  { slot := .board, spc := 0x10000, trec := { code := 0x10000 }, tvec := 0x8000
    lanes := [(0, labLane [(1, 7), (2, 0xFFFFFFFE), (4, 0xFFFFFFFF), (5, 0x7FFF8001), (6, 0x00027FFF)]),
              (1, labLane [(1, 0x80000000), (2, 33), (5, 0x80000005), (6, 0xFFFF0006)])]
    mks := [(1, 3), (2, 1), (3, 0xFFFFFFFF)] }

/-- The task in its slot, its launch running, both lanes executing. -/
def labOf (w : Warp) : State :=
  { State.reset with warps := [(0, w)], launches := [(0, Launch.dflt)], cur := { warp := 0, lanes := 3, strand := true } }

def lab : State := labOf labTask

/-- The state after an instruction, for one that answers a next state. -/
def after (i : Instr) (s : State) : State :=
  match exec i s with
  | .next t => t
  | _ => State.reset

/-- The instruction answers a next state. -/
def goes (i : Instr) (s : State) : Bool :=
  match exec i s with
  | .next _ => true
  | _ => false

/-- Only some lanes of slot 0 execute. -/
def only (s : State) (lanes : Word) : State := { s with cur := { warp := 0, lanes := lanes } }

def laneAfter (i : Instr) (s : State) (l : Nat) : Lane := ((after i s).warp 0).lane l

/-- Each instruction leaves the two values in register o3 of the two lanes. -/
def gives (s : State) (l : List (Instr × Word × Word)) : Bool :=
  l.all (fun p => decide ((laneAfter p.1 s 0).o.get 0 3 = p.2.1) && decide ((laneAfter p.1 s 1).o.get 0 3 = p.2.2))

theorem test_integer : gives lab [
    (.add 0 (.o 3) (.o 1) (.o 2), 0x5, 0x80000021), (.sub 0 (.o 3) (.o 1) (.o 2), 0x9, 0x7FFFFFDF),
    (.mul 0 (.o 3) (.o 1) (.o 2), 0xFFFFFFF2, 0x80000000), (.mulh 0 (.o 3) (.o 1) (.o 2), 0xFFFFFFFF, 0xFFFFFFEF),
    (.mulhU 0 (.o 3) (.o 1) (.o 2), 0x6, 0x10), (.and 0 (.o 3) (.o 1) (.o 2), 0x6, 0x0),
    (.or 0 (.o 3) (.o 1) (.o 2), 0xFFFFFFFF, 0x80000021), (.xor 0 (.o 3) (.o 1) (.o 2), 0xFFFFFFF9, 0x80000021),
    (.andn 0 (.o 3) (.o 1) (.o 2), 0x1, 0x80000000), (.shl 0 (.o 3) (.o 1) (.o 2), 0xC0000000, 0x0),
    (.shr 0 (.o 3) (.o 1) (.o 2), 0x0, 0x40000000), (.sar 0 (.o 3) (.o 1) (.o 2), 0x0, 0xC0000000),
    (.rotl 0 (.o 3) (.o 1) (.o 2), 0xC0000001, 0x1), (.min 0 (.o 3) (.o 1) (.o 2), 0xFFFFFFFE, 0x80000000),
    (.max 0 (.o 3) (.o 1) (.o 2), 0x7, 0x21), (.minU 0 (.o 3) (.o 1) (.o 2), 0x7, 0x21),
    (.maxU 0 (.o 3) (.o 1) (.o 2), 0xFFFFFFFE, 0x80000000)] = true := by decide +kernel

theorem test_immediate : gives lab [
    (.addImm 0 (.o 3) (.o 1) 0x7FE, 0x5, 0x7FFFFFFE), (.mulImm 0 (.o 3) (.o 1) 0x7FE, 0xFFFFFFF2, 0x0),
    (.andImm 0 (.o 3) (.o 1) 0x7FE, 0x6, 0x80000000), (.orImm 0 (.o 3) (.o 1) 0x7FE, 0xFFFFFFFF, 0xFFFFFFFE),
    (.xorImm 0 (.o 3) (.o 1) 0x7FE, 0xFFFFFFF9, 0x7FFFFFFE), (.shlImm 0 (.o 3) (.o 1) 31, 0x80000000, 0x0),
    (.shrImm 0 (.o 3) (.o 1) 31, 0x0, 0x1), (.sarImm 0 (.o 3) (.o 1) 31, 0x0, 0xFFFFFFFF), (.rotlImm 0 (.o 3) (.o 1) 1, 0xE, 0x1),
    (.minImm 0 (.o 3) (.o 1) 0x7FE, 0xFFFFFFFE, 0x80000000), (.maxImm 0 (.o 3) (.o 1) 0x7FE, 0x7, 0xFFFFFFFE)] = true := by decide +kernel

theorem test_unary_and_fields : gives lab [
    (.neg 0 (.o 3) (.o 1), 0xFFFFFFF9, 0x80000000), (.abs 0 (.o 3) (.o 1), 0x7, 0x80000000), (.not 0 (.o 3) (.o 1), 0xFFFFFFF8, 0x7FFFFFFF),
    (.clz 0 (.o 3) (.o 1), 29, 0), (.popc 0 (.o 3) (.o 1), 3, 1), (.brev 0 (.o 3) (.o 1), 0xE0000000, 1), (.mov 0 (.o 3) .lane, 0, 1),
    (.mad 0 (.o 3) (.o 1) (.o 2) (.o 1), 0xFFFFFFF9, 0), (.lea 0 (.o 3) (.o 1) (.o 2) 4, 0xFFFFFFE7, 0x80000210),
    (.bfx 0 (.o 3) (.o 2) 3 28, 0xF, 0), (.bfxSigned 0 (.o 3) (.o 2) 3 28, 0xFFFFFFFF, 0),
    (.sel 0 (.o 3) (.o 1) (.o 2) 2, 7, 33), (.movi 0 (.o 3) 0x400, 0xFFFFFC00, 0xFFFFFC00), (.moviWide 0 (.o 3) 0x89ABCDEF, 0x89ABCDEF, 0x89ABCDEF),
    (.mpop 0 (.o 3) 2, 1, 1), (.mfirst 0 (.o 3) 4, 32, 32)] = true ∧
    -- bfi also reads its destination, and a pair of registers carries into its high half
    (laneAfter (.bfi 0 (.o 1) (.o 2) 3 4) lab 0).o.get 0 1 = 0xE7 ∧
    (let l := laneAfter (.addw 0 (.o 8) (.o 4) (.o 4)) lab 0; (l.o.get 0 8, l.o.get 0 9, l.l0) = (0xFFFFFFFE, 1 + 2 * 0x7FFF8001, 0xFFFFFFFE)) := by
  decide +kernel

theorem test_packed : gives lab [
    (.hadd2 0 (.o 3) (.o 5) (.o 6), 0x80010000, 0x7FFF000B), (.hsub2 0 (.o 3) (.o 5) (.o 6), 0x7FFD0002, 0x8001FFFF),
    (.hmin2 0 (.o 3) (.o 5) (.o 6), 0x00028001, 0x80000005), (.hmax2 0 (.o 3) (.o 5) (.o 6), 0x7FFF7FFF, 0xFFFF0006),
    (.hadd2Sat 0 (.o 3) (.o 5) (.o 6), 0x7FFF0000, 0x8000000B), (.hsub2Sat 0 (.o 3) (.o 5) (.o 6), 0x7FFD8000, 0x8001FFFF),
    (.hmin2U 0 (.o 3) (.o 5) (.o 6), 0x00027FFF, 0x80000005), (.hmax2U 0 (.o 3) (.o 5) (.o 6), 0x7FFF8001, 0xFFFF0006),
    (.acs2 0 (.o 3) (.o 5) (.o 6) 4, 0x80038001, 0x8006000B)] = true ∧
    (let w := (after (.acs2 0 (.o 3) (.o 5) (.o 6) 4) lab).warp 0; (w.mks.get 0 4, w.mks.get 0 5) = (1, 2)) := by decide +kernel

/-- A result enters l0 and the old l0 l1, also where code 18 discards it; the lane goes on at the next word with its stall. -/
theorem test_history :
    (let l := laneAfter (.add 3 .zero (.o 1) (.o 1)) lab 0; (l.o, l.l0, l.l1, l.pc, l.stallLeft) = (((lab.warp 0).lane 0).o, 14, 0, 0x10004, 4)) ∧
    ((after (.add 3 (.o 3) .l0 .l1) lab).warp 0).spc = 0x10004 := by decide +kernel

/-- A lane writes its own bits of a mask alone; mk2 holds lane 0. -/
theorem test_masks :
    ([(.cmp 0 5 (.o 1) (.o 2) .lt, 2), (.cmp 0 5 (.o 1) (.o 2) .ltu, 1), (.fcmp 0 5 (.o 1) (.o 2) .un, 1), (.mand 0 5 1 2, 1), (.mor 0 5 2 4, 1),
      (.mnot 0 5 2, 2), (.mset 0 5 (.o 1), 1), (.mnot 0 3 1, 0xFFFFFFFC)] : List (Instr × Word)).all (fun p =>
        decide (((after p.1 lab).warp 0).mks.get 0 (match p.1 with | .mnot _ 3 _ => 3 | _ => 5) = p.2)) = true := by decide +kernel

/-- Worked from the definitions of the formats: 1 + 1, 1 − 1, 1.5 × 1.5, the smaller and larger of 1 and 1.5, 1.5 × 1.5 + 1,
1 / 2, FP32 1.5 to FP16, the E2M1 code of 3 at exponent 0, and back. -/
def labFloat : State := labOf { labTask with lanes := [(0, labLane [(1, 0x3F800000), (2, 0x3FC00000), (4, 0x40000000), (5, 0x40400000), (6, 5)])] }

theorem test_float :
    ([(.fadd 0 (.o 3) (.o 1) (.o 1), 0x40000000), (.fsub 0 (.o 3) (.o 1) (.o 1), 0), (.fmul 0 (.o 3) (.o 2) (.o 2), 0x40100000),
      (.fmin 0 (.o 3) (.o 1) (.o 2), 0x3F800000), (.fmax 0 (.o 3) (.o 1) (.o 2), 0x3FC00000), (.ffma 0 (.o 3) (.o 2) (.o 2) (.o 1), 0x40500000),
      (.fsfu 0 (.o 3) (.o 4) .rcp, 0x3F000000), (.fsfu 0 (.o 3) (.o 4) .ex2, 0x40800000), (.fsfu 0 (.o 3) (.o 4) .lg2, 0x3F800000),
      (.fcvt 0 (.o 3) (.o 2) 0 .nearest .fp16 .fp32, 0x3E00), (.fcvt 0 (.o 3) (.o 2) 0 .zero .int32 .fp32, 1),
      (.fq4 0 (.o 3) (.o 5) .zero .e2m1, 5), (.fdq4 0 (.o 3) (.o 6) .zero .e2m1, 0x40400000)] : List (Instr × Word)).all (fun p =>
        decide ((laneAfter p.1 labFloat 0).o.get 0 3 = p.2)) = true := by decide +kernel

/-- The two lanes exchange values, vote and reduce; lane 1 names a lane that takes no part. -/
theorem test_warp_data : gives lab [
    (.shfl 0 (.o 3) (.o 1) .lane .xor 1, 7, 7), (.shfl 0 (.o 3) (.o 1) .zero .idx 1, 7, 7), (.shfl 0 (.o 3) (.o 1) .lane .down 1, 7, 0x80000000),
    (.vote 0 (.o 3) .lane .all 1, 0, 0), (.vote 0 (.o 3) .lane .any 1, 1, 1), (.vote 0 (.o 3) .zero .uni 1, 1, 1), (.vote 0 (.o 3) .lane .ballot 1, 2, 2),
    (.wred 0 (.o 3) (.o 1) .add 1, 0x80000007, 0x80000007), (.wred 0 (.o 3) (.o 1) .mins 1, 0x80000000, 0x80000000),
    (.wred 0 (.o 3) (.o 1) .minu 1, 7, 7), (.wred 0 (.o 3) (.o 1) .xor 1, 0x80000007, 0x80000007)] = true ∧
    -- a lane of the mask that is live and has not arrived: the lanes wait at the instruction
    (let s := { lab with cur := { warp := 0, lanes := 1 } }; ((laneAfter (.vote 0 (.o 3) .lane .any 1) s 0).wait, (laneAfter (.vote 0 (.o 3) .lane .any 1) s 0).pc) = (.round 1, 0x10000)) := by
  decide +kernel

/-! ## Hypotheses that can be met: the lanes and the strand -/

/-- The laboratory with gap checking on, and with no lane of the task waiting and a handler set. -/
def labChk : State := labOf { labTask with chk := true }

theorem test_meets_LaneInteger :
    (labChk.Clear (srcRes (.o 1) ++ srcRes .l0) ∧ labChk.execLanes = [0, 1]) ∧
    -- one lane reads a result within its gap: the statement's hypothesis then fails
    ¬(labOf { labTask with chk := true, lanes := [(0, { labLane [] with pend := [⟨.o 1, 0, 2, false⟩] })] }).Clear (srcRes (.o 1)) := by
  unfold State.Clear State.ClearBy; decide +kernel

theorem test_meets_LaneUnaryAndFields :
    labChk.Clear (srcRes (.o 1) ++ srcRes (.o 2) ++ srcRes .zero) ∧
    labChk.Clear (LRes.mk 11 :: dstRes .zero ++ srcRes (.o 4) ++ srcRes .zero ++ pairRes (.o 4) ++ pairRes .zero) := by
  unfold State.Clear State.ClearBy; decide +kernel

theorem test_meets_MaskInstructions :
    lab.Calm ∧ lab.Handled ∧ labChk.Clear (LRes.mk 0 :: LRes.mk 11 :: srcRes (.o 1) ++ srcRes .lane) := by
  unfold State.Calm State.Handled State.Clear State.ClearBy; decide +kernel

theorem test_meets_WarpData :
    labChk.Calm ∧ labChk.Clear (LRes.mk 1 :: srcRes (.o 1) ++ srcRes (.o 2)) ∧ ([0, 2, 31] : List Nat).Sublist laneList ∧
    labChk.execLanes = lanesOf ((labChk.warp 0).maskSeen false 1 &&& (labChk.warp 0).live) := by
  unfold State.Calm State.Clear State.ClearBy; decide +kernel

theorem test_meets_FloatSpecials :
    -- a NaN with a payload, both infinities, both zeros
    (0xFF800001 : Word).toNat / 2 ^ 23 % 256 = 255 ∧ fAdd true 0xFF800001 0 = ⟨0x7FC00000, 0⟩ ∧ fAdd false 0x7F800000 0xFF800000 = ⟨0x7FC00000, fNV⟩ ∧
    fMul false 0xFF800000 0x80000000 = ⟨0x7FC00000, fNV⟩ ∧ fMinMax true false 0x7F800001 0x80000000 = ⟨0x80000000, 0⟩ ∧
    fFma false 0x7F800000 0 0x7FC00001 = ⟨0x7FC00000, fNV⟩ := by decide +kernel

/-- m1 holds a value, index register x0 points at m127, and with four spilled entries m124 to m127 are locked. -/
def labMain : State :=
  labOf { labTask with lanes := [(0, { labLane [(1, 7)] with m := [(1, 0xAA), (127, 0xBB)], x := [(0, 126)] }),
                                 (1, { labLane [(1, 9)] with m := [(1, 0xCC)], x := [(0, 127)], rstk := [8, 8, 8, 8, 8, 8, 8, 8], spill := [4] })] }

theorem test_meets_RegisterRegionsAndTraps :
    labMain.Clear ([1, 1, 127, 0].map LRes.m) ∧ labMain.Handled ∧ labMain.Calm ∧ labMain.glitch = none ∧
    (labMain.execLanes.all (fun i => [0, 126].all (fun j => !((labMain.warp 0).lane i).locked j))) = true ∧
    -- lane 0 has an index within the bounds and a register that is not locked, lane 1 has neither
    ((labMain.view 0).src 0 (.x 0)).toInt + 1 = 127 ∧ ((labMain.view 1).src 0 (.x 0)).toInt + 1 = 128 ∧
    ((labMain.view 0).ln.locked 127, (labMain.view 1).ln.locked 127, (labMain.view 1).ln.locked 126) = (false, true, false) ∧
    (labMain.ClearBy (fun v => [LRes.x 0, LRes.m ((v.src 0 (.x 0)).toInt + 1).toNat])) := by
  unfold State.Clear State.ClearBy State.Calm State.Handled; decide +kernel

theorem test_regions :
    (laneAfter (.rgn 0 4 2 0 127 1 1) labMain 0).o = [(1, 7), (4, 0xAA), (5, 0xAA), (6, 0xBB)] ∧
    ((laneAfter (.wbk 0 1 1 0 0 5 5) labMain 0).m.get 1 5) = 0 ∧
    (laneAfter (.mvmToMain 0 (.o 1) 3) labMain 1).m.get 0 3 = 9 ∧ (laneAfter (.mvmFromMain 0 (.o 3) 1) labMain 1).o.get 0 3 = 0xCC ∧
    (let l := laneAfter (.xbnd 0 9 3) labMain 0; (l.lo, l.hi, l.pc) = (3, 9, 0x10008)) ∧
    (laneAfter (.xset 0 2 (.o 1) 0x7FE) labMain 0).x.get 0 2 = 5 ∧ (laneAfter (.ldx 0 (.o 3) 0 1) labMain 0).o.get 0 3 = 0xBB ∧
    -- lane 1 passes the upper bound, and m127 is locked in it
    (let l := laneAfter (.ldx 0 (.o 3) 0 1) labMain 1; (l.trapCode, l.inH, l.pc, l.trapPc, l.trapMask) = (4, true, 0x8000, 0x10000, 2)) ∧
    (laneAfter (.stx 0 (.o 1) 0 0) labMain 0).m.get 0 126 = 7 ∧ (laneAfter (.stx 0 (.o 1) 0 0) labMain 1).trapCode = 4 := by decide +kernel

/-- Lane 0 holds no return entry, lane 1 sixteen. -/
def labCalls : State :=
  labOf { labTask with lanes := [(0, labLane []), (1, { labLane [] with rstk := [1, 2, 3, 4, 5, 6, 7, 8], spill := [9, 10, 11, 12, 13, 14, 15, 16] })] }

theorem test_meets_LaneBranches :
    (only labCalls 2).Handled ∧ (only labCalls 2).Calm ∧ (only labCalls 2).Clear [] ∧ (only labCalls 2).execLanes = [1] ∧ (only labCalls 1).execLanes = [0] ∧
    ((labCalls.warp 0).lane 1).rstk.length = 8 ∧ ((labCalls.warp 0).lane 1).spill.length = 8 ∧ ((labCalls.warp 0).lane 0).rstk = [] ∧
    lab.StrandClear [] ∧ (lab.warp 0).ustk = [] ∧ (labOf { labTask with ustk := [1, 2, 3, 4, 5, 6, 7, 8] }).StrandClear [] := by
  unfold State.Clear State.ClearBy State.Calm State.Handled State.StrandClear; decide +kernel

theorem test_branches :
    (laneAfter (.bra 0 0x1FFFFF) lab 0).pc = 0xFFFC ∧ (laneAfter (.brc 0 1 2 4) lab 0).pc = 0x10010 ∧ (laneAfter (.brc 0 1 2 4) lab 1).pc = 0x10004 ∧
    (laneAfter (.brx 0 (.o 2)) lab 0).pc = 0xFFF8 ∧ (laneAfter (.nop 5) lab 0).stallLeft = 6 ∧ (laneAfter (.yld 0) lab 0).yieldLeft = 33 ∧
    (let l := laneAfter (.call 0 16) (only labCalls 1) 0; (l.pc, l.rstk) = (0x10040, [0x10004])) ∧
    (laneAfter (.call 0 16) (only labCalls 2) 1).trapCode = 4 ∧ (laneAfter (.ret 0) (only labCalls 1) 0).trapCode = 4 ∧
    (let l := laneAfter (.ret 0) (only labCalls 2) 1; (l.pc, l.rstk ++ l.spill) = (1, [2, 3, 4, 5, 6, 7, 8, 9, 10, 11, 12, 13, 14, 15, 16])) ∧
    (let w := (after (.bra 0 2) (only lab 1)).warp 0; (w.converged, (w.lane 1).pc) = (false, 0x10000)) := by decide +kernel

/-- A task with an item queue. -/
def labItems : State := labOf { labTask with trec := { code := 0x10000, itemq := 0x10400 } }

theorem test_meets_SharedLeavingAndJoining :
    lab.Clear [LRes.mk 11] ∧ (labItems.warp 0).trec.itemq ≠ 0 ∧
    -- both lanes in mk1; lane 0 alone with lane 1 missing from mk1; lane 1 outside mk2
    (lab.execLanes.all (fun i => (lab.view i).maskBit 0 1 && bitAt ((lab.warp 0).mask 1) i)) = true ∧
    lanesOf ((lab.warp 0).mask 1 &&& (lab.warp 0).live) = lab.execLanes ∧
    1 ∈ lanesOf ((lab.warp 0).mask 1 &&& (lab.warp 0).live) ∧ 1 ∉ (only lab 1).execLanes ∧ ((only lab 2).view 1).maskBit 0 2 = false ∧
    (only lab 2).Handled ∧ (only lab 2).Calm := by
  unfold State.Clear State.ClearBy State.Calm State.Handled; decide +kernel

theorem test_leaving_and_joining :
    (laneAfter (.exit 0) (only lab 1) 0).st = .exited ∧ (laneAfter (.vac 0) (only labItems 1) 0).st = .vacant ∧ (laneAfter (.vac 0) (only lab 1) 0).trapCode = 1 ∧
    (laneAfter (.mjoin 0 1) lab 1).pc = 0x10004 ∧ (laneAfter (.mwait 0 1) lab 1).pc = 0x10004 ∧
    (let l := laneAfter (.mjoin 0 1) (only lab 1) 0; (l.wait, l.pc) = (.join 1, 0x10000)) ∧ (laneAfter (.mwait 0 1) (only lab 1) 0).wait = .meet 1 ∧
    ((after (.mleave 0 1) (only lab 1)).warp 0).mks.get 0 1 = 2 ∧ (laneAfter (.mleave 0 2) (only lab 2) 1).trapCode = 6 := by decide +kernel

/-- Lane 0 is in the handler. -/
def labInH : State :=
  labOf { labTask with converged := false, lanes := [(0, { labLane [] with pc := 0x8000, inH := true, trapPc := 0x10004 }), (1, labLane [])] }

theorem test_meets_SoftTraps :
    lab.Handled ∧ (only labInH 1).Clear [] ∧ (only labInH 1).Calm ∧ ((only labInH 1).execLanes.all (fun i => (((only labInH 1).warp 0).lane i).inH)) = true := by
  unfold State.Clear State.ClearBy State.Calm State.Handled; decide +kernel

theorem test_soft_traps :
    (let l := laneAfter (.trap 0 0xAB) lab 0; (l.trapCode, l.trapPc, l.trapMask, l.pc, l.inH) = (0xAB12, 0x10004, 3, 0x8000, true)) ∧
    (laneAfter (.brk 0 1) lab 1).trapCode = 0x111 ∧
    (let l := laneAfter (.tret 0) (only labInH 1) 0; (l.pc, l.inH) = (0x10004, false)) ∧ (laneAfter (.tret 0) lab 0).trapCode = 1 := by decide +kernel

theorem test_meets_FatalTrap :
    (only labInH 1).Clear [] ∧ (only labInH 1).execLanes ≠ [] ∧ labInH.launch? 0 = some Launch.dflt ∧ Launch.dflt.st ≠ .ended ∧
    ((labOf { labTask with tvec := 0 }).warp 0).tvec = 0 := by
  unfold State.Clear State.ClearBy; decide +kernel

/-- Code, trap and lanes of the fault record of launch 0, and whether the trap was nested. -/
def faultOf (s : State) : Option (Nat × Nat × Bool × Word) := (s.launch 0).fault.map (fun f => (f.code, f.trap, f.nest, f.lanes))

theorem test_fatal_trap :
    ((after (.trap 0 1) (only labInH 1)).warp 0).slot = .free ∧ ((after (.trap 0 1) (only labInH 1)).launch 0).st = .ended ∧
    faultOf (after (.trap 0 1) (only labInH 1)) = some (0x09, 0x12, true, 1) ∧
    faultOf (after (.brk 0 1) (labOf { labTask with tvec := 0 })) = some (0x09, 0x11, false, 3) := by decide +kernel

/-! ### The strand -/

def labS : State := labOf { labTask with s := [(1, 7), (2, 0xFFFFFFFFFFFFFFFE), (3, 0x8000000000000000), (4, 65)] }

theorem test_meets_StrandArithmetic : (labOf { labTask with chk := true, s := [(1, 7)], spend := [⟨5, 0, 3⟩] }).StrandClear [1, 2, 63] ∧
    ¬(labOf { labTask with chk := true, spend := [⟨5, 0, 3⟩] }).StrandClear [5] := by
  unfold State.StrandClear; decide +kernel

theorem test_strand :
    ([(.sadd 0 9 1 2, 5), (.ssub 0 9 1 2, 9), (.smul 0 9 1 2, 0xFFFFFFFFFFFFFFF2), (.sand 0 9 1 2, 6), (.sor 0 9 1 2, 0xFFFFFFFFFFFFFFFF),
      (.sxor 0 9 1 2, 0xFFFFFFFFFFFFFFF9), (.smin 0 9 1 2, 0xFFFFFFFFFFFFFFFE), (.smax 0 9 1 2, 7), (.sminU 0 9 1 2, 7), (.smaxU 0 9 1 2, 0xFFFFFFFFFFFFFFFE),
      (.sshl 0 9 1 4, 14), (.sshr 0 9 3 4, 0x4000000000000000), (.ssar 0 9 3 4, 0xC000000000000000), (.smov 0 9 3, 0x8000000000000000),
      (.scmp 0 9 2 1 .lt, 1), (.scmp 0 9 2 1 .ltu, 0), (.ssel 0 9 1 2 10, 0xFFFFFFFFFFFFFFFE)] : List (Instr × Word64)).all (fun p =>
        decide (((after p.1 labS).warp 0).sreg 9 = p.2)) = true := by decide +kernel

theorem test_strand_immediate :
    ([(.saddImm 0 9 1 0x1FF, 6), (.smulImm 0 9 1 0x1FF, 0xFFFFFFFFFFFFFFF9), (.sandImm 0 9 1 0x1FE, 6), (.sorImm 0 9 1 0x100, 0xFFFFFFFFFFFFFF07),
      (.sxorImm 0 9 1 1, 6), (.sminImm 0 9 1 0x1FF, 0xFFFFFFFFFFFFFFFF), (.smaxImm 0 9 1 0x1FF, 7), (.sshlImm 0 9 1 63, 0x8000000000000000),
      (.sshrImm 0 9 3 63, 1), (.ssarImm 0 9 3 63, 0xFFFFFFFFFFFFFFFF), (.smovi 0 9 0x100, 0xFFFFFFFFFFFFFF00), (.smovi32 0 9 0x80000000, 0xFFFFFFFF80000000),
      (.smovi64 0 9 1 2, 0x0000000200000001)] : List (Instr × Word64)).all (fun p => decide (((after p.1 labS).warp 0).sreg 9 = p.2)) = true ∧
    (let w := (after (.smovi64 3 9 1 2) labS).warp 0; (w.spc, (w.lane 1).pc, w.sstall) = (0x1000C, 0x1000C, 4)) := by decide +kernel

theorem test_meets_StrandBranches : labS.StrandClear [63] ∧ (labOf { labTask with ustk := [0x44, 0x48] }).StrandClear [0] ∧
    (labOf { labTask with ustk := [1, 2, 3, 4, 5, 6, 7] }).StrandClear [0] := by
  unfold State.StrandClear; decide +kernel

theorem test_strand_branches :
    (let w := (after (.ubra 0 0x1FFFFE) labS).warp 0; (w.spc, (w.lane 0).pc) = (0xFFF8, 0xFFF8)) ∧
    ((after (.ubrc 0 1 1 0x3FFF) labS).warp 0).spc = 0xFFFC ∧ ((after (.ubrc 0 1 0 0x3FFF) labS).warp 0).spc = 0x10004 ∧
    (let w := (after (.ucall 0 8) labS).warp 0; (w.spc, w.ustk) = (0x10020, [0x10004])) ∧
    (let w := (after (.uret 0) (labOf { labTask with ustk := [0x44, 0x48] })).warp 0; (w.spc, w.ustk) = (0x44, [0x48])) ∧
    (let l := laneAfter (.uret 0) lab 1; (l.trapCode, l.trapPc, l.pc) = (4, 0x10000, 0x8000)) := by decide +kernel

theorem test_meets_Divergence :
    (labTask.converged = true ∧ labTask.live ≠ 0 ∧ ∀ i ∈ lanesOf labTask.live, (labTask.lane i).pc = 0x10000) ∧
    (∃ i ∈ lanesOf (labInH.warp 0).live, ∃ j ∈ lanesOf (labInH.warp 0).live, ((labInH.warp 0).lane i).pc ≠ ((labInH.warp 0).lane j).pc) ∧
    (let s := labOf { labTask with converged := false }; s.Handled ∧ s.glitch = none ∧ (s.warp 0).converged = false ∧
      (laneAfter (.sadd 0 1 1 1) s 0).trapCode = 2) := by
  unfold State.Handled; decide +kernel

/-! ### Special registers -/

theorem test_meets_SpecialRegisters :
    lab.Clear [] ∧ lab.StrandClear [5] ∧ (lanesOf (lab.warp 0).live).head? = some 0 ∧ spReg 0x3FF = none ∧ spReg 0x009 = none ∧ lab.Handled ∧ lab.Calm ∧
    lab.Clear (srcRes (.o 1)) ∧ lab.execLanes.getLast? = some 1 := by
  unfold State.Clear State.ClearBy State.Calm State.Handled State.StrandClear; decide +kernel

def labRegs : State := labOf { labTask with taskId := 0x1234, tvec := 0xAABBCC0000008000, s := [(5, 0xFFFFFFFFFFFFFFFF)] }

theorem test_special_registers :
    (laneAfter (.rdsr 0 (.o 3) 0x080) labRegs 0).o.get 0 3 = 0x1234 ∧
    (let l := laneAfter (.rdsr 0 (.o 3) 0x040) labRegs 0; (l.o.get 0 3, l.latch) = (0x8000, some 0xAABBCC00)) ∧
    ((after (.rdsrUniform 0 9 0x040) labRegs).warp 0).sreg 9 = 0xAABBCC0000008000 ∧ (laneAfter (.rdsr 0 (.o 3) 0x3FF) labRegs 0).trapCode = 1 ∧
    -- the highest executing lane's value, without the reserved bits
    ((after (.wrsr 0 (.o 2) 0x010) lab).warp 0).stk = 33 ∧ ((after (.wrsrUniform 0 5 0x010) labRegs).warp 0).stk = 0x7FF ∧
    ((after (.wrsrUniform 0 5 0x040) labRegs).warp 0).tvec = 0x00FFFFFFFFFFFFFC ∧ (laneAfter (.wrsr 0 (.o 1) 0x049) lab 0).trapPc = 4 := by decide +kernel

/-- Both lanes read o1, m1 and mk2 within their gaps; o8 and o9 were written by one producer. -/
def labGap : State :=
  let ps : List Pend := [⟨.o 1, 9, 2, false⟩, ⟨.mk 2, 1, 2, false⟩, ⟨.x 0, 0, 1, false⟩, ⟨.o 8, 3, 4, false⟩, ⟨.o 9, 4, 4, true⟩]
  labOf { labTask with chk := true, lanes := [(0, { labLane [(1, 7)] with pend := ps }), (1, { labLane [(1, 8)] with pend := ps })] }

/-- Only lane 0 reads o1 within its gap. -/
def labGapOne : State :=
  labOf { labTask with chk := true, lanes := [(0, { labLane [(1, 7)] with pend := [⟨.o 1, 9, 2, false⟩] }), (1, labLane [(1, 8)])] }

theorem test_meets_OperandForms :
    (lab.view 0).ln.pend = [] ∧ (lab.view 0).second = false ∧ (lab.warp 0).spend = [] ∧
    pendOf (labGap.view 0).ln.pend (.o 1) = some ⟨.o 1, 9, 2, false⟩ ∧
    pendOf (labGap.view 0).ln.pend (.o 8) = some ⟨.o 8, 3, 4, false⟩ ∧ pendOf (labGap.view 0).ln.pend (.o (8 + 1)) = some ⟨.o 9, 4, 4, true⟩ ∧
    (let v : View := { (lab.view 0) with w := { labTask with pairSeen := some { mks := [(1, 2)], stk := 0, chk := false, tvec := 0 } }, second := true }
     v.ln.pend = [] ∧ v.second = true ∧ v.w.pairSeen = some { mks := [(1, 2)], stk := 0, chk := false, tvec := 0 } ∧ v.mask 0 1 = 2) := by decide +kernel

/-- The gap trap: a register operand, a mask operand and an index register that every lane reads within its gap, and one that lane 0 does. -/
theorem test_meets_gap_trap :
    labGap.Handled ∧ labGap.Calm ∧ labGap.glitch = none ∧ (labGap.warp 0).seenChk labGap.cur.second = true ∧ labGap.execLanes ≠ [] ∧
    ([.add 0 (.o 3) (.o 1) .zero, .sel 0 (.o 3) .zero .zero 2, .addw 0 (.o 4) (.o 8) .zero] : List Instr).all (fun i => withinWarp i &&
      labGap.execLanes.all (fun j => (laneSources (labGap.view j).ln i ++ maskSources i).any (fun r => (pendOf (labGap.view j).ln.pend r).isSome))) = true ∧
    (labGap.execLanes.all (fun j => (pendOf (labGap.view j).ln.pend (.x 0)).isSome)) = true := by
  unfold State.Calm State.Handled; decide +kernel

theorem test_gap_trap :
    ([.add 0 (.o 3) (.o 1) .zero, .sel 0 (.o 3) .zero .zero 2, .addw 0 (.o 4) (.o 8) .zero, .ldx 0 (.o 3) 0 1] : List Instr).all (fun i =>
      decide ((laneAfter i labGap 1).trapCode = 3)) = true ∧
    ((laneAfter (.add 0 (.o 3) (.o 1) .zero) labGapOne 0).trapCode, (laneAfter (.add 0 (.o 3) (.o 1) .zero) labGapOne 1).o.get 0 3) = (3, 8) := by decide +kernel

/-- 1.5, 2^-149 and the greatest finite value are finite, with sums and products that are not 0; NaNs of two payloads are not. -/
theorem test_meets_LaneFloats :
    fpFinite 0x3FC00000 ∧ fpFinite 1 ∧ fpFinite 0xFF7FFFFF ∧ ¬fpFinite 0x7F800000 ∧ fpNan 0x7FC00000 ∧ fpNan 0xFF800001 ∧ ¬fpNan 0x7F800000 := by
  unfold fpFinite fpNan; decide

theorem test_float_compare :
    [FloatCond.eq, .ne, .lt, .le, .gt, .ge, .un, .ord].map (fun c => (fCompare c false 0x3F800000 0xBF800000).val) = [false, true, false, false, true, true, false, true] ∧
    [FloatCond.eq, .ne, .lt, .le, .gt, .ge, .un, .ord].map (fun c => (fCompare c false 0 0x80000000).val) = [true, false, false, true, false, true, false, true] ∧
    fCompare .lt false 0x7FC00000 0 = ⟨false, fNV⟩ ∧ fCompare .ne false 0x7FC00000 0 = ⟨true, 0⟩ := by decide +kernel

/-- Diverged, both lanes in mk1 and at one address: lane 1 waits at the mjoin that lane 0 executes. -/
def labJoin : State :=
  only (labOf { labTask with converged := false, lanes := [(0, labLane []), (1, { labLane [] with wait := .join 1 })] }) 1

theorem test_meets_reconvergence :
    labJoin.Clear [LRes.mk 1] ∧ labJoin.execLanes ≠ [] ∧ (∀ i ∈ labJoin.execLanes, (labJoin.view i).maskBit 0 1 = true) ∧
    (lanesOf (labJoin.warp 0).live).all (fun i => decide (((labJoin.warp 0).lane i).pc = 0x10000) && bitAt ((labJoin.warp 0).mask 1) i &&
      (decide (i ∈ labJoin.execLanes) || decide (((labJoin.warp 0).lane i).wait = .join 1))) = true ∧
    (let w := (after (.mjoin 0 1) labJoin).warp 0; (w.converged, w.spc, (w.lane 0).pc, (w.lane 1).pc, (w.lane 1).wait) = (true, 0x10004, 0x10004, 0x10004, .none)) := by
  unfold State.Clear State.ClearBy; decide +kernel

/-- The slot names core-bound group 3, whose window lies at 0x800; slot 1 names none. -/
def labWin : State :=
  { labOf { labTask with trec := { code := 0x10000, groups := [0x8003, 0, 0, 0] } } with
    launches := [(0, { Launch.dflt with groups := [(3, ⟨1, 1, 2⟩)] })]
    cores := [(0, { Core.dflt with wins := [{ lid := 0, grp := 3, off := 0x800, len := 2048 }] })] }

theorem test_meets_windows :
    (labWin.warp 0).trec.group? 0 = some 3 ∧ ((labWin.launch 0).group 3).place = 1 ∧ (labWin.warp 0).trec.group? 1 = none ∧
    (labWin.core 0).wins = [{ lid := 0, grp := 3, off := 0x800, len := 2048 }] ∧
    ((laneAfter (.rdsr 0 (.o 3) 0x088) labWin 0).o.get 0 3, (laneAfter (.rdsr 0 (.o 3) 0x089) labWin 0).o.get 0 3) = (0x800, 0xFFFFFFFF) := by decide +kernel

/-! ## Memory: virtual page 1 lies at the first bytes of the stacks; line 8 holds the bytes 1 to 8 at its start -/

def labLine : BitVec 1024 := 0x0807060504030201

def labTlb : TlbEnt := { die := 0, space := 0, vpage := 1, bits := 16, pbase := 0, rd := true, wr := true, ex := true }

/-- Lane 0 addresses 0x10400 by o1 and lane 1 the word after it; by o2 both are misaligned. s33 is the base. -/
def labMemTask : Warp :=
  { labTask with lanes := [(0, labLane [(2, 1), (3, 0x11223344), (8, 5)]), (1, labLane [(1, 4), (2, 2), (3, 0x55667788), (8, 6)])]
                 s := [(33, 0x10400), (34, 0x10404), (35, 0xAABBCCDD11223344)] }

def labMem (w : Warp) (m : Mem) (l1 : SMap L1Line) : State :=
  { labOf w with
    mem := { m with tlb := [labTlb] }
    cores := [(0, { Core.dflt with l1 := l1 })]
    launches := [(0, { Launch.dflt with wrote := [0], wins := [(0x10400, 8), (0, 0)] })]
    regs := [(pkgBlk 0x10000, 0xC000000000000000)] }

/-- Line 8 in L1 of the core; and in the L2 of die 0. -/
def labL1 : State := labMem labMemTask {} [(8, { data := labLine, dirty := 0, tid := 0, part := 0, next := false })]
def labL2 : State := labMem labMemTask { l2 := [(8, { data := labLine, dirty := 0, tid := 0, part := 0, clk := 0 })] } []

theorem test_meets_reach :
    labL1.LanesReach (.o 1) ext 4 .read (fun i => 0x400 + 4 * i) ∧ labL2.LanesReach (.o 1) ext 4 .write (fun i => 0x400 + 4 * i) ∧
    (only labL2 1).LanesReach (.o 1) ext 8 .atomic (fun _ => 0x400) ∧ labL2.StrandReaches 0x10400 8 .write 0x400 ∧ labL2.AtL2 0x400 := by
  unfold State.LanesReach State.StrandReaches State.AtL2 State.InL2 State.Reach Mem.Sound; and_intros <;> decide +kernel

/-- A red of lane 0 to the bytes at 0x404 stands in q6. -/
def labOwed : State :=
  labMem { labMemTask with queues := [(6, [{ kind := .red, warp := 0, lid := 0, taskId := 0, num := 0, redAddr := 0x404, redOp := .add32 }])] } {} []

theorem test_meets_LoadsFromL1 :
    labL1.Clear (srcRes (.o 1) ++ storedRes (.o 3) .w32) ∧ labL1.execLanes ≠ [] ∧ ext.sem = .plain ∧ ext.cache ≠ .l2only ∧
    labOwed.NoRedOwed 4 (fun i => 0x400 + 4 * i) ∧ ¬labOwed.NoRedOwed 4 (fun i => 0x404 + 4 * i) ∧
    (labL1.execLanes.all (fun i => ((labL1.core 0).l1? (canonPa (0x400 + 4 * i) / 128)).isSome)) = true := by
  unfold State.Clear State.ClearBy State.NoRedOwed; decide +kernel

/-- An access that bypasses L1, and one that acquires at device scope. -/
def extL2 : MemExt := { ext with cache := .l2only }
def extAcq : MemExt := { ext with sem := .acquire, scope := .device }

theorem test_meets_LoadsAtL2 :
    labL2.Clear (srcRes (.o 1) ++ storedRes (.o 3) .w32) ∧ labL2.NoRedOwed 4 (fun i => 0x400 + 4 * i) ∧
    labL2.mem.strait = [] ∧ labL2.mem.granules = [] ∧ (labL2.core 0).l1 = [] ∧ extL2.sem = .plain ∧
    extAcq.scope ∈ [Scope.cluster, .die, .device, .system] ∧
    (labL2.execLanes.all (fun i => decide ((labL2.core 0).l1? (canonPa (0x400 + 4 * i) / 128) = none) && decide (homeOf (0x400 + 4 * i) = 0) &&
      decide (homeOf ((0x400 + 4 * i) / 128 * 128) = 0) && (labL2.mem.line? 0 ((0x400 + 4 * i) / 128)).isSome)) = true := by
  unfold State.Clear State.ClearBy State.NoRedOwed; decide +kernel

/-- The four bytes at 0x400 and at 0x404 as die 0 sees them. -/
def seen (s : State) : Nat × Nat := (ofBytes (s.mem.lookN 0 0x400 4), ofBytes (s.mem.lookN 0 0x404 4))

theorem test_loads :
    ((laneAfter (.ld 0 (.o 3) (.o 1) .w32 ext) labL1 0).o.get 0 3, (laneAfter (.ld 0 (.o 3) (.o 1) .w32 ext) labL1 1).o.get 0 3) = (0x04030201, 0x08070605) ∧
    (laneAfter (.ld 0 (.o 3) (.o 1) .u8 extL2) labL2 1).o.get 0 3 = 5 ∧ (laneAfter (.ld 0 (.o 3) (.o 1) .w32 extAcq) labL2 0).o.get 0 3 = 0x04030201 ∧
    (let l := laneAfter (.ld 0 (.o 4) (.o 1) .w64 extL2) (only labL2 1) 0; (l.o.get 0 4, l.o.get 0 5, l.l0, l.pc) = (0x04030201, 0x08070605, 0x04030201, 0x10008)) := by
  decide +kernel

theorem test_stores :
    -- lane 1, the highest, prevails where both lanes store to one word
    (let t := after (.st 0 (.o 3) .zero .w32 ext) labL1; (t.l1Byte 0 0x400, t.l1Byte 0 0x403, t.l1Byte 0 0x404)) = (some 0x88, some 0x55, some 5) ∧
    seen (after (.st 0 (.o 3) (.o 1) .w32 extL2) labL2) = (0x11223344, 0x55667788) ∧ seen (after (.st 0 (.o 3) (.o 1) .u16 extL2) labL2) = (0x04033344, 0x08077788) := by
  decide +kernel

/-- Launch 0 without a window in slot 1; lane 0's page has failed. -/
def labFailed : State :=
  labMem { labMemTask with lanes := [(0, { labLane [] with failed := [(0, 1)] })] } {} []

theorem test_meets_MemoryTraps :
    labL2.Handled ∧ labL2.Calm ∧ labL2.mem.syncReqs = [] ∧ labL2.Clear (srcRes (.o 2) ++ storedRes (.o 4) .w64) ∧ labL2.Clear (srcRes (.o 2) ++ atomRes .cas64 (.o 4)) ∧
    (labL2.execLanes.all (fun l => decide ((lanePlace (.o 2) ext (labL2.view l)).toNat % 4 ≠ 0))) = true ∧
    (labFailed.execLanes.all (fun l => decide ((lanePlace .zero ext (labFailed.view l)).toNat % 4 = 0) &&
      ((labFailed.warp 0).lane l).failed.contains ((labFailed.warp 0).space, (lanePlace .zero ext (labFailed.view l)).toNat / 65536))) = true ∧
    ((labL2.launch 0).window 1).2 = 0 ∧ labL2.StrandClear [33] ∧ (labL2.warp 0).live ≠ 0 ∧
    (BitVec.ofInt 56 ((labL2.sval 0 0 33).toNat + 4)).toNat % 8 ≠ 0 := by
  unfold State.Clear State.ClearBy State.Calm State.Handled State.StrandClear; decide +kernel

theorem test_memory_traps :
    ([(.ld 0 (.o 3) (.o 2) .w32 ext, 0x0C), (.st 0 (.o 4) (.o 2) .w64 ext, 0x0C), (.atom 0 (.o 4) (.o 2) (.o 3) .add32 ext, 0x0C),
      (.red 0 (.o 2) (.o 3) .add32 ext, 0x0C), (.ldp 0 (.o 3) (.o 1) 1 0, 0x07), (.sld 0 1 33 4, 0x0C), (.ldpUniform 0 1 0 1 0, 0x07)] : List (Instr × Word)).all
        (fun p => decide ((laneAfter p.1 labL2 0).trapCode = p.2)) = true ∧
    (laneAfter (.ld 0 (.o 3) .zero .w32 ext) labFailed 0).trapCode = 0x0D := by decide +kernel

theorem test_meets_StrandAndWindowReads :
    labL2.StrandClear [33, 35] ∧ canonPa 0x400 % 8 = 0 ∧ homeOf 0x400 = 0 ∧
    -- window 0 has 8 bytes: word 0 of 8 is inside, word 1 is not; of 4 bytes, words 0 and 1 are inside
    ((labL2.launch 0).window 0) = (0x10400, 8) ∧ 8 * 0 + 8 ≤ 8 ∧ 8 < 8 * 1 + 8 ∧ labL2.StrandReaches 0x10400 1 .read 0x400 ∧ labL2.InL2 0x400 ∧
    labL1.NoRedOwed 4 (fun i => 0x400 + 4 * i) ∧
    labL1.Clear (srcRes .lane) ∧ labL1.Reach (labL1.strandMaster 0) (BitVec.ofNat 56 (0x10400 + 4 * 1)) .read 0x404 ∧
    ((labL1.core 0).l1? (canonPa 0x404 / 128)).isSome = true := by
  unfold State.Clear State.ClearBy State.StrandClear State.StrandReaches State.Reach State.InL2 State.NoRedOwed Mem.Sound; decide +kernel

theorem test_strand_and_window_reads :
    ((after (.sld 0 9 33 0) labL2).warp 0).sreg 9 = 0x0807060504030201 ∧ seen (after (.sst 0 35 33 0) labL2) = (0x11223344, 0xAABBCCDD) ∧
    ((after (.ldpUniform 0 9 0 0 0) labL2).warp 0).sreg 9 = 0x0807060504030201 ∧
    (let w := (after (.ldpUniform 0 9 0 0 1) labL2).warp 0; (w.sreg 9, w.stk) = (0, 0x200)) ∧
    ((laneAfter (.ldp 0 (.o 3) .lane 0 0) labL1 0).o.get 0 3, (laneAfter (.ldp 0 (.o 3) .lane 0 0) labL1 1).o.get 0 3) = (0x04030201, 0x08070605) ∧
    (let t := after (.ldp 0 (.o 3) .lane 0 1) labL1; (((t.warp 0).lane 1).o.get 0 3, (t.warp 0).stk)) = (0, 0x200) := by decide +kernel

theorem test_meets_Atomics :
    (only labL2 1).Clear (srcRes .zero ++ atomRes .cas64 (.o 4)) ∧ (only labL2 1).execLanes = [0] ∧ labL2.mem.strait = [] ∧ (labL2.warp 0).slot ≠ .free ∧
    (only labL2 1).NoRedOwed 8 (fun _ => 0x400) ∧ labL2.EngineRoom 0 ∧ ((labL2.warp 0).queues.get [] 6).length < 16 := by
  unfold State.Clear State.ClearBy State.NoRedOwed State.EngineRoom; decide +kernel

theorem test_atomics :
    ([(.add32, .o 8, 0x04030206), (.swap32, .o 3, 0x11223344), (.mins32, .o 8, 5), (.maxu32, .o 3, 0x11223344), (.and32, .o 3, 0x00020200), (.or32, .o 8, 0x04030205),
      (.xor32, .o 8, 0x04030204), (.minu32, .o 3, 0x04030201), (.maxs32, .o 8, 0x04030201), (.add64, .zero, 0x04030201), (.swap64, .zero, 0), (.cas32, .o 4, 0x04030201)] :
        List (AtomOp × Src × Nat)).all (fun p =>
          let t := after (.atom 0 (.o 10) (.o 1) p.2.1 p.1 ext) (only labL2 1)
          decide ((seen t).1 = p.2.2) && decide (((t.warp 0).lane 0).o.get 0 10 = 0x04030201)) = true ∧
    (let t := (after (.atom 0 .zero (.o 1) (.o 8) .add32 ext) (only labL2 1)).syncAll; ((seen t).1, ((t.warp 0).lane 0).l0)) = (0x04030206, 0x04030201) := by decide +kernel

/-- The red stands in q6, and RED_OP performs it there. -/
theorem test_queued_atomics :
    (let t := after (.red 0 (.o 1) (.o 8) .add32 ext) (only labL2 1); (((t.warp 0).queues.get [] 6).length, (seen t).1)) = (1, 0x04030201) ∧
    (let t := after .redOp (after (.red 0 (.o 1) (.o 8) .add32 ext) (only labL2 1)); (((t.warp 0).queues.get [] 6).length, (seen t).1)) = (0, 0x04030206) := by
  decide +kernel

/-- A red at the head of q6. -/
def labRed : State := after (.red 0 (.o 1) (.o 8) .add32 ext) (only labL2 1)
def redHead : EngOp := ((labRed.warp 0).queues.get [] 6).headD { kind := .red, warp := 0, lid := 0, taskId := 0, num := 0 }

theorem test_meets_QueuedAtomics :
    (labRed.warp 0).queues.get [] 6 = [redHead] ∧ redHead.warp = labRed.cur.warp ∧ labRed.EngineRoom 0 ∧ labRed.mem.strait = [] ∧
    (labRed.core 0).l1? (canonPa redHead.redAddr / 128) = none ∧ labRed.opLive redHead = true ∧ labRed.opFrozen redHead (warpClu 0) = false ∧ redHead.redScope = none ∧
    quarter redHead.redAddr < 2 ∧ canonPa redHead.redAddr % 4 = 0 ∧ homeOf (canonPa redHead.redAddr) = 0 ∧ labRed.mem.bad = [] ∧
    labRed.trackWrite (some 0) (canonPa redHead.redAddr) = labRed := by
  unfold State.EngineRoom; decide +kernel

/-- Line 8 of L1 with its first byte dirty. -/
def labDirty : State := labMem labMemTask {} [(8, { data := labLine, dirty := 1, tid := 0, part := 0, next := false })]

/-- What a prf of lane i finds: a TLB entry that allows reading, the line in L2. -/
def prfHolds (s : State) (e : TlbEnt) (i : Nat) : Bool :=
  let m := (s.laneMaster 0 ext).by 0 i
  let va := (lanePlace (.o 1) ext (s.view i)).toNat
  decide (s.tlbFor m va = some e) && decide (e.pbase + va % 2 ^ e.bits = 0x400 + 4 * i) && s.allowed m.part (0x400 + 4 * i) false &&
    (s.mem.line? 0 (canonPa (0x400 + 4 * i) / 128)).isSome

/-- The same page, not readable. -/
def labUnread : TlbEnt := { labTlb with rd := false }

theorem test_meets_PrefetchAndFence :
    labL2.Clear (srcRes (.o 1)) ∧ labL2.mem.bad = [] ∧ labL2.execLanes.all (prfHolds labL2 labTlb) = true ∧ labTlb.rd = true ∧ quarter 0x404 < 2 ∧
    (only labL2 1).execLanes = [0] ∧
    (let s := { labL2 with mem := { labL2.mem with tlb := [labUnread] } }; s.execLanes.all (prfHolds s labUnread)) = true ∧
    labDirty.mem.syncReqs = [] ∧ labDirty.mem.granules = [] ∧ labDirty.mem.strait = [] ∧
    (labDirty.core 0).l1 = [(8, { data := labLine, dirty := 1, tid := 0, part := 0, next := false })] ∧ homeOf (8 * 128) = 0 ∧ labDirty.mem.bad = [] := by
  unfold State.Clear State.ClearBy; decide +kernel

/-- No cache holds line 8. -/
def labMiss : State := labMem labMemTask {} []

theorem test_prefetch_and_fence :
    goes (.prf 0 (.o 1) 1 ext) labDirty = true ∧ goes (.prf 0 (.o 1) 0 ext) labL2 = true ∧
    -- to L2 only the line stays out of L1; to L1 it stands in both
    (let t := after (.prf 0 (.o 1) 1 ext) labMiss; ((t.mem.line? 0 8).isSome, ((t.core 0).l1? 8).isSome, (t.warp 0).lane 0 |>.pc)) = (true, false, 0x10008) ∧
    (let t := after (.prf 0 (.o 1) 0 ext) labMiss; ((t.mem.line? 0 8).isSome, ((t.core 0).l1? 8).isSome)) = (true, true) ∧
    (let t := after (.fence 0 .rel .device) labDirty; (t.mem.look 0 0x400, ((t.core 0).l1? 8).map (fun l => l.dirty), t.mem.e0, t.mem.tickets)) = (1, some 0, 1, 0) ∧
    (let t := after (.fence 0 .sc .system) labDirty; ((t.core 0).l1.length, t.mem.e0, t.mem.tickets)) = (0, 1, 1) ∧
    (after (.fence 0 .sc .core) labDirty).cores = labDirty.cores := by decide +kernel

/-! ### Scratchpad and accumulators -/

def labLocal : State :=
  { labMem labMemTask {} [] with
    cores := [(0, { Core.dflt with spad := [(4, 0xEF), (5, 0xBE)], acc := [(256, 77)], grants := [{ holder := .task 0, base := 256, size := 256 }] })] }

theorem test_meets_LocalMemory :
    labLocal.Clear (srcRes (.o 1) ++ srcRes .zero ++ storedRes (.o 3) .w32) ∧ labLocal.Handled ∧ labLocal.Calm ∧ labLocal.mem.badSpad = [] ∧ labLocal.mem.badAcc = [] ∧
    cellsWf (labLocal.core 0).spad = true ∧
    -- offsets 0 and 4 fit; 1 and 2 are misaligned; the last offset, 98300, fits and the next does not
    (labLocal.execLanes.all (fun i => let o := ((labLocal.view i).src 0 (.o 1)).toNat; decide (o % 4 = 0 ∧ o + 4 ≤ 32768 * 3))) = true ∧ 98300 + 4 = 32768 * 3 ∧
    -- words 256 and 511 lie in the grant, 255, 512 and 32768 do not
    (∃ g ∈ (labLocal.core 0).grants, g.holder = .task 0 ∧ g.base ≤ 256 ∧ 511 < g.base + g.size) ∧
    (∀ g ∈ (labLocal.core 0).grants, 255 < g.base ∧ g.base + g.size ≤ 512) := by
  unfold State.Clear State.ClearBy State.Calm State.Handled; decide +kernel

def labOff (n : Word) : State := { labLocal with warps := [(0, { labMemTask with lanes := [(0, labLane [(1, n), (3, 0x11223344)])] })] }

theorem test_local_memory :
    (laneAfter (.lds 0 (.o 3) (.o 1) .zero .w32) labLocal 1).o.get 0 3 = 0xBEEF ∧ (laneAfter (.lds 0 (.o 3) (.o 1) .zero .s16) labLocal 1).o.get 0 3 = 0xFFFFBEEF ∧
    ((after (.sts 0 (.o 3) (.o 1) .zero .w32) labLocal).core 0).spad =
      [(0, 0x44), (1, 0x33), (2, 0x22), (3, 0x11), (4, 0x88), (5, 0x77), (6, 0x66), (7, 0x55)] ∧
    (laneAfter (.lds 0 (.o 3) (.o 1) .zero .w32) (labOff 2) 0).trapCode = 0x0C ∧ (laneAfter (.sts 0 (.o 3) (.o 1) .zero .w32) (labOff 98304) 0).trapCode = 0x0B ∧
    (laneAfter (.lds 0 (.o 3) (.o 1) .zero .w32) (labOff 98300) 0).trapCode = 0 ∧
    (laneAfter (.lda 0 (.o 3) (.o 1) .zero) (labOff 256) 0).o.get 0 3 = 77 ∧ ((after (.sta 0 (.o 3) (.o 1) .zero) (labOff 511)).core 0).acc.get 0 511 = 0x11223344 ∧
    (laneAfter (.lda 0 (.o 3) (.o 1) .zero) (labOff 255) 0).trapCode = 0x0B ∧ (laneAfter (.sta 0 (.o 3) (.o 1) .zero) (labOff 32768) 0).trapCode = 0x0B := by decide +kernel

/-- Line 8 stands dirty in L1; the accesses are to line 9, at 0x10480, which stands in the L2 with it. -/
def labRelease : State :=
  only (labMem { labMemTask with s := [(33, 0x10480)] }
    { l2 := [(8, ⟨labLine, 0, 0, 0, 0⟩), (9, ⟨labLine, 0, 0, 0, 0⟩)] } [(8, { data := 0xEE, dirty := 1, tid := 0, part := 0, next := false })]) 1
def extRel : MemExt := { ext with sem := .release, scope := .device }
def extBoth : MemExt := { ext with sem := .acqRel, scope := .system }

theorem test_meets_releases :
    (labRelease.core 0).l1.map (fun p => (p.1, decide (p.2.dirty ≠ 0))) = [(8, true)] ∧ homeOf (8 * 128) = 0 ∧ (labRelease.mem.line? 0 8).isSome = true ∧
    labRelease.execLanes = [0] ∧ labRelease.mem.held = [] ∧ labRelease.mem.strait = [] ∧ labRelease.mem.granules = [] ∧ homeOf (canonPa 0x480) = 0 ∧ canonPa 0x480 / 128 = 9 ∧
    (labRelease.mem.line? 0 9).isSome = true ∧ labRelease.LanesReach (.o 1) extRel 4 .write (fun _ => 0x480) ∧ labRelease.LanesReach (.o 1) extBoth 4 .atomic (fun _ => 0x480) ∧
    labRelease.NoRedOwed 4 (fun _ => 0x480) ∧ labRelease.Clear (srcRes (.o 1) ++ storedRes (.o 3) .w32) ∧ labRelease.Clear (srcRes (.o 1) ++ atomRes .add32 (.o 8)) ∧
    ((labRelease.warp 0).queues.get [] 6).length < 16 := by
  unfold State.LanesReach State.Reach State.NoRedOwed State.Clear State.ClearBy Mem.Sound; and_intros <;> decide +kernel

theorem test_releases :
    (let t := after (.st 0 (.o 3) (.o 1) .w32 extRel) labRelease
     ((t.core 0).l1.map (fun p => p.2.dirty), t.mem.epoch 0, t.mem.look 0 0x400, ofBytes (t.mem.lookN 0 0x480 4))) = ([0], 1, 0xEE, 0x11223344) ∧
    (let t := after (.atom 0 (.o 10) (.o 1) (.o 8) .add32 extBoth) labRelease
     ((t.core 0).l1, t.mem.epoch 0, t.mem.look 0 0x400, t.outs, ofBytes (t.mem.lookN 0 0x480 4))) = ([], 1, 0xEE, [.release 0], 0x04030206) ∧
    (let t := after (.red 0 (.o 1) (.o 8) .add32 extRel) labRelease
     ((t.core 0).l1.map (fun p => p.2.dirty), t.mem.epoch 0, t.mem.look 0 0x400, ((t.warp 0).queues.get [] 6).map (fun o => o.redScope))) = ([0], 0, 0xEE, [some .device]) ∧
    (let t := after .redOp (after (.red 0 (.o 1) (.o 8) .add32 extRel) labRelease); (t.mem.epoch 0, ofBytes (t.mem.lookN 0 0x480 4))) = (1, 0x04030206) := by decide +kernel

/-- The page lies in quarter 11, at node 5, whose port 3 the partition holds. -/
def labFar : State :=
  let s := labMem labMemTask {} []
  only { s with
    mem := { s.mem with tlb := [{ labTlb with pbase := 3 * 2 ^ 46 + 5 * 2 ^ 38 }] }
    regs := [(pkgBlk 0x10000, 0xC000000000000000), (pkgBlk (0x60000 + 8 * 3), 0x80), (pkgBlk 0x61000, 0x20)] } 1

theorem test_meets_remote :
    labFar.execLanes = [0] ∧ labFar.mem.syncReqs = [] ∧ labFar.mem.Sound ∧ ((labFar.warp 0).lane 0).failed = [] ∧
    (let pa := 3 * 2 ^ 46 + 5 * 2 ^ 38 + 0x400
     pa / 2 ^ 46 % 4 = 3 ∧ pa / 2 ^ 38 % 256 = 5 ∧ pa % 2 ^ 38 = 0x400 ∧ (lanePlace (.o 1) ext (labFar.view 0)).toNat % 16 = 0 ∧
     (∀ k ∈ [AccKind.read, .write, .atomic], labFar.translate (labFar.laneMaster 0 ext) (lanePlace (.o 1) ext (labFar.view 0)).toNat k [] = (labFar, .ok pa) ∧
       labFar.paAllowed (labFar.warp 0).part pa k = true) ∧ labFar.NoRedOwed 16 (fun _ => pa)) ∧
    labFar.Clear (srcRes (.o 1) ++ storedRes (.o 4) .w128) ∧ labFar.launch? 0 = some (labFar.launch 0) := by
  unfold State.Clear State.ClearBy State.NoRedOwed Mem.Sound; and_intros <;> decide +kernel

theorem test_remote :
    (let t := after (.st 0 (.o 3) (.o 1) .w32 ext) labFar; (t.outs.length, (t.launch 0).nrmark, t.mem.l2, (t.core 0).l1)) = (1, true, [], []) ∧
    (after (.st 0 (.o 4) (.o 1) .w128 ext) labFar).outs.length = 2 ∧ (after (.atom 0 (.o 10) (.o 1) (.o 8) .add32 ext) labFar).outs.length = 1 ∧
    (let t := after (.ld 0 (.o 4) (.o 1) .w128 ext) labFar; (t.outs.length, (t.launch 0).nrmark)) = (2, false) := by decide +kernel

/-! ## Tiles, grants, bonds, queues -/

/-- What holds of every listed slot and of a free one holds of every slot. -/
theorem warp_all (s : State) (p : Warp → Bool) (h : (s.warps.all (fun x => p x.2)) = true) (hd : p Warp.dflt = true) (k : Nat) : p (s.warp k) = true := by
  show p (SMap.get Warp.dflt s.warps k) = true
  unfold SMap.get
  generalize s.warps = l at *
  induction l with
  | nil => simpa [SMap.find?] using hd
  | cons a r ih =>
    obtain ⟨j, v⟩ := a
    simp only [List.all_cons, Bool.and_eq_true] at h
    simp only [SMap.find?]
    split
    · exact h.1
    · exact ih h.2

def labEntry : Tile := { st := .ready, owner := .task 0, base := 0, size := 4, expect := 4, tfmt := 5, swz := 0 }

def labIdLine (dirty : BitVec 128) (tid part : Nat) : L1Line := { data := labLine, dirty := dirty, tid := tid, part := part, next := false }

/-- t5 is a ready entry of the task at the start of the scratchpad, t6 still fills; s1 holds the descriptor of the last 64
units of three ways, with swizzle 6, and s2 that of a tile which expects 32 of them. -/
def labTiles : State :=
  { labOf { labTask with s := [(1, BitVec.ofNat 64 (6080 + 64 * 2 ^ 14 + 7 * 2 ^ 42 + 6 * 2 ^ 46)), (2, BitVec.ofNat 64 (6080 + 64 * 2 ^ 14 + 32 * 2 ^ 28)), (3, 0x1005)] } with
    cores := [(0, { Core.dflt with tiles := [(5, labEntry), (6, { labEntry with st := .filling, base := 4 })], spad := [(0, 0xA), (63, 0xB)]
                                   l1 := [(8, labIdLine 1 5 0), (9, labIdLine 0 6 0), (10, labIdLine 0 5 1)] })] }

theorem test_meets_TilesAndTensorIds :
    labTiles.StrandClear [1, 2, 3] ∧ (∀ k, ∀ p ∈ (labTiles.warp k).lanes, p.2.wait ≠ .tile 7) ∧ (labTiles.core 0).tiles.find? 7 = none ∧
    (6080 + 64) * 16 ≤ 32768 * (labTiles.core 0).ways ∧ 6080 * 16 % 2 ^ 9 = 0 ∧ 64 * 16 % 2 ^ 9 = 0 ∧
    (∀ p ∈ (labTiles.core 0).tiles, 6080 + 64 ≤ p.2.base ∨ p.2.base + p.2.size ≤ 6080) ∧
    (labTiles.core 0).tiles.find? 5 = some labEntry ∧ labEntry.st = .ready ∧ labEntry.freeing = false ∧ labEntry.fail = false ∧ (labTiles.core 0).tiles.rising = true ∧
    ((labTiles.core 0).tiles.find? 6).map (fun e => e.st) = some .filling ∧ labTiles.untold 0 = none ∧ labTiles.Clear (srcRes .zero) ∧ labTiles.Handled ∧ labTiles.Calm ∧
    labTiles.mem.badSpad = [] ∧ 60 % 4 = 0 ∧ 60 + 4 ≤ 16 * labEntry.size ∧ labTiles.mem.syncReqs = [] := by
  refine ⟨by unfold State.StrandClear; decide +kernel, fun k => ?_, ?_⟩
  · have h := warp_all labTiles (fun w => w.lanes.all (fun p => !decide (p.2.wait = .tile 7))) (by decide +kernel) (by decide +kernel) k
    intro p hp
    have h2 := List.all_eq_true.mp h p hp
    simpa using h2
  · unfold State.Clear State.ClearBy State.Handled State.Calm; decide +kernel

theorem test_tiles :
    (let e := ((after (.talloc 0 7 1) labTiles).core 0).tiles.find? 7; e.map (fun e => (e.st, e.base, e.size, e.tfmt, e.swz))) = some (.ready, 6080, 64, 7, 6) ∧
    (((after (.talloc 0 7 2) labTiles).core 0).tiles.find? 7).map (fun e => (e.st, e.expect)) = some (.filling, 32) ∧
    ((after (.tfree 0 5) labTiles).core 0).tiles.find? 5 = none ∧ (laneAfter (.twait 0 5) labTiles 1).pc = 0x10004 ∧
    (let l := laneAfter (.twait 0 6) labTiles 1; (l.pc, l.wait)) = (0x10000, .tile 6) ∧ (laneAfter (.ldt 0 (.o 3) .zero 5) labTiles 0).o.get 0 3 = 0xA ∧
    (laneAfter (.ldt 0 (.o 3) .zero 7) labTiles 0).trapCode = 0x0B ∧ ((after (.ttag 0 3) labTiles).warp 0).tid = 5 ∧
    ((after (.tdisc 0 3) labTiles).core 0).l1.map (fun p => p.1) = [9, 10] := by decide +kernel

/-- s1 asks for 256 words, s2 for 32,768, s3 for 32,769. -/
def labGrants (gs : List Grant) : State :=
  { labOf { labTask with s := [(1, 256), (2, 32768), (3, 32769)] } with cores := [(0, { Core.dflt with grants := gs })] }

theorem test_meets_Grants :
    (labGrants []).StrandClear [1, 2, 3] ∧ ((labGrants []).warp 0).trec.group? 0 = none ∧ ((labGrants []).cluster 0).areqs = [] ∧
    (∀ p ∈ (labGrants []).cores, p.2.grants = [] ∧ p.2.q0 = []) ∧ (∀ p ∈ (labGrants []).clusters, p.2.areqs = [] ∧ p.2.leases = []) ∧
    -- a range at the very top beside another holder's grant
    (∀ x ∈ ((labGrants [{ holder := .task 1, base := 0, size := 32512 }]).core 0).grants, 32512 + 256 ≤ x.base ∨ x.base + x.size ≤ 32512) ∧ 32512 + 256 ≤ 32768 ∧ 32512 % 256 = 0 ∧ ((labGrants []).warp 0).waitOn = none ∧
    (∃ p ∈ (labGrants [{ holder := .task 0, base := 0, size := 256 }]).cores, ∃ x ∈ p.2.grants, x.holder = .task 0) ∧ (labGrants []).Handled := by
  unfold State.StrandClear State.Handled; decide +kernel

theorem test_grants :
    (let t := after (.aalloc 0 9 1 0) (labGrants [{ holder := .task 1, base := 0, size := 32512 }]); (((t.warp 0).sreg 9, (t.core 0).grants.length, (t.warp 0).spc))) =
      (0x1007F00, 2, 0x10004) ∧
    ((after (.aalloc 0 9 2 0) (labGrants [])).warp 0).sreg 9 = 0x80000000 ∧ ((after (.aalloc 0 9 3 0) (labGrants [])).warp 0).sreg 9 = 0x800000000000000B ∧
    (let t := after (.aalloc 0 9 2 0) (labGrants [{ holder := .task 1, base := 0, size := 256 }]); ((t.warp 0).swait, (t.cluster 0).areqs.length)) = (.aalloc 9, 1) ∧
    (laneAfter (.aalloc 0 9 1 0) (labGrants [{ holder := .task 0, base := 0, size := 256 }]) 0).trapCode = 0x0A ∧
    ((after (.afree 0 0) (labGrants [{ holder := .task 0, base := 0, size := 256 }])).core 0).grants = [] := by decide +kernel

/-- A cluster-bound group 3, of which this task is a member, in slot 0 of its record. -/
def labGroup (leases : List Lease) : State :=
  { labOf { labTask with trec := { code := 0x10000, groups := [0x8003, 0, 0, 0] } } with
    launches := [(0, { Launch.dflt with groups := [(3, ⟨1, 2, 0⟩)] })], clusters := [(0, { Cluster.dflt with leases := leases })] }

def labLease : Lease := { lid := 0, grp := 3, rows := 1, cols := 1, strait := false, origin := 0, clu := 0, lent := none, cores := [0], st := .held }

/-- The group's members on all 16 cores of cluster 7, beside seam pair 0, whose other cluster is 64 of die 1. -/
def labStrait : State :=
  { labGroup [] with
    warps := (List.range 16).map (fun k => (16 * (112 + k), { labTask with trec := { code := 0x10000, groups := [0x8003, 0, 0, 0] } }))
    regs := [(pkgBlk (0x1000 + 8 * 64), 3)], boot := { ({} : Boot) with stage := 8 }, cur := { warp := 16 * 112, lanes := 3, strand := true } }

theorem test_meets_Bonds :
    (labGroup []).StrandClear [] ∧ lab.StrandClear [] ∧ ((lab.warp 0).trec.group? 0 = none) ∧ ((labGroup []).warp 0).trec.group? 0 = some 3 ∧
    (((labGroup []).launch 0).group 3).place = 2 ∧ ((labGroup [labLease]).leaseOf 0 3).isSome = true ∧ ((labGroup []).leaseOf 0 3).isNone = true ∧
    (((labGroup []).launch 0).gstate 3).revoked = false ∧ (labGroup []).Handled ∧ (labGroup [labLease]).leaseOf 0 3 = some (0, labLease) ∧ ((labGroup [labLease]).warp 0).waitOn = none ∧
    -- the rectangle of a 1 × 1 bond is the core of the task
    (∀ x, x / 16 = 0 ∧ x % 16 / 4 / 1 = 0 ∧ x % 4 / 1 = 0 →
      (∃ u, u / 16 = x ∧ ((labGroup []).warp u).slot ≠ .free ∧ 3 ∈ ((labGroup []).warp u).groupNos) ∧ (labGroup []).leaseAt x = none ∧ ((labGroup []).core x).q0 = []) := by
  unfold State.StrandClear State.Handled
  and_intros
  rotate_right
  · rintro x ⟨h1, h2, h3⟩
    obtain rfl : x = 0 := by omega
    exact ⟨⟨0, by decide +kernel⟩, by decide +kernel⟩
  all_goals decide +kernel

theorem test_meets_Bonds_strait :
    labStrait.StrandClear [] ∧ seamOf 7 = some (64, 0) ∧ seamOf 0 = none ∧ labStrait.seamMap = 255 ∧ labStrait.cpart 7 = labStrait.cpart 64 ∧
    labStrait.regulator 7 = labStrait.regulator 64 ∧ (∀ j < 16, (labStrait.core (16 * 64 + j)).ways = (labStrait.core (16 * 7 + j)).ways) ∧
    (∀ j < 16, (∃ u < 2048, u / 16 = 16 * 7 + j ∧ (labStrait.warp u).slot ≠ .free) ∧ labStrait.leaseAt (16 * 7 + j) = none) ∧
    (∀ j < 16, labStrait.leaseAt (16 * 64 + j) = none ∧ labStrait.residents (16 * 64 + j) = [] ∧
      (labStrait.core (16 * 64 + j)).q0 = [] ∧ (labStrait.core (16 * 7 + j)).q0 = [] ∧ ∀ p ∈ (labStrait.core (16 * 64 + j)).l1, (labStrait.core (16 * 64 + j)).ways ≤ p.2.way) := by
  unfold State.StrandClear
  and_intros
  rotate_right 2
  · have h : ∀ j < 16, (labStrait.warp (16 * (112 + j))).slot ≠ .free ∧ labStrait.leaseAt (16 * 7 + j) = none := by decide +kernel
    exact fun j hj => ⟨⟨16 * (112 + j), by omega, by omega, (h j hj).1⟩, (h j hj).2⟩
  all_goals decide +kernel

theorem test_bonds :
    (let t := after (.bond 0 9 0 0 0) (labGroup []); ((t.warp 0).sreg 9, (t.cluster 0).leases.map (fun l => (l.rows, l.cols, l.cores)))) = (0, [(1, 1, [0])]) ∧
    ((after (.bond 0 9 0 1 0) (labGroup [])).warp 0).sreg 9 ≠ 0 ∧ ((after (.bond 0 9 0 0 0) lab).warp 0).sreg 9 = 1 ∧
    ((after (.bond 0 9 0 0 0) (labGroup [labLease])).warp 0).sreg 9 = 2 ∧ (laneAfter (.bond 0 9 0 3 0) (labGroup []) 0).trapCode = 1 ∧
    ((after (.bondStrait 0 9 0) lab).warp 0).sreg 9 = 1 ∧ ((after (.unbond 0 0) (labGroup [labLease])).cluster 0).leases = [] ∧
    (let t := after (.bondStrait 0 9 0) labStrait; ((t.warp 1792).sreg 9, (t.cluster 7).leases.map (fun l => (l.lent, l.cores.length)))) = (0, [(some 64, 32)]) := by
  decide +kernel

/-- s1 is the address of a block and of a row, s2 is misaligned. The block of an INT8 product of one row, K = 64, N = 8, of
tiles t3 and t4 into words 256 to 263 stands at s1. -/
def labBlock : BitVec 1024 :=
  BitVec.ofNat 1024 (0x12 * 2 ^ 64 + 0x00080100 * 2 ^ 96 + 1 * 2 ^ 128 + 64 * 2 ^ 160 + 64 * 2 ^ 192 + 8 * 2 ^ 224 + 3 * 2 ^ 256 + 4 * 2 ^ 384)

def labQueues (qs : SMap (List EngOp)) : State :=
  { labMem { labTask with s := [(1, 0x10400), (2, 0x10404)], queues := qs } { l2 := [(8, ⟨labBlock, 0, 0, 0, 0⟩)] } [] with
    cores := [(0, { Core.dflt with
      tiles := [(3, { labEntry with base := 0, size := 4 }), (4, { labEntry with base := 4, size := 32, expect := 32 })]
      grants := [{ holder := .task 0, base := 256, size := 256 }]
      acc := [(256, 100), (257, 0x7FFFFFFF)]
      spad := [(0, 3), (1, 0xFF), (64, 5), (65, 2), (128, 1)] })] }

def labOp : EngOp := { kind := .tcopy, warp := 0, lid := 0, taskId := 0, num := 0, q := 2 }
def labFull : State := labQueues [(2, List.replicate 16 labOp)]

theorem clean_of_empty {s : State} (h : (s.core (coreOf s.cur.warp)).l1 = []) : s.CleanL1 := by
  intro k l hl
  unfold Core.l1? at hl
  rw [h] at hl
  simp [SMap.find?] at hl

theorem test_meets_EngineQueuesAndFences :
    (labQueues []).StrandClear [1, 2] ∧ (labQueues []).mem.syncReqs = [] ∧ (labQueues []).CleanL1 ∧ ((labQueues []).warp 0).queues.get [] 2 = [] ∧
    16 ≤ ((labFull.warp 0).queues.get [] 2).length ∧ labFull.CleanL1 ∧ (labQueues []).Handled ∧ (labQueues []).StrandReaches 0x10400 1 .read 0x400 ∧
    (labQueues []).StrandReaches 0x10400 64 .read 0x400 ∧ (labQueues []).InL2 0x400 ∧ (labQueues []).revokedFor 0 = false ∧
    ({ labGroup [] with launches := [(0, { Launch.dflt with gst := [(3, { GroupSt.dflt with revoked := true })] })] } : State).revokedFor 0 = true ∧
    (labQueues []).liveLease 0 = none ∧
    (let o : EngOp := { (labQueues []).issued .mma 0 0x10400 with pb := (labQueues []).mem.lookN 0 0x400 64, cores := [0] }
     o.mTiles.any ((labQueues []).mmaTileBad 0) = false ∧ (labQueues []).mmaShape 0 o = false) ∧
    -- the queue set {q2} and an operation of the task in it, and a fence before an operation of the same set
    ((∀ x ∈ (labQueues []).opsOf 0, ¬bitAt (4 : BitVec 8) x.q = true) ∧ ∃ x ∈ labFull.opsOf 0, bitAt (4 : BitVec 8) x.q = true) ∧
    bitAt (BitVec.ofNat 8 4) labOp.q = true := by
  unfold State.StrandClear State.Handled State.StrandReaches State.Reach Mem.Sound State.InL2
  and_intros <;> first | decide +kernel | exact clean_of_empty (by decide +kernel)

theorem test_engine_queues :
    ([(.tcopy 0 2 1, 2), (.tquant 0 4 1, 4), (.gath 0 1, 5), (.scat 0 1, 5), (.prom 0 1 1, 7), (.dem 0 1, 7)] : List (Instr × Nat)).all (fun p =>
      decide (((((after p.1 (labQueues [])).warp 0).queues.get [] p.2).map (fun o => (o.num, o.q))) = [(0, p.2)])) = true ∧
    ((after (.tcopy 0 2 1) labFull).warp 0).swait = .qfull 2 ∧ (laneAfter (.tcopy 0 2 2) (labQueues []) 0).trapCode = 0x0C ∧
    (let t := after (.mma 0 1) (labQueues []); ((t.core 0).q0.map (fun o => (o.mM, o.mN, o.mK, o.cores)), (t.warp 0).opNum)) = ([(1, 8, 64, [0])], 1) ∧
    ((after (.qfence 0 0x84) (labQueues [])).warp 0).fences = [⟨0x84, 0⟩] ∧ ((after (.qwait 0 4) labFull).warp 0).swait = .queues 4 0 ∧
    ((after (.qwait 0 4) (labQueues [])).warp 0).spc = 0x10004 ∧
    ({ labFull with warps := [(0, { labTask with queues := [(2, [labOp])], fences := [⟨4, 1⟩] })] } : State).mayStart { labOp with num := 1 } = false := by decide +kernel

/-- Every core of the rectangle that a bond asks for, or of its cluster, lacks a member, or bears a lease, or has no usable seam pair, or one whose
other cluster is of another partition, or has a task. -/
def labCovered : State := labGroup [{ labLease with grp := 4 }]
def labInner : State :=
  { labStrait with warps := (List.range 16).map (fun k => (16 * k, { labTask with trec := { code := 0x10000, groups := [0x8003, 0, 0, 0] } }))
                   cur := { warp := 0, lanes := 3, strand := true } }
def labUnusable : State := { labStrait with regs := labStrait.regs ++ [(dieBlk 0 0, 7), (dieBlk 0 (8 * 7), 0)] }
def labForeign : State := { labStrait with regs := labStrait.regs ++ [(dieBlk 0 (0x1000 + 8 * 7), 0x81)] }
def labTaken : State := { labStrait with warps := labStrait.warps ++ [(256 * 64 + 16, labTask)] }

theorem test_bond_codes :
    ([(labGroup [], .bond 0 9 0 1 1, 3), (labGroup [], .bondStrait 0 9 0, 3), (labCovered, .bond 0 9 0 0 0, 4), (labInner, .bondStrait 0 9 0, 5),
      (labUnusable, .bondStrait 0 9 0, 5), (labForeign, .bondStrait 0 9 0, 6), (labTaken, .bondStrait 0 9 0, 7)] : List (State × Instr × Word64)).all (fun p =>
        decide (((after p.2.1 p.1).warp p.1.cur.warp).sreg 9 = p.2.2)) = true := by decide +kernel

theorem test_meets_Bonds_codes :
    (labCovered.leaseOf 0 3).isNone = true ∧ (labCovered.leaseAt 0).isNone = false ∧ ((labGroup []).warps.map (fun p => p.1)) = [0] ∧
    seamOf 0 = none ∧ seamOf 7 = some (64, 0) ∧ labUnusable.seamMap / 2 ^ 0 % 2 = 0 ∧ labForeign.cpart 7 ≠ labForeign.cpart 64 ∧
    labTaken.cpart 7 = labTaken.cpart 64 ∧ labTaken.residents (16 * 64 + 1) ≠ [] ∧ (labTaken.leaseAt (16 * 64 + 1)).isNone = true := by decide +kernel

/-! ## Barriers, task creation, items, system instructions -/

/-- Two members of group 3 have been created, tasks 4 and 5; this is task 5, in a launch that needs every core. -/
def labBar (g : GroupSt) : State :=
  { labOf { labTask with taskId := 5, trec := { code := 0x10000, groups := [0x8003, 0, 0, 0] }, s := [(1, 10)] } with
    launches := [(0, { Launch.dflt with cores := true, nrec := 6, groups := [(3, ⟨2, 1, 0⟩)], gst := [(3, g)] })] }

/-- Nobody has arrived; task 4 has ended; it stands at the first barrier; its value 7 stands at the first reduction. -/
def barNone : State := labBar { GroupSt.dflt with created := 2 }
def barEnded : State := labBar { GroupSt.dflt with created := 2, ended := [4] }
def barHere : State := labBar { GroupSt.dflt with created := 2, arrived := [(0, 4)] }
def redHere : State := labBar { GroupSt.dflt with created := 2, values := [⟨0, 4, .add, 7⟩] }

/-- One initial task, number 0. -/
def barAlone : State := { labOf labTask with launches := [(0, { Launch.dflt with cores := true, nrec := 1 })] }

/-- Group 3 is not bound, and the launch does not need every core. -/
def barFree : State :=
  { barNone with launches := [(0, { Launch.dflt with groups := [(3, ⟨2, 0, 0⟩)], gst := [(3, { GroupSt.dflt with created := 2 })] })] }

theorem test_meets_Barriers :
    (barEnded.warp 0).slot ≠ .free ∧ (barEnded.warp 0).converged = true ∧ (barEnded.launch 0).cores = true ∧ (barEnded.warp 0).trec.group? 0 = some 3 ∧
    barEnded.glitch = none ∧ barEnded.untold 0 = none ∧ barEnded.StrandClear [1] ∧ ((barEnded.launch 0).gstate 3).created = ((barEnded.launch 0).group 3).count ∧
    (((barEnded.launch 0).barAt 3 ((barEnded.launch 0).barCount 3 5) ++ [5] ++ ((barEnded.launch 0).gstate 3).ended).dedup.length = 2) ∧
    (((barHere.launch 0).barAt 3 ((barHere.launch 0).barCount 3 5) ++ [5] ++ ((barHere.launch 0).gstate 3).ended).dedup.length = 2) ∧
    (((barNone.launch 0).barAt 3 ((barNone.launch 0).barCount 3 5) ++ [5] ++ ((barNone.launch 0).gstate 3).ended).dedup.length ≠ 2) ∧
    (barEnded.launch 0).redAt 3 ((barEnded.launch 0).redCount 3 5) = [] ∧ ([5] ++ ((barEnded.launch 0).gstate 3).ended).dedup.length = 2 ∧
    (redHere.launch 0).redAt 3 ((redHere.launch 0).redCount 3 5) = [⟨0, 4, .add, 7⟩] ∧ ([4, 5] ++ ((redHere.launch 0).gstate 3).ended).dedup.length = 2 ∧
    -- the launch barrier: the one initial task, and one of six
    0 < (barAlone.launch 0).nrec ∧ (([0] ++ (barAlone.launch 0).endedInit).filter (fun i => decide (i < 1))).dedup.length = 1 ∧ 5 < (barNone.launch 0).nrec ∧
    (([5] ++ (barNone.launch 0).endedInit).filter (fun i => decide (i < 6))).dedup.length ≠ 6 := by
  unfold State.StrandClear; decide +kernel

theorem test_meets_Barriers_traps :
    barFree.Handled ∧ barFree.Calm ∧ (barFree.warp 0).trec.group? 0 = some 3 ∧ ((barFree.launch 0).group 3).place = 0 ∧ (barFree.launch 0).cores = false ∧
    (barFree.warp 0).trec.group? 1 = none ∧ barFree.StrandClear [1] ∧ (labInH.warp 0).converged = false ∧ (barNone.launch 0).nrec ≤ 6 ∧
    (only (labOf { labTask with converged := false }) 1).Handled := by
  unfold State.StrandClear State.Handled State.Calm; decide +kernel

theorem test_barriers :
    ((after (.gbar 0 0) barEnded).warp 0).spc = 0x10004 ∧ ((after (.gbar 0 0) barHere).warp 0).spc = 0x10004 ∧
    (let w := (after (.gbar 0 0) barNone).warp 0; (w.spc, w.swait)) = (0x10000, .gbar 0) ∧ ((after (.lbar 0) barAlone).warp 0).spc = 0x10004 ∧
    ((after (.lbar 0) barNone).warp 0).swait = .lbar ∧ ((after (.gred 0 9 1 0 .add) barEnded).warp 0).sreg 9 = 10 ∧
    ((after (.gred 0 9 1 0 .max) redHere).warp 0).sreg 9 = 17 ∧ ((after (.gred 0 9 1 0 .add) barNone).warp 0).swait = .gred 0 9 ∧
    (laneAfter (.gbar 0 0) (labOf { labTask with converged := false }) 0).trapCode = 5 ∧ (laneAfter (.gbar 0 1) barFree 0).trapCode = 0x0B ∧
    (laneAfter (.gbar 0 0) barFree 0).trapCode = 8 ∧ (laneAfter (.lbar 0) barFree 0).trapCode = 8 ∧ (laneAfter (.gred 0 9 1 0 .add) barFree 0).trapCode = 8 := by
  decide +kernel

/-- A template at s1: PC 0x20000, frame 0x30, no counter, no item queue, no groups, FLAGS of 2 lanes with CONT set, ARG1 77; and a
continuation descriptor: PC 0x20000, counter to wait on 0x10480 at byte 32, ARG0 and ARG1. -/
def labTemplate : BitVec 1024 := BitVec.ofNat 1024 (0x20000 + 0x30 * 2 ^ 64 + 0x104 * 2 ^ 352 + 77 * 2 ^ 448)
def labDescriptor : BitVec 1024 := BitVec.ofNat 1024 (0x20000 + 0x30 * 2 ^ 64 + 0x10480 * 2 ^ 256 + 5 * 2 ^ 320 + 6 * 2 ^ 384)

def labSpawn (x : BitVec 1024) : State :=
  { labMem { labTask with s := [(1, 0x10400), (2, 0x99)] } { l2 := [(8, ⟨x, 0, 0, 0, 0⟩)] } [] with
    launches := [(0, { Launch.dflt with wrote := [0], nextId := 2 ^ 32 - 33 })] }

theorem test_meets_TaskCreation :
    (labSpawn labTemplate).StrandClear [1, 2] ∧ (labSpawn labTemplate).StrandReaches 0x10400 64 .read 0x400 ∧ (labSpawn labTemplate).CleanL1 ∧
    (labSpawn labTemplate).AtL2 0x400 ∧ (let r := taskRecOf ((labSpawn labTemplate).mem.lookN 0 (canonPa 0x400) 64); r.join = 0 ∧ r.groupNos = []) ∧
    ((labSpawn labTemplate).launch 0).nextId + 32 < 2 ^ 32 ∧ ((labSpawn labTemplate).cluster 0).queue.length + 32 < 256 ∧ (labSpawn labTemplate).Clear (srcRes .lane ++ srcRes .l0) ∧
    ((labSpawn labTemplate).launch 0).namesBound ((labSpawn labTemplate).warp 0).trec = false ∧ (labSpawn labDescriptor).StrandReaches 0x10400 64 .read 0x400 ∧
    (labSpawn labDescriptor).AtL2 0x400 ∧ (labSpawn labTemplate).launch? 0 = some ((labSpawn labTemplate).launch 0) ∧ ((labSpawn labTemplate).launch 0).st = .running ∧
    numAt ((labSpawn labDescriptor).mem.lookN 0 (canonPa 0x400) 64) 32 8 % 8 = 0 ∧ numAt ((labSpawn labDescriptor).mem.lookN 0 (canonPa 0x400) 64) 56 8 = 0 := by
  refine ⟨by unfold State.StrandClear; decide +kernel, by unfold State.StrandReaches State.Reach Mem.Sound; decide +kernel, clean_of_empty (by decide +kernel),
    by unfold State.AtL2 State.InL2; decide +kernel, by decide +kernel, by decide +kernel, by decide +kernel, by unfold State.Clear State.ClearBy; decide +kernel, by decide +kernel,
    by unfold State.StrandReaches State.Reach Mem.Sound; decide +kernel, by unfold State.AtL2 State.InL2; decide +kernel, by decide +kernel⟩

theorem test_task_creation :
    (let t := after (.spawn 0 1 2) (labSpawn labTemplate)
     (((t.cluster 0).queue.map (fun q => (q.id, q.trec.code, q.trec.arg0, q.trec.arg1, q.trec.flags)), t.mem.e0)) =
       ([(2 ^ 32 - 33, 0x20000, 0x99, 77, 0x100)], 1)) ∧
    ((after (.spawnl 0 .lane .zero 1) (labSpawn labTemplate)).cluster 0).queue.map (fun q => (q.id, q.trec.arg0, q.trec.arg1)) =
      [(2 ^ 32 - 33, 0, 0), (2 ^ 32 - 32, 1, 0)] ∧
    (match ((after (.cont 0 1) (labSpawn labDescriptor)).warp 0).ending with
     | .contEnding r wait addr => decide (r.code = 0x20000 ∧ r.arg1 = 6 ∧ r.flags = 4 ∧ wait = 0x10480 ∧ addr = 0x10400)
     | _ => false) = true := by decide +kernel

/-- The item queue of the task: BASE 0x10480, SIZE 4, WRAP 0, HEAD 3, TAIL 5; its items stand in line 9. Lane 1 is vacant. -/
def labItemQueue : BitVec 1024 := BitVec.ofNat 1024 (0x10480 + 4 * 2 ^ 64 + 3 * 2 ^ 128 + 5 * 2 ^ 160)
def labRefill : State :=
  labMem { labTask with
             trec := { code := 0x10000, itemq := 0x10400 }
             lanes := [(0, labLane [(1, 7)]), (1, { Lane.dflt with st := .vacant, l0 := 5, o := [(2, 8)] })], mks := [(1, 1), (2, 2)] }
    { l2 := [(8, ⟨labItemQueue, 0, 0, 0, 0⟩), (9, ⟨BitVec.ofNat 1024 (0x1234 * 2 ^ 96), 0, 0, 0, 0⟩)] } []

theorem test_meets_Refill :
    (labRefill.warp 0).trec.itemq ≠ 0 ∧ lanesOf (labRefill.warp 0).vacant = [1] ∧ labRefill.execLanes = [0] ∧
    labRefill.Reach (labRefill.strandMaster 0) 0x10400 .atomic 0x400 ∧ labRefill.AtL2 0x400 ∧ 0x400 % 32 = 0 ∧ homeOf 0x400 = 0 ∧
    (let d := labRefill.mem.lookN 0 0x400 32
     numAt d 8 4 = 4 ∧ numAt d 12 4 = 0 ∧ numAt d 24 8 = 0 ∧ numAt d 20 4 ≠ numAt d 16 4 ∧ numAt d 0 8 / 4 * 4 + 4 * (numAt d 16 4 % numAt d 8 4) = 0x1048C) ∧
    labRefill.tlbFor (labRefill.strandMaster 0) 0x1048C = some labTlb ∧ labTlb.rd = true ∧ labRefill.sys.rangeOld = [] ∧ labRefill.mem.held = [] ∧
    (labRefill.core 0).l1 = [] ∧ labRefill.mem.strait = [] ∧ labTlb.pbase + 0x1048C % 2 ^ 16 = 0x48C ∧ labRefill.paAllowed 0 0x48C .read = true ∧
    labRefill.trackRead (some 0) 0x48C = labRefill ∧ (labRefill.mem.line? 0 (0x48C / 128)).isSome = true ∧ 0x48C / 8 ≠ (0x400 + 16) / 8 ∧ 0x48C % 4 = 0 ∧
    lab.Handled ∧ (lab.warp 0).trec.itemq = 0 := by
  unfold State.Reach Mem.Sound State.AtL2 State.InL2 State.Handled; decide +kernel

theorem test_refill :
    (let t := after (.refill 0 (.o 2)) labRefill
     let l := (t.warp 0).lane 1
     ((l.st, l.pc, l.o.get 0 2, l.l0, (t.warp 0).mks.get 0 1, (t.warp 0).mks.get 0 2, ofBytes (t.mem.lookN 0 0x410 4)) =
       (.live, 0x10004, 0x1234, 0, 3, 0, 4))) ∧
    (laneAfter (.refill 0 (.o 2)) labRefill 0).pc = 0x10004 ∧ (laneAfter (.refill 0 (.o 2)) lab 0).trapCode = 1 := by decide +kernel

theorem test_meets_SystemInstructions :
    lab.StrandClear [] ∧ lab.Clear [] ∧ lab.Calm ∧ lab.launch? 0 = some Launch.dflt ∧ Launch.dflt.st = .running ∧ lab.sys.markers.get 0 (lab.warp 0).part = 0 ∧
    (lab.core 0).ways = (1 : BitVec 3).toNat + 2 ∧ (lab.core 0).ways ≠ (5 : BitVec 3).toNat + 2 ∧ (lab.core 0).carves = [] ∧ lab.Handled := by
  unfold State.StrandClear State.Clear State.ClearBy State.Calm State.Handled; decide +kernel

theorem test_system_instructions :
    ((after (.phase 0 0xFF) lab).cluster 0).phase = 0xFF ∧ ((after (.perf 0 15) lab).warp 0).perf = some 15 ∧
    ((after (.carve 0 1) lab).core 0).carves = [] ∧ ((after (.carve 0 5) lab).core 0).carves = [{ ways := 7, residents := [0], trec := none }] ∧
    (laneAfter (.carve 0 6) lab 0).trapCode = 1 ∧ (laneAfter (.carve 0 0) lab 0).trapCode = 1 ∧
    (let t := after (.esc 0 0x5C) lab; ((t.warp 0).slot, (t.launch 0).st, (t.launch 0).fault.map (fun f => (f.code, f.escr)))) = (.free, .rolledBack, some (0x0C, 0x5C)) := by
  decide +kernel

/-! ## Device registers, the host, power and bring-up -/

/-- The machine at READY, with nothing resident; and with a task in cluster 0. -/
def ready : State := { State.reset with boot := { ({} : Boot) with stage := 8, hostUp := true, attestKey := some [9] }, regs := [(pkgBlk 0x10000, 0xC000000000000000)] }
def busy : State := { ready with warps := [(0, labTask)], launches := [(0, Launch.dflt)] }

/-- A granule of die 0 stands in the overflow area, and HEAD and TAIL of fault queue 15 differ. -/
def taken : State :=
  { ready with mem := { ({} : Mem) with granules := [(8, { val := 9, clk0 := 0, clk1 := 0, used := 0, area := some 0 })] }
               regs := [(faultReg 15 16, 0x0000000100000000)] }

/-- Die 1 gated; and a machine before READY, every register still at its reset value. -/
def gated : State := { ready with sys := { ready.sys with gated1 := true } }
def early : State := { ready with boot := { ready.boot with stage := 5 } }

theorem test_meets_DeviceRegisters :
    early.boot.stage ≠ 8 ∧ gated.sys.off 1 = true ∧ ready.boot.stage = 8 ∧ ready.sys.off 1 = false ∧
    (let s := { ready with sys := { ready.sys with switching := [(127, 0), (126, 1)] }, cur := { clu := 127 } }; ∃ p ∈ s.sys.switching, p.1 = s.cur.clu) ∧
    ready.Idle 127 ∧ ¬busy.Idle 0 ∧ (∀ l < 64, field (busy.reg (dieBlk 1 (8 * l))) 6 0 = 67 → busy.Idle (64 + l)) ∧
    (∃ l, l < 64 ∧ field (busy.reg (dieBlk 0 (8 * l))) 6 0 = 0 ∧ ¬busy.Idle l) ∧
    (∀ p ∈ ready.mem.granules, homeOf (8 * p.1) = 1 → p.2.area = none) ∧ (∃ p ∈ taken.mem.granules, homeOf (8 * p.1) = 0 ∧ p.2.area ≠ none) ∧
    ready.regulator 127 = field (3 : Word64) 1 0 ∧ ready.regulator 127 ≠ field (0 : Word64) 1 0 ∧ (∀ f ∈ ready.faults, f.part = 15 → f.written = true) ∧
    field (ready.reg (faultReg 15 16)) 31 0 = field (ready.reg (faultReg 15 16)) 63 32 ∧ field (taken.reg (faultReg 15 16)) 31 0 ≠ field (taken.reg (faultReg 15 16)) 63 32 := by
  unfold State.Idle; and_intros <;> decide +kernel

/-- The value of a register after an instruction, and DSTAT of die 0. -/
def regAfter (i : Instr) (s : State) (a : Nat) : Word64 := (after i s).reg a
def dstat (s : State) : Word64 := s.reg (dieBlk 0 0x4000)

theorem test_device_registers :
    ([(.cmapWrite 0 5 0xFF, dieBlk 0 (8 * 5), 0x7F), (.cpartWrite 1 63 0xFF, dieBlk 1 (0x1000 + 8 * 63), 0x8F), (.tqovfWrite 0 2 0 0xFFFFFFFFFFFFFFFF, dieBlk 0 (0x5000 + 32), 0x0000FFFFFFFFF000),
      (.cellmaskWrite 0 67 15 0x1B, dieBlk 0 (0x8000 + 8 * (16 * 67 + 15)), 0x18), (.synovfWrite 1 0xFFFFFFFFFFFFFFFF, dieBlk 1 0x6000, 0x0000FFFFFFFFFFFF),
      (.qbindWrite 0 63 0xFFFFFFFFFFFFFFFF, dieBlk 0 (0x2000 + 16 * 63), 0x8000000000000F0F), (.expwWrite 15 1 0xFFFFFFFF, pkgBlk (0x62008 + 240), 131072),
      (.expwWrite 0 0 0xFFFFFFFFFFFFFFFF, pkgBlk 0x62000, 0x0000FFFFFFE00000), (.faultqConfigWrite 15 0 0xFFFFFFFFFFFFFFFF, faultReg 15 0, 0x0000FFFFFFFFFFE0),
      (.faultqConfigWrite 15 12 0xFFFFFFFF, faultReg 15 8, 0x800007FF00000000), (.faultQueueHeadWrite 15 7, faultReg 15 16, 7)] : List (Instr × Nat × Word64)).all
        (fun p => decide (regAfter p.1 ready p.2.1 = p.2.2)) = true ∧
    bitAt (dstat (after (.cmapWrite 0 0 1) busy)) 63 = true ∧ bitAt (dstat (after (.synovfWrite 0 0) taken)) 63 = true ∧
    bitAt (dstat (after (.faultqConfigWrite 15 8 1) taken)) 63 = true ∧
    -- before READY none of these writes acts, and none to a die that is off
    ([.cmapWrite 0 5 0xFF, .qbindWrite 0 63 1, .synovfWrite 0 0, .expwWrite 15 1 3, .regselWrite 3 1, .fscfgWrite 1 1 1, .sync 1, .faultqConfigWrite 1 0 32] :
      List Instr).all (fun i => decide (after i early = early)) = true ∧
    after (.cpartWrite 1 63 0xFF) gated = gated ∧ (after (.cpartWrite 1 63 0xFF) ready).regs ≠ ready.regs := by decide +kernel

theorem test_switch_and_slots :
    (let t := after (.regselWrite 127 0) ready; (t.regulator 127, t.sys.switching, t.schedules 127)) = (0, [(127, 0)], false) ∧
    (let s := { after (.regselWrite 127 0) ready with cur := { clu := 127 } }; (after .regulatorSwitchDone s).sys.switching) = [] ∧
    (after (.fscfgWrite 11 4095 2047) ready).slotsOf 11 4095 = 1024 ∧ (after (.fscfgWrite 11 4095 5) ready).slotsOf 11 4095 = 5 ∧
    (let s := { ready with sys := { ready.sys with rangeOld := [(pkgBlk 0x10000, 0)] } }; ((after (.sync 1) s).sys.rangeOld, (after (.sync 2) s).sys.rangeOld.length)) = ([], 1) := by
  decide +kernel

/-- Line 8 in L2 of die 0, and function 3 stopped. -/
def served : State := { ready with mem := { ({} : Mem) with l2 := [(8, ⟨labLine, 0, 0, 0, 0⟩)] }, frozenFns := [3] }

/-- A port of partition 2 with an outward window of one unit of 2 MiB at 0. -/
def peered : State :=
  { served with regs := [(pkgBlk 0x10000, 0xC200000000000000), (pkgBlk 0x60000, 0x82), (pkgBlk (0x62000 + 32), 0), (pkgBlk (0x62008 + 32), 1)] }

/-- A machine whose bring-up could make no attestation key, a report of function 2 begun. -/
def keyless : State := { after (.attestReq 2 1) ready with boot := { (after (.attestReq 2 1) ready).boot with attestKey := none } }

theorem test_meets_HostAndPeers :
    served.mem.Plain ∧ served.boot.hostUp = true ∧ 2 ∈ keyless.boot.reports ∧ keyless.boot.attestKey = none ∧
    (after (.attestReq 2 1) ready).boot.attestKey ≠ none ∧ (pkgBlk 0x9FFF8 < pkgBlk 0xA0000 ∧ pkgBlk 0xC0000 ≤ pkgBlk 0xC0000) ∧ field (1 : BitVec 64) 31 0 = 1 ∧
    ready.boot.powered = true ∧ ready.boot.stage = 8 ∧ ready.sys.off 1 = false ∧ gated.sys.off 1 = true ∧ early.boot.stage ≠ 8 ∧
    served.mem.granules = [] ∧ served.mem.strait = [] ∧ served.mem.bad = [] ∧ served.mem.slots = [] ∧ Memory.wf served.mem.bytes ∧
    1 ∉ served.frozenFns ∧ 3 ∈ served.frozenFns ∧ served.allowedAny 0x407 false = true ∧ served.allowed 0 0x400 true = true ∧ served.allowed 4 0x400 true = false ∧
    homeOf 0x400 = 0 ∧ (served.mem.line? 0 (0x400 / 128)).isSome = true ∧ 0x407 % 8 + 1 ≤ 8 ∧ 0x400 % 8 + 8 ≤ 8 ∧
    bitAt (peered.reg (pkgBlk 0x60000)) 7 = true ∧ field (peered.reg (pkgBlk 0x60000)) 3 0 = 2 ∧ peered.allowed 2 0x400 false = true ∧
    0x400 + 8 ≤ 2 ^ 21 * field (peered.reg (pkgBlk 0x62028)) 17 0 ∧ 2 ^ 21 * field (peered.reg (pkgBlk 0x62028)) 17 0 < (2 ^ 21 - 7) + 8 ∧
    Memory.wf ready.devBytes ∧ 2 ∉ ready.boot.reports ∧ 2 ∈ (after (.attestReq 2 1) ready).boot.reports := by unfold Mem.Plain Mem.Sound; decide +kernel

theorem test_host_and_peers :
    (after (.hostAccess { fn := 0, addr := 0x404, op := .read 4 }) served).outs = [.resp 0 0x404 0x08070605 true] ∧
    (let t := after (.hostAccess { fn := 1, addr := 0x400, op := .write [0xAA, 0xBB] }) served; (t.outs, t.mem.look 0 0x400, t.mem.look 0 0x402, t.mem.e0)) = ([.resp 1 0x400 0 true], 0xAA, 3, 0) ∧
    (after (.hostAccess { fn := 1, addr := 0x400, op := .write [0xAA], rel := true }) served).mem.e0 = 1 ∧
    (let t := after (.hostAccess { fn := 5, addr := 0x400, op := .write [1] }) served; (t.frozenFns.contains 3, t.frozenFns.contains 5, t.outs)) = (true, true, [.vector 0 0, .resp 5 0x400 0 false]) ∧
    (after (.hostAccess { fn := 3, addr := 0x400, op := .write [1] }) served).outs = [.resp 3 0x400 0 false] ∧
    (after (.fabricPeerAccess { port := 0, off := 0x400, op := .read 8 }) peered).outs = [.peer 0 0x400 0x0807060504030201 true] ∧
    (after (.fabricPeerAccess { port := 0, off := 2 ^ 21 - 7, op := .read 8 }) peered).outs = [.peer 0 (2 ^ 21 - 7) 0 false] := by decide +kernel

theorem test_register_writes :
    regAfter (.registerWrite (dieBlk 0 (8 * 5)) 8 0xFF) ready (dieBlk 0 (8 * 5)) = 0x7F ∧ (after (.registerWrite (dieBlk 1 (8 * 5)) 8 0xFF) gated).regs = gated.regs ∧
    (after (.registerWrite (dieBlk 0 (8 * 5)) 8 0xFF) early).regs = early.regs ∧
    regAfter (.registerWrite (budgetReg 11 127) 8 0xFFFFFFFF12345678) { ready with regs := [(budgetReg 11 127, 0x0000000500000001)] } (budgetReg 11 127) = 0x12345678 ∧
    getBytes (after (.attestReq 2 1) ready).devBytes (boxOf 2 + 0x24) 4 = [2, 0, 0, 0] ∧
    (after (.reportDone 2) (after (.attestReq 2 1) ready)).outs = [.vector 2 1] ∧
    -- with no key the report ends with ERROR 1 and raises nothing
    (let t := after (.reportDone 2) keyless; (t.outs, t.boot.reports, getBytes t.devBytes (boxOf 2 + 0x24) 4)) = ([], [], [0, 1, 0, 0]) := by decide +kernel

/-- Die 1 being gated, gated for good, and waking. -/
def asleep : State := { gated with regs := [(pkgBlk 0x70000, 2)] }
def gating : State := { ready with sys := { ready.sys with gating := some (1, true) }, regs := [(pkgBlk 0x70000, 2)] }
def waking : State := { gated with sys := { gated.sys with gating := some (1, false) }, regs := [(pkgBlk 0x70000, 0)] }

theorem test_meets_Power :
    field (ready.reg (pkgBlk 0x70000)) 1 0 = 0 ∧ ready.sys.gating = none ∧ (∀ l < 64, ready.cpart (64 + l) = none) ∧ (∀ q < 64, ready.binding 1 q = none) ∧
    ready.rangeOnDie 1 = false ∧ ready.rangeOnDie 0 = true ∧ ready.sys.off 0 = false ∧ gating.sys.gating = some (1, true) ∧ waking.sys.gating = some (1, false) ∧
    (∀ e < 2, ready.sys.off e = false) ∧ ready.boot.dieFail = 0 ∧ field (0x2 : Word64) 1 0 = 0 + 2 ^ 1 ∧
    -- gating ends with everything of the die drained; a die that is gated wakes, the other never off
    gating.settleAll.sys.gating = some (1, true) ∧ gating.settleAll.sys.off 0 = false ∧ field (gating.settleAll.reg (pkgBlk 0x70000)) 1 0 = 2 ∧
    asleep.sys.gating = none ∧ asleep.boot.dieFail = 0 ∧ asleep.sys.off 1 = true ∧ asleep.sys.off 0 = false ∧ field (asleep.reg (pkgBlk 0x70000)) 1 0 = 2 ∧
    waking.sys.off 0 = false ∧ field (waking.reg (pkgBlk 0x70000)) 1 0 = 0 ∧
    (({ ready with sys := { ready.sys with domains := [(0, { point := 3, target := some 7 })] } } : State).sys.domains.get { } 0).target = some 7 ∧ ready.straitBusy 0 = false ∧
    State.reset.boot.powered = true ∧ ready.boot.stopped = none ∧ early.boot.stage < 8 ∧ (2 : BitVec 8).toNat % 4 ≠ 3 ∧ (3 : Nat) ≤ early.boot.stage := by decide +kernel

theorem test_power :
    (let t := after (.gateDie 2) ready; (t.sys.gating, t.sys.off 1, t.reg (pkgBlk 0x70000))) = (some (1, true), true, 2) ∧
    bitAt (dstat (after (.gateDie 1) ready)) 63 = true ∧ (after (.wakeDie 0) asleep).sys.gating = some (1, false) ∧
    (after .gatingDone gating).sys.gated1 = true ∧ (after (.gateDie 3) asleep).sys = asleep.sys ∧ (after .gatingDone waking).sys.off 1 = false ∧
    (let s := { ready with sys := { ready.sys with domains := [(0, { point := 3, target := some 7 })] } }; (after .pointChangeDone s).sys.domains) = [(0, { point := 7, target := none })] ∧
    (let t := after (.domainLoop ⟨[15, 15, 15, 15], 4401, [], 50, 60, []⟩) ready; (t.boot.tempDie, t.boot.tempStack)) = (50, 60) := by decide +kernel

/-- The budget of one cluster of each regulator after an event. -/
theorem test_supply :
    (let t := after .regulatorOvercurrent ready; (field (t.reg (budgetReg 11 124)) 31 0, field (t.reg (budgetReg 11 125)) 31 0)) = (1024, 0) ∧
    field ((after .vinLow ready).reg (budgetReg 0 1)) 31 0 = 1024 ∧
    (let t := after .powerOn { ready with boot := { ready.boot with powered := false } }; (t.boot.stage, t.boot.powered, t.regs)) = (1, true, []) ∧
    (let t := after .supplyReset ready; (t.boot.stage, t.boot.powered)) = (1, false) ∧ (let t := after .thermalTrip ready; (t.boot.stage, t.boot.trip)) = (1, true) ∧
    (let t := after (.rstctl 0x5A) busy; (t.boot.stage, t.warps.length)) = (2, 0) ∧ (after (.rstctl 0x5B) busy).boot.stage = 8 ∧
    (after .hostLinkTrained { early with boot := { early.boot with hostUp := false } }).boot.hostUp = true := by decide +kernel

/-- A mailbox command in progress: kind 1, 3 bytes in all, 2 of them at offset 0 in DATA. -/
def mailed (cmd : Nat) : State :=
  { ready with
    boot := { ready.boot with cmd := cmd, staged := [(1, [(0, 7), (1, 8), (2, 9)])] }
    regs := [(pkgBlk 0xA8000, 1), (pkgBlk 0xA8008, 3), (pkgBlk 0xA8010, 0), (pkgBlk 0xA8018, 2)]
    devBytes := [(pkgBlk 0xA9000, 7), (pkgBlk 0xA9001, 8)] }

theorem test_meets_Bringup :
    (mailed 1).boot.cmd = 1 ∧ (mailed 1).mailOk = true ∧ (mailed 1).mailOff % 65536 = 0 ∧ 1 ≤ (mailed 1).mailChunk ∧ (mailed 1).mailChunk ≤ 65536 ∧
    (mailed 1).mailOff + (mailed 1).mailChunk ≤ (mailed 1).mailLen ∧ (mailed 2).boot.cmd = 2 ∧
    (∀ k < (mailed 2).mailLen, SMap.find? ((mailed 2).boot.staged.get [] (mailed 2).mailKind) k = some (BitVec.ofNat 8 (7 + k))) ∧
    ({ mailed 2 with boot := { (mailed 2).boot with flash := [(0, [1, 2])] } } : State).boot.flash.find? 0 = some [1, 2] := by decide +kernel

/-- Each image of stage 2 is good, or absent, or badly signed, or too old: one clause of the statement or another speaks of it,
whatever the fixed functions of the package give. -/
theorem test_meets_Bringup_images (s : State) (k : Nat) :
    (∃ b, imageOf s.boot.flash k = some b ∧ Config.verifies b = true ∧ Config.minVersion ≤ Config.imageVersion b) ∨ imageOf s.boot.flash k = none ∨
    ∃ b, imageOf s.boot.flash k = some b ∧ (Config.verifies b = false ∨ Config.verifies b = true ∧ Config.imageVersion b < Config.minVersion) := by
  cases h : imageOf s.boot.flash k with
  | none => exact .inr (.inl rfl)
  | some b =>
    cases hv : Config.verifies b
    · exact .inr (.inr ⟨b, rfl, .inl hv⟩)
    · rcases Nat.lt_or_ge (Config.imageVersion b) Config.minVersion with hl | hl
      · exact .inr (.inr ⟨b, rfl, .inr ⟨hv, hl⟩⟩)
      · exact .inl ⟨b, rfl, hv, hl⟩

/-- Bring-up at a stage, and one that has stopped at stage 2. -/
def bringup (stage : Nat) : State := { early with boot := { early.boot with stage := stage, hostUp := false } }
def rejected : State := { bringup 2 with boot := { (bringup 2).boot with stopped := some 1 } }

theorem test_meets_Bringup_stages :
    (∀ k < 8, (bringup k).boot.powered = true ∧ (bringup k).boot.stopped = none ∧ (bringup k).boot.stage = k) ∧
    (3 : BitVec 8).toNat % 4 = 3 ∧ rejected.boot.powered = true ∧ rejected.boot.stopped ≠ none ∧ ready.boot.stage = 8 := by decide +kernel

theorem test_bringup_rejection :
    (after .hostLinkTrained rejected).boot.hostUp = true ∧ (after .hostLinkTrained (bringup 2)).boot.hostUp = false ∧
    (let t := after (.bringupStageDone true 3) (bringup 5); (t.boot.stopped, t.boot.dieFail, t.sys.off 0, t.sys.off 1)) = (some 6, 3, true, true) ∧
    (after .firmwareSwitch early) = early ∧ (after (.gateDie 2) early) = early := by decide +kernel

theorem test_bringup :
    (let t := after .recoveryFinishImage (mailed 2); (t.boot.cmd, imageOf t.boot.flash 1, t.reg (pkgBlk 0xA8020))) = (0, some [7, 8, 9], 2) ∧
    (let t := after (.bringupStageDone true 0) early; (t.boot.stage, t.boot.stopped)) = (6, none) ∧
    (let t := after (.bringupStageDone false 6) early; (t.boot.stage, t.boot.stopped, t.houseReg 0x10 % 2 ^ 16)) = (5, some 6, 0x60F) := by decide +kernel

/-! ## Memory traffic and translation -/

/-- An atomic of lane 0 waits at the engine of die 0: it adds 5 at 0x400. -/
def labSync : State :=
  let s := labMem labMemTask {} []
  { s with mem := { s.mem with syncReqs := [{ warp := 0, lane := 0, task := 0, die := 0, addr := 0x400, op := .add32, b := 5, c := 0, m := s.strandMaster 0 }] } }

/-- Granule 0 of die 0, used least recently, and n others. -/
def engineHolding (n : Nat) (cap : Word64) : State :=
  { ready with
    regs := [(dieBlk 0 0x6000, cap)]
    mem := { ({} : Mem) with
      l2 := [(0, ⟨labLine, 0, 0, 0, 0⟩)]
      granules := (0, { val := 7, clk0 := 0, clk1 := 0, used := 0 }) ::
        (List.range n).map (fun i => (i + 1, ({ val := 7, clk0 := 0, clk1 := 0, used := 1 } : Granule))) } }

/-- Granules beside the first one stand in the SRAM of die 0, and their numbers rise, so an SRAM that has no room left can be
reached: n is then syncRoom. -/
theorem engine_holds (n : Nat) (cap : Word64) (hn : n ≤ 524288) :
    (engineHolding n cap).mem.inArea 0 = [] ∧ n ≤ ((engineHolding n cap).mem.inSram 0).length ∧
    (engineHolding n cap).mem.granules.find? 0 = some { val := 7, clk0 := 0, clk1 := 0, used := 0 } ∧
    (∀ p ∈ (engineHolding n cap).mem.granules, p.1 ≠ 0 → homeOf (8 * p.1) = 0 → 0 < p.2.used) ∧ (engineHolding n cap).mem.granules.keys.Nodup ∧
    (engineHolding n cap).mem.strait = [] ∧ (engineHolding n cap).mem.slots = [] ∧ (engineHolding n cap).overflowRoom 0 = 4096 * field cap 15 0 := by
  have hg : (engineHolding n cap).mem.granules = (0, { val := 7, clk0 := 0, clk1 := 0, used := 0 }) ::
      (List.range n).map (fun i => (i + 1, ({ val := 7, clk0 := 0, clk1 := 0, used := 1 } : Granule))) := rfl
  have each : ∀ p ∈ (engineHolding n cap).mem.granules, homeOf (8 * p.1) = 0 ∧ p.2.area = none ∧ (p.1 ≠ 0 → p.2.used = 1) := by
    intro p hp
    rw [hg] at hp
    rcases List.mem_cons.mp hp with rfl | hp
    · exact ⟨by decide, rfl, fun h => absurd rfl h⟩
    · obtain ⟨i, hi, rfl⟩ := List.mem_map.mp hp
      refine ⟨?_, rfl, fun _ => rfl⟩
      have := List.mem_range.mp hi
      unfold homeOf gib
      split <;> omega
  refine ⟨?_, ?_, rfl, ?_, ?_, rfl, rfl, ?_⟩
  · exact List.filter_eq_nil_iff.mpr (fun p hp => by simp [(each p hp).2.1])
  · unfold Mem.inSram
    rw [List.filter_eq_self.mpr (fun p hp => by simp [(each p hp).1, (each p hp).2.1]), hg]
    simp
  · intro p hp h0 _
    rw [(each p hp).2.2 h0]
    exact Nat.one_pos
  · rw [hg]
    unfold SMap.keys
    simp only [List.map_cons, List.map_map]
    exact List.nodup_cons.mpr ⟨by simp, (List.nodup_range (n := n)).map (fun a b h => Nat.succ.inj h)⟩
  · have : (engineHolding n cap).reg (dieBlk 0 0x6000) = cap := rfl
    unfold State.overflowRoom
    rw [this, Nat.mul_comm]

theorem test_meets_full_engine :
    syncRoom ≤ ((engineHolding syncRoom 1).mem.inSram 0).length ∧
    ((engineHolding syncRoom 1).mem.inArea 0).length < (engineHolding syncRoom 1).overflowRoom 0 ∧
    (engineHolding syncRoom 0).overflowRoom 0 ≤ ((engineHolding syncRoom 0).mem.inArea 0).length := by
  have h1 := engine_holds syncRoom 1 (Nat.le_refl _)
  have h0 := engine_holds syncRoom 0 (Nat.le_refl _)
  refine ⟨h1.2.1, ?_, ?_⟩
  · rw [h1.1, h1.2.2.2.2.2.2.2]; decide
  · rw [h0.1, h0.2.2.2.2.2.2.2]; decide

/-- Requests at the arbiter of stack 0: one of cluster 3 that may be held, with a budget of one unit of which 64 bytes are used. -/
def labChanReq : ChanReq := { row := 1, bank := 2, cls := 1, slackNs := 100, id := 3, write := false, arrived := none, aged := false }
def labArbReq : ArbReq := { clu := 3, bytes := 128, pa := 0x400, holdable := true, req := labChanReq }
def labArb (budget : Word64) (b : Arb) : State := { ready with regs := [(budgetReg 0 3, budget)], mem := { ({} : Mem) with arbs := [(0, b)] } }

/-- A channel at which two requests have arrived in cycle 10 and a third has not: the one of class 0 goes first. -/
def labChan : State :=
  { ready with mem := { ({} : Mem) with chans := [(0, { reqs := [
      { labChanReq with arrived := some (10, 166) }, { labChanReq with cls := 0, bank := 3, arrived := some (10, 166) }, labChanReq], now := 10 })] } }
def labFirst : ChanReq := { labChanReq with cls := 0, bank := 3, arrived := some (10, 166) }

/-- Line 8 dirty in its first byte; and a write of die 1 on its way to it. -/
def labBack : State := { ready with mem := { ({} : Mem) with l2 := [(8, ⟨labLine, 1, 0, 0, 0⟩)] } }
def labMsg : Msg := { src := 1, line := 8, data := 0xAB, mask := 1, k := 0, k2 := 0, q := labSync.strandMaster 0 }
def labPost : State := { ready with mem := { ({} : Mem) with l2 := [(8, ⟨labLine, 0, 0, 0, 0⟩)], strait := [labMsg] } }

theorem test_meets_MemoryTraffic :
    (let u : State := { labSync with mem := { labSync.mem with syncReqs := [] } }
     u.trackRead (some 0) 0x400 = u ∧ u.trackWrite (some 0) 0x400 = u ∧ u.EngineRoom 0 ∧ (u.warp 0).slot ≠ .free ∧ homeOf 0x400 = 0) ∧ labSync.mem.Sound ∧ labSync.mem.strait = [] ∧
    (labSync.mem.inSram 0).length < syncRoom ∧
    -- no budget; nothing of the interval yet; within the budget; beyond it
    (128 * field ((labArb 0 {}).reg (budgetReg 0 3)) 31 0 = 0) ∧ (0 + 128 ≤ 128 * field ((labArb 1 {}).reg (budgetReg 0 3)) 31 0) ∧
    (128 * field ((labArb 1 {}).reg (budgetReg 0 3)) 31 0 < 64 + 128) ∧
    (labChan.mem.chan 0 0).mayBe 10 = true ∧ labFirst ∈ (labChan.mem.chan 0 0).reqs ∧ (labChan.mem.chan 0 0).busy.get 0 3 ≤ 11 ∧
    (∀ x ∈ (labChan.mem.chan 0 0).reqs, x.arrived ≠ none → (labChan.mem.chan 0 0).busy.get 0 x.bank ≤ 11 → x ≠ labFirst → labFirst.before 11 x = true) ∧
    (labChan.mem.chan 0 0).now ≤ 11 ∧ 11 ≤ 10 + 96 * (labFirst.passed + 1) + 100 * labFirst.bankOps ∧
    ((labChan.mem.chan 0 0).served labFirst).mayBe (11 + 1) = true ∧ labFirst.id < 274 ∧ 10 + 96 * (labFirst.passed + 1) + 100 * labFirst.bankOps < 107 ∧
    -- the third request is the first that has not arrived
    (labChan.mem.chan 0 0).reqs = [{ labChanReq with arrived := some (10, 166) }, labFirst] ++ labChanReq :: [] ∧
    labBack.mem.line? 0 8 = some ⟨labLine, 1, 0, 0, 0⟩ ∧ homeOf (128 * 8) = 0 ∧ labBack.mem.slots = [] ∧ Memory.wf labBack.mem.bytes ∧
    labPost.mem.strait = [labMsg] ∧ labPost.mem.granules = [] ∧ (labPost.mem.line? 0 labMsg.line).isSome = true := by
  unfold State.EngineRoom Mem.Sound; decide +kernel

theorem test_memory_traffic :
    (let t := after .syncEngineAtomic labSync; (t.mem.syncReqs.length, ofBytes (t.mem.lookN 0 0x400 4), ((t.warp 0).lane 0).l0)) = (0, 5, 0) ∧
    (let t := after .arbiterRequest (labArb 1 { arriving := [labArbReq] }); ((t.mem.arbs.get Arb.dflt 0).held.length, (t.mem.arbs.get Arb.dflt 0).counts.get 0 3)) = (0, 128) ∧
    (let t := after .arbiterRequest (labArb 1 { arriving := [labArbReq], counts := [(3, 64)] }); (t.mem.arbs.get Arb.dflt 0).held) = [labArbReq] ∧
    (let t := after .meteringInterval (labArb 1 { held := [labArbReq], counts := [(3, 64)] })
     ((t.mem.arbs.get Arb.dflt 0).held.length, field (t.reg (budgetReg 0 3)) 55 32)) = (0, 1) ∧
    -- 100 ns are 156.25 cycles, rounded up
    (let t := after (.channelArrival 0 0 20) labChan; (t.mem.chan 0 0).reqs.map (fun r => r.arrived)) = [some (10, 166), some (10, 166), some (20, 177)] ∧
    (let t := after (.channelService 0 0 11) labChan; ((t.mem.chan 0 0).reqs.map (fun r => (r.cls, r.passed)), t.missCount 0 0 3)) = ([(1, 1), (1, 0)], 0) ∧
    -- 167 cycles is after the deadline, and 107 after the last cycle in which the request can be served
    ((after (.channelService 0 0 107) labChan).mem.chan 0 0).reqs.length = 3 ∧
    (let t := after (.l2Writeback 0 8) labBack; (t.mem.stackGet 0x400, (t.mem.line? 0 8).map (fun l => l.dirty))) = (1, some 0) ∧
    (let t := after (.remoteWriteApply 0 0) labPost; (t.mem.strait.length, t.mem.look 0 0x400, t.mem.look 0 0x401)) = (0, 0xAB, 2) := by decide +kernel

/-- Five tables for virtual page 0 of address space 0, at 0x8000, 0x9000, 0xA000, 0xB000 and 0xC000, the last with a leaf for the page at
0x50000, readable, writable and executable; their entries stand in L2 of die 0, and no TLB holds a translation. -/
def labWalk : State :=
  let line (n : Nat) (v : Nat) : Nat × L2Line := (n, ⟨BitVec.ofNat 1024 v, 0, 0, 0, 0⟩)
  { lab with
    mem := { ({} : Mem) with l2 := [line 256 0x9001, line 288 0xA001, line 320 0xB001, line 352 0xC001, line 384 0x5001F] }
    regs := [(pkgBlk 0x10000, 0xC000000000000000), (pkgBlk 0x20000, 0x8000000000008000)] }

def labPage : TlbEnt := { die := 0, space := 0, vpage := 0, bits := 16, pbase := 0x50000, rd := true, wr := true, ex := true }
def labMiss0 : Walk := { space := 0, va := 0x20, m := labWalk.strandMaster 0, kind := 0 }

/-- That miss stands in the table of pending walks, with a second one of the same page; and the same where the root is not set. -/
def labPending : State := { labWalk with mem := { labWalk.mem with walks0 := [labMiss0, { labMiss0 with va := 0x30 }] } }
def labNoRoot : State := { lab with mem := { ({} : Mem) with walks0 := [labMiss0] }, regs := [(faultReg 0 0, 0x100000), (faultReg 0 8, 0x8000000000000010)] }

/-- Lane 0 waits on the only outstanding fault. -/
def labFault : PFault := { tok := 7, part := 0, space := 0, va := 0x10400, reason := 1, kind := 0, lid := 0, master := 0, written := true }
def labWaits : State :=
  { labOf { labTask with lanes := [(0, { labLane [] with wait := .fault 7 })] } with faults := [labFault], boot := { ({} : Boot) with stage := 8 } }

/-- A red stands in q6 while an invalidation of every space runs. -/
def labInv (qs : SMap (List EngOp)) : State :=
  { labOf { labTask with queues := qs } with boot := { ({} : Boot) with stage := 8 }, sys := { State.reset.sys with inv := [(0, [0])] }, mem := { ({} : Mem) with tlb := [labTlb, labPage], tlbs := [(0, [labPage])] } }

theorem test_meets_Translation :
    (let s := labWalk
     let m := s.strandMaster 0
     let tb (i : Nat) : Nat := 0x8000 + 0x1000 * i
     bitAt (s.reg (pkgBlk 0x20000)) 63 = true ∧ tb 0 = 2 ^ 15 * field (s.reg (pkgBlk 0x20000)) 47 15 ∧ s.mem.Sound ∧ s.mem.granules = [] ∧
     (∀ i ≤ 4, s.allowed m.part (tb i) false = true) ∧ (∀ i ≤ 4, (s.mem.line? m.die (canonPa (tb i) / 128)).isSome = true) ∧
     (∀ i < 4, ofBytes (s.mem.lookN m.die (canonPa (tb i)) 8) = tb (i + 1) + 1) ∧ ofBytes (s.mem.lookN m.die (canonPa (tb 4)) 8) = 0x50000 + 4 * 7 + 3 ∧
     (s.walk m 0x20).2 = .page labPage) ∧
    bitAt (labNoRoot.reg (pkgBlk 0x20000)) 63 = false ∧
    labWalk.tlbFor (labWalk.strandMaster 0) 0x20 = none ∧ labWalk.mem.walks 0 = [] ∧ labL2.tlbFor (labL2.strandMaster 0) 0x10400 = some labTlb ∧
    (∃ y ∈ labPending.mem.walks 0, y.space = 0 ∧ y.va / 65536 = 0x20 / 65536) ∧
    ({ labWalk with mem := { labWalk.mem with walks0 := List.replicate 512 labMiss0 } } : State).mem.walks 0 ≠ [] ∧
    512 ≤ (({ labWalk with mem := { labWalk.mem with walks0 := List.replicate 512 labMiss0 } } : State).mem.walks 0).length ∧
    labPending.mem.walks 0 = [labMiss0, { labMiss0 with va := 0x30 }] ∧ labNoRoot.cur.die = 0 ∧ labNoRoot.mem.walks 0 = [labMiss0] ∧
    labNoRoot.faults = [] ∧ labMiss0.m.part < 16 ∧ labMiss0.m.space = labMiss0.space ∧ labWaits.boot.stage = 8 ∧
    -- the three forms of INV, the last at the first and past the last page of a range
    field (0 : Word64) 62 61 = 0 ∧ field (0x2000000000000000 : Word64) 62 61 = 1 ∧ field (0x4010000000000001 : Word64) 62 61 = 2 ∧
    field (0x4010000000000001 : Word64) 52 40 = 4096 ∧
    (labInv [(6, [labOp])]).sys.inv.find? 0 = some [0] ∧ [0].any (labInv [(6, [labOp])]).stillUsed = true ∧ [0].any (labInv []).stillUsed = false ∧
    (labInv []).sys.inv.keys.Nodup ∧
    (∃ f ∈ labWaits.faults, f.tok = 7 ∧ f.part = 0) ∧ ¬(∃ f ∈ labWaits.faults, f.tok = 7 ∧ f.part = 1) ∧ labWaits.mem.ctrWaits = [] ∧ labWaits.opsWaiting 7 = [] := by
  unfold Mem.Sound; decide +kernel

theorem test_translation :
    (after (.tlbMiss 0 0 0x20) labWalk).mem.walks 0 = [labMiss0] ∧ (after (.tlbMiss 0 0 0x2F) labPending).mem = labPending.mem ∧
    (let t := after .walk labPending; (t.tlbHit 0 0 0x20, t.mem.walks 0)) = (some labPage, []) ∧
    (let t := after .walk labNoRoot; (t.faults.map (fun f => (f.va, f.reason, f.written)), field (t.reg (faultReg 0 16)) 63 32)) = ([(0x20, 4, true)], 1) ∧
    (let t := after (.invAll 0 0) (labInv []); (t.mem.tlb, t.mem.tlbs.get [] 0)) = ([], []) ∧
    -- pages 1 and on of space 0
    (let t := after (.invPages 0 0x4000010000000001) (labInv []); (t.mem.tlb, t.mem.tlbs.get [] 0, t.regRead (dieBlk 0 0x3000) / 2 ^ 63)) = ([labPage], [labPage], 0) ∧
    (after .invDone (labInv [(6, [labOp])])).sys = (labInv [(6, [labOp])]).sys ∧ (after .invDone (labInv [])).sys.inv = [] ∧
    (let t := after (.frespRetry 0 7) labWaits; (t.faults, ((t.warp 0).lane 0).wait, ((t.warp 0).lane 0).failed)) = ([], .none, []) ∧
    -- the retry drops the page that failed, which the repeated access then walks for
    (after (.frespRetry 0 7) { labWaits with mem := { ({} : Mem) with tlb := [labTlb, labPage] } }).mem.tlb = [labPage] ∧
    (let t := after (.frespFail 0 7) labWaits; (t.faults, ((t.warp 0).lane 0).wait, ((t.warp 0).lane 0).failed)) = ([], .none, [(0, 1)]) ∧
    (after (.frespRetry 1 7) labWaits).faults = labWaits.faults := by decide +kernel

/-! ## The scheduler -/

/-- Cluster 0 belongs to partition 0, launch 0 runs, and a record of two lanes stands in the queue; bad has a code address that is no
multiple of 4. -/
def labRec : QRec := { trec := { code := 0x20000, flags := 0x100, arg0 := 9 }, id := 3, lid := 0, addr := 0x30000, initial := false }
def badRec : QRec := { labRec with trec := { labRec.trec with code := 0x20002 } }
def labSched (qs : List QRec) : State :=
  { ready with
    regs := [(dieBlk 0 0x1000, 0x80), (dieBlk 0 0x1008, 0x80)], launches := [(0, Launch.dflt)]
    clusters := [(0, { Cluster.dflt with queue := qs })] }

/-- A core-bound group of one member, and the record of that member. -/
def boundRec : QRec := { labRec with trec := { labRec.trec with groups := [0x8003, 0, 0, 0] }, initial := true }
def labBound : State :=
  { labSched [boundRec] with launches := [(0, { Launch.dflt with groups := [(3, ⟨1, 1, 0⟩)] })] }

/-- The same group cluster-bound, which has no window, whose offset the machine would choose. -/
def labBound2 : State :=
  { labSched [boundRec] with launches := [(0, { Launch.dflt with groups := [(3, ⟨1, 2, 0⟩)] })] }

/-- Slot 0 has been stalled on the board longest, slot 5 ready longest; slots 1 and 6 shorter. -/
def labCastle : State :=
  { ready with warps := [(0, { labTask with slot := .boardStalled, since := 1, loadOut := true }), (1, { labTask with slot := .boardStalled, since := 2 }),
                         (5, { labTask with slot := .reserveReady, since := 3 }), (6, { labTask with slot := .reserveReady, since := 4 })] }

theorem longest {s : State} {st : SlotSt} {w : Nat} (hc : w / 16 = 0) (hs : (s.warp w).slot = st)
    (h : ∀ j < 16, (s.warp j).slot = st → (s.warp w).since < (s.warp j).since ∨ (s.warp w).since = (s.warp j).since ∧ w ≤ j) : s.Longest 0 st w :=
  ⟨hc, hs, fun j hj hst => h j (by omega) hst⟩

theorem test_meets_Scheduling_records :
    (labSched [labRec]).schedules 0 = true ∧ (labSched [labRec]).canTake labRec 0 = true ∧ (labSched [labRec]).openSlots 0 labRec = List.range 16 ∧
    ((labSched [labRec]).launch 0).recordBad labRec = false ∧ (labSched [badRec]).canTake badRec 0 = true ∧ ((labSched [badRec]).launch 0).recordBad badRec = true ∧
    -- a record behind one that no core can take
    (labSched [{ labRec with lid := 1 }, labRec]).popTo 0 { labRec with lid := 1 } = none := by decide +kernel

/-- No core of the cluster has fewer tasks than core 0, which has none. -/
theorem test_meets_Scheduling_fewest (b : Nat) :
    ((labSched [labRec]).residents 0).length < ((labSched [labRec]).residents b).length ∨
      ((labSched [labRec]).residents 0).length = ((labSched [labRec]).residents b).length ∧ 0 ≤ b := .inr ⟨rfl, Nat.zero_le b⟩

theorem test_meets_Scheduling_bound :
    labBound.runs 0 = true ∧ labBound.boundRecs 0 = [boundRec] ∧ labBound.launches.keys.Nodup ∧ boundRec.slot = none ∧ boundRec.trec.groupNos = [3] ∧
    (labBound.launch 0).group 3 = ⟨1, 1, 0⟩ ∧ boundRec.trec.carve = 0 ∧ (labBound.launch 0).recordBad boundRec = false ∧ (∀ p ∈ labBound.launches, p.2.plan = []) ∧
    (labBound.clustersOf 0).filter labBound.schedules = [0, 1] ∧ (labBound.core 0).carves = [] ∧ labBound.freeSlots 0 0 true = List.range 16 := by decide +kernel

theorem test_meets_Scheduling_castling :
    labCastle.cur.core = 0 ∧ (labCastle.core 0).castle = none ∧ labCastle.Longest 0 .boardStalled 0 ∧ labCastle.Longest 0 .reserveReady 5 ∧ labCastle.boardUsed 0 < 8 ∧
    (let t := after .castling labCastle; (t.core 0).castle = some { out := some 0, inn := 5 } ∧ (t.warp 5).slot = .castling ∧ (t.warp 0).slot = .castling) ∧
    (let t := after .boardEntry labCastle; (t.core 0).castle = some { out := none, inn := 5 } ∧ (t.warp 5).slot = .castling) ∧
    -- a load out beyond the threshold, and its return
    (labCastle.warp 0).loadOut = true ∧ (let s : State := labOf { labTask with loadOut := true }; (s.warp 0).slot = .board ∧ s.cur.idx ≠ 1 ∧ (s.warp 0).waitsLong = false) := by
  refine ⟨rfl, rfl, longest rfl (by decide +kernel) (by decide +kernel), longest rfl (by decide +kernel) (by decide +kernel), ?_⟩
  decide +kernel

/-- A group that has waited 64 cycles; the last cycle of a yield window; a request for 7 ways on an empty core, and one whose core has a
task; a thief and its victim, cluster 1. -/
def labFair : State := only (labOf { labTask with lanes := [(0, { labLane [] with waitCnt := 64, yieldLeft := 1 })] }) 1
def labCarve (w : SMap Warp) (rs : List Nat) : State :=
  { ready with warps := w, cores := [(0, { Core.dflt with carves := [{ ways := 7, residents := rs, trec := none }], spad := [(0, 5), (98303, 6)] })] }
def labThief (k : Steal) (asked : Option Nat) : State :=
  { labSched [] with clusters := [(0, { Cluster.dflt with steal := k, asked := asked }), (1, { Cluster.dflt with queue := (List.range 9).map (fun i => { labRec with id := i }) })] }

/-- Lanes 0 and 1 vacant, refills at the start of the task from word 0x10000: refill into o2; the queue holds two items, or none. -/
def labVacant (tail : Nat) : State :=
  labMem { labTask with
             trec := { code := 0x10000, itemq := 0x10400 }, startRefill := true
             lanes := [(0, { Lane.dflt with st := .vacant }), (1, { Lane.dflt with st := .vacant, l0 := 5 })] }
    { l2 := [(0, ⟨BitVec.ofNat 1024 ((encode (.refill 0 (.o 2))).headD 0).toNat, 0, 0, 0, 0⟩),
             (8, ⟨BitVec.ofNat 1024 (0x10480 + 4 * 2 ^ 64 + 3 * 2 ^ 128 + tail * 2 ^ 160), 0, 0, 0, 0⟩), (9, ⟨BitVec.ofNat 1024 (0x77 + 0x1234 * 2 ^ 96), 0, 0, 0, 0⟩)] } []

/-- What the refill of labVacant pops. -/
def popped (tail : Nat) : State × Pops := (labVacant tail).syncAll.popItems 0 2 []

/-- A task without a live or vacant lane, with a tile entry and a grant. -/
def labOver : State :=
  { labOf { labTask with lanes := [] } with
    cores := [(0, { Core.dflt with tiles := [(5, labEntry)], grants := [{ holder := .task 0, base := 256, size := 256 }] })] }

theorem test_meets_Scheduling :
    (∃ i ∈ labFair.execLanes, 64 ≤ ((labFair.warp 0).lane i).waitCnt) ∧ (labFair.warp 0).slot = .board ∧ (labFair.launch 0).noprog = false ∧
    (({ labFair with launches := [(0, { Launch.dflt with noprog := true })] } : State).launch 0).noprog = true ∧ ((labFair.warp 0).lane 0).yieldLeft = 1 ∧
    (labCarve [(0, labTask)] [0]).mayCarve 0 { ways := 7, residents := [0], trec := none } = false ∧ (labCarve [] []).leaseAt 0 = none ∧ (labCarve [] []).lentOut 0 = false ∧
    ((labCarve [] []).core 0).tiles = [] ∧ ((labCarve [] []).core 0).grants = [] ∧ ((labCarve [] []).core 0).wins = [] ∧
    (labThief .idle none).schedules 0 = true ∧ (labThief .idle none).idle 0 = true ∧ (labThief .idle none).victims 0 = [1] ∧
    ((labThief (.asking [] false) (some 1)).cluster 1).queue.Nodup ∧ (labThief .backoff none).cluster 0 = { Cluster.dflt with steal := .backoff } ∧
    (labVacant 5).mayIssue 0 = true ∧ ((labVacant 5).warp 0).live = 0 ∧ ((labVacant 5).warp 0).vacant = 3 ∧
    ((labVacant 5).fetch ((labVacant 5).strandMaster 0) [] 0x10000 true).1 = labVacant 5 ∧ (popped 5).2 = .done [0x1234, 0x77] ∧ (popped 3).2 = .done [] ∧
    (labOver.warp 0).live = 0 ∧ (labOver.warp 0).vacant = 0 ∧ (labOver.warp 0).ending = .running ∧ labOver.opsOf 0 = [] ∧ labOver.mem.syncReqs = [] ∧
    (labOver.warp 0).trec.join = 0 ∧ (labOver.warp 0).groupNos = [] ∧
    lab.Handled ∧ (lab.warp 0).converged = true ∧ (let s := only (labOf { labTask with converged := false }) 1; s.Handled ∧ s.execLanes = [0] ∧ bitAt (0x80000000 : Word) 31 = true) := by
  unfold State.Handled; decide +kernel

theorem test_scheduling :
    (let t := after .taskPop (labSched [labRec])
     ((t.cluster 0).queue, (t.warp 0).slot, (t.warp 0).spc, ((t.warp 0).lane 1).st, ((t.warp 0).lane 2).st, (t.warp 0).sreg 2)) = ([], .reserveReady, 0x20000, .live, .exited, 9) ∧
    (let t := after .taskPop (labSched [badRec]); ((t.launch 0).st, (t.launch 0).fault.map (fun f => (f.code, f.addr)))) = (.ended, some (0x06, 0x30000)) ∧
    (let t := after (.boundGroupPlacement 0 3) labBound2; ((t.cluster 0).queue, (t.warp 0).slot)) = ([], .reserveReady) ∧
    (let t := after .castling (after .castling labCastle); ((t.core 0).castle, (t.warp 5).slot, (t.warp 0).slot)) = (none, .board, .reserveWaiting) ∧
    ((after .castlingThreshold (labOf { labTask with loadOut := true })).warp 0).slot = .boardStalled ∧
    (after .fairnessForce labFair).agenda.length = 1 ∧ (((after .yieldWindowEnd labFair).warp 0).lane 0).yieldLeft = 0 ∧
    (let t := after .carveChange (labCarve [] []); ((t.core 0).ways, (t.core 0).carves, cellGet (t.core 0).spad 0, cellGet (t.core 0).spad 98303)) = (7, [], 5, 6) ∧
    ((after .carveChange (labCarve [(0, labTask)] [0])).core 0).ways = 3 ∧
    (let t := after .stealRequest (labThief .idle none); ((t.cluster 0).asked, (t.cluster 0).steal)) = (some 1, .asking [] false) ∧
    (let t := after .stealAnswer (labThief (.asking [] false) (some 1)); ((t.cluster 0).queue.map (fun q => q.id), (t.cluster 1).queue.length)) = ([1, 2, 3, 4, 5, 6, 7, 8], 1) ∧
    ((after .stealBackoff (labThief .backoff none)).cluster 0).steal = .idle := by decide +kernel

theorem test_implicit_refill_and_end :
    (let t := after .implicitRefill (labVacant 5); let l := (t.warp 0).lane 1
     ((t.warp 0).live, l.pc, l.l0, l.o.get 0 2, ((t.warp 0).lane 0).o.get 0 2)) = (3, 0x10004, 0, 0x77, 0x1234) ∧
    ((after .implicitRefill (labVacant 3)).warp 0).ending = .ending ∧
    (let t := after .taskEnd labOver; ((t.warp 0).slot, (t.core 0).tiles, (t.core 0).grants)) = (.free, [], []) ∧
    (laneAfter (.unassignedOpcode 0xFFFFFFFF) lab 1).trapCode = 1 ∧ (laneAfter (.unassignedOpcode 0x80000000) (only (labOf { labTask with converged := false }) 1) 0).trapCode = 2 := by
  decide +kernel

/-! ## Launches -/

/-- Queue 0 of die 0 belongs to partition 0, which has cluster 0. Its descriptor at 0x10400 names the entries at 0x10500, HEAD 0 and TAIL 1; the
entry there has one record, at 0x10600, of a task of two lanes. Launch vector 5, raised at the end. -/
def labAdmit : State :=
  let line (n : Nat) (v : Nat) : Nat × L2Line := (n, ⟨BitVec.ofNat 1024 v, 0, 0, 0, 0⟩)
  { ready with
    regs := [(dieBlk 0 0x1000, 0x80), (dieBlk 0 0x2000, 0x8000000000000000), (dieBlk 0 0x2008, 0x10400), (pkgBlk 0x10000, 0xC000000000000000)]
    mem := { ({} : Mem) with
      tlb := [labTlb]
      l2 := [line 8 (0x10500 + 4 * 2 ^ 64 + 1 * 2 ^ 160), line 10 (0x10600 * 2 ^ 64 + 1 * 2 ^ 128 + 0x40 * 2 ^ 160 + 5 * 2 ^ 352), line 11 0,
             line 12 (0x20000 + 0x100 * 2 ^ 352)] } }

/-- The launch of that entry, running with no task left; and rolled back, its pages restored. -/
def labLaunch : Launch := { Launch.dflt with entry := 0x10500, irq := true, vec := 5 }
def labEnd : State := { labAdmit with launches := [(0, labLaunch)] }
def labReplay : State := { labAdmit with launches := [(0, { labLaunch with st := .rolledBack })] }

/-- The launch to be rolled back, with a snapshot of page 1 in the frame at 0x30000; and running, the frames of its partition from 0x30000 on. -/
def labRoll : State := { labEnd with launches := [(0, { labLaunch with st := .rolledBack, roll := true, snaps := [(1, 0x30000, 0)] })] }
def labSnap : State := { labEnd with regs := labEnd.regs ++ [(pkgBlk 0x90000, 0x30000), (pkgBlk 0x90008, 1)] }

/-- The same while an access of the launch is still on its way to a channel. -/
def labUnsettled : State :=
  { labRoll with mem := { labRoll.mem with chans := [(0, { reqs := [{ row := 1, bank := 2, cls := 1, slackNs := 100, id := 3, write := false, arrived := none, aged := false, lid := some 0 }] })] } }

/-- The row of 0x407 stands promoted in the first slot of its bank, which has not been written. -/
def slot407 : Nat × SlotEnt := let p := placeOf 0x407; (1024 * (p.stack * 4096 + p.bankIx), { dirty := false, pin := false, seq := 0, hrow := p.row })
def labCleanSlot : State := { labEnd with mem := { labEnd.mem with slots := [slot407] } }

/-- The launch with a task in slot 0. -/
def labKill : State := { labEnd with warps := [(0, labTask)] }

theorem test_meets_Launches_admission :
    labAdmit.sys.off 0 = false ∧ labAdmit.binding 0 0 = some (0, 0) ∧ (∀ j < 64, j ≠ 0 → labAdmit.binding 0 j = none) ∧
    labAdmit.cmdQueue 0 = CmdQueue.dflt ∧
    (match labAdmit.lookHead 0 0 0 0 with
     | (t, .accept desc head entry l [r] _) =>
       (match t.cpWrites (queueMaster 0 0 0 0) [] [(entry + 40, bytesOf 4 l.lid), (desc + 16, bytesOf 4 ((head + 1) % 2 ^ 32))] with
        | (u, none) => decide (l.st = .running ∧ l.namesBound r.trec = false ∧ u.clustersOf l.part = [0] ∧ (u.cluster 0).queue.length < 256)
        | _ => false)
     | _ => false) = true ∧
    -- the doorbell of the queue's partition writes TAIL at 0x10414
    (let s1 := labAdmit.updQueue 0 (fun c => { c with bell := some 2, told := true }); s1.Reach (queueMaster 0 0 0 0) 0x10414 .write 0x414) ∧
    labAdmit.queueDesc 0 0 + 20 = 0x10414 ∧ labAdmit.frozenFns.contains 1 = false ∧ labAdmit.mem.Plain ∧ homeOf 0x414 = 0 ∧ canonPa 0x414 % 8 = 4 ∧
    (labAdmit.mem.line? 0 (canonPa 0x414 / 128)).isSome = true := by
  unfold State.Reach Mem.Plain Mem.Sound; decide +kernel

theorem test_meets_Launches :
    labEnd.mayEnd 0 = true ∧ labEnd.sys.checks = [] ∧
    (let s := { labEnd with sys := { labEnd.sys with checks := List.replicate 8 (0, [5]) } }
     8 ≤ (s.sys.checks.filter (fun x => decide (x.1 = (s.launch 0).server))).length ∧ ((s.launch 0).server, [0]) ∉ s.sys.checks) ∧
    (match (({ labEnd with sys := { labEnd.sys with checks := labEnd.sys.checks.erase (0, [0]) } } : State).settleAll.updMem (fun m => m.publishAll 0)).cpWrites (queueMaster 0 0 0 0) []
        [(0x10500 + 192, labLaunch.faultRec.bytes 0 false), (0x10500, bytesOf 8 (2 ^ 63 + labLaunch.faultRec.code))] with
     | (u, none) => decide u.launches.keys.Nodup
     | _ => false) = true ∧
    labKill.mayEnd 0 = false ∧ (labReplay.launch 0).st = .rolledBack ∧ (labReplay.launch 0).roll = false ∧ (labReplay.launch 0).tok = none ∧
    (match ({ labReplay with launches := labReplay.launches.del 0 } : State).judgeEntry (queueMaster 0 0 0 0) [] 0 0 0x10500 0 with
     | (u, .inl (.accept _, n, [r])) =>
       decide (n.lid = 0 ∧ n.st = .running ∧ n.namesBound r.trec = false ∧ u.clustersOf n.part = [0] ∧ (u.cluster 0).queue.length < 256)
     | _ => false) = true ∧
    labKill.hole 0x407 = false ∧ quarter 0x407 < 2 ∧ (labKill.launch 0).st = .running ∧
    labRoll.mem.slots = [] ∧ Memory.wf labRoll.mem.bytes ∧ 0x30000 / 65536 ≠ 1 ∧ (labRoll.launch 0).roll = true ∧ (labRoll.launch 0).snaps = [(1, 0x30000, 0)] ∧
    (labRoll.launch 0).replays < 3 ∧ (labRoll.launch 0).nrepl = false ∧ labRoll.settled 0 = true ∧ labUnsettled.settled 0 = false ∧ labRoll.mem.Sound ∧ 0x30000 % 65536 = 0 ∧ labRoll.mem.syncReqs = [] ∧
    labSnap.freeFrame 0 = some 0x30000 ∧ 1 ∉ (labSnap.launch 0).wrote ∧ labKill.killDone = true ∧ field (0 : Word64) 62 61 = 0 ∧ bitAt (0 : Word64) 60 = false ∧
    field (0x2000000000000000 : Word64) 62 61 = 1 ∧ field (0x2000000000000000 : Word64) 35 32 = 0 ∧ (after (.killLaunch 0) labKill).killDone = false := by
  unfold Mem.Sound; decide +kernel

theorem test_meets_Launches_slot :
    labCleanSlot.mem.slots = [(slot407.1, slot407.2)] ∧ slot407.2.dirty = false ∧ (labCleanSlot.launch 0).st = .running ∧
    slotOf? labCleanSlot.mem.slots (placeOf 0x407).stack (placeOf 0x407).bankIx (placeOf 0x407).row = some (slot407.1, slot407.2) ∧
    labCleanSlot.mem.standsAt 0x407 / 32 ≠ 0x407 / 32 ∧ 0x407 / 32 ∉ labCleanSlot.mem.bad ∧
    (let s := { labReplay with cmdQueues := [(0, { CmdQueue.dflt with frozen := true })] }; (s.cmdQueue (64 * (s.launch 0).server + (s.launch 0).q)).frozen = true) ∧
    early.boot.stage ≠ 8 := by decide +kernel

theorem test_clean_slot :
    (let t := after (.errorConsumed 0 0x407) labCleanSlot; (t.mem.slots, (t.launch 0).st, t.mem.bad.length)) = ([], .running, 1) ∧
    (let t := after (.rollback 0) labUnsettled; ((t.launch 0).st, t.sys.checks)) = (.rolledBack, [(0, [0])]) ∧
    (after (.drainConfirmed 0) { labEnd with sys := { labEnd.sys with checks := List.replicate 8 (0, [5]) } }).launches.length = 1 := by decide +kernel

theorem test_launches :
    (let t := after .launchAdmission labAdmit
     ((t.cluster 0).queue.map (fun q => (q.id, q.lid, q.trec.code)), t.launches.map (fun p => (p.1, p.2.nextId)), numAt (t.mem.lookN 0 0x400 32) 16 4)) =
      ([(0, 0, 0x20000)], [(0, 1)], 1) ∧
    (let t := after (.queueDoorbell 1 0 0 7) labAdmit; numAt (t.mem.lookN 0 0x400 32) 20 4) = 7 ∧ (after (.queueDoorbell 2 0 0 7) labAdmit).mem = labAdmit.mem ∧
    (let t := after (.drainConfirmed 0) labEnd; (t.launches, t.outs, numAt (t.mem.lookN 0 0x500 8) 0 8)) = ([], [.vector 1 5], 2 ^ 63) ∧
    (let t := after (.replayReadmission 0) labReplay; ((t.launch 0).st, (t.launch 0).replays, (t.cluster 0).queue.length)) = (.running, 1, 1) ∧
    (let t := after (.errorConsumed 0 0x407) labKill; ((t.warp 0).slot, (t.launch 0).st, t.mem.bad, field (t.reg (dieBlk 0 0x4000)) 55 40)) = (.free, .rolledBack, [0x400 / 32], 1) ∧
    (let t := after (.killLaunch 0) labKill; ((t.warp 0).slot, (t.launch 0).st)) = (.free, .ended) ∧
    (let t := after (.killPartition 0x2000000000000000) labKill; ((t.warp 0).slot, (t.launch 0).st)) = (.free, .ended) ∧
    bitAt (dstat (after (.killLaunch 0) (after (.killLaunch 0) labKill))) 63 = true := by decide +kernel

/-! ## Pre-emption and leases -/

/-- Launch 0 is to be halted; its lane 0 waits on a translation fault, and a request of its cluster is held by metering. -/
def labHalt : State :=
  { labWaits with
    launches := [(0, labLaunch)], sys := { State.reset.sys with preempt := some ([0], false) }
    mem := { ({} : Mem) with arbs := [(0, { held := [{ labArbReq with clu := 0 }] })] } }

/-- It is halted, and its context is to be written to 0x40000 where there is room for n units of 4 KiB. -/
def labSave (n : Word64) : State :=
  { labOf { labTask with s := [(1, 7)] } with
    launches := [(0, { labLaunch with st := .halted })], sys := { State.reset.sys with preempt := some ([0], true) }
    regs := [(pkgBlk 0x80008, 0x40000), (pkgBlk 0x80010, n)] }

/-- The same while an atomic of the launch is still to be performed. -/
def labUndrained : State :=
  let s := labSave 16
  { s with mem := { s.mem with syncReqs := [{ warp := 0, lane := 0, task := 0, die := 0, addr := 0x400, op := .add32, b := 5, c := 0, m := s.strandMaster 0 }] } }

/-- A saved launch whose context, of one task of slot 37, stands at 0x40000 and is to be placed in partition 1, which has cluster 1. -/
def labContext : Context :=
  { addr := 0x40000, bytes := 0, stamp := 0, lid := 0, tasks := [{ key := 37, warp := labTask }]
    cores := [{ core := 2, ways := 0, tiles := [], grants := [], wins := [], spad := [], acc := [], q0 := [] }]
    leases := [], queued := [], heldOn := [], ctrWaits := [] }
def labRestore : State :=
  { ready with
    regs := [(dieBlk 0 0x1008, 0x81)], launches := [(0, { labLaunch with st := .saved })], contexts := [labContext]
    sys := { State.reset.sys with restore := some (0x40000, 1) } }

/-- The lease of group 3 on core 0, in a state, with operations in its queue. -/
def labLeases (st : LeaseSt) (q : List EngOp) : State :=
  { labGroup [] with clusters := [(0, { Cluster.dflt with leases := [{ labLease with st := st, q0 := q }] })], boot := { ({} : Boot) with stage := 8 } }

theorem test_meets_Preemption_halt :
    labHalt.sys.preempt = some ([0], false) ∧ labHalt.launch? 0 = some labLaunch ∧ labLaunch.st = .running ∧ labHalt.mem.syncReqs = [] ∧
    (∀ w, (labHalt.warp w).lid = 0 → (labHalt.core (w / 16)).castle = none ∧ ∀ q, (labHalt.warp w).queues.get [] q = []) ∧
    (∀ c, ∀ o ∈ (labHalt.core c).q0, o.lid ≠ 0) ∧ (∀ g, ∀ l ∈ (labHalt.cluster g).leases, ∀ o ∈ l.q0, o.lid ≠ 0) := by
  refine ⟨rfl, rfl, rfl, rfl, fun w _ => ⟨rfl, fun q => ?_⟩, fun c o h => ?_, fun g l h => ?_⟩
  · have h := warp_all labHalt (fun v => v.queues.isEmpty) (by decide +kernel) (by decide +kernel) w
    rw [List.isEmpty_iff.mp h]
    rfl
  · exact absurd h (List.not_mem_nil)
  · exact absurd h (List.not_mem_nil)

theorem test_meets_Preemption :
    -- nothing is named; one launch; those of a partition; those left halted
    field (0 : Word64) 61 60 = 0 ∧ field (0x1000000000000000 : Word64) 61 60 = 1 ∧ 2 ≤ field (0x2000000000000000 : Word64) 61 60 ∧ labKill.sys.preempt = none ∧
    labKill.launches.keys.Nodup ∧ labHalt.sys.preempt ≠ none ∧
    (labSave 16).launch? 0 = some { labLaunch with st := .halted } ∧ (labSave 16).sys.short = [] ∧ (labSave 16).mem.noneOf 0 = true ∧ labUndrained.mem.noneOf 0 = false ∧ (labSave 16).sys.checks = [] ∧
    ((labSave 16).warp 0).slot ≠ .free ∧ ((labSave 16).warp 0).lid = 0 ∧
    ((labSave 16).contextOf 0 0x40000).bytes ≤ 4096 * field ((labSave 16).reg (pkgBlk 0x80010)) 31 0 ∧
    4096 * field ((labSave 0).reg (pkgBlk 0x80010)) 31 0 < ((labSave 0).contextOf 0 0x40000).bytes ∧
    labRestore.sys.restore = some (0x40000, 1) ∧ labKill.sys.restore = none ∧ (labRestore.launch 0).st = .saved ∧ labRestore.readContext labContext = some labContext ∧ labContext.areqs = [] ∧
    (labRestore.launch 0).cores = false ∧ labTask.trec.groupNos = [] ∧ labTask.queues = [] ∧ labTask.swait = .none ∧ labRestore.clustersOf 1 = [1] ∧
    labRestore.schedules 1 = true ∧ (labRestore.core 16).carves = [] ∧ labRestore.freeSlots 16 0 true = (List.range 16).map (fun k => 256 + k) ∧
    (∀ x ∈ ({ labRestore with contexts := [] } : State).contexts, x.addr ≠ 0x40000) := by
  decide +kernel

theorem test_meets_Preemption_leases :
    (∀ y, ((∃ p ∈ (labLeases .held [labOp]).clusters, y ∈ p.2.leases) ∧ y.st ≠ .breaking ∧ (0 ∈ y.cores ∨ y.lent = some (0 / 16))) ↔
      y = { labLease with q0 := [labOp] }) ∧
    (∀ y, ¬((∃ p ∈ (labLeases .breaking []).clusters, y ∈ p.2.leases) ∧ y.st ≠ .breaking ∧ (0 ∈ y.cores ∨ y.lent = some (0 / 16)))) ∧
    (labLeases .held [labOp]).launch? 0 = some ((labLeases .held [labOp]).launch 0) ∧ (labLeases .held []).sys.lrev.find? 0 = none ∧
    (after (.leaserev 0 0) (labLeases .held [labOp])).sys.lrev.find? 0 ≠ none ∧
    ((labLeases .joining []).cluster 0).leases[0]? = some { labLease with st := .joining } ∧ (labLeases .joining []).cur.clu = 0 ∧ (labLeases .joining []).cur.idx = 0 ∧
    (∀ c ∈ labLease.cores, ((labLeases .joining []).core c).q0 = []) ∧
    -- unfreezing core 0, whose launch is killed
    (∀ j, j ∈ labKill.residents 0 ↔ j = 0) ∧ (labKill.core 0).q0 = [] ∧ labKill.leaseAt 0 = none ∧ field (0x14001 : Word64) 17 16 = 1 ∧ field (0x14001 : Word64) 15 0 / 4096 = 4 := by
  refine ⟨fun y => ⟨?_, ?_⟩, ?_, ?_⟩
  · rintro ⟨⟨p, hp, hy⟩, -⟩
    obtain rfl := List.mem_singleton.mp hp
    exact List.mem_singleton.mp hy
  · rintro rfl
    exact ⟨⟨_, List.mem_singleton.mpr rfl, List.mem_singleton.mpr rfl⟩, by decide, by decide⟩
  · rintro y ⟨⟨p, hp, hy⟩, hb, -⟩
    obtain rfl := List.mem_singleton.mp hp
    obtain rfl := List.mem_singleton.mp hy
    exact hb rfl
  · have h : labKill.residents 0 = [0] := by decide +kernel
    rw [h]
    and_intros <;> first | decide +kernel | exact fun j => List.mem_singleton

theorem test_preemption :
    (after (.preemptLaunch 0) labKill).sys.preempt = some ([0], false) ∧ (after (.preemptPartition 0x1000000300000000) labKill).sys.preempt = none ∧
    bitAt (dstat (after (.preemptLaunch 0) labHalt)) 63 = true ∧
    (let t := after .preemptHalt labHalt
     (t.sys.preempt, (t.launch 0).st, ((t.warp 0).lane 0).wait, t.faults.length, (t.mem.arbs.get Arb.dflt 0).held.length)) = (some ([0], true), .halted, .none, 0, 0) ∧
    (after .contextSave labUndrained).sys = { labUndrained.sys with checks := [(0, [0])] } ∧ (labHalt.waitedElse 0 7, (labHalt.launch 0).lid) = (false, 0) ∧
    after (.restore 0) early = early ∧ after (.leaserev 0 0) early = early := by decide +kernel

theorem test_contexts :
    (let t := after .contextSave (labSave 16); (t.contexts.length, t.sys.preempt, (t.launch 0).st, (t.warp 0).slot)) = (1, none, .saved, .free) ∧
    (let t := after .contextSave (labSave 0); (t.contexts.length, t.sys.shortFlag, t.sys.short, (t.warp 0).slot)) = (0, true, [0], .board) ∧
    (let t := after .restorePlacement labRestore; (t.sys.restore, t.sys.restoreResult, (t.launch 0).st, (t.warp 256).part, (t.warp 256).spc, t.contexts.length)) =
      (none, 0, .running, 1, 0x10000, 0) ∧
    (after .restorePlacement { labRestore with contexts := [] }).sys.restoreResult = 2 := by decide +kernel

theorem test_leases :
    (let t := after (.leaserev 0 0) (labLeases .held [labOp])
     (((t.launch 0).gstate 3).revoked, ((t.cluster 0).leases.map (fun l => (l.st, l.q0.map (fun o => (o.st, o.code))))))) = (true, [(.revoked, [(.performed, 0x0C)])]) ∧
    (after (.leaserev 0 0) (labLeases .breaking [])).clusters = (labLeases .breaking []).clusters ∧
    ((after .leaseJoin (labLeases .joining [])).cluster 0).leases.map (fun l => l.st) = [.held] ∧ ((after .leaseRelease (labLeases .releasing [])).cluster 0).leases = [] ∧
    ((after .leaseRelease (labLeases .releasing [labOp])).cluster 0).leases.length = 1 ∧ ((after .leaseRevokedFree (labLeases .revoked [])).cluster 0).leases = [] ∧
    (let t := after (.unfreezeKill 0) { labKill with cores := [(0, { Core.dflt with frozen := true })] }; ((t.core 0).frozen, (t.launch 0).st)) = (false, .ended) ∧
    (after (.unfreezeReset 0x14003) served).frozenFns = [] := by decide +kernel

/-! ## The engines -/

/-- A parameter block of n bytes with values at offsets. -/
def block (n : Nat) (fs : List (Nat × Nat)) : List Byte := bytesOf n (fs.foldl (fun a f => a + f.2 * 2 ^ (8 * f.1)) 0)

/-- The identity permutation of five dimensions in CTRL. -/
def perm5 : Nat := 1 * 2 ^ 12 + 2 * 2 ^ 15 + 3 * 2 ^ 18 + 4 * 2 ^ 21

/-- A copy of n × 1 elements of a format, from or to 0x10400, with conversion or element options in more. -/
def copyBlock (dir fmt n obase more : Nat) : List Byte :=
  block 192 [(8, 0x10400), (16, obase), (24, dir + 4 * fmt + 64 + perm5 + more), (32, n), (36, 1), (40, 1), (44, 1), (48, 1), (72, n), (76, 1), (80, 1), (84, 1), (88, 1),
    (96, 4), (104, 8)]

def copyOp (k : OpKind) (st : OpSt) (pb : List Byte) : EngOp :=
  { kind := k, warp := 0, lid := 0, taskId := 0, num := 0, q := 2, block := 0x10440, st := st, pb := pb, dests := [(0, 0)] }

/-- One operation at the head of q2, or q5, of slot 0, whose engine acts next; t5 is ready, t6 expects one unit; line 8 holds the bytes 1 to 8
at its start, and the block of a copy that no rule allows (an extent of 0) at 0x10440. -/
def labEng (q : Nat) (o : EngOp) (ts : SMap Tile) : State :=
  { labMem { labTask with queues := [(q, [o])] } { l2 := [(8, ⟨labLine, 0, 0, 0, 0⟩), (9, ⟨0, 0, 0, 0, 0⟩)] } [] with
    cores := [(0, { Core.dflt with tiles := ts, spad := [(0, 0xA), (1, 0xB)], grants := [{ holder := .task 0, base := 256, size := 256 }] })]
    cur := { warp := 0, q := q } }

def fillEntry : Tile := { labEntry with st := .filling, base := 4, size := 1, expect := 1, tfmt := 0 }
def readyEntry : Tile := { labEntry with readers := 1, st := .draining }
def loadOp : EngOp := copyOp .tcopy .running (copyBlock 0 0 2 6 0)
def labLoad : State := labEng 2 loadOp [(6, fillEntry)]

/-- An access of a master at va lands at pa of the page that the machine holds, in a line of the die's L2. -/
def lands (s : State) (m : Master) (va pa : Nat) (k : AccKind) : Bool :=
  decide (va < 2 ^ 56 ∧ s.tlbFor m va = some labTlb ∧ va % 2 ^ 16 = pa ∧ s.paAllowed m.part pa k = true ∧ quarter pa < 2 ∧ s.mem.bad = [] ∧ s.mem.badHalf = [] ∧ s.mem.upsets = [] ∧
    m.lid = some 0 ∧ canonPa pa / 65536 = 0 ∧ (s.mem.line? m.die (canonPa pa / 128)).isSome = true)

/-- It then lies within, as the statements ask. -/
theorem within_of_lands {s : State} {m : Master} {va pa : Nat} {k : AccKind} {L : Launch} (hl : s.launches = [(0, L)]) (hw : 0 ∈ L.wrote)
    (h : lands s m va pa k = true) : s.Within m va k pa := by
  unfold lands at h
  obtain ⟨hv, ht, hpa, ha, hq, hb, hh, hu, hm, hc, hline⟩ := of_decide_eq_true h
  refine State.within_alone hv ht ?_ (by rw [← hpa]; exact Nat.zero_add _) ha hq ⟨hb, hh, hu⟩ hl hm (hc.symm ▸ hw) hline
  cases k <;> rfl

/-- Each unit of n bytes lands. -/
def allLand (s : State) (m : Master) (va n pa : Nat) (k : AccKind) : Bool := (units n).all (fun u => lands s m (va + u.1) (pa + u.1) k)

/-- An operation in progress that nothing hinders, and the turn of its copy engine. -/
def going (s : State) (o : EngOp) : Bool :=
  decide (s.headOf (QRef.own s.cur.warp s.cur.q) = some o ∧ o.st = .running ∧ o.tok = none ∧ s.runs o.lid = true ∧ s.glitch = none ∧ o.pass = 0 ∧ o.seq = 0 ∧ o.data = [] ∧
    s.mem.bad = [] ∧ s.mem.badHalf = [] ∧ s.mem.upsets = [] ∧ s.mem.granules = [] ∧ s.mem.strait = [] ∧ s.mem.slots = [] ∧ s.mem.badSpad = [] ∧ (s.cluster (o.warp / 256)).gathFrozen = false ∧
    (s.cluster (s.copyClu o)).copyFrozen = false ∧ (s.copyTurn (s.copyClu o) (QRef.own s.cur.warp s.cur.q) = true ∨ s.cur.q = 5))

def recOp : EngOp := copyOp .tcopy .running (copyBlock 0 7 1 6 0)
def quantOp : EngOp := copyOp .tquant .running (copyBlock 0 0 2 6 0)
def storeOp : EngOp := { copyOp .tcopy .running (copyBlock 1 5 1 5 0) with reads := [(0, 5)] }
def moveOp : EngOp := copyOp .tcopy .running (copyBlock 2 5 1 0x10480 0)

/-- A gather of two bytes by the u32 indices 0x04030201 and 0x08070605 at 0x10400, of which only the first is below the bound; its element, and
every other, stands at 0x10480. A scatter of one byte by the first index, below its bound and not. -/
def gathBlock (count bound tile : Nat) : List Byte := block 64 [(8, 0x10400), (16, 0x10480), (24, tile), (32, 8), (36, count), (44, bound)]
def gathOp : EngOp := { copyOp .gath .running (gathBlock 2 0x05000000 6) with q := 5 }
def scatOp (bound : Nat) : EngOp := { copyOp .scat .running (gathBlock 1 bound 5) with q := 5, reads := [(0, 5)] }

/-- The last 16 bytes of a fill of t6; with a second destination that has not received them. -/
def fillOp (ds : List (Nat × Nat)) : EngOp := { loadOp with pass := 1, data := List.replicate 16 7, dests := ds }
def labFill (ds : List (Nat × Nat)) : State := labEng 2 (fillOp ds) [(6, { fillEntry with reserved := 16 })]
def queuedOp (k : OpKind) (q : Nat) : EngOp := { copyOp k .queued [] with q := q }

theorem test_meets_CopiesAndGathers :
    going labLoad loadOp = true ∧ loadOp.dir = 0 ∧ loadOp.poison = [] ∧ loadOp.total = 2 ∧
    (List.range 2).all (fun k => allLand labLoad (labLoad.copyMaster loadOp) (loadOp.maddr k) 4 (0x400 + 4 * k) .read) = true ∧
    (let s := labEng 2 recOp [(6, fillEntry)]; going s recOp = true ∧ recOp.fmt = 7 ∧ recOp.cvt = 0 ∧ recOp.total = 1 ∧ allLand s (s.copyMaster recOp) (recOp.maddr 0) 144 0x400 .read = true ∧
      padBad ((units 144).flatMap (fun u => s.mem.lookN 0 (canonPa (0x400 + u.1)) u.2)) = false) ∧
    (∀ c < 5, ({ loadOp with pb := copyBlock 0 0 2 6 (c * 2 ^ 24) }).cvt = c) ∧ loadOp.fmt < 7 ∧
    loadOp.dims = 2 ∧ loadOp.perm 0 = 0 ∧ loadOp.perm 1 = 1 ∧ loadOp.dext 0 ≠ 0 ∧ 1 < loadOp.dext 0 * loadOp.dext 1 ∧
    (let s := labEng 2 quantOp [(6, fillEntry)]; going s quantOp = true ∧ quantOp.fmt = 0 ∧ quantOp.total = 2 ∧
      (List.range 2).all (fun k => allLand s (s.copyMaster quantOp) (quantOp.maddr k) 4 (0x400 + 4 * k) .read) = true) := by
  decide +kernel

theorem test_meets_CopiesAndGathers_writes :
    (let s := labEng 2 storeOp [(5, readyEntry)]; going s storeOp = true ∧ storeOp.dir = 1 ∧ storeOp.srcAcc = false ∧ storeOp.fmt = 5 ∧ storeOp.total = 1 ∧
      s.tile? 0 5 = some readyEntry ∧ (storeOp.convert 5).1.length = 1 ∧ allLand s (s.copyMaster storeOp) (storeOp.maddr 0) 1 0x400 .write = true ∧ homeOf (canonPa 0x400) = 0) ∧
    (let s := labEng 2 moveOp []; going s moveOp = true ∧ moveOp.dir = 2 ∧ moveOp.permuting = false ∧ moveOp.total = 1 ∧
      allLand s (s.copyMaster moveOp) (moveOp.maddr 0) 1 0x400 .read = true ∧ allLand s (s.copyMaster moveOp) (moveOp.oaddr 0) 1 0x480 .write = true) ∧
    (let s := labEng 5 gathOp [(6, fillEntry)]; going s gathOp = true ∧ gathOp.row = 0 ∧ gathOp.gWidth = 4 ∧ gathOp.gCount = 2 ∧
      (List.range 2).all (fun i => lands s (s.gatherMaster gathOp) (gathOp.gIdx + 4 * i) (0x400 + 4 * i) .read) = true ∧ 0x04030201 < gathOp.gBound ∧ gathOp.gBound ≤ 0x08070605 ∧
      lands s (s.gatherMaster gathOp) (gathOp.elemAddr 0x04030201) 0x480 .read = true) ∧
    (∀ b ∈ [0x04030201, 0x04030202], let o := scatOp b; let s := labEng 5 o [(5, readyEntry)]
      going s o = true ∧ o.gCount = 1 ∧ o.gSize = 1 ∧ s.tile? 0 o.gTile = some readyEntry ∧ o.gBound = b ∧ lands s (s.gatherMaster o) o.gIdx 0x400 .read = true ∧
      lands s (s.gatherMaster o) (o.elemAddr 0x04030201) 0x480 .write = true) ∧
    (∀ ds ∈ [[(0, 8)], [(0, 8), (1, 0)]], let s := labFill ds
      s.headOf (.own 0 2) = some (fillOp ds) ∧ (fillOp ds).fillTile = some 6 ∧ (fillOp ds).dests[0]? = some (0, 8) ∧ (s.tile? 0 6).isSome = true ∧ cellsWf (s.core 0).spad = true) ∧
    (∀ k ∈ [OpKind.tcopy, .tquant], let o := queuedOp k 2; let s := labEng 2 o []
      s.headOf (.own 0 2) = some o ∧ s.mayStart o = true ∧ allLand s { s.copyMaster o with tid := 0 } o.block.toNat 192 0x440 .read = true ∧
      (let p := { o with pb := s.mem.lookN 0 0x440 192 }; p.dir % 3 = 0 ∧ s.copyWaits p = false ∧ s.copyCode p = 4)) ∧
    (∀ k ∈ [OpKind.gath, .scat], let o := queuedOp k 5; let s := labEng 5 o []
      s.headOf (.own 0 5) = some o ∧ s.mayStart o = true ∧ allLand s { s.gatherMaster o with cls := 1, slack := (s.launch 0).slack } o.block.toNat 64 0x440 .read = true ∧
      (let p := { o with pb := s.mem.lookN 0 0x440 64 }; s.gatherWaits p = false ∧ s.gatherCode p = 4)) := by
  decide +kernel

/-- The head of a queue of slot 0 is in a state, with a code, INFO and data. -/
def ends (s : State) (q : Nat) (st : OpSt) (code info : Nat) (data : List Byte) : Bool :=
  (s.headOf (.own 0 q)).any (fun o => decide (o.st = st ∧ o.code = code ∧ o.info = info ∧ o.data = data))

theorem test_copies :
    ends (after .tcopyLoad labLoad) 2 .running 0 0 [1, 2, 3, 4, 5, 6, 7, 8] = true ∧
    (let t := after .tcopyStore (labEng 2 storeOp [(5, readyEntry)]); ends t 2 .performed 0 0 [] = true ∧ t.mem.look 0 0x400 = 0xA ∧ (t.tile? 0 5).map (fun e => e.st) = some .ready) ∧
    (let t := after .tcopyMove (labEng 2 moveOp []); ends t 2 .performed 0 0 [] = true ∧ t.mem.look 0 0x480 = 1) ∧
    ends (after .tcopyLoad (labEng 2 (queuedOp .tcopy 2) [])) 2 .performed 4 0 [] = true := by decide +kernel

theorem test_gathers :
    ends (after .gatherOp (labEng 5 gathOp [(6, fillEntry)])) 5 .running 0 1 [0, 0] = true ∧
    (let t := after .scatterOp (labEng 5 (scatOp 0x04030202) [(5, readyEntry)]); ends t 5 .performed 0 0 [] = true ∧ t.mem.look 0 0x480 = 0xA ∧ t.mem.stackGet 0x480 = 0xA) ∧
    ends (after .scatterOp (labEng 5 (scatOp 0x04030201) [(5, readyEntry)])) 5 .performed 0x0E 0 [] = true ∧
    (let t := after (.fillLanding 8) (labFill [(0, 8)])
     (t.headOf (.own 0 2)).map (fun o => o.st) = some .performed ∧ (t.tile? 0 6).map (fun e => (e.landed, e.reserved)) = some (8, 8) ∧
     cellGet (t.core 0).spad 72 = 7 ∧ cellGet (t.core 0).spad 71 = 0) := by decide +kernel

/-- Bytes of a held operation land too; none does while the copy engine is frozen. -/
theorem test_meets_CopiesAndGathers_landing :
    (labFill [(0, 8)]).opStopped (fillOp [(0, 8)]) = false ∧ ({ fillOp [(0, 8)] with st := .held false } : EngOp).isHeld = true ∧
    (let s := { labFill [(0, 8)] with clusters := [(0, { Cluster.dflt with copyFrozen := true })] }
     s.opStopped (fillOp [(0, 8)]) = true ∧ after (.fillLanding 8) s = s) ∧ (fillOp [(0, 8)]).dstFmt ≠ 7 := by decide +kernel

/-- The INT8 product of labQueues in q0 of core 0, with its tiles ready or draining. -/
def mmaOp (st : OpSt) : EngOp :=
  { kind := .mma, warp := 0, lid := 0, taskId := 0, num := 0, block := 0x10400, pb := bytesOf 64 labBlock.toNat, st := st, cores := [0]
    reads := if st = .queued then [] else [(0, 3), (0, 4)] }

def labMma (st : OpSt) (e : TileSt) : State :=
  let s := labQueues []
  { s with cores := [(0, { s.core 0 with tiles := mapVals (fun _ t => { t with st := e, readers := if e = .draining then 1 else 0 }) (s.core 0).tiles
                                         q0 := [mmaOp st] })]
           cur := { core := 0, q := 0 } }

/-- Its row is done, and some of its sums are on their way. -/
def lastOp (l : List LateSum) : EngOp := { mmaOp .running with pass := 1, late := l }
def labLast (l : List LateSum) : State :=
  let s := labMma .running .draining
  { s with cores := [(0, { s.core 0 with q0 := [lastOp l] })] }

theorem test_meets_EngineEvents_last :
    (lastOp []).passes ≤ (lastOp []).pass ∧ (lastOp []).aFmt = 2 ∧ (lastOp []).bFmt = 2 ∧ (labLast []).mem.badAcc = [] ∧ (labLast []).leaseAt 0 = none ∧
    (labLast []).runs 0 = true ∧ ((labLast []).core 0).frozen = false ∧
    (let x : LateSum := { arrives := 7, core := 0, word := 256, sum := 13, replace := false }; (labLast [x]).headOf (.core 0) = some (lastOp [x]) ∧ (lastOp [x]).late = [x]) ∧
    -- the row before it leaves no sum of an earlier row
    (mmaOp .running).late = [] ∧ (mmaOp .running).bset = [] ∧ (mmaOp .running).bnext = [] ∧ (labMma .running .draining).mem.badLink = [] := by decide +kernel

/-- The row of that product, its B values loaded, and the sums that it sends to the accumulators. -/
def rowDone : State × Option EngOp :=
  let x := (labMma .running .draining).swapB (mmaOp .running)
  x.1.mmaRow (.core 0) x.2
def rowSums : List LateSum :=
  match rowDone.2 with
  | some p => p.late
  | none => []

/-- A performed operation of q2 with its status word at 0x10400, and a strand that waits for q2. -/
def doneOp : EngOp := { copyOp .tcopy .performed [] with block := 0x10400, flags := 1, code := 0x0E, info := 3 }
def labDone : State :=
  let s := labEng 2 doneOp []
  { s with warps := [(0, { s.warp 0 with swait := .queues 4 1 })] }

/-- A held fill of t6, on which lane 1 waits. -/
def heldOp : EngOp := { loadOp with st := .held false, syn := 0x77 }
def labHeld : State :=
  let s := labEng 2 heldOp [(6, fillEntry)]
  { s with warps := [(0, { s.warp 0 with lanes := [(0, labLane []), (1, { labLane [] with wait := .tile 6 })] })] }

/-- A request of slot 0 for 256 words, beside a grant of all but the last 256, or of all. -/
def labAsk (n : Nat) : State :=
  { labOf { labTask with swait := .aalloc 9 } with
    cores := [(0, { Core.dflt with grants := [{ holder := .task 1, base := 0, size := n }] })]
    clusters := [(0, { Cluster.dflt with areqs := [{ warp := 0, holder := .task 0, size := 256, cores := [0] }] })] }

/-- An operation of q7 on the row at 0x400, of stack 1, whose bank 0 has two slots, or none, in the partition's window. -/
def rowOp (k : OpKind) : EngOp := { kind := k, warp := 0, lid := 0, taskId := 0, num := 0, q := 7, redAddr := 0x400 }
def labRow (k : OpKind) (n : Word64) (slots : SMap SlotEnt) : State :=
  { labOf { labTask with queues := [(7, [rowOp k])] } with
    mem := { ({} : Mem) with slots := slots }
    regs := [(baseBlk 1 0x2000, 0x8000000000010000), (baseBlk 1 0x100000, n)] }

theorem test_meets_EngineEvents_mma :
    (let s := labMma .queued .ready; let o := mmaOp .queued
     s.leaseAt 0 = none ∧ (s.core 0).q0.head? = some o ∧ s.runs 0 = true ∧ s.glitch = none ∧ s.mayStart o = true ∧ o.mTiles.Nodup ∧ o.mTiles = [(0, 3), (0, 4)] ∧
     (∀ p ∈ o.mTiles, ((s.tile? p.1 p.2).map (fun e => e.st)) = some .ready)) ∧
    (∃ p ∈ (mmaOp .queued).mTiles, (((labMma .queued .filling).tile? p.1 p.2).map (fun e => e.st)) ≠ some .ready) ∧
    (let o := mmaOp .running
     o.ra = 1 ∧ o.rb = 1 ∧ o.aFmt = 2 ∧ o.bFmt = 2 ∧ o.iMode = false ∧ o.aMem = false ∧ o.mK = 64 ∧ o.mN = 8 ∧ o.accStride = 8 ∧ o.row < o.mM ∧ o.zAcc = false ∧
     ((labMma .running .draining).tile? 0 (o.aOp % 64)).isSome = true ∧ ((labMma .running .draining).tile? 0 (o.bOp % 64)).isSome = true) ∧
    (∀ q ∈ (labMma .running .draining).opsOf 0, q.q ≠ 0 ∨ q.num ≤ 0) ∧ ((labMma .running .draining).warp 0).taskId = 0 := by decide +kernel

theorem test_meets_EngineEvents :
    (let m := labDone.opMaster doneOp
     let u := labDone.updMem (fun x => x.bump m.die)
     labDone.queueAt (.own 0 2) = [doneOp] ∧ labDone.runs 0 = true ∧ lands u m 0x10400 0x400 .write = true ∧ homeOf (canonPa 0x400) = 0 ∧ canonPa 0x400 % 8 = 0) ∧
    labLoad.headOf labLoad.actorQueue = some loadOp ∧ loadOp.st ≠ .performed ∧
    labDone.opStopped doneOp = false ∧ labDone.mem.Plain ∧ labHeld.untolds 0 = [heldOp] ∧
    (let s := { labDone with clusters := [(0, { Cluster.dflt with copyFrozen := true })] }; s.opStopped doneOp = true ∧ s.headOf s.actorQueue = some doneOp) ∧ heldOp.fillTile = some 6 ∧ (∃ p ∈ heldOp.dests, p.1 = 0) ∧ (labHeld.warp 0).tileGroups 6 = [[1]] ∧ (labHeld.warp 0).tvec ≠ 0 ∧ labLoad.untold 0 = none ∧
    ((labAsk 32512).cluster 0).areqs = [{ warp := 0, holder := .task 0, size := 256, cores := [0] }] ∧ ((labAsk 32512).warp 0).swait = .aalloc 9 ∧
    (∀ c ∈ [0], ∀ x ∈ ((labAsk 32512).core c).grants, 32512 + 256 ≤ x.base ∨ x.base + x.size ≤ 32512) ∧ 32512 + 256 ≤ 32768 ∧
    (let s := labRow (.prom true) 2 []
     s.headOf (.own 0 7) = some (rowOp (.prom true)) ∧ s.mayStart (rowOp (.prom true)) = true ∧ (placeOf 0x400).stack = 1 ∧ (placeOf 0x400).row < 15360 ∧ s.windowSlots 1 0 0 = [0, 1]) ∧
    (labRow (.prom true) 0 []).windowSlots 1 0 0 = [] ∧
    (labRow .dem 2 [(slotKey 1 0 1, ⟨true, false, 0, 0⟩)]).mem.slots = [(slotKey 1 0 1, ⟨true, false, 0, 0⟩)] ∧ (placeOf 0x400).row = 0 := by
  unfold Mem.Plain Mem.Sound; decide +kernel

/-- No range of 256 words is free beside a grant of the whole accumulator; and a clean slot over memory that lists nothing serves what its home
row holds. -/
theorem test_meets_EngineEvents_none :
    (∀ b, ¬(b % 256 = 0 ∧ b + 256 ≤ 32768 ∧ ∀ c ∈ [0], ∀ x ∈ ((labAsk 32768).core c).grants, b + 256 ≤ x.base ∨ x.base + x.size ≤ b)) ∧
    (∀ a, (labRow .dem 2 [(slotKey 1 0 1, ⟨false, false, 0, 0⟩)]).mem.stackGet a = cellGet (labRow .dem 2 [(slotKey 1 0 1, ⟨false, false, 0, 0⟩)]).mem.bytes a) := by
  have hb : (labRow .dem 2 [(slotKey 1 0 1, ⟨false, false, 0, 0⟩)]).mem.bytes = [] := rfl
  refine ⟨?_, fun a => by rw [Mem.stackGet, hb]; simp [cellGet]⟩
  rintro b ⟨_, hb, h⟩
  have := h 0 (List.mem_singleton.mpr rfl) { holder := .task 1, base := 0, size := 32768 } (by decide +kernel)
  simp only at this
  omega

theorem test_engine_events :
    ((after (.mmaOp 0) (labMma .queued .ready)).tile? 0 3).map (fun e => (e.st, e.readers)) = some (.draining, 1) ∧
    (after (.mmaOp 0) (labMma .queued .filling)).cores = (labMma .queued .filling).cores ∧
    -- 3 × 5 − 1 × 2 = 13 on 100; 3 × 1 on the greatest integer saturates
    rowSums.map (fun x => (x.arrives, x.word)) = (List.range 8).map (fun j => (j, 256 + j)) ∧ (rowDone.1.warp 0).mrow = 2 ^ 32 ∧
    (let u := (rowDone.1.landSums rowSums (lastOp [])).1; ((u.core 0).acc.get 0 256, (u.core 0).acc.get 0 257)) = (113, 0x7FFFFFFF) ∧
    (let t := after (.mmaOp 1) (labLast []); (t.core 0).q0.map (fun o => (o.st, o.code, o.reads)) = [(.performed, 0, [])] ∧ (t.core 0).acc = (labLast []).cores.flatMap (fun p => p.2.acc)) ∧
    (let t := after .engineCompletion labDone
     t.queueAt (.own 0 2) = [] ∧ ofBytes (t.mem.lookN 0 0x400 8) = 2 ^ 63 + 0x30E ∧ (t.warp 0).stk = 1 ∧ (t.warp 0).swait = .none) ∧
    (let t := after .pipeTrap labHeld; ((t.warp 0).lane 1).trapCode = 0x10 ∧ ((t.warp 0).lane 1).errSyn = 0x77 ∧ ((t.warp 0).lane 0).trapCode = 0) ∧
    (let t := after .aallocServed (labAsk 32512); (t.core 0).grants.length = 2 ∧ (t.warp 0).sreg 9 = 0x1007F00 ∧ (t.warp 0).spc = 0x10004) ∧
    ((after .aallocServed (labAsk 32768)).core 0).grants.length = 1 := by decide +kernel

theorem test_rows :
    (let t := after .promotion (labRow (.prom true) 0 []); (t.warp 0).q7st = 0x404 ∧ bitAt (t.warp 0).stk 10 = true) ∧
    (let t := after .demotion (labRow .dem 2 [(slotKey 1 0 1, ⟨false, false, 0, 0⟩)]); t.mem.slots = [] ∧ (t.warp 0).q7st = 0x400) ∧
    ((after .demotion (labRow .dem 2 [(slotKey 1 0 1, ⟨false, false, 0, 5⟩)])).warp 0).q7st = 0x405 := by decide +kernel

/-! ## Steps, tile records and reset -/

/-- The issue of slot 0 heads the agenda; its words stand at 0x10000, and a handler is set. -/
def labStep (words : BitVec 1024) : State :=
  { labMem { labMemTask with tvec := 0x8000 } { l2 := [(0, ⟨words, 0, 0, 0, 0⟩)] } [] with
    agenda := [{ who := { warp := 0, lanes := 3 }, what := none }] }

/-- What happens to the agenda's head up to the fetch: the issuing group and the fetch. -/
def fetched (s : State) : Word × Fetched :=
  let s1 := ({ s.countCorrected with agenda := [], tick := s.tick + 1 } : State).syncAll.interlock
  let group := s1.issuers { warp := 0, lanes := 3 }
  let w := s1.warp 0
  (group, (s1.fetch (s1.strandMaster 0) (w.fetchFailed group) (w.groupPc group) w.converged).2)

/-- add 3 o3, o1, o2; and the two words of an erased memory, of the first in lanes, of the second in the strand. -/
def labAdd : State := labStep (BitVec.ofNat 1024 ((encode (.add 3 (.o 3) (.o 1) (.o 2))).headD 0).toNat)
def labErased (w : BitVec 1024) : State := labStep w

theorem test_meets_StepRunsDecoded :
    fetched labAdd = (3, .words ((encode (.add 3 (.o 3) (.o 1) (.o 2))).headD 0) 0 0) ∧
    (match decode ((encode (.add 3 (.o 3) (.o 1) (.o 2))).headD 0) 0 0 with | .ok i => decide (i = .add 3 (.o 3) (.o 1) (.o 2)) | .error _ => false) = true := by
  decide +kernel

/-- The words of a fetch of the warp. -/
theorem test_meets_FetchReadsBytes :
    (∀ k < 3, labAdd.translate (labAdd.strandMaster 0) (0x10000 + BitVec.ofNat 56 (4 * k)).toNat .fetch [] = (labAdd, .ok (4 * k)) ∧
      labAdd.paAllowed (labAdd.strandMaster 0).part (4 * k) .fetch = true ∧ quarter (4 * k) ≠ 3 ∧
      labAdd.trackRead (labAdd.strandMaster 0).lid (canonPa (4 * k)) = labAdd) ∧ labAdd.mem.Sound ∧ (labAdd.strandMaster 0).lid = some 0 := by
  unfold Mem.Sound; decide +kernel

/-- The issue of an erased word begins. -/
def labBegun (w : BitVec 1024) (uset : Bool) : State :=
  ({ (labErased w).countCorrected with agenda := [], tick := (labErased w).tick + 1 } : State).syncAll.interlock.beginIssue { warp := 0, lanes := 3 } 3 uset

/-- What the trap of a reserved word finds: a converged board slot with a handler, at the word. -/
def labAtWord (u : State) : Bool :=
  let w := u.warp 0
  w.converged && decide (u.execLanes = [0, 1]) && decide (w.live = 3) && decide (w.spc = 0x10000) && decide (w.tvec = 0x8000) && decide (w.slot = .board) &&
    decide (w.swait = .none) && decide (w.sfailed = []) && [0, 1].all (fun i => decide ((w.lane i).pc = 0x10000) && !(w.lane i).inH)

theorem test_meets_ErasedMemory :
    fetched (labErased 0) = (3, .words 0 0 0) ∧ fetched (labErased 0xFFFFFFFF) = (3, .words 0xFFFFFFFF 0 0) ∧
    labAtWord (labBegun 0 false) = true ∧ labAtWord (labBegun 0xFFFFFFFF true) = true := by decide +kernel

theorem test_steps :
    (match step labAdd with | .next t => decide (((t.warp 0).lane 0).pc = 0x10004) && decide (((t.warp 0).lane 0).o.get 0 3 = 1) | _ => false) = true ∧
    ([(0 : BitVec 1024), 0xFFFFFFFF].all (fun w =>
      match step (labErased w) with | .next t => decide (((t.warp 0).lane 1).trapCode = 1 ∧ ((t.warp 0).lane 1).trapPc = 0x10000) | _ => false)) = true ∧
    (match step { lab with agenda := [{ who := { warp := 0, lanes := 1, clu := 5 }, what := some .returnVisit }] } with
     | .next t => decide (t.cur.clu = 5 ∧ t.mem.token.get 0 5 = 1 ∧ t.agenda = []) | _ => false) = true := by decide +kernel

/-- A record whose element (1, 2) has code 5 and the others 0, in E2M1 at exponent 0 in its row and column scales: its transpose holds the code
at (2, 1). -/
def labRecord : List Byte := (List.range 144).map (fun k => if k = 9 then 5 else if k = 136 then 32 else 0)

theorem test_records :
    labRecord.length = 144 ∧ (TileRec.transpose (TileRec.ofBytes labRecord)).bytes.getD 16 0 = 0x50 ∧ (TileRec.transpose (TileRec.ofBytes labRecord)).bytes.getD 9 0 = 0 ∧
    (List.replicate 144 (0 : Byte)).length = 144 ∧ ({ loadOp with pb := copyBlock 0 7 1 6 (2 ^ 28) } : EngOp).rtrans = true := by decide +kernel

/-- Die 1 has corrected two errors and die 0 one, where die 0's count is full. -/
theorem test_corrected :
    let t := { lab with corrected := [1, 0, 1], regs := [(dieBlk 0 0x4000, 0x80000000FFFFFFFF)] }.countCorrected
    t.reg (dieBlk 0 0x4000) = 0x80000000FFFFFFFF ∧ t.reg (dieBlk 1 0x4000) = 2 ∧ t.corrected = [] := by decide +kernel

theorem test_reset : State.reset.boot.stage = 1 ∧ State.reset.reg (dieBlk 1 (8 * 63)) = 63 ∧ State.reset.reg (dieBlk 0 (0x8000 + 8 * (16 * 67 + 15))) = 8 ∧
    State.reset.reg (pkgBlk (0x1000 + 8 * 127)) = 3 ∧ State.reset.regRead (pkgBlk 0x80000) / 2 ^ 63 = 1 ∧ Memory.wf State.reset.mem.bytes := by decide +kernel

/-- A state of which Canonical holds and from which a step leads on. -/
theorem test_meets_MemoryCanonical : Memory.wf labAdd.mem.bytes ∧ Memory.wf labAdd.devBytes ∧ (labAdd.cores.all (fun p => decide (Memory.wf p.2.spad))) = true ∧
    (match step labAdd with | .next _ => true | _ => false) = true := by decide +kernel

/-- A diverged warp at a word of the U-set. -/
def labDiverged : State :=
  { labMem { labMemTask with tvec := 0x8000, converged := false } { l2 := [(0, ⟨BitVec.ofNat 1024 ((encode (.sadd 0 1 1 1)).headD 0).toNat, 0, 0, 0, 0⟩)] } [] with
    agenda := [{ who := { warp := 0, lanes := 3 }, what := none }] }

theorem test_meets_Divergence_step :
    (let h : Happening := { who := { warp := 0, lanes := 3 }, what := none }; firstOf h [] = (h, [])) ∧ fetched labDiverged = (3, .uset) ∧
    (let s2 := ({ labDiverged.countCorrected with agenda := [], tick := labDiverged.tick + 1 } : State).syncAll.interlock.beginIssue { warp := 0, lanes := 3 } 3 false
     s2.Handled ∧ s2.glitch = none ∧ s2.execLanes = [0, 1]) ∧
    (match step labDiverged with
     | .next t => decide (((t.warp 0).lane 0).trapCode = 2 ∧ ((t.warp 0).lane 1).trapPc = 0x10000 ∧ (t.warp 0).sreg 1 = (labDiverged.warp 0).sreg 1)
     | _ => false) = true := by
  unfold State.Handled; decide +kernel

end Sys2Proof.Tests
end

section
/-! SUPPORT. Every instruction and every event answers a next state, and so does every step (00_scope.md R2). -/

namespace Sys2Proof.Machine

/-- An answer that is a next state. -/
def Answers (a : Answer) : Prop := ∃ t, a = .next t

/-! ## The operations that instructions share -/

theorem strandOp_answers (u : Nat × Nat) (reads : List Nat) (body : State → State) (s : State) : Answers (strandOp u reads body s) := by
  unfold strandOp
  split <;> exact ⟨_, rfl⟩

theorem sOp1_answers (n : Stall) (len lat kind : Nat) (d a : BitVec 6) (f : Word64 → Word64) (s : State) :
    Answers (sOp1 n len lat kind d a f s) := strandOp_answers ..

theorem sOp2_answers (n : Stall) (lat kind : Nat) (d a b : BitVec 6) (f : Word64 → Word64 → Word64) (s : State) :
    Answers (sOp2 n lat kind d a b f s) := strandOp_answers ..

theorem blockOp_answers (n : Stall) (k : OpKind) (q : Nat) (a : BitVec 6) (s : State) : Answers (blockOp n k q a s) :=
  strandOp_answers ..

theorem rowOp_answers (n : Stall) (k : OpKind) (a : BitVec 6) (s : State) : Answers (rowOp n k a s) := strandOp_answers ..

theorem bondOp_answers (n : Stall) (d : BitVec 6) (k : BitVec 2) (strait : Bool) (a b : Nat) (s : State) :
    Answers (bondOp n d k strait a b s) := strandOp_answers ..

theorem memOp_answers (n : Stall) (len : Nat) (reads : View → List LRes) (ea : View → LaneRes ⊕ Addr) (size : Nat) (k : AccKind)
    (own : Nat) (m : Master) (perform : State → Nat → Nat → State × Option LaneRes) (s : State) :
    Answers (memOp n len reads ea size k own m perform s) := by
  unfold memOp
  dsimp only
  repeat' split
  all_goals exact ⟨_, rfl⟩

theorem localOp_answers (n : Stall) (reads : View → List LRes) (addr : View → Nat ⊕ Nat)
    (perform : State → Nat → Nat → State × Option LaneRes) (s : State) : Answers (localOp n reads addr perform s) := by
  unfold localOp
  dsimp only
  split <;> exact ⟨_, rfl⟩

theorem roundOp_answers (n : Stall) (lat : Nat) (u : Nat × Nat) (mk : Nat) (reads : View → List LRes) (f : List Nat → Nat → LaneRes)
    (s : State) : Answers (roundOp n lat u mk reads f s) := by
  unfold roundOp
  dsimp only
  split <;> exact ⟨_, rfl⟩

theorem tileOp_answers (t : BitVec 6) (reads : View → List LRes) {body : Tile → State → Answer} (s : State)
    (h : ∀ e, Answers (body e s)) : Answers (tileOp t reads body s) := by
  unfold tileOp
  dsimp only
  split
  · exact ⟨_, rfl⟩
  · split
    · exact ⟨_, rfl⟩
    · split
      · exact h _
      · exact ⟨_, rfl⟩

/-! ## Instructions and events with courses of their own -/

theorem execBond_answers (n : Stall) (d : BitVec 6) (k c r : BitVec 2) (s : State) : Answers (execBond n d k c r s) := by
  unfold execBond
  split
  · exact strandOp_answers ..
  · exact bondOp_answers ..

theorem execLd_answers (n : Stall) (d : Dst) (a : Src) (w : Width) (x : MemExt) (s : State) : Answers (execLd n d a w x s) := by
  unfold execLd
  exact memOp_answers ..

theorem execSt_answers (n : Stall) (d a : Src) (w : Width) (x : MemExt) (s : State) : Answers (execSt n d a w x s) := by
  unfold execSt
  exact memOp_answers ..

theorem execAtom_answers (n : Stall) (d : Dst) (a b : Src) (p : AtomOp) (x : MemExt) (s : State) :
    Answers (execAtom n d a b p x s) := by
  unfold execAtom
  exact memOp_answers ..

theorem execRed_answers (n : Stall) (a b : Src) (p : AtomOp) (x : MemExt) (s : State) : Answers (execRed n a b p x s) := by
  unfold execRed
  dsimp only
  split
  · exact ⟨_, rfl⟩
  · exact memOp_answers ..

theorem execLdp_answers (n : Stall) (d : Dst) (a : Src) (w : BitVec 3) (i : BitVec 8) (s : State) :
    Answers (execLdp n d a w i s) := by
  unfold execLdp
  dsimp only
  split
  · exact ⟨_, rfl⟩
  · exact memOp_answers ..

theorem execLds_answers (n : Stall) (d : Dst) (a b : Src) (w : Width) (s : State) : Answers (execLds n d a b w s) := by
  unfold execLds
  exact localOp_answers ..

theorem execSts_answers (n : Stall) (d a b : Src) (w : Width) (s : State) : Answers (execSts n d a b w s) := by
  unfold execSts
  exact localOp_answers ..

theorem execLda_answers (n : Stall) (d : Dst) (a b : Src) (s : State) : Answers (execLda n d a b s) := by
  unfold execLda
  exact localOp_answers ..

theorem execSta_answers (n : Stall) (d a b : Src) (s : State) : Answers (execSta n d a b s) := by
  unfold execSta
  exact localOp_answers ..

theorem execYld_answers (n : Stall) (s : State) : Answers (execYld n s) := by
  unfold execYld laneOp
  dsimp only
  split <;> exact ⟨_, rfl⟩

theorem execLdt_answers (n : Stall) (d : Dst) (a : Src) (t : BitVec 6) (s : State) : Answers (execLdt n d a t s) := by
  unfold execLdt
  exact tileOp_answers _ _ _ (fun _ => localOp_answers ..)

theorem execTwait_answers (n : Stall) (t : BitVec 6) (s : State) : Answers (execTwait n t s) :=
  tileOp_answers t _ s (fun _ => ⟨_, rfl⟩)

theorem execRefill_answers (n : Stall) (d : Dst) (s : State) : Answers (execRefill n d s) := by
  unfold execRefill laneOp
  dsimp only
  repeat' split
  all_goals exact ⟨_, rfl⟩

theorem execSpawnl_answers (n : Stall) (a b : Src) (r : BitVec 6) (s : State) : Answers (execSpawnl n a b r s) := by
  unfold execSpawnl
  extract_lets s1 w wp m reads go turned finish va failed
  have hfin : ∀ t f, Answers (finish t f) := fun _ _ => ⟨_, rfl⟩
  clear_value finish
  split
  · exact hfin _ _
  split
  · exact hfin _ _
  split
  · exact ⟨_, rfl⟩
  · exact hfin _ _
  · exact ⟨_, rfl⟩
  split
  · exact ⟨_, rfl⟩
  split
  · exact ⟨_, rfl⟩
  extract_lets rec_ make
  have hmake : ∀ t j, Answers (make t j) := fun _ _ => hfin _ _
  clear_value make
  split
  · split
    · split
      · exact hmake _ _
      · exact ⟨_, rfl⟩
    · exact ⟨_, rfl⟩
    · exact ⟨_, rfl⟩
    · exact ⟨_, rfl⟩
  · exact hmake _ _

theorem execGbar_answers (n : Stall) (g : BitVec 2) (s : State) : Answers (execGbar n g s) := by
  unfold execGbar barTrap laneOp
  dsimp only
  repeat' split
  all_goals exact ⟨_, rfl⟩

theorem execLbar_answers (n : Stall) (s : State) : Answers (execLbar n s) := by
  unfold execLbar barTrap laneOp
  dsimp only
  repeat' split
  all_goals exact ⟨_, rfl⟩

theorem execWrsr_answers (n : Stall) (d : Src) (r : BitVec 10) (s : State) : Answers (execWrsr n d r s) := by
  unfold execWrsr laneOp
  split <;> exact ⟨_, rfl⟩

theorem execTquantOp_answers (s : State) : Answers (execTquantOp s) := by
  unfold execTquantOp
  dsimp only
  split <;> exact ⟨_, rfl⟩

theorem execLaunchAdmission_answers (s : State) : Answers (execLaunchAdmission s) := by
  unfold execLaunchAdmission
  extract_lets die waiting rot order ready turn
  split
  · exact ⟨_, rfl⟩
  · split
    · exact ⟨_, rfl⟩
    · exact ⟨_, rfl⟩

theorem execDrainConfirmed_answers (lid : Nat) (s : State) : Answers (execDrainConfirmed lid s) := by
  unfold execDrainConfirmed
  dsimp only
  split <;> split <;> exact ⟨_, rfl⟩

/-! ## Every instruction and event, and the step -/

/-- Every instruction and event answers a next state: the strand's through strandOp, the accesses through the operation that they
share, those named with a course of their own, and every other one at once. -/
theorem exec_answers (i : Instr) (s : State) : Answers (exec i s) := by
  unfold exec
  cases i with
  | sadd | ssub | smul | sand | sor | sxor | smin | smax | sshl | sshr | ssar | sminU | smaxU | scmp => exact sOp2_answers ..
  | smov | saddImm | smulImm | sandImm | sorImm | sxorImm | sshlImm | sshrImm | ssarImm | sminImm | smaxImm => exact sOp1_answers ..
  | tcopy | tquant | gath | scat => exact blockOp_answers ..
  | prom | dem => exact rowOp_answers ..
  | bond => exact execBond_answers ..
  | bondStrait => exact bondOp_answers ..
  | ssel | smovi | smovi32 | smovi64 | unbond | mma | talloc | tfree | aalloc | afree | sld | sst | ldpUniform | gred | qfence | qwait
  | ttag | tdisc | ubra | ubrc | ucall | uret | spawn | cont | phase | perf | carve | rdsrUniform | wrsrUniform =>
    exact strandOp_answers ..
  | ld => exact execLd_answers ..
  | st => exact execSt_answers ..
  | atom => exact execAtom_answers ..
  | red => exact execRed_answers ..
  | ldp => exact execLdp_answers ..
  | lds => exact execLds_answers ..
  | sts => exact execSts_answers ..
  | lda => exact execLda_answers ..
  | sta => exact execSta_answers ..
  | shfl | vote | wred => exact roundOp_answers ..
  | ldt => exact execLdt_answers ..
  | twait => exact execTwait_answers ..
  | yld => exact execYld_answers ..
  | refill => exact execRefill_answers ..
  | spawnl => exact execSpawnl_answers ..
  | gbar => exact execGbar_answers ..
  | lbar => exact execLbar_answers ..
  | wrsr => exact execWrsr_answers ..
  | tquantOp => exact execTquantOp_answers ..
  | launchAdmission => exact execLaunchAdmission_answers ..
  | drainConfirmed => exact execDrainConfirmed_answers ..
  | _ => exact ⟨_, rfl⟩

theorem rouseAnswer_answers (s : State) (issuing : Option Nat) {a : Answer} (h : Answers a) : Answers (rouseAnswer s issuing a) := by
  obtain ⟨t, rfl⟩ := h
  exact ⟨_, rfl⟩

theorem State.execEvent_answers (s : State) (i : Instr) : Answers (s.execEvent i) := by
  unfold State.execEvent
  split
  · exact exec_answers i s
  · split
    · exact ⟨_, rfl⟩
    · exact exec_answers i s

theorem State.execIssued_answers (s : State) (i : Instr) : Answers (s.execIssued i) := by
  unfold State.execIssued
  split
  · exact ⟨_, rfl⟩
  · obtain ⟨t, ht⟩ := exec_answers i s
    rw [ht]
    exact ⟨_, rfl⟩

theorem State.issueWord_answers (s : State) (who : Actor) (group : Word) : Answers (s.issueWord who group) := by
  unfold State.issueWord
  dsimp only
  split
  · exact ⟨_, rfl⟩
  · exact ⟨_, rfl⟩
  · exact ⟨_, rfl⟩
  · exact ⟨_, rfl⟩
  · split
    · exact State.execIssued_answers _ _
    · exact ⟨_, rfl⟩

theorem State.happen_answers (s : State) (h : Happening) : Answers (s.happen h) := by
  unfold State.happen
  dsimp only
  split
  · exact rouseAnswer_answers _ _ (State.execEvent_answers _ _)
  · split
    · exact ⟨_, rfl⟩
    · exact rouseAnswer_answers _ _ (State.issueWord_answers _ _ _)

/-- Settles O7: what happens in a step is an event or an issue, and either answers a next state, for every instruction and event
does. -/
theorem stepAnswers : Obligations.StepAnswers := by
  intro s
  unfold step
  split
  · exact State.happen_answers _ _
  · split
    · exact State.happen_answers _ _
    · exact ⟨_, rfl⟩

end Sys2Proof.Machine
end

section
/-! SUPPORT. Device registers: the block and the mask of an address, what a write stores, and writes that are ignored
(00_scope.md R6, 15_isolation.md R405, R407, R430, 16_recovery.md R440). -/

namespace Sys2Proof.Machine

/-! ## Bits -/

@[simp] theorem bitAt_and {w : Nat} (x y : BitVec w) (k : Nat) : bitAt (x &&& y) k = (bitAt x k && bitAt y k) := BitVec.getLsbD_and

@[simp] theorem bitAt_or {w : Nat} (x y : BitVec w) (k : Nat) : bitAt (x ||| y) k = (bitAt x k || bitAt y k) := BitVec.getLsbD_or

@[simp] theorem bitAt_not {w : Nat} (x : BitVec w) (k : Nat) : bitAt (~~~x) k = (decide (k < w) && !bitAt x k) := BitVec.getLsbD_not

@[simp] theorem bitAt_zero {w : Nat} (k : Nat) : bitAt 0#w k = false := BitVec.getLsbD_zero

theorem bitAt_of_ge {w : Nat} (x : BitVec w) {k : Nat} (h : w ≤ k) : bitAt x k = false := BitVec.getLsbD_of_ge x k h

theorem bitAt_ofNat {w : Nat} (n k : Nat) : bitAt (BitVec.ofNat w n) k = (decide (k < w) && n.testBit k) := BitVec.getLsbD_ofNat w n k

theorem bitAt_eq_testBit {w : Nat} (x : BitVec w) (k : Nat) : bitAt x k = x.toNat.testBit k := (BitVec.testBit_toNat x).symm

theorem word_ext {w : Nat} {x y : BitVec w} (h : ∀ k < w, bitAt x k = bitAt y k) : x = y := BitVec.eq_of_getLsbD_eq h

@[simp] theorem bitAt_bits {hi lo : Nat} (hh : hi < 64) (hl : lo ≤ hi) (k : Nat) : bitAt (bits hi lo) k = (decide (lo ≤ k) && decide (k ≤ hi)) := by
  have e : 2 ^ (hi + 1) - 2 ^ lo = 2 ^ lo * (2 ^ (hi + 1 - lo) - 1) := by
    rw [Nat.mul_sub, ← pow_add, Nat.mul_one, show lo + (hi + 1 - lo) = hi + 1 by omega]
  rw [bits, bitAt_ofNat, e, Nat.testBit_two_pow_mul, Nat.testBit_two_pow_sub_one]
  by_cases h1 : lo ≤ k <;> by_cases h2 : k ≤ hi <;> simp [h1, h2] <;> omega

/-- A field of a word as bits. -/
theorem testBit_field {w : Nat} (x : BitVec w) (hi lo k : Nat) (h : lo ≤ hi) :
    (field x hi lo).testBit k = (decide (k ≤ hi - lo) && bitAt x (lo + k)) := by
  rw [field, Nat.testBit_mod_two_pow, Nat.testBit_div_two_pow, bitAt_eq_testBit, Nat.add_comm k lo]
  by_cases hk : k ≤ hi - lo
  · simp [hk, show k < hi + 1 - lo by omega]
  · simp [hk, show ¬ k < hi + 1 - lo by omega]

theorem field_lt {w : Nat} (x : BitVec w) (hi lo : Nat) : field x hi lo < 2 ^ (hi + 1 - lo) := Nat.mod_lt _ (by positivity)

theorem field_congr {w : Nat} {x y : BitVec w} {hi lo : Nat} (hl : lo ≤ hi) (h : ∀ k, lo ≤ k → k ≤ hi → bitAt x k = bitAt y k) :
    field x hi lo = field y hi lo := by
  apply Nat.eq_of_testBit_eq
  intro k
  rw [testBit_field x hi lo k hl, testBit_field y hi lo k hl]
  by_cases hk : k ≤ hi - lo
  · rw [h (lo + k) (by omega) (by omega)]
  · simp [hk]

/-! ## Blocks and masks -/

theorem blockOf_dieBlk {d o : Nat} (hd : d < 2) (ho : o < 0x8000000) : blockOf (dieBlk d o) = .die d o := by
  unfold blockOf dieBlk
  rw [if_pos (by omega)]
  exact congrArg₂ Block.die (by omega) (by omega)

theorem blockOf_arbBlk {a o : Nat} (ha : a < 12) (ho : o < 0x100000) : blockOf (arbBlk a o) = .arb a o := by
  unfold blockOf dieBlk arbBlk
  rw [if_neg (by omega), if_pos (by omega)]
  exact congrArg₂ Block.arb (by omega) (by omega)

theorem blockOf_pkgBlk {o : Nat} (ho : o < 0x80000000) : blockOf (pkgBlk o) = .pkg o := by
  unfold blockOf dieBlk arbBlk pkgBlk baseBlk
  rw [if_neg (by omega), if_neg (by omega), if_pos (by omega)]
  exact congrArg Block.pkg (by omega)

theorem blockOf_baseBlk {k o : Nat} (hk : k < 12) (ho : o < 0x10000000) : blockOf (baseBlk k o) = .base k o := by
  unfold blockOf dieBlk arbBlk pkgBlk baseBlk
  rw [if_neg (by omega), if_neg (by omega), if_neg (by omega), if_pos (by omega)]
  exact congrArg₂ Block.base (by omega) (by omega)

theorem regMask_dieBlk {d o : Nat} (hd : d < 2) (ho : o < 0x8000000) : regMask (dieBlk d o) = dieMask o := by
  rw [regMask, blockOf_dieBlk hd ho]

theorem regMask_pkgBlk {o : Nat} (ho : o < 0x80000000) : regMask (pkgBlk o) = pkgMask o := by
  rw [regMask, blockOf_pkgBlk ho]

theorem regMask_cmap {d l : Nat} (hd : d < 2) (hl : l < 64) : regMask (dieBlk d (8 * l)) = (bits 6 0, 0) := by
  rw [regMask_dieBlk hd (by omega), dieMask, if_pos (by omega)]

theorem regMask_cpart {d l : Nat} (hd : d < 2) (hl : l < 64) : regMask (dieBlk d (0x1000 + 8 * l)) = (bits 7 7 ||| bits 3 0, 0) := by
  rw [regMask_dieBlk hd (by omega), dieMask, if_neg (by omega), if_pos (by omega)]

theorem regMask_qbind {d q : Nat} (hd : d < 2) (hq : q < 64) :
    regMask (dieBlk d (0x2000 + 16 * q)) = (bits 63 63 ||| bits 11 8 ||| bits 3 0, 0) := by
  rw [regMask_dieBlk hd (by omega), dieMask, if_neg (by omega), if_neg (by omega), if_pos (by omega), if_pos (by omega)]

theorem regMask_tqovf_base {d l : Nat} (hd : d < 2) (hl : l < 64) : regMask (dieBlk d (0x5000 + 16 * l)) = (bits 47 12, 0) := by
  rw [regMask_dieBlk hd (by omega), dieMask, if_neg (by omega), if_neg (by omega), if_neg (by omega), if_neg (by omega),
    if_pos (by omega), if_pos (by omega)]

theorem regMask_tqovf_cap {d l : Nat} (hd : d < 2) (hl : l < 64) : regMask (dieBlk d (0x5008 + 16 * l)) = (bits 23 0, 0) := by
  rw [regMask_dieBlk hd (by omega), dieMask, if_neg (by omega), if_neg (by omega), if_neg (by omega), if_neg (by omega),
    if_pos (by omega), if_neg (by omega)]

theorem regMask_synovf {d : Nat} (hd : d < 2) : regMask (dieBlk d 0x6000) = (bits 47 16 ||| bits 15 0, 0) := by
  rw [regMask_dieBlk hd (by omega)]
  rfl

theorem regMask_cellmask {d p c : Nat} (hd : d < 2) (hp : p < 68) (hc : c < 16) :
    regMask (dieBlk d (0x8000 + 8 * (16 * p + c))) = (bits 4 0, 0) := by
  rw [regMask_dieBlk hd (by omega), dieMask, if_neg (by omega), if_neg (by omega), if_neg (by omega), if_neg (by omega),
    if_neg (by omega), if_neg (by omega), if_pos (by omega)]

theorem regMask_regsel {g : Nat} (hg : g < 128) : regMask (pkgBlk (0x1000 + 8 * g)) = (bits 1 0, 0) := by
  rw [regMask_pkgBlk (by omega), pkgMask, if_neg (by omega), if_pos (by omega)]

theorem regMask_faultq {p o : Nat} (hp : p < 16) (ho : o < 64) : regMask (faultReg p o) =
    if o = 0 then (bits 47 5, 0) else if o = 8 then (bits 63 63 ||| bits 42 0, 0) else if o = 16 then (bits 31 0, 0) else (0, 0) := by
  rw [faultReg, regMask_pkgBlk (by omega), pkgMask, if_neg (by omega), if_neg (by omega), if_neg (by omega), if_neg (by omega),
    if_neg (by omega), if_pos (by omega), show (0x30000 + 64 * p + o) % 64 = o by omega]
  split_ifs <;> rfl

theorem regMask_expw_base {p : Nat} (hp : p < 16) : regMask (pkgBlk (0x62000 + 16 * p)) = (bits 47 21, 0) := by
  rw [regMask_pkgBlk (by omega), pkgMask, if_neg (by omega), if_neg (by omega), if_neg (by omega), if_neg (by omega),
    if_neg (by omega), if_neg (by omega), if_neg (by omega), if_neg (by omega), if_neg (by omega), if_pos (by omega), if_pos (by omega)]

theorem regMask_expw_size {p : Nat} (hp : p < 16) : regMask (pkgBlk (0x62008 + 16 * p)) = (bits 17 0, 0) := by
  rw [regMask_pkgBlk (by omega), pkgMask, if_neg (by omega), if_neg (by omega), if_neg (by omega), if_neg (by omega),
    if_neg (by omega), if_neg (by omega), if_neg (by omega), if_neg (by omega), if_neg (by omega), if_pos (by omega), if_neg (by omega)]

/-! ## Writes -/

theorem State.storeReg_only (s : State) (a : Nat) (en v : Word64) :
    s.storeReg a en v = { s with regs := (s.storeReg a en v).regs } := by
  unfold State.storeReg
  dsimp only
  split <;> rfl

theorem State.reg_storeReg_other (s : State) {a b : Nat} (en v : Word64) (h : b ≠ a) : (s.storeReg a en v).reg b = s.reg b := by
  unfold State.storeReg
  dsimp only
  split
  · rfl
  · rw [State.reg_setReg, if_neg (Ne.symm h)]

theorem State.bitAt_storeReg (s : State) {a : Nat} {m c : Word64} (en v : Word64) (hm : regMask a = (m, c)) {k : Nat} (hk : k < 64) :
    bitAt ((s.storeReg a en v).reg a) k =
      ((if bitAt m k && bitAt en k then bitAt v k else bitAt (s.reg a) k) && !(bitAt v k && bitAt c k && bitAt en k)) := by
  unfold State.storeReg
  dsimp only
  rw [hm]
  split
  · rename_i h
    obtain ⟨rfl, rfl⟩ := Prod.mk.inj h
    simp
  · rw [State.reg_setReg, if_pos rfl]
    simp only [bitAt_and, bitAt_or, bitAt_not, hk, decide_true, Bool.true_and]
    cases bitAt m k <;> cases bitAt en k <;> simp

/-- A write to a register without bits that a 1 clears: its writable bits among those written hold what was written. -/
theorem State.storeReg_stored (s : State) {a : Nat} {m en v v' : Word64} {w : Nat → Bool} (hm : regMask a = (m, 0))
    (hw : ∀ k < 64, w k = true ↔ bitAt m k = true ∧ bitAt en k = true) (hv : ∀ k < 64, w k = true → bitAt v k = bitAt v' k) :
    s.Stored (s.storeReg a en v) a w v' := by
  refine ⟨s.storeReg_only a en v, fun b hb => s.reg_storeReg_other en v hb, fun k => ?_⟩
  by_cases hk : k < 64
  · rw [s.bitAt_storeReg en v hm hk, show (bitAt m k && bitAt en k) = w k by rw [Bool.eq_iff_iff, hw k hk, Bool.and_eq_true]]
    cases h : w k
    · simp
    · simp [hv k hk h]
  · rw [bitAt_of_ge _ (by omega), bitAt_of_ge v' (by omega), bitAt_of_ge (s.reg a) (by omega), ite_self]

/-- A write of the whole of such a register. -/
theorem State.storeReg_stored_whole (s : State) {a : Nat} {m v : Word64} {w : Nat → Bool} (hm : regMask a = (m, 0))
    (hw : ∀ k < 64, w k = true ↔ bitAt m k = true) : s.Stored (s.storeReg a (bits 63 0) v) a w v :=
  s.storeReg_stored hm (fun k hk => by simp [hw k hk]; omega) (fun _ _ _ => rfl)

theorem State.setErr_ignored (s : State) (d : Nat) : s.Ignored (s.setErr d) d := by
  refine ⟨rfl, fun b hb => ?_, fun k => ?_⟩
  · rw [State.setErr, State.reg_setReg, if_neg (Ne.symm hb)]
  · rw [State.setErr, State.reg_setReg, if_pos rfl, bitAt_setBit]
    by_cases hk : k = 63
    · subst hk; rfl
    · simp [hk]

theorem State.setPkgErr_ignored (s : State) : s.PkgIgnored s.setPkgErr := s.setErr_ignored _

theorem State.storeIf_stored (s : State) {ok : Bool} (d : Nat) {a : Nat} {m v : Word64} {w : Nat → Bool} (hok : ok = true)
    (hm : regMask a = (m, 0)) (hw : ∀ k < 64, w k = true ↔ bitAt m k = true) : s.Stored (s.storeIf ok d a v) a w v := by
  rw [State.storeIf, if_pos hok]
  exact s.storeReg_stored_whole hm hw

theorem State.storeIf_ignored (s : State) {ok : Bool} (d a : Nat) (v : Word64) (hok : ok = false) :
    s.Ignored (s.storeIf ok d a v) d := by
  rw [State.storeIf, hok]
  exact s.setErr_ignored d

theorem State.dieReady_of_ready {s : State} {d : Nat} (h : s.boot.stage = 8) (hd : s.sys.off d = false) (t : State) :
    s.dieReady d t = t := if_pos ⟨h, hd⟩

theorem State.dieReady_of_off {s : State} {d : Nat} (hd : s.sys.off d = true) (t : State) : s.dieReady d t = s :=
  if_neg (fun h => by rw [hd] at h; exact absurd h.2 (by decide))

theorem State.dieReady_of_early {s : State} {d : Nat} (h : s.boot.stage ≠ 8) (t : State) : s.dieReady d t = s :=
  if_neg (fun hx => h hx.1)

theorem State.whenReady_of_ready {s : State} (h : s.boot.stage = 8) (t : State) : s.whenReady t = t := if_pos h

theorem State.whenReady_of_early {s : State} (h : s.boot.stage ≠ 8) (t : State) : s.whenReady t = s := if_neg h

theorem State.clusterIdle_iff {s : State} {g : Nat} : s.clusterIdle g = true ↔ s.Idle g := by
  simp [State.clusterIdle, State.Idle, clusterCores, and_assoc]

theorem State.clusterIdle_of_not {s : State} {g : Nat} (h : ¬s.Idle g) : s.clusterIdle g = false := by
  rwa [← State.clusterIdle_iff, Bool.not_eq_true] at h

/-- With every record of a partition written, there is nothing to flush. -/
theorem State.flushFaults_written {s : State} {p : Nat} (h : ∀ f ∈ s.faults, f.part = p → f.written = true) (d : Nat) :
    s.flushFaults d p = s := by
  have : s.faults.filter (fun f => decide (f.part = p) && !f.written) = [] := by
    rw [List.filter_eq_nil_iff]
    intro f hf hx
    simp only [Bool.and_eq_true, decide_eq_true_eq, Bool.not_eq_true'] at hx
    rw [h f hf hx.1] at hx
    exact absurd hx.2 (by decide)
  rw [State.flushFaults, this]
  rfl

end Sys2Proof.Machine
end

section
/-! SUPPORT. The device registers that act on the machine, register by register (15_isolation.md R407 to R424, 11_ordering.md
R299, 13_scheduling.md R356, 16_recovery.md R440, R469), and obligation O45. -/

namespace Sys2Proof.Machine

variable {s : State} {die clu : Nat}

/-! ## CMAP, CPART, the overflow registers and CELLMASK -/

theorem cmapWrite_idle (h8 : s.boot.stage = 8) (hoff : s.sys.off die = false) (hd : die < 2) (hc : clu < 64) (v : Word64)
    (hi : s.Idle (64 * die + clu)) : ∃ t, exec (.cmapWrite die clu v) s = .next t ∧
      (s.repaired [64 * die + clu]).Stored t (dieBlk die (8 * clu)) (fun k => decide (k ≤ 6)) v := by
  refine ⟨_, rfl, ?_⟩
  have hi := State.clusterIdle_iff.mpr hi
  rw [State.dieReady_of_ready h8 hoff, Nat.mod_eq_of_lt hc, hi, if_pos rfl]
  exact State.storeIf_stored _ die rfl (regMask_cmap hd hc) (fun k _ => by simp)

theorem cmapWrite_busy (h8 : s.boot.stage = 8) (hoff : s.sys.off die = false) (hc : clu < 64) (v : Word64)
    (hi : ¬s.Idle (64 * die + clu)) : ∃ t, exec (.cmapWrite die clu v) s = .next t ∧ s.Ignored t die := by
  refine ⟨_, rfl, ?_⟩
  have hi := State.clusterIdle_of_not hi
  rw [State.dieReady_of_ready h8 hoff, Nat.mod_eq_of_lt hc, hi]
  exact State.storeIf_ignored s die _ _ rfl

theorem cpartWrite_eq (h8 : s.boot.stage = 8) (hoff : s.sys.off die = false) (hc : clu < 64) (v : Word64) :
    exec (.cpartWrite die clu v) s =
      .next (s.storeIf (s.clusterIdle (64 * die + clu)) die (dieBlk die (0x1000 + 8 * clu)) v) := by
  change Host.Outcome.next _ = _
  rw [State.dieReady_of_ready h8 hoff, Nat.mod_eq_of_lt hc]

theorem tqovfWrite_eq (h8 : s.boot.stage = 8) (hoff : s.sys.off die = false) (hc : clu < 64) {w : Nat} (hw : w < 2) (v : Word64) :
    exec (.tqovfWrite die clu w v) s =
      .next (s.storeIf (s.clusterIdle (64 * die + clu)) die (dieBlk die (0x5000 + 16 * clu + 8 * w)) v) := by
  change Host.Outcome.next _ = _
  rw [State.dieReady_of_ready h8 hoff, Nat.mod_eq_of_lt hc, Nat.mod_eq_of_lt hw]

/-- A register of a cluster takes a write while the cluster is idle, and ignores it with ERR otherwise. -/
theorem storeIf_idle {g a : Nat} {m v : Word64} {w : Nat → Bool} {i : Instr}
    (hx : exec i s = .next (s.storeIf (s.clusterIdle g) die a v)) (hm : regMask a = (m, 0)) (hw : ∀ k < 64, w k = true ↔ bitAt m k = true) :
    (s.Idle g → ∃ t, exec i s = .next t ∧ s.Stored t a w v) ∧ (¬s.Idle g → ∃ t, exec i s = .next t ∧ s.Ignored t die) :=
  ⟨fun h => ⟨_, hx, s.storeIf_stored die (State.clusterIdle_iff.mpr h) hm hw⟩,
   fun h => ⟨_, hx, s.storeIf_ignored die a v (State.clusterIdle_of_not h)⟩⟩

/-- A stage of CELLMASK above 8 as it is stored (16_recovery.md R469). -/
theorem cappedStage_eq (v : Word64) : (if 8 < field v 3 0 then (v &&& ~~~(bits 3 0)) ||| 8 else v) =
    BitVec.ofNat 64 (v.toNat / 16 * 16 + min 8 (v.toNat % 16)) := by
  have hf : field v 3 0 = v.toNat % 16 := by simp [field]
  rw [hf]
  have hlow : min 8 (v.toNat % 16) < 2 ^ 4 := by omega
  apply word_ext
  intro k hk
  rw [bitAt_ofNat, show v.toNat / 16 * 16 = 2 ^ 4 * (v.toNat / 2 ^ 4) by omega, Nat.testBit_two_pow_mul_add _ hlow,
    Nat.testBit_div_two_pow]
  split
  · rename_i h
    rw [Nat.min_eq_left (by omega), bitAt_or, bitAt_and, bitAt_not, bitAt_bits (by omega) (by omega),
      show (8 : Word64) = BitVec.ofNat 64 8 from rfl, bitAt_ofNat]
    by_cases h4 : k < 4
    · simp [hk, h4, show k ≤ 3 by omega]
    · have h8 : Nat.testBit 8 k = false := Nat.testBit_lt_two_pow (lt_of_lt_of_le (by decide) (Nat.pow_le_pow_right (by decide) (Nat.le_of_not_lt h4)))
      simp [hk, h4, show ¬ k ≤ 3 by omega, h8, bitAt_eq_testBit, show k - 4 + 4 = k by omega]
  · rename_i h
    rw [Nat.min_eq_right (by omega), bitAt_eq_testBit]
    by_cases h4 : k < 4
    · rw [if_pos h4, show 16 = 2 ^ 4 by rfl, Nat.testBit_mod_two_pow]
      simp [hk, h4]
    · simp [hk, h4, show k - 4 + 4 = k by omega]

/-- Every logical cluster mapped to a position is idle. -/
theorem mapped_idle_iff (pos : Nat) : ((s.mapped die pos).map (fun l => 64 * die + l)).all (fun g => s.clusterIdle g) = true ↔
    ∀ l < 64, field (s.reg (dieBlk die (8 * l))) 6 0 = pos → s.Idle (64 * die + l) := by
  simp [State.mapped, State.clusterIdle_iff, imp_iff_not_or]

theorem cellmaskWrite_idle (h8 : s.boot.stage = 8) (hoff : s.sys.off die = false) (hd : die < 2) {pos core : Nat} (hp : pos < 68)
    (hc : core < 16) (v : Word64) (hi : ∀ l < 64, field (s.reg (dieBlk die (8 * l))) 6 0 = pos → s.Idle (64 * die + l)) :
    ∃ t, exec (.cellmaskWrite die pos core v) s = .next t ∧
      (s.repaired ((s.mapped die pos).map (fun l => 64 * die + l))).Stored t (dieBlk die (0x8000 + 8 * (16 * pos + core)))
        (fun k => decide (k ≤ 4)) (BitVec.ofNat 64 (v.toNat / 16 * 16 + min 8 (v.toNat % 16))) := by
  refine ⟨_, rfl, ?_⟩
  have hi := (mapped_idle_iff pos).mpr hi
  rw [State.dieReady_of_ready h8 hoff, Nat.mod_eq_of_lt hc, hi, if_pos rfl, cappedStage_eq]
  exact State.storeIf_stored _ die rfl (regMask_cellmask hd hp hc) (fun k _ => by simp)

theorem cellmaskWrite_busy (h8 : s.boot.stage = 8) (hoff : s.sys.off die = false) {pos core : Nat} (v : Word64)
    (hi : ¬∀ l < 64, field (s.reg (dieBlk die (8 * l))) 6 0 = pos → s.Idle (64 * die + l)) :
    ∃ t, exec (.cellmaskWrite die pos core v) s = .next t ∧ s.Ignored t die := by
  refine ⟨_, rfl, ?_⟩
  have hi := Bool.eq_false_iff.mpr (fun h => hi ((mapped_idle_iff pos).mp h))
  rw [State.dieReady_of_ready h8 hoff, hi]
  exact State.storeIf_ignored s die _ _ rfl

/-! ## SYNOVF, QBIND and the expansion windows -/

theorem inArea_eq_nil_iff : (s.mem.inArea die).isEmpty = true ↔ ∀ p ∈ s.mem.granules, homeOf (8 * p.1) = die → p.2.area = none := by
  simp [Mem.inArea, List.filter_eq_nil_iff]

theorem synovfWrite_eq (h8 : s.boot.stage = 8) (hoff : s.sys.off die = false) (v : Word64) :
    exec (.synovfWrite die v) s = .next (s.storeIf (s.mem.inArea die).isEmpty die (dieBlk die 0x6000) v) := by
  change Host.Outcome.next _ = _
  rw [State.dieReady_of_ready h8 hoff]

theorem qbindWrite_eq (h8 : s.boot.stage = 8) (hoff : s.sys.off die = false) {q : Nat} (hq : q < 64) (v : Word64) :
    exec (.qbindWrite die q v) s = .next (s.storeReg (dieBlk die (0x2000 + 16 * q)) (bits 63 0) v) := by
  change Host.Outcome.next _ = _
  rw [State.dieReady_of_ready h8 hoff, Nat.mod_eq_of_lt hq]

theorem expwWrite_base_eq (h8 : s.boot.stage = 8) (part : Nat) (v : Word64) :
    exec (.expwWrite part 0 v) s = .next (s.storeReg (pkgBlk (0x62000 + 16 * part)) (bits 63 0) v) := by
  change Host.Outcome.next _ = _
  rw [State.whenReady_of_ready h8]
  rfl

theorem expwWrite_size_eq (h8 : s.boot.stage = 8) (part : Nat) (v : Word64) :
    exec (.expwWrite part 1 v) s =
      .next (s.storeReg (pkgBlk (0x62008 + 16 * part)) (bits 63 0) (if 131072 < field v 17 0 then 131072 else v)) := by
  change Host.Outcome.next _ = _
  rw [State.whenReady_of_ready h8, show pkgBlk (0x62000 + 16 * part + 8 * (1 % 2)) = pkgBlk (0x62008 + 16 * part) by unfold pkgBlk; omega]
  simp

/-- The low 18 bits of a window's size, at most 131,072. -/
theorem cappedWindow_bit (v : Word64) {k : Nat} (hk : k ≤ 17) :
    bitAt (if 131072 < field v 17 0 then 131072 else v) k = bitAt (BitVec.ofNat 64 (min 131072 (v.toNat % 2 ^ 18))) k := by
  have hf : field v 17 0 = v.toNat % 2 ^ 18 := by simp [field]
  rw [hf]
  split
  · rw [Nat.min_eq_left (by omega)]
    rfl
  · rw [Nat.min_eq_right (by omega), bitAt_ofNat, Nat.testBit_mod_two_pow, bitAt_eq_testBit]
    simp [show k < 64 by omega, show k < 18 by omega]

/-! ## REGSEL -/

theorem regselWrite_same {g : Nat} (v : Word64) (hi : s.Idle g) (hr : s.regulator g = field v 1 0) :
    exec (.regselWrite g v) s = .next s := by
  change Host.Outcome.next _ = _
  dsimp only
  rw [State.clusterIdle_iff.mpr hi, if_neg (by decide), if_pos hr]
  simp [State.whenReady]

theorem regselWrite_busy (h8 : s.boot.stage = 8) {g : Nat} (v : Word64) (hi : ¬s.Idle g) :
    ∃ t, exec (.regselWrite g v) s = .next t ∧ s.PkgIgnored t := by
  refine ⟨_, rfl, ?_⟩
  dsimp only
  rw [State.whenReady_of_ready h8, State.clusterIdle_of_not hi, if_pos (by decide)]
  exact s.setPkgErr_ignored

theorem regselWrite_switch (h8 : s.boot.stage = 8) {g : Nat} (hg : g < 128) (v : Word64) (hi : s.Idle g)
    (hr : s.regulator g ≠ field v 1 0) :
    ∃ t, exec (.regselWrite g v) s = .next t ∧ t.regulator g = field v 1 0 ∧ (∀ j, j ≠ g → t.regulator j = s.regulator j) ∧
      (g, field v 1 0) ∈ t.sys.switching ∧ t.schedules g = false ∧
      t = { s with regs := t.regs, sys := { s.sys with runs := t.sys.runs, switching := t.sys.switching } } := by
  refine ⟨_, rfl, ?_⟩
  dsimp only
  rw [State.whenReady_of_ready h8, State.clusterIdle_iff.mpr hi, if_neg (by decide), if_neg hr]
  obtain ⟨hrest, hother, hbits⟩ := (s.unsteady (s.regulator g)).storeReg_stored_whole (v := v) (w := fun k => decide (k ≤ 1)) (regMask_regsel hg)
    (fun k _ => by simp)
  generalize (s.unsteady (s.regulator g)).storeReg (pkgBlk (0x1000 + 8 * g)) (bits 63 0) v = t at hrest hother hbits ⊢
  refine ⟨?_, fun j hj => ?_, ?_, ?_, ?_⟩
  · exact field_congr (by omega) (fun k _ hk => (hbits k).trans (by simp [hk]))
  · exact congrArg (fun x => field x 1 0) (hother _ (by unfold pkgBlk; omega))
  · simp
  · simp [State.schedules]
  · rw [hrest]; rfl

/-! ## FSCFG -/

/-- Writing slots back leaves the slot tables alone. -/
theorem Mem.writeBackSlot_slots (m : Mem) (st b f : Nat) (e : SlotEnt) : (m.writeBackSlot st b f e).slots = m.slots := by
  unfold Mem.writeBackSlot
  dsimp only
  split
  · simp only [Mem.moveRow, Mem.bankOp]
  · rfl

theorem Mem.foldl_slots {α : Type} (f : Mem → α → Mem) (hf : ∀ m a, (f m a).slots = m.slots) (l : List α) (m : Mem) :
    (l.foldl f m).slots = m.slots := by
  induction l generalizing m with
  | nil => rfl
  | cons a r ih => exact (ih _).trans (hf m a)

theorem SMap.find?_filter {α : Type} (m : SMap α) (p : Nat → Bool) (k : Nat) :
    SMap.find? (m.filter (fun x => p x.1)) k = if p k then SMap.find? m k else none := by
  induction m with
  | nil => simp [SMap.find?]
  | cons x r ih =>
    obtain ⟨j, v⟩ := x
    rw [List.filter_cons]
    by_cases hj : j = k
    · subst hj
      cases hp : p j <;> simp [hp, SMap.find?, ih]
    · cases hp : p j <;> simp [SMap.find?, ih, hj]

theorem slotKey_bank {st b f : Nat} (hf : f < 1024) : slotKey st b f / 1024 = 4096 * st + b := by
  unfold slotKey
  omega

theorem Mem.loseRow_slots (m : Mem) (p : Place) (seed : Nat) : (m.loseRow p seed).slots = m.slots := by simp only [Mem.loseRow]

/-- FSCFG changes its own register and the memory behind the bank, whose slots are gone. -/
theorem fscfgWrite_eq (h8 : s.boot.stage = 8) (stack bank : Nat) (v : Word64) :
    ∃ m : Mem, exec (.fscfgWrite stack bank v) s = .next (({ s with mem := m } : State).setReg (baseBlk stack (0x100000 + 8 * bank))
        (BitVec.ofNat 64 (min 1024 (v.toNat % 2 ^ 11)))) ∧
      m.slots = s.mem.slots.filter (fun p => !decide (p.1 / 1024 = 4096 * stack + bank)) := by
  refine ⟨_, congrArg Host.Outcome.next (State.whenReady_of_ready h8 _), ?_⟩
  rw [Mem.foldl_slots _ (fun m f => m.loseRow_slots _ _)]
  exact congrArg (List.filter _) (Mem.foldl_slots _ (fun m p => m.writeBackSlot_slots _ _ _ _) _ _)

theorem fscfgWrite_effect (h8 : s.boot.stage = 8) {stack bank : Nat} (hb : bank < 4096) (v : Word64) :
    ∃ t, exec (.fscfgWrite stack bank v) s = .next t ∧ t.slotsOf stack bank = min 1024 (v.toNat % 2048) ∧
      (∀ f < 1024, t.slotAt stack bank f = none) ∧
      ∀ st b f, b < 4096 → f < 1024 → ¬(st = stack ∧ b = bank) →
        t.slotsOf st b = s.slotsOf st b ∧ t.slotAt st b f = s.slotAt st b f := by
  obtain ⟨m, hx, hm⟩ := fscfgWrite_eq h8 stack bank v
  have hat : ∀ st b f, f < 1024 → SMap.find? m.slots (slotKey st b f) =
      if 4096 * st + b = 4096 * stack + bank then none else s.slotAt st b f := by
    intro st b f hf
    rw [hm, SMap.find?_filter s.mem.slots (fun k => !decide (k / 1024 = 4096 * stack + bank)), slotKey_bank hf]
    by_cases h : 4096 * st + b = 4096 * stack + bank <;> simp [h, State.slotAt]
  refine ⟨_, hx, ?_, fun f hf => (hat stack bank f hf).trans (if_pos rfl), fun st b f hb' hf hne => ⟨?_, ?_⟩⟩
  · rw [State.slotsOf, State.reg_setReg, if_pos rfl, field, BitVec.toNat_ofNat]
    omega
  · rw [State.slotsOf, State.reg_setReg, if_neg (by unfold baseBlk; omega)]
    rfl
  · exact (hat st b f hf).trans (if_neg (by omega))

/-! ## SYNC and the fault queues -/

theorem sync_effect (h8 : s.boot.stage = 8) :
    ∃ t, exec (.sync 1) s = .next t ∧ t.regs = s.regs ∧ ∀ a, t.rangeWord a = s.reg a :=
  ⟨{ s with sys := { s.sys with rangeOld := [] } }, congrArg _ (State.whenReady_of_ready h8 _), rfl, fun _ => rfl⟩

theorem sync_other {v : Word64} (hv : v ≠ 1) : exec (.sync v) s = .next s := by
  change Host.Outcome.next _ = _
  rw [if_neg hv]
  simp [State.whenReady]

/-- A write of bytes of a fault-queue register with nothing left to flush. -/
theorem faultqStore_stored {part off : Nat} {m en v v' : Word64} {w : Nat → Bool} (hm : regMask (faultReg part off) = (m, 0))
    (hf : ∀ f ∈ s.faults, f.part = part → f.written = true) (hw : ∀ k < 64, w k = true ↔ bitAt m k = true ∧ bitAt en k = true)
    (hv : ∀ k < 64, w k = true → bitAt v k = bitAt v' k) :
    s.Stored ((s.storeReg (faultReg part off) en v).flushFaults s.onDie part) (faultReg part off) w v' := by
  have hflush : ∀ f ∈ (s.storeReg (faultReg part off) en v).faults, f.part = part → f.written = true := by
    rw [State.storeReg_only]
    exact hf
  rw [State.flushFaults_written hflush]
  exact s.storeReg_stored hm hw hv

/-- A fault queue takes a write that names neither BASE nor CAP, or any write while HEAD = TAIL. -/
theorem faultqWrite_taken {part off : Nat} {en : Word64} (v : Word64)
    (h : field (s.reg (faultReg part 16)) 31 0 = field (s.reg (faultReg part 16)) 63 32 ∨ off ≠ 0 ∧ en &&& bits 31 0 = 0) :
    s.faultqWrite part off en v = (s.storeReg (faultReg part off) en v).flushFaults s.onDie part := by
  unfold State.faultqWrite
  dsimp only
  rw [if_neg]
  rintro ⟨hne, hg⟩
  rcases h with h | ⟨h0, hen⟩
  · exact hne h
  · rw [if_neg h0, hen] at hg
    exact absurd hg (by decide)

/-- ERR in the package's DSTAT after an update that has left every register as it was. -/
theorem State.setPkgErr_ignored_of {u : State} (h : u = { s with regs := u.regs }) (hr : ∀ b, u.reg b = s.reg b) :
    s.PkgIgnored u.setPkgErr := by
  have hu := u.setPkgErr_ignored
  have hoff : u.sys = s.sys := by rw [h]
  unfold State.PkgIgnored State.Ignored at hu ⊢
  rw [hoff] at hu
  obtain ⟨hrest, hother, hbit⟩ := hu
  refine ⟨?_, fun b hb => (hother b hb).trans (hr b), fun k => (hbit k).trans (by rw [hr])⟩
  rw [hrest, h]

theorem State.reg_storeReg_none (a b : Nat) (v : Word64) : (s.storeReg a 0 v).reg b = s.reg b := by
  by_cases h : b = a
  · subst h
    apply word_ext
    intro k hk
    rw [s.bitAt_storeReg 0 v rfl hk]
    simp
  · exact s.reg_storeReg_other 0 v h

/-- BASE and CAP of a fault queue are not written while HEAD differs from TAIL. -/
theorem faultqWrite_refused {part off : Nat} {en : Word64} (v : Word64)
    (h : field (s.reg (faultReg part 16)) 31 0 ≠ field (s.reg (faultReg part 16)) 63 32)
    (hg : off = 0 ∨ en &&& bits 31 0 ≠ 0 ∧ en &&& bits 63 32 = 0) : s.PkgIgnored (s.faultqWrite part off en v) := by
  unfold State.faultqWrite
  dsimp only
  rcases hg with rfl | ⟨hen, hhi⟩
  · rw [if_pos ⟨h, if_pos rfl⟩]
    exact s.setPkgErr_ignored
  · rw [if_pos ⟨h, by split; exacts [rfl, decide_eq_true hen]⟩, hhi]
    split
    · exact s.setPkgErr_ignored
    · exact State.setPkgErr_ignored_of (s.storeReg_only _ _ _) (fun b => State.reg_storeReg_none _ b v)

theorem faultqConfigWrite_eq (h8 : s.boot.stage = 8) (part : Nat) (v : Word64) :
    exec (.faultqConfigWrite part 0 v) s = .next (s.faultqWrite part 0 (bits 63 0) v) ∧
    exec (.faultqConfigWrite part 8 v) s = .next (s.faultqWrite part 8 (bits 31 0) v) ∧
    exec (.faultqConfigWrite part 12 v) s = .next (s.faultqWrite part 8 (bits 63 32) (v <<< 32)) :=
  ⟨congrArg _ (State.whenReady_of_ready h8 _), congrArg _ (State.whenReady_of_ready h8 _), congrArg _ (State.whenReady_of_ready h8 _)⟩

theorem faultQueueHeadWrite_eq (h8 : s.boot.stage = 8) (part : Nat) (v : Word64) :
    exec (.faultQueueHeadWrite part v) s =
      .next ((s.storeReg (faultReg part 16) (bits 31 0) v).flushFaults s.onDie part) :=
  congrArg _ (State.whenReady_of_ready h8 _)

theorem faultqWrites_taken (h8 : s.boot.stage = 8) {part : Nat} (hp : part < 16) (v : Word64)
    (hf : ∀ f ∈ s.faults, f.part = part → f.written = true) :
    (field (s.reg (faultReg part 16)) 31 0 = field (s.reg (faultReg part 16)) 63 32 →
      (∃ t, exec (.faultqConfigWrite part 0 v) s = .next t ∧ s.Stored t (faultReg part 0) (fun k => decide (5 ≤ k ∧ k ≤ 47)) v) ∧
      ∃ t, exec (.faultqConfigWrite part 8 v) s = .next t ∧ s.Stored t (faultReg part 8) (fun k => decide (k ≤ 31)) v) ∧
    (∃ t, exec (.faultqConfigWrite part 12 v) s = .next t ∧
      s.Stored t (faultReg part 8) (fun k => decide (k = 63 ∨ 32 ≤ k ∧ k ≤ 42)) (v <<< 32)) ∧
    ∃ t, exec (.faultQueueHeadWrite part v) s = .next t ∧ s.Stored t (faultReg part 16) (fun k => decide (k ≤ 31)) v := by
  obtain ⟨hbase, hcap, hvec⟩ := faultqConfigWrite_eq h8 part v
  have mBase : regMask (faultReg part 0) = (bits 47 5, 0) := regMask_faultq hp (by omega)
  have mCap : regMask (faultReg part 8) = (bits 63 63 ||| bits 42 0, 0) := regMask_faultq hp (by omega)
  have mHead : regMask (faultReg part 16) = (bits 31 0, 0) := regMask_faultq hp (by omega)
  refine ⟨fun hht => ⟨⟨_, hbase, ?_⟩, ⟨_, hcap, ?_⟩⟩, ⟨_, hvec, ?_⟩, ⟨_, faultQueueHeadWrite_eq h8 part v, ?_⟩⟩
  · rw [faultqWrite_taken v (.inl hht)]
    exact faultqStore_stored mBase hf
      (fun k _ => by simp; omega) (fun _ _ _ => rfl)
  · rw [faultqWrite_taken v (.inl hht)]
    exact faultqStore_stored mCap hf
      (fun k _ => by simp; omega)
      (fun _ _ _ => rfl)
  · rw [faultqWrite_taken (v <<< 32) (.inr ⟨by decide, by decide⟩)]
    exact faultqStore_stored mCap hf
      (fun k _ => by simp; omega)
      (fun _ _ _ => rfl)
  · exact faultqStore_stored mHead hf (fun k _ => by simp) (fun _ _ _ => rfl)

theorem faultqWrites_refused (h8 : s.boot.stage = 8) (part : Nat) (v : Word64)
    (h : field (s.reg (faultReg part 16)) 31 0 ≠ field (s.reg (faultReg part 16)) 63 32) :
    ∀ off ∈ [0, 8], ∃ t, exec (.faultqConfigWrite part off v) s = .next t ∧ s.PkgIgnored t := by
  obtain ⟨hbase, hcap, -⟩ := faultqConfigWrite_eq h8 part v
  simp only [List.forall_mem_cons, List.not_mem_nil, false_imp_iff, implies_true, and_true]
  exact ⟨⟨_, hbase, faultqWrite_refused v h (.inl rfl)⟩, ⟨_, hcap, faultqWrite_refused v h (.inr ⟨by decide, by decide⟩)⟩⟩

/-! ## The obligation -/

theorem registerWrite_early (h : s.boot.stage ≠ 8) (core stack bank q part : Nat) (v : Word64) :
    ∀ i ∈ ([.cmapWrite die clu v, .cpartWrite die clu v, .tqovfWrite die clu 0 v, .tqovfWrite die clu 1 v,
      .cellmaskWrite die clu core v, .synovfWrite die v, .qbindWrite die q v] : List Instr) ++
      [.expwWrite part 0 v, .expwWrite part 1 v, .regselWrite (64 * die + clu) v, .fscfgWrite stack bank v, .sync v,
      .faultqConfigWrite part 0 v, .faultqConfigWrite part 8 v, .faultqConfigWrite part 12 v, .faultQueueHeadWrite part v],
      exec i s = .next s := by
  simp only [List.cons_append, List.nil_append, List.forall_mem_cons, List.not_mem_nil, false_imp_iff, implies_true, and_true]
  have hd : ∀ t, Host.Outcome.next (s.dieReady die t) = (.next s : Answer) := fun t => congrArg _ (State.dieReady_of_early h t)
  have hp : ∀ t, Host.Outcome.next (s.whenReady t) = (.next s : Answer) := fun t => congrArg _ (State.whenReady_of_early h t)
  exact ⟨hd _, hd _, hd _, hd _, hd _, hd _, hd _, hp _, hp _, hp _, hp _, hp _, hp _, hp _, hp _, hp _⟩

theorem registerWrite_off (h : s.sys.off die = true) (core q : Nat) (v : Word64) :
    ∀ i ∈ ([.cmapWrite die clu v, .cpartWrite die clu v, .tqovfWrite die clu 0 v, .tqovfWrite die clu 1 v,
      .cellmaskWrite die clu core v, .synovfWrite die v, .qbindWrite die q v] : List Instr), exec i s = .next s := by
  simp only [List.forall_mem_cons, List.not_mem_nil, false_imp_iff, implies_true, and_true]
  have hd : ∀ t, Host.Outcome.next (s.dieReady die t) = (.next s : Answer) := fun t => congrArg _ (State.dieReady_of_off h t)
  exact ⟨hd _, hd _, hd _, hd _, hd _, hd _, hd _⟩

theorem regulatorSwitchDone_effect : ∃ t, exec .regulatorSwitchDone s = .next t ∧
    t = { s with sys := { s.sys with switching := t.sys.switching } } ∧
    ∀ p, p ∈ t.sys.switching ↔ p ∈ s.sys.switching ∧ p.1 ≠ s.cur.clu :=
  ⟨_, rfl, rfl, fun p => by simp⟩

/-- Settles O45: the writes that act, register by register. -/
theorem deviceRegisters : Obligations.DeviceRegisters := by
  intro s die clu core stack bank q part v hd hc hcore hstack hbank hq hpart
  refine ⟨fun h => registerWrite_early h core stack bank q part v, fun h => registerWrite_off h core q v, regulatorSwitchDone_effect,
    fun h8 hoff => ⟨cmapWrite_idle h8 hoff hd hc v, cmapWrite_busy h8 hoff hc v, ?_, fun pos hpos => ⟨?_, ?_⟩, fun h => ?_, fun h => ?_,
      ⟨_, qbindWrite_eq h8 hoff hq v, ?_⟩, ⟨_, expwWrite_base_eq h8 part v, ?_⟩, ⟨_, expwWrite_size_eq h8 part v, ?_⟩,
      regselWrite_same v, regselWrite_switch h8 (by omega) v, regselWrite_busy h8 v, fscfgWrite_effect h8 hbank v, sync_effect h8,
      sync_other, faultqWrites_taken h8 hpart v, faultqWrites_refused h8 part v⟩⟩
  · simp only [List.forall_mem_cons, List.not_mem_nil, false_imp_iff, implies_true, and_true]
    exact ⟨storeIf_idle (cpartWrite_eq h8 hoff hc v) (regMask_cpart hd hc)
        (fun k _ => by simp; omega),
      storeIf_idle (tqovfWrite_eq h8 hoff hc (by omega) v) (regMask_tqovf_base hd hc)
        (fun k _ => by simp),
      storeIf_idle ((tqovfWrite_eq h8 hoff hc (by omega) v).trans (by rw [show 0x5000 + 16 * clu + 8 * 1 = 0x5008 + 16 * clu by omega]))
        (regMask_tqovf_cap hd hc) (fun k _ => by simp)⟩
  · exact cellmaskWrite_idle h8 hoff hd hpos hcore v
  · exact cellmaskWrite_busy h8 hoff v
  · exact ⟨_, synovfWrite_eq h8 hoff v, s.storeIf_stored die (inArea_eq_nil_iff.mpr h) (regMask_synovf hd) (fun k _ => by simp; omega)⟩
  · obtain ⟨p, hp, hhome, harea⟩ := h
    exact ⟨_, synovfWrite_eq h8 hoff v, s.storeIf_ignored die _ v
      (Bool.eq_false_iff.mpr (fun he => harea (inArea_eq_nil_iff.mp he p hp hhome)))⟩
  · exact s.storeReg_stored_whole (regMask_qbind hd hq) (fun k _ => by simp; omega)
  · exact s.storeReg_stored_whole (regMask_expw_base hpart) (fun k _ => by simp)
  · exact s.storeReg_stored (regMask_expw_size hpart)
      (fun k _ => by simp; omega)
      (fun k _ hw => cappedWindow_bit v (of_decide_eq_true hw))

end Sys2Proof.Machine
end

section
/-! SUPPORT. Register writes: the bytes of a write as a word, and the event of each register that acts (00_scope.md R6,
15_isolation.md R405, R430, 25_physical.md R530). -/

namespace Sys2Proof.Machine

/-! ## Bytes of a write -/

theorem length_bytesOf (n v : Nat) : (bytesOf n v).length = n := by
  induction n generalizing v with
  | zero => rfl
  | succ n ih => simp [bytesOf, ih]

theorem ofBytes_bytesOf (n v : Nat) : ofBytes (bytesOf n v) = v % 256 ^ n := by
  induction n generalizing v with
  | zero => simp [bytesOf, ofBytes, Nat.mod_one]
  | succ n ih =>
    rw [bytesOf, ofBytes, ih, BitVec.toNat_ofNat, pow_succ' 256 n, Nat.mod_mul (x := v) (a := 256) (b := 256 ^ n)]

theorem word_addr {a : Nat} (ha : a % 8 = 0) : a / 8 * 8 = a := Nat.div_mul_cancel (Nat.dvd_of_mod_eq_zero ha)

/-- A whole word put in place. -/
theorem placed_word {a : Nat} (ha : a % 8 = 0) (v : Word64) : placed a 8 (bytesOf 8 v.toNat) = (bits 63 0, v) := by
  have htake : (bytesOf 8 v.toNat).take 8 = bytesOf 8 v.toNat := List.take_of_length_le (length_bytesOf _ _).le
  have hv : v.toNat % 256 ^ 8 = v.toNat := Nat.mod_eq_of_lt (by have := v.isLt; omega)
  rw [placed, ha, htake, ofBytes_bytesOf, hv, Nat.mul_zero, pow_zero, Nat.mul_one, BitVec.ofNat_toNat, BitVec.setWidth_eq]
  rfl

/-- A write of every byte of a register leaves nothing of the old value. -/
theorem whole_word (old v : Word64) : ((old &&& ~~~(bits 63 0)) ||| (v &&& bits 63 0)) = v := by
  refine word_ext fun k hk => ?_
  simp [hk, show k ≤ 63 by omega]

theorem and_whole_word (v : Word64) : v &&& bits 63 0 = v := by
  refine word_ext fun k hk => ?_
  simp [show k ≤ 63 by omega]

theorem State.regWrite_of_empty (s : State) (a k : Nat) : s.regWrite a [] k = s := by
  cases k with
  | zero => rfl
  | succ k => simp [State.regWrite]

/-- A write of bytes within one register. -/
theorem State.regWrite_of_fits (s : State) {a k : Nat} {b : List Byte} (hb : b ≠ []) (hf : b.length ≤ 8 - a % 8) :
    s.regWrite a b (k + 1) = if s.reachable a then s.regWriteAt a b.length b else s := by
  rw [State.regWrite, Nat.min_eq_left hf, if_neg (by simpa using hb), List.drop_length, State.regWrite_of_empty]

/-- A write of a whole register. -/
theorem State.regWrite_word (s : State) {a : Nat} (ha : a % 8 = 0) (v : Word64) :
    s.regWrite a (bytesOf 8 v.toNat) 2 = if s.reachable a then s.regWriteAt a 8 (bytesOf 8 v.toNat) else s := by
  rw [s.regWrite_of_fits (by simp [bytesOf]) (by rw [length_bytesOf]; omega), length_bytesOf]

/-! ## The registers that act -/

variable {s : State}

/-- At READY a write of a whole register reaches it. -/
theorem registerWrite_word (hp : s.boot.powered = true) (h8 : s.boot.stage = 8) {a : Nat} (hq : quarter a = 2) (ha : a % 8 = 0)
    (v : Word64) : exec (.registerWrite a 8 v) s = .next (s.regWriteAt a 8 (bytesOf 8 v.toNat)) := by
  change Host.Outcome.next _ = _
  rw [if_pos (by simp [hq, hp]), s.regWrite_word ha, if_pos (by simp [State.reachable, h8])]

theorem regWriteAt_die {a d o : Nat} (ha : a % 8 = 0) (hb : blockOf a = .die d o) (v : Word64) :
    s.regWriteAt a 8 (bytesOf 8 v.toNat) = if s.sys.off d then s else s.dieWrite d o (bits 63 0) v := by
  unfold State.regWriteAt
  rw [placed_word ha, word_addr ha, hb]

theorem regWriteAt_pkg {a o : Nat} (ha : a % 8 = 0) (hb : blockOf a = .pkg o) (ho : o < 0xA9000) (v : Word64) :
    s.regWriteAt a 8 (bytesOf 8 v.toNat) = s.pkgWrite o (bits 63 0) v := by
  unfold State.regWriteAt
  rw [placed_word ha, word_addr ha, hb]
  simp (disch := omega) only [if_neg]

theorem regWriteAt_base {a k o : Nat} (ha : a % 8 = 0) (hb : blockOf a = .base k o) (ho : 0x100000 ≤ o ∧ o < 0x108000) (v : Word64) :
    s.regWriteAt a 8 (bytesOf 8 v.toNat) = s.after (execFscfgWrite k ((o - 0x100000) / 8) v s) := by
  unfold State.regWriteAt
  rw [placed_word ha, word_addr ha, hb]
  dsimp only
  rw [if_pos ho, whole_word]

theorem regWriteAt_arb {a k o : Nat} (ha : a % 8 = 0) (hb : blockOf a = .arb k o) (v : Word64) :
    s.regWriteAt a 8 (bytesOf 8 v.toNat) = s.storeReg a (bits 63 0) v := by
  unfold State.regWriteAt
  rw [placed_word ha, word_addr ha, hb]

theorem dieBlk_mod_eight (d : Nat) {o : Nat} (h : o % 8 = 0) : dieBlk d o % 8 = 0 := by unfold dieBlk; omega
theorem pkgBlk_mod_eight {o : Nat} (h : o % 8 = 0) : pkgBlk o % 8 = 0 := by unfold pkgBlk; omega
theorem baseBlk_mod_eight (k : Nat) {o : Nat} (h : o % 8 = 0) : baseBlk k o % 8 = 0 := by unfold baseBlk; omega
theorem arbBlk_mod_eight (a : Nat) {o : Nat} (h : o % 8 = 0) : arbBlk a o % 8 = 0 := by unfold arbBlk; omega

theorem quarter_dieBlk {d o : Nat} (hd : d < 2) (ho : o < 0x8000000) : quarter (dieBlk d o) = 2 := by unfold quarter dieBlk; omega
theorem quarter_pkgBlk {o : Nat} (ho : o < 0x80000000) : quarter (pkgBlk o) = 2 := by unfold quarter pkgBlk; omega
theorem quarter_baseBlk {k o : Nat} (hk : k < 12) (ho : o < 0x10000000) : quarter (baseBlk k o) = 2 := by unfold quarter baseBlk; omega
theorem quarter_arbBlk {a o : Nat} (ha : a < 12) (ho : o < 0x100000) : quarter (arbBlk a o) = 2 := by unfold quarter arbBlk; omega

theorem State.next_after {a : Answer} (h : Answers a) : (Host.Outcome.next (s.after a) : Answer) = a := by
  obtain ⟨t, rfl⟩ := h
  rfl

/-- A register of a die block whose write is an event. -/
theorem registerWrite_die (hp : s.boot.powered = true) (h8 : s.boot.stage = 8) {d o : Nat} (hd : d < 2) (ho : o < 0x8000000)
    (h : o % 8 = 0) (hoff : s.sys.off d = false) {i : Instr} {v : Word64} (hw : s.dieWrite d o (bits 63 0) v = s.after (exec i s)) :
    exec (.registerWrite (dieBlk d o) 8 v) s = exec i s := by
  rw [registerWrite_word hp h8 (quarter_dieBlk hd ho) (dieBlk_mod_eight d h), regWriteAt_die (dieBlk_mod_eight d h) (blockOf_dieBlk hd ho), hoff, if_neg (by decide), hw,
    State.next_after (exec_answers i s)]

/-- A register of the package block whose write is an event. -/
theorem registerWrite_pkg (hp : s.boot.powered = true) (h8 : s.boot.stage = 8) {o : Nat} (ho : o < 0xA9000)
    (h : o % 8 = 0) {i : Instr} {v : Word64} (hw : s.pkgWrite o (bits 63 0) v = s.after (exec i s)) :
    exec (.registerWrite (pkgBlk o) 8 v) s = exec i s := by
  rw [registerWrite_word hp h8 (quarter_pkgBlk (by omega)) (pkgBlk_mod_eight h), regWriteAt_pkg (pkgBlk_mod_eight h) (blockOf_pkgBlk (by omega)) ho, hw,
    State.next_after (exec_answers i s)]

section
variable (s) (v : Word64)

theorem dieWrite_cmap (d : Nat) {l : Nat} (hl : l < 64) :
    s.dieWrite d (8 * l) (bits 63 0) v = s.after (exec (.cmapWrite d l v) s) := by
  unfold State.dieWrite
  dsimp only
  rw [whole_word, if_pos (by omega), show 8 * l / 8 = l by omega]
  rfl

theorem dieWrite_cpart (d : Nat) {l : Nat} (hl : l < 64) :
    s.dieWrite d (0x1000 + 8 * l) (bits 63 0) v = s.after (exec (.cpartWrite d l v) s) := by
  unfold State.dieWrite
  dsimp only
  rw [whole_word, if_neg (by omega), if_pos (by omega), show (0x1000 + 8 * l - 0x1000) / 8 = l by omega]
  rfl

theorem dieWrite_qbind (d : Nat) {q : Nat} (hq : q < 64) :
    s.dieWrite d (0x2000 + 16 * q) (bits 63 0) v = s.after (exec (.qbindWrite d q v) s) := by
  unfold State.dieWrite
  dsimp only
  rw [whole_word, if_neg (by omega), if_neg (by omega), if_pos (by omega), show (0x2000 + 16 * q - 0x2000) / 16 = q by omega]
  rfl

theorem dieWrite_leaserev (d : Nat) : s.dieWrite d 0x3100 (bits 63 0) v = s.after (exec (.leaserev d v) s) := rfl

theorem dieWrite_tqovf (d : Nat) {l w : Nat} (hl : l < 64) (hw : w < 2) :
    s.dieWrite d (0x5000 + 16 * l + 8 * w) (bits 63 0) v = s.after (exec (.tqovfWrite d l w v) s) := by
  unfold State.dieWrite
  simp (disch := omega) only [whole_word, if_neg, if_pos]
  rw [show (0x5000 + 16 * l + 8 * w - 0x5000) / 16 = l by omega, show (0x5000 + 16 * l + 8 * w) % 16 / 8 = w by omega]
  rfl

theorem dieWrite_synovf (d : Nat) : s.dieWrite d 0x6000 (bits 63 0) v = s.after (exec (.synovfWrite d v) s) := by
  unfold State.dieWrite
  simp (disch := omega) only [whole_word, if_neg]
  rfl

theorem dieWrite_cellmask (d : Nat) {p c : Nat} (hp : p < 68) (hc : c < 16) :
    s.dieWrite d (0x8000 + 8 * (16 * p + c)) (bits 63 0) v = s.after (exec (.cellmaskWrite d p c v) s) := by
  unfold State.dieWrite
  simp (disch := omega) only [whole_word, if_neg, if_pos]
  rw [show (0x8000 + 8 * (16 * p + c) - 0x8000) / 128 = p by omega, show (0x8000 + 8 * (16 * p + c) - 0x8000) / 8 % 16 = c by omega]
  rfl

theorem pkgWrite_regsel {l : Nat} (hl : l < 128) :
    s.pkgWrite (0x1000 + 8 * l) (bits 63 0) v = s.after (exec (.regselWrite l v) s) := by
  unfold State.pkgWrite
  simp (disch := omega) only [whole_word, if_pos]
  rw [show (0x1000 + 8 * l - 0x1000) / 8 = l by omega]
  rfl

theorem pkgWrite_sync : s.pkgWrite 0x11000 (bits 63 0) v = s.after (exec (.sync v) s) := rfl

theorem pkgWrite_faultq (h8 : s.boot.stage = 8) {c : Nat} (hc : c < 16) :
    s.pkgWrite (0x30000 + 64 * c + 0) (bits 63 0) v = s.after (exec (.faultqConfigWrite c 0 v) s) := by
  unfold State.pkgWrite
  simp (disch := omega) only [if_neg, if_pos]
  rw [show (0x30000 + 64 * c + 0) % 64 = 0 by omega, show (0x30000 + 64 * c + 0 - 0x30000) / 64 = c by omega]
  exact (State.whenReady_of_ready h8 _).symm

theorem pkgWrite_faultHead {c : Nat} (hc : c < 16) :
    s.pkgWrite (0x30000 + 64 * c + 16) (bits 63 0) v = s.after (exec (.faultQueueHeadWrite c v) s) := by
  unfold State.pkgWrite
  simp (disch := omega) only [whole_word, if_neg, if_pos]
  rw [show (0x30000 + 64 * c + 16) % 64 = 16 by omega, show (0x30000 + 64 * c + 16 - 0x30000) / 64 = c by omega]
  rfl

theorem pkgWrite_expw {c w : Nat} (hc : c < 16) (hw : w < 2) :
    s.pkgWrite (0x62000 + 16 * c + 8 * w) (bits 63 0) v = s.after (exec (.expwWrite c w v) s) := by
  unfold State.pkgWrite
  simp (disch := omega) only [whole_word, if_neg, if_pos]
  rw [show (0x62000 + 16 * c + 8 * w - 0x62000) / 16 = c by omega, show (0x62000 + 16 * c + 8 * w) % 16 / 8 = w by omega]
  rfl

theorem pkgWrite_diepwr : s.pkgWrite 0x70000 (bits 63 0) v = s.after (exec (.gateDie v) s) := by
  unfold State.pkgWrite
  simp (disch := omega) only [whole_word, if_neg]
  rfl

theorem pkgWrite_restore : s.pkgWrite 0x80020 (bits 63 0) v = s.after (exec (.restore v) s) := rfl

theorem pkgWrite_rstctl : s.pkgWrite 0xA0028 (bits 63 0) v = s.after (exec (.rstctl v) s) := by
  unfold State.pkgWrite
  simp (disch := omega) only [and_whole_word, if_neg]
  rfl

end

/-- At READY a write of 8 bytes to a register that acts is that register's event. -/
theorem registerWrite_event (hp : s.boot.powered = true) (h8 : s.boot.stage = 8) {die l c w : Nat} (hd : die < 2) (hl : l < 64)
    (hc : c < 16) (hw : w < 2) (hoff : s.sys.off die = false) (v : Word64) :
    ∀ p ∈ ([(dieBlk die (8 * l), .cmapWrite die l v), (dieBlk die (0x1000 + 8 * l), .cpartWrite die l v),
        (dieBlk die (0x2000 + 16 * l), .qbindWrite die l v), (dieBlk die (0x5000 + 16 * l + 8 * w), .tqovfWrite die l w v),
        (dieBlk die 0x6000, .synovfWrite die v), (dieBlk die (0x8000 + 8 * (16 * l + c)), .cellmaskWrite die l c v),
        (dieBlk die 0x3100, .leaserev die v), (pkgBlk (0x1000 + 8 * l), .regselWrite l v), (pkgBlk 0x11000, .sync v),
        (faultReg c 0, .faultqConfigWrite c 0 v), (faultReg c 16, .faultQueueHeadWrite c v),
        (pkgBlk (0x62000 + 16 * c + 8 * w), .expwWrite c w v), (pkgBlk 0x70000, .gateDie v), (pkgBlk 0x80020, .restore v),
        (pkgBlk 0xA0028, .rstctl v), (baseBlk (c % 12) (0x100000 + 8 * l), .fscfgWrite (c % 12) l v)] : List (Nat × Instr)),
      exec (.registerWrite p.1 8 v) s = exec p.2 s := by
  simp only [List.forall_mem_cons]
  refine ⟨?_, ?_, ?_, ?_, ?_, ?_, ?_, ?_, ?_, ?_, ?_, ?_, ?_, ?_, ?_, ?_, List.forall_mem_nil _⟩
  · exact registerWrite_die hp h8 hd (by omega) (by omega) hoff (dieWrite_cmap s v die hl)
  · exact registerWrite_die hp h8 hd (by omega) (by omega) hoff (dieWrite_cpart s v die hl)
  · exact registerWrite_die hp h8 hd (by omega) (by omega) hoff (dieWrite_qbind s v die hl)
  · exact registerWrite_die hp h8 hd (by omega) (by omega) hoff (dieWrite_tqovf s v die hl hw)
  · exact registerWrite_die hp h8 hd (by omega) (by omega) hoff (dieWrite_synovf s v die)
  · exact registerWrite_die hp h8 hd (by omega) (by omega) hoff (dieWrite_cellmask s v die (by omega) hc)
  · exact registerWrite_die hp h8 hd (by omega) (by omega) hoff (dieWrite_leaserev s v die)
  · exact registerWrite_pkg hp h8 (by omega) (by omega) (pkgWrite_regsel s v (by omega))
  · exact registerWrite_pkg hp h8 (by omega) (by omega) (pkgWrite_sync s v)
  · exact registerWrite_pkg hp h8 (by omega) (by omega) (pkgWrite_faultq s v h8 hc)
  · exact registerWrite_pkg hp h8 (by omega) (by omega) (pkgWrite_faultHead s v hc)
  · exact registerWrite_pkg hp h8 (by omega) (by omega) (pkgWrite_expw s v hc hw)
  · exact registerWrite_pkg hp h8 (by omega) (by omega) (pkgWrite_diepwr s v)
  · exact registerWrite_pkg hp h8 (by omega) (by omega) (pkgWrite_restore s v)
  · exact registerWrite_pkg hp h8 (by omega) (by omega) (pkgWrite_rstctl s v)
  · rw [registerWrite_word hp h8 (quarter_baseBlk (by omega) (by omega)) (baseBlk_mod_eight _ (by omega)),
      regWriteAt_base (baseBlk_mod_eight _ (by omega)) (blockOf_baseBlk (by omega) (by omega)) (by omega),
      show (0x100000 + 8 * l - 0x100000) / 8 = l by omega]
    exact State.next_after (exec_answers (.fscfgWrite (c % 12) l v) s)

/-- A write to the block of a die that is off is ignored. -/
theorem registerWrite_die_off (hp : s.boot.powered = true) (h8 : s.boot.stage = 8) {d o : Nat} (hd : d < 2) (ho : o < 0x8000000)
    (h : o % 8 = 0) (hoff : s.sys.off d = true) (v : Word64) : exec (.registerWrite (dieBlk d o) 8 v) s = .next s := by
  rw [registerWrite_word hp h8 (quarter_dieBlk hd ho) (dieBlk_mod_eight d h), regWriteAt_die (dieBlk_mod_eight d h) (blockOf_dieBlk hd ho), hoff, if_pos rfl]

theorem regMask_budget {a g : Nat} (ha : a < 12) (hg : g < 128) : regMask (budgetReg a g) = (bits 31 0, bits 55 32) := by
  rw [budgetReg, regMask, blockOf_arbBlk ha (by omega)]
  exact if_pos (by omega)

/-- A budget register takes the budget and clears the count bits written as 1. -/
theorem registerWrite_budget (hp : s.boot.powered = true) (h8 : s.boot.stage = 8) {a g : Nat} (ha : a < 12) (hg : g < 128) (v : Word64) :
    ∃ t, exec (.registerWrite (budgetReg a g) 8 v) s = .next t ∧
      s.Stored t (budgetReg a g) (fun k => decide (k ≤ 55)) ((v &&& 0xFFFFFFFF) ||| (s.reg (budgetReg a g) &&& ~~~v &&& 0xFFFFFF00000000)) := by
  refine ⟨s.storeReg (budgetReg a g) (bits 63 0) v, ?_, s.storeReg_only _ _ _, fun b hb => s.reg_storeReg_other _ v hb, fun k => ?_⟩
  · rw [budgetReg, registerWrite_word hp h8 (quarter_arbBlk ha (by omega)) (arbBlk_mod_eight a (by omega)),
      regWriteAt_arb (arbBlk_mod_eight a (by omega)) (blockOf_arbBlk ha (by omega))]
  · by_cases hk : k < 64
    · rw [s.bitAt_storeReg _ v (regMask_budget ha hg) hk, show (0xFFFFFFFF : Word64) = bits 31 0 from rfl,
        show (0xFFFFFF00000000 : Word64) = bits 55 32 from rfl]
      simp only [bitAt_and, bitAt_or, bitAt_not, hk, bitAt_bits (show 63 < 64 by omega) (show 0 ≤ 63 by omega),
        bitAt_bits (show 31 < 64 by omega) (show 0 ≤ 31 by omega), bitAt_bits (show 55 < 64 by omega) (show 32 ≤ 55 by omega)]
      by_cases h31 : k ≤ 31
      · simp [h31, show k ≤ 55 by omega, show k ≤ 63 by omega, show ¬ 32 ≤ k by omega]
      · by_cases h55 : k ≤ 55
        · simp [h31, h55, show k ≤ 63 by omega, show 32 ≤ k by omega]
        · simp [h31, h55]
    · simp [bitAt_of_ge _ (Nat.le_of_not_lt hk), show ¬ k ≤ 55 by omega]

/-- Before READY a write within one register outside the housekeeping block and the recovery mailbox changes nothing. -/
theorem registerWrite_unreached (h8 : s.boot.stage ≠ 8) {a n : Nat} (hn : n ≤ 8 - a % 8)
    (ha : a < pkgBlk 0xA0000 ∨ pkgBlk 0xC0000 ≤ a) (v : Word64) : exec (.registerWrite a n v) s = .next s := by
  have hr : s.reachable a = false := by
    have hh : isHouse a = false := by
      rcases ha with h | h
      · simp [isHouse, Nat.not_le.mpr h]
      · simp [isHouse, Nat.not_lt.mpr h]
    simp [State.reachable, h8, hh]
  have hw : s.regWrite a (bytesOf n v.toNat) 2 = s := by
    cases n with
    | zero => exact s.regWrite_of_empty a 2
    | succ n => rw [s.regWrite_of_fits (by simp [bytesOf]) (by rw [length_bytesOf]; exact hn), hr, if_neg (by decide)]
  change Host.Outcome.next _ = _
  rw [hw, ite_self]

end Sys2Proof.Machine
end

section
/-! SUPPORT. The device's byte buffers, and the mailbox of an attestation report (15_isolation.md R436, R437; log entry 137). -/

namespace Sys2Proof.Machine

/-! ## Bytes written and read -/

/-- Reading after bytes are written at rising addresses. -/
theorem cellGet_putBytes {m : List Host.Cell} (h : Memory.wf m) (a b : Nat) (l : List Byte) :
    cellGet (putBytes m a l) b = if a ≤ b ∧ b < a + l.length then l.getD (b - a) 0 else cellGet m b := by
  induction l generalizing m a with
  | nil => rw [if_neg (by simp)]; rfl
  | cons x r ih =>
    rw [putBytes, ih (cellSet_wf h a x), cellGet_cellSet h, List.length_cons]
    by_cases hb : a + 1 ≤ b ∧ b < a + 1 + r.length
    · rw [if_pos hb, if_pos (by omega), show b - a = b - (a + 1) + 1 by omega, List.getD_cons_succ]
    · rw [if_neg hb]
      by_cases hab : a = b
      · rw [if_pos hab, if_pos (by omega), hab, Nat.sub_self, List.getD_cons_zero]
      · rw [if_neg hab, if_neg (by omega)]

theorem length_getBytes (m : List Host.Cell) (a n : Nat) : (getBytes m a n).length = n := by
  induction n generalizing a with
  | zero => rfl
  | succ n ih => rw [getBytes, List.length_cons, ih]

/-- Reading bytes that stand before the bytes written, or after them. -/
theorem getBytes_putBytes_apart {m : List Host.Cell} (h : Memory.wf m) {a c n : Nat} {l : List Byte}
    (hd : c + n ≤ a ∨ a + l.length ≤ c) : getBytes (putBytes m a l) c n = getBytes m c n := by
  induction n generalizing c with
  | zero => rfl
  | succ n ih => rw [getBytes, getBytes, ih (by omega), cellGet_putBytes h, if_neg (by omega)]

/-- The first of the bytes written, read back. -/
theorem getBytes_putBytes {m : List Host.Cell} (h : Memory.wf m) (a : Nat) (x y : List Byte) {n : Nat} (hn : x.length = n) :
    getBytes (putBytes m a (x ++ y)) a n = x := by
  subst hn
  induction x generalizing m a with
  | nil => rfl
  | cons b r ih =>
    have hw := cellSet_wf h a b
    rw [List.cons_append, putBytes, List.length_cons, getBytes, ih hw, cellGet_putBytes hw, if_neg (by omega), cellGet_cellSet h,
      if_pos rfl]

theorem getBytes_putBytes_whole {m : List Host.Cell} (h : Memory.wf m) (a : Nat) {n : Nat} {x : List Byte} (hn : x.length = n) :
    getBytes (putBytes m a x) a n = x := by
  have hx := getBytes_putBytes h a x [] hn
  rwa [List.append_nil] at hx

/-! ## Requests and reports -/

variable {s : State} {fn : Nat}

/-- REQ = 1 starts a report; ST shows that one is built, and BUF reads 0. -/
theorem attestReq_begins (hw : Memory.wf s.devBytes) {v : Word64} (h8 : s.boot.stage = 8) (hv : field v 31 0 = 1) (hf : fn ∉ s.frozenFns)
    (hr : fn ∉ s.boot.reports) :
    ∃ t, exec (.attestReq fn v) s = .next t ∧ fn ∈ t.boot.reports ∧ getBytes t.devBytes (boxOf fn + 0x24) 4 = bytesOf 4 2 ∧
      ∀ o, 0x40 ≤ o → t.boxByte fn o = 0 := by
  have hx : exec (.attestReq fn v) s = .next { s with
      boot := { s.boot with reports := s.boot.reports ++ [fn] }
      devBytes := putBytes s.devBytes (boxOf fn + 0x24) (bytesOf 4 2) } := by
    change Host.Outcome.next _ = _
    rw [State.whenReady_of_ready h8, if_neg (by simpa using hf), if_neg (by simp [hv, hr])]
  refine ⟨_, hx, by simp, getBytes_putBytes_whole hw _ rfl, fun o ho => ?_⟩
  rw [State.boxByte, if_pos ⟨ho, by simp⟩]

/-- The end of a report where there is no attestation key: ST shows ERROR 1 and DONE 0, and no vector is raised. -/
theorem reportDone_keyless (hw : Memory.wf s.devBytes) (hr : fn ∈ s.boot.reports) (hk : s.boot.attestKey = none) :
    ∃ t, exec (.reportDone fn) s = .next t ∧ fn ∉ t.boot.reports ∧ t.outs = s.outs ∧
      getBytes t.devBytes (boxOf fn + 0x24) 4 = bytesOf 4 0x100 ∧ ∀ o, o < 0x24 ∨ 0x28 ≤ o →
        cellGet t.devBytes (boxOf fn + o) = cellGet s.devBytes (boxOf fn + o) := by
  have hx : exec (.reportDone fn) s = .next { s with
      boot := { s.boot with reports := s.boot.reports.filter (fun f => !decide (f = fn)) }
      devBytes := putBytes s.devBytes (boxOf fn + 0x24) (bytesOf 4 0x100) } := by
    change Host.Outcome.next _ = _
    rw [if_neg (by simpa using hr), hk]
  refine ⟨_, hx, by simp, rfl, getBytes_putBytes_whole hw _ rfl, fun o ho => ?_⟩
  dsimp only
  rw [cellGet_putBytes hw, length_bytesOf, if_neg (by omega)]

/-- A report with its signature and its certificate chain, as they stand in BUF. -/
def State.signedReport (s : State) (fn : Nat) (key : List Byte) : List Byte :=
  s.report fn ++ fixed 49856 (Config.sign key (s.report fn)) ++ certificates key

/-- ST of a report that is done, and the lengths after it. -/
def State.reportStatus (s : State) (fn : Nat) (key : List Byte) : List Byte :=
  bytesOf 4 1 ++ bytesOf 4 (s.report fn).length ++ bytesOf 4 49856 ++ bytesOf 4 (certificates key).length

theorem State.signedReport_nonce (s : State) (fn : Nat) (key : List Byte) :
    ∃ r, s.signedReport fn key = getBytes s.devBytes (boxOf fn) 32 ++ r := by
  simp only [State.signedReport, State.report, List.append_assoc]
  exact ⟨_, rfl⟩

theorem State.reportStatus_done (s : State) (fn : Nat) (key : List Byte) : ∃ r, s.reportStatus fn key = bytesOf 4 1 ++ r := by
  simp only [State.reportStatus, List.append_assoc]
  exact ⟨_, rfl⟩

theorem State.length_reportStatus (s : State) (fn : Nat) (key : List Byte) : (s.reportStatus fn key).length = 16 := by
  simp only [State.reportStatus, List.length_append, length_bytesOf]

theorem reportDone_eq (hr : fn ∈ s.boot.reports) {key : List Byte} (hk : s.boot.attestKey = some key) :
    exec (.reportDone fn) s = .next (({ s with
      boot := { s.boot with reports := s.boot.reports.filter (fun f => !decide (f = fn)) }
      devBytes := putBytes (putBytes s.devBytes (boxOf fn + 0x40) (s.signedReport fn key)) (boxOf fn + 0x24) (s.reportStatus fn key) }
        : State).raise fn 1) := by
  change Host.Outcome.next _ = _
  rw [if_neg (by simpa using hr), hk]
  dsimp only [State.signedReport, State.reportStatus]

/-- The end of a report: it stands in BUF, first the nonce, with DONE, and vector 1 is raised. -/
theorem reportDone_signed (hw : Memory.wf s.devBytes) (hr : fn ∈ s.boot.reports) {key : List Byte} (hk : s.boot.attestKey = some key) :
    ∃ t, exec (.reportDone fn) s = .next t ∧ fn ∉ t.boot.reports ∧ t.outs = s.outs ++ [.vector fn 1] ∧
      getBytes t.devBytes (boxOf fn + 0x24) 4 = bytesOf 4 1 ∧
      getBytes t.devBytes (boxOf fn + 0x40) 32 = getBytes s.devBytes (boxOf fn) 32 := by
  have hbuf : Memory.wf (putBytes s.devBytes (boxOf fn + 0x40) (s.signedReport fn key)) := putBytes_wf hw _ _
  refine ⟨_, reportDone_eq hr hk, by simp [State.raise], rfl, ?_, ?_⟩
  all_goals dsimp only [State.raise]
  · obtain ⟨r, hs⟩ := s.reportStatus_done fn key
    have hd := getBytes_putBytes hbuf (boxOf fn + 0x24) (bytesOf 4 1) r (length_bytesOf 4 1)
    rwa [← hs] at hd
  · obtain ⟨r, hs⟩ := s.signedReport_nonce fn key
    have hn := getBytes_putBytes hw (boxOf fn + 0x40) (getBytes s.devBytes (boxOf fn) 32) r (length_getBytes _ _ _)
    rw [← hs] at hn
    have ha := getBytes_putBytes_apart hbuf (a := boxOf fn + 0x24) (c := boxOf fn + 0x40) (n := 32) (l := s.reportStatus fn key)
      (Or.inr (by rw [State.length_reportStatus]; omega))
    exact ha.trans hn

end Sys2Proof.Machine
end

section
/-! SUPPORT. Bytes of a line, and a plain access at the L2 of the home die of its line: nothing stands between that L2 and the stacks
(10_memory.md R255, R256, 11_ordering.md R284, R285). -/

namespace Sys2Proof.Machine

/-! ## Bytes of a line -/

theorem bitAt_shiftLeft {w : Nat} (x : BitVec w) (n k : Nat) :
    bitAt (x <<< n) k = (decide (k < w) && (decide (n ≤ k) && bitAt x (k - n))) := by
  rw [bitAt, BitVec.getLsbD_shiftLeft, bitAt]
  by_cases h : n ≤ k
  · simp [h, Nat.not_lt.mpr h]
  · simp [h, Nat.lt_of_not_le h]

theorem bitAt_lineGet (d : BitVec 1024) (k i : Nat) : bitAt (lineGet d k) i = (decide (i < 8) && bitAt d (8 * k + i)) :=
  BitVec.getLsbD_extractLsb' ..

/-- The bits of one byte. -/
theorem bitAt_byteMask (k j : Nat) (hj : j < 1024) :
    bitAt (BitVec.ofNat 1024 255 <<< (8 * k)) j = decide (k = j / 8) := by
  rw [bitAt_shiftLeft, bitAt_ofNat, show 255 = 2 ^ 8 - 1 from rfl, Nat.testBit_two_pow_sub_one, ← Bool.decide_and, ← Bool.decide_and,
    ← Bool.decide_and, decide_eq_decide]
  omega

theorem bitAt_foldl_byteMask (m : BitVec 128) {j : Nat} (hj : j < 1024) (l : List Nat) (x : BitVec 1024) :
    bitAt (l.foldl (fun x k => if bitAt m k then x ||| (BitVec.ofNat 1024 255 <<< (8 * k)) else x) x) j =
      (bitAt x j || (l.contains (j / 8) && bitAt m (j / 8))) := by
  induction l generalizing x with
  | nil => simp
  | cons k r ih =>
    rw [List.foldl_cons, ih, List.contains_cons]
    by_cases hk : j / 8 = k
    · subst hk
      by_cases hm : bitAt m (j / 8) = true
      · simp [hm, bitAt_byteMask _ _ hj]
      · simp [hm]
    · rw [beq_false_of_ne hk, Bool.false_or]
      split
      · rw [bitAt_or, bitAt_byteMask _ _ hj, decide_eq_false (Ne.symm hk), Bool.or_false]
      · rfl

theorem bitAt_spread (m : BitVec 128) {j : Nat} (hj : j < 1024) : bitAt (spread m) j = bitAt m (j / 8) := by
  rw [spread, bitAt_foldl_byteMask m hj]
  simp [show j / 8 < 128 by omega, bitAt]

/-- A byte of a line after some bytes are put into it. -/
theorem lineGet_lineMerge (old new : BitVec 1024) (m : BitVec 128) {k : Nat} (hk : k < 128) :
    lineGet (lineMerge old new m) k = if bitAt m k then lineGet new k else lineGet old k := by
  apply word_ext
  intro i hi
  have hj : 8 * k + i < 1024 := by omega
  rw [bitAt_lineGet, lineMerge]
  simp only [bitAt_or, bitAt_and, bitAt_not, bitAt_spread m hj, show (8 * k + i) / 8 = k by omega, hj, hi, decide_true, Bool.true_and]
  cases h : bitAt m k <;> simp [bitAt_lineGet, hi]

theorem bitAt_runMask (k n j : Nat) : bitAt (runMask k n) j = decide (j < 128 ∧ k ≤ j ∧ j < k + n) := by
  rw [runMask, bitAt_shiftLeft, bitAt_ofNat, Nat.testBit_two_pow_sub_one, ← Bool.decide_and, ← Bool.decide_and, ← Bool.decide_and,
    decide_eq_decide]
  omega

theorem runMask_ne_zero {k n : Nat} (hk : k < 128) (hn : 1 ≤ n) : runMask k n ≠ 0 := by
  intro h
  have hb := bitAt_runMask k n k
  rw [h, decide_eq_true (by omega)] at hb
  exact absurd hb (by simp)

/-- A byte of a run of bytes, in place. -/
theorem lineGet_runData (k v : Nat) {i : Nat} (h : k + i < 128) : lineGet (runData k v) (k + i) = BitVec.ofNat 8 (v / 256 ^ i) := by
  apply word_ext
  intro x hx
  rw [bitAt_lineGet, runData, bitAt_shiftLeft, bitAt_ofNat, bitAt_ofNat, show (256 : Nat) = 2 ^ 8 from rfl, ← pow_mul,
    Nat.testBit_div_two_pow, show 8 * (k + i) + x - 8 * k = x + 8 * i by omega]
  simp [hx, show 8 * (k + i) + x < 1024 by omega, show 8 * k ≤ 8 * (k + i) + x by omega, show x + 8 * i < 1024 by omega]

theorem ofBytes_lt (b : List Byte) : ofBytes b < 256 ^ b.length := by
  induction b with
  | nil => simp [ofBytes]
  | cons x r ih =>
    have hx : x.toNat < 256 := x.isLt
    rw [ofBytes, List.length_cons, pow_succ]
    omega

/-- Bytes as a number, and back. -/
theorem ofNat_ofBytes (b : List Byte) (i : Nat) : BitVec.ofNat 8 (ofBytes b / 256 ^ i) = b.getD i 0 := by
  induction b generalizing i with
  | nil => simp [ofBytes]
  | cons x r ih =>
    have hx : x.toNat < 256 := x.isLt
    cases i with
    | zero =>
      apply BitVec.eq_of_toNat_eq
      rw [ofBytes, pow_zero, Nat.div_one, BitVec.toNat_ofNat, List.getD_cons_zero]
      omega
    | succ i =>
      rw [List.getD_cons_succ, ← ih i, ofBytes, pow_succ', ← Nat.div_div_eq_div_mul, show (x.toNat + 256 * ofBytes r) / 256 = ofBytes r by omega]

/-! ## Lines of the home L2 -/

theorem homeOf_line (a : Nat) : homeOf (128 * (a / 128)) = homeOf a := by
  unfold homeOf gib
  by_cases h : 384 * 2 ^ 30 ≤ a
  · rw [if_pos h, if_pos (by omega)]
  · rw [if_neg h, if_neg (by omega)]

theorem homeOf_lt (a : Nat) : homeOf a < 2 := by unfold homeOf; split <;> omega

/-- Lines of different addresses that a die's L2 holds stand at different keys. -/
theorem lineKey_home {a q : Nat} (h : lineKey (homeOf q) (q / 128) = lineKey (homeOf a) (a / 128)) : q / 128 = a / 128 := by
  unfold lineKey homeOf gib at h
  split at h <;> split at h <;> omega

theorem Mem.line?_setLine (m : Mem) (d line e k : Nat) (l : L2Line) :
    (m.setLine d line l).line? e k = if lineKey d line = lineKey e k then some l else m.line? e k := SMap.find?_set ..

theorem Mem.heldMask_of_none {m : Mem} (h : m.granules = []) (line : Nat) : m.heldMask line = 0 := by rw [Mem.heldMask, h]; rfl

theorem L2Line.retag_data (l : L2Line) (q : Master) : (L2Line.retag l q).data = l.data := by unfold L2Line.retag; split <;> rfl

/-- Writing a line that the home L2 holds. -/
theorem Mem.writeHome_held {m : Mem} {q : Master} {line : Nat} {l : L2Line} (hl : m.line? (homeOf (128 * line)) line = some l)
    (mask : BitVec 128) (data : BitVec 1024) (clk : Nat) : m.writeHome q line mask data clk = m.setLine (homeOf (128 * line)) line
      (L2Line.retag { l with data := lineMerge l.data data mask, dirty := l.dirty ||| mask, clk := max l.clk clk } q) := by
  have hf : m.fillHome q line true = m := by rw [Mem.fillHome, hl]
  unfold Mem.writeHome
  rw [hf]
  dsimp only
  rw [hl]

/-- A write on the home die of a line that its L2 holds, where no granule of the line is held: the line takes the bytes, and a
message goes to the other die. -/
theorem Mem.put_home {m : Mem} {q : Master} {line : Nat} {l : L2Line} (hg : m.granules = []) (hd : q.die = homeOf (128 * line))
    (hl : m.line? q.die line = some l) {mask : BitVec 128} (hm : mask ≠ 0) (data : BitVec 1024) :
    ∃ x g, x.data = lineMerge l.data data mask ∧ g.line = line ∧
      m.put q line mask data = { m.setLine q.die line x with strait := m.strait ++ [g] } := by
  have h0 : (0 : BitVec 128) &&& mask = 0 := BitVec.zero_and
  have hm' : mask &&& ~~~(0 : BitVec 128) = mask := word_ext fun k hk => by
    rw [bitAt_and, bitAt_not, show (0 : BitVec 128) = 0#128 from rfl, bitAt_zero]
    simp [hk]
  refine ⟨L2Line.retag { l with data := lineMerge l.data data mask, dirty := l.dirty ||| mask, clk := max l.clk (m.epoch q.die) } q,
    { src := q.die, line := line, data := data, mask := mask, k := m.epoch q.die, k2 := m.appliedTo q.die, q := q, rec_ := 0 },
    L2Line.retag_data _ _, rfl, ?_⟩
  unfold Mem.put
  simp only [m.heldMask_of_none hg, h0, hm', if_true, if_neg hm, if_pos hd]
  rw [hd] at hl ⊢
  rw [Mem.writeHome_held hl]
  simp [Mem.setLine]

theorem Mem.under_eq (m : Mem) (q : Nat) :
    m.under q = ((m.line? (homeOf q) (q / 128)).map (fun l => lineGet l.data (q % 128))).getD (m.stackGet q) := by
  unfold Mem.under
  cases m.line? (homeOf q) (q / 128) <;> rfl

theorem Mem.granule?_of_none {m : Mem} (h : m.granules = []) (q : Nat) : m.granule? q = none := by rw [Mem.granule?, h]; rfl

theorem Mem.look_at_home {m : Mem} (hg : m.granules = []) {d q : Nat} (hq : homeOf q = d) : m.look d q = m.under q := by
  rw [Mem.look, if_pos hq, Mem.atHome, Mem.granule?_of_none hg]

theorem Mem.look_from_away {m : Mem} (hg : m.granules = []) {d q : Nat} (hq : homeOf q ≠ d) (hw : m.onWay d q = none) :
    m.look d q = ((m.line? d (q / 128)).map (fun l => lineGet l.data (q % 128))).getD (m.under q) := by
  rw [Mem.look, if_neg hq, hw, Mem.granule?_of_none hg]
  cases m.line? d (q / 128) <;> rfl

/-- What the home die of a line sees when the line has new bytes and the only message on its way is one for it: those bytes, and
every other byte as before. -/
theorem Mem.look_new_line {m m' : Mem} {a : Nat} {x : L2Line} {g : Msg} (hg : m.granules = []) (hs : m.strait = [])
    (hg' : m'.granules = []) (hs' : m'.strait = [g]) (hline : g.line = a / 128)
    (hl : ∀ e k, m'.line? e k = if lineKey (homeOf a) (a / 128) = lineKey e k then some x else m.line? e k)
    (hst : ∀ o, m'.stackGet o = m.stackGet o) (q : Nat) :
    m'.look (homeOf a) q = if q / 128 = a / 128 then lineGet x.data (q % 128) else m.look (homeOf a) q := by
  by_cases hqa : q / 128 = a / 128
  · have hq : homeOf q = homeOf a := by rw [← homeOf_line q, hqa, homeOf_line]
    rw [if_pos hqa, Mem.look_at_home hg' hq, Mem.under_eq, hl, hq, hqa, if_pos rfl]
    rfl
  · have hunder : m'.under q = m.under q := by
      rw [Mem.under_eq, Mem.under_eq, hl, if_neg (fun h => hqa (lineKey_home h.symm)), hst]
    rw [if_neg hqa]
    by_cases hq : homeOf q = homeOf a
    · rw [Mem.look_at_home hg' hq, Mem.look_at_home hg hq, hunder]
    · have hw : m.onWay (homeOf a) q = none := by rw [Mem.onWay, hs]; rfl
      have hw' : m'.onWay (homeOf a) q = none := by
        rw [Mem.onWay, hs', List.foldl_cons, List.foldl_nil, if_neg (fun h => hqa (h.2.1.symm.trans hline))]
      rw [Mem.look_from_away hg' hq hw', Mem.look_from_away hg hq hw, hunder, hl,
        if_neg (fun h => hqa (by unfold lineKey at h; omega))]

/-! ## Plain accesses -/

theorem Mem.Plain.bump {m : Mem} (h : m.Plain) (d : Nat) : (m.bump d).Plain := by
  unfold Mem.bump
  split <;> exact h

theorem Mem.epoch_bump (m : Mem) {d e : Nat} (hd : d < 2) (he : e < 2) : (m.bump d).epoch e = m.epoch e + if e = d then 1 else 0 := by
  unfold Mem.bump Mem.epoch
  by_cases h0 : d = 0 <;> by_cases h1 : e = 0
  · simp [h0, h1]
  · simp [h0, h1]
  · simp [h0, h1, Ne.symm h0]
  · simp [h0, show e = d by omega]

theorem Mem.bump_l2 (m : Mem) (d : Nat) : (m.bump d).l2 = m.l2 := by unfold Mem.bump; split <;> rfl

theorem Mem.look_bump (m : Mem) (d e q : Nat) : (m.bump d).look e q = m.look e q := by unfold Mem.bump; split <;> rfl

theorem Mem.l2In_held {m : Mem} {q : Master} {line : Nat} (h : (m.line? q.die line).isSome = true) (w : Bool) : m.l2In q line w = m := by
  obtain ⟨l, hl⟩ := Option.isSome_iff_exists.mp h
  rw [Mem.l2In, hl]

theorem State.updMem_same (s : State) {f : Mem → Mem} (h : f s.mem = s.mem) : s.updMem f = s := by rw [State.updMem, h]

section
variable {s : State} {m : Master}

theorem State.meets_sound (h : s.mem.Sound) (d a n : Nat) : s.meets d a n = (s, none) := by
  obtain ⟨hb, hh, hu⟩ := h
  rw [State.meets, hb, hh, hu]
  rfl

theorem State.mendSectors_sound (h : s.mem.Sound) (line : Nat) (mask : BitVec 128) : s.mendSectors line mask = s := by
  obtain ⟨hb, hh, hu⟩ := h
  have hw : s.mendWords line mask = s := by rw [State.mendWords, hu, hh]; rfl
  unfold State.mendSectors
  rw [hw]
  dsimp only
  rw [hb]
  rfl

theorem State.syncTouch_none (h : s.mem.granules = []) (a n : Nat) : s.syncTouch a n = s := by rw [State.syncTouch, h]; rfl

/-- A read by an agent of no launch of a line that its die's L2 holds changes nothing. -/
theorem State.l2Read_plain (hp : s.mem.Plain) (hlid : m.lid = none) (hclu : m.clu = none) {a : Nat}
    (hline : (s.mem.line? m.die (a / 128)).isSome = true) (n : Nat) :
    s.l2Read m a n = (s, some (ofBytes (s.mem.lookN m.die a n))) := by
  obtain ⟨hg, -, hsound, -, -⟩ := hp
  have ht : s.trackRead m.lid a = s := by rw [hlid]; rfl
  have hin : s.l2In m (a / 128) false = s := s.updMem_same (Mem.l2In_held hline false)
  have hf : s.ferryLine m a false = s := by rw [State.ferryLine, hclu]
  have ho : s.observe m m.code (a / 128) (runMask (a % 128) n) = s := by rw [State.observe, Master.who, hlid]; rfl
  unfold State.l2Read
  simp only [ht, State.meets_sound hsound, State.syncTouch_none hg, hin, hf, ho]

theorem State.tellQueues_only (s : State) (f : Nat → Bool) : s.tellQueues f = { s with cmdQueues := (s.tellQueues f).cmdQueues } := by
  unfold State.tellQueues
  dsimp only
  split <;> rfl

theorem CmdQueue.ite_told (c : Prop) [Decidable c] (q : CmdQueue) :
    (if c then { q with told := true } else q) = { q with told := (if c then { q with told := true } else q).told } := by
  split <;> rfl

theorem State.tellQueues_told (s : State) (f : Nat → Bool) : s.OnlyTold (s.tellQueues f) := by
  intro k
  unfold State.tellQueues
  dsimp only
  split
  · unfold State.cmdQueue
    dsimp only
    rw [SMap.get_mapVals _ _ _ _ rfl]
    exact CmdQueue.ite_told _ _
  · rfl

/-- The device's own bytes of a write that no launch makes show at once. -/
theorem State.veil_of_none (hlid : m.lid = none) (line : Nat) (mask : BitVec 128) :
    s.veil m.who line mask = s.updMem (fun x => x.reveal line mask) := by
  rw [State.veil, Master.who, hlid]
  rfl

/-- A write by an agent of no launch of a line that its die's L2 holds is a write at that L2. -/
theorem State.l2Put_plain (hp : s.mem.Plain) (hlid : m.lid = none) (hclu : m.clu = none) {line : Nat}
    (hline : (s.mem.line? m.die line).isSome = true) (mask : BitVec 128) (data : BitVec 1024) :
    s.l2Put m line mask data =
      ({ s with mem := (s.mem.reveal line mask).put m line mask data } : State).tellQueues (inLine line mask) := by
  obtain ⟨hg, -, hsound, -, -⟩ := hp
  have ht : s.trackWrite m.lid (128 * line) = s := by rw [hlid]; rfl
  have hf : s.ferryLine m (128 * line) true = s := by rw [State.ferryLine, hclu]
  have hfold : ∀ r : List Nat, r.foldl (fun t k => if mask &&& runMask (8 * k) 8 = 0 then t
      else t.syncTouch (128 * line + 8 * k) 8) s = s := by
    intro r
    induction r with
    | nil => rfl
    | cons k r ih => rw [List.foldl_cons, State.syncTouch_none hg, ite_self, ih]
  have hin : (s.updMem (fun x => x.reveal line mask)).l2In m line true = s.updMem (fun x => x.reveal line mask) :=
    State.updMem_same _ (Mem.l2In_held (m := s.mem.reveal line mask) hline true)
  unfold State.l2Put
  simp only [ht, hf, State.mendSectors_sound hsound, hfold, State.veil_of_none hlid, hin]
  rfl

end

/-- A write on the home die of bytes of a line that its L2 holds: what it changes of memory, and what that die sees then. -/
theorem Mem.put_plain {m : Mem} {q : Master} (hp : m.Plain) {a : Nat} (hhome : homeOf a = q.die)
    (hline : (m.line? q.die (a / 128)).isSome = true) {n : Nat} (hn : 1 ≤ n) (hfit : a % 128 + n ≤ 128) (v : Nat) :
    ∃ x, (m.reveal (a / 128) (runMask (a % 128) n)).put q (a / 128) (runMask (a % 128) n) (runData (a % 128) v) = x ∧
      x = { m with l2 := x.l2, strait := x.strait, unseen := x.unseen } ∧
      ∀ o, x.look q.die o = if a ≤ o ∧ o < a + n then BitVec.ofNat 8 (v / 256 ^ (o - a)) else m.look q.die o := by
  obtain ⟨hg, hs, -, -, -⟩ := hp
  obtain ⟨l, hl⟩ := Option.isSome_iff_exists.mp hline
  obtain ⟨y, g, hy, hgl, hput⟩ := Mem.put_home (m := m.reveal (a / 128) (runMask (a % 128) n)) (q := q) (line := a / 128)
    hg (by rw [homeOf_line, hhome]) hl (runMask_ne_zero (Nat.mod_lt a (by decide)) hn) (runData (a % 128) v)
  have hstrait : (m.reveal (a / 128) (runMask (a % 128) n)).strait ++ [g] = [g] := by
    change m.strait ++ [g] = [g]
    rw [hs, List.nil_append]
  rw [hstrait] at hput
  refine ⟨_, hput, rfl, fun o => ?_⟩
  rw [← hhome] at hl ⊢
  refine (Mem.look_new_line (m' := { (m.reveal (a / 128) (runMask (a % 128) n)).setLine (homeOf a) (a / 128) y with strait := [g] })
    hg hs hg rfl hgl (fun e k => m.line?_setLine _ _ e k y) (fun _ => rfl) o).trans ?_
  by_cases hoa : o / 128 = a / 128
  · rw [if_pos hoa, hy, lineGet_lineMerge _ _ _ (Nat.mod_lt o (by decide)), bitAt_runMask]
    by_cases hin : a ≤ o ∧ o < a + n
    · rw [if_pos (decide_eq_true (by omega)), if_pos hin, show o % 128 = a % 128 + (o - a) by omega, lineGet_runData _ _ (by omega)]
    · have ho : homeOf o = homeOf a := by rw [← homeOf_line o, hoa, homeOf_line]
      have hl' : m.line? (homeOf a) (a / 128) = some l := hl
      rw [if_neg (by simp; omega), if_neg hin, Mem.look_at_home hg ho, Mem.under_eq, ho, hoa, hl']
      rfl
  · rw [if_neg hoa, if_neg (by omega)]

end Sys2Proof.Machine
end

section
/-! SUPPORT. Requests of the host and of fabric peers to memory (11_ordering.md R308, 15_isolation.md R409, R413, R432 to R434), and
obligation O46. -/

namespace Sys2Proof.Machine

/-! ## Requests within one granule -/

/-- The quarter-00 address of a byte stands at the same place of its line. -/
theorem canonPa_mod (a : Nat) : canonPa a % 128 = a % 128 := by
  unfold canonPa
  split
  · unfold Place.off fastPlaceOf gib
    dsimp only
    split <;> omega
  · rfl

theorem pieces_one {a n : Nat} (hn : 1 ≤ n) (hf : a % 8 + n ≤ 8) : pieces a (n + 1) n = [(a, n)] := by
  obtain ⟨k, rfl⟩ : ∃ k, n = k + 1 := ⟨n - 1, by omega⟩
  change (a, min (k + 1) (8 - a % 8)) :: pieces (a + min (k + 1) (8 - a % 8)) (k + 1) (k + 1 - min (k + 1) (8 - a % 8)) = _
  rw [Nat.min_eq_left (by omega), Nat.sub_self]
  rfl

theorem firstBad_one {a n : Nat} (hn : 1 ≤ n) (hf : a % 8 + n ≤ 8) (ok : Nat → Bool) :
    firstBad a n ok = if ok a then none else some a := by
  rw [firstBad, pieces_one hn hf]
  cases h : ok a <;> simp [h]

variable {s : State} {m : Master}

/-- A read of bytes of a granule whose line the die's L2 holds: the bytes as the host sees them. -/
theorem State.serveReq_read (hp : s.mem.Plain) (hlid : m.lid = none) (hclu : m.clu = none) {a n : Nat}
    (hline : (s.mem.line? m.die (canonPa a / 128)).isSome = true) (hn : 1 ≤ n) (hf : a % 8 + n ≤ 8) (acq : Bool) :
    s.serveReq m a false acq (.read n) =
      (s, some (ofBytes ((List.range n).map (fun k => s.mem.hostByte m.die (canonPa a + k))))) := by
  have hacq : (if acq then s.updMem (fun x => x.acquireAt m.die (canonPa a)) else s) = s := by
    split
    · exact s.updMem_same (by rw [Mem.acquireAt, Mem.granule?_of_none hp.1])
    · rfl
  unfold State.serveReq
  dsimp only
  rw [if_neg (by decide), pieces_one hn hf, State.readPieces, hacq, State.l2Read_plain hp hlid hclu hline n]
  simp [State.readPieces]

/-- A write of bytes of a granule on the home die of its line, whose L2 holds it; a release first closes the epoch of the die. -/
theorem State.serveReq_write (hp : s.mem.Plain) (hlid : m.lid = none) (hclu : m.clu = none) (hd : m.die < 2) {a : Nat}
    (hhome : homeOf (canonPa a) = m.die) (hline : (s.mem.line? m.die (canonPa a / 128)).isSome = true) {b : List Byte} (hb : b ≠ [])
    (hf : a % 8 + b.length ≤ 8) (rel acq : Bool) :
    ∃ f x, s.serveReq m a rel acq (.write b) = (({ s with mem := x } : State).tellQueues f, some 0) ∧
      x = { s.mem with l2 := x.l2, strait := x.strait, unseen := x.unseen, e0 := x.e0, e1 := x.e1 } ∧
      (∀ d < 2, x.epoch d = s.mem.epoch d + if rel = true ∧ d = m.die then 1 else 0) ∧
      ∀ q, x.look m.die q = if canonPa a ≤ q ∧ q < canonPa a + b.length then b.getD (q - canonPa a) 0 else s.mem.look m.die q := by
  have hn : 1 ≤ b.length := List.length_pos_iff.mpr hb
  have hfit : canonPa a % 128 + b.length ≤ 128 := by rw [canonPa_mod]; omega
  have hv : ofBytes b % 2 ^ (8 * b.length) = ofBytes b :=
    Nat.mod_eq_of_lt (by have h := ofBytes_lt b; rwa [show (256 : Nat) = 2 ^ 8 from rfl, ← pow_mul] at h)
  have key : ∀ m0 : Mem, m0.Plain → m0.line? m.die (canonPa a / 128) = s.mem.line? m.die (canonPa a / 128) →
      ∃ f x, ({ s with mem := m0 } : State).writePieces m (pieces a (b.length + 1) b.length) b =
          ({ s with mem := x } : State).tellQueues f ∧
        x = { m0 with l2 := x.l2, strait := x.strait, unseen := x.unseen } ∧
        ∀ q, x.look m.die q = if canonPa a ≤ q ∧ q < canonPa a + b.length then b.getD (q - canonPa a) 0 else m0.look m.die q := by
    intro m0 hp0 hl0
    rw [← hl0] at hline
    obtain ⟨x, hx, hframe, hlook⟩ := Mem.put_plain hp0 hhome hline hn hfit (ofBytes b)
    refine ⟨inLine (canonPa a / 128) (runMask (canonPa a % 128) b.length), x, ?_, hframe, fun q => ?_⟩
    · rw [pieces_one hn hf, State.writePieces, State.writePieces, List.take_length, State.l2Write, hv,
        State.l2Put_plain hp0 hlid hclu hline]
      exact congrArg (fun y : Mem => ({ s with mem := y } : State).tellQueues _) hx
    · rw [hlook, ofNat_ofBytes]
  cases rel with
  | false =>
    obtain ⟨f, x, hw, hframe, hlook⟩ := key s.mem hp rfl
    refine ⟨f, x, congrArg (fun t => (t, some 0)) hw, ?_, fun d _ => ?_, hlook⟩
    · rw [hframe]
    · rw [hframe]
      simp [Mem.epoch]
  | true =>
    obtain ⟨f, x, hw, hframe, hlook⟩ := key (s.mem.bump m.die) (hp.bump m.die) (by rw [Mem.line?, Mem.bump_l2]; rfl)
    refine ⟨f, x, congrArg (fun t => (t, some 0)) hw, ?_, fun d h2 => ?_, fun q => by rw [hlook, Mem.look_bump]⟩
    · rw [hframe]
      unfold Mem.bump
      split <;> rfl
    · have he := s.mem.epoch_bump hd h2
      rw [hframe]
      simpa [Mem.epoch] using he

/-! ## The host -/

/-- The master of a host function's requests. -/
def State.hostMaster (s : State) (fn : Nat) : Master :=
  { die := s.onDie, part := fn - 1, space := 16 * (fn - 1), lid := none, code := 0x4000 + fn, tid := 0 }

/-- A host function's partition may make an access. -/
def State.hostMay (s : State) (fn a : Nat) (write : Bool) : Bool := if fn = 0 then s.allowedAny a write else s.allowed (fn - 1) a write

theorem State.onDie_lt (s : State) : s.onDie < 2 := by unfold State.onDie; split <;> omega

section
variable {r : HostReq}

theorem hostAccess_frozen (hup : s.boot.hostUp = true) (hf : r.fn ∈ s.frozenFns) : exec (.hostAccess r) s = .next (s.respond r none) := by
  change Host.Outcome.next _ = _
  rw [hup, if_neg (by decide), if_pos (by simpa using hf)]

section
variable (hup : s.boot.hostUp = true) (hf : r.fn ∉ s.frozenFns) (hq : quarter r.addr < 2) (h8 : s.boot.stage = 8)
  (hn : 1 ≤ reqLen r.op) (hfit : r.addr % 8 + reqLen r.op ≤ 8)
include hup hf hq h8 hn hfit

/-- A request to memory that the function's partition may make is performed. -/
theorem hostAccess_allowed (ha : reqAligned r.addr r.op = true) (hok : s.hostMay r.fn r.addr (reqKind r.op).writes = true)
    {x : State × Option Nat} (hx : s.serveReq (s.hostMaster r.fn) r.addr r.rel r.acq r.op = x) :
    exec (.hostAccess r) s = .next (x.1.respond r x.2) := by
  unfold State.hostMay at hok
  change Host.Outcome.next _ = _
  rw [hup, if_neg (by decide), if_neg (by simpa using hf), if_neg (by omega), if_neg (by simpa using h8), firstBad_one hn hfit, hok, ha,
    ← hx]
  rfl

/-- A request to memory that it may not make freezes the function. -/
theorem hostAccess_refused (hok : s.hostMay r.fn r.addr (reqKind r.op).writes = false) :
    exec (.hostAccess r) s = .next ((s.freeze (s.hostMaster r.fn) r.addr (reqKind r.op)).respond r none) := by
  unfold State.hostMay at hok
  change Host.Outcome.next _ = _
  rw [hup, if_neg (by decide), if_neg (by simpa using hf), if_neg (by omega), if_neg (by simpa using h8), firstBad_one hn hfit, hok]
  rfl

end

end

theorem State.freeze_host (s : State) {fn : Nat} (hfn : fn ≤ 16) (a : Nat) (k : AccKind) :
    fn ∈ (s.freeze (s.hostMaster fn) a k).frozenFns ∧ (s.freeze (s.hostMaster fn) a k).mem = s.mem ∧
      (s.freeze (s.hostMaster fn) a k).outs = s.outs ++ [.vector 0 0] := by
  have hcode : (0x4000 + fn) / 4096 = 4 := by omega
  have hix : (0x4000 + fn) % 4096 = fn := by omega
  unfold State.freeze State.stopMaster State.hostMaster
  dsimp only
  rw [hcode, hix]
  exact ⟨List.mem_cons_self, rfl, rfl⟩

section
variable {fn a : Nat}

theorem hostAccess_read (hup : s.boot.hostUp = true) (h8 : s.boot.stage = 8) (hq : quarter a < 2) (hf : fn ∉ s.frozenFns)
    (hp : s.mem.Plain) (hline : (s.mem.line? s.onDie (canonPa a / 128)).isSome = true) {n : Nat} (hn : 1 ≤ n) (hfit : a % 8 + n ≤ 8)
    (hok : s.hostMay fn a false = true) (acq : Bool) : exec (.hostAccess { fn := fn, addr := a, op := .read n, acq := acq }) s =
      .next { s with outs := s.outs ++
        [.resp fn a (ofBytes ((List.range n).map (fun k => s.mem.hostByte s.onDie (canonPa a + k)))) true] } := by
  exact hostAccess_allowed (r := { fn := fn, addr := a, op := .read n, acq := acq }) hup hf hq h8 hn hfit rfl hok
    (State.serveReq_read (m := s.hostMaster fn) hp rfl rfl hline hn hfit acq)

theorem hostAccess_write (hup : s.boot.hostUp = true) (h8 : s.boot.stage = 8) (hq : quarter a < 2) (hf : fn ∉ s.frozenFns)
    (hp : s.mem.Plain) (hhome : homeOf (canonPa a) = s.onDie) (hline : (s.mem.line? s.onDie (canonPa a / 128)).isSome = true)
    {b : List Byte} (hb : b ≠ []) (hfit : a % 8 + b.length ≤ 8) (hok : s.hostMay fn a true = true) (rel : Bool) :
    ∃ t, exec (.hostAccess { fn := fn, addr := a, op := .write b, rel := rel }) s = .next t ∧
      t = { s with cmdQueues := t.cmdQueues, outs := s.outs ++ [.resp fn a 0 true]
                   mem := { s.mem with l2 := t.mem.l2, strait := t.mem.strait, unseen := t.mem.unseen, e0 := t.mem.e0,
                                       e1 := t.mem.e1 } } ∧
      s.OnlyTold t ∧ (∀ d < 2, t.mem.epoch d = s.mem.epoch d + if rel = true ∧ d = s.onDie then 1 else 0) ∧
      ∀ q, t.mem.look s.onDie q =
        if canonPa a ≤ q ∧ q < canonPa a + b.length then b.getD (q - canonPa a) 0 else s.mem.look s.onDie q := by
  obtain ⟨f, x, hw, hframe, hepoch, hlook⟩ := State.serveReq_write (m := s.hostMaster fn) hp rfl rfl s.onDie_lt hhome hline hb hfit rel false
  have hmem : (({ s with mem := x } : State).tellQueues f).mem = x := by rw [State.tellQueues_only]
  refine ⟨(({ s with mem := x } : State).tellQueues f).respond { fn := fn, addr := a, op := .write b, rel := rel } (some 0), ?_, ?_, ?_, ?_, ?_⟩
  · exact hostAccess_allowed (r := { fn := fn, addr := a, op := .write b, rel := rel }) hup hf hq h8 (List.length_pos_iff.mpr hb) hfit rfl
      hok hw
  · have ho := State.tellQueues_only ({ s with mem := x } : State) f
    unfold State.respond
    rw [ho]
    exact congrArg (fun y : Mem => ({ s with
      mem := y, cmdQueues := (({ s with mem := x } : State).tellQueues f).cmdQueues, outs := s.outs ++ [.resp fn a 0 true] } : State)) hframe
  · exact State.tellQueues_told ({ s with mem := x } : State) f
  · intro d hd
    change (({ s with mem := x } : State).tellQueues f).mem.epoch d = _
    rw [hmem]
    exact hepoch d hd
  · intro q
    change (({ s with mem := x } : State).tellQueues f).mem.look _ q = _
    rw [hmem]
    exact hlook q

/-- A violation stops the function. -/
theorem hostAccess_violation (hup : s.boot.hostUp = true) (h8 : s.boot.stage = 8) (hq : quarter a < 2) (hfn : fn ≤ 16)
    (hf : fn ∉ s.frozenFns) {b : List Byte} (hb : b ≠ []) (hfit : a % 8 + b.length ≤ 8) (hok : s.hostMay fn a true = false) :
    ∃ t, exec (.hostAccess { fn := fn, addr := a, op := .write b }) s = .next t ∧ fn ∈ t.frozenFns ∧ t.mem = s.mem ∧
      t.outs = s.outs ++ [.vector 0 0, .resp fn a 0 false] := by
  obtain ⟨hfrozen, hmem, houts⟩ := s.freeze_host hfn a .write
  refine ⟨(s.freeze (s.hostMaster fn) a .write).respond { fn := fn, addr := a, op := .write b } none, ?_, hfrozen, hmem, ?_⟩
  · exact hostAccess_refused (r := { fn := fn, addr := a, op := .write b }) hup hf hq h8 (List.length_pos_iff.mpr hb) hfit hok
  · rw [State.respond, houts, List.append_assoc]
    rfl

end

/-! ## Fabric peers -/

/-- Start and size of the outward window of a port's partition. -/
def State.window (s : State) (port : Nat) : Nat × Nat :=
  let p := field (s.reg (pkgBlk (0x60000 + 8 * port))) 3 0
  (2 ^ 21 * field (s.reg (pkgBlk (0x62000 + 16 * p))) 47 21, 2 ^ 21 * field (s.reg (pkgBlk (0x62008 + 16 * p))) 17 0)

/-- The partition of a port. -/
def State.portPart (s : State) (port : Nat) : Nat := field (s.reg (pkgBlk (0x60000 + 8 * port))) 3 0

/-- The master of the accesses through a port. -/
def State.peerMaster (s : State) (port : Nat) : Master :=
  { die := port / 32, part := s.portPart port, space := 16 * s.portPart port, lid := none, code := 0, tid := 0 }

theorem State.window_mod (s : State) (port off : Nat) : ((s.window port).1 + off) % 8 = off % 8 := by
  unfold State.window
  dsimp only
  omega

section
variable {r : PeerReq} (h8 : s.boot.stage = 8) (hport : r.port < 64)
  (hv : bitAt (s.reg (pkgBlk (0x60000 + 8 * r.port))) 7 = true) (hoff : s.sys.off (r.port / 32) = false)
include h8 hport hv hoff

/-- An access of a peer that its partition may make, within the window, is performed. -/
theorem peerAccess_allowed (ha : reqAligned r.off r.op = true) (hn : 1 ≤ reqLen r.op) (hfit : r.off % 8 + reqLen r.op ≤ 8)
    (hsize : r.off + reqLen r.op ≤ (s.window r.port).2)
    (hok : s.allowed (s.portPart r.port) ((s.window r.port).1 + r.off) (reqKind r.op).writes = true)
    {x : State × Option Nat} (hx : s.serveReq (s.peerMaster r.port) ((s.window r.port).1 + r.off) r.rel r.acq r.op = x) :
    exec (.fabricPeerAccess r) s = .next (x.1.answerPeer r x.2) := by
  have hdie : r.port / 32 % 2 = r.port / 32 := Nat.mod_eq_of_lt (by omega)
  have hbad := firstBad_one (a := (s.window r.port).1 + r.off) hn (by rw [s.window_mod]; exact hfit)
    (fun a => s.allowed (s.portPart r.port) a (reqKind r.op).writes)
  rw [hok, if_pos rfl] at hbad
  unfold State.window State.portPart at *
  dsimp only at *
  change Host.Outcome.next _ = _
  rw [hdie, Nat.mul_comm _ (2 ^ 21), Nat.mul_comm _ (2 ^ 21), hv, hoff, ha, if_neg (by simp [h8, hport]), if_neg (by simp; omega), hbad, ← hx]
  rfl

/-- A peer reaches nothing beyond the size of its partition's window. -/
theorem peerAccess_beyond (hsize : (s.window r.port).2 < r.off + reqLen r.op) :
    exec (.fabricPeerAccess r) s = .next (s.answerPeer r none) := by
  have hdie : r.port / 32 % 2 = r.port / 32 := Nat.mod_eq_of_lt (by omega)
  unfold State.window at hsize
  change Host.Outcome.next _ = _
  rw [hdie, Nat.mul_comm _ (2 ^ 21), Nat.mul_comm _ (2 ^ 21), hv, hoff, if_neg (by simp [h8, hport]), if_pos (Or.inl hsize)]

end

theorem peerAccess_read {port off n : Nat} (h8 : s.boot.stage = 8) (hport : port < 64)
    (hv : bitAt (s.reg (pkgBlk (0x60000 + 8 * port))) 7 = true) (hoff : s.sys.off (port / 32) = false) (hn : 1 ≤ n)
    (hfit : off % 8 + n ≤ 8) (hsize : off + n ≤ (s.window port).2)
    (hok : s.allowed (s.portPart port) ((s.window port).1 + off) false = true) (hp : s.mem.Plain)
    (hline : (s.mem.line? (port / 32) (canonPa ((s.window port).1 + off) / 128)).isSome = true) :
    exec (.fabricPeerAccess { port := port, off := off, op := .read n }) s = .next { s with outs := s.outs ++
      [.peer port off (ofBytes ((List.range n).map (fun k => s.mem.hostByte (port / 32) (canonPa ((s.window port).1 + off) + k)))) true] } :=
  peerAccess_allowed (r := { port := port, off := off, op := .read n }) h8 hport hv hoff rfl hn hfit hsize hok
    (State.serveReq_read (m := s.peerMaster port) hp rfl rfl hline hn (by rw [s.window_mod]; exact hfit) false)

/-- Settles O46: register writes by the block of their address, requests and peers by what their access finds in memory, and
reports by the bytes of their mailbox. -/
theorem hostAndPeers : Obligations.HostAndPeers := by
  unfold Obligations.HostAndPeers
  intro s v
  refine ⟨fun hp h8 die l c w hd hl hc hw => ⟨?_, ?_, ?_⟩, ?_, ?_, ?_, ?_⟩
  · exact fun hoff => registerWrite_event hp h8 hd hl hc hw hoff v
  · exact fun hoff o ho h => registerWrite_die_off hp h8 hd ho h hoff v
  · exact registerWrite_budget hp h8 (Nat.mod_lt c (by decide)) (by omega) v
  · exact fun h8 a n hn ha => registerWrite_unreached h8 hn ha v
  · intro fn a n b rel acq ok die m hup h8 hq hfn
    refine ⟨fun hf hp hhome hline => ⟨fun hn hfit hok => ?_, fun hb hfit hok => ?_⟩, fun hf hb hfit hok => ?_, fun hf => ?_⟩
    · exact ⟨_, hostAccess_read hup h8 hq hf hp hline hn hfit hok acq, rfl⟩
    · exact hostAccess_write hup h8 hq hf hp hhome hline hb hfit hok rel
    · exact hostAccess_violation hup h8 hq hfn hf hb hfit hok
    · exact hostAccess_frozen hup hf
  · intro port off n r p a die h8 hport hv hoff hn hfit
    refine ⟨fun hsize hok hp hhome hline => ⟨_, ?_, rfl⟩, fun hsize => ?_⟩
    · exact peerAccess_read h8 hport hv hoff hn hfit hsize hok hp hline
    · exact peerAccess_beyond (r := { port := port, off := off, op := .read n }) h8 hport hv hoff hsize
  · intro fn hwf
    refine ⟨fun h8 hv hf hr => attestReq_begins hwf h8 hv hf hr, fun hr hk => reportDone_keyless hwf hr hk, fun hr hk => ?_⟩
    obtain ⟨key, hkey⟩ := Option.ne_none_iff_exists'.mp hk
    exact reportDone_signed hwf hr hkey

end Sys2Proof.Machine
end

section
/-! SUPPORT. One step: an event or an issue at the head of the agenda, what is noted after it, and the warps that it wakes
(02_execution.md R35 to R38, 16_recovery.md R438, R440; log entries 1, 5). -/

namespace Sys2Proof.Machine

/-! ## Corrected errors are counted -/

theorem dstat_eq_iff (k d : Nat) : k = d ↔ dieBlk k 0x4000 = dieBlk d 0x4000 := by
  unfold dieBlk
  omega

/-- CECNT of a die, and what else its DSTAT holds, after one error has been counted (16_recovery.md R440). -/
theorem State.countCe_fields (s : State) (k d : Nat) :
    field ((s.countCe k).reg (dieBlk d 0x4000)) 63 32 = field (s.reg (dieBlk d 0x4000)) 63 32 ∧
    field ((s.countCe k).reg (dieBlk d 0x4000)) 31 0 =
      min 0xFFFFFFFF (field (s.reg (dieBlk d 0x4000)) 31 0 + if k % 2 = d then 1 else 0) := by
  unfold State.countCe
  dsimp only
  rw [State.reg_setReg]
  by_cases h : k % 2 = d
  · rw [if_pos ((dstat_eq_iff (k % 2) d).mp h), if_pos h, h]
    have hv := (s.reg (dieBlk d 0x4000)).isLt
    unfold field
    rw [BitVec.toNat_ofNat]
    generalize (s.reg (dieBlk d 0x4000)).toNat = v at hv ⊢
    constructor <;> norm_num <;> omega
  · rw [if_neg (fun e => h ((dstat_eq_iff (k % 2) d).mpr e)), if_neg h]
    unfold field
    refine ⟨rfl, ?_⟩
    norm_num
    omega

/-- The same after a list of errors. -/
theorem foldl_countCe_fields (l : List Nat) (d : Nat) (s : State) :
    field ((l.foldl State.countCe s).reg (dieBlk d 0x4000)) 63 32 = field (s.reg (dieBlk d 0x4000)) 63 32 ∧
    field ((l.foldl State.countCe s).reg (dieBlk d 0x4000)) 31 0 =
      min 0xFFFFFFFF (field (s.reg (dieBlk d 0x4000)) 31 0 + (l.filter (fun k => decide (k % 2 = d))).length) := by
  induction l generalizing s with
  | nil =>
    have := field_lt (s.reg (dieBlk d 0x4000)) 31 0
    norm_num at this ⊢
    omega
  | cons k r ih =>
    obtain ⟨h1, h2⟩ := ih (s.countCe k)
    obtain ⟨k1, k2⟩ := s.countCe_fields k d
    rw [List.foldl_cons, h1, h2, k1, k2, List.filter_cons]
    refine ⟨rfl, ?_⟩
    by_cases h : k % 2 = d
    · simp only [h, decide_true, if_true, List.length_cons]; omega
    · simp only [h, decide_false, if_false, Bool.false_eq_true]; omega

/-! ## Warps that a happening wakes -/

/-- A map in which a value is left as it is still reads that value. -/
theorem SMap.get_mapVals_fixed {α : Type} (d : α) (f : Nat → α → α) (m : SMap α) (k : Nat) (h : f k (SMap.get d m k) = SMap.get d m k) :
    SMap.get d (mapVals f m) k = SMap.get d m k := by
  unfold SMap.get at h ⊢
  rw [SMap.find?_mapVals]
  cases hk : SMap.find? m k with
  | none => rfl
  | some v => rw [hk] at h; exact h

/-- A warp of the issuing core, and one in which no lane has come to be ready and that is up for issue no sooner than before, are
left as they are. -/
theorem State.rouse_warp_same (u s : State) (c : Option Nat) (k : Nat)
    (h : c = some (coreOf k) ∨ ∀ p ∈ (u.warp k).lanes, p.2.ready = false ∨ (((s.warp k).lane p.1).ready = true ∧ (s.warp k).swait = .none ∧
      (s.warp k).slot = .board ∧ (s.warp k).taskId = (u.warp k).taskId ∧ (s.warp k).lid = (u.warp k).lid)) :
    (u.rouse s c).warp k = u.warp k := by
  unfold State.rouse State.warp
  dsimp only
  refine SMap.get_mapVals_fixed _ _ _ _ ?_
  refine if_pos (h.imp id (fun h => ?_))
  rw [Bool.not_eq_true', List.any_eq_false]
  intro p hp
  rcases h p hp with h | ⟨h1, h2, h3, h4, h5⟩
  · simp [h]
  · unfold State.warp at h1 h2 h3 h4 h5
    simp [h1, h2, h3, h4, h5]

/-! ## Notes after a happening, and lanes that have met -/

theorem State.reckon_none (u : State) (hg : u.mem.granules = []) (hp : u.mem.poisons = []) : u.reckon = u := by
  simp [State.reckon, State.noteTouched, hg, hp]

theorem State.mendResults_sound (u s : State) (i : Instr) (h : u.mem.upsets = []) : u.mendResults s i = u := by
  have hf (l : List Upset) : l.filter u.spoilt = [] := List.filter_eq_nil_iff.mpr (fun x _ => by simp [State.spoilt, h])
  unfold State.mendResults
  dsimp only
  rw [hf]
  rfl

/-- Where no lane waited and the instruction is neither a join nor a wait, no lanes have met. -/
theorem State.meetAfter_none (u s : State) (i : Instr) (hw : ∀ j, ((s.warp s.cur.warp).lane j).wait = .none)
    (hi : ∀ n m, i ≠ .mjoin n m ∧ i ≠ .mwait n m) : u.meetAfter s i = u := by
  unfold State.meetAfter
  generalize List.range 12 = l
  induction l with
  | nil => rfl
  | cons k r ih =>
    rw [List.foldl_cons, if_pos]
    · exact ih
    · cases i <;> first | exact absurd rfl (hi _ _).1 | exact absurd rfl (hi _ _).2 | simp [hw]

/-! ## What a step does -/

theorem step_first {s : State} {h : Happening} {r : List Happening} (hs : s.agenda = h :: r) :
    step s = ({ s with agenda := (firstOf h r).2 } : State).happen (firstOf h r).1 := by
  unfold step
  rw [hs]

/-- The head of the agenda, where nothing after it belongs to its core cycle. -/
theorem firstOf_alone {h : Happening} {r : List Happening} (hr : ∀ y, r.head? = some y → y.who.together = false) :
    firstOf h r = (h, r) := by
  have : r.takeWhile (fun x => x.who.together && decide (x.what = none)) = [] := by
    cases r with
    | nil => rfl
    | cons y r => simp [hr y rfl]
  simp [firstOf, this]

/-- An event whose own structure is sound happens. -/
theorem State.execEvent_sound (s : State) (i : Instr) (h : s.mem.upsets = [] ∨ s.upsetOf i = none) : s.execEvent i = exec i s := by
  unfold State.execEvent
  split
  · rfl
  · rename_i hn
    rcases h with h | h
    · simp [h] at hn
    · rw [h]

/-- An instruction whose sources are sound executes. -/
theorem State.execIssued_sound {s u : State} {i : Instr} (h : s.badSources i = []) (he : exec i s = .next u)
    (hu : (u.meetAfter s i).mem.upsets = []) : s.execIssued i = .next (u.meetAfter s i) := by
  unfold State.execIssued
  rw [h, he]
  dsimp only
  rw [State.mendResults_sound _ _ _ hu]

/-- The step of an event at the head of the agenda. -/
theorem step_event {s : State} {h : Happening} {who : Actor} {i : Instr} {r rest : List Happening} (hs : s.agenda = h :: r)
    (hf : firstOf h r = ({ who := who, what := some i }, rest)) :
    step s = rouseAnswer { ({ s with agenda := rest } : State).countCorrected with tick := s.tick + 1 } none
      (({ ({ s with agenda := rest } : State).countCorrected with tick := s.tick + 1, cur := who } : State).execEvent i) := by
  rw [step_first hs, hf]
  rfl

/-- The step of an issue at the head of the agenda, of a group that may issue. -/
theorem step_issue {s : State} {h : Happening} {who : Actor} {r rest : List Happening} (hs : s.agenda = h :: r)
    (hf : firstOf h r = ({ who := who, what := none }, rest)) {s1 : State}
    (h1 : s1 = { ({ s with agenda := rest } : State).countCorrected with tick := s.tick + 1 }.syncAll.interlock)
    (hg : s1.issuers who ≠ 0) :
    step s = rouseAnswer s1 (some (coreOf who.warp)) (s1.issueWord who (s1.issuers who)) := by
  subst h1
  rw [step_first hs, hf]
  exact if_neg hg

/-- Settles O6: the step of an event, what its own structure lets happen, and what counting the corrected errors changes. -/
theorem stepMakesEvent : Obligations.StepMakesEvent := by
  unfold Obligations.StepMakesEvent
  intro s h who i r rest hs hf c s1 s2
  have hstep : step s = rouseAnswer s1 none (s2.execEvent i) := step_event hs hf
  have hc : c = { ({ s with agenda := rest } : State) with regs := c.regs, corrected := [] } := State.countCorrected_rest _
  refine ⟨hstep, s2.execEvent_sound i, fun u hu he => ?_, fun u => ⟨rfl, fun k hk => u.rouse_warp_same s1 none k (Or.inr hk)⟩,
    by rw [hc], State.countCorrected_none { s with agenda := rest }, by rw [hc], by rw [hc], fun d _ => foldl_countCe_fields s.corrected d _⟩
  rw [hstep, s2.execEvent_sound i hu, he]
  rfl

/-- Settles O4: the step of an issue, through the fetch and the decoder, and what is noted and woken after it. -/
theorem stepRunsDecoded : Obligations.StepRunsDecoded := by
  unfold Obligations.StepRunsDecoded
  intro s t h who r rest x e g i hs hf s1 group w hgroup hfetch hdec s2
  have hword : s1.issueWord who group = s2.execIssued i := by
    unfold State.issueWord
    dsimp only
    rw [hfetch]
    dsimp only
    rw [hdec]
  have hstep : step s = rouseAnswer s1 (some (coreOf who.warp)) (s2.execIssued i) := by
    rw [step_issue hs hf rfl hgroup, hword]
  refine ⟨hstep, fun u hb he hu => ?_, fun u hw hi => u.meetAfter_none s2 i hw hi, fun u hg hp => u.reckon_none hg hp,
    fun u => ⟨rfl, fun k hk => u.rouse_warp_same s1 _ k (Or.inl (by rw [hk]))⟩, firstOf_alone⟩
  rw [hstep, State.execIssued_sound hb he hu]
  rfl

end Sys2Proof.Machine
end

section
/-! SUPPORT. Traps that the lanes of a group, or the strand for every live lane, raise at once, and the divergence of a warp
(02_execution.md R36, R38, 16_recovery.md R446, R447). -/

namespace Sys2Proof.Machine

/-! ## Traps that a handler takes -/

/-- Some lanes of the issuer's warp have entered the handler together, each from an address of its own, and nothing else has changed
but where and whether the warp is converged, and what its strand last waited on (16_recovery.md R447). -/
structure State.Entered (s t : State) (is : List Nat) (code : Nat) (pc : Nat → Addr) : Prop where
  rest : t = { s with warps := t.warps }
  others : ∀ k, k ≠ s.cur.warp → t.warp k = s.warp k
  shared : t.warp s.cur.warp =
    { s.warp s.cur.warp with lanes := (t.warp s.cur.warp).lanes, converged := (t.warp s.cur.warp).converged,
                             spc := (t.warp s.cur.warp).spc, dq := (t.warp s.cur.warp).dq, waitOn := (t.warp s.cur.warp).waitOn }
  entered : ∀ j ∈ is, ((s.warp s.cur.warp).lane j).Enters ((t.warp s.cur.warp).lane j) code 0 (pc j) (maskOf (fun k => decide (k ∈ is)))
    (s.warp s.cur.warp).tvec
  stayed : ∀ j, j ∉ is → (t.warp s.cur.warp).lane j = (s.warp s.cur.warp).lane j
  strand : is ≠ [] → (t.warp s.cur.warp).dq = [] ∧ (t.warp s.cur.warp).waitOn = none ∧
    (t.warp s.cur.warp).converged = ((s.warp s.cur.warp).converged && decide (maskOf (fun k => decide (k ∈ is)) = (s.warp s.cur.warp).live)) ∧
    (t.warp s.cur.warp).spc = (if (t.warp s.cur.warp).converged then (s.warp s.cur.warp).tvec.setWidth 56 else (s.warp s.cur.warp).spc)

theorem Lane.enter_enters (l : Lane) (t : TrapIn) (mask : Word) (tvec : Word64) (h : t.code ≠ 0x10) :
    l.Enters (l.enter t mask tvec) t.code t.arg t.pc mask tvec := by
  simp only [Lane.Enters, Lane.enter, if_neg h]

theorem State.takeTraps_entered {s : State} (hh : s.Handled) {is : List Nat} (hn : is.Nodup)
    (hl : ∀ i ∈ is, i ∈ lanesOf (s.warp s.cur.warp).live) {code : Nat} (hc : code ≠ 0x10) (pc : Nat → Addr) :
    s.Entered (s.takeTraps s.cur.warp (is.map (fun i => { lane := i, code := code, pc := pc i }))) is code pc := by
  obtain ⟨htv, hb, hw, hf, hin⟩ := hh
  by_cases hne : is = []
  · subst hne
    exact ⟨rfl, fun _ _ => rfl, rfl, fun j hj => absurd hj List.not_mem_nil, fun _ _ => rfl, fun h => absurd rfl h⟩
  · obtain ⟨ls, c, p, h1, h2, h3, h4⟩ := State.takeTraps_handled s s.cur.warp is (fun i => { lane := i, code := code, pc := pc i }) (fun _ => rfl)
      hn (fun i hi => (Warp.mem_live.mp (hl i hi)).1) (fun _ _ => hc) hne htv (fun i hi => hin i (hl i hi)) hb
    rw [h1]
    refine ⟨rfl, fun k hk => ?_, ?_, fun j hj => ?_, fun j hj => ?_, fun _ => ?_⟩
    · rw [State.warp_setWarp, if_neg (Ne.symm hk)]
    · rw [State.warp_setWarp_same, ← hw, ← hf]
    · rw [State.warp_setWarp_same]
      have hj' := (h2 j).trans (if_pos hj)
      unfold Warp.lane
      rw [hj']
      exact Lane.enter_enters _ _ _ _ hc
    · rw [State.warp_setWarp_same]
      exact (h2 j).trans (if_neg hj)
    · rw [State.warp_setWarp_same]
      exact ⟨rfl, rfl, h3, h4⟩

/-- The executing lanes trap at their PCs. -/
theorem State.lanesTrap_entered {s : State} (hh : s.Handled) {code : Nat} (hc : code ≠ 0x10) :
    s.Entered (s.lanesTrap code) s.execLanes code (fun i => ((s.warp s.cur.warp).lane i).pc) :=
  State.takeTraps_entered hh s.execLanes_nodup
    (fun _ hi => Warp.mem_live.mpr ⟨State.execLanes_lt hi, State.execLanes_live hi⟩) hc _

/-- Traps that no instruction is executed to raise split a group of which every lane traps. -/
theorem State.Entered.split {s t : State} {code : Nat} (h : s.Entered t s.execLanes code (fun i => ((s.warp s.cur.warp).lane i).pc))
    (hg : s.glitch = none) (hc : code ≠ 0x11 ∧ code ≠ 0x12) (n : Stall) (len : Nat) (e : View → Effect) :
    s.Split t n len e (fun v => some (code, 0, v.ln.pc)) := by
  obtain ⟨h1, h2, h3, h4, h5, -⟩ := h
  have hmask : maskOf (fun k => decide (k ∈ s.execLanes)) =
      maskOf (fun k => decide (k ∈ s.execLanes) && (some (code, 0, (s.view k).ln.pc)).isSome) := by simp
  refine ⟨⟨hg ▸ h1, h2, ?_, h5⟩, fun j hj => ?_, ?_, ?_⟩
  · rw [h3]
  · have := h4 j hj
    rw [hmask] at this
    dsimp only [Lane.counted]
    rw [if_neg (not_or.mpr hc)]
    exact this
  · rw [h3]
  · rw [h3]

/-- The strand traps at its PC: every live lane enters the handler, and the strand with them. -/
theorem State.strandTrap_traps {s : State} (hh : s.Handled) (hv : (s.warp s.cur.warp).converged = true) (hl : (s.warp s.cur.warp).live ≠ 0)
    {code : Nat} (hc : code ≠ 0x10) {i : Instr} (hx : exec i s = .next (s.strandTrap s.cur.warp code (s.warp s.cur.warp).spc)) :
    s.StrandTraps i code := by
  have hmask : maskOf (fun k => decide (k ∈ lanesOf (s.warp s.cur.warp).live)) = (s.warp s.cur.warp).live := by
    apply bit_ext
    intro k hk
    rw [bitAt_maskOf]
    simp [mem_lanesOf, hk]
  have hne : lanesOf (s.warp s.cur.warp).live ≠ [] := by
    intro h0
    apply hl
    rw [← hmask, h0]
    rfl
  obtain ⟨h1, h2, h3, h4, h5, h6⟩ := State.takeTraps_entered hh (lanesOf_nodup _) (fun _ h => h) hc (fun _ => (s.warp s.cur.warp).spc)
  obtain ⟨k1, k2, k3, k4⟩ := h6 hne
  rw [hmask, decide_eq_true rfl, Bool.and_true] at k3
  rw [k3, if_pos hv] at k4
  rw [k1, k2, k3, k4] at h3
  refine ⟨_, hx, h1, h2, ?_, fun j => ?_⟩
  · exact h3
  · split
    · rename_i hj
      exact hmask ▸ h4 j hj
    · rename_i hj
      exact h5 j hj

/-- A word that is rejected, or a group of a diverged warp at a word of the U-set, splits the group. -/
theorem State.lanesTrap_split {s : State} (hh : s.Handled) (hg : s.glitch = none) {code : Nat} (hc : code ≠ 0x10 ∧ code ≠ 0x11 ∧ code ≠ 0x12)
    (n : Stall) (len : Nat) (e : View → Effect) : s.Split (s.lanesTrap code) n len e (fun v => some (code, 0, v.ln.pc)) :=
  (State.lanesTrap_entered hh hc.1).split hg hc.2 n len e

/-! ## Where a warp stands after its lanes have moved -/

theorem mem_lanesOf_ne_zero {m : Word} (h : m ≠ 0) : ∃ i r, lanesOf m = i :: r := by
  cases hm : lanesOf m with
  | cons i r => exact ⟨i, r, rfl⟩
  | nil =>
    refine absurd (bit_ext fun k hk => ?_) h
    by_contra hb
    have : k ∈ lanesOf m := mem_lanesOf.mpr ⟨hk, by simpa [bitAt] using hb⟩
    rw [hm] at this
    exact List.not_mem_nil this

/-- Every live lane at one address keeps the warp converged, with the strand there. -/
theorem Warp.settle_together {w : Warp} {p : Addr} (hc : w.converged = true) (hl : w.live ≠ 0) (h : ∀ i ∈ lanesOf w.live, (w.lane i).pc = p) :
    w.settle = { w with spc := p, dq := if p = w.spc then w.dq else [] } := by
  obtain ⟨i, r, hm⟩ := mem_lanesOf_ne_zero hl
  rw [hm] at h
  have hi : (w.lane i).pc = p := h i List.mem_cons_self
  have hr : r.all (fun j => decide ((w.lane j).pc = p)) = true :=
    List.all_eq_true.mpr (fun j hj => decide_eq_true (h j (List.mem_cons_of_mem _ hj)))
  simp only [Warp.settle, hc, hm, hi, hr, if_true]

/-- Two live lanes at different addresses diverge the warp. -/
theorem Warp.settle_apart {w : Warp} (hc : w.converged = true)
    (h : ∃ i ∈ lanesOf w.live, ∃ j ∈ lanesOf w.live, (w.lane i).pc ≠ (w.lane j).pc) : w.settle = { w with converged := false, dq := [] } := by
  obtain ⟨i, hi, j, hj, hij⟩ := h
  cases hm : lanesOf w.live with
  | nil => rw [hm] at hi; exact absurd hi List.not_mem_nil
  | cons k r =>
    have hr : ¬ (r.all (fun j => decide ((w.lane j).pc = (w.lane k).pc)) = true) := by
      intro hall
      have hk : ∀ x ∈ lanesOf w.live, (w.lane x).pc = (w.lane k).pc := by
        intro x hx
        rw [hm] at hx
        rcases List.mem_cons.mp hx with rfl | hx
        · rfl
        · exact of_decide_eq_true (List.all_eq_true.mp hall x hx)
      exact hij ((hk i hi).trans (hk j hj).symm)
    simp only [Warp.settle, hc, hm, if_true, if_neg hr]

/-- A word of the U-set is not fetched further for a group of a diverged warp. -/
theorem State.fetch_uset {s t : State} {m : Master} {failed : List (Nat × Nat)} {pc : Addr} {x : Word}
    (h : s.fetchWord m failed pc = (t, .word x)) (hx : bitAt x 31 = true) : s.fetch m failed pc false = (t, .uset) := by
  simp only [State.fetch, h, hx, Bool.not_false, Bool.and_self, if_true]

/-- A strand instruction that a group of a diverged warp reaches is not executed. -/
theorem strandOp_diverged {s : State} (hc : (s.warp s.cur.warp).converged = false) (u : Nat × Nat) (reads : List Nat) (body : State → State) :
    strandOp u reads body s = .next (s.lanesTrap 0x02) := by
  simp only [strandOp, State.strandCheck, hc, Bool.not_false, if_true]
  rfl

/-- Settles O24: where a warp stands after its lanes have moved, and the traps of a group at a word of the U-set. -/
theorem divergence : Obligations.Divergence := by
  unfold Obligations.Divergence
  refine ⟨fun w p hc hl => ⟨Warp.settle_together hc hl, Warp.settle_apart hc⟩, fun s t m failed pc x => State.fetch_uset, ?_, ?_⟩
  · intro s t h who r rest n hs hf s1 group w hgroup hc hfetch s2 hh hg
    refine ⟨_, State.lanesTrap_split hh hg (code := 0x02) (by decide) n 4 _, ?_⟩
    have hword : s1.issueWord who group = .next (s2.lanesTrap 0x02) := by
      unfold State.issueWord
      dsimp only
      rw [hc, hfetch]
    rw [step_issue hs hf rfl hgroup, hword]
    rfl
  · intro s n d a b hh hg hc
    have hx : exec (.sadd n d a b) s = sOp2 n 1 1 d a b (fun x y => x + y) s := rfl
    exact ⟨_, hx.trans (strandOp_diverged hc _ _ _), State.lanesTrap_split hh hg (by decide) n 4 _⟩

end Sys2Proof.Machine
end

section
/-! SUPPORT. Calls of the lanes: what a call that finds the hardware return stack full leaves on its way to the main file
(02_execution.md R32, 03_encoding.md R72). -/

namespace Sys2Proof.Machine

/-- Where every executing lane has room for the call, each is what the results of its call make of it. -/
theorem call_moves {s : State} (n : Stall) (o : BitVec 21) (hc : s.Clear [])
    (h : ∀ i ∈ s.execLanes, ((s.warp s.cur.warp).lane i).rstk.length < 8 ∨ ((s.warp s.cur.warp).lane i).spill.length < 8) :
    s.Moves (.call n o) (fun v l l' => l' = l.finish 4 0 n.toNat (v.ln.call (target v.ln.pc o))) := by
  have hx : exec (.call n o) s = laneOp n 4 0 (0, 0) (fun _ => []) (fun v => v.ln.call (target v.ln.pc o)) s := rfl
  have hroom : ∀ l : Lane, l.rstk.length < 8 ∨ l.spill.length < 8 → ∀ p, (l.call p).Quiet ∧ (l.call p).trap = none ∧
      (l.call p).hold = none ∧ (l.call p).ends = none := by
    intro l hl p
    unfold Lane.call
    split
    · exact ⟨⟨rfl, rfl⟩, rfl, rfl, rfl⟩
    · split
      · exact ⟨⟨rfl, rfl⟩, rfl, rfl, rfl⟩
      · omega
  have hq := fun j hj => hroom _ (h j hj)
  exact laneOp_moves hx hc (fun _ _ _ hr => hr) (fun j hj => ⟨(hq j hj _).1, (hq j hj _).2.1⟩)
    (.inl (fun j hj => ⟨(hq j hj _).2.2.1, (hq j hj _).2.2.2⟩))

/-- A call moves the oldest return address to the main file, where it is still on its way: a call has no latency of its own. -/
theorem Lane.call_spill_awaits {l : Lane} (h8 : l.rstk.length = 8) (h0 : l.spill = []) (n : Nat) (p : Addr) :
    (l.finish 4 0 n (l.call p)).await = { res := .m 127 } :: l.await.filter (fun a => !decide (a.res = .m 127)) := by
  simp [Lane.call, h8, h0, Lane.finish, LaneRes.awaits, LaneRes.lands]

/-- A task whose only lane has filled the hardware return stack. -/
def fullStackTask : State :=
  { State.reset with
    warps := [(0, { slot := .board, lanes := [(0, { Lane.dflt with st := .live, rstk := List.replicate 8 0x40 })] })]
    cur := { warp := 0, lanes := 1 } }

theorem fullStackTask_execLanes : fullStackTask.execLanes = [0] := by decide +kernel

/-- Refutes O18: a call with eight entries in the hardware stack moves the oldest to m127, and that write stands among the lane's
results on their way, which the statement's frame for calls keeps as they were. -/
theorem not_laneBranches : ¬ Obligations.LaneBranches := by
  unfold Obligations.LaneBranches
  rintro ⟨h, -⟩
  have hl : ((fullStackTask.warp fullStackTask.cur.warp).lane 0) = { Lane.dflt with st := .live, rstk := List.replicate 8 0x40 } := rfl
  have hclear : fullStackTask.Clear [] := ⟨rfl, fun _ _ _ _ hr => absurd hr List.not_mem_nil⟩
  have hex : ∀ {P : Nat → Prop}, P 0 → ∀ i ∈ fullStackTask.execLanes, P i := by
    intro P h0 i hi
    rw [fullStackTask_execLanes, List.mem_singleton] at hi
    exact hi ▸ h0
  obtain ⟨-, -, -, -, -, hcall, -⟩ := h fullStackTask 0 .lane 0 0 0 0
  obtain ⟨t, ht, -, hm, -⟩ := hcall hclear (hex (by rw [hl]; decide))
  obtain ⟨t', ht', -, hm', -⟩ := call_moves 0 0 hclear (hex (by rw [hl]; decide))
  obtain rfl : t = t' := by rw [ht] at ht'; injection ht'
  have h0 : 0 ∈ fullStackTask.execLanes := by rw [fullStackTask_execLanes]; exact List.mem_singleton_self 0
  have hkept := congrArg Lane.await (hm 0 h0).1
  rw [hm' 0 h0, show (fullStackTask.view 0).ln = _ from hl, hl, Lane.call_spill_awaits rfl rfl] at hkept
  exact absurd hkept (by decide)

end Sys2Proof.Machine
end

section
/-! SUPPORT. Groups of which every lane traps within a gap (03_encoding.md R75, R76), effects that write the same, and the moves
between the register files (07_lane_arith.md R172 to R177). -/

namespace Sys2Proof.Machine

/-! ## Effects and traps, seen lane by lane -/

/-- What a split says depends on the traps and effects of the executing lanes alone. -/
theorem State.Split.congr {s t : State} {n : Stall} {len : Nat} {e e' : View → Effect} {trap trap' : View → Option (Nat × Nat × Addr)}
    (h : s.Split t n len e trap) (ht : ∀ j ∈ s.execLanes, trap (s.view j) = trap' (s.view j))
    (he : ∀ j ∈ s.execLanes, trap (s.view j) = none → e (s.view j) = e' (s.view j)) : s.Split t n len e' trap' := by
  obtain ⟨hl, hs, hm, hf⟩ := h
  have hmask : maskOf (fun k => decide (k ∈ s.execLanes) && (trap (s.view k)).isSome) =
      maskOf (fun k => decide (k ∈ s.execLanes) && (trap' (s.view k)).isSome) := by
    congr 1
    funext k
    by_cases hk : k ∈ s.execLanes
    · rw [ht k hk]
    · simp only [hk, decide_false, Bool.false_and]
  refine ⟨hl, fun j hj => ?_, hm, hf⟩
  have hj' := hs j hj
  rw [hmask] at hj'
  cases hx : trap (s.view j) with
  | none =>
    rw [← ht j hj]
    rw [hx] at hj' ⊢
    exact he j hj hx ▸ hj'
  | some c =>
    rw [← ht j hj]
    rw [hx] at hj' ⊢
    exact hj'

theorem State.Splits.congr {s : State} {i : Instr} {n : Stall} {len : Nat} {e e' : View → Effect} {trap trap' : View → Option (Nat × Nat × Addr)}
    (h : s.Splits i n len e trap) (ht : ∀ j ∈ s.execLanes, trap (s.view j) = trap' (s.view j))
    (he : ∀ j ∈ s.execLanes, trap (s.view j) = none → e (s.view j) = e' (s.view j)) : s.Splits i n len e' trap' :=
  let ⟨t, hx, hs⟩ := h
  ⟨t, hx, hs.congr ht he⟩

/-- A state whose warps read the same sees the same split. -/
theorem State.Split.of_same {s s' t : State} {n : Stall} {len : Nat} {e : View → Effect} {trap : View → Option (Nat × Nat × Addr)}
    (hs : s' = { s with warps := s'.warps }) (hw : ∀ k, s'.warp k = s.warp k) (h : s'.Split t n len e trap) : s.Split t n len e trap := by
  have hc : s'.cur = s.cur := by rw [hs]
  have he : s'.execLanes = s.execLanes := by simp only [State.execLanes, hc, hw]
  have hv : s'.view = s.view := by
    funext i
    simp only [State.view, hc, hw]
    rw [show s'.tick = s.tick by rw [hs]]
  obtain ⟨⟨h1, h2, h3, h4⟩, h5, h6, h7⟩ := h
  rw [hs] at h1
  simp only [hc, he, hv, hw] at h2 h3 h4 h5 h6 h7
  exact ⟨⟨h1, h2, h3, h4⟩, h5, h6, h7⟩

/-! ## Gaps -/

/-- An executing lane reads something within its gap, and gap checking is on. -/
theorem State.laneCheck_gap {s : State} {u : Nat × Nat} {reads : View → List LRes} {i : Nat}
    (hc : (s.warp s.cur.warp).seenChk s.cur.second = true) (h : ∃ r ∈ reads (s.view i), (pendOf (s.view i).ln.pend r).isSome = true) :
    s.laneCheck u reads i = some 0x03 := by
  have ha : (reads (s.view i)).any (fun r => (pendOf (s.view i).ln.pend r).isSome) = true := List.any_eq_true.mpr h
  unfold State.laneCheck
  dsimp only
  rw [show (s.view i).w = s.warp s.cur.warp from rfl, show (s.view i).second = s.cur.second from rfl, hc, ha]
  rfl

/-- The results of a group of which every lane traps: neither its stall nor its length count. -/
theorem State.finishLanes_allTrap {s : State} (hh : s.Handled) (hk : s.Calm) (hg : s.glitch = none) (n m : Stall) (len lat : Nat)
    (u : Nat × Nat) {code : Nat} (hc : code ≠ 0x10 ∧ code ≠ 0x11 ∧ code ≠ 0x12) :
    s.Split (s.finishLanes s.cur.warp len lat m.toNat u (s.execLanes.map (fun i => (i, .trapped code)))) n 4 (fun _ => {})
      (fun v => some (code, 0, v.ln.pc)) := by
  obtain ⟨h1, h2, h3⟩ := State.finishLanes_split s len lat m u (fun _ => .trapped code) hk hh hg
    (fun _ _ => ⟨⟨rfl, rfl⟩, nofun, fun h => hc.1 (Option.some.inj h)⟩)
  refine ⟨h1, fun j hj => ?_, h3⟩
  have hj' := h2 j hj
  simp only [LaneRes.trapped, Option.map_some, not_or.mpr hc.2, if_false, Lane.counted] at hj'
  simpa only [LaneRes.trapped, Lane.counted, not_or.mpr hc.2, if_false] using hj'

/-- An instruction of the lanes, of which each executing lane reads something within its gap. -/
theorem laneOp_gapped {s : State} {i : Instr} {m : Stall} {len lat : Nat} {u : Nat × Nat} {reads : View → List LRes} {f : View → LaneRes}
    (hx : exec i s = laneOp m len lat u reads f s) (hh : s.Handled) (hk : s.Calm) (hg : s.glitch = none)
    (hc : (s.warp s.cur.warp).seenChk s.cur.second = true)
    (hp : ∀ j ∈ s.execLanes, ∃ r ∈ reads (s.view j), (pendOf (s.view j).ln.pend r).isSome = true) (n : Stall) :
    s.Splits i n 4 (fun _ => {}) (fun v => some (0x03, 0, v.ln.pc)) := by
  have hl : laneOp m len lat u reads f s =
      .next (s.finishLanes s.cur.warp len lat m.toNat u (s.execLanes.map (fun j => (j, .trapped 0x03)))) := by
    unfold laneOp
    congr 2
    exact List.map_congr_left (fun j hj => by rw [State.laneCheck_gap hc (hp j hj)])
  exact ⟨_, hx.trans hl, State.finishLanes_allTrap hh hk hg n m len lat u (by decide)⟩

/-- Every lane of the group has trapped, in a warp of which none waits: none waits afterwards either. -/
theorem State.Split.calm {s t : State} {n : Stall} {len code : Nat} {e : View → Effect} (hk : s.Calm)
    (h : s.Split t n len e (fun v => some (code, 0, v.ln.pc))) : ∀ i ∈ lanesOf (t.warp s.cur.warp).live, ((t.warp s.cur.warp).lane i).wait = .none := by
  obtain ⟨h1, h2, -⟩ := h
  intro i hi
  by_cases hx : i ∈ s.execLanes
  · rw [show _ = _ from h2 i hx]
  · have hm := Warp.mem_live.mp hi
    rw [h1.idle i hx] at hm ⊢
    exact hk i (Warp.mem_live.mpr hm)

/-- A round at which no lane arrives and none waits. -/
theorem roundOp_gapped {s : State} {i : Instr} {m : Stall} {lat mk : Nat} {u : Nat × Nat} {reads : View → List LRes}
    {f : List Nat → Nat → LaneRes} (hx : exec i s = roundOp m lat u mk reads f s) (hh : s.Handled) (hk : s.Calm) (hg : s.glitch = none)
    (hc : (s.warp s.cur.warp).seenChk s.cur.second = true)
    (hp : ∀ j ∈ s.execLanes, ∃ r ∈ reads (s.view j), (pendOf (s.view j).ln.pend r).isSome = true) (n : Stall) :
    s.Splits i n 4 (fun _ => {}) (fun v => some (0x03, 0, v.ln.pc)) := by
  have hnone : (s.warp s.cur.warp).waiters mk s.groupPc = [] := by
    refine List.filter_eq_nil_iff.mpr (fun j hj => ?_)
    rw [hk j hj]
    simp
  have hgap : ∀ j ∈ s.execLanes, ({ s with glitch := none } : State).laneCheck u reads j = some 0x03 := fun j hj => State.laneCheck_gap hc (hp j hj)
  have hturned : (s.arrive u mk reads).turned = s.execLanes.map (fun j => (j, 0x03)) := by
    unfold State.arrive
    dsimp only
    rw [← List.filterMap_eq_map]
    exact List.filterMap_congr (fun j hj => by rw [hgap j hj]; rfl)
  have hinst : (s.arrive u mk reads).inst = [] := by
    unfold State.arrive
    dsimp only
    rw [hnone, List.append_nil]
    refine List.filter_eq_nil_iff.mpr (fun j _ hj => ?_)
    obtain ⟨hj1, hj2⟩ := List.mem_filter.mp (List.contains_iff_mem.mp hj)
    rw [hgap j hj1] at hj2
    cases hj2
  have hmap : (s.arrive u mk reads).turned.map (fun p => (p.1, LaneRes.trapped p.2)) = s.execLanes.map (fun j => (j, .trapped 0x03)) := by
    rw [hturned, List.map_map]
    rfl
  by_cases hcom : (s.arrive u mk reads).complete = true
  · refine ⟨_, hx.trans ?_, State.finishLanes_allTrap hh hk hg n m 4 lat u (code := 0x03) (by decide)⟩
    simp only [roundOp, hinst, hmap, hcom, if_true, List.filter_nil, List.map_nil, List.nil_append]
  · let s' : State := s.updWarp s.cur.warp id
    have hw : ∀ k, s'.warp k = s.warp k := by
      intro k
      rw [State.warp_updWarp]
      split
      · rename_i h; rw [← h]; rfl
      · rfl
    have he : s'.execLanes = s.execLanes := by simp only [State.execLanes, hw]; rfl
    have hk' : s'.Calm := by
      unfold State.Calm
      simp only [hw]
      exact hk
    have hh' : s'.Handled := by
      unfold State.Handled
      simp only [hw]
      exact hh
    have hs := State.finishLanes_allTrap hh' hk' hg n m 4 lat u (code := 0x03) (by decide)
    have hstir := State.stir_calm _ _ (hs.calm hk')
    refine ⟨_, hx.trans ?_, hs.of_same rfl hw⟩
    rw [he] at hstir ⊢
    simp only [roundOp, hinst, hmap, if_neg hcom]
    change Host.Outcome.next ({ (s'.finishLanes s'.cur.warp 4 lat m.toNat u (s.execLanes.map (fun i => (i, .trapped 0x03)))).stir s'.cur.warp with
      glitch := s.glitch } : State) = _
    rw [hstir, hg]
    rfl

/-- How an instruction that acts within its warp reads the registers and masks that it names: it names none, or its lanes read them,
each for itself or at a round. -/
inductive ReadsSources (s : State) (i : Instr) : Prop
  | nothing (h : ∀ l, laneSources l i ++ maskSources i = [])
  | lanes {n : Stall} {len lat : Nat} {u : Nat × Nat} {reads : View → List LRes} {f : View → LaneRes}
      (hx : exec i s = laneOp n len lat u reads f s) (h : ∀ v, ∀ r ∈ laneSources v.ln i ++ maskSources i, r ∈ reads v)
  | round {n : Stall} {lat mk : Nat} {u : Nat × Nat} {reads : View → List LRes} {f : List Nat → Nat → LaneRes}
      (hx : exec i s = roundOp n lat u mk reads f s) (h : ∀ v, ∀ r ∈ laneSources v.ln i ++ maskSources i, r ∈ reads v)

section
variable {s : State} {i : Instr} {n : Stall} {lat : Nat} {u : Nat × Nat} {d : Dst} {a b c : Src}

theorem ReadsSources.one {f : Word → Word} (hx : exec i s = laneOp1 n lat u d a f s)
    (h : ∀ l, laneSources l i ++ maskSources i = srcRes a) : ReadsSources s i := .lanes hx (fun v _ hr => h v.ln ▸ hr)

theorem ReadsSources.two {f : Word → Word → Word} (hx : exec i s = laneOp2 n lat u d a b f s)
    (h : ∀ l, laneSources l i ++ maskSources i = srcRes a ++ srcRes b) : ReadsSources s i := .lanes hx (fun v _ hr => h v.ln ▸ hr)

theorem ReadsSources.three {f : Word → Word → Word → Word} (hx : exec i s = laneOp3 n lat u d a b c f s)
    (h : ∀ l, laneSources l i ++ maskSources i = srcRes a ++ srcRes b ++ srcRes c) : ReadsSources s i := .lanes hx (fun v _ hr => h v.ln ▸ hr)

theorem ReadsSources.flagged_one {f : Bool → Word → Flagged Word} (hx : exec i s = flagOp1 n lat u d a f s)
    (h : ∀ l, laneSources l i ++ maskSources i = srcRes a) : ReadsSources s i := .lanes hx (fun v _ hr => h v.ln ▸ hr)

theorem ReadsSources.flagged_two {f : Bool → Word → Word → Flagged Word} (hx : exec i s = flagOp2 n lat u d a b f s)
    (h : ∀ l, laneSources l i ++ maskSources i = srcRes a ++ srcRes b) : ReadsSources s i := .lanes hx (fun v _ hr => h v.ln ▸ hr)

theorem ReadsSources.two_masks {p q r : BitVec 4} {f : Bool → Bool → Bool} (hx : exec i s = maskOp2 n p q r f s)
    (h : ∀ l, laneSources l i ++ maskSources i = [.mk q.toNat, .mk r.toNat]) : ReadsSources s i := .lanes hx (fun v _ hr => h v.ln ▸ hr)

end

/-- The lanes read a mask besides. -/
theorem mem_mask_first {l : List LRes} {k : Nat} : ∀ r ∈ l ++ [LRes.mk k], r ∈ LRes.mk k :: l := by
  simp only [List.mem_append, List.mem_cons, List.not_mem_nil, or_false]
  exact fun _ h => h.symm

/-- Every instruction that acts within its warp reads what it names (03_encoding.md R74, R75). -/
theorem readsSources (s : State) (i : Instr) (hw : withinWarp i = true) : ReadsSources s i := by
  cases i with
  | neg | abs | not | clz | popc | brev | mov | bfx | bfxSigned | addImm | mulImm | andImm | orImm | xorImm | shlImm | shrImm | sarImm
  | rotlImm | minImm | maxImm => exact .one (by dsimp only [exec]; rfl) (fun _ => List.append_nil _)
  | add | sub | mul | mulh | mulhU | and | or | xor | andn | shl | shr | sar | rotl | min | max | minU | maxU | lea | bfi | hadd2 | hsub2
  | hmin2 | hmax2 | hadd2Sat | hsub2Sat | hmin2U | hmax2U => exact .two (by dsimp only [exec]; rfl) (fun _ => List.append_nil _)
  | fsfu | fcvt => exact .flagged_one (by dsimp only [exec]; rfl) (fun _ => List.append_nil _)
  | fadd | fsub | fmul | fmin | fmax | fq4 | fdq4 => exact .flagged_two (by dsimp only [exec]; rfl) (fun _ => List.append_nil _)
  | mad => exact .three (by dsimp only [exec]; rfl) (fun _ => List.append_nil _)
  | rgn | wbk =>
    exact .lanes (by dsimp only [exec, execRgn, execWbk]) (fun _ _ h => by rwa [show maskSources _ = [] from rfl, List.append_nil] at h)
  | addw | cmp | acs2 | ffma | fcmp | mvmFromMain | mvmToMain | xset | stx | brx | mset =>
    exact .lanes (by dsimp only [exec]; rfl) (fun _ _ h => by rwa [show maskSources _ = [] from rfl, List.append_nil] at h)
  | mand | mor => exact .two_masks (by dsimp only [exec]; rfl) (fun _ => rfl)
  | brc | mnot | mfirst | mjoin | mleave | mwait => exact .lanes (by dsimp only [exec]; rfl) (fun _ _ h => h)
  | sel => exact .lanes (by dsimp only [exec]; rfl) (fun _ => mem_mask_first)
  | shfl | vote | wred => exact .round (by dsimp only [exec]; rfl) (fun _ => mem_mask_first)
  | ld | st | atom | red | prf | lds | sts | lda | sta | ldt | ldp | spawnl | wrsr | ldx => exact nomatch hw
  | _ => exact .nothing (fun _ => rfl)

/-- Each executing lane reads something within its gap: the whole group traps (03_encoding.md R75, R76). -/
theorem gaps_trap {s : State} (hh : s.Handled) (hk : s.Calm) (hg : s.glitch = none) (hc : (s.warp s.cur.warp).seenChk s.cur.second = true)
    {i : Instr} (hw : withinWarp i = true)
    (hp : ∀ j ∈ s.execLanes, ∃ r ∈ laneSources (s.view j).ln i ++ maskSources i, (pendOf (s.view j).ln.pend r).isSome = true)
    (hne : s.execLanes ≠ []) (n : Stall) : s.Splits i n 4 (fun _ => {}) (fun v => some (0x03, 0, v.ln.pc)) := by
  cases readsSources s i hw with
  | nothing h =>
    obtain ⟨j, hj⟩ := List.exists_mem_of_ne_nil _ hne
    obtain ⟨r, hr, -⟩ := hp j hj
    rw [h] at hr
    exact absurd hr List.not_mem_nil
  | lanes hx h => exact laneOp_gapped hx hh hk hg hc (fun j hj => (hp j hj).imp fun r hr => ⟨h _ r hr.1, hr.2⟩) n
  | round hx h => exact roundOp_gapped hx hh hk hg hc (fun j hj => (hp j hj).imp fun r hr => ⟨h _ r hr.1, hr.2⟩) n

/-- A lane reads something within its gap. -/
def View.inGap (v : View) (reads : View → List LRes) : Bool := (reads v).any (fun r => (pendOf v.ln.pend r).isSome)

/-- What comes of a lane with gap checking on. -/
def View.checked (v : View) (reads : View → List LRes) (f : View → LaneRes) : LaneRes := if v.inGap reads then .trapped 0x03 else f v

theorem View.checked_gap {v : View} {reads : View → List LRes} {f : View → LaneRes} (h : v.inGap reads = true) :
    v.checked reads f = .trapped 0x03 := if_pos h

theorem View.checked_free {v : View} {reads : View → List LRes} {f : View → LaneRes} (h : ¬ v.inGap reads = true) :
    v.checked reads f = f v := if_neg h

theorem State.laneCheck_checked {s : State} {reads : View → List LRes} (hg : s.glitch = none)
    (hc : (s.warp s.cur.warp).seenChk s.cur.second = true) (u : Nat × Nat) (f : View → LaneRes) (i : Nat) :
    (match s.laneCheck u reads i with
      | some c => (i, LaneRes.trapped c)
      | none => (i, f (s.view i))) = (i, (s.view i).checked reads f) := by
  by_cases hgap : (s.view i).inGap reads = true
  · rw [State.laneCheck_gap hc (List.any_eq_true.mp hgap), View.checked_gap hgap]
  · have hn : s.laneCheck u reads i = none := by
      unfold State.laneCheck
      dsimp only
      rw [hg]
      exact if_neg (fun h => hgap (Bool.and_eq_true_iff.mp h).2)
    rw [hn, View.checked_free hgap]

/-- Only some lanes read something within their gap: those trap, and the others have their results. -/
theorem laneOp_splits_at_gaps {s : State} {i : Instr} {n : Stall} {len lat : Nat} {u : Nat × Nat} {reads : View → List LRes} {f : View → LaneRes}
    (hx : exec i s = laneOp n len lat u reads f s) (hh : s.Handled) (hk : s.Calm) (hg : s.glitch = none)
    (hc : (s.warp s.cur.warp).seenChk s.cur.second = true) (hf : ∀ v, (f v).Plain ∧ (f v).Quiet) :
    s.Splits i n len (fun v => (f v).effect) (fun v => if v.inGap reads then some (0x03, 0, v.ln.pc) else none) := by
  have hl : laneOp n len lat u reads f s =
      .next (s.finishLanes s.cur.warp len lat n.toNat u (s.execLanes.map (fun j => (j, (s.view j).checked reads f)))) := by
    unfold laneOp
    congr 2
    exact List.map_congr_left (fun j _ => State.laneCheck_checked hg hc u f j)
  have hs := State.finishLanes_split s len lat n u (fun j => (s.view j).checked reads f) hk hh hg (fun j _ => by
    by_cases hgap : (s.view j).inGap reads = true
    · simp only [View.checked_gap hgap]
      exact ⟨⟨rfl, rfl⟩, nofun, nofun⟩
    · simp only [View.checked_free hgap]
      exact ⟨(hf _).2, fun _ => (hf _).1, by rw [(hf _).1.1]; nofun⟩)
  refine ⟨_, hx.trans hl, hs.congr (fun j _ => ?_) (fun j _ hn => ?_)⟩
  · by_cases hgap : (s.view j).inGap reads = true
    · rw [show (s.view (s.view j).i) = s.view j from rfl, View.checked_gap hgap, if_pos hgap]
      rfl
    · rw [show (s.view (s.view j).i) = s.view j from rfl, View.checked_free hgap, if_neg hgap, (hf _).1.1]
      rfl
  · rw [show (s.view (s.view j).i) = s.view j from rfl] at hn ⊢
    by_cases hgap : (s.view j).inGap reads = true
    · rw [View.checked_gap hgap] at hn
      cases hn
    · rw [View.checked_free hgap]

end Sys2Proof.Machine
end

section
/-! SUPPORT. Moves between the main file, the operand buffer and the index registers (07_lane_arith.md R172 to R177). -/

namespace Sys2Proof.Machine

/-! ## What a region writes -/

theorem lookup_reverse_of_nodup {α : Type} (k : Nat) : ∀ (l : List (Nat × α)), (l.map Prod.fst).Nodup → l.reverse.lookup k = l.lookup k
  | [], _ => rfl
  | (a, b) :: r, h => by
    obtain ⟨ha, hr⟩ := List.nodup_cons.mp h
    rw [List.reverse_cons, List.lookup_append, lookup_reverse_of_nodup k r hr]
    by_cases hk : k = a
    · subst hk
      have hn : r.lookup k = none :=
        List.lookup_eq_none_iff.mpr (fun p hp => bne_iff_ne.mpr (fun hkp => ha (hkp.symm ▸ List.mem_map.mpr ⟨p, hp, rfl⟩)))
      simp [hn]
    · have hk' : (k == a) = false := beq_false_of_ne hk
      simp [List.lookup_cons, hk']

/-- The registers of a region are distinct. -/
theorem region_targets_nodup (js : List Nat) (k : Nat) (f : Nat × Nat → Word) :
    ((js.zipIdx.map (fun p => (k + p.2, f p))).map Prod.fst).Nodup := by
  rw [List.map_map, show (Prod.fst ∘ fun p : Nat × Nat => (k + p.2, f p)) = (fun x => k + x) ∘ Prod.snd from rfl, ← List.map_map,
    List.zipIdx_map_snd]
  exact (List.nodup_range').map (fun _ _ h => Nat.add_left_cancel h)

theorem wrO_map {α : Type} (l : List α) (f : α → Nat) (g : α → Word) :
    wrO (l.map (fun p => (.o (f p), g p))) = (l.map (fun p => (f p, g p))).reverse := by
  simp [wrO, ← List.map_reverse, List.filterMap_map]

theorem wrM_map {α : Type} (l : List α) (f : α → Nat) (g : α → Word) :
    wrM (l.map (fun p => (.m (f p), g p))) = (l.map (fun p => (f p, g p))).reverse := by
  simp [wrM, ← List.map_reverse, List.filterMap_map]

theorem effect_oregs {α : Type} (l : List α) (f : α → Nat) (g : α → Word) :
    ({ wr := l.map (fun p => (.o (f p), g p)) } : LaneRes).effect = { o := (l.map (fun p => (f p, g p))).reverse } := by
  simp [LaneRes.effect, wrO_map, wrM, wrX, ← List.map_reverse, List.filterMap_map]

theorem effect_mains {α : Type} (l : List α) (f : α → Nat) (g : α → Word) :
    ({ wr := l.map (fun p => (.m (f p), g p)) } : LaneRes).effect = { m := (l.map (fun p => (f p, g p))).reverse } := by
  simp [LaneRes.effect, wrM_map, wrO, wrX, ← List.map_reverse, List.filterMap_map]

theorem effect_main (j : Nat) (x : Word) : ({ wr := [(.m j, x)] } : LaneRes).effect = { m := [(j, x)] } := rfl

theorem effect_index (j : Nat) (x : Word) : ({ wr := [(.x j, x)] } : LaneRes).effect = { x := [(j, x)] } := rfl

/-- Writes other than to the result history, and nothing else. -/
theorem LaneRes.plain_writes {wr : List (LRes × Word)} (h : ∀ p ∈ wr, p.1 ≠ LRes.l0 ∧ p.1 ≠ LRes.l1) : ({ wr := wr } : LaneRes).Plain :=
  ⟨rfl, rfl, rfl, rfl, rfl, rfl, h⟩

/-- o-registers that read the same after one list of writes and another. -/
theorem State.Gives.congr_o {s : State} {i : Instr} {n : Stall} {len : Nat} {f g : View → List (Nat × Word)}
    (h : s.Gives i n len (fun v => { o := f v })) (he : ∀ j ∈ s.execLanes, ∀ k, (f (s.view j)).lookup k = (g (s.view j)).lookup k) :
    s.Gives i n len (fun v => { o := g v }) := by
  obtain ⟨t, h1, h2, h3, h4⟩ := h
  refine ⟨t, h1, h2, fun j hj => ?_, h4⟩
  obtain ⟨a1, a2, a3, a4, a5, a6⟩ := h3 j hj
  exact ⟨a1, fun k => by rw [a2 k]; exact congrArg (fun x => Option.getD x _) (he j hj k), a3, a4, a5, a6⟩

/-- Executing lanes that have moved are changed once more, each by itself. -/
theorem State.Moved.updLanes {s t : State} {r : View → Lane → Lane → Prop} (h : s.Moved t r) (g : Lane → Lane) :
    s.Moved (t.updWarp s.cur.warp (fun w => w.updLanes s.execLanes (fun _ l => g l))) (fun v l l' => ∃ l1, r v l l1 ∧ l' = g l1) := by
  obtain ⟨⟨h1, h2, h3, h4⟩, h5, h6, h7⟩ := h
  have hw := State.warp_updWarp_same t s.cur.warp (fun w => w.updLanes s.execLanes (fun _ l => g l))
  have hrest := Warp.updLanes_rest s.execLanes (fun _ l => g l) (t.warp s.cur.warp)
  have hlane := Warp.lane_updLanes s.execLanes s.execLanes_nodup (fun _ l => g l) (t.warp s.cur.warp)
  refine ⟨⟨?_, fun k hk => ?_, ?_, fun i hi => ?_⟩, fun j hj => ⟨_, h5 j hj, ?_⟩, ?_, ?_⟩
  · rw [h1]; rfl
  · rw [State.warp_updWarp, if_neg (Ne.symm hk), h2 k hk]
  · rw [hw, hrest, h3]
  · rw [hw, hlane, if_neg hi, h4 i hi]
  · rw [hw, hlane, if_pos hj]
  · rw [hw, hrest]; exact h6
  · rw [hw, hrest]; exact h7

/-- The sign-extended immediate is added modulo 2^32. -/
theorem add_imm11 (a : Word) (im : BitVec 11) : a + imm11 im = BitVec.ofInt 32 (a.toNat + im.toInt) := by
  unfold imm11
  rw [BitVec.ofInt_add, BitVec.ofInt_natCast, BitVec.ofNat_toNat, BitVec.setWidth_eq]
  rfl

/-- An instruction of the lanes that traps in some of them and has an effect in the others. -/
theorem laneOp_splits_where {s : State} {i : Instr} {n : Stall} {len lat : Nat} {u : Nat × Nat} {reads : View → List LRes} {f g : View → LaneRes}
    {rs : View → List LRes} {code : Nat} (c : View → Prop) [DecidablePred c] (hx : exec i s = laneOp n len lat u reads f s) (hc : s.ClearBy rs)
    (hr : ∀ j ∈ s.execLanes, ∀ r ∈ reads (s.view j), r ∈ rs (s.view j)) (hk : s.Calm) (hh : s.Handled)
    (hf : ∀ v, f v = if c v then .trapped code else g v) (hg : ∀ v, (g v).Plain ∧ (g v).Quiet)
    (hcode : code ≠ 0x10 ∧ code ≠ 0x11 ∧ code ≠ 0x12) :
    s.Splits i n len (fun v => (g v).effect) (fun v => if c v then some (code, 0, v.ln.pc) else none) := by
  refine (laneOp_splits hx hc hr hk hh (fun j _ => ?_)).congr (fun j _ => ?_) (fun j _ hn => ?_)
  · rw [hf]
    split
    · exact ⟨⟨rfl, rfl⟩, nofun, fun h => hcode.1 (Option.some.inj h)⟩
    · exact ⟨(hg _).2, fun _ => (hg _).1, by rw [(hg _).1.1]; nofun⟩
  · rw [hf]
    split
    · simp only [LaneRes.trapped, Option.map_some, not_or.mpr hcode.2, if_false]
    · rw [(hg _).1.1]; rfl
  · rw [hf] at hn ⊢
    split
    · rename_i h
      rw [if_pos h] at hn
      cases hn
    · rfl

/-- The same where no executing lane traps. -/
theorem laneOp_gives_where {s : State} {i : Instr} {n : Stall} {len lat : Nat} {u : Nat × Nat} {reads : View → List LRes} {f g : View → LaneRes}
    {rs : View → List LRes} {code : Nat} (c : View → Prop) [DecidablePred c] (hx : exec i s = laneOp n len lat u reads f s) (hc : s.ClearBy rs)
    (hr : ∀ j ∈ s.execLanes, ∀ r ∈ reads (s.view j), r ∈ rs (s.view j)) (hf : ∀ v, f v = if c v then .trapped code else g v)
    (hg : ∀ v, (g v).Plain ∧ (g v).Quiet) (hn : ∀ j ∈ s.execLanes, ¬ c (s.view j)) : s.Gives i n len (fun v => (g v).effect) := by
  have hfg : ∀ j ∈ s.execLanes, f (s.view j) = g (s.view j) := fun j hj => (hf _).trans (if_neg (hn j hj))
  exact (laneOp_gives hx hc hr (fun j hj => hfg j hj ▸ (hg _).1) (.inl fun j hj => hfg j hj ▸ (hg _).2.1)).congr
    (fun j hj => congrArg LaneRes.effect (hfg j hj))

/-- A register region is read into consecutive o-registers. -/
theorem rgn_gives {s : State} {n : Stall} {k : BitVec 4} {c : BitVec 2} {j3 j2 j1 j0 : BitVec 7}
    (hc : s.Clear ((regionOf c j3 j2 j1 j0).map LRes.m)) : s.Gives (.rgn n k c j3 j2 j1 j0) n 8 (fun v =>
      { o := (regionOf c j3 j2 j1 j0).zipIdx.map (fun p => (k.toNat + p.2, v.main p.2 p.1)) }) := by
  have hx : exec (.rgn n k c j3 j2 j1 j0) s = laneOp n 8 0 (0, 0) (fun _ => (regionOf c j3 j2 j1 j0).map LRes.m)
    (fun v => { wr := (regionOf c j3 j2 j1 j0).zipIdx.map (fun p => (.o (k.toNat + p.2), v.main p.2 p.1)) }) s := rfl
  have hg := laneOp_gives hx hc (fun _ _ _ h => h) (fun j _ => LaneRes.plain_writes (fun p hp => by
    obtain ⟨q, -, rfl⟩ := List.mem_map.mp hp
    exact ⟨nofun, nofun⟩)) (.inl (fun _ _ => rfl))
  simp only [effect_oregs] at hg
  exact hg.congr_o (fun j _ k' => lookup_reverse_of_nodup k' _ (region_targets_nodup _ _ _))

/-- The results of a region written back. -/
def View.regionBack (v : View) (k : BitVec 4) (js : List Nat) : LaneRes :=
  { wr := js.zipIdx.map (fun p => (.m p.1, v.oreg p.2 (k.toNat + p.2))) }

theorem View.regionBack_quiet (v : View) (k : BitVec 4) (js : List Nat) : (v.regionBack k js).Plain ∧ (v.regionBack k js).Quiet :=
  ⟨LaneRes.plain_writes (fun p hp => by
    obtain ⟨q, -, rfl⟩ := List.mem_map.mp hp
    exact ⟨nofun, nofun⟩), rfl, rfl⟩

theorem View.regionBack_effect (v : View) (k : BitVec 4) (js : List Nat) :
    (v.regionBack k js).effect = { m := (js.zipIdx.map (fun p => (p.1, v.oreg p.2 (k.toNat + p.2)))).reverse } :=
  effect_mains _ _ _

/-- One main register written. -/
theorem LaneRes.main_quiet (j : Nat) (x : Word) : ({ wr := [(.m j, x)] } : LaneRes).Plain ∧ ({ wr := [(.m j, x)] } : LaneRes).Quiet :=
  ⟨LaneRes.plain_writes (by simp), rfl, rfl⟩

theorem LaneRes.val_quiet (d : Dst) (x : Word) : (LaneRes.val d x).Plain ∧ (LaneRes.val d x).Quiet := ⟨LaneRes.plain_val d x, rfl, rfl⟩

/-- What an instruction of the lanes answers in an undisturbed state. -/
theorem laneOp_clear {s : State} {rs : View → List LRes} (hc : s.ClearBy rs) (n : Stall) (len lat : Nat) (u : Nat × Nat)
    {reads : View → List LRes} (f : View → LaneRes) (hr : ∀ j ∈ s.execLanes, ∀ r ∈ reads (s.view j), r ∈ rs (s.view j)) :
    laneOp n len lat u reads f s =
      .next (s.finishLanes s.cur.warp len lat n.toNat u (s.execLanes.map (fun j => (j, f (s.view j))))) := by
  unfold laneOp
  congr 2
  exact List.map_congr_left (fun j hj => by rw [State.laneCheck_clear hc u reads j hj (hr j hj)])

/-- A result that says nothing takes the lane past its instruction. -/
theorem Lane.finish_went (l : Lane) (len lat : Nat) (n : Stall) : l.Went (l.finish len lat n.toNat {}) n (l.pc + BitVec.ofNat 56 len) := rfl

/-- The bounds of the executing lanes. -/
theorem xbnd_moves {s : State} (n : Stall) (h l : BitVec 7) (hc : s.Clear []) :
    s.Moves (.xbnd n h l) (fun _ q q' => ∃ q1, q.Went q1 n (q.pc + 8) ∧ q' = { q1 with lo := l.toNat, hi := h.toNat }) := by
  have hm := State.finishLanes_quiet s 8 0 n (0, 0) (fun _ => {}) (fun _ _ => ⟨⟨rfl, rfl⟩, rfl⟩) (.inl (fun _ _ => ⟨rfl, rfl⟩))
  have hx : exec (.xbnd n h l) s = match laneOp n 8 0 (0, 0) (fun _ => []) (fun _ => {}) s with
      | .next t => .next (t.updWarp s.cur.warp (fun w => w.updLanes s.execLanes (fun _ ln => { ln with lo := l.toNat, hi := h.toNat })))
      | r => r := rfl
  rw [laneOp_clear hc n 8 0 (0, 0) (fun _ => {}) (fun _ _ _ h => h)] at hx
  refine ⟨_, hx, (hm.updLanes (fun ln => { ln with lo := l.toNat, hi := h.toNat })).mono ?_⟩
  rintro j - l' ⟨q1, rfl, rfl⟩
  exact ⟨_, Lane.finish_went _ 8 0 n, rfl⟩

/-- An index that ldx and stx add, and where it lies outside the bounds of the lane. -/
abbrev View.index (v : View) (x : BitVec 2) (im : BitVec 11) : Int := (v.src 0 (.x x)).toInt + im.toInt
abbrev View.outside (v : View) (x : BitVec 2) (im : BitVec 11) : Prop := v.index x im < v.ln.lo ∨ (v.ln.hi : Int) < v.index x im

theorem View.indexed_outside {v : View} {x : BitVec 2} {im : BitVec 11} (h : v.outside x im) : v.indexed x im = none := if_pos h

theorem View.indexed_inside {v : View} {x : BitVec 2} {im : BitVec 11} (h : ¬ v.outside x im) : v.indexed x im = some (v.index x im).toNat :=
  if_neg h

/-- The registers that ldx reads are among the index and the main register that it names. -/
theorem View.ldx_reads (v : View) (x : BitVec 2) (im : BitVec 11) :
    ∀ r ∈ LRes.x x.toNat :: (v.indexed x im).toList.map LRes.m, r ∈ [LRes.x x.toNat, LRes.m (v.index x im).toNat] := by
  intro r hr
  by_cases h : v.outside x im
  · rw [View.indexed_outside h] at hr
    exact List.mem_cons.mpr (.inl (List.mem_singleton.mp hr))
  · rwa [View.indexed_inside h] at hr

/-! ## The instructions as operations of the lanes -/

theorem exec_wbk (n : Stall) (k : BitVec 4) (c : BitVec 2) (j3 j2 j1 j0 : BitVec 7) (s : State) :
    exec (.wbk n k c j3 j2 j1 j0) s = laneOp n 8 0 (0, 0) (fun _ => (regionOf c j3 j2 j1 j0).zipIdx.map (fun p => LRes.o (k.toNat + p.2)))
      (fun v => if (regionOf c j3 j2 j1 j0).any v.ln.locked then .trapped 0x04 else v.regionBack k (regionOf c j3 j2 j1 j0)) s := rfl

theorem exec_mvmToMain (n : Stall) (a : Src) (m : BitVec 7) (s : State) :
    exec (.mvmToMain n a m) s = laneOp n 4 2 (0, 0) (fun _ => srcRes a)
      (fun v => if v.ln.locked m.toNat then .trapped 0x04 else { wr := [(.m m.toNat, v.src 0 a)] }) s := rfl

theorem exec_ldx (n : Stall) (d : Dst) (x : BitVec 2) (im : BitVec 11) (s : State) :
    exec (.ldx n d x im) s = laneOp n 4 2 (1, 1) (fun v => .x x.toNat :: (v.indexed x im).toList.map LRes.m)
      (fun v => if v.outside x im then .trapped 0x04 else .val d (v.main 1 (v.index x im).toNat)) s := by
  change execLdx n d x im s = _
  unfold execLdx
  congr 1
  funext v
  by_cases h : v.outside x im
  · simp only [View.indexed_outside h, if_pos h]
  · simp only [View.indexed_inside h, if_neg h]

theorem exec_stx (n : Stall) (a : Src) (x : BitVec 2) (im : BitVec 11) (s : State) :
    exec (.stx n a x im) s = laneOp n 4 0 (1, 1) (fun _ => .x x.toNat :: srcRes a)
      (fun v => if v.outside x im ∨ v.ln.locked (v.index x im).toNat then .trapped 0x04
        else { wr := [(.m (v.index x im).toNat, v.src 1 a)] }) s := by
  change execStx n a x im s = _
  unfold execStx
  congr 1
  funext v
  by_cases h : v.outside x im
  · simp only [View.indexed_outside h, h, true_or, if_true]
  · simp only [View.indexed_inside h, h, false_or]

/-- Settles O17: the moves complete with their effects, locks and bounds trap in their lanes alone, and gaps trap whole groups, or
some lanes of an add. -/
theorem registerRegionsAndTraps : Obligations.RegisterRegionsAndTraps := by
  unfold Obligations.RegisterRegionsAndTraps
  refine ⟨fun s n d a k c x j3 j2 j1 j0 m h l im => ⟨rgn_gives, fun hc hl => ?_, fun hc => ?_, fun hc hl => ?_, xbnd_moves n h l, fun hc => ?_,
    fun hin => ⟨fun hc => ?_, fun hc hl => ?_⟩⟩,
    fun s n d a b k c x j3 j2 j1 j0 m im hh hk hg => ⟨fun hc => ?_, fun hc => ?_, fun hc => ?_, fun hc => ?_,
      fun i hchk hw hp hne => gaps_trap hh hk hg hchk hw hp hne n, fun hchk hp => ?_, fun hchk => ?_⟩⟩
  · -- wbk, no register locked
    refine (laneOp_gives_where _ (exec_wbk n k c j3 j2 j1 j0 s) hc (fun _ _ _ h => h) (fun _ => rfl) (fun v => v.regionBack_quiet _ _)
      (fun i hi ha => ?_)).congr (fun j _ => (s.view j).regionBack_effect _ _)
    obtain ⟨j, hj, hlk⟩ := List.any_eq_true.mp ha
    exact Bool.false_ne_true ((hl i hi j hj).symm.trans hlk)
  · -- mvm from the main file
    have hx : exec (.mvmFromMain n d m) s = laneOp n 4 2 (0, 0) (fun _ => [.m m.toNat]) (fun v => .val d (v.main 0 m.toNat)) s := rfl
    exact (laneOp_gives hx hc (fun _ _ _ h => h) (fun _ _ => LaneRes.plain_val _ _) (.inl fun _ _ => rfl)).congr (fun _ _ => LaneRes.effect_val _ _)
  · -- mvm to the main file
    exact laneOp_gives_where _ (exec_mvmToMain n a m s) hc (fun _ _ _ h => h) (fun _ => rfl) (fun _ => LaneRes.main_quiet _ _)
      (fun i hi hlk => Bool.false_ne_true ((hl i hi).symm.trans hlk))
  · -- xset
    have hx : exec (.xset n x a im) s = laneOp n 4 1 (1, 1) (fun _ => srcRes a) (fun v => { wr := [(.x x.toNat, v.src 0 a + imm11 im)] }) s := rfl
    refine (laneOp_gives hx hc (fun _ _ _ h => h) (fun _ _ => LaneRes.plain_writes (by simp)) (.inl fun _ _ => rfl)).congr (fun j _ => ?_)
    rw [add_imm11]
    rfl
  · -- ldx within the bounds
    exact (laneOp_gives_where _ (exec_ldx n d x im s) hc (fun j _ => (s.view j).ldx_reads x im) (fun _ => rfl) (fun _ => LaneRes.val_quiet _ _)
      (fun i hi hout => hout.elim (hin i hi).1.not_gt (hin i hi).2.not_gt)).congr (fun _ _ => LaneRes.effect_val _ _)
  · -- stx within the bounds, no register locked
    exact laneOp_gives_where _ (exec_stx n a x im s) hc (fun _ _ _ h => h) (fun _ => rfl) (fun _ => LaneRes.main_quiet _ _)
      (fun i hi hbad => hbad.elim (fun hout => hout.elim (hin i hi).1.not_gt (hin i hi).2.not_gt)
        (fun hlk => Bool.false_ne_true ((hl i hi).symm.trans hlk)))
  · -- wbk on locked registers
    exact (laneOp_splits_where _ (exec_wbk n k c j3 j2 j1 j0 s) hc (fun _ _ _ h => h) hk hh (fun _ => rfl) (fun v => v.regionBack_quiet _ _)
      (by decide)).congr (fun _ _ => rfl) (fun j _ _ => (s.view j).regionBack_effect _ _)
  · -- mvm to a locked register
    exact laneOp_splits_where _ (exec_mvmToMain n a m s) hc (fun _ _ _ h => h) hk hh (fun _ => rfl) (fun _ => LaneRes.main_quiet _ _) (by decide)
  · -- ldx outside the bounds
    exact (laneOp_splits_where _ (exec_ldx n d x im s) hc (fun j _ => (s.view j).ldx_reads x im) hk hh (fun _ => rfl)
      (fun _ => LaneRes.val_quiet _ _) (by decide)).congr (fun _ _ => rfl) (fun _ _ _ => LaneRes.effect_val _ _)
  · -- stx outside the bounds or on a locked register
    exact laneOp_splits_where _ (exec_stx n a x im s) hc (fun _ _ _ h => h) hk hh (fun _ => rfl) (fun _ => LaneRes.main_quiet _ _) (by decide)
  · -- ldx, its index register within its gap
    exact laneOp_gapped (exec_ldx n d x im s) hh hk hg hchk (fun j hj => ⟨_, List.mem_cons_self, hp j hj⟩) n
  · -- add
    have hx : exec (.add n d a b) s = laneOp n 4 1 (1, 1) (fun _ => srcRes a ++ srcRes b) (fun v => .val d (v.src 0 a + v.src 1 b)) s := rfl
    refine (laneOp_splits_at_gaps hx hh hk hg hchk (fun v => LaneRes.val_quiet _ _)).congr (fun _ _ => rfl) (fun j _ _ => ?_)
    rw [LaneRes.effect_val, BitVec.ofNat_add, BitVec.ofNat_toNat, BitVec.ofNat_toNat, BitVec.setWidth_eq, BitVec.setWidth_eq]

end Sys2Proof.Machine
end

section
/-! SUPPORT. Lanes that leave the live state, and joins and waits on masks (02_execution.md R33, 14_control_instr.md R386, R390 to
R395). -/

namespace Sys2Proof.Machine

/-! ## One warp slot changed -/

/-- Nothing differs but one warp slot. -/
structure State.SlotIs (s t : State) (w : Nat) (v : Warp) : Prop where
  rest : t = { s with warps := t.warps }
  others : ∀ k, k ≠ w → t.warp k = s.warp k
  here : t.warp w = v

theorem State.SlotIs.setWarp {s t : State} {w : Nat} {v : Warp} (h : s.SlotIs t w v) (v' : Warp) : s.SlotIs (t.setWarp w v') w v' := by
  refine ⟨?_, fun k hk => ?_, State.warp_setWarp_same _ _ _⟩
  · rw [h.rest]; rfl
  · rw [State.warp_setWarp, if_neg (Ne.symm hk), h.others k hk]

theorem State.SlotIs.refl (s : State) (w : Nat) : s.SlotIs s w (s.warp w) := ⟨rfl, fun _ _ => rfl, rfl⟩

/-- Two warps differ in their lanes and their place alone. -/
def Warp.Beside (w v : Warp) : Prop := v = { w with lanes := v.lanes, converged := v.converged, spc := v.spc, dq := v.dq }

theorem Warp.Beside.trans {a b c : Warp} (hab : a.Beside b) (hbc : b.Beside c) : a.Beside c :=
  calc
    c = { b with lanes := c.lanes, converged := c.converged, spc := c.spc, dq := c.dq } := hbc
    _ = { a with lanes := c.lanes, converged := c.converged, spc := c.spc, dq := c.dq } := by rw [hab]

theorem Warp.beside_settle (w : Warp) : w.Beside w.settle := by
  unfold Warp.Beside
  rw [Warp.settle_lanes]
  exact Warp.settle_rest w

theorem Warp.beside_converged (w : Warp) (c : Bool) : w.Beside { w with converged := c } := rfl

theorem Warp.beside_lanes (w : Warp) (ls : SMap Lane) : w.Beside { w with lanes := ls } := rfl

/-! ## What is complete in a warp -/

/-- Nothing on a mask register is complete: not a join, not a wait, and no lane is at a round. -/
structure Warp.NothingAt (v : Warp) (mk : Nat) : Prop where
  join : v.allHere mk (v.waiting (.join mk)) = false
  meet : v.allHere mk (v.waiting (.meet mk)) = false
  round : v.waiting (.round mk) = []

theorem Warp.mem_waiting {v : Warp} {x : LaneWait} {i : Nat} : i ∈ v.waiting x ↔ i ∈ lanesOf v.live ∧ (v.lane i).wait = x := by
  simp only [Warp.waiting, List.mem_filter, decide_eq_true_eq]

/-- No lane waits so. -/
theorem Warp.waiting_none {v : Warp} {x y : LaneWait} (h : ∀ i ∈ lanesOf v.live, (v.lane i).wait = .none ∨ (v.lane i).wait = x)
    (hy : y ≠ .none) (hxy : x ≠ y) : v.waiting y = [] := by
  refine List.eq_nil_iff_forall_not_mem.mpr (fun i hi => ?_)
  obtain ⟨hl, hw⟩ := Warp.mem_waiting.mp hi
  rcases h i hl with h0 | hx
  · exact hy (hw.symm.trans h0)
  · exact hxy (hx.symm.trans hw)

theorem Warp.allHere_nil (v : Warp) (mk : Nat) : v.allHere mk [] = false := rfl

/-- One way of waiting concerns at most one mask register. -/
theorem Warp.nothingAt_of {v : Warp} {x : LaneWait} {mk : Nat} (h : ∀ i ∈ lanesOf v.live, (v.lane i).wait = .none ∨ (v.lane i).wait = x)
    (hj : x ≠ .join mk) (hm : x ≠ .meet mk) (hr : x ≠ .round mk) : v.NothingAt mk :=
  ⟨by rw [Warp.waiting_none (y := .join mk) h nofun hj, Warp.allHere_nil],
    by rw [Warp.waiting_none (y := .meet mk) h nofun hm, Warp.allHere_nil], Warp.waiting_none h nofun hr⟩

/-- A join or a wait of which a present lane is missing. -/
theorem Warp.nothingAt_missing {v : Warp} {x : LaneWait} {k : Nat} (h : ∀ i ∈ lanesOf v.live, (v.lane i).wait = .none ∨ (v.lane i).wait = x)
    (hx : x = .join k ∨ x = .meet k) (hn : v.allHere k (v.waiting x) = false) (mk : Nat) : v.NothingAt mk := by
  have hround : x ≠ .round mk := by rcases hx with rfl | rfl <;> nofun
  by_cases hk : mk = k
  · subst hk
    rcases hx with rfl | rfl
    · exact ⟨hn, by rw [Warp.waiting_none (y := .meet mk) h nofun nofun, Warp.allHere_nil], Warp.waiting_none h nofun hround⟩
    · exact ⟨by rw [Warp.waiting_none (y := .join mk) h nofun nofun, Warp.allHere_nil], hn, Warp.waiting_none h nofun hround⟩
  · refine Warp.nothingAt_of h (fun he => hk ?_) (fun he => hk ?_) hround
    · rcases hx with rfl | rfl
      · exact (LaneWait.join.inj he).symm
      · cases he
    · rcases hx with rfl | rfl
      · cases he
      · exact (LaneWait.meet.inj he).symm

/-- One step of the completion of what a warp's lanes wait for. -/
def State.wakeAt (w : Nat) (s : State) (mk : Nat) : State := ((s.wakeJoin w mk).wakeMeet w mk).updWarp w (fun v => v.wakeRound mk)

theorem State.wake_eq (s : State) (w : Nat) : s.wake w =
    if (lanesOf (s.warp w).live).all (fun i => decide (((s.warp w).lane i).wait = .none)) then s
    else (List.range 12).foldl (fun s mk => s.wakeAt w mk) s := rfl

theorem State.wakeJoin_none {t : State} {w mk : Nat} (h : (t.warp w).allHere mk ((t.warp w).waiting (.join mk)) = false) : t.wakeJoin w mk = t := by
  unfold State.wakeJoin
  simp only [h, Bool.false_eq_true, if_false]

theorem State.wakeMeet_none {t : State} {w mk : Nat} (h : (t.warp w).allHere mk ((t.warp w).waiting (.meet mk)) = false) : t.wakeMeet w mk = t := by
  unfold State.wakeMeet
  simp only [h, Bool.false_eq_true, if_false]

theorem State.SlotIs.wakeRound {s t : State} {w mk : Nat} {v : Warp} (h : s.SlotIs t w v) (hr : v.waiting (.round mk) = []) :
    s.SlotIs (t.updWarp w (fun v => v.wakeRound mk)) w v := by
  have hv : v.wakeRound mk = v := by
    unfold Warp.wakeRound
    rw [hr]
    rfl
  rw [State.updWarp, h.here, hv]
  exact h.setWarp v

theorem State.wakeAt_nothing {s t : State} {w mk : Nat} {v : Warp} (h : s.SlotIs t w v) (hn : v.NothingAt mk) : s.SlotIs (t.wakeAt w mk) w v := by
  obtain ⟨h1, h2, h3⟩ := hn
  unfold State.wakeAt
  rw [State.wakeJoin_none (h.here.symm ▸ h1), State.wakeMeet_none (h.here.symm ▸ h2)]
  exact h.wakeRound h3

theorem State.foldl_wakeAt_nothing {s : State} {w : Nat} {v : Warp} : ∀ (l : List Nat) (t : State), s.SlotIs t w v → (∀ mk ∈ l, v.NothingAt mk) →
    s.SlotIs (l.foldl (fun s mk => s.wakeAt w mk) t) w v
  | [], _, h, _ => h
  | k :: l, _, h, hn =>
    State.foldl_wakeAt_nothing l _ (State.wakeAt_nothing h (hn k List.mem_cons_self)) (fun j hj => hn j (List.mem_cons_of_mem _ hj))

/-- Where nothing is complete, nothing wakes. -/
theorem State.wake_nothing {s t : State} {w : Nat} {v : Warp} (h : s.SlotIs t w v) (hn : ∀ mk, v.NothingAt mk) : s.SlotIs (t.wake w) w v := by
  rw [State.wake_eq]
  split
  · exact h
  · exact State.foldl_wakeAt_nothing _ _ h (fun mk _ => hn mk)

/-! ## A join or a wait that completes -/

/-- The warp whose lanes wait at one join or wait, every present lane of its mask among them. -/
structure Warp.Complete (v : Warp) (x : LaneWait) (mk : Nat) : Prop where
  only : ∀ i ∈ lanesOf v.live, (v.lane i).wait = .none ∨ (v.lane i).wait = x
  inside : ∀ i ∈ v.waiting x, bitAt (v.mask mk) i = true
  here : ∀ i ∈ lanesOf (v.mask mk &&& v.live), i ∈ v.waiting x
  some : v.waiting x ≠ []

theorem Warp.Complete.allHere {v : Warp} {x : LaneWait} {mk : Nat} (h : v.Complete x mk) : v.allHere mk (v.waiting x) = true := by
  unfold Warp.allHere
  rw [Bool.and_eq_true]
  refine ⟨?_, List.all_eq_true.mpr (fun i hi => List.contains_iff_mem.mpr (h.here i hi))⟩
  cases hw : v.waiting x with
  | nil => exact absurd hw h.some
  | cons i r => rfl

theorem Warp.Complete.filter_inside {v : Warp} {x : LaneWait} {mk : Nat} (h : v.Complete x mk) :
    (v.waiting x).filter (fun i => bitAt (v.mask mk) i) = v.waiting x := List.filter_eq_self.mpr h.inside

theorem Warp.Complete.filter_outside {v : Warp} {x : LaneWait} {mk : Nat} (h : v.Complete x mk) :
    (v.waiting x).filter (fun i => !bitAt (v.mask mk) i) = [] :=
  List.filter_eq_nil_iff.mpr (fun i hi => by rw [h.inside i hi]; decide)

theorem Warp.beside_goOn (v : Warp) (ws : List Nat) (level : Bool) : v.Beside (v.goOn ws level) := by
  rw [show v.goOn ws level = { v with lanes := (v.goOn ws level).lanes } from Warp.updLanes_rest _ _ _]
  exact v.beside_lanes _

theorem Warp.goOn_lane (v : Warp) {ws : List Nat} (hn : ws.Nodup) (level : Bool) (j : Nat) : (v.goOn ws level).lane j =
    if j ∈ ws then { v.lane j with pc := (v.lane j).pc + 4, wait := .none,
                                   stallLeft := if level then ws.foldl (fun m i => max m (v.lane i).stallLeft) 0 else (v.lane j).stallLeft }
    else v.lane j := Warp.lane_updLanes _ hn _ _ _

theorem Warp.goOn_live (v : Warp) {ws : List Nat} (hn : ws.Nodup) (level : Bool) : (v.goOn ws level).live = v.live := by
  apply bit_ext
  intro j _
  rw [Warp.bitAt_live, Warp.bitAt_live, Warp.goOn_lane v hn]
  split <;> rfl

/-- The lanes that go on wait for nothing, and no other does. -/
theorem Warp.Complete.goOn_calm {v : Warp} {x : LaneWait} {mk : Nat} (h : v.Complete x mk) (level c : Bool) :
    ∀ i ∈ lanesOf ({ v.goOn (v.waiting x) level with converged := c } : Warp).settle.live,
      (({ v.goOn (v.waiting x) level with converged := c } : Warp).settle.lane i).wait = .none := by
  have hn : (v.waiting x).Nodup := (lanesOf_nodup _).filter _
  intro i hi
  rw [Warp.mem_live, Warp.settle_lane] at hi
  rw [Warp.settle_lane]
  change i < 32 ∧ ((v.goOn (v.waiting x) level).lane i).st = .live at hi
  change ((v.goOn (v.waiting x) level).lane i).wait = .none
  rw [Warp.goOn_lane v hn] at hi ⊢
  split
  · rfl
  · rename_i hx
    rw [if_neg hx] at hi
    have hl := Warp.mem_live.mpr hi
    exact (h.only i hl).resolve_right (fun hw => hx (Warp.mem_waiting.mpr ⟨hl, hw⟩))

theorem Warp.nothingAt_calm {v : Warp} (h : ∀ i ∈ lanesOf v.live, (v.lane i).wait = .none) (mk : Nat) : v.NothingAt mk :=
  Warp.nothingAt_of (x := .none) (fun i hi => .inl (h i hi)) nofun nofun nofun

/-- Every live lane stands with the others, and all go on together. -/
def Warp.Whole (v : Warp) (x : LaneWait) : Prop := v.waiting x = lanesOf v.live ∧ ∃ p, ∀ i ∈ lanesOf v.live, (v.lane i).pc = p

/-- A join on a mask that is complete lets its lanes go on. -/
theorem State.wakeJoin_complete {s t : State} {w mk : Nat} {v : Warp} (h : s.SlotIs t w v) (hc : v.Complete (.join mk) mk) :
    ∃ c, s.SlotIs (t.wakeJoin w mk) w ({ v.goOn (v.waiting (.join mk)) true with converged := c } : Warp).settle ∧
      (v.Whole (.join mk) → c = true) := by
  unfold State.wakeJoin
  rw [h.here]
  simp only [hc.allHere, if_true, hc.filter_inside, hc.filter_outside, List.map_nil, State.takeTraps]
  split
  · rename_i hw
    exact absurd hw hc.some
  · rename_i i r hw
    split
    · exact ⟨true, h.setWarp _, fun _ => rfl⟩
    · rename_i hb
      refine ⟨(v.goOn (v.waiting (.join mk)) true).converged, h.setWarp _, fun ⟨hall, p, hp⟩ => absurd ?_ hb⟩
      rw [Bool.and_eq_true, decide_eq_true_eq]
      refine ⟨List.all_eq_true.mpr (fun j hj => decide_eq_true ?_), ?_⟩
      · rw [← hall, hw] at hp
        exact (hp j (List.mem_cons_of_mem _ hj)).trans (hp i List.mem_cons_self).symm
      · rw [hall]
        apply bit_ext
        intro k hk
        rw [bitAt_maskOf]
        simp [mem_lanesOf, hk]

/-- A wait on a mask that is complete does so too, and leaves the warp as converged as it was. -/
theorem State.wakeMeet_complete {s t : State} {w mk : Nat} {v : Warp} (h : s.SlotIs t w v) (hc : v.Complete (.meet mk) mk) :
    s.SlotIs (t.wakeMeet w mk) w ({ v.goOn (v.waiting (.meet mk)) false with converged := (v.goOn (v.waiting (.meet mk)) false).converged } : Warp).settle := by
  unfold State.wakeMeet
  rw [h.here]
  simp only [hc.allHere, if_true, hc.filter_inside, hc.filter_outside, List.map_nil, State.takeTraps]
  exact h.setWarp _

/-- Where only what waits on one mask register is complete, waking the warp completes that and nothing else. -/
theorem State.wake_at {s t : State} {w mk : Nat} {v : Warp} (h : s.SlotIs t w v) (hmk : mk < 12)
    (hw : ∃ i ∈ lanesOf v.live, (v.lane i).wait ≠ .none) (hn : ∀ k, k ≠ mk → v.NothingAt k) :
    ∃ t', s.SlotIs t' w v ∧ ∀ v', (∀ i ∈ lanesOf v'.live, (v'.lane i).wait = .none) → s.SlotIs (t'.wakeAt w mk) w v' → s.SlotIs (t.wake w) w v' := by
  obtain ⟨a, b, hab⟩ := List.append_of_mem (List.mem_range.mpr hmk)
  have hnd : (a ++ mk :: b).Nodup := hab ▸ List.nodup_range
  have hmka : mk ∉ a := fun hm => (List.nodup_append.mp hnd).2.2 _ hm _ List.mem_cons_self rfl
  refine ⟨_, State.foldl_wakeAt_nothing a _ h (fun k hk => hn k (fun he => hmka (he ▸ hk))), fun v' hv' hat => ?_⟩
  rw [State.wake_eq, if_neg, hab, List.foldl_append, List.foldl_cons]
  · exact State.foldl_wakeAt_nothing b _ hat (fun k _ => Warp.nothingAt_calm hv' k)
  · rw [h.here, List.all_eq_true]
    obtain ⟨i, hi, hwi⟩ := hw
    exact fun hall => hwi (of_decide_eq_true (hall i hi))

theorem Warp.Complete.wakes {v : Warp} {x : LaneWait} {mk : Nat} (h : v.Complete x mk) (hx : x ≠ .none) : ∃ i ∈ lanesOf v.live, (v.lane i).wait ≠ .none := by
  obtain ⟨i, hi⟩ := List.exists_mem_of_ne_nil _ h.some
  obtain ⟨hl, hw⟩ := Warp.mem_waiting.mp hi
  exact ⟨i, hl, hw ▸ hx⟩

/-- Waking a warp of which one join is complete. -/
theorem State.wake_join {s t : State} {w mk : Nat} {v : Warp} (h : s.SlotIs t w v) (hmk : mk < 12) (hc : v.Complete (.join mk) mk) :
    ∃ c, s.SlotIs (t.wake w) w ({ v.goOn (v.waiting (.join mk)) true with converged := c } : Warp).settle ∧ (v.Whole (.join mk) → c = true) := by
  obtain ⟨t', h', hwake⟩ := State.wake_at h hmk (hc.wakes nofun)
    (fun k hk => Warp.nothingAt_of hc.only (fun he => hk (LaneWait.join.inj he).symm) nofun nofun)
  obtain ⟨c, hj, hwhole⟩ := State.wakeJoin_complete h' hc
  have hcalm := hc.goOn_calm true c
  refine ⟨c, hwake _ hcalm ?_, hwhole⟩
  have hnone := Warp.nothingAt_calm hcalm mk
  unfold State.wakeAt
  rw [State.wakeMeet_none (hj.here.symm ▸ hnone.meet)]
  exact hj.wakeRound hnone.round

/-- Waking a warp of which one wait is complete. -/
theorem State.wake_meet {s t : State} {w mk : Nat} {v : Warp} (h : s.SlotIs t w v) (hmk : mk < 12) (hc : v.Complete (.meet mk) mk) :
    ∃ c, s.SlotIs (t.wake w) w ({ v.goOn (v.waiting (.meet mk)) false with converged := c } : Warp).settle := by
  obtain ⟨t', h', hwake⟩ := State.wake_at h hmk (hc.wakes nofun)
    (fun k hk => Warp.nothingAt_of hc.only nofun (fun he => hk (LaneWait.meet.inj he).symm) nofun)
  have hcalm := hc.goOn_calm false (v.goOn (v.waiting (.meet mk)) false).converged
  refine ⟨_, hwake _ hcalm ?_⟩
  have hnone := Warp.nothingAt_calm hcalm mk
  have hjoin : v.allHere mk (v.waiting (.join mk)) = false := by
    rw [Warp.waiting_none (y := .join mk) hc.only nofun nofun, Warp.allHere_nil]
  unfold State.wakeAt
  rw [State.wakeJoin_none (h'.here.symm ▸ hjoin)]
  exact (State.wakeMeet_complete h' hc).wakeRound hnone.round

/-! ## Lanes that stay at their instruction and wait -/

/-- No lane at a tile: the slot does not stall. -/
theorem Warp.lanesLong_false {v : Warp} (h : ∀ i ∈ lanesOf v.live, ∀ k, (v.lane i).wait ≠ .tile k) : v.lanesLong = false := by
  unfold Warp.lanesLong
  rw [Bool.and_eq_false_iff]
  refine .inl (List.any_eq_false.mpr (fun i hi => ?_))
  have := h i hi
  cases hw : (v.lane i).wait with
  | tile k => exact absurd hw (this k)
  | _ => exact Bool.false_ne_true

theorem State.stallIf_false {t : State} {w : Nat} (h : (t.warp w).lanesLong = false) : t.stallIf w (t.warp w).lanesLong = t := by
  unfold State.stallIf
  rw [h, Bool.and_false]
  rfl

/-- A warp of which the executing lanes have come to wait at their instruction. -/
structure State.Holds (s : State) (v : Warp) (n : Stall) (x : LaneWait) : Prop where
  rest : (s.warp s.cur.warp).Beside v
  lane : ∀ j, v.lane j =
    if j ∈ s.execLanes then ((s.warp s.cur.warp).lane j).finish 4 0 n.toNat { hold := some x } else (s.warp s.cur.warp).lane j

section
variable {s : State} {v : Warp} {n : Stall} {x : LaneWait}

theorem State.Holds.live (h : s.Holds v n x) : v.live = (s.warp s.cur.warp).live := by
  apply bit_ext
  intro j _
  rw [Warp.bitAt_live, Warp.bitAt_live, h.lane]
  split <;> rfl

theorem State.Holds.mask (h : s.Holds v n x) (mk : Nat) : v.mask mk = (s.warp s.cur.warp).mask mk := by
  unfold Warp.mask
  rw [h.live, congrArg Warp.mks h.rest]

theorem State.Holds.wait (h : s.Holds v n x) (j : Nat) : (v.lane j).wait = if j ∈ s.execLanes then x else ((s.warp s.cur.warp).lane j).wait := by
  rw [h.lane]
  split <;> rfl

theorem State.Holds.pc (h : s.Holds v n x) (j : Nat) : (v.lane j).pc = ((s.warp s.cur.warp).lane j).pc := by
  rw [h.lane]
  split <;> rfl

/-- The other lanes wait for nothing, or in the same way. -/
theorem State.Holds.only (h : s.Holds v n x) (ho : ∀ i ∈ lanesOf (s.warp s.cur.warp).live, i ∉ s.execLanes →
    ((s.warp s.cur.warp).lane i).wait = .none ∨ ((s.warp s.cur.warp).lane i).wait = x) :
    ∀ i ∈ lanesOf v.live, (v.lane i).wait = .none ∨ (v.lane i).wait = x := by
  intro i hi
  rw [h.live] at hi
  rw [h.wait]
  by_cases hx : i ∈ s.execLanes
  · rw [if_pos hx]; exact .inr rfl
  · rw [if_neg hx]; exact ho i hi hx

end

theorem State.mem_live_of_exec {s : State} {i : Nat} (h : i ∈ s.execLanes) : i ∈ lanesOf (s.warp s.cur.warp).live :=
  Warp.mem_live.mpr ⟨State.execLanes_lt h, State.execLanes_live h⟩

/-- A join or a wait that executing lanes come to, every one of them in the mask. -/
theorem exec_holds {s : State} {i : Instr} {n : Stall} {k : BitVec 4} {x : LaneWait}
    (hx : exec i s = laneOp n 4 0 (0, 0) (fun _ => [.mk k.toNat]) (fun v => inMask k v { hold := some x }) s) (hc : s.Clear [LRes.mk k.toNat])
    (hin : ∀ i ∈ s.execLanes, (s.view i).maskBit 0 k.toNat = true) (hne : s.execLanes ≠ []) :
    ∃ v, s.Holds v n x ∧ exec i s = .next { (s.setWarp s.cur.warp v).stir s.cur.warp with glitch := none } := by
  obtain ⟨ls, h1, h2⟩ := foldl_applyRes_quiet (s.warp s.cur.warp).mks 4 0 n (fun _ => { hold := some x }) s.execLanes s.execLanes_nodup
    (fun _ _ => ⟨rfl, rfl⟩) (s.warp s.cur.warp)
  refine ⟨({ s.warp s.cur.warp with lanes := ls } : Warp).settle, ⟨(Warp.beside_lanes _ ls).trans (Warp.beside_settle _), fun j => ?_⟩, ?_⟩
  · rw [Warp.settle_lane]
    exact h2 j
  · rw [hx, laneOp_clear hc n 4 0 (0, 0) _ (fun _ _ _ h => h),
      List.map_congr_left (g := fun j => (j, ({ hold := some x } : LaneRes))) (fun j hj => by rw [inMask, if_pos (hin j hj)])]
    have hstirs : (s.execLanes.map (fun j => (j, ({ hold := some x } : LaneRes)))).any (fun p => p.2.stirs) = true := by
      obtain ⟨j, hj⟩ := List.exists_mem_of_ne_nil _ hne
      exact List.any_eq_true.mpr ⟨_, List.mem_map.mpr ⟨j, hj, rfl⟩, rfl⟩
    unfold State.finishLanes
    simp only [hstirs, if_true, State.updWarp, h1]
    rw [trapsOf_plain _ _ _ _ _ (fun _ _ => rfl)]
    rfl

theorem exec_mjoin (n : Stall) (k : BitVec 4) (s : State) : exec (.mjoin n k) s =
    laneOp n 4 0 (0, 0) (fun _ => [.mk k.toNat]) (fun v => inMask k v { hold := some (.join k.toNat) }) s := rfl

theorem exec_mwait (n : Stall) (k : BitVec 4) (s : State) : exec (.mwait n k) s =
    laneOp n 4 0 (0, 0) (fun _ => [.mk k.toNat]) (fun v => inMask k v { hold := some (.meet k.toNat) }) s := rfl

theorem exec_mleave (n : Stall) (k : BitVec 4) (s : State) : exec (.mleave n k) s =
    laneOp n 4 0 (0, 0) (fun _ => [.mk k.toNat]) (fun v => inMask k v { mkb := [(k.toNat, false)] }) s := rfl

/-- What the lanes of a warp have come to, once nothing of it stalls the slot. -/
theorem State.SlotIs.stir {s t : State} {w : Nat} {v : Warp} (h : s.SlotIs (t.wake w) w v)
    (hl : ∀ i ∈ lanesOf v.live, ∀ k, (v.lane i).wait ≠ .tile k) : s.SlotIs (t.stir w) w v := by
  unfold State.stir
  dsimp only
  rw [State.stallIf_false (h.here.symm ▸ Warp.lanesLong_false hl)]
  exact h

/-- Where only lanes and the place of the issuer's warp have changed, its lanes have moved. -/
theorem State.SlotIs.moved {s t : State} {v : Warp} {r : View → Lane → Lane → Prop} (h : s.SlotIs t s.cur.warp v)
    (hr : (s.warp s.cur.warp).Beside v)
    (hi : ∀ j, j ∉ s.execLanes → v.lane j = (s.warp s.cur.warp).lane j)
    (hm : ∀ j ∈ s.execLanes, r (s.view j) ((s.warp s.cur.warp).lane j) (v.lane j)) : s.Moved { t with glitch := none } r := by
  have hw : ({ t with glitch := none } : State).warp s.cur.warp = v := h.here
  refine ⟨⟨?_, h.others, ?_, fun j hj => ?_⟩, fun j hj => ?_, ?_, ?_⟩
  · conv_lhs => rw [h.rest]
  · rw [hw, hr]
  · rw [hw]; exact hi j hj
  · rw [hw]; exact hm j hj
  · rw [hw, hr]
  · rw [hw, hr]

/-- The warp after a join or a wait that is complete differs in its lanes and its place alone. -/
theorem State.Holds.gone_rest {s : State} {v : Warp} {n : Stall} {x : LaneWait} (h : s.Holds v n x) (ws : List Nat) (level c : Bool) :
    (s.warp s.cur.warp).Beside ({ v.goOn ws level with converged := c } : Warp).settle :=
  ((h.rest.trans (v.beside_goOn ws level)).trans (Warp.beside_converged _ c)).trans (Warp.beside_settle _)

theorem foldl_max_const {f : Nat → Nat} {c : Nat} : ∀ (l : List Nat) (m : Nat), m ≤ c → l ≠ [] → (∀ i ∈ l, f i = c) →
    l.foldl (fun m i => max m (f i)) m = c
  | [], _, _, h, _ => absurd rfl h
  | [i], m, hm, _, hf => by
    rw [List.foldl_cons, hf i List.mem_cons_self, max_eq_right hm]
    rfl
  | i :: k :: r, m, hm, _, hf => by
    rw [List.foldl_cons, hf i List.mem_cons_self, max_eq_right hm]
    exact foldl_max_const (k :: r) c le_rfl (List.cons_ne_nil _ _) (fun x hx => hf x (List.mem_cons_of_mem _ hx))

/-- Executing lanes of a calm warp that have gone on together after a join or a wait: as if they had passed it. -/
theorem State.Holds.gone_went {s : State} {v : Warp} {n : Stall} {x : LaneWait} (h : s.Holds v n x) {ws : List Nat} (hws : ∀ i, i ∈ ws ↔ i ∈ s.execLanes)
    (hn : ws.Nodup) (level c : Bool) {j : Nat} (hj : j ∈ s.execLanes) :
    ((s.warp s.cur.warp).lane j).Went (({ v.goOn ws level with converged := c } : Warp).settle.lane j) n (((s.warp s.cur.warp).lane j).pc + 4) := by
  have hst : ∀ i ∈ ws, (v.lane i).stallLeft = n.toNat + 1 := fun i hi => by rw [h.lane, if_pos ((hws i).mp hi)]; rfl
  have hmost : ws.foldl (fun m i => max m (v.lane i).stallLeft) 0 = n.toNat + 1 :=
    foldl_max_const ws 0 (Nat.zero_le _) (List.ne_nil_of_mem ((hws j).mpr hj)) hst
  rw [Warp.settle_lane]
  change Lane.Went _ ((v.goOn ws level).lane j) n _
  rw [Warp.goOn_lane v hn, if_pos ((hws j).mpr hj), hmost, hst j ((hws j).mpr hj), ite_self, h.lane, if_pos hj]
  rfl

/-- The lanes that come to wait are all that wait so, in a warp of which none waited. -/
theorem State.Holds.mem_waiting {s : State} {v : Warp} {n : Stall} {x : LaneWait} (h : s.Holds v n x) (hk : s.Calm) (hx : x ≠ .none) (i : Nat) :
    i ∈ v.waiting x ↔ i ∈ s.execLanes := by
  rw [Warp.mem_waiting, h.live, h.wait]
  constructor
  · rintro ⟨hl, hw⟩
    by_contra hn
    rw [if_neg hn, hk i hl] at hw
    exact hx hw.symm
  · exact fun hi => ⟨State.mem_live_of_exec hi, if_pos hi⟩

/-- The executing lanes of a calm warp are the present lanes of the mask: what they come to is complete. -/
theorem State.Holds.complete {s : State} {v : Warp} {n : Stall} {x : LaneWait} {mk : Nat} (h : s.Holds v n x) (hk : s.Calm) (hx : x ≠ .none)
    (hhere : ∀ i ∈ lanesOf ((s.warp s.cur.warp).mask mk &&& (s.warp s.cur.warp).live), i ∈ s.execLanes) (hne : s.execLanes ≠ [])
    (hbit : ∀ i ∈ s.execLanes, bitAt ((s.warp s.cur.warp).mask mk) i = true) : v.Complete x mk := by
  obtain ⟨j, hj⟩ := List.exists_mem_of_ne_nil _ hne
  refine ⟨h.only (fun i hi _ => .inl (hk i hi)), fun i hi => ?_, fun i hi => ?_, List.ne_nil_of_mem ((h.mem_waiting hk hx j).mpr hj)⟩
  · rw [h.mask]
    exact hbit i ((h.mem_waiting hk hx i).mp hi)
  · rw [h.mask, h.live] at hi
    exact (h.mem_waiting hk hx i).mpr (hhere i hi)

/-- What executing lanes that go on at once have become. -/
theorem State.Holds.goes {s t : State} {v : Warp} {n : Stall} {x : LaneWait} {mk : Nat} (h : s.Holds v n x) (hk : s.Calm) (hx : x ≠ .none)
    (hc : v.Complete x mk) (level c : Bool) (hw : s.SlotIs (t.wake s.cur.warp) s.cur.warp ({ v.goOn (v.waiting x) level with converged := c } : Warp).settle) :
    s.Moved { t.stir s.cur.warp with glitch := none } (fun _ l l' => l.Went l' n (l.pc + 4)) := by
  have hn : (v.waiting x).Nodup := (lanesOf_nodup _).filter _
  have hcalm := hc.goOn_calm level c
  refine (hw.stir (fun i hi k => by rw [hcalm i hi]; nofun)).moved (h.gone_rest _ _ _) (fun j hj => ?_)
    (fun j hj => h.gone_went (h.mem_waiting hk hx) hn level c hj)
  rw [Warp.settle_lane]
  change (v.goOn (v.waiting x) level).lane j = _
  rw [Warp.goOn_lane v hn, if_neg (fun hm => hj ((h.mem_waiting hk hx j).mp hm)), h.lane, if_neg hj]

/-- A present lane of the mask is not among the executing lanes of a calm warp: they stay and wait. -/
theorem waits_moves {s : State} {i : Instr} {n : Stall} {k : BitVec 4} {x : LaneWait} (hx : exec i s =
      laneOp n 4 0 (0, 0) (fun _ => [.mk k.toNat]) (fun v => inMask k v { hold := some x }) s) (hc : s.Clear [LRes.mk k.toNat])
    (hin : ∀ i ∈ s.execLanes, (s.view i).maskBit 0 k.toNat = true) (hk : s.Calm) (hjm : x = .join k.toNat ∨ x = .meet k.toNat)
    (hnot : ¬ ∀ i ∈ lanesOf ((s.warp s.cur.warp).mask k.toNat &&& (s.warp s.cur.warp).live), i ∈ s.execLanes) :
    s.Moves i (fun _ l l' => ∃ l1, l.Went l1 n l.pc ∧ l' = { l1 with wait := x }) := by
  by_cases hne : s.execLanes = []
  · have hno : ∀ j, j ∉ s.execLanes := fun j => hne ▸ List.not_mem_nil
    exact (laneOp_moves hx hc (fun _ _ _ h => h) (fun j hj => absurd hj (hno j)) (.inl fun j hj => absurd hj (hno j))).mono
      (fun j hj => absurd hj (hno j))
  · obtain ⟨v, hv, he⟩ := exec_holds hx hc hin hne
    have hxn : x ≠ .none := by rcases hjm with rfl | rfl <;> nofun
    have honly : ∀ i ∈ lanesOf v.live, (v.lane i).wait = .none ∨ (v.lane i).wait = x := hv.only (fun i hi _ => .inl (hk i hi))
    have hmissing : v.allHere k.toNat (v.waiting x) = false := by
      unfold Warp.allHere
      rw [Bool.and_eq_false_iff]
      refine .inr (Bool.eq_false_iff.mpr (fun hall => hnot (fun i hi => ?_)))
      rw [hv.mask, hv.live] at hall
      exact (hv.mem_waiting hk hxn i).mp (List.contains_iff_mem.mp (List.all_eq_true.mp hall i hi))
    have hs := State.wake_nothing ((State.SlotIs.refl s s.cur.warp).setWarp v) (Warp.nothingAt_missing honly hjm hmissing)
    refine ⟨_, he, (hs.stir (fun i hi m => ?_)).moved hv.rest (fun j hj => ?_) (fun j hj => ⟨{ v.lane j with wait := .none }, ?_, ?_⟩)⟩
    · rcases honly i hi with h | h <;> rw [h]
      · nofun
      · rcases hjm with rfl | rfl <;> nofun
    · rw [hv.lane, if_neg hj]
    · rw [hv.lane, if_pos hj]; rfl
    · rw [hv.lane, if_pos hj]; rfl

/-- Every executing lane traps, and not for a gap. -/
theorem laneOp_allTrap {s : State} {i : Instr} {n : Stall} {len lat : Nat} {u : Nat × Nat} {reads : View → List LRes} {f : View → LaneRes}
    {rs : View → List LRes} {code : Nat} (hx : exec i s = laneOp n len lat u reads f s) (hc : s.ClearBy rs)
    (hr : ∀ j ∈ s.execLanes, ∀ r ∈ reads (s.view j), r ∈ rs (s.view j)) (hk : s.Calm) (hh : s.Handled)
    (hf : ∀ j ∈ s.execLanes, f (s.view j) = .trapped code) (hcode : code ≠ 0x10 ∧ code ≠ 0x11 ∧ code ≠ 0x12) :
    s.Splits i n 4 (fun _ => {}) (fun v => some (code, 0, v.ln.pc)) := by
  rw [laneOp_clear hc n len lat u f hr, List.map_congr_left (fun j hj => congrArg (Prod.mk j) (hf j hj))] at hx
  exact ⟨_, hx, State.finishLanes_allTrap hh hk hc.1 n n len lat u hcode⟩

theorem exec_vac (n : Stall) (s : State) : exec (.vac n) s = laneOp n 4 0 (0, 0) (fun _ => [])
    (fun v => if v.w.trec.itemq = 0 then .trapped 0x01 else { ends := some .vacant, calls := some ([], []) }) s := rfl

/-- Lanes that leave the live state. -/
theorem exit_moves {s : State} (n : Stall) (hk : s.Calm) (hc : s.Clear []) :
    s.Moves (.exit n) (fun _ l l' => ∃ l1, l.Went l1 n (l.pc + 4) ∧ l' = { l1 with st := .exited }) := by
  have hx : exec (.exit n) s = laneOp n 4 0 (0, 0) (fun _ => []) (fun _ => { ends := some .exited }) s := rfl
  refine (laneOp_moves hx hc (fun _ _ _ h => h) (fun _ _ => ⟨⟨rfl, rfl⟩, rfl⟩) (.inr ⟨hk, fun _ _ => rfl⟩)).mono ?_
  rintro j - l' rfl
  exact ⟨_, Lane.finish_went _ 4 0 n, rfl⟩

theorem vac_moves {s : State} (n : Stall) (hk : s.Calm) (hc : s.Clear []) (hq : (s.warp s.cur.warp).trec.itemq ≠ 0) :
    s.Moves (.vac n) (fun _ l l' => ∃ l1, l.Went l1 n (l.pc + 4) ∧ l' = { l1 with st := .vacant, rstk := [], spill := [] }) := by
  have hx := exec_vac n s
  have hf : ∀ j, (if (s.view j).w.trec.itemq = 0 then LaneRes.trapped 0x01 else { ends := some .vacant, calls := some ([], []) }) =
      { ends := some .vacant, calls := some ([], []) } := fun j => if_neg hq
  refine (laneOp_moves hx hc (fun _ _ _ h => h) (fun j _ => ?_) (.inr ⟨hk, fun j _ => ?_⟩)).mono (fun j _ l' hl => ?_)
  · rw [hf j]; exact ⟨⟨rfl, rfl⟩, rfl⟩
  · rw [hf j]
  · rw [hf j] at hl
    exact ⟨_, Lane.finish_went _ 4 0 n, hl⟩

theorem mleave_gives {s : State} (n : Stall) (k : BitVec 4) (hc : s.Clear [LRes.mk k.toNat]) (hk : s.Calm)
    (hin : ∀ i ∈ s.execLanes, (s.view i).maskBit 0 k.toNat = true) : s.Gives (.mleave n k) n 4 (fun _ => { mkb := [(k.toNat, false)] }) := by
  have hf : ∀ j ∈ s.execLanes, inMask k (s.view j) { mkb := [(k.toNat, false)] } = { mkb := [(k.toNat, false)] } :=
    fun j hj => if_pos (hin j hj)
  refine (laneOp_gives (exec_mleave n k s) hc (fun _ _ _ h => h) (fun j hj => ?_) (.inr hk)).congr (fun j hj => ?_)
  · rw [hf j hj]
    exact ⟨rfl, rfl, rfl, rfl, rfl, rfl, nofun⟩
  · rw [hf j hj]
    rfl

/-- An executing lane outside the mask. -/
theorem outside_splits {s : State} {i : Instr} {n : Stall} {k : BitVec 4} {r : LaneRes}
    (hx : exec i s = laneOp n 4 0 (0, 0) (fun _ => [.mk k.toNat]) (fun v => inMask k v r) s) (hc : s.Clear [LRes.mk k.toNat]) (hk : s.Calm)
    (hh : s.Handled) (hout : ∀ i ∈ s.execLanes, (s.view i).maskBit 0 k.toNat = false) :
    s.Splits i n 4 (fun _ => {}) (fun v => some (0x06, 0, v.ln.pc)) :=
  laneOp_allTrap hx hc (fun _ _ _ h => h) hk hh (fun j hj => if_neg (Bool.eq_false_iff.mp (hout j hj))) (by decide)

/-- Every live lane executes the join or waits at one of its mask, all at one address: the join completes, and the warp is converged. -/
theorem mjoin_converges {s : State} {n : Stall} {k : BitVec 4} (hc : s.Clear [LRes.mk k.toNat]) (hk : k.toNat < 12) {p : Addr} (hne : s.execLanes ≠ [])
    (hin : ∀ i ∈ s.execLanes, (s.view i).maskBit 0 k.toNat = true)
    (hall : ∀ i ∈ lanesOf (s.warp s.cur.warp).live, ((s.warp s.cur.warp).lane i).pc = p ∧ bitAt ((s.warp s.cur.warp).mask k.toNat) i = true ∧
      (i ∈ s.execLanes ∨ ((s.warp s.cur.warp).lane i).wait = .join k.toNat)) :
    ∃ t, exec (.mjoin n k) s = .next t ∧ t = { s with warps := t.warps, glitch := none } ∧ (∀ j, j ≠ s.cur.warp → t.warp j = s.warp j) ∧
      (t.warp s.cur.warp).converged = true ∧ (t.warp s.cur.warp).spc = p + 4 ∧ (t.warp s.cur.warp).live = (s.warp s.cur.warp).live ∧
      ∀ i ∈ lanesOf (s.warp s.cur.warp).live, ((t.warp s.cur.warp).lane i).pc = p + 4 ∧ ((t.warp s.cur.warp).lane i).wait = .none := by
  obtain ⟨v, hv, he⟩ := exec_holds (exec_mjoin n k s) hc hin hne
  have hwait : ∀ i ∈ lanesOf v.live, (v.lane i).wait = .join k.toNat := by
    intro i hi
    rw [hv.live] at hi
    rw [hv.wait]
    split
    · rfl
    · rename_i hx
      exact (hall i hi).2.2.resolve_left hx
  have hwaiting : v.waiting (.join k.toNat) = lanesOf v.live := List.filter_eq_self.mpr (fun i hi => decide_eq_true (hwait i hi))
  have hsome : lanesOf v.live ≠ [] := by
    obtain ⟨j, hj⟩ := List.exists_mem_of_ne_nil _ hne
    exact List.ne_nil_of_mem (hv.live.symm ▸ State.mem_live_of_exec hj)
  have hcom : v.Complete (.join k.toNat) k.toNat := by
    refine ⟨fun i hi => .inr (hwait i hi), fun i hi => ?_, fun i hi => ?_, hwaiting.symm ▸ hsome⟩
    · rw [hwaiting, hv.live] at hi
      rw [hv.mask]
      exact (hall i hi).2.1
    · rw [hwaiting]
      obtain ⟨hi32, hb⟩ := mem_lanesOf.mp hi
      rw [bitAt_and, Bool.and_eq_true] at hb
      exact mem_lanesOf.mpr ⟨hi32, hb.2⟩
  obtain ⟨c, hw, hconv⟩ := State.wake_join ((State.SlotIs.refl s s.cur.warp).setWarp v) hk hcom
  obtain rfl : c = true := hconv ⟨hwaiting, p, fun i hi => (hv.pc i).trans (hall i (hv.live ▸ hi)).1⟩
  have hcalm := hcom.goOn_calm true true
  have hst := hw.stir (fun i hi m => by rw [hcalm i hi]; nofun)
  rw [hwaiting] at hst
  have hlane : ∀ i ∈ lanesOf v.live, ((v.goOn (lanesOf v.live) true).lane i).pc = p + 4 ∧ ((v.goOn (lanesOf v.live) true).lane i).wait = .none := by
    intro i hi
    rw [Warp.goOn_lane v (lanesOf_nodup _), if_pos hi]
    refine ⟨?_, rfl⟩
    change (v.lane i).pc + 4 = p + 4
    rw [hv.pc, (hall i (hv.live ▸ hi)).1]
  have hlive : (v.goOn (lanesOf v.live) true).live = v.live := Warp.goOn_live v (lanesOf_nodup _) true
  have hsettle := Warp.settle_together (w := { v.goOn (lanesOf v.live) true with converged := true }) (p := p + 4) rfl
    (fun h0 => hsome (by rw [← hlive]; exact congrArg lanesOf h0)) (fun i hi => (hlane i (hlive ▸ hi)).1)
  rw [hsettle] at hst
  refine ⟨_, he, ?_, hst.others, ?_, ?_, ?_, fun i hi => ?_⟩
  · conv_lhs => rw [hst.rest]
  all_goals rw [show ∀ t : State, ({ t with glitch := none } : State).warp s.cur.warp = t.warp s.cur.warp from fun _ => rfl, hst.here]
  · exact hlive.trans hv.live
  · exact hlane i (hv.live.symm ▸ hi)

/-- Settles O19: lanes leave the live state; joins and waits on masks complete or hold their lanes, and lanes leave a mask. -/
theorem sharedLeavingAndJoining : Obligations.SharedLeavingAndJoining := by
  unfold Obligations.SharedLeavingAndJoining
  refine ⟨fun s n hk hc => ⟨exit_moves n hk hc, vac_moves n hk hc, fun hq hh => ?_⟩, fun s n k hc hk12 => ⟨fun p hne hin hall =>
    mjoin_converges hc hk12 hne hin hall, fun hk => ⟨fun hin hhere hsec hne hbit => ⟨?_, ?_⟩,
      fun hin hnot => ⟨waits_moves (exec_mjoin n k s) hc hin hk (.inl rfl) hnot, waits_moves (exec_mwait n k s) hc hin hk (.inr rfl) hnot⟩,
      mleave_gives n k hc hk, fun hout hh q hq => ?_⟩⟩⟩
  · exact laneOp_allTrap (exec_vac n s) hc (fun _ _ _ h => h) hk hh (fun _ _ => if_pos hq) (by decide)
  · obtain ⟨v, hv, he⟩ := exec_holds (exec_mjoin n k s) hc hin hne
    have hcom := hv.complete hk nofun hhere hne hbit
    obtain ⟨c, hw, -⟩ := State.wake_join ((State.SlotIs.refl s s.cur.warp).setWarp v) hk12 hcom
    exact ⟨_, he, hv.goes hk nofun hcom true c hw⟩
  · obtain ⟨v, hv, he⟩ := exec_holds (exec_mwait n k s) hc hin hne
    have hcom := hv.complete hk nofun hhere hne hbit
    obtain ⟨c, hw⟩ := State.wake_meet ((State.SlotIs.refl s s.cur.warp).setWarp v) hk12 hcom
    exact ⟨_, he, hv.goes hk nofun hcom false c hw⟩
  · simp only [List.mem_cons, List.not_mem_nil, or_false] at hq
    rcases hq with rfl | rfl | rfl
    · exact outside_splits (exec_mjoin n k s) hc hk hh hout
    · exact outside_splits (exec_mwait n k s) hc hk hh hout
    · exact outside_splits (exec_mleave n k s) hc hk hh hout

end Sys2Proof.Machine
end

section
/-! SUPPORT. Reads of the strand at L2 and releases at device scope: what they change besides the answer is who knows of bytes that
the host does not see yet, the lines on their way to the cluster, and the epoch (11_ordering.md R286, R287, R290; log entry 35). -/

namespace Sys2Proof.Machine

/-! ## Who knows -/

theorem Wrote.forget_seen (a : Agent) (x : Wrote) : (x.seen a).forget = x.forget := by
  unfold Wrote.seen
  split <;> rfl

theorem Wrote.forget_offer (a : Agent) (x : Wrote) : (x.offer a).forget = x.forget := by
  unfold Wrote.offer
  split <;> rfl

theorem Wrote.forget_take (a : Agent) (x : Wrote) : (x.take a).forget = x.forget := by
  unfold Wrote.take
  split
  · exact x.forget_seen a
  · rfl

theorem State.KnowsMore.refl (s : State) : s.KnowsMore s := ⟨rfl, rfl, fun _ => rfl, fun _ _ => rfl⟩

theorem State.KnowsMore.trans {s t u : State} (h : s.KnowsMore t) (k : t.KnowsMore u) : s.KnowsMore u := by
  refine ⟨?_, k.unseen.trans h.unseen, fun c => ?_, fun c j => (k.line c j).trans (h.line c j)⟩
  · conv_lhs => rw [k.rest, h.rest]
  · conv_lhs => rw [k.core c, h.core c]

/-- What is recorded of unseen bytes changes but for who knows of them. -/
theorem State.knowsMore_unseen {s : State} {f : Unseen → Unseen} (hf : ∀ u, { f u with w := (f u).w.forget } = { u with w := u.w.forget }) :
    s.KnowsMore (s.updMem (fun x => { x with unseen := x.unseen.map f })) := by
  refine ⟨rfl, ?_, fun _ => rfl, fun _ _ => rfl⟩
  rw [State.updMem, List.map_map]
  exact List.map_congr_left (fun u _ => hf u)

/-- What the lines of a core's L1 record changes but for who knows of it. -/
theorem State.knowsMore_l1 {s : State} {c : Nat} {g : SMap L1Line → SMap L1Line}
    (hl : ∀ j, ((g (s.core c).l1).find? j).map (fun l => { l with who := l.who.map Wrote.forget }) =
      ((s.core c).l1? j).map (fun l => { l with who := l.who.map Wrote.forget })) :
    s.KnowsMore (s.updCore c (fun k => { k with l1 := g k.l1 })) := by
  refine ⟨rfl, rfl, fun k => ?_, fun k j => ?_⟩
  · rw [State.core_updCore]
    split
    · rename_i h; subst h; rfl
    · rfl
  · rw [State.core_updCore]
    split
    · rename_i h; subst h; exact hl j
    · rfl

theorem map_forget {f : Wrote → Wrote} (hf : ∀ x, (f x).forget = x.forget) (l : List Wrote) : (l.map f).map Wrote.forget = l.map Wrote.forget := by
  rw [List.map_map]
  exact List.map_congr_left (fun x _ => hf x)

/-- Telling who knows of unseen bytes. -/
theorem State.tellWho_knows (s : State) (c : Nat) {f : Wrote → Wrote} (hf : ∀ x, (f x).forget = x.forget) : s.KnowsMore (s.tellWho c f) := by
  have hun : s.KnowsMore (if s.mem.unseen.isEmpty then s
      else s.updMem (fun x => { x with unseen := x.unseen.map (fun u => { u with w := f u.w }) })) := by
    split
    · exact .refl s
    · exact State.knowsMore_unseen (fun u => by rw [hf])
  unfold State.tellWho
  dsimp only
  generalize (if s.mem.unseen.isEmpty then s
    else s.updMem (fun x => { x with unseen := x.unseen.map (fun u => { u with w := f u.w }) })) = s1 at hun ⊢
  split
  · exact hun
  · refine hun.trans (State.knowsMore_l1 (g := mapVals (fun _ l => { l with who := l.who.map f })) (fun j => ?_))
    rw [SMap.find?_mapVals, Core.l1?, Option.map_map]
    cases SMap.find? _ j with
    | none => rfl
    | some l => simp only [Option.map_some, Function.comp, map_forget hf]

/-- Reading bytes of a line tells the reader who wrote them. -/
theorem State.observe_knows (s : State) (m : Master) (c line : Nat) (mask : BitVec 128) : s.KnowsMore (s.observe m c line mask) := by
  unfold State.observe
  split
  · exact .refl s
  · rename_i a _
    dsimp only
    have hon : ∀ x : Wrote, (if x.mask &&& mask = 0 then x else x.seen a).forget = x.forget := by
      intro x
      split
      · rfl
      · exact x.forget_seen a
    have hun : s.KnowsMore (if s.mem.unseen.isEmpty then s
        else s.updMem (fun x => { x with unseen := x.unseen.map (fun u =>
          if u.line = line then { u with w := if u.w.mask &&& mask = 0 then u.w else u.w.seen a } else u) })) := by
      split
      · exact .refl s
      · refine State.knowsMore_unseen (fun u => ?_)
        split
        · rw [hon]
        · rfl
    generalize (if s.mem.unseen.isEmpty then s
      else s.updMem (fun x => { x with unseen := x.unseen.map (fun u =>
        if u.line = line then { u with w := if u.w.mask &&& mask = 0 then u.w else u.w.seen a } else u) })) = s1 at hun ⊢
    split
    · exact hun
    · rename_i l hl
      split
      · exact hun
      · refine hun.trans (State.knowsMore_l1 (g := fun ls => ls.set line _) (fun j => ?_))
        rw [SMap.find?_set]
        split
        · rename_i hj
          subst hj
          rw [Core.l1?, hl, Option.map_some, Option.map_some, map_forget hon]
        · rfl

/-! ## What a task's own reads and releases change besides -/

/-- Nothing changes but who knows of unseen bytes, the lines on their way to clusters, the epochs, and the launches and clusters. -/
structure State.Learns (s t : State) : Prop where
  rest : t = { s with cores := t.cores, clusters := t.clusters, launches := t.launches,
                      mem := { s.mem with unseen := t.mem.unseen, toClu := t.mem.toClu, e0 := t.mem.e0, e1 := t.mem.e1 } }
  unseen : t.mem.unseen.map (fun u => { u with w := u.w.forget }) = s.mem.unseen.map (fun u => { u with w := u.w.forget })
  core : ∀ k, t.core k = { s.core k with l1 := (t.core k).l1 }
  line : ∀ k j, ((t.core k).l1? j).map (fun l => { l with who := l.who.map Wrote.forget }) =
    ((s.core k).l1? j).map (fun l => { l with who := l.who.map Wrote.forget })

theorem State.Learns.trans {s t u : State} (h : s.Learns t) (k : t.Learns u) : s.Learns u := by
  refine ⟨?_, k.unseen.trans h.unseen, fun c => ?_, fun c j => (k.line c j).trans (h.line c j)⟩
  · conv_lhs => rw [k.rest, h.rest]
  · conv_lhs => rw [k.core c, h.core c]

theorem State.KnowsMore.learns {s t : State} (h : s.KnowsMore t) : s.Learns t := by
  refine ⟨?_, h.unseen, h.core, h.line⟩
  rw [h.rest]

/-- The knowledge that a state has besides. -/
theorem State.Learns.knows {s t : State} (h : s.Learns t) : ∃ s0, s.KnowsMore s0 ∧ t = { s0 with
    clusters := t.clusters, launches := t.launches, mem := { s0.mem with toClu := t.mem.toClu, e0 := t.mem.e0, e1 := t.mem.e1 } } :=
  ⟨{ s with cores := t.cores, mem := { s.mem with unseen := t.mem.unseen } }, ⟨rfl, h.unseen, h.core, h.line⟩, h.rest⟩

/-- A clean L1 stays clean. -/
theorem State.Learns.clean {s t : State} (h : s.Learns t) {c k : Nat} {l : L1Line} (hc : ∀ k l, (s.core c).l1? k = some l → l.dirty = 0)
    (hl : (t.core c).l1? k = some l) : l.dirty = 0 := by
  have hmap := h.line c k
  rw [hl, Option.map_some] at hmap
  obtain ⟨l', hl', he⟩ := Option.map_eq_some_iff.mp hmap.symm
  rw [← congrArg L1Line.dirty he]
  exact hc k l' hl'

end Sys2Proof.Machine
end

section
/-! SUPPORT. Creating tasks, and the continuation of a task (02_execution.md R47 to R51, 14_control_instr.md R397 to R399). -/

namespace Sys2Proof.Machine

/-! ## Releases of a task whose L1 is clean -/

/-- L1 of a core holds no dirty line. -/
def State.CleanAt (s : State) (c : Nat) : Prop := ∀ k l, (s.core c).l1? k = some l → l.dirty = 0

theorem State.l1Clean_clean {s : State} {c line : Nat} (h : ∀ l, (s.core c).l1? line = some l → l.dirty = 0) (d : Nat) : s.l1Clean d c line = s := by
  unfold State.l1Clean
  split
  · rfl
  · rename_i l hl
    rw [if_pos (h l hl)]

theorem State.l1Release_clean {s : State} {c : Nat} (h : s.CleanAt c) (d : Nat) : s.l1Release d c = s := by
  unfold State.l1Release
  induction (s.core c).l1.map (·.1) with
  | nil => rfl
  | cons k r ih => rw [List.foldl_cons, State.l1Clean_clean (h k), ih]

theorem State.release_clean {s : State} {c : Nat} (h : s.CleanAt c) (d : Nat) (a : Agent) :
    s.release d c .device (some a) = (s.updMem (fun m => m.bump d)).tellWho c (Wrote.offer a) := by
  unfold State.release
  rw [State.l1Release_clean h]
  rfl

theorem Mem.epoch_bump_same (m : Mem) (d : Nat) : (m.bump d).epoch d = m.epoch d + 1 := by
  unfold Mem.bump Mem.epoch
  split <;> rfl

theorem State.bump_learns (s : State) (d : Nat) : s.Learns (s.updMem (fun m => m.bump d)) := by
  unfold State.updMem Mem.bump
  split <;> exact ⟨rfl, rfl, fun _ => rfl, fun _ _ => rfl⟩

/-- A release at device scope, with a clean L1: the epoch of its die advances. -/
theorem State.release_learns {s : State} {c : Nat} (h : s.CleanAt c) (d : Nat) (a : Agent) :
    s.Learns (s.release d c .device (some a)) ∧ (s.release d c .device (some a)).launches = s.launches ∧
      (s.release d c .device (some a)).clusters = s.clusters ∧ (s.release d c .device (some a)).mem.epoch d = s.mem.epoch d + 1 := by
  rw [State.release_clean h]
  have hk := State.tellWho_knows (s.updMem (fun m => m.bump d)) c (Wrote.forget_offer a)
  refine ⟨(s.bump_learns d).trans hk.learns, ?_, ?_, ?_⟩
  · rw [hk.rest]; rfl
  · rw [hk.rest]; rfl
  · rw [hk.rest, ← Mem.epoch_bump_same]; rfl

/-! ## Reads at L2 -/

/-- A read leaves only a line on its way to the cluster, and what its agent knows. -/
def State.Reads (s t : State) : Prop := ∃ s0, s.KnowsMore s0 ∧ t = { s0 with mem := { s0.mem with toClu := t.mem.toClu } }

theorem State.Reads.learns {s t : State} (h : s.Reads t) :
    s.Learns t ∧ t.launches = s.launches ∧ t.clusters = s.clusters ∧ t.mem.epoch = s.mem.epoch := by
  obtain ⟨s0, hk, ht⟩ := h
  have hrest := hk.rest
  refine ⟨⟨?_, ?_, ?_, ?_⟩, ?_, ?_, ?_⟩
  · rw [ht, hrest]
  · rw [ht]; exact hk.unseen
  · rw [ht]; exact hk.core
  · rw [ht]; exact hk.line
  · rw [ht, hrest]
  · rw [ht, hrest]
  · rw [ht, hrest]; rfl

/-- Bytes read by a die do not depend on who knows of them, nor on lines on their way. -/
theorem Mem.lookN_aside (m : Mem) (us : List Unseen) (tc : SMap (List (Option Nat))) (d a n : Nat) :
    ({ m with unseen := us, toClu := tc } : Mem).lookN d a n = m.lookN d a n := by
  induction n generalizing a with
  | zero => rfl
  | succ n ih =>
    unfold Mem.lookN
    rw [ih]
    rfl

theorem length_lookN (m : Mem) (d a n : Nat) : (m.lookN d a n).length = n := by
  induction n generalizing a with
  | zero => rfl
  | succ n ih => rw [Mem.lookN, List.length_cons, ih]

/-- A read of a line that the L2 of the die holds. -/
theorem State.l2Read_there {s : State} {m : Master} {a n : Nat} (ht : s.trackRead m.lid a = s) (hs : s.mem.Sound) (hg : s.mem.granules = [])
    (hl : (s.mem.line? m.die (a / 128)).isSome = true) : ∃ t, s.l2Read m a n = (t, some (ofBytes (s.mem.lookN m.die a n))) ∧ s.Reads t := by
  have hin : s.l2In m (a / 128) false = s := State.updMem_same s (Mem.l2In_held hl false)
  have hferry : ∃ tc, s.ferryLine m a false = { s with mem := { s.mem with toClu := tc } } := by
    unfold State.ferryLine
    split
    · exact ⟨s.mem.toClu, rfl⟩
    · exact ⟨_, rfl⟩
  obtain ⟨tc, hf⟩ := hferry
  have hk := State.observe_knows (s.ferryLine m a false) m m.code (a / 128) (runMask (a % 128) n)
  have hlook : ∀ t, (s.ferryLine m a false).KnowsMore t → t.mem.lookN m.die a n = s.mem.lookN m.die a n := by
    intro t hk
    rw [hk.rest, hf]
    exact Mem.lookN_aside s.mem t.mem.unseen tc _ _ _
  refine ⟨(s.ferryLine m a false).observe m m.code (a / 128) (runMask (a % 128) n), ?_, ?_⟩
  · unfold State.l2Read
    simp only [ht, State.meets_sound hs, State.syncTouch_none hg, hin, hlook _ hk]
  · generalize (s.ferryLine m a false).observe m m.code (a / 128) (runMask (a % 128) n) = t at hk ⊢
    rw [hf] at hk
    refine ⟨{ s with cores := t.cores, mem := { s.mem with unseen := t.mem.unseen } }, ⟨rfl, hk.unseen, hk.core, hk.line⟩, ?_⟩
    conv_lhs => rw [hk.rest]
    rw [hk.rest]

theorem State.syncAll_none {s : State} (h : s.mem.syncReqs = []) : s.syncAll = s := by
  unfold State.syncAll
  rw [h]
  rfl

/-- A block of 64 bytes that a task of a slot reads as it issues an instruction. -/
theorem State.blockRead_there {s : State} {m : Master} {c pa : Nat} (hc : ∀ l, (s.core c).l1? (canonPa pa / 128) = some l → l.dirty = 0)
    (hq : quarter pa < 2) (ht : s.trackRead m.lid (canonPa pa) = s) (hs : s.mem.Sound) (hg : s.mem.granules = [])
    (hl : (s.mem.line? m.die (canonPa pa / 128)).isSome = true) :
    ∃ t, s.blockRead m c pa 64 = (t, some (ofBytes (s.mem.lookN m.die (canonPa pa) 64))) ∧ s.Reads t := by
  have hq3 : quarter pa ≠ 3 := by omega
  unfold State.blockRead State.plainRead
  simp only [if_neg hq3, State.l1Clean_clean hc]
  exact State.l2Read_there ht hs hg hl

theorem State.strandReach_there {s : State} {va : Addr} {size : Nat} {k : AccKind} {pa : Nat} (h : s.StrandReaches va size k pa) :
    s.strandReach va size k = (s, some pa) := by
  obtain ⟨-, hf, ha, ht, hp, -⟩ := h
  unfold State.strandReach
  simp only [ha, hf, ht, hp, ne_eq, not_true_eq_false, if_false, if_true]

/-- The strand's block of 64 bytes: its template, its descriptor. -/
theorem State.strandBlock {s : State} {va : Addr} {pa : Nat} (hr : s.StrandReaches va 64 .read pa)
    (hc : ∀ l, (s.core (coreOf s.cur.warp)).l1? (canonPa pa / 128) = some l → l.dirty = 0) (hl : s.InL2 pa) :
    ∃ t, s.blockRead (s.strandMaster s.cur.warp) (coreOf s.cur.warp) pa 64 =
      (t, some (ofBytes (s.mem.lookN (warpDie s.cur.warp) (canonPa pa) 64))) ∧ s.Reads t := by
  obtain ⟨-, -, -, -, -, hq, hs, ht, -⟩ := hr
  exact State.blockRead_there hc hq ht hs hl.1 hl.2

theorem bytesOf_ofBytes (b : List Byte) : bytesOf b.length (ofBytes b) = b := by
  induction b with
  | nil => rfl
  | cons x r ih =>
    have hx := x.isLt
    have h1 : BitVec.ofNat 8 (x.toNat + 256 * ofBytes r) = x := by
      apply BitVec.eq_of_toNat_eq
      rw [BitVec.toNat_ofNat]
      omega
    have h2 : (x.toNat + 256 * ofBytes r) / 256 = ofBytes r := by omega
    rw [List.length_cons, ofBytes, bytesOf, h1, h2, ih]

theorem bytesOf_lookN (m : Mem) (d a n : Nat) : bytesOf n (ofBytes (m.lookN d a n)) = m.lookN d a n := by
  have h := bytesOf_ofBytes (m.lookN d a n)
  rwa [length_lookN] at h

/-! ## Records -/

/-- A record of a task with no group is a member of none. -/
theorem Launch.admitMember_none {l : Launch} {r : TaskRec} (h : r.groupNos = []) : l.admitMember r = (l, false) := by
  unfold Launch.admitMember
  rw [h]
  rfl

/-- The record of a child that a template without groups makes. -/
def childOf (tmpl : TaskRec) (L : Launch) (a0 a1 : Word64) : TaskRec :=
  { tmpl with launch := BitVec.ofNat 32 L.lid, arg0 := a0, arg1 := a1,
              flags := (tmpl.flags &&& ~~~(4 : Word)) ||| (if L.check then 2 else 0) }

theorem Launch.childRec_eq {L : Launch} {r : TaskRec} (h : r.groupNos = []) (a0 : Word64) (a1 : Option Word64) :
    L.childRec r a0 a1 = childOf r L a0 (a1.getD r.arg1) := by
  have hb : L.namesBound r = false := by rw [Launch.namesBound, h]; rfl
  have hclear : setBit r.flags 2 false = r.flags &&& ~~~(4 : Word) := rfl
  have hset : ∀ f : Word, setBit f 1 true = f ||| 2 := fun _ => rfl
  unfold Launch.childRec childOf
  simp only [hb, Bool.false_eq_true, if_false, hclear, hset]
  cases L.check
  · simp
  · rfl

/-- Tasks that a task of a slot has created: their records stand at the end of its cluster's queue, the launch counts them, each was
a release at device scope, and nothing else has changed but who knows of unseen bytes. -/
structure State.Created (s t : State) (w : Nat) (L : Launch) (rs : List QRec) : Prop where
  learns : s.Learns t
  launch : t.launch? (s.warp w).lid = some { L with nextId := L.nextId + rs.length }
  launches : ∀ j, j ≠ (s.warp w).lid → t.launch? j = s.launch? j
  epoch : t.mem.epoch (warpDie w) = s.mem.epoch (warpDie w) + rs.length
  cluster : t.cluster (warpClu w) = { s.cluster (warpClu w) with queue := (s.cluster (warpClu w)).queue ++ rs }
  clusters : ∀ j, j ≠ warpClu w → t.cluster j = s.cluster j

theorem State.Learns.warp {s t : State} (h : s.Learns t) (k : Nat) : t.warp k = s.warp k := by
  rw [h.rest]
  rfl

/-- Nothing created yet. -/
theorem State.Reads.created {s t : State} (h : s.Reads t) {w : Nat} {L : Launch} (hL : s.launch? (s.warp w).lid = some L) : s.Created t w L [] := by
  obtain ⟨hl, h1, h2, h3⟩ := h.learns
  have hlaunch : ∀ j, t.launch? j = s.launch? j := fun j => by rw [State.launch?, h1]; rfl
  have hclu : ∀ j, t.cluster j = s.cluster j := fun j => by rw [State.cluster, h2]; rfl
  exact ⟨hl, (hlaunch _).trans hL, fun j _ => hlaunch j, by rw [h3]; rfl, by rw [hclu, List.append_nil], fun j _ => hclu j⟩

theorem State.updLaunch_held {s : State} {lid : Nat} {L : Launch} (h : s.launch? lid = some L) (f : Launch → Launch) :
    s.updLaunch lid f = { s with launches := s.launches.set lid (f L) } := by
  unfold State.updLaunch
  rw [State.launch?] at h
  rw [h]

/-- The on-chip head of a cluster's queue has room. -/
theorem State.enqueue_room {s : State} {g : Nat} (h : (s.cluster g).queue.length < 256) (q : QRec) (f : FaultRec) :
    s.enqueue g q f = s.updCluster g (fun x => { x with queue := x.queue ++ [q] }) := by
  unfold State.enqueue
  dsimp only
  rw [if_pos (by omega), if_pos h]

/-- One child of a template without counter and groups. -/
theorem State.makeChild_created {s : State} {w tmpl : Nat} {L : Launch} {r : TaskRec} (hL : s.launch? (s.warp w).lid = some L) (hrun : L.st = .running)
    (hid : L.nextId < 2 ^ 32) (hc : s.CleanAt (coreOf w)) (hg : r.groupNos = []) (hq : (s.cluster (warpClu w)).queue.length < 256)
    (a0 : Word64) (a1 : Option Word64) :
    s.Created (s.makeChild w tmpl none r a0 a1) w L
      [{ trec := childOf r L a0 (a1.getD r.arg1), id := L.nextId, lid := (s.warp w).lid, addr := tmpl, initial := false, excess := false }] := by
  obtain ⟨h1, h2, h3, h4⟩ := State.release_learns hc (warpDie w) (s.taskAgent w)
  have hget : ∀ u : State, u.launch? (s.warp w).lid = some L → u.runs (s.warp w).lid = true ∧ u.launch (s.warp w).lid = L := by
    intro u hu
    refine ⟨by rw [State.runs, hu]; exact decide_eq_true hrun, ?_⟩
    rw [State.launch, SMap.get]
    rw [State.launch?] at hu
    rw [hu]
    rfl
  have hL1 : (s.release (warpDie w) (coreOf w) .device (some (s.taskAgent w))).launch? (s.warp w).lid = some L := by rw [State.launch?, h2]; exact hL
  obtain ⟨hr, hl⟩ := hget s hL
  obtain ⟨hr1, hl1⟩ := hget _ hL1
  unfold State.makeChild
  simp only [hr, hl, hr1, hl1, Bool.not_true, Bool.false_eq_true, if_false, if_neg (Nat.not_le.mpr hid), Launch.childRec_eq hg,
    Launch.admitMember_none (show (childOf r L a0 (a1.getD r.arg1)).groupNos = [] from hg)]
  generalize s.release (warpDie w) (coreOf w) .device (some (s.taskAgent w)) = u at h1 h2 h3 h4 hL1 ⊢
  have hclu : ∀ j, u.cluster j = s.cluster j := fun j => by rw [State.cluster, h3]; rfl
  rw [State.updLaunch_held hL1, State.enqueue_room (by rw [State.cluster, h3]; exact hq)]
  refine ⟨h1.trans ⟨rfl, rfl, fun _ => rfl, fun _ _ => rfl⟩, ?_, fun j hj => ?_, h4, ?_, fun j hj => ?_⟩
  · exact (SMap.find?_set _ _ _ _).trans (if_pos rfl)
  · exact (SMap.find?_set _ _ _ _).trans ((if_neg (Ne.symm hj)).trans (by rw [h2]; rfl))
  · refine (State.cluster_updCluster _ _ _ _).trans ((if_pos rfl).trans ?_)
    rw [show ∀ l, ({ u with launches := l } : State).cluster = u.cluster from fun _ => rfl, hclu]
  · exact (State.cluster_updCluster _ _ _ _).trans ((if_neg (Ne.symm hj)).trans (hclu j))

theorem State.Created.trans {s t u : State} {w : Nat} {L : Launch} {rs rs' : List QRec} (h : s.Created t w L rs)
    (k : t.Created u w { L with nextId := L.nextId + rs.length } rs') : s.Created u w L (rs ++ rs') := by
  obtain ⟨k1, k2, k3, k4, k5, k6⟩ := k
  rw [h.learns.warp] at k2 k3
  refine ⟨h.learns.trans k1, ?_, fun j hj => (k3 j hj).trans (h.launches j hj), ?_, ?_, fun j hj => (k6 j hj).trans (h.clusters j hj)⟩
  · rw [k2, List.length_append, Nat.add_assoc]
  · rw [k4, h.epoch, List.length_append, Nat.add_assoc]
  · rw [k5, h.cluster, List.append_assoc]

/-- The record of the child of one lane. -/
def laneChild (w : Warp) (L : Launch) (r : TaskRec) (tmpl : Nat) (a0 a1 : Nat → Word64) (p : Nat × Nat) : QRec :=
  { trec := childOf r L (a0 p.1) (a1 p.1), id := L.nextId + p.2, lid := w.lid, addr := tmpl, initial := false, excess := false }

/-- Children of several lanes, in their order. -/
theorem State.Created.children {s t : State} {w tmpl : Nat} {L : Launch} {r : TaskRec} (h : s.Created t w L []) (hrun : L.st = .running)
    (hc : s.CleanAt (coreOf w)) (hg : r.groupNos = []) (a0 a1 : Nat → Word64) (is : List Nat) (hid : L.nextId + is.length ≤ 2 ^ 32)
    (hq : (s.cluster (warpClu w)).queue.length + is.length ≤ 256) :
    s.Created (is.foldl (fun t i => t.makeChild w tmpl none r (a0 i) (some (a1 i))) t) w L
      (is.zipIdx.map (laneChild (s.warp w) L r tmpl a0 a1)) := by
  induction is using List.reverseRecOn with
  | nil => exact h
  | append_singleton is i ih =>
    rw [List.length_append, List.length_singleton] at hid hq
    have ih := ih (by omega) (by omega)
    rw [List.foldl_append, List.foldl_cons, List.foldl_nil, List.zipIdx_append, List.map_append]
    refine ih.trans ?_
    generalize is.foldl (fun t i => t.makeChild w tmpl none r (a0 i) (some (a1 i))) t = t' at ih ⊢
    have hw := ih.learns.warp w
    have hlen : (is.zipIdx.map (laneChild (s.warp w) L r tmpl a0 a1)).length = is.length := by rw [List.length_map, List.length_zipIdx]
    rw [hlen]
    have hone := State.makeChild_created (s := t') (w := w) (tmpl := tmpl) (L := { L with nextId := L.nextId + is.length }) (r := r)
      (by rw [hw, ih.launch, hlen]) hrun (by change L.nextId + is.length < _; omega) (fun k l hl => ih.learns.clean hc hl) hg
      (by rw [ih.cluster]; dsimp only; rw [List.length_append, hlen]; omega) (a0 i) (some (a1 i))
    rw [hw] at hone
    rw [Nat.zero_add, List.zipIdx_singleton, List.map_singleton]
    exact hone

/-- What the creation of tasks leaves besides, as the statement says it. -/
theorem State.Created.made {s t : State} {w : Nat} {L : Launch} {rs : List QRec} (h : s.Created t w L rs) :
    ∃ s0, s.KnowsMore s0 ∧ t = { s0 with clusters := t.clusters, launches := t.launches,
                                         mem := { s0.mem with toClu := t.mem.toClu, e0 := t.mem.e0, e1 := t.mem.e1 } } := h.learns.knows

/-- A template without a counter. -/
theorem TaskRec.counts_none {r : TaskRec} (h : r.join = 0) : r.counts = false := by
  unfold TaskRec.counts
  rw [h]
  rfl

/-- A child of the strand. -/
theorem spawn_creates {s : State} {n : Stall} {a b : BitVec 6} {pa : Nat} {L : Launch} (hc : s.StrandClear [a.toNat, b.toNat])
    (hr : s.StrandReaches ((s.sval s.cur.warp 0 a.toNat).setWidth 56) 64 .read pa)
    (hj : (taskRecOf (s.mem.lookN (warpDie s.cur.warp) (canonPa pa) 64)).join = 0)
    (hg : (taskRecOf (s.mem.lookN (warpDie s.cur.warp) (canonPa pa) 64)).groupNos = [])
    (hL : s.launch? (s.warp s.cur.warp).lid = some L) (hrun : L.st = .running) (hclean : s.CleanL1) (hl2 : s.InL2 pa) (hid : L.nextId < 2 ^ 32)
    (hq : (s.cluster (warpClu s.cur.warp)).queue.length < 256) :
    ∃ s1 t, exec (.spawn n a b) s = .next t ∧ s1.StrandOnly t n 4 {} ∧ s.Created s1 s.cur.warp L
      [{ trec := childOf (taskRecOf (s.mem.lookN (warpDie s.cur.warp) (canonPa pa) 64)) L (s.sval s.cur.warp 1 b.toNat)
           (taskRecOf (s.mem.lookN (warpDie s.cur.warp) (canonPa pa) 64)).arg1,
         id := L.nextId, lid := (s.warp s.cur.warp).lid, addr := ((s.sval s.cur.warp 0 a.toNat).setWidth 56 : Addr).toNat,
         initial := false, excess := false }] := by
  obtain ⟨u, hu, hreads⟩ := State.strandBlock hr (hclean _) hl2
  have hcre := hreads.created hL
  have hw := hcre.learns.warp s.cur.warp
  have hone := State.makeChild_created (s := u) (w := s.cur.warp) (tmpl := ((s.sval s.cur.warp 0 a.toNat).setWidth 56 : Addr).toNat)
    (by rw [hw]; exact hcre.launch) hrun hid (fun k l hl => hcre.learns.clean (hclean · ·) hl) hg
    (by rw [hcre.cluster, List.append_nil]; exact hq) (s.sval s.cur.warp 1 b.toNat) none
  rw [hw] at hone
  have hx : exec (.spawn n a b) s = execSpawn n a b s := rfl
  unfold execSpawn at hx
  rw [strandOp_clear hc (0, 0) _ (fun _ h => h)] at hx
  simp only [State.syncAll_none hr.1, State.strandReach_there hr, hu, bytesOf_lookN, TaskRec.counts_none hj, Bool.false_eq_true, if_false] at hx
  exact ⟨_, _, hx, State.passU_only _ n 4 _ rfl, hcre.trans hone⟩

/-- A child for each executing lane, in ascending order. -/
theorem spawnl_creates {s : State} {n : Stall} {x y : Src} {r : BitVec 6} {pa : Nat} {L : Launch} (hc : s.Clear (srcRes x ++ srcRes y))
    (hne : s.execLanes ≠ []) (hf : ∀ i ∈ s.execLanes, ((s.warp s.cur.warp).lane i).failed = [])
    (hr : s.StrandReaches (((s.warp s.cur.warp).sreg r.toNat).setWidth 56) 64 .read pa)
    (hj : (taskRecOf (s.mem.lookN (warpDie s.cur.warp) (canonPa pa) 64)).join = 0)
    (hg : (taskRecOf (s.mem.lookN (warpDie s.cur.warp) (canonPa pa) 64)).groupNos = [])
    (hL : s.launch? (s.warp s.cur.warp).lid = some L) (hrun : L.st = .running) (hclean : s.CleanL1) (hl2 : s.InL2 pa)
    (hid : L.nextId + 32 < 2 ^ 32) (hq : (s.cluster (warpClu s.cur.warp)).queue.length + 32 < 256) :
    ∃ s1 t, exec (.spawnl n x y r) s = .next t ∧ s1.Given t n 8 (fun _ => {}) ∧ s.Created s1 s.cur.warp L
      (s.execLanes.zipIdx.map (laneChild (s.warp s.cur.warp) L (taskRecOf (s.mem.lookN (warpDie s.cur.warp) (canonPa pa) 64))
        (((s.warp s.cur.warp).sreg r.toNat).setWidth 56 : Addr).toNat (fun i => ((s.view i).src 0 x).setWidth 64)
        (fun i => ((s.view i).src 1 y).setWidth 64))) := by
  obtain ⟨u, hu, hreads⟩ := State.strandBlock hr (hclean _) hl2
  obtain ⟨hsync, -, hal, htr, hpa, -⟩ := hr
  have hcre := hreads.created hL
  have h32 : s.execLanes.length ≤ 32 := (List.length_filter_le _ _).trans (by rw [laneList, List.length_range])
  have hmany := hcre.children (tmpl := (((s.warp s.cur.warp).sreg r.toNat).setWidth 56 : Addr).toNat) hrun hclean hg
    (fun i => ((s.view i).src 0 x).setWidth 64) (fun i => ((s.view i).src 1 y).setWidth 64) s.execLanes (by omega) (by omega)
  have hcheck : ∀ i ∈ s.execLanes, s.laneCheck (0, 0) (fun _ => srcRes x ++ srcRes y) i = none :=
    fun i hi => State.laneCheck_clear hc _ _ i hi (fun _ h => h)
  have hgo : s.execLanes.filter (fun i => (s.laneCheck (0, 0) (fun _ => srcRes x ++ srcRes y) i).isNone) = s.execLanes :=
    List.filter_eq_self.mpr (fun i hi => by rw [hcheck i hi]; rfl)
  have hturned : s.execLanes.filterMap (fun i => (s.laneCheck (0, 0) (fun _ => srcRes x ++ srcRes y) i).map (fun c => (i, LaneRes.trapped c))) = [] :=
    List.filterMap_eq_nil_iff.mpr (fun i hi => by rw [hcheck i hi]; rfl)
  have hfailed : (s.execLanes.map (fun i => ((s.warp s.cur.warp).lane i).failed)).flatten = [] := by
    rw [List.flatten_eq_nil_iff]
    intro l hl
    obtain ⟨i, hi, rfl⟩ := List.mem_map.mp hl
    exact hf i hi
  have hempty : s.execLanes.isEmpty = false := by
    rw [List.isEmpty_eq_false_iff]; exact hne
  have hx : exec (.spawnl n x y r) s = execSpawnl n x y r s := rfl
  unfold execSpawnl at hx
  simp only [State.syncAll_none hsync, hgo, hturned, hfailed, hempty, hal, htr, hpa, hu, bytesOf_lookN, TaskRec.counts_none hj, List.append_nil,
    ne_eq, not_true_eq_false, Bool.not_true, Bool.false_eq_true, if_false] at hx
  refine ⟨_, _, hx, ?_, hmany⟩
  generalize s.execLanes.foldl _ u = s1 at hmany ⊢
  have hcur : s1.cur = s.cur := by rw [hmany.learns.rest]
  have hexec : s1.execLanes = s.execLanes := by rw [State.execLanes, hcur, hmany.learns.warp]; rfl
  rw [← hexec, ← hcur]
  exact State.finishLanes_plain s1 8 0 n (0, 0) (fun _ => {}) (fun _ _ => ⟨rfl, rfl, rfl, rfl, rfl, rfl, nofun⟩) (.inl fun _ _ => rfl)

/-- A task that ends with a continuation: its lanes are exited, and its strand is past the instruction. -/
def Warp.endsAs (v : Warp) (e : EndSt) (n : Stall) : Warp :=
  { v.endLanes with ending := e, sstall := n.toNat + 1, swait := .none, sfailed := [] }

theorem Warp.endsAs_lane (v : Warp) (e : EndSt) (n : Stall) {i : Nat} (hi : i < 32) : ((v.endsAs e n).lane i).st = .exited := by
  have hl : (v.endsAs e n).lane i = v.endLanes.lane i := by
    unfold Warp.endsAs
    generalize v.endLanes = u
    rfl
  rw [hl]
  unfold Warp.endLanes
  rw [Warp.lane_updLanes _ (show laneList.Nodup from List.nodup_range), if_pos (show i ∈ laneList from List.mem_range.mpr hi)]

theorem Warp.endsAs_ending (v : Warp) (e : EndSt) (n : Stall) : (v.endsAs e n).ending = e := rfl

/-- A read, and then a change of one slot. -/
theorem State.Reads.updWarp {s u : State} (h : s.Reads u) (w : Nat) (f : Warp → Warp) : ∃ s0, s.KnowsMore s0 ∧
    u.updWarp w f = { s0 with warps := (u.updWarp w f).warps, mem := { s0.mem with toClu := (u.updWarp w f).mem.toClu } } := by
  obtain ⟨s0, hk, hu⟩ := h
  refine ⟨s0, hk, ?_⟩
  change ({ u with warps := (u.updWarp w f).warps } : State) =
    { s0 with warps := (u.updWarp w f).warps, mem := { s0.mem with toClu := u.mem.toClu } }
  generalize (u.updWarp w f).warps = ws
  conv_lhs => rw [hu]

/-- A continuation: every lane of the task ends, and the record that the descriptor makes waits for its end. -/
theorem cont_ends {s : State} {n : Stall} {a : BitVec 6} {pa : Nat} (hc : s.StrandClear [a.toNat])
    (hr : s.StrandReaches ((s.sval s.cur.warp 0 a.toNat).setWidth 56) 64 .read pa) (hl2 : s.AtL2 pa)
    (hb : (s.launch (s.warp s.cur.warp).lid).namesBound (s.warp s.cur.warp).trec = false)
    (hw : numAt (s.mem.lookN (warpDie s.cur.warp) (canonPa pa) 64) 32 8 % 8 = 0)
    (hz : numAt (s.mem.lookN (warpDie s.cur.warp) (canonPa pa) 64) 56 8 = 0) :
    ∃ u, s.Reads u ∧ exec (.cont n a) s = .next (u.updWarp s.cur.warp (fun v => v.endsAs
      (.contEnding ((s.warp s.cur.warp).contRec (s.mem.lookN (warpDie s.cur.warp) (canonPa pa) 64))
        (numAt (s.mem.lookN (warpDie s.cur.warp) (canonPa pa) 64) 32 8) ((s.sval s.cur.warp 0 a.toNat).setWidth 56 : Addr).toNat) n)) := by
  obtain ⟨u, hu, hreads⟩ := State.strandBlock hr (fun l hl => by rw [hl2.1] at hl; cases hl) hl2.2
  have hx : exec (.cont n a) s = execCont n a s := rfl
  unfold execCont at hx
  rw [strandOp_clear hc (0, 0) _ (fun _ h => h)] at hx
  simp only [State.syncAll_none hr.1, State.strandReach_there hr, hu, bytesOf_lookN, hb, hw, hz, ne_eq, not_true_eq_false, Bool.false_eq_true,
    if_false] at hx
  exact ⟨u, hreads, hx⟩

/-- What the end with a continuation leaves. -/
theorem State.Reads.ends {s u : State} (h : s.Reads u) (w : Nat) (e : EndSt) (n : Stall) :
    ∃ s0 t, u.updWarp w (fun v => v.endsAs e n) = t ∧ (∀ i < 32, ((t.warp w).lane i).st = .exited) ∧ s.KnowsMore s0 ∧
      t = { s0 with warps := t.warps, mem := { s0.mem with toClu := t.mem.toClu } } ∧ (∀ j, j ≠ w → t.warp j = s.warp j) ∧
      (t.warp w).ending = e := by
  obtain ⟨s0, hk, hrest⟩ := h.updWarp w (fun v => v.endsAs e n)
  refine ⟨s0, _, rfl, fun i hi => ?_, hk, hrest, fun j hj => ?_, ?_⟩
  · rw [State.warp_updWarp_same]
    exact Warp.endsAs_lane _ _ _ hi
  · rw [State.warp_updWarp, if_neg (Ne.symm hj), h.learns.1.warp]
  · rw [State.warp_updWarp_same, Warp.endsAs_ending]

theorem warpClu_eq (w : Nat) : w / 256 = warpClu w := (Nat.div_div_eq_div_mul w 16 16).symm

/-- Settles O42: spawn and spawnl create the children of a template, and cont ends its task. -/
theorem taskCreation : Obligations.TaskCreation := by
  unfold Obligations.TaskCreation
  intro s n a b r x y pa L
  refine ⟨?_, ?_, ?_⟩
  · rw [warpClu_eq]
    rintro hc hr ⟨hj, hg, hL, hrun, hclean, hl2⟩ hid hq
    obtain ⟨s1, t, hx, hs, hcre⟩ := spawn_creates (n := n) hc hr hj hg hL hrun hclean hl2 hid hq
    exact ⟨s1, t, hx, hs, ⟨hcre.launch, hcre.launches, hcre.epoch, hcre.clusters, hcre.made⟩, hcre.cluster⟩
  · rw [warpClu_eq]
    rintro va hc hne hf hr ⟨hj, hg, hL, hrun, hclean, hl2⟩ hid hq
    obtain ⟨s1, t, hx, hs, hcre⟩ := spawnl_creates (n := n) hc hne hf hr hj hg hL hrun hclean hl2 hid hq
    have hlaunch := hcre.launch
    have hepoch := hcre.epoch
    rw [List.length_map, List.length_zipIdx] at hlaunch hepoch
    exact ⟨s1, t, hx, hs, ⟨hlaunch, hcre.launches, hepoch, hcre.clusters, hcre.made⟩, hcre.cluster⟩
  · intro hc hr hl2 hb hw hz
    obtain ⟨u, hu, hx⟩ := cont_ends (n := n) hc hr hl2 hb hw hz
    obtain ⟨s0, t, ht, hlanes, hk, hrest, hothers, hend⟩ := hu.ends s.cur.warp _ n
    rw [ht] at hx
    exact ⟨s0, t, hx, hlanes, hk, hrest, hothers, hend⟩

end Sys2Proof.Machine
end

section
/-! SUPPORT. Placing bound groups: the order in which the launches are listed decides which of two reserves a slot. -/

namespace Sys2Proof.Machine

/-- The window of one group, if it gets one, stands in its core alone. -/
theorem State.makeWindows_one (s : State) (lid g c n : Nat) :
    s.makeWindows lid [(g, c, n)] = s ∨ ∃ ws, s.makeWindows lid [(g, c, n)] = s.updCore c (fun k => { k with wins := ws }) := by
  simp only [State.makeWindows]
  split
  · exact .inr ⟨_, rfl⟩
  · exact .inl rfl

/-- The record of the one member of a group. -/
def loneMember : QRec := { trec := { groups := [0x8000] }, id := 0, lid := 0, addr := 0, initial := true }

/-- Two launches that both reserve slot 0, listed with the higher number first; launch 0 has a core-bound group of one member, whose
record waits in the queue of the partition's only cluster. -/
def twiceReserved : State :=
  { State.reset with
    regs := [(dieBlk 0 0x1000, 0x80)]
    launches := [(1, { Launch.dflt with slots := [0] }), (0, { Launch.dflt with groups := [(0, ⟨1, 1, 0⟩)], slots := [0] })]
    clusters := [(0, { queue := [loneMember] })] }

theorem twiceReserved_clusters : (twiceReserved.clustersOf 0).filter twiceReserved.schedules = [0] := by decide +kernel

theorem twiceReserved_recs : twiceReserved.boundRecs 0 = [loneMember] := by decide +kernel

theorem twiceReserved_free : twiceReserved.freeSlots 0 0 true = 1 :: (List.range 14).map (· + 2) := by decide +kernel

/-- The placement decides for core 0. -/
theorem twiceReserved_places : exec (.boundGroupPlacement 0 0) twiceReserved =
    .next (twiceReserved.enterMembers 0 [0] [(0, 0)] [loneMember]) := by
  have hfind : findPlace (twiceReserved.coreView 0) (twiceReserved.launch 0) [loneMember] [0] [0] =
      some (({ at_ := [(0, 0)] } : Placing), true) := by decide +kernel
  have hx : exec (.boundGroupPlacement 0 0) twiceReserved = execBoundGroupPlacement 0 0 twiceReserved := rfl
  have hclose : closeSet (twiceReserved.launch 0) [loneMember] 0 = [0] := by decide +kernel
  have hnames : [loneMember].filter (fun q => q.trec.groupNos.any [0].contains) = [loneMember] := by decide +kernel
  have hplan : (twiceReserved.launch 0).plan = [] := rfl
  have hpart : (twiceReserved.launch 0).part = 0 := rfl
  have hgo : (!twiceReserved.runs 0 || [loneMember].isEmpty || !((twiceReserved.launch 0).group 0).bound) = false := by decide +kernel
  rw [hx]
  unfold execBoundGroupPlacement
  simp only [twiceReserved_recs, hclose, hnames, hgo, hplan, List.filter_nil, List.isEmpty_nil, Bool.not_true, Bool.false_and,
    Bool.false_eq_true, if_false, if_true, hpart, twiceReserved_clusters, hfind]

/-- Launch 0 stands first once its plan has been written, so that slot 0 counts as its own, and the task starts there. -/
theorem twiceReserved_starts : ((twiceReserved.enterMembers 0 [0] [(0, 0)] [loneMember]).warp 1).slot = .free := by
  unfold State.enterMembers
  simp only [show (twiceReserved.launch 0).windowsOf [0] [(0, 0)] [loneMember] = [(0, 0, 0)] from by decide +kernel]
  generalize hs : State.updLaunch _ _ _ = s
  obtain h | ⟨ws, h⟩ := s.makeWindows_one 0 0 0 0
  · rw [h, ← hs]
    decide +kernel
  · rw [h, ← hs]
    rfl

/-- Refutes O50: a placement writes the launch's plan, which puts the launch where its number belongs in the list. Where the launches
are listed out of order, as the statement permits, it comes to stand before another one that reserves the same slot, and its
record starts in that slot and not in the one that was free for it before. -/
theorem not_scheduling : ¬ Obligations.Scheduling := by
  unfold Obligations.Scheduling
  intro h
  obtain ⟨-, hbound, -⟩ := h twiceReserved 0
  obtain ⟨t, ht, ⟨-, hslot, -⟩, -⟩ := hbound loneMember 0 0 1 _ [] (by decide +kernel) twiceReserved_recs rfl (by decide +kernel)
    (by decide +kernel) rfl (by decide +kernel) (by decide +kernel) (by decide +kernel) twiceReserved_clusters rfl twiceReserved_free
  obtain rfl : _ = t := Host.Outcome.next.inj (twiceReserved_places.symm.trans ht)
  rw [twiceReserved_starts] at hslot
  cases hslot

end Sys2Proof.Machine
end

section
/-! SUPPORT. A refill of a task whose core lists a line of L1 twice and whose die lists a line of L2 twelve times: what it reads where no key of
the lists is to be found twice is not what it reads here (10_memory.md R255, 11_ordering.md R286, 14_control_instr.md R396; log entries
20, 22). -/

namespace Sys2Proof.Machine

/-- What a refill changes besides L1, L2 and the engines. -/
structure Aside where
  clock : Nat := 0
  toClu : SMap (List (Option Nat)) := []
  toSlice : SMap (List (Option Nat)) := []
  unseen : List Unseen := []
  arbs : SMap Arb := []

/-- A task with an item queue at address 32, one live lane and one vacant one. -/
def crowdWarp : Warp :=
  { slot := .board, trec := { itemq := 32 }, converged := true
    lanes := [(0, { Lane.dflt with st := .live }), (1, { Lane.dflt with st := .vacant })] }

/-- The translation of the first 128 addresses, which are those of line x. -/
def crowdPage (x : Nat) : TlbEnt := { die := 0, space := 0, vpage := 0, bits := 7, pbase := 128 * x, rd := true, wr := true, ex := false }

/-- Slot 0 holds that task, and the partition may access everything. -/
def crowded (x : Nat) (l1 : SMap L1Line) (l2 : SMap L2Line) (gr : SMap Granule) (a : Aside) : State :=
  { State.reset with
    regs := [(pkgBlk 0x10000, 0xC000000000000000), (pkgBlk 0x10008, 0x7FFFFFE00000)]
    warps := [(0, crowdWarp)]
    cur := { warp := 0, lanes := 1 }
    clock := a.clock
    cores := [(0, { Core.dflt with l1 := l1 })]
    mem := { l2 := l2, granules := gr, toClu := a.toClu, toSlice := a.toSlice, unseen := a.unseen, arbs := a.arbs
             tlb := [crowdPage x] } }

section
variable {x : Nat} {l1 : SMap L1Line} {l2 : SMap L2Line} {gr : SMap Granule} {a : Aside}

theorem crowded_warp : (crowded x l1 l2 gr a).warp 0 = crowdWarp := rfl

theorem crowdWarp_vacant : lanesOf crowdWarp.vacant = [1] := by decide +kernel

theorem crowded_execLanes : (crowded x l1 l2 gr a).execLanes = [0] := by
  change lanesOf ((1 : Word) &&& crowdWarp.live) = [0]
  decide +kernel

/-- The agent that pops the items. -/
def crowdMaster : Master := { die := 0, part := 0, space := 0, lid := some 0, code := 0, tid := 0, cls := 1, slack := 4096, rid := 0, clu := some 0,
                              hold := true, agent := 32, task := 0 }

theorem crowded_strandMaster : (crowded x l1 l2 gr a).strandMaster 0 = crowdMaster := rfl

theorem crowded_sound : (crowded x l1 l2 gr a).mem.Sound := ⟨rfl, rfl, rfl⟩

theorem crowded_trackRead (b : Nat) : (crowded x l1 l2 gr a).trackRead (some 0) b = crowded x l1 l2 gr a := rfl

theorem crowded_trackWrite (b : Nat) : (crowded x l1 l2 gr a).trackWrite (some 0) b = crowded x l1 l2 gr a := rfl

theorem crowded_tlbFor {va : Nat} (h : va < 128) : (crowded x l1 l2 gr a).tlbFor crowdMaster va = some (crowdPage x) := by
  have hp : va / 128 = 0 := by omega
  change (match (none : Option TlbEnt) with | some e => some e | none => (crowded x l1 l2 gr a).tlbHit 0 0 va) = some (crowdPage x)
  simp [State.tlbHit, crowded, crowdPage, hp]

theorem crowded_translate {va : Nat} (h : va < 128) {y : AccKind} (hy : (crowdPage x).permits y = true) :
    (crowded x l1 l2 gr a).translate crowdMaster va y [] = (crowded x l1 l2 gr a, .ok (128 * x + va)) := by
  unfold State.translate
  simp only [crowded_tlbFor h, hy, List.contains_nil, Bool.false_eq_true, if_false, if_true]
  rw [show va % 2 ^ (crowdPage x).bits = va from Nat.mod_eq_of_lt h]
  rfl

theorem crowd_canon {j : Nat} (hx : x < 2 ^ 18) (hj : j < 128) : canonPa (128 * x + j) = 128 * x + j := by
  unfold canonPa quarter
  rw [if_neg (by omega)]

theorem crowd_home {j : Nat} (hx : x < 2 ^ 18) (hj : j < 128) : homeOf (128 * x + j) = 0 := by
  unfold homeOf gib
  rw [if_neg (by omega)]

theorem crowded_allowed {j : Nat} (hx : x < 2 ^ 18) (hj : j < 128) (y : AccKind) : (crowded x l1 l2 gr a).paAllowed 0 (128 * x + j) y = true := by
  have hq : quarter (128 * x + j) = 0 := by unfold quarter; omega
  have hrow : (placeOf ((128 * x + j) % 2 ^ 46)).row < 15360 := by
    unfold placeOf gib
    dsimp only
    split <;> omega
  have hhole : (crowded x l1 l2 gr a).hole (128 * x + j) = false := by
    unfold State.hole State.slotRow gib
    simp only [hq]
    rw [decide_eq_false (by omega), decide_eq_false (p := 15360 ≤ _) (by omega)]
    rfl
  have hoff : (crowded x l1 l2 gr a).sys.off (homeOf (canonPa (128 * x + j))) = false := by
    rw [crowd_canon hx hj, crowd_home hx hj]
    rfl
  have hgrant : (crowded x l1 l2 gr a).rangeGrants 0 0 (128 * x + j) y.writes = true := by
    have h0 : (crowded x l1 l2 gr a).rangeWord (pkgBlk (0x10000 + 16 * 0)) = 0xC000000000000000 := rfl
    have h1 : (crowded x l1 l2 gr a).rangeWord (pkgBlk (0x10008 + 16 * 0)) = 0x7FFFFFE00000 := rfl
    have hlast : (128 * x + j) / 2 ^ 21 ≤ 67108863 := by omega
    unfold State.rangeGrants
    rw [h0, h1]
    dsimp only
    rw [show bitAt (0xC000000000000000 : Word64) 63 = true from by decide, show field (0xC000000000000000 : Word64) 59 56 = 0 from by decide,
      show field (0xC000000000000000 : Word64) 46 21 = 0 from by decide, show field (0x7FFFFFE00000 : Word64) 46 21 = 67108863 from by decide,
      show bitAt (0xC000000000000000 : Word64) 62 = true from by decide, decide_eq_true hlast]
    simp
  have hpart : (crowded x l1 l2 gr a).allowed 0 (128 * x + j) y.writes = true := by
    unfold State.allowed
    rw [hhole, hoff, List.any_eq_true.mpr ⟨0, by simp, hgrant⟩, hq]
    rfl
  unfold State.paAllowed
  rw [hq]
  exact hpart

/-- A plain access of bytes of which the engines hold none touches no granule. -/
theorem State.syncTouch_missing {s : State} {a n : Nat} (h : ∀ i < (a + n + 7) / 8 - a / 8, s.mem.granules.find? (a / 8 + i) = none) :
    s.syncTouch a n = s := by
  unfold State.syncTouch
  split
  · rfl
  · have hfold : ∀ l : List Nat, (∀ i ∈ l, s.mem.granules.find? (a / 8 + i) = none) →
        l.foldl (fun s k => s.syncUse (a / 8 + k)) s = s := by
      intro l hl
      induction l with
      | nil => rfl
      | cons i r ih =>
        have hi : s.syncUse (a / 8 + i) = s := by
          unfold State.syncUse
          rw [hl i List.mem_cons_self]
        rw [List.foldl_cons, hi]
        exact ih (fun j hj => hl j (List.mem_cons_of_mem _ hj))
    exact hfold _ (fun i hi => h i (List.mem_range.mp hi))

/-- The line of an address. -/
theorem crowd_line {j : Nat} (hj : j < 128) : (128 * x + j) / 128 = x := by omega

theorem crowded_line? (y : Nat) : (crowded x l1 l2 gr a).mem.line? 0 y = l2.find? y := by
  unfold Mem.line? lineKey
  rw [Nat.zero_mul, Nat.zero_add]
  rfl

theorem crowded_updUnseen (f : List Unseen → List Unseen) :
    (crowded x l1 l2 gr a).updMem (fun m => { m with unseen := f m.unseen }) = crowded x l1 l2 gr { a with unseen := f a.unseen } := rfl

/-- Observing who wrote the bytes of a line that L1 does not hold. -/
theorem crowded_observe {y : Nat} (h : l1.find? y = none) (mask : BitVec 128) :
    ∃ b, (crowded x l1 l2 gr a).observe crowdMaster 0 y mask = crowded x l1 l2 gr b := by
  unfold State.observe
  have hw : crowdMaster.who = some (0, 32) := by decide
  rw [hw]
  dsimp only
  generalize hs : (if (crowded x l1 l2 gr a).mem.unseen.isEmpty then crowded x l1 l2 gr a else _) = s1
  have h1 : ∃ b, s1 = crowded x l1 l2 gr b := by
    rw [← hs]
    split
    · exact ⟨a, rfl⟩
    · exact ⟨_, crowded_updUnseen (List.map _)⟩
  obtain ⟨b, rfl⟩ := h1
  have hl : ((crowded x l1 l2 gr b).core 0).l1.find? y = none := h
  exact ⟨b, by rw [hl]⟩

theorem crowded_lookN (b : Aside) (d j n : Nat) : (crowded x l1 l2 gr b).mem.lookN d j n = (crowded x l1 l2 gr a).mem.lookN d j n := by
  induction n generalizing j with
  | zero => rfl
  | succ n ih => rw [Mem.lookN, Mem.lookN, ih]; rfl

/-- A read of line x where L2 holds it. -/
theorem crowded_l2Read {j n : Nat} (hj : j < 128) (hl1 : l1.find? x = none) (hl2 : (l2.find? x).isSome = true)
    (hg : ∀ i < (128 * x + j + n + 7) / 8 - (128 * x + j) / 8, gr.find? ((128 * x + j) / 8 + i) = none) :
    ∃ b, (crowded x l1 l2 gr a).l2Read crowdMaster (128 * x + j) n =
      (crowded x l1 l2 gr b, some (ofBytes ((crowded x l1 l2 gr a).mem.lookN 0 (128 * x + j) n))) := by
  have hin : (crowded x l1 l2 gr a).l2In crowdMaster x false = crowded x l1 l2 gr a := by
    refine State.updMem_same _ (Mem.l2In_held ?_ false)
    rw [← crowded_line? (a := a)] at hl2
    exact hl2
  have hferry : ∃ b, (crowded x l1 l2 gr a).ferryLine crowdMaster (128 * x + j) false = crowded x l1 l2 gr b := ⟨{ a with toClu := _ }, rfl⟩
  obtain ⟨b, hb⟩ := hferry
  obtain ⟨c, hc⟩ := crowded_observe (l2 := l2) (gr := gr) (a := b) hl1 (runMask ((128 * x + j) % 128) n)
  have ht : (crowded x l1 l2 gr a).syncTouch (128 * x + j) n = crowded x l1 l2 gr a := State.syncTouch_missing hg
  refine ⟨c, ?_⟩
  unfold State.l2Read
  simp only [show (crowded x l1 l2 gr a).trackRead crowdMaster.lid (128 * x + j) = crowded x l1 l2 gr a from rfl,
    State.meets_sound crowded_sound, ht, crowd_line hj, hin, hb]
  rw [show crowdMaster.code = 0 from rfl, hc, crowded_lookN (a := a)]
  rfl


theorem Mem.applyAll_quiet {m : Mem} (h : m.strait = []) (p : Msg → Bool) : m.applyAll p = m := by
  unfold Mem.applyAll
  rw [h]
  rfl

theorem Mem.drain_quiet {m : Mem} (h : m.strait = []) (d k : Nat) : m.drain d k = m := Mem.applyAll_quiet h _

theorem Mem.acquireAt_quiet {m : Mem} (h : m.strait = []) (d a : Nat) : m.acquireAt d a = m := by
  unfold Mem.acquireAt
  split
  · exact Mem.drain_quiet h _ _
  · rfl

/-- An engine that holds nothing takes a granule in for an addition, with nothing on its way across the strait. -/
theorem Mem.atomic_fresh {m : Mem} {d a : Nat} (hh : homeOf a = d) (hg : m.granules = []) (hs : m.strait = []) (hu : m.upsets = [])
    (stamp part : Nat) (b c : Word64) :
    ∃ g old, g.area = none ∧ m.atomic d a stamp .add32 b c true 0 part = ({ m with granules := [(a / 8, g)] }, old) := by
  have hgrab : ∃ g : Granule, g.area = none ∧ m.grab a stamp 0 part = { m with granules := [(a / 8, g)] } := by
    refine ⟨{ val := BitVec.ofNat 64 (ofBytes ((List.range 8).map (fun k => m.under (a / 8 * 8 + k))))
              clk0 := if homeOf a = 0 then m.homeClk (a / 128) else 0, clk1 := if homeOf a = 0 then 0 else m.homeClk (a / 128), used := stamp
              tid := (((m.line? (homeOf a) (a / 128)).map (fun l => (l.tid, l.part))).getD (0, part)).1
              part := (((m.line? (homeOf a) (a / 128)).map (fun l => (l.tid, l.part))).getD (0, part)).2 }, rfl, ?_⟩
    unfold Mem.grab
    simp only [Mem.granule?, hg, SMap.find?, hs, List.any_nil, Bool.false_eq_true, if_false, hu, List.contains_nil, Mem.clear,
      List.isEmpty_nil, if_true, Mem.setGranule, SMap.set]
  obtain ⟨g, harea, hgrab⟩ := hgrab
  have hfind : Mem.granule? { m with granules := [(a / 8, g)] } a = some g := by simp [Mem.granule?, SMap.find?]
  have hretag : ∀ (x : Mem) (line : Nat), x.retagHome line 0 part = x := by
    intro x line
    unfold Mem.retagHome
    split <;> rfl
  unfold Mem.atomic
  simp only [hh, if_true, hgrab, Mem.acquireAt_quiet (m := { m with granules := [(a / 8, g)] }) hs, hfind, atomNew, hretag, Mem.setGranule, SMap.set,
    Granule.retag, Nat.lt_irrefl, if_false]
  refine ⟨_, _, ?_, rfl⟩
  unfold Granule.stamp
  split <;> exact harea

theorem Mem.hide_unseen (m : Mem) (d line : Nat) (x : Wrote) : ∃ us, m.hide d line x = { m with unseen := us } := by
  unfold Mem.hide
  dsimp only
  split
  · split
    · exact ⟨_, rfl⟩
    · split
      · exact ⟨_, rfl⟩
      · exact ⟨_, rfl⟩
  · exact ⟨_, rfl⟩

/-- The bytes that a task writes are not seen by the host yet. -/
theorem crowded_veil (who : Agent) (y : Nat) (mask : BitVec 128) :
    ∃ b, (crowded x l1 l2 gr a).veil (some who) y mask = crowded x l1 l2 gr b := by
  obtain ⟨us, hus⟩ := (crowded x l1 l2 gr a).mem.hide_unseen (crowded x l1 l2 gr a).onDie y { lid := who.1, by_ := who.2, mask := mask }
  refine ⟨{ a with unseen := us }, ?_⟩
  change ({ crowded x l1 l2 gr a with mem := (crowded x l1 l2 gr a).mem.hide _ _ _ } : State) = _
  rw [hus]
  rfl

/-- An engine that holds one granule has room. -/
theorem crowded_syncUse {c : Nat} {g : Granule} (hg : g.area = none) :
    ∃ g' b, (crowded x l1 l2 [(c, g)] a).syncUse c = crowded x l1 l2 [(c, g')] b := by
  refine ⟨{ g with used := a.clock, area := none, touched := false }, { a with clock := a.clock + 1 }, ?_⟩
  have hfind : (crowded x l1 l2 [(c, g)] a).mem.granules.find? c = some g := by
    change (if c = c then some g else none) = some g
    rw [if_pos rfl]
  have hset : (crowded x l1 l2 [(c, g)] a).mem.setGranule (8 * c) { g with used := a.clock, area := none, touched := false } =
      (crowded x l1 l2 [(c, { g with used := a.clock, area := none, touched := false })] a).mem := by
    have hone : SMap.set [(c, g)] (8 * c / 8) { g with used := a.clock, area := none, touched := false } =
        [(c, { g with used := a.clock, area := none, touched := false })] := by
      rw [Nat.mul_div_cancel_left c (by decide), SMap.set, if_neg (Nat.lt_irrefl c), if_pos rfl]
    exact congrArg (fun l => ({ (crowded x l1 l2 [(c, g)] a).mem with granules := l } : Mem)) hone
  have hroom : ∀ s : State, s.mem.granules.length ≤ 1 → s.syncMakeRoom (homeOf (8 * c)) c = s := by
    intro s hs
    unfold State.syncMakeRoom
    have hlen : ¬ syncRoom < (s.mem.inSram (homeOf (8 * c))).length := by
      have := List.length_filter_le (fun p : Nat × Granule => decide (homeOf (8 * p.1) = homeOf (8 * c)) && p.2.area.isNone) s.mem.granules
      unfold Mem.inSram syncRoom
      omega
    simp only [decide_eq_false hlen, Bool.not_false, if_true]
  unfold State.syncUse
  rw [hfind]
  simp only [hg]
  rw [show (crowded x l1 l2 [(c, g)] a).clock = a.clock from rfl, hset, hroom _ (le_refl 1)]
  rfl

/-- An addition at the engine, which takes the granule in. -/
theorem crowded_atomic (hx : x < 2 ^ 18) (hl1 : l1.find? x = none) (hl2 : (l2.find? x).isSome = true) (v : Word64) :
    ∃ g b old, (crowded x l1 l2 [] a).atomic crowdMaster (128 * x + 48) .add32 v 0 true =
      (crowded x l1 l2 [(16 * x + 6, g)] b, some old) := by
  have hline : (128 * x + 48) / 128 = x := by omega
  have hgran : (128 * x + 48) / 8 = 16 * x + 6 := by omega
  have hhome : homeOf (128 * x + 48) = 0 := crowd_home hx (by decide)
  have hferry : ∃ b, (crowded x l1 l2 [] a).ferryLine crowdMaster (128 * x + 48) true = crowded x l1 l2 [] b := ⟨{ a with toSlice := _ }, rfl⟩
  obtain ⟨b1, hb1⟩ := hferry
  obtain ⟨b2, hb2⟩ := crowded_observe (x := x) (l2 := l2) (gr := []) (a := b1) hl1 (runMask ((128 * x + 48) % 128) 4)
  obtain ⟨b3, hb3⟩ := crowded_veil (x := x) (l1 := l1) (l2 := l2) (gr := []) (a := b2) (0, 32) x (runMask ((128 * x + 48) % 128) 4)
  obtain ⟨g, old, harea, hat⟩ := Mem.atomic_fresh (m := (crowded x l1 l2 [] b3).mem) hhome rfl rfl rfl (crowded x l1 l2 [] a).clock 0 v 0
  obtain ⟨g', b4, hb4⟩ := crowded_syncUse (x := x) (l1 := l1) (l2 := l2) (a := b3) (c := 16 * x + 6) harea
  refine ⟨g', b4, old, ?_⟩
  have hheld : ((crowded x l1 l2 [] b2).mem.line? 0 x).isSome = true := by rw [crowded_line?]; exact hl2
  have hmeet : ∀ u, ((crowded x l1 l2 [] a).trackRead crowdMaster.lid (128 * x + 48)).meetUnit u crowdMaster = (crowded x l1 l2 [] a, false) :=
    fun _ => rfl
  have hwrites : ∀ old, (atomNew .add32 old v 0).isSome = true := fun _ => rfl
  have hreq : ∀ q : Master, (crowded x l1 l2 [] b2).updMem (fun y => if ((y.granule? (128 * x + 48)).isSome || (y.line? 0 x).isSome) = true then y
      else y.request q (128 * x + 48) 4 false) = crowded x l1 l2 [] b2 :=
    fun q => State.updMem_same _ (if_pos (by rw [hheld, Bool.or_true]))
  have hput : ({ crowded x l1 l2 [] b3 with mem := { (crowded x l1 l2 [] b3).mem with granules := [((128 * x + 48) / 8, g)] } } : State) =
      crowded x l1 l2 [(16 * x + 6, g)] b3 := by
    rw [hgran]
    rfl
  have htell : ∀ h, (crowded x l1 l2 [(16 * x + 6, g')] b4).tellQueues h = crowded x l1 l2 [(16 * x + 6, g')] b4 := fun _ => rfl
  have hafter : (crowded x l1 l2 [(16 * x + 6, g')] b4).afterAtomic (128 * x + 48) = crowded x l1 l2 [(16 * x + 6, g')] b4 := rfl
  have hwrite : (crowded x l1 l2 [] b2).trackWrite crowdMaster.lid (128 * x + 48) = crowded x l1 l2 [] b2 := rfl
  have hwho : crowdMaster.who = some (0, 32) := by decide
  unfold State.atomic
  simp only [hmeet, State.meets_sound crowded_sound, Bool.false_eq_true, if_false, show atomSize .add32 = 4 from rfl, hb1, hhome, hline,
    show crowdMaster.code = 0 from rfl, show crowdMaster.die = 0 from rfl, hb2, if_true, hreq, hwrites, hwrite, hwho, hb3]
  rw [show crowdMaster.tid = 0 from rfl, show crowdMaster.part = 0 from rfl, hat]
  simp only [hput]
  rw [hgran, hb4, hafter, htell]

/-- Two lines of one slice and one set of L2. -/
structure Alike (x y : Nat) : Prop where
  left : x < 2 ^ 18
  right : y < 2 ^ 18
  ne : x ≠ y
  slice : sliceOf (128 * x) = sliceOf (128 * y)
  set : Config.l2Set x % 1024 = Config.l2Set y % 1024

/-- A set of L2 whose twelve entries are of one line, eleven of them alike. -/
abbrev repeated (x : Nat) (l l' : L2Line) : SMap L2Line := (x, l) :: List.replicate 11 (x, l')

/-- Where a full set lists one line twelve times, the line that comes in takes the place of its first entry. -/
theorem Mem.roomFor_repeated {m : Mem} {y : Nat} {l l' : L2Line} (ha : Alike x y) (hu : m.upsets = []) (hd : l.dirty = 0) (hk : l.clk = 0)
    (h : m.l2 = repeated x l l') : m.roomFor 0 y = { m with l2 := List.replicate 11 (x, l') } := by
  obtain ⟨hx, -, -, hslice, hset⟩ := ha
  have hkey : ∀ p ∈ m.l2, p.1 = x := by
    intro p hp
    rw [h, List.mem_cons, List.mem_replicate] at hp
    obtain rfl | ⟨-, rfl⟩ := hp <;> rfl
  have hmod : x % 2 ^ 41 = x := by omega
  have hdiv : x / 2 ^ 41 = 0 := by omega
  have hslices : m.l2.filter (fun p => decide (p.1 / 2 ^ 41 = 0) && decide (sliceOf (128 * (p.1 % 2 ^ 41)) = sliceOf (128 * y))) = m.l2 := by
    refine List.filter_eq_self.mpr (fun p hp => ?_)
    rw [hkey p hp, hmod, hdiv, hslice]
    simp
  have hsets : m.l2.filter (fun p => decide (Config.l2Set (p.1 % 2 ^ 41) % 1024 = Config.l2Set y % 1024)) = m.l2 := by
    refine List.filter_eq_self.mpr (fun p hp => ?_)
    rw [hkey p hp, hmod, hset]
    simp
  have hlen : m.l2.length = 12 := by rw [h]; rfl
  have hhome : homeOf (128 * x) = 0 := crowd_home hx (j := 0) (by decide)
  have hline : m.line? 0 x = some l := by
    unfold Mem.line? lineKey
    rw [Nat.zero_mul, Nat.zero_add, h, SMap.find?, if_pos rfl]
  have hevict : m.evict 0 x = { m with l2 := List.replicate 11 (x, l') } := by
    have hback : m.writeBack x = m := by
      unfold Mem.writeBack
      simp only [hhome, hline, hd, if_true]
    have hclear : m.clear (Upset.inL2 0 x) = m := by
      unfold Mem.clear
      rw [hu]
      rfl
    have hdel : SMap.del m.l2 (lineKey 0 x) = List.replicate 11 (x, l') := by
      unfold lineKey
      rw [Nat.zero_mul, Nat.zero_add, h, SMap.del, if_pos rfl]
    unfold Mem.evict
    simp only [hhome, if_true, hback, hclear, hdel, hline, Option.map_some, Option.getD_some, hk]
  have hpick : ∀ i, ∃ p, m.l2[i % m.l2.length]? = some p ∧ p.1 = x := by
    intro i
    have hi : i % m.l2.length < m.l2.length := Nat.mod_lt _ (by omega)
    exact ⟨m.l2[i % m.l2.length], List.getElem?_eq_getElem hi, hkey _ (List.getElem_mem hi)⟩
  obtain ⟨p, hp, hpx⟩ := hpick (Config.freeDelay (2 ^ 64 + lineKey 0 y))
  unfold Mem.roomFor
  simp only [hslices, hsets, hlen, Nat.lt_irrefl, if_false]
  rw [hlen] at hp
  rw [hp]
  dsimp only
  rw [hpx, hmod, hevict]

/-- The L2 takes a line in, in the place of the first entry of another. -/
theorem crowded_l2In {q : Master} {y : Nat} {l l' : L2Line} (ha : Alike x y) (hd : l.dirty = 0) (hk : l.clk = 0) (hq : q.die = 0)
    (hclu : q.clu = some 0) :
    ∃ l3 b, (crowded x l1 (repeated x l l') gr a).l2In q y false =
      crowded x l1 (SMap.set (List.replicate 11 (x, l')) y l3) gr b := by
  obtain ⟨hx, hy, hxy, -, -⟩ := id ha
  have hnone : (crowded x l1 (repeated x l l') gr a).mem.line? 0 y = none := by
    rw [crowded_line?]
    have hfind : ∀ ls : SMap L2Line, (∀ p ∈ ls, p.1 = x) → SMap.find? ls y = none := by
      intro ls hl
      induction ls with
      | nil => rfl
      | cons p r ih =>
        rw [SMap.find?, if_neg (by rw [hl p List.mem_cons_self]; exact hxy)]
        exact ih (fun p hp => hl p (List.mem_cons_of_mem _ hp))
    refine hfind _ (fun p hp => ?_)
    rw [List.mem_cons, List.mem_replicate] at hp
    obtain rfl | ⟨-, rfl⟩ := hp <;> rfl
  have hhome : homeOf (128 * y) = 0 := crowd_home hy (j := 0) (by decide)
  have hreq : ∃ b, (crowded x l1 (repeated x l l') gr a).mem.request q (128 * y) 128 false =
      (crowded x l1 (repeated x l l') gr b).mem := by
    unfold Mem.request
    rw [hclu]
    exact ⟨{ a with arbs := _ }, rfl⟩
  obtain ⟨b, hb⟩ := hreq
  have hroom : (crowded x l1 (repeated x l l') gr b).mem.roomFor 0 y = (crowded x l1 (List.replicate 11 (x, l')) gr b).mem :=
    Mem.roomFor_repeated ha rfl hd hk rfl
  have hclear : ∀ p, (crowded x l1 (List.replicate 11 (x, l')) gr b).mem.clear p = (crowded x l1 (List.replicate 11 (x, l')) gr b).mem :=
    fun _ => rfl
  have hset' : ∀ l3, (crowded x l1 (List.replicate 11 (x, l')) gr b).mem.setLine 0 y l3 =
      (crowded x l1 (SMap.set (List.replicate 11 (x, l')) y l3) gr b).mem := by
    intro l3
    unfold Mem.setLine lineKey
    rw [Nat.zero_mul, Nat.zero_add]
    rfl
  unfold State.l2In State.updMem Mem.l2In Mem.fetch Mem.fillHome
  simp only [hq, hnone, hhome, if_true, hb, hroom, hclear, hset']
  exact ⟨_, { b with clock := a.clock }, rfl⟩

/-- What the agents of lines that nobody wrote know is kept besides. -/
theorem crowded_tellWho (h : ∀ p ∈ l1, p.2.who = []) (f : Wrote → Wrote) :
    ∃ b, (crowded x l1 l2 gr a).tellWho 0 f = crowded x l1 l2 gr b := by
  unfold State.tellWho
  dsimp only
  generalize hs : (if (crowded x l1 l2 gr a).mem.unseen.isEmpty then crowded x l1 l2 gr a else _) = s1
  have h1 : ∃ b, s1 = crowded x l1 l2 gr b := by
    rw [← hs]
    split
    · exact ⟨a, rfl⟩
    · exact ⟨_, crowded_updUnseen (List.map _)⟩
  obtain ⟨b, rfl⟩ := h1
  have hall : ((crowded x l1 l2 gr b).core 0).l1.all (fun p => p.2.who.isEmpty) = true :=
    List.all_eq_true.mpr (fun p hp => by rw [h p hp]; rfl)
  exact ⟨b, by rw [if_pos hall]⟩

/-- An acquire invalidates the first entry of a line that L1 lists twice, clean, and fetches the line for the second, which is dirty. -/
theorem crowded_acquire {y : Nat} {l l' : L2Line} {c e : L1Line} {g : Granule} (ha : Alike x y) (hd : l.dirty = 0) (hk : l.clk = 0)
    (hc : c.dirty = 0) (he : e.dirty ≠ 0) (hwho : e.who = []) (who : Option Agent) :
    ∃ e' l3 b, (crowded x [(y, c), (y, e)] (repeated x l l') [(16 * x + 6, g)] a).acquire 0 0 .device who =
      crowded x [(y, e')] (SMap.set (List.replicate 11 (x, l')) y l3) [(16 * x + 6, g)] b := by
  have hxy := ha.ne
  have hkeep : (crowded x [(y, c), (y, e)] (repeated x l l') [(16 * x + 6, g)] a).updCore 0
      (fun k => { k with l1 := keepVals (fun _ l => !decide (l.dirty = 0)) k.l1 }) =
      crowded x [(y, e)] (repeated x l l') [(16 * x + 6, g)] a := by
    have hl : keepVals (fun _ (l : L1Line) => !decide (l.dirty = 0)) [(y, c), (y, e)] = [(y, e)] := by
      simp [keepVals, hc, show ¬ e.dirty = 0#128 from he]
    exact congrArg (fun ls => crowded x ls (repeated x l l') [(16 * x + 6, g)] a) hl
  have htouch : ∀ l1 l2 b, (crowded x l1 l2 [(16 * x + 6, g)] b).syncTouch (128 * y) 128 = crowded x l1 l2 [(16 * x + 6, g)] b := by
    intro l1 l2 b
    refine State.syncTouch_missing (fun i hi => ?_)
    change SMap.find? [(16 * x + 6, g)] _ = none
    rw [SMap.find?, if_neg (by omega), SMap.find?]
  obtain ⟨l3, b, hin⟩ := crowded_l2In (l1 := [(y, e)]) (gr := [(16 * x + 6, g)]) (a := a) (q := e.master 0 0) (l' := l') ha
    hd hk rfl rfl
  have hferry : ∃ b', (crowded x [(y, e)] (SMap.set (List.replicate 11 (x, l')) y l3) [(16 * x + 6, g)] b).ferryLine (e.master 0 0) (128 * y)
      false = crowded x [(y, e)] (SMap.set (List.replicate 11 (x, l')) y l3) [(16 * x + 6, g)] b' := ⟨{ b with toClu := _ }, rfl⟩
  obtain ⟨b', hferry⟩ := hferry
  have hline : ∀ l2 b, ((crowded x [(y, e)] l2 [(16 * x + 6, g)] b).core 0).l1? y = some e := by
    intro l2 b
    change SMap.find? [(y, e)] y = some e
    rw [SMap.find?, if_pos rfl]
  have hupd : ∀ f : L1Line, (crowded x [(y, e)] (SMap.set (List.replicate 11 (x, l')) y l3) [(16 * x + 6, g)] b').updCore 0
      (fun k => { k with l1 := k.l1.set y f }) = crowded x [(y, f)] (SMap.set (List.replicate 11 (x, l')) y l3) [(16 * x + 6, g)] b' := by
    intro f
    have hl : SMap.set [(y, e)] y f = [(y, f)] := by rw [SMap.set, if_neg (Nat.lt_irrefl y), if_pos rfl]
    exact congrArg (fun ls => crowded x ls (SMap.set (List.replicate 11 (x, l')) y l3) [(16 * x + 6, g)] b') hl
  unfold State.acquire State.l1Acquire
  simp only [show scopeWide .device = true from rfl, if_true, hkeep]
  rw [show ((crowded x [(y, e)] (repeated x l l') [(16 * x + 6, g)] a).core 0).l1.map (·.1) = [y] from rfl, List.foldl_cons, List.foldl_nil]
  unfold State.l1Refresh
  simp only [hline, htouch, hin, hferry, hupd]
  cases who with
  | none => exact ⟨_, l3, b', rfl⟩
  | some w =>
    dsimp only
    generalize lineMerge _ e.data e.dirty = data
    obtain ⟨b'', h⟩ := crowded_tellWho (x := x) (l1 := [(y, { e with data := data })]) (l2 := SMap.set (List.replicate 11 (x, l')) y l3)
      (gr := [(16 * x + 6, g)]) (a := b') (fun p hp => by rw [List.mem_singleton] at hp; rw [hp]; exact hwho) (Wrote.take w)
    exact ⟨_, l3, b'', h⟩

/-- The bytes of a line that L2 holds, where no engine holds them. -/
theorem crowded_bytes {j n : Nat} {l : L2Line} (hx : x < 2 ^ 18) (hl : l2.find? x = some l) (hj : j + n ≤ 128)
    (hg : ∀ i < j + n, j ≤ i → gr.find? ((128 * x + i) / 8) = none) :
    (crowded x l1 l2 gr a).mem.lookN 0 (128 * x + j) n = (List.range' j n).map (lineGet l.data) := by
  induction n generalizing j with
  | zero => rfl
  | succ n ih =>
    have hgran : (crowded x l1 l2 gr a).mem.granule? (128 * x + j) = none := hg j (by omega) (le_refl j)
    have hlook : (crowded x l1 l2 gr a).mem.look 0 (128 * x + j) = lineGet l.data j := by
      unfold Mem.look Mem.atHome Mem.under
      rw [hgran, crowd_home hx (by omega), if_pos rfl]
      dsimp only
      rw [crowd_line (by omega), crowded_line?, hl]
      dsimp only
      rw [show (128 * x + j) % 128 = j by omega]
    rw [Mem.lookN, hlook, List.range'_succ, List.map_cons, Nat.add_assoc, ih (by omega) (fun i h1 h2 => hg i (by omega) (by omega))]

/-- The first entry of the line: an item queue of one item, which is 1, at the address 32, and the item at the address 0. -/
def lineWithItem : L2Line := { data := 1 ||| (1 <<< 320) ||| (1 <<< 416), dirty := 0, tid := 0, part := 0, clk := 0 }

/-- The other entries of the line: no queue, and no item. -/
def lineWithout : L2Line := { data := 0, dirty := 0, tid := 0, part := 0, clk := 0 }

/-- The descriptor. -/
def crowdDesc : List Byte := (List.range' 32 32).map (lineGet lineWithItem.data)

/-- An entry of L1. -/
def crowdEntry (dirty : BitVec 128) : L1Line := { data := 0, dirty := dirty, tid := 0, part := 0, next := false }

/-- L1 with two entries of line y, of which the second alone is dirty. -/
abbrev twice (y : Nat) : SMap L1Line := [(y, crowdEntry 0), (y, crowdEntry 1)]

/-- L1 lists line y twice, and L2 lists line x twelve times. -/
def crowdStart (x y : Nat) : State :=
  crowded x (twice y) (repeated x lineWithItem lineWithout) [] {}

theorem crowdStart_desc {y : Nat} (hx : x < 2 ^ 18) : (crowdStart x y).mem.lookN 0 (128 * x + 32) 32 = crowdDesc :=
  crowded_bytes hx (by rw [SMap.find?, if_pos rfl]) (by decide) (fun _ _ _ => rfl)

theorem crowdStart_item {y : Nat} (hx : x < 2 ^ 18) : (crowdStart x y).mem.lookN 0 (128 * x + 0) 4 = [1, 0, 0, 0] := by
  rw [crowdStart, crowded_bytes hx (l := lineWithItem) (by rw [SMap.find?, if_pos rfl]) (by decide) (fun _ _ _ => rfl)]
  decide +kernel

theorem crowdDesc_fields : numAt crowdDesc 0 8 = 0 ∧ numAt crowdDesc 8 4 = 1 ∧ numAt crowdDesc 12 4 = 0 ∧ numAt crowdDesc 16 4 = 0 ∧
    numAt crowdDesc 20 4 = 1 ∧ numAt crowdDesc 24 8 = 0 := by decide +kernel

theorem repeated_find (l l' : L2Line) : SMap.find? (repeated x l l') x = some l := by rw [SMap.find?, if_pos rfl]

theorem twice_find {y : Nat} (h : x ≠ y) : SMap.find? (twice y) x = none := by
  rw [SMap.find?, if_neg (Ne.symm h), SMap.find?, if_neg (Ne.symm h), SMap.find?]

theorem crowd_quarter {j : Nat} (hx : x < 2 ^ 18) (hj : j < 128) : quarter (128 * x + j) ≠ 3 := by
  unfold quarter
  omega

/-- L1 does not hold the line of the descriptor. -/
theorem crowdStart_l1Drop {y : Nat} (hxy : x ≠ y) : (crowdStart x y).l1Drop 0 0 x = crowdStart x y := by
  have hnone : ((crowdStart x y).core 0).l1? x = none := twice_find hxy
  have hdel : SMap.del (twice y) x = twice y := by rw [SMap.del, if_neg hxy, SMap.del, if_neg hxy, SMap.del]
  have hupd : (crowdStart x y).updCore 0 (fun k => { k with l1 := k.l1.del x }) = crowdStart x y :=
    congrArg (fun ls => crowded x ls (repeated x lineWithItem lineWithout) [] {}) hdel
  unfold State.l1Drop State.l1Clean
  rw [hnone]
  dsimp only
  rw [hupd]
  rfl

/-- The engine reads the descriptor from the first entry of its line. -/
theorem crowdStart_engineRead {y : Nat} (hx : x < 2 ^ 18) (hxy : x ≠ y) :
    ∃ b, (crowdStart x y).engineRead crowdMaster (128 * x + 32) 32 =
      (crowded x (twice y) (repeated x lineWithItem lineWithout) [] b, some (ofBytes crowdDesc)) := by
  obtain ⟨b, hb⟩ := crowded_l2Read (gr := []) (a := {}) (j := 32) (n := 32) (by decide) (twice_find hxy)
    (by rw [repeated_find lineWithItem lineWithout]; rfl) (fun _ _ => rfl)
  rw [← crowdStart, crowdStart_desc hx] at hb
  have hsame : (crowdStart x y).updMem (fun m => if homeOf (128 * x + 32) = crowdMaster.die then m else
      m.drainLine crowdMaster.die ((128 * x + 32) / 128)) = crowdStart x y :=
    State.updMem_same _ (if_pos (crowd_home hx (by decide)))
  unfold State.engineRead
  rw [if_neg (crowd_quarter hx (by decide)), crowd_canon hx (by decide)]
  dsimp only
  rw [hsame, crowd_home hx (by decide)]
  exact ⟨b, hb⟩

/-- The head of the queue goes on at the engine. -/
theorem crowded_engineOp {y : Nat} (hx : x < 2 ^ 18) (hxy : x ≠ y) :
    ∃ g b old, (crowded x (twice y) (repeated x lineWithItem lineWithout) [] a).engineOp crowdMaster (128 * x + 32 + 16) .add32
      (BitVec.ofNat 64 1) true = (crowded x (twice y) (repeated x lineWithItem lineWithout) [(16 * x + 6, g)] b, some old) := by
  obtain ⟨g, b, old, hadd⟩ := crowded_atomic (a := a) hx (twice_find hxy) (by rw [repeated_find lineWithItem lineWithout]; rfl) 1
  unfold State.engineOp
  rw [if_neg (crowd_quarter hx (show 48 < 128 by decide)), crowd_canon hx (show 48 < 128 by decide)]
  exact ⟨g, b, old, hadd⟩

/-- The acquire of a pop finds nothing on its way across the strait. -/
theorem crowded_acquireAt (d e b : Nat) : (crowded x l1 l2 gr a).updMem (fun m => (m.acquireAt d b).acquireAt e b) = crowded x l1 l2 gr a := by
  refine State.updMem_same _ ?_
  rw [Mem.acquireAt_quiet (m := (crowded x l1 l2 gr a).mem) rfl, Mem.acquireAt_quiet rfl]

/-- The item is read from the entry that is the first of its line after the acquire. -/
theorem crowded_readItems {y : Nat} {e : L1Line} {l : L2Line} {g : Granule} (hx : x < 2 ^ 18) (hxy : x ≠ y) :
    ∃ b, (crowded x [(y, e)] (SMap.set (List.replicate 11 (x, lineWithout)) y l) [(16 * x + 6, g)] a).readItems { crowdMaster with die := 0 }
      [128 * x + 0] = (crowded x [(y, e)] (SMap.set (List.replicate 11 (x, lineWithout)) y l) [(16 * x + 6, g)] b, some [0]) := by
  have hl1 : SMap.find? [(y, e)] x = none := by rw [SMap.find?, if_neg (Ne.symm hxy), SMap.find?]
  have hl2 : SMap.find? (SMap.set (List.replicate 11 (x, lineWithout)) y l) x = some lineWithout := by
    rw [SMap.find?_set, if_neg (Ne.symm hxy), List.replicate_succ, SMap.find?, if_pos rfl]
  have hgone : ∀ i < 4, SMap.find? [(16 * x + 6, g)] ((128 * x + i) / 8) = none := by
    intro i hi
    rw [SMap.find?, if_neg (by omega), SMap.find?]
  have hzero : ofBytes ((List.range' 0 4).map (lineGet lineWithout.data)) = 0 := by decide +kernel
  obtain ⟨b, hb⟩ := crowded_l2Read (gr := [(16 * x + 6, g)]) (a := a) (j := 0) (n := 4) (by decide) hl1 (by rw [hl2]; rfl)
    (fun i hi => by rw [SMap.find?, if_neg (by omega), SMap.find?])
  rw [crowded_bytes hx hl2 (by decide) (fun i hi _ => hgone i (by omega)), hzero] at hb
  unfold State.readItems State.readItems State.plainRead
  rw [if_neg (crowd_quarter hx (by decide)), crowd_canon hx (by decide), show ({ crowdMaster with die := 0 } : Master) = crowdMaster from rfl, hb]
  exact ⟨b, rfl⟩

/-- The descriptor is read while its line is the first entry's, and the item once that entry has gone. -/
theorem crowdStart_popItems {y : Nat} (ha : Alike x y) :
    ∃ l1 l2 gr b, (crowdStart x y).popItems 0 1 [] = (crowded x l1 l2 gr b, .done [0]) := by
  have hx := ha.left
  obtain ⟨b1, hread⟩ := crowdStart_engineRead hx ha.ne
  obtain ⟨g, b2, old, hadd⟩ := crowded_engineOp (a := b1) hx ha.ne
  obtain ⟨e, l3, b3, hacq⟩ := crowded_acquire (a := b2) (l := lineWithItem) (l' := lineWithout) (c := crowdEntry 0) (e := crowdEntry 1) (g := g)
    ha rfl rfl rfl (by decide) rfl (some (0, 63))
  obtain ⟨b4, hitem⟩ := crowded_readItems (a := b3) (e := e) (l := l3) (g := g) hx ha.ne
  have hdesc : bytesOf 32 (ofBytes crowdDesc) = crowdDesc := bytesOf_ofBytes crowdDesc
  obtain ⟨hbase, hcap, hpad, hhead, htail, hrest⟩ := crowdDesc_fields
  have hva : ((((crowdStart x y).warp 0).trec.itemq.setWidth 56 : Addr)).toNat = 32 := by
    change (((32 : Word64).setWidth 56 : Addr)).toNat = 32
    decide
  have hdescVa : (crowdStart x y).translate crowdMaster 32 .atomic [] = (crowdStart x y, .ok (128 * x + 32)) :=
    crowded_translate (by decide) rfl
  have hdescMay : (crowdStart x y).paAllowed crowdMaster.part (128 * x + 32) .atomic = true := crowded_allowed hx (by decide) _
  have hitemVa : (crowded x (twice y) (repeated x lineWithItem lineWithout) [] b1).translateAll crowdMaster .read [] [0] =
      (crowded x (twice y) (repeated x lineWithItem lineWithout) [] b1, [(0, .ok (128 * x + 0))]) := by
    unfold State.translateAll State.translateAll
    rw [crowded_translate (by decide) rfl]
  have hitemMay : (crowded x (twice y) (repeated x lineWithItem lineWithout) [] b1).paAllowed crowdMaster.part (128 * x + 0) .read = true :=
    crowded_allowed hx (by decide) _
  have hwho : (crowded x (twice y) (repeated x lineWithItem lineWithout) [(16 * x + 6, g)] b2).taskAgent 0 = (0, 63) := rfl
  have hcnt : min 1 ((1 + 2 ^ 32 - 0) % 2 ^ 32) = 1 := by decide
  have hvas : (List.range 1).map (fun k => (0 / 4 * 4 + 4 * ((0 + k) % 2 ^ 32 % 1)) % 2 ^ 56) = [0] := by decide
  unfold State.popItems
  simp only [show (crowdStart x y).strandMaster 0 = crowdMaster from rfl, hva, hdescVa, hdescMay, Bool.not_true, Bool.false_eq_true, if_false,
    crowd_quarter hx (show 32 < 128 by decide), crowd_canon hx (show 32 < 128 by decide), crowd_line (show 32 < 128 by decide),
    show warpDie 0 = 0 from rfl, show coreOf 0 = 0 from rfl, crowdStart_l1Drop ha.ne, hread, hdesc, hbase, hcap, hpad, hhead, htail, hrest]
  rw [if_neg (by decide), hcnt, if_neg (by decide), hvas, hitemVa]
  simp only [firstWait, List.any_cons, List.any_nil, reduceCtorEq, decide_false, Bool.or_false, Bool.false_eq_true, if_false,
    List.filterMap_cons, List.filterMap_nil, List.find?_cons, List.find?_nil, hitemMay, Bool.not_true, hadd, crowded_acquireAt]
  rw [hwho, hacq, crowd_home hx (by decide), hitem]
  exact ⟨_, _, _, b4, rfl⟩

/-- Results that end no wait: the warp with them. -/
theorem State.warp_finishLanes_unstirred (s : State) (w len lat n : Nat) (u : Nat × Nat) {rs : List (Nat × LaneRes)}
    (h : rs.any (fun p => p.2.stirs) = false) :
    (s.finishLanes w len lat n u rs).warp w = (rs.foldl (fun v p => v.applyRes (s.warp w).mks len lat n p) (s.warp w)).settle := by
  have hf : s.finishLanes w len lat n u rs =
      { s.updWarp w (fun v => (rs.foldl (fun v' p => v'.applyRes v.mks len lat n p) v).settle) with glitch := none } := by
    unfold State.finishLanes
    dsimp only
    rw [if_neg (by rw [h]; decide)]
  rw [hf]
  exact State.warp_updWarp_same s w (fun v => (rs.foldl (fun v' p => v'.applyRes v.mks len lat n p) v).settle)

/-- A warp that comes together keeps the registers of its lanes. -/
theorem Warp.converge_o (w : Warp) (clock i : Nat) : ((w.converge clock).lane i).o = (w.lane i).o := by
  have hclear : ∀ v : Warp, ((v.clearStall clock).lane i) = v.lane i := by
    intro v
    unfold Warp.clearStall
    split
    · rfl
    · split <;> rfl
  unfold Warp.converge
  split
  · rfl
  · rename_i j r hl
    split
    · rw [hclear]
      change ((w.updLanes (j :: r) _).lane i).o = _
      rw [Warp.lane_updLanes _ (hl ▸ lanesOf_nodup _)]
      split <;> rfl
    · rfl

/-- The vacant lane takes the item that the other entries hold. -/
theorem crowdStart_refill {y : Nat} (ha : Alike x y) :
    ∃ t, exec (.refill 0 (.o 0)) (crowdStart x y) = .next t ∧ ((t.warp 0).lane 1).o.get 0 0 = 0 := by
  obtain ⟨l1, l2, gr, b, hpop⟩ := crowdStart_popItems ha
  have hlanes : (crowdStart x y).execLanes = [0] := crowded_execLanes
  have hvac : (lanesOf ((crowdStart x y).warp 0).vacant).length = 1 := congrArg List.length crowdWarp_vacant
  have hfailed : ([0].map (fun i => (((crowdStart x y).warp 0).lane i).failed)).flatten = [] := rfl
  have hx : exec (.refill 0 (.o 0)) (crowdStart x y) = execRefill 0 (.o 0) (crowdStart x y) := rfl
  unfold execRefill at hx
  simp only [show (crowdStart x y).cur.warp = 0 from rfl, show (((crowdStart x y).warp 0).trec.itemq = 0) = False from by
    rw [show (crowdStart x y).warp 0 = crowdWarp from rfl]; decide, if_false, State.syncAll_none (s := crowdStart x y) rfl,
    hvac, hfailed, hpop, hlanes] at hx
  refine ⟨_, hx, ?_⟩
  rw [State.warp_updWarp_same, Warp.converge_o]
  have hwarp : (((crowded x l1 l2 gr b).finishLanes 0 4 0 (0 : Stall).toNat (0, 0) ([0].map (fun i => (i, ({} : LaneRes))))).warp 0) =
      (crowdWarp.applyRes crowdWarp.mks 4 0 0 (0, {})).settle := by
    rw [State.warp_finishLanes_unstirred _ _ _ _ _ _ (by decide)]
    rfl
  rw [hwarp, show (((crowdStart x y).warp 0).lane 0).pc = 0 from rfl]
  decide +kernel

/-- Two lines of one slice and one set. -/
theorem exists_lines_alike : ∃ x y, Alike x y := by
  have hslice : ∀ a, sliceOf a < 128 := by
    intro a
    unfold sliceOf
    have h7 : ∀ lo, a / 2 ^ lo % 128 < 2 ^ 7 := fun lo => Nat.mod_lt _ (by decide)
    have h4 : a / 2 ^ 42 % 16 < 2 ^ 7 := by omega
    exact Nat.xor_lt_two_pow (Nat.xor_lt_two_pow (Nat.xor_lt_two_pow (Nat.xor_lt_two_pow (Nat.xor_lt_two_pow (h7 _) (h7 _)) (h7 _)) (h7 _)) (h7 _)) h4
  obtain ⟨x, y, hne, heq⟩ := Fintype.exists_ne_map_eq_of_card_lt
    (fun x : Fin (2 ^ 18) => ((⟨sliceOf (128 * x), hslice _⟩, ⟨Config.l2Set x % 1024, Nat.mod_lt _ (by decide)⟩) : Fin 128 × Fin 1024))
    (by simp)
  obtain ⟨h1, h2⟩ := Prod.mk.inj heq
  exact ⟨x, y, x.isLt, y.isLt, fun h => hne (Fin.ext h), Fin.mk.inj h1, Fin.mk.inj h2⟩

theorem crowdStart_reach {y : Nat} (hx : x < 2 ^ 18) :
    (crowdStart x y).Reach crowdMaster (crowdWarp.trec.itemq.setWidth 56) .atomic (128 * x + 32) := by
  have hva : ((crowdWarp.trec.itemq.setWidth 56 : Addr)).toNat = 32 := by decide
  have ht : (crowdStart x y).translate crowdMaster 32 .atomic [] = (crowdStart x y, .ok (128 * x + 32)) := crowded_translate (by decide) rfl
  unfold State.Reach
  rw [hva]
  exact ⟨ht, crowded_allowed hx (by decide) _, by unfold quarter; omega, crowded_sound, rfl, fun _ => rfl⟩

theorem crowdStart_line {y j : Nat} (hj : j < 128) : ((crowdStart x y).mem.line? 0 ((128 * x + j) / 128)).isSome = true := by
  rw [crowd_line hj, crowdStart, crowded_line?, repeated_find]
  rfl

theorem crowdStart_atL2 {y : Nat} (hx : x < 2 ^ 18) (hxy : x ≠ y) : (crowdStart x y).AtL2 (128 * x + 32) := by
  have hdie : warpDie (crowdStart x y).cur.warp = 0 := by change warpDie 0 = 0; decide
  have hcore : coreOf (crowdStart x y).cur.warp = 0 := by change coreOf 0 = 0; decide
  unfold State.AtL2 State.InL2
  rw [crowd_canon hx (by decide), hdie, hcore]
  refine ⟨?_, rfl, crowdStart_line (by decide)⟩
  rw [crowd_line (by decide)]
  exact twice_find hxy

/-- Only the first entry of a line of L1 is looked at. -/
theorem crowdStart_clean (y : Nat) : (crowdStart x y).CleanL1 := by
  have hcore : coreOf (crowdStart x y).cur.warp = 0 := by change coreOf 0 = 0; decide
  intro k l hl
  rw [hcore] at hl
  have hfind : SMap.find? (twice y) k = some l := hl
  by_cases hk : y = k
  · rw [SMap.find?, if_pos hk] at hfind
    cases hfind
    rfl
  · rw [SMap.find?, if_neg hk, SMap.find?, if_neg hk, SMap.find?] at hfind
    cases hfind

end

/-- Refutes O43: an acquire invalidates the clean entries of L1 and fetches the lines of the others anew. The statement lets L1 list a
line twice, first clean and then dirty: the fetch of that line then takes the place of the item's line in a full set of L2, before
the item is read, and where L2 lists that line more than once the next entry holds another item. -/
theorem not_refill : ¬ Obligations.Refill := by
  unfold Obligations.Refill
  intro h
  obtain ⟨x, y, ha⟩ := exists_lines_alike
  have hx := ha.left
  obtain ⟨t, ht, h0⟩ := crowdStart_refill ha
  have hhome : ∀ j < 128, homeOf ((128 * x + j) / 128 * 128) = 0 := by
    intro j hj
    rw [crowd_line hj, Nat.mul_comm]
    exact crowd_home (j := 0) hx (by decide)
  have hgroup : ∀ i ∈ (crowdStart x y).execLanes, (crowdWarp.lane i).pc = 0 ∧ (crowdWarp.lane i).failed = [] := by
    intro i hi
    rw [show (crowdStart x y).execLanes = [0] from crowded_execLanes, List.mem_singleton] at hi
    subst hi
    exact ⟨rfl, rfl⟩
  obtain ⟨hbase, hcap, hpad, hhead, htail, hrest⟩ := crowdDesc_fields
  have hfor : (crowdStart x y).tlbFor crowdMaster 0 = some (crowdPage x) := crowded_tlbFor (by decide)
  have hrun := (h (crowdStart x y) 0 (.o 0) 0 1 0 (128 * x + 32) (128 * x + 0) (crowdPage x)).1
  have hiva : (0 / 4 * 4 + 4 * (0 % 1)) % 2 ^ 56 = 0 := by decide
  simp only [show (crowdStart x y).cur.warp = 0 from rfl, show warpDie 0 = 0 by decide, show (crowdStart x y).warp 0 = crowdWarp from rfl,
    show (crowdStart x y).strandMaster 0 = crowdMaster from rfl, crowdStart_desc hx, crowdStart_item hx, hbase, hcap, hpad, hhead, htail, hrest,
    hiva] at hrun
  obtain ⟨t', ht', -, -, ⟨-, -, -, -, -, -, -, ho⟩, -⟩ := hrun
    (by decide) rfl rfl crowdWarp_vacant (congrArg List.head? crowded_execLanes) hgroup (crowdStart_reach hx) (by omega) (by omega)
    (crowd_home hx (by decide)) (hhome 32 (by decide)) (crowdStart_atL2 hx ha.ne) (crowdStart_clean y) rfl (by decide) (by decide) trivial trivial
    (by decide) hfor rfl rfl (by omega) rfl (crowded_allowed hx (by decide) _) rfl rfl (crowd_home hx (by decide)) (hhome 0 (by decide))
    (crowdStart_line (by decide)) (by omega) (by omega)
  obtain rfl : t = t' := Host.Outcome.next.inj (ht.symm.trans ht')
  exact absurd ((ho 0).symm.trans h0) (by decide)

end Sys2Proof.Machine
end

section
/-! SUPPORT. Operands: what a source reads outside the gap of its register and within it (03_encoding.md R67, R75). -/

namespace Sys2Proof.Machine

/-! ## Values within and outside their gaps -/

theorem gapPick_of_none {tick k i : Nat} {ps : List Pend} {r : LRes} (now : Word) (h : pendOf ps r = none) : gapPick tick k i ps r now = now := by
  unfold gapPick
  rw [h]

theorem gapPick_of_some {tick k i : Nat} {ps : List Pend} {r : LRes} {p : Pend} (now : Word) (h : pendOf ps r = some p) :
    gapPick tick k i ps r now = if Config.freeBool (1024 * tick + 32 * k + i) then p.old else now := by
  unfold gapPick
  rw [h]

@[simp] theorem gapPick_nil (tick k i : Nat) (r : LRes) (now : Word) : gapPick tick k i [] r now = now :=
  gapPick_of_none now rfl

/-- The lower register of two is read by its own operand's choice. -/
theorem View.part_zero (v : View) (k n : Nat) : v.part k n 0 = v.oreg k n := by
  unfold View.part
  cases pendOf v.ln.pend (.o (n + 0)) <;> simp

/-- The upper register of two that one producer wrote is read by the choice of the lower one. -/
theorem View.part_one_of_pair {v : View} {n : Nat} {q : Pend} (k : Nat) (h : pendOf v.ln.pend (.o (n + 1)) = some q) (hq : q.pair = true) :
    v.part k n 1 = v.oreg k (n + 1) := by
  unfold View.part
  rw [h]
  simp [hq]

theorem View.part_of_no_pend {v : View} (k n j : Nat) (h : v.ln.pend = []) : v.part k n j = v.ln.o.get 0 (n + j) := by
  simp [View.part, View.oreg, h]

theorem State.sval_of_no_spend {s : State} {w : Nat} (k r : Nat) (h : (s.warp w).spend = []) : s.sval w k r = (s.warp w).sreg r := by
  simp [State.sval, h]

/-- Settles O8: an operand outside its gap reads its register, and one within it what the free choice of its operand number gives, which is
one choice for both halves of one result. -/
theorem operandForms : Obligations.OperandForms := by
  unfold Obligations.OperandForms
  refine ⟨fun v k hp hs => ?_, fun v k n p h => ?_, fun v k n p q hp hq hpair => ?_, fun v k m p hp hs hw => ?_⟩
  · have hmask : ∀ m, v.mask k m = v.w.mask m := fun m => by simp [View.mask, Warp.maskSeen, hp, hs]
    refine ⟨fun n => by simp [View.src, hp], fun n j => v.part_of_no_pend k n j hp, by simp [View.src, hp], by simp [View.src, hp], rfl, rfl,
      fun n => by simp [View.src, hp], fun n => (BitVec.ofNat_toNat _ _).symm, fun m hm => ?_, ?_, fun s w r hr => s.sval_of_no_spend k r hr⟩
    · rw [View.maskBit, hmask, Warp.mask, if_neg (by omega)]
    · rw [View.maskBit, hmask, Warp.mask, if_pos rfl, Warp.bitAt_live]
      simp [View.ln]
  · rw [View.oreg, gapPick_of_some _ h]
    split
    · exact Or.inl rfl
    · exact Or.inr rfl
  · rw [v.part_zero, View.part_one_of_pair k hq hpair, View.oreg, View.oreg, gapPick_of_some _ hp, gapPick_of_some _ hq]
    split
    · exact Or.inl ⟨rfl, rfl⟩
    · exact Or.inr ⟨rfl, rfl⟩
  · simp [View.mask, Warp.maskSeen, hp, hs, hw]

end Sys2Proof.Machine
end

section
/-! SUPPORT. Fetches that nothing holds up: the words at the addresses that a PC and the words after it translate to (03_encoding.md R63, R76). -/

namespace Sys2Proof.Machine

/-! ## A fetch that nothing holds up -/

/-- The word at an address of the stacks, as a fetch of a die reads it. -/
def State.wordAt (s : State) (d pa : Nat) : Word := BitVec.ofNat 32 (ofBytes (s.mem.lookN d (canonPa pa) 4))

/-- The fetch of a word at a PC finds its address, which the partition may fetch from and which is no other node's, and what is
tracked of the launch's reads stays. -/
def State.Fetches (s : State) (m : Master) (failed : List (Nat × Nat)) (pc : Addr) (pa : Nat) : Prop :=
  s.translate m pc.toNat .fetch failed = (s, .ok pa) ∧ s.paAllowed m.part pa .fetch = true ∧ quarter pa ≠ 3 ∧ s.trackRead m.lid (canonPa pa) = s

section
variable {s : State} {m : Master} {failed : List (Nat × Nat)} {pc : Addr}

theorem State.fetchWord_reads {pa : Nat} (hs : s.mem.Sound) (h : s.Fetches m failed pc pa) :
    s.fetchWord m failed pc = (s, .word (s.wordAt m.die pa)) := by
  obtain ⟨htr, hal, hq, hrd⟩ := h
  unfold State.fetchWord
  rw [htr]
  dsimp only
  rw [hal, hrd, State.meets_sound hs, if_neg (by decide), if_neg hq]
  rfl

/-- Of the extension words, those of the opcode are read, and the others are 0. -/
theorem State.fetchMore_reads {w : Word} {pa : Nat → Nat} (hs : s.mem.Sound)
    (h1 : 1 ≤ extWords w → s.Fetches m failed (pc + 4) (pa 1)) (h2 : 2 ≤ extWords w → s.Fetches m failed (pc + 8) (pa 2)) :
    s.fetchMore m failed pc w = (s, .words w (if 1 ≤ extWords w then s.wordAt m.die (pa 1) else 0)
      (if 2 ≤ extWords w then s.wordAt m.die (pa 2) else 0)) := by
  unfold State.fetchMore
  match extWords w, h1, h2 with
  | 0, _, _ => rfl
  | 1, h1, _ =>
    rw [State.fetchWord_reads hs (h1 (by decide))]
    rfl
  | k + 2, h1, h2 =>
    rw [State.fetchWord_reads hs (h1 (by omega))]
    dsimp only
    rw [State.fetchWord_reads hs (h2 (by omega)), if_pos (by omega), if_pos (by omega)]
    exact if_neg (by omega)

end

/-- Settles O5: each word is read at its address, and a word of the U-set in a diverged warp is told before its extension words. -/
theorem fetchReadsBytes : Obligations.FetchReadsBytes := by
  unfold Obligations.FetchReadsBytes
  intro s m failed pc pa converged word hs h
  have hf : ∀ k ≤ extWords (word 0), s.Fetches m failed (pc + BitVec.ofNat 56 (4 * k)) (pa k) := h
  have h0 : s.Fetches m failed pc (pa 0) := BitVec.add_zero pc ▸ hf 0 (Nat.zero_le _)
  have hw : word 0 = s.wordAt m.die (pa 0) := rfl
  rw [hw] at hf ⊢
  unfold State.fetch
  rw [State.fetchWord_reads hs h0]
  dsimp only
  by_cases hd : bitAt (s.wordAt m.die (pa 0)) 31 = true ∧ converged = false
  · rw [if_pos hd, if_pos]
    simpa using hd
  · rw [if_neg hd, if_neg]
    · exact State.fetchMore_reads hs (fun hk => hf 1 hk) (fun hk => hf 2 hk)
    · simpa using hd

end Sys2Proof.Machine
end

section
/-! SUPPORT. Words that have no row in the opcode maps: their issue is the trap of a rejected word, and what is noted after a step leaves the
warps alone (03_encoding.md R76 to R78). -/

namespace Sys2Proof.Machine

/-! ## What is noted after a happening leaves the warps alone -/

theorem foldl_warps {α : Type} {f : State → α → State} (hf : ∀ s a, (f s a).warps = s.warps) (l : List α) (s : State) :
    (l.foldl f s).warps = s.warps := by
  induction l generalizing s with
  | nil => rfl
  | cons a r ih => rw [List.foldl_cons, ih, hf]

@[simp] theorem State.logErr_warps (s : State) (r : ErrRec) : (s.logErr r).warps = s.warps := by
  unfold State.logErr
  dsimp only
  split <;> rfl

@[simp] theorem State.tellWho_warps (s : State) (c : Nat) (f : Wrote → Wrote) : (s.tellWho c f).warps = s.warps := by
  unfold State.tellWho
  dsimp only
  split <;> split <;> simp

@[simp] theorem State.toOverflow_warps (s : State) (d g : Nat) : (s.toOverflow d g).warps = s.warps := by
  unfold State.toOverflow
  split
  · rfl
  · dsimp only
    split <;> rfl

@[simp] theorem State.syncMakeRoom_warps (s : State) (d keep : Nat) : (s.syncMakeRoom d keep).warps = s.warps := by
  unfold State.syncMakeRoom
  extract_lets others full s1
  have h1 : s1.warps = s.warps := by
    unfold s1
    split
    · rfl
    · split <;> rfl
  split
  · rfl
  · split
    · exact h1
    · split
      · rw [State.toOverflow_warps, h1]
      · exact h1

@[simp] theorem State.syncUse_warps (s : State) (g : Nat) : (s.syncUse g).warps = s.warps := by
  unfold State.syncUse
  split
  · rfl
  · dsimp only
    rw [State.syncMakeRoom_warps]
    split <;> rfl

@[simp] theorem State.noteTouched_warps (s : State) : s.noteTouched.warps = s.warps := by
  unfold State.noteTouched
  split
  · exact foldl_warps (fun s (p : Nat × Granule) => s.syncUse_warps p.1) _ s
  · rfl

@[simp] theorem State.reckon_warps (s : State) : s.reckon.warps = s.warps := by
  unfold State.reckon
  dsimp only
  split
  · exact s.noteTouched_warps
  · rw [State.updMem_warps, foldl_warps (fun t k => t.logErr_warps _), s.noteTouched_warps]

@[simp] theorem State.meetAfter_warps (t s : State) (i : Instr) : (t.meetAfter s i).warps = t.warps := by
  unfold State.meetAfter
  refine foldl_warps (fun t k => ?_) _ t
  rw [apply_ite State.warps, State.meetLanes, State.tellWho_warps, ite_self]

/-- What is woken and noted after an issue leaves the warps of its own core as the issue left them. -/
theorem rouseAnswer_warp {s t : State} {a : Answer} {w : Nat} (ha : a = .next t) :
    ∃ y, rouseAnswer s (some (coreOf w)) a = .next y ∧ y.warp w = t.warp w := by
  subst ha
  refine ⟨_, rfl, ?_⟩
  rw [State.rouse_warp_same _ _ _ _ (Or.inl rfl)]
  unfold State.warp
  rw [State.reckon_warps]

/-! ## Words of unassigned slots -/

/-- A word of an unassigned slot names no register and no tile, so nothing of it can be in error, before or after. -/
theorem State.execIssued_unassigned (s : State) (x : Word) :
    s.execIssued (.unassignedOpcode x) = .next ((s.rejected x).meetAfter s (.unassignedOpcode x)) := by
  have hb : s.badSources (.unassignedOpcode x) = [] := by
    unfold State.badSources
    dsimp only [laneSources, strandSources, laneUniform, tileNamed]
    simp
  have hm (t : State) : t.mendResults s (.unassignedOpcode x) = t := by
    unfold State.mendResults
    simp only [laneResults, strandResults, List.map_nil, ite_self, List.append_nil]
    rw [List.flatMap_eq_nil_iff.mpr (fun _ _ => rfl)]
    rfl
  unfold State.execIssued
  rw [hb]
  exact congrArg Host.Outcome.next (hm _)

/-- The lanes that a rejected word traps: the executing lanes, or for a word of the U-set every live lane. -/
def State.rejects (s : State) (x : Word) : List Nat := if bitAt x 31 then lanesOf (s.warp s.cur.warp).live else s.execLanes

/-- In a converged warp whose lanes stand at the strand's PC, a rejected word traps with code 0x01 at that PC. -/
theorem State.rejected_enters {s : State} (hh : s.Handled) (hc : (s.warp s.cur.warp).converged = true)
    (hpc : ∀ i ∈ lanesOf (s.warp s.cur.warp).live, ((s.warp s.cur.warp).lane i).pc = (s.warp s.cur.warp).spc) (x : Word) :
    ∀ i ∈ s.rejects x, ((s.warp s.cur.warp).lane i).Enters (((s.rejected x).warp s.cur.warp).lane i) 0x01 0 (s.warp s.cur.warp).spc
      (maskOf (fun k => decide (k ∈ s.rejects x))) (s.warp s.cur.warp).tvec := by
  intro i hi
  unfold State.rejected State.rejects at *
  by_cases hx : bitAt x 31 = true
  · simp only [hx, hc, if_true] at hi ⊢
    exact (State.takeTraps_entered hh (lanesOf_nodup _) (fun _ h => h) (by decide) _).entered i hi
  · simp only [hx] at hi ⊢
    rw [← hpc i (State.mem_live_of_exec hi)]
    exact (State.lanesTrap_entered hh (by decide)).entered i hi

/-- Settles O56: neither word has a row in the opcode maps, so its issue is the trap of a rejected word, which what is noted and woken after
the step leaves as it is. -/
theorem erasedMemory : Obligations.ErasedMemory := by
  unfold Obligations.ErasedMemory
  intro s t h who r rest x e g hx
  have hdec : decode x e g = .ok (.unassignedOpcode x) := by rcases hx with rfl | rfl <;> rfl
  refine ⟨hdec, by rcases hx with rfl | rfl <;> rfl, ?_⟩
  intro hs hf s1 group w hgroup hconv hfetch u v hh hv _ _ hpc traps
  have hword : s1.issueWord who group = .next ((u.rejected x).meetAfter u (.unassignedOpcode x)) := by
    unfold State.issueWord
    dsimp only
    rw [show (s1.warp who.warp).converged = true from hconv, hfetch]
    dsimp only
    rw [hdec]
    exact u.execIssued_unassigned x
  obtain ⟨y, hy, hw⟩ := rouseAnswer_warp (s := s1) (w := who.warp) hword
  refine ⟨y, (step_issue hs hf rfl hgroup).trans hy, fun i hi => ?_⟩
  rw [hw]
  have hwarp : ((u.rejected x).meetAfter u (.unassignedOpcode x)).warp who.warp = (u.rejected x).warp who.warp := by
    unfold State.warp
    rw [State.meetAfter_warps]
  rw [hwarp]
  exact State.rejected_enters hh hv hpc x i hi

end Sys2Proof.Machine
end

section
/-! SUPPORT. Words as bytes, and the rows of the opcode maps: what the decoder gives for a word of an assigned slot and of no other (03_encoding.md
R63, R76 to R78). -/

namespace Sys2Proof

/-! ## Words as bytes -/

theorem toNat_append_eq {m n : Nat} (x : BitVec m) (y : BitVec n) : (x ++ y).toNat = x.toNat * 2 ^ n + y.toNat := by
  rw [BitVec.toNat_append, ← Nat.shiftLeft_add_eq_or_of_lt y.isLt, Nat.shiftLeft_eq]

theorem toNat_wordOf (a b c d : Byte) : (wordOf a b c d).toNat = ofBytes [a, b, c, d] := by
  simp only [wordOf, toNat_append_eq, ofBytes]
  omega

/-- A word laid out low byte first is read back. -/
theorem takeWord_bytesOf (w : Word) (r : List Byte) : takeWord (bytesOf 4 w.toNat ++ r) = some (w, r) := by
  have h : ofBytes (bytesOf 4 w.toNat) = w.toNat := (Machine.ofBytes_bytesOf 4 w.toNat).trans (Nat.mod_eq_of_lt w.isLt)
  exact congrArg (fun v => some (v, r)) (BitVec.eq_of_toNat_eq ((toNat_wordOf ..).trans h))

theorem takeWord_wordBytes (w : Word) (ws : List Word) (r : List Byte) : takeWord (wordBytes (w :: ws) ++ r) = some (w, wordBytes ws ++ r) := by
  rw [wordBytes, List.append_assoc, takeWord_bytesOf]

section
variable {w : Word} (e g : Word) (rest : List Byte)

theorem decodeBytes_oneWord (h : extWords w = 0) : decodeBytes (wordBytes [w] ++ rest) = (decode w 0 0).map (fun i => (i, rest)) := by
  unfold decodeBytes
  rw [takeWord_wordBytes]
  dsimp only
  rw [h]
  rfl

theorem decodeBytes_twoWords (h : extWords w = 1) : decodeBytes (wordBytes [w, e] ++ rest) = (decode w e 0).map (fun i => (i, rest)) := by
  unfold decodeBytes
  rw [takeWord_wordBytes]
  dsimp only
  rw [h, takeWord_wordBytes]
  rfl

theorem decodeBytes_threeWords (h : extWords w = 2) :
    decodeBytes (wordBytes [w, e, g] ++ rest) = (decode w e g).map (fun i => (i, rest)) := by
  unfold decodeBytes
  rw [takeWord_wordBytes]
  dsimp only
  rw [h, takeWord_wordBytes]
  dsimp only
  rw [takeWord_wordBytes]
  rfl

end

/-! ## Rows of the opcode maps -/

/-- The row whose first words have given bits [31:24]. -/
def rowWith (op : BitVec 8) : Option Row := rows.find? (fun r => r.op = op)

theorem rowOf_eq_rowWith (w : Word) : rowOf w = rowWith (w.extractLsb' 24 8) := rfl

/-- A word with a row decodes to what the row reads, where that is well formed. -/
theorem decode_ok_iff {w : Word} {r : Row} (h : rowOf w = some r) (e g : Word) (i : Instr) :
    decode w e g = .ok i ↔ r.parse w e g = .ok i ∧ wellFormed i = true := by
  unfold decode
  rw [h]
  dsimp only
  cases r.parse w e g with
  | error x => exact ⟨nofun, nofun⟩
  | ok j =>
    by_cases hj : wellFormed j = true
    · simp only [bind, Except.bind, hj, if_true, pure, Except.pure, Except.ok.injEq]
      exact ⟨fun h => ⟨h, h ▸ hj⟩, fun h => h.1⟩
    · simp only [bind, Except.bind, hj, throw, throwThe, MonadExceptOf.throw]
      exact ⟨nofun, fun ⟨h, hi⟩ => absurd (Except.ok.inj h ▸ hi) hj⟩

theorem decode_of_no_row {w : Word} (h : rowOf w = none) (e g : Word) : decode w e g = .ok (.unassignedOpcode w) := by
  unfold decode
  rw [h]

theorem extWords_of_row {w : Word} {r : Row} (h : rowOf w = some r) : extWords w = r.ext := by
  unfold extWords
  rw [h]

theorem extWords_of_no_row {w : Word} (h : rowOf w = none) : extWords w = 0 := by
  unfold extWords
  rw [h]

/-- A slot is assigned where the opcode maps have a row for it: a check of the 256 slots. -/
theorem rowWith_isSome (op : BitVec 8) :
    (rowWith op).isSome = if op.getLsbD 7 then uAssigned.contains (op.toNat % 128) else lAssigned.contains (op.toNat % 128) := by
  revert op
  decide +kernel

theorem slotAssigned_eq (w : Word) : slotAssigned w = (rowOf w).isSome := by
  have hbit : bitAt w 31 = (w.extractLsb' 24 8).getLsbD 7 := by simp [bitAt]
  have hfield : field w 30 24 = (w.extractLsb' 24 8).toNat % 128 := by
    rw [field, BitVec.extractLsb'_toNat, Nat.shiftRight_eq_div_pow]
    omega
  rw [rowOf_eq_rowWith, rowWith_isSome, slotAssigned, hbit, hfield]

end Sys2Proof
end

section
/-! SUPPORT. Each instruction that has words is read back from them (03_encoding.md R63 to R67, R79 to R82). -/

namespace Sys2Proof

/-! ## Encoded instructions -/

/-- The words of an instruction, whatever follows them, decode to it. -/
def ReadsBack (i : Instr) : Prop := ∀ rest, decodeBytes (wordBytes (encode i) ++ rest) = .ok (i, rest)

section
variable {i : Instr} {op : BitVec 8} {r : Row} {w e g : Word}

/-- Where the bytes of an instruction decode as the words that its row reads it from, it is read back. -/
theorem readsBack_of_row (hb : ∀ rest, decodeBytes (wordBytes (encode i) ++ rest) = (decode w e g).map (fun i => (i, rest)))
    (hr : rowOf w = some r) (hw : wellFormed i = true) (hp : r.parse w e g = .ok i) : ReadsBack i := by
  intro rest
  rw [hb, (decode_ok_iff hr e g i).mpr ⟨hp, hw⟩]
  rfl

theorem readsBack_oneWord (he : encode i = [w]) (hop : w.extractLsb' 24 8 = op) (hr : rowWith op = some r) (h0 : r.ext = 0)
    (hw : wellFormed i = true) (hp : r.parse w 0 0 = .ok i) : ReadsBack i := by
  subst hop
  exact readsBack_of_row (fun rest => he ▸ decodeBytes_oneWord rest ((extWords_of_row hr).trans h0)) hr hw hp

theorem readsBack_twoWords (he : encode i = [w, e]) (hop : w.extractLsb' 24 8 = op) (hr : rowWith op = some r) (h1 : r.ext = 1)
    (hw : wellFormed i = true) (hp : r.parse w e 0 = .ok i) : ReadsBack i := by
  subst hop
  exact readsBack_of_row (fun rest => he ▸ decodeBytes_twoWords e rest ((extWords_of_row hr).trans h1)) hr hw hp

theorem readsBack_threeWords (he : encode i = [w, e, g]) (hop : w.extractLsb' 24 8 = op) (hr : rowWith op = some r) (h2 : r.ext = 2)
    (hw : wellFormed i = true) (hp : r.parse w e g = .ok i) : ReadsBack i := by
  subst hop
  exact readsBack_of_row (fun rest => he ▸ decodeBytes_threeWords e g rest ((extWords_of_row hr).trans h2)) hr hw hp

end

@[simp] theorem pure_eq_ok {α : Type} (a : α) : (pure a : Except Reject α) = .ok a := rfl

@[simp] theorem ok_bind {α β : Type} (a : α) (k : α → Except Reject β) : (Except.ok a >>= k) = k a := rfl

/-- Each instruction with words is read back by the row of its slot; a word of no row is read back as itself; an event has no words. -/
theorem readsBack_of_words {i : Instr} (hw : wellFormed i = true) (hne : encode i ≠ []) : ReadsBack i := by
  cases i with
  | add n d a b | sub n d a b | mul n d a b | mulh n d a b | mulhU n d a b | and n d a b | or n d a b | xor n d a b | andn n d a b
  | shl n d a b | shr n d a b | sar n d a b | rotl n d a b | min n d a b | max n d a b | minU n d a b | maxU n d a b | neg n d a
  | abs n d a | not n d a | clz n d a | popc n d a | brev n d a | mov n d a | mad n d a b c | addw n d a b | lea n d a b h
  | sel n d a b k | cmp n k a b c | hadd2 n d a b | hsub2 n d a b | hmin2 n d a b | hmax2 n d a b | hadd2Sat n d a b | hsub2Sat n d a b
  | hmin2U n d a b | hmax2U n d a b | acs2 n d a b k | fadd n d a b | fsub n d a b | fmul n d a b | fmin n d a b | fmax n d a b
  | ffma n d a b c | fcmp n k a b c | fsfu n d a f | fcvt n d a v r t u | fq4 n d a b t | fdq4 n d a b t | shfl n d a b m k
  | vote n d a m k | wred n d a p k | fence n e o | lds n d a b w | sts n d a b w | lda n d a b | sta n d a b | ldt n d a t | twait n t
  | brx n a | nop n | exit n | ret n | vac n | yld n | mand n d a b | mor n d a b | mnot n d a | mset n d a | mpop n d k | mfirst n d k
  | mjoin n k | mleave n k | mwait n k | refill n d | gbar n g | lbar n | tret n =>
    exact readsBack_oneWord rfl (op_packLR ..) rfl rfl hw (by simp [parse01, parse02, parse03, parse04, parse05, parse08, parse09,
      parse18, parse19, parse20, parse21, parse22, parse23, parse24, parse25, parse26, parse28, parse29, parse2A, parse3D, parse40,
      parse41, parse42, parse43, parse44, parse45, parse53, parse54, parse55, parse56, parse57, parse59, parse5A, parse71])
  | bfx n d a l p | bfxSigned n d a l p | bfi n d a l p | movi n d i | addImm n d a i | mulImm n d a i | andImm n d a i | orImm n d a i
  | xorImm n d a i | shlImm n d a p | shrImm n d a p | sarImm n d a p | rotlImm n d a p | minImm n d a i | maxImm n d a i
  | mvmFromMain n d m | mvmToMain n d m | xset n x a i | ldx n d x i | stx n d x i | ldp n d a w i | trap n g | esc n g | brk n g
  | rdsr n d r | wrsr n d r =>
    exact readsBack_oneWord rfl (op_packLI ..) rfl rfl hw (by simp [parse06, parse07, parse0A, parse0C, parse0D, parse0E, parse0F,
      parse10, parse11, parse12, parse13, parse14, parse15, parse16, parse32, parse34, parse35, parse36, parse46, parse70, parse72,
      parse73, parse74, parse75])
  | bra n o | brc n e k o | call n o | ubra n o | ubrc n c e o | ucall n o =>
    exact readsBack_oneWord rfl (op_packLB ..) rfl rfl hw (by simp [parse50, parse51, parse52, parseC0, parseC1, parseC2])
  | rgn n k c j3 j2 j1 j0 | wbk n k c j3 j2 j1 j0 | xbnd n h l | ld n d a w x | st n d a w x | atom n d a b p x | red n a b p x
  | prf n a q x | spawnl n a b r =>
    exact readsBack_twoWords rfl (op_packLR ..) rfl rfl hw (by simp [parse30, parse31, parse33, parse38, parse39, parse3A, parse3B,
      parse3C, parse58])
  | moviWide n d v =>
    exact readsBack_twoWords rfl (op_packLI ..) rfl rfl hw (by simp [parse0B])
  | sadd n d a b | ssub n d a b | smul n d a b | sand n d a b | sor n d a b | sxor n d a b | smin n d a b | smax n d a b | sshl n d a b
  | sshr n d a b | ssar n d a b | smov n d a | sminU n d a b | smaxU n d a b | scmp n d a b c | unbond n k | mma n a | talloc n t a
  | tfree n t | tcopy n q a | tquant n q a | aalloc n d a k | afree n k | gred n d a k p | ttag n a | tdisc n a | gath n a | scat n a
  | prom n a p | dem n a | uret n | spawn n a b | cont n a | rdsrUniform n d r | wrsrUniform n d r =>
    exact readsBack_oneWord rfl (op_packUR ..) rfl rfl hw (by simp [parse81, parse82, parse83, parseA1, parseA2, parseA3, parseA4,
      parseA5, parseA6, parseA7, parseA8, parseB3, parseB6, parseB7, parseB8, parseB9, parseBA, parseBB, parseC3, parseC4, parseC5,
      parseF0, parseF1])
  | saddImm n d a i | smulImm n d a i | sandImm n d a i | sorImm n d a i | sxorImm n d a i | sshlImm n d a p | sshrImm n d a p
  | ssarImm n d a p | sminImm n d a i | smaxImm n d a i | smovi n d i | bond n d k c r | bondStrait n d k | sld n d a i | sst n d a i
  | ldpUniform n d a w i | qfence n q | qwait n q | phase n m | perf n l | carve n k =>
    exact readsBack_oneWord rfl (op_packUI ..) rfl rfl hw (by simp [parse88, parse89, parse8A, parse8B, parse8C, parse8D, parse8E,
      parse8F, parse90, parse91, parse92, parseA0, parseB0, parseB1, parseB2, parseB4, parseB5, parseC6, parseC7, parseC8])
  | ssel n d a b c =>
    exact readsBack_twoWords rfl (op_packUR ..) rfl rfl hw (by simp [parse84])
  | smovi32 n d v =>
    exact readsBack_twoWords rfl (op_packUI ..) rfl rfl hw (by simp [parse93])
  | smovi64 n d lo hi =>
    exact readsBack_threeWords rfl (op_packUI ..) rfl rfl hw (by simp [parse94])
  | unassignedOpcode w =>
    have hs : (!slotAssigned w) = true := hw
    have hrow : rowOf w = none := by simpa [slotAssigned_eq] using hs
    intro rest
    exact (decodeBytes_oneWord rest (extWords_of_no_row hrow)).trans (by rw [decode_of_no_row hrow]; rfl)
  | _ => exact absurd rfl hne

/-- Settles O1: the words are read back from their bytes, and the row of the first one reads each field where the encoder put it. -/
theorem decodeOfEncode : Obligations.DecodeOfEncode := by
  unfold Obligations.DecodeOfEncode
  exact fun i rest hw hne => readsBack_of_words hw hne rest

end Sys2Proof
end

section
/-! SUPPORT. What the rows of the opcode maps read: only the instruction whose encoding the words are (03_encoding.md R76, R79 to R82). -/

namespace Sys2Proof

/-! ## A word from its fields -/

/-- A word put together from two parts, one for each part. (no_index: in a layout the width m + n stands as a number.) -/
theorem append_eq_iff {m n : Nat} {a : BitVec m} {b : BitVec n} {x : BitVec (m + n)} :
    @Eq (BitVec (no_index (m + n))) (@HAppend.hAppend (BitVec m) (BitVec n) (BitVec (no_index (m + n))) _ a b) x ↔
      a = x.extractLsb' n m ∧ b = x.extractLsb' 0 n := by
  constructor
  · rintro rfl
    exact ⟨BitVec.extractLsb'_append_eq_left.symm, BitVec.extractLsb'_append_eq_right.symm⟩
  · rintro ⟨rfl, rfl⟩
    exact BitVec.extractLsb'_append_extractLsb'

/-- A field of a field is a field of the word. -/
theorem extractLsb'_within {w s l s' l' : Nat} (x : BitVec w) (h : s' + l' ≤ l) :
    (x.extractLsb' s l).extractLsb' s' l' = x.extractLsb' (s + s') l' := by
  apply BitVec.eq_of_getLsbD_eq
  intro i hi
  simp only [BitVec.getLsbD_extractLsb', hi, decide_true, Bool.true_and, show s' + i < l by omega, Nat.add_assoc]

/-! ## Words by layout (03_encoding.md R64, R65) -/

theorem packLR_eq_iff {w : Word} {op : BitVec 8} {n : BitVec 3} {d a b : BitVec 5} {f : BitVec 6} :
    packLR op n d a b f = w ↔
      op = w.extractLsb' 24 8 ∧ n = (unLR w).n ∧ d = (unLR w).d ∧ a = (unLR w).a ∧ b = (unLR w).b ∧ f = (unLR w).f := by
  constructor
  · rintro rfl
    simp
  · rintro ⟨rfl, rfl, rfl, rfl, rfl, rfl⟩
    simp only [packLR, unLR, BitVec.extractLsb'_append_extractLsb'_eq_extractLsb']
    exact BitVec.extractLsb'_eq_self

theorem packLI_eq_iff {w : Word} {op : BitVec 8} {n : BitVec 3} {d a : BitVec 5} {i : BitVec 11} :
    packLI op n d a i = w ↔ op = w.extractLsb' 24 8 ∧ n = (unLI w).n ∧ d = (unLI w).d ∧ a = (unLI w).a ∧ i = (unLI w).i := by
  constructor
  · rintro rfl
    simp
  · rintro ⟨rfl, rfl, rfl, rfl, rfl⟩
    simp only [packLI, unLI, BitVec.extractLsb'_append_extractLsb'_eq_extractLsb']
    exact BitVec.extractLsb'_eq_self

theorem packLB_eq_iff {w : Word} {op : BitVec 8} {n : BitVec 3} {i : BitVec 21} :
    packLB op n i = w ↔ op = w.extractLsb' 24 8 ∧ n = (unLB w).n ∧ i = (unLB w).i := by
  constructor
  · rintro rfl
    simp
  · rintro ⟨rfl, rfl, rfl⟩
    simp only [packLB, unLB, BitVec.extractLsb'_append_extractLsb'_eq_extractLsb']
    exact BitVec.extractLsb'_eq_self

theorem packUR_eq_iff {w : Word} {op : BitVec 8} {n : BitVec 3} {d a b : BitVec 6} {f : BitVec 3} :
    packUR op n d a b f = w ↔
      op = w.extractLsb' 24 8 ∧ n = (unUR w).n ∧ d = (unUR w).d ∧ a = (unUR w).a ∧ b = (unUR w).b ∧ f = (unUR w).f := by
  constructor
  · rintro rfl
    simp
  · rintro ⟨rfl, rfl, rfl, rfl, rfl, rfl⟩
    simp only [packUR, unUR, BitVec.extractLsb'_append_extractLsb'_eq_extractLsb']
    exact BitVec.extractLsb'_eq_self

theorem packUI_eq_iff {w : Word} {op : BitVec 8} {n : BitVec 3} {d a : BitVec 6} {i : BitVec 9} :
    packUI op n d a i = w ↔ op = w.extractLsb' 24 8 ∧ n = (unUI w).n ∧ d = (unUI w).d ∧ a = (unUI w).a ∧ i = (unUI w).i := by
  constructor
  · rintro rfl
    simp
  · rintro ⟨rfl, rfl, rfl, rfl, rfl⟩
    simp only [packUI, unUI, BitVec.extractLsb'_append_extractLsb'_eq_extractLsb']
    exact BitVec.extractLsb'_eq_self

/-! ## Operands by code -/

/-- Where each operand is the one of its code, and each code that has an operand is the code of that operand, an operand of a code is known
by its code. -/
theorem ofCode_eq_some_iff {α : Type} {n : Nat} {of : BitVec n → Option α} {code : α → BitVec n} (h1 : ∀ x, of (code x) = some x)
    (h2 : ∀ c, ((of c).map code).getD c = c) {c : BitVec n} {x : α} : of c = some x ↔ c = code x := by
  constructor
  · intro h
    have := h2 c
    rw [h] at this
    exact this.symm
  · rintro rfl
    exact h1 x

@[simp] theorem Dst.ofCode_eq_some {c : BitVec 5} {x : Dst} : Dst.ofCode c = some x ↔ c = x.code :=
  ofCode_eq_some_iff ofCode_code (by decide)

@[simp] theorem IntCond.ofCode_eq_some {c : BitVec 6} {x : IntCond} : IntCond.ofCode c = some x ↔ c = x.code :=
  ofCode_eq_some_iff ofCode_code (by decide)

@[simp] theorem FloatCond.ofCode_eq_some {c : BitVec 6} {x : FloatCond} : FloatCond.ofCode c = some x ↔ c = x.code :=
  ofCode_eq_some_iff ofCode_code (by decide)

@[simp] theorem SCond.ofCode_eq_some {c : BitVec 3} {x : SCond} : SCond.ofCode c = some x ↔ c = x.code :=
  ofCode_eq_some_iff ofCode_code (by decide)

@[simp] theorem SfuFn.ofCode_eq_some {c : BitVec 6} {x : SfuFn} : SfuFn.ofCode c = some x ↔ c = x.code :=
  ofCode_eq_some_iff ofCode_code (by decide)

@[simp] theorem Fmt.ofCode_eq_some {c : BitVec 3} {x : Fmt} : Fmt.ofCode c = some x ↔ c = x.code :=
  ofCode_eq_some_iff ofCode_code (by decide)

@[simp] theorem Rnd.ofCode_eq_some {c : BitVec 3} {x : Rnd} : Rnd.ofCode c = some x ↔ c = x.code :=
  ofCode_eq_some_iff ofCode_code (by decide)

@[simp] theorem ShflMode.ofCode_eq_some {c : BitVec 2} {x : ShflMode} : ShflMode.ofCode c = some x ↔ c = x.code :=
  ofCode_eq_some_iff ofCode_code (by decide)

@[simp] theorem VoteKind.ofCode_eq_some {c : BitVec 2} {x : VoteKind} : VoteKind.ofCode c = some x ↔ c = x.code :=
  ofCode_eq_some_iff ofCode_code (by decide)

@[simp] theorem WredOp.ofCode_eq_some {c : BitVec 5} {x : WredOp} : WredOp.ofCode c = some x ↔ c = x.code :=
  ofCode_eq_some_iff ofCode_code (by decide)

@[simp] theorem CodeType.ofCode_eq_some {c : BitVec 2} {x : CodeType} : CodeType.ofCode c = some x ↔ c = x.code :=
  ofCode_eq_some_iff ofCode_code (by decide)

@[simp] theorem Width.ofCode_eq_some {c : BitVec 6} {x : Width} : Width.ofCode c = some x ↔ c = x.code :=
  ofCode_eq_some_iff ofCode_code (by decide)

@[simp] theorem AtomOp.ofCode_eq_some {c : BitVec 6} {x : AtomOp} : AtomOp.ofCode c = some x ↔ c = x.code :=
  ofCode_eq_some_iff ofCode_code (by decide)

@[simp] theorem GredOp.ofCode_eq_some {c : BitVec 4} {x : GredOp} : GredOp.ofCode c = some x ↔ c = x.code :=
  ofCode_eq_some_iff ofCode_code (by decide)

@[simp] theorem Scope.ofCode_eq_some {c : BitVec 3} {x : Scope} : Scope.ofCode c = some x ↔ c = x.code :=
  ofCode_eq_some_iff ofCode_code (by decide)

@[simp] theorem FenceSem.ofCode_eq_some {c : BitVec 3} {x : FenceSem} : FenceSem.ofCode c = some x ↔ c = x.code :=
  ofCode_eq_some_iff ofCode_code (by decide)

@[simp] theorem Sem.ofCode_eq_some {c : BitVec 2} {x : Sem} : Sem.ofCode c = some x ↔ c = x.code :=
  ofCode_eq_some_iff ofCode_code (by decide)

@[simp] theorem CacheMode.ofCode_eq_some {c : BitVec 2} {x : CacheMode} : CacheMode.ofCode c = some x ↔ c = x.code :=
  ofCode_eq_some_iff ofCode_code (by decide)

@[simp] theorem MemExt.ofCode_eq_some {c : Word} {x : MemExt} : MemExt.ofCode c = some x ↔ c = x.code := by
  constructor
  · intro h
    simp only [MemExt.ofCode, bind, Option.bind_eq_some_iff, Scope.ofCode_eq_some, Sem.ofCode_eq_some, CacheMode.ofCode_eq_some, pure,
      Option.some.injEq] at h
    obtain ⟨scope, hs, sem, hm, cache, hc, rfl⟩ := h
    simp only [MemExt.code, ← hs, ← hm, ← hc, BitVec.extractLsb'_append_extractLsb'_eq_extractLsb']
    exact BitVec.extractLsb'_eq_self.symm
  · rintro rfl
    exact MemExt.ofCode_code x

/-! ## What a row reads -/

/-- Whatever a read gives has a property. -/
def Yields (m : Except Reject Instr) (P : Instr → Prop) : Prop := ∀ i, m = .ok i → P i

section
variable {P : Instr → Prop}

theorem yields_pure {i : Instr} : Yields (pure i) P ↔ P i := ⟨fun h => h i rfl, fun h _ hi => Except.ok.inj hi ▸ h⟩

theorem yields_throw {r : Reject} : Yields (throw r) P ↔ True := ⟨fun _ => trivial, fun _ _ hi => nomatch hi⟩

theorem yields_ite {p : Prop} [Decidable p] {m m' : Except Reject Instr} :
    Yields (if p then m else m') P ↔ (p → Yields m P) ∧ (¬ p → Yields m' P) := by
  by_cases h : p <;> simp [h]

theorem yields_zeroField {p : Prop} [Decidable p] {m : PUnit → Except Reject Instr} :
    Yields (zeroField p >>= m) P ↔ (p → Yields (m ⟨⟩) P) := by
  by_cases h : p <;> simp [h, zeroField, Yields, bind, Except.bind]

theorem yields_operand {α : Type} {o : Option α} {k : α → Except Reject Instr} :
    Yields (operand o >>= k) P ↔ ∀ a, o = some a → Yields (k a) P := by
  cases o <;> simp [operand, Yields, bind, Except.bind]

end

/-- The instruction that a row reads from words with its opcode has those words as its encoding. -/
def Row.ReadsEncoded (r : Row) : Prop :=
  ∀ w e g, w.extractLsb' 24 8 = r.op → Yields (r.parse w e g) (fun i => encode i = [w, e, g].take (1 + r.ext))

/-- In every row, the checks that a read passes and the codes of the operands that it gives are the fields of the word, one after the other. -/
theorem rows_readEncoded : ∀ r ∈ rows, r.ReadsEncoded := by
  simp only [rows, lRows1, lRows2, uRows1, uRows2, List.cons_append, List.nil_append, List.forall_mem_cons, List.not_mem_nil,
    false_implies, implies_true, and_true]
  and_intros
  all_goals
    intro w e g hop
    simp only [yields_ite, yields_pure, yields_zeroField, yields_operand, yields_throw, parse01, parse02, parse03, parse04, parse05,
      parse06, parse07, parse08, parse09, parse0A, parse0B, parse0C, parse0D, parse0E, parse0F, parse10, parse11, parse12, parse13,
      parse14, parse15, parse16, parse18, parse19, parse20, parse21, parse22, parse23, parse24, parse25, parse26, parse28, parse29,
      parse2A, parse30, parse31, parse32, parse33, parse34, parse35, parse36, parse38, parse39, parse3A, parse3B, parse3C, parse3D,
      parse40, parse41, parse42, parse43, parse44, parse45, parse46, parse50, parse51, parse52, parse53, parse54, parse55, parse56,
      parse57, parse58, parse59, parse5A, parse70, parse71, parse72, parse73, parse74, parse75, parse81, parse82, parse83, parse84,
      parse88, parse89, parse8A, parse8B, parse8C, parse8D, parse8E, parse8F, parse90, parse91, parse92, parse93, parse94, parseA0,
      parseA1, parseA2, parseA3, parseA4, parseA5, parseA6, parseA7, parseA8, parseB0, parseB1, parseB2, parseB3, parseB4, parseB5,
      parseB6, parseB7, parseB8, parseB9, parseBA, parseBB, parseC0, parseC1, parseC2, parseC3, parseC4, parseC5, parseC6, parseC7,
      parseC8, parseF0, parseF1]
    dsimp only [encode, List.take]
    simp +contextual [hop, packLR_eq_iff, packLI_eq_iff, packLB_eq_iff, packUR_eq_iff, packUI_eq_iff, unUR, append_eq_iff, extractLsb'_within,
      Src.code_ofCode, -BitVec.reduceAppend]

/-- Settles O2: an instruction with a row is checked to be well formed and has the words that were read as its encoding; the word of an
unassigned slot stands for itself. -/
theorem encodeOfDecode : Obligations.EncodeOfDecode := by
  unfold Obligations.EncodeOfDecode
  intro w e g i h
  cases hr : rowOf w with
  | none =>
    rw [decode_of_no_row hr] at h
    obtain rfl := Except.ok.inj h
    rw [extWords_of_no_row hr, slotAssigned_eq, hr]
    exact ⟨rfl, nofun⟩
  | some r =>
    obtain ⟨hp, hw⟩ := (decode_ok_iff hr e g i).mp h
    have hop : w.extractLsb' 24 8 = r.op := by simpa [eq_comm] using List.find?_some hr
    rw [extWords_of_row hr]
    exact ⟨rows_readEncoded r (List.mem_of_find?_eq_some hr) w e g hop i hp, fun _ => hw⟩

end Sys2Proof
end

section
/-! SUPPORT. FP32 words as rational numbers, and rounding to them (05_formats.md R107 to R117). -/

namespace Sys2Proof.Machine

/-- The sign of a number as a factor. -/
def signOf (neg : Bool) : ℚ := if neg then -1 else 1

/-- The rational number (−1)^neg × mag × 2^exp. -/
def dyadic (neg : Bool) (mag : Nat) (exp : Int) : ℚ := signOf neg * mag * 2 ^ exp

/-! ## Signs and powers -/

theorem abs_signOf_mul (neg : Bool) (q : ℚ) : |signOf neg * q| = |q| := by cases neg <;> simp [signOf]

theorem signOf_mul_neg_iff {q : ℚ} (hq : 0 < q) (neg : Bool) : signOf neg * q < 0 ↔ neg = true := by
  cases neg <;> simp [signOf, hq, hq.le]

theorem signOf_bne (m n : Bool) : signOf (m != n) = signOf m * signOf n := by cases m <;> cases n <;> simp [signOf]

theorem dyadic_eq_zero_iff {n : Bool} {m : Nat} {e : Int} : dyadic n m e = 0 ↔ m = 0 := by
  cases n <;> simp [dyadic, signOf, zpow_ne_zero]

theorem dyadic_mul (n1 n2 : Bool) (m1 m2 : Nat) (e1 e2 : Int) :
    dyadic (n1 != n2) (m1 * m2) (e1 + e2) = dyadic n1 m1 e1 * dyadic n2 m2 e2 := by
  rw [dyadic, dyadic, dyadic, signOf_bne, zpow_add₀ two_ne_zero]
  push_cast
  ring

theorem two_zpow_toNat {e : Int} (h : 0 ≤ e) : (2 : ℚ) ^ e.toNat = 2 ^ e := by
  rw [← zpow_natCast, Int.toNat_of_nonneg h]

/-! ## The fields of an FP32 word -/

theorem bitAt_sign (a : Word) : bitAt a 31 = decide (a.toNat / 2 ^ 31 % 2 = 1) := by
  rw [bitAt_eq_testBit, Nat.testBit_eq_decide_div_mod_eq]

/-- What an FP32 word encodes, by its exponent and significand (05_formats.md R108). -/
theorem decode_fp32 (a : Word) :
    flFP32.decode a.toNat =
      if a.toNat / 2 ^ 23 % 256 = 0 then .fin (bitAt a 31) (a.toNat % 2 ^ 23) (-149)
      else if a.toNat / 2 ^ 23 % 256 = 255 then (if a.toNat % 2 ^ 23 = 0 then .inf (bitAt a 31) else .nan)
      else .fin (bitAt a 31) (2 ^ 23 + a.toNat % 2 ^ 23) ((a.toNat / 2 ^ 23 % 256 : Nat) - 150) := by
  rw [bitAt_sign]
  by_cases h0 : a.toNat / 2 ^ 23 % 256 = 0
  · rw [if_pos h0]
    exact if_pos h0
  · rw [if_neg h0]
    refine (if_neg h0).trans ?_
    by_cases h1 : a.toNat / 2 ^ 23 % 256 = 255
    · rw [if_pos h1]
      exact if_pos ⟨h1, rfl⟩
    · rw [if_neg h1]
      refine (if_neg fun h => h1 h.1).trans ((if_neg fun h => h1 h.1).trans ?_)
      simp only [flFP32]
      congr 1
      push_cast
      ring

theorem fpValue_of_subnormal {a : Word} (h : a.toNat / 2 ^ 23 % 256 = 0) :
    fpValue a = dyadic (bitAt a 31) (a.toNat % 2 ^ 23) (-149) := by
  simp only [fpValue, dyadic, signOf, h]
  norm_num

theorem fpValue_of_normal {a : Word} (h : a.toNat / 2 ^ 23 % 256 ≠ 0) :
    fpValue a = dyadic (bitAt a 31) (2 ^ 23 + a.toNat % 2 ^ 23) ((a.toNat / 2 ^ 23 % 256 : Nat) - 150) := by
  simp only [fpValue, dyadic, signOf, if_neg h, max_eq_left (Nat.one_le_iff_ne_zero.mpr h)]
  push_cast
  ring

theorem abs_dyadic (n : Bool) (m : Nat) (e : Int) : |dyadic n m e| = m * 2 ^ e := by
  rw [dyadic, mul_assoc, abs_signOf_mul, abs_of_nonneg (by positivity)]

/-- A subnormal or a zero is below the smallest normal number. -/
theorem abs_fpValue_lt_iff {a : Word} : |fpValue a| < 2 ^ (-126 : ℤ) ↔ a.toNat / 2 ^ 23 % 256 = 0 := by
  constructor
  · intro h
    by_contra hne
    rw [fpValue_of_normal hne, abs_dyadic] at h
    have hp : (2 : ℚ) ^ (-149 : ℤ) ≤ 2 ^ (((a.toNat / 2 ^ 23 % 256 : Nat) : ℤ) - 150) := zpow_le_zpow_right₀ one_le_two (by omega)
    have hm : (2 : ℚ) ^ 23 ≤ ((2 ^ 23 + a.toNat % 2 ^ 23 : Nat) : ℚ) := by exact_mod_cast Nat.le_add_right _ _
    have : (2 : ℚ) ^ (-126 : ℤ) ≤ _ := calc
      (2 : ℚ) ^ (-126 : ℤ) = 2 ^ 23 * 2 ^ (-149 : ℤ) := by norm_num
      _ ≤ _ := mul_le_mul hm hp (by positivity) (by positivity)
    exact absurd h this.not_gt
  · intro h
    rw [fpValue_of_subnormal h, abs_dyadic]
    have hm : ((a.toNat % 2 ^ 23 : Nat) : ℚ) < 2 ^ 23 := by exact_mod_cast Nat.mod_lt _ (by positivity)
    calc _ < (2 : ℚ) ^ 23 * 2 ^ (-149 : ℤ) := mul_lt_mul_of_pos_right hm (by positivity)
      _ = _ := by norm_num

/-- A finite word is below 2^128. -/
theorem abs_fpValue_lt {a : Word} (h : fpFinite a) : |fpValue a| < 2 ^ (128 : ℤ) := by
  by_cases h0 : a.toNat / 2 ^ 23 % 256 = 0
  · exact (abs_fpValue_lt_iff.mpr h0).trans (zpow_lt_zpow_right₀ one_lt_two (by norm_num))
  · rw [fpValue_of_normal h0, abs_dyadic]
    have hf : a.toNat / 2 ^ 23 % 256 ≠ 255 := h
    have hp : (2 : ℚ) ^ (((a.toNat / 2 ^ 23 % 256 : Nat) : ℤ) - 150) ≤ 2 ^ (104 : ℤ) := zpow_le_zpow_right₀ one_le_two (by omega)
    have hm : ((2 ^ 23 + a.toNat % 2 ^ 23 : Nat) : ℚ) < 2 ^ 24 := by exact_mod_cast by omega
    calc _ < (2 : ℚ) ^ 24 * 2 ^ (104 : ℤ) := mul_lt_mul hm hp (by positivity) (by positivity)
      _ = _ := by norm_num

/-! ## What an operand reads as (05_formats.md R116) -/

theorem read_nan {a : Word} (h : fpNan a) (flush : Bool) : flFP32.read flush a.toNat = .nan := by
  obtain ⟨he, hm⟩ := h
  rw [Fl.read, decode_fp32, if_neg (by omega), if_pos he, if_neg hm]

theorem read_inf {a : Word} (h : ¬fpFinite a) (hn : ¬fpNan a) (flush : Bool) : flFP32.read flush a.toNat = .inf (bitAt a 31) := by
  have he : a.toNat / 2 ^ 23 % 256 = 255 := not_not.mp h
  rw [Fl.read, decode_fp32, if_neg (by omega), if_pos he, if_pos (not_not.mp fun hm => hn ⟨he, hm⟩)]

/-- A finite word under FLUSH reads as its value, with its own sign. -/
theorem read_finite {a : Word} (h : fpFinite a) (flush : Bool) :
    ∃ m e, flFP32.read flush a.toNat = .fin (bitAt a 31) m e ∧ dyadic (bitAt a 31) m e = fpRead flush a := by
  have hf : a.toNat / 2 ^ 23 % 256 ≠ 255 := h
  by_cases h0 : a.toNat / 2 ^ 23 % 256 = 0
  · have hm : decide (a.toNat % 2 ^ 23 < 2 ^ (flFP32.p - 1)) = true := decide_eq_true (Nat.mod_lt _ (by decide))
    rw [Fl.read, decode_fp32, if_pos h0]
    simp only [hm, fpRead, abs_fpValue_lt_iff.mpr h0, and_true, Bool.and_true, show flFP32.flushes = true from rfl]
    cases flush
    · exact ⟨_, _, rfl, (fpValue_of_subnormal h0).symm⟩
    · exact ⟨_, _, rfl, dyadic_eq_zero_iff.mpr rfl⟩
  · have hm : decide (2 ^ 23 + a.toNat % 2 ^ 23 < 2 ^ (flFP32.p - 1)) = false := decide_eq_false (by simp [flFP32])
    rw [Fl.read, decode_fp32, if_neg h0, if_neg hf]
    simp only [hm, fpRead, abs_fpValue_lt_iff, h0, and_false, Bool.and_false]
    exact ⟨_, _, rfl, (fpValue_of_normal h0).symm⟩

/-! ## Sums (05_formats.md R114) -/

theorem alignTo_value (neg : Bool) (mag : Nat) {exp e : Int} (h : e ≤ exp) : (alignTo neg mag exp e : ℚ) * 2 ^ e = dyadic neg mag exp := by
  have hp : (2 : ℚ) ^ (exp - e).toNat * 2 ^ e = 2 ^ exp := by
    rw [two_zpow_toNat (by omega), ← zpow_add₀ two_ne_zero, sub_add_cancel]
  rw [dyadic, ← hp, alignTo]
  cases neg <;> simp [signOf] <;> ring

/-- The exact sum has the value of the sum; where that is 0 it is negative only as the sum of two negative zeros. -/
theorem addFin_value (n1 n2 : Bool) (m1 m2 : Nat) (e1 e2 : Int) :
    ∃ n m e, addFin n1 m1 e1 n2 m2 e2 = (n, m, e) ∧ dyadic n m e = dyadic n1 m1 e1 + dyadic n2 m2 e2 ∧
      (m = 0 → n = (n1 && n2 && decide (m1 = 0) && decide (m2 = 0))) := by
  have hv : ((alignTo n1 m1 e1 (min e1 e2) + alignTo n2 m2 e2 (min e1 e2) : Int) : ℚ) * 2 ^ min e1 e2 =
      dyadic n1 m1 e1 + dyadic n2 m2 e2 := by
    rw [← alignTo_value n1 m1 (min_le_left e1 e2), ← alignTo_value n2 m2 (min_le_right e1 e2)]
    push_cast
    ring
  rw [← hv]
  simp only [addFin]
  generalize alignTo n1 m1 e1 (min e1 e2) + alignTo n2 m2 e2 (min e1 e2) = v
  by_cases h0 : v = 0
  · exact ⟨_, _, _, if_pos h0, by simp [h0, dyadic], fun _ => rfl⟩
  · refine ⟨_, _, _, if_neg h0, ?_, fun h => absurd (Int.natAbs_eq_zero.mp h) h0⟩
    have : signOf (decide (v < 0)) * (v.natAbs : ℚ) = v := by
      rw [Nat.cast_natAbs, Int.cast_abs]
      rcases lt_or_gt_of_ne h0 with h | h
      · rw [decide_eq_true h, abs_of_neg (by exact_mod_cast h)]
        simp [signOf]
      · rw [decide_eq_false h.not_gt, abs_of_pos (by exact_mod_cast h)]
        simp [signOf]
    rw [dyadic, this]

end Sys2Proof.Machine
end

section
/-! SUPPORT. Rounding to FP32 (05_formats.md R111 to R117). -/

namespace Sys2Proof.Machine

/-! ## The integer that a mode picks (05_formats.md R111) -/

/-- The floor of a quotient, and what is left over it. -/
theorem quotient_parts {num den : Nat} (hd : 0 < den) : num / den * den + num % den = num ∧ num % den < den :=
  ⟨Nat.div_add_mod' num den, Nat.mod_lt num hd⟩

/-- Nearest picks the closest integer, and on a tie the even one. -/
theorem roundInt_nearest (neg : Bool) (num : Nat) {den : Nat} (hd : 0 < den) :
    2 * ((num : Int) - roundInt .nearest neg num den * den).natAbs ≤ den ∧
      (2 * ((num : Int) - roundInt .nearest neg num den * den).natAbs = den → roundInt .nearest neg num den % 2 = 0) := by
  obtain ⟨hq, hr⟩ := quotient_parts (num := num) hd
  have down : (num : Int) - (num / den : Nat) * den = (num % den : Nat) := by omega
  have up : (num : Int) - (num / den + 1 : Nat) * den = -((den - num % den : Nat) : Int) := by
    rw [Nat.cast_add, Nat.cast_one, add_mul, one_mul, Nat.cast_sub hr.le]
    omega
  simp only [roundInt]
  split
  · rw [down]
    omega
  · split
    · rw [up]
      omega
    · split
      · rw [down]
        omega
      · rw [up]
        omega

/-- Up and down pick the floor or the next integer by the sign, zero the floor. -/
theorem roundInt_directed (neg : Bool) (num : Nat) {den : Nat} (hd : 0 < den) :
    (roundInt .zero neg num den * den ≤ num ∧ num < (roundInt .zero neg num den + 1) * den) ∧
      (neg = false → num ≤ roundInt .up neg num den * den ∧ roundInt .up neg num den * den < num + den ∧
        roundInt .down neg num den = roundInt .zero neg num den) ∧
      (neg = true → num ≤ roundInt .down neg num den * den ∧ roundInt .down neg num den * den < num + den ∧
        roundInt .up neg num den = roundInt .zero neg num den) := by
  obtain ⟨hq, hr⟩ := quotient_parts (num := num) hd
  have hs : (num / den + 1) * den = num / den * den + den := by ring
  have floor : num / den * den ≤ num ∧ num < (num / den + 1) * den := by omega
  by_cases h0 : num % den = 0
  · cases neg <;> simp [roundInt, h0, floor] <;> omega
  · cases neg <;> simp [roundInt, h0, floor] <;> omega

/-! ## The exponent of a quotient -/

/-- The exponent of a quotient is that of the power of two at or below it. -/
theorem floorLog2_spec {num den : Nat} (hn : 0 < num) (hd : 0 < den) :
    (2 : ℚ) ^ floorLog2 num den ≤ num / den ∧ (num / den : ℚ) < 2 ^ (floorLog2 num den + 1) := by
  have hdq : (0 : ℚ) < den := by exact_mod_cast hd
  have n1 : (2 : ℚ) ^ (Nat.log2 num : ℤ) ≤ num := by exact_mod_cast Nat.log2_self_le hn.ne'
  have n2 : (num : ℚ) < 2 ^ ((Nat.log2 num : ℤ) + 1) := by exact_mod_cast Nat.lt_log2_self
  have d1 : (2 : ℚ) ^ (Nat.log2 den : ℤ) ≤ den := by exact_mod_cast Nat.log2_self_le hd.ne'
  have d2 : (den : ℚ) < 2 ^ ((Nat.log2 den : ℤ) + 1) := by exact_mod_cast Nat.lt_log2_self
  have low : (2 : ℚ) ^ ((Nat.log2 num : ℤ) - Nat.log2 den - 1) ≤ num / den := by
    rw [le_div_iff₀ hdq]
    calc _ ≤ (2 : ℚ) ^ ((Nat.log2 num : ℤ) - Nat.log2 den - 1) * 2 ^ ((Nat.log2 den : ℤ) + 1) :=
          mul_le_mul_of_nonneg_left d2.le (by positivity)
      _ = 2 ^ (Nat.log2 num : ℤ) := by rw [← zpow_add₀ two_ne_zero]; ring_nf
      _ ≤ num := n1
  have high : (num / den : ℚ) < 2 ^ ((Nat.log2 num : ℤ) - Nat.log2 den + 1) := by
    rw [div_lt_iff₀ hdq]
    calc (num : ℚ) < 2 ^ ((Nat.log2 num : ℤ) + 1) := n2
      _ = 2 ^ ((Nat.log2 num : ℤ) - Nat.log2 den + 1) * 2 ^ (Nat.log2 den : ℤ) := by rw [← zpow_add₀ two_ne_zero]; ring_nf
      _ ≤ _ := mul_le_mul_of_nonneg_left d1 (by positivity)
  unfold floorLog2
  generalize (Nat.log2 num : ℤ) - Nat.log2 den = a at low high
  have ok : (if 0 ≤ a then decide (den * 2 ^ a.toNat ≤ num) else decide (den ≤ num * 2 ^ (-a).toNat)) = true ↔
      (2 : ℚ) ^ a ≤ num / den := by
    rw [le_div_iff₀ hdq]
    split
    · rename_i h
      rw [decide_eq_true_eq, ← two_zpow_toNat h, mul_comm]
      exact_mod_cast Iff.rfl
    · rename_i h
      rw [decide_eq_true_eq, ← neg_neg a, zpow_neg, ← two_zpow_toNat (e := -a) (by omega), inv_mul_le_iff₀ (by positivity), neg_neg, mul_comm]
      exact_mod_cast Iff.rfl
  simp only [ok]
  split
  · exact ⟨‹_›, high⟩
  · rename_i h
    exact ⟨low, by rw [sub_add_cancel]; exact not_le.mp h⟩

theorem scaleDown_spec (num : Nat) {den : Nat} (hd : 0 < den) (e : Int) :
    0 < (scaleDown num den e).2 ∧ ((scaleDown num den e).1 : ℚ) / (scaleDown num den e).2 = num / den / 2 ^ e := by
  unfold scaleDown
  split
  · rename_i h
    refine ⟨by positivity, ?_⟩
    push_cast
    rw [two_zpow_toNat h, div_div]
  · rename_i h
    refine ⟨hd, ?_⟩
    push_cast
    rw [two_zpow_toNat (by omega), zpow_neg]
    field_simp

/-! ## The fields of a result -/

/-- An FP32 word put together from its fields. -/
def fp32Word (neg : Bool) (e m : Nat) : Word := BitVec.ofNat 32 (flFP32.signBit neg + (e * 2 ^ 23 + m))

theorem fp32Word_fields (neg : Bool) {e m : Nat} (he : e < 256) (hm : m < 2 ^ 23) :
    bitAt (fp32Word neg e m) 31 = neg ∧ (fp32Word neg e m).toNat / 2 ^ 23 % 256 = e ∧ (fp32Word neg e m).toNat % 2 ^ 23 = m := by
  have ht : (fp32Word neg e m).toNat = flFP32.signBit neg + (e * 2 ^ 23 + m) := by
    rw [fp32Word, BitVec.toNat_ofNat]
    cases neg <;> simp only [Fl.signBit, flFP32] <;> simp <;> omega
  rw [bitAt_sign, ht]
  cases neg <;> simp only [Fl.signBit, flFP32] <;> simp <;> omega

/-- A significand below 2^24 at an exponent, encoded: a subnormal below 2^23. -/
def fp32Pack (neg : Bool) (k : Nat) (e : Int) : Word :=
  if k < 2 ^ 23 then fp32Word neg 0 k else fp32Word neg (e + 127).toNat (k - 2 ^ 23)

theorem fp32Pack_spec (neg : Bool) {k : Nat} {e : Int} (hk : k < 2 ^ 24) (h1 : -126 ≤ e) (h2 : e ≤ 127) (hs : k < 2 ^ 23 → e = -126) :
    bitAt (fp32Pack neg k e) 31 = neg ∧ fpFinite (fp32Pack neg k e) ∧ |fpValue (fp32Pack neg k e)| = k * 2 ^ (e - 23) := by
  unfold fp32Pack
  split
  · rename_i h
    obtain ⟨hb, he, hm⟩ := fp32Word_fields neg (e := 0) (by decide) h
    refine ⟨hb, by rw [fpFinite, he]; decide, ?_⟩
    rw [fpValue_of_subnormal he, abs_dyadic, hm, hs h]
    norm_num
  · rename_i h
    obtain ⟨hb, he, hm⟩ := fp32Word_fields neg (e := (e + 127).toNat) (m := k - 2 ^ 23) (by omega) (by omega)
    refine ⟨hb, by rw [fpFinite, he]; omega, ?_⟩
    rw [fpValue_of_normal (by omega), abs_dyadic, hm, he, Nat.add_sub_cancel' (by omega), Int.toNat_of_nonneg (by omega)]
    ring_nf

/-- Infinity is encoded as the value 2^128. -/
theorem fp32_inf_spec (neg : Bool) : bitAt (BitVec.ofNat 32 (flFP32.inf neg)) 31 = neg ∧ ¬fpNan (BitVec.ofNat 32 (flFP32.inf neg)) ∧
    |fpValue (BitVec.ofNat 32 (flFP32.inf neg))| = 2 ^ 128 := by
  obtain ⟨hb, he, hm⟩ := fp32Word_fields neg (e := 255) (m := 0) (by decide) (by decide)
  have hw : BitVec.ofNat 32 (flFP32.inf neg) = fp32Word neg 255 0 := rfl
  rw [hw]
  refine ⟨hb, fun h => h.2 hm, ?_⟩
  rw [fpValue_of_normal (by omega), abs_dyadic, hm, he]
  norm_num

/-! ## One rounding to nearest (05_formats.md R111, R112, R116, R117) -/

/-- The result of a rounding as a register holds it. -/
def Flagged.word (r : Flagged Nat) : Flagged Word := ⟨BitVec.ofNat 32 r.val, r.flags⟩

/-- A significand that may have reached 2^24, and its exponent, brought back below it. -/
def renorm (k : Nat) (e : Int) : Nat × Int := if k = 2 ^ 24 then (2 ^ 23, e + 1) else (k, e)

theorem renorm_spec {k : Nat} (hk : k ≤ 2 ^ 24) (e : Int) : (renorm k e).1 < 2 ^ 24 ∧ e ≤ (renorm k e).2 ∧
    ((renorm k e).1 < 2 ^ 23 → k < 2 ^ 23 ∧ (renorm k e).2 = e) ∧
    ((renorm k e).1 : ℚ) * 2 ^ ((renorm k e).2 - 23) = k * 2 ^ (e - 23) := by
  unfold renorm
  split
  · rename_i h
    refine ⟨by norm_num, by simp, fun hc => absurd hc (by simp), ?_⟩
    rw [h, show e + 1 - 23 = 1 + (e - 23) by ring, zpow_add₀ two_ne_zero]
    push_cast
    ring
  · rename_i h
    exact ⟨by omega, le_rfl, fun hc => ⟨hc, rfl⟩, rfl⟩

/-- How the model rounds a quotient to FP32 to nearest, in the terms above. -/
theorem round_fp32_eq (flush neg : Bool) (num den : Nat) :
    (flFP32.round .nearest true flush neg num den).word =
      if floorLog2 num den < -126 ∧ flush = true then ⟨BitVec.ofNat 32 (flFP32.signBit neg), fUF + fNX⟩
      else
        let e := if floorLog2 num den < -126 then -126 else floorLog2 num den
        let p := scaleDown num den (e - 23)
        let k := roundInt .nearest neg p.1 p.2
        let q := renorm k e
        if 127 < q.2 ∨ q.2 = 127 ∧ 2 ^ 24 - 1 < q.1 then ⟨BitVec.ofNat 32 (flFP32.inf neg), fOF + fNX⟩
        else ⟨fp32Pack neg q.1 q.2, if k * p.2 = p.1 then 0 else if floorLog2 num den < -126 then fUF + fNX else fNX⟩ := by
  have hemin : flFP32.emin = -126 := rfl
  have hp : flFP32.p = 24 := rfl
  have hE : flFP32.maxE = 127 := rfl
  have hM : flFP32.maxM = 2 ^ 24 - 1 := rfl
  have hsub : ∀ e : Int, e - (flFP32.p : Int) + 1 = e - 23 := fun e => by simp [flFP32]; ring
  simp only [Fl.round, hemin, hsub]
  generalize floorLog2 num den = l
  by_cases hf : l < -126 ∧ flush = true
  · rw [if_pos hf, if_pos (by simp [hf, flFP32])]
    rfl
  · rw [if_neg hf, if_neg (by simpa [flFP32] using hf)]
    simp only [decide_eq_true_eq]
    generalize (if l < -126 then (-126 : Int) else l) = e
    generalize scaleDown num den (e - 23) = p
    generalize roundInt .nearest neg p.1 p.2 = k
    have hr : (if k = 2 ^ flFP32.p then (2 ^ (flFP32.p - 1), e + 1) else (k, e)) = renorm k e := rfl
    rw [hr]
    generalize renorm k e = q
    have ho : (decide (flFP32.maxE < q.2) || (decide (q.2 = flFP32.maxE) && decide (flFP32.maxM < q.1))) = true ↔
        127 < q.2 ∨ q.2 = 127 ∧ 2 ^ 24 - 1 < q.1 := by
      simp only [Bool.or_eq_true, Bool.and_eq_true, decide_eq_true_eq, hE, hM]
    have hov : flFP32.overflow .nearest true neg = flFP32.inf neg := by rw [Fl.overflow, Bool.not_true, Bool.false_and, if_neg Bool.false_ne_true]
    have hb : (flFP32.bias : Int) = 127 := rfl
    simp only [ho, hov, Flagged.word, fp32Pack, fp32Word, hp, hb, Nat.reduceSub]
    split
    · rfl
    · split
      · simp only [Nat.zero_mul, Nat.zero_add]
      · simp only [Nat.add_assoc]

/-- The integer that nearest picks for a quotient at most half a unit away from it: how far it is, the even one on a tie, its range, and
when it is exact. -/
theorem roundInt_nearest_spec (neg : Bool) {a b : Nat} (hb : 0 < b) {q : ℚ} {e : Int} (hq : (a : ℚ) / b = q / 2 ^ (e - 23)) :
    |q - roundInt .nearest neg a b * 2 ^ (e - 23)| ≤ 2 ^ (e - 24) ∧
      (|q - roundInt .nearest neg a b * 2 ^ (e - 23)| = 2 ^ (e - 24) → roundInt .nearest neg a b % 2 = 0) ∧
      (q < 2 ^ (e + 1) → roundInt .nearest neg a b ≤ 2 ^ 24) ∧ (2 ^ e ≤ q → 2 ^ 23 ≤ roundInt .nearest neg a b) ∧
      (roundInt .nearest neg a b * b = a ↔ (roundInt .nearest neg a b : ℚ) * 2 ^ (e - 23) = q) := by
  obtain ⟨hc, ht⟩ := roundInt_nearest neg a hb
  generalize roundInt .nearest neg a b = k at hc ht ⊢
  have hbq : (0 : ℚ) < b := by exact_mod_cast hb
  have hU : (0 : ℚ) < 2 ^ (e - 23) := by positivity
  have hqa : q = a / b * 2 ^ (e - 23) := by rw [hq, div_mul_cancel₀ _ hU.ne']
  have hdist : |q - k * 2 ^ (e - 23)| = 2 * ((a : Int) - k * b).natAbs / b * 2 ^ (e - 24) := by
    have h24 : (2 : ℚ) ^ (e - 23) = 2 * 2 ^ (e - 24) := by rw [← zpow_one_add₀ two_ne_zero]; ring_nf
    have : q - k * 2 ^ (e - 23) = ((a : Int) - k * b : Int) / b * 2 ^ (e - 23) := by
      rw [hqa]
      push_cast
      field_simp
    rw [this, abs_mul, abs_of_pos hU, abs_div, abs_of_pos hbq, Nat.cast_natAbs, Int.cast_abs, h24]
    ring
  have hV : (0 : ℚ) < 2 ^ (e - 24) := by positivity
  refine ⟨?_, fun h => ht ?_, fun h => ?_, fun h => ?_, ?_⟩
  · rw [hdist]
    refine mul_le_of_le_one_left hV.le ((div_le_one hbq).mpr ?_)
    exact_mod_cast hc
  · rw [hdist, mul_eq_right₀ hV.ne', div_eq_one_iff_eq hbq.ne'] at h
    exact_mod_cast h
  · have : a < 2 ^ 24 * b := by
      rw [hqa, show e + 1 = 24 + (e - 23) by ring, zpow_add₀ two_ne_zero, mul_lt_mul_iff_left₀ hU, div_lt_iff₀ hbq] at h
      exact_mod_cast h
    by_contra hk
    have : (2 ^ 24 + 1) * b ≤ k * b := Nat.mul_le_mul_right b (not_le.mp hk)
    rw [← Nat.cast_mul] at hc
    omega
  · have : 2 ^ 23 * b ≤ a := by
      rw [hqa, show e = 23 + (e - 23) by ring, zpow_add₀ two_ne_zero, add_sub_cancel_left, mul_le_mul_iff_left₀ hU, le_div_iff₀ hbq] at h
      exact_mod_cast h
    by_contra hk
    have : (k + 1) * b ≤ 2 ^ 23 * b := Nat.mul_le_mul_right b (not_le.mp hk)
    rw [Nat.succ_mul] at this
    rw [← Nat.cast_mul] at hc
    omega
  · rw [hqa, mul_left_inj' hU.ne', eq_div_iff hbq.ne']
    exact_mod_cast Iff.rfl

/-- The model rounds a quotient of a sign to FP32 once, to nearest with ties to even. -/
theorem roundsTo_round (flush neg : Bool) {num den : Nat} (hn : 0 < num) (hd : 0 < den) :
    RoundsTo flush (signOf neg * (num / den)) (flFP32.round .nearest true flush neg num den).word := by
  have hq : (0 : ℚ) < num / den := div_pos (by exact_mod_cast hn) (by exact_mod_cast hd)
  obtain ⟨hlow, hhigh⟩ := floorLog2_spec hn hd
  rw [round_fp32_eq]
  have hab : |signOf neg * ((num : ℚ) / den)| = num / den := by rw [abs_signOf_mul, abs_of_pos hq]
  have hneg : signOf neg * ((num : ℚ) / den) < 0 ↔ neg = true := signOf_mul_neg_iff hq neg
  unfold RoundsTo
  simp only [hab, hneg]
  have htiny : (num / den : ℚ) < 2 ^ (-126 : ℤ) ↔ floorLog2 num den < -126 :=
    ⟨fun h => (zpow_lt_zpow_iff_right₀ one_lt_two).mp (hlow.trans_lt h),
      fun h => hhigh.trans_le (zpow_le_zpow_right₀ one_le_two (by omega))⟩
  have hscale := fun e => scaleDown_spec num hd (e - 23)
  rw [← not_lt (a := (num / den : ℚ)) (b := 2 ^ (-126 : ℤ))]
  simp only [htiny]
  generalize (num / den : ℚ) = q at *
  generalize floorLog2 num den = l at *
  refine ⟨fun h => ?_, fun h => ?_⟩
  · rw [if_pos h.symm]
    cases neg <;> rfl
  · rw [if_neg (fun hn => h.elim (fun hf => by simp [hf] at hn) (fun hl => hl hn.1))]
    generalize he : (if l < -126 then (-126 : Int) else l) = e
    obtain ⟨hb, hs⟩ := hscale e
    generalize scaleDown num den (e - 23) = p at *
    have hrange : q < 2 ^ (e + 1) ∧ -126 ≤ e ∧ (e = -126 ∨ (l = e ∧ 2 ^ e ≤ q)) := by
      subst he
      split
      · exact ⟨(htiny.mpr ‹_›).trans (by norm_num), le_rfl, Or.inl rfl⟩
      · exact ⟨hhigh, not_lt.mp ‹_›, Or.inr ⟨rfl, hlow⟩⟩
    obtain ⟨hup, hmin, hnorm⟩ := hrange
    obtain ⟨hdist, heven, htop, hfull, hexact⟩ := roundInt_nearest_spec neg hb hs
    simp only [hexact]
    generalize roundInt .nearest neg p.1 p.2 = k at *
    obtain ⟨hk1, he1, hsub, hval⟩ := renorm_spec (htop hup) e
    refine ⟨e, k, hup, hmin, hnorm.imp_right (fun h => h.2), hdist, heven, ?_⟩
    rw [← hval]
    have hk : (renorm k e).1 < 2 ^ 23 → (renorm k e).2 = -126 := fun h => by
      obtain ⟨h1, h2⟩ := hsub h
      rcases hnorm with h3 | ⟨-, h3⟩
      · omega
      · exact absurd (hfull h3) (by omega)
    have hr2 : -126 ≤ (renorm k e).2 := hmin.trans he1
    generalize renorm k e = r at *
    by_cases ho : 127 < r.2 ∨ r.2 = 127 ∧ 2 ^ 24 - 1 < r.1
    · rw [if_pos ho]
      obtain ⟨hb, hnan, hv⟩ := fp32_inf_spec neg
      have hbig : (2 : ℚ) ^ 128 ≤ r.1 * 2 ^ (r.2 - 23) := by
        have h1 : (2 : ℚ) ^ 23 ≤ r.1 := by exact_mod_cast not_lt.mp (fun h => by have := hk h; omega)
        calc (2 : ℚ) ^ 128 = 2 ^ 23 * 2 ^ (105 : ℤ) := by norm_num
          _ ≤ (r.1 : ℚ) * 2 ^ (r.2 - 23) := mul_le_mul h1 (zpow_le_zpow_right₀ one_le_two (by omega)) (by positivity) (by positivity)
      exact ⟨by rw [hb]; simp, fun _ => ⟨hv, hnan, rfl⟩, fun h => absurd hbig h.not_ge⟩
    · rw [if_neg ho]
      obtain ⟨hb, hf, hv⟩ := fp32Pack_spec neg hk1 hr2 (by omega) hk
      have hsmall : (r.1 : ℚ) * 2 ^ (r.2 - 23) < 2 ^ 128 := by
        have h1 : (r.1 : ℚ) < 2 ^ 24 := by exact_mod_cast hk1
        calc (r.1 : ℚ) * 2 ^ (r.2 - 23) < 2 ^ 24 * 2 ^ (104 : ℤ) :=
              mul_lt_mul h1 (zpow_le_zpow_right₀ one_le_two (by omega)) (by positivity) (by positivity)
          _ = 2 ^ 128 := by norm_num
      exact ⟨by rw [hb]; simp, fun h => absurd hsmall h.not_gt, fun _ => ⟨hf, hv, rfl⟩⟩

end Sys2Proof.Machine
end

section
/-! SUPPORT. Sums and products of finite operands, rounded once (05_formats.md R111 to R117), and obligation O14. -/

namespace Sys2Proof.Machine

/-! ## One rounding of an exact value -/

theorem roundDy_zero (flush neg : Bool) (e : Int) :
    (flFP32.roundDy .nearest true flush neg 0 e).word = ⟨if neg then 0x80000000 else 0, 0⟩ := by
  rw [Fl.roundDy, if_pos rfl]
  cases neg <;> rfl

theorem roundsTo_roundDy (flush neg : Bool) {m : Nat} (hm : m ≠ 0) (e : Int) :
    RoundsTo flush (dyadic neg m e) (flFP32.roundDy .nearest true flush neg m e).word := by
  have hpos : 0 < m := Nat.pos_of_ne_zero hm
  rw [Fl.roundDy, if_neg hm, dyadic, mul_assoc]
  split
  · rename_i h
    have := roundsTo_round flush neg (num := m * 2 ^ e.toNat) (den := 1) (by positivity) one_pos
    rwa [Nat.cast_one, div_one, Nat.cast_mul, Nat.cast_pow, Nat.cast_ofNat, two_zpow_toNat h] at this
  · rename_i h
    have := roundsTo_round flush neg hpos (den := 2 ^ (-e).toNat) (by positivity)
    rwa [Nat.cast_pow, Nat.cast_ofNat, two_zpow_toNat (by omega), zpow_neg, div_inv_eq_mul] at this

/-- A dyadic number that is a given value, rounded: the value rounded once, or a zero of its sign. -/
theorem roundDy_value (flush neg : Bool) (m : Nat) (e : Int) {x : ℚ} (h : dyadic neg m e = x) :
    (x ≠ 0 → RoundsTo flush x (flFP32.roundDy .nearest true flush neg m e).word) ∧
      (x = 0 → (flFP32.roundDy .nearest true flush neg m e).word = ⟨if neg then 0x80000000 else 0, 0⟩) := by
  subst h
  refine ⟨fun h => roundsTo_roundDy flush neg (fun hm => h (dyadic_eq_zero_iff.mpr hm)) e, fun h => ?_⟩
  rw [dyadic_eq_zero_iff.mp h, roundDy_zero]

/-! ## Sums and products -/

/-- An exact sum rounded once; an exact zero is negative where both terms have the minus sign. -/
theorem addFin_rounded (flush : Bool) (n1 n2 : Bool) (m1 m2 : Nat) (e1 e2 : Int) :
    let p := addFin n1 m1 e1 n2 m2 e2
    let r := (flFP32.roundDy .nearest true flush p.1 p.2.1 p.2.2).word
    let x := dyadic n1 m1 e1 + dyadic n2 m2 e2
    (x ≠ 0 → RoundsTo flush x r) ∧ (x = 0 → r = ⟨if n1 && n2 then 0x80000000 else 0, 0⟩) := by
  obtain ⟨n, m, e, h, hv, hz⟩ := addFin_value n1 n2 m1 m2 e1 e2
  simp only [h]
  refine ⟨(roundDy_value flush n m e hv).1, fun hx => ?_⟩
  rw [(roundDy_value flush n m e hv).2 hx, hz (dyadic_eq_zero_iff.mp (hv.trans hx))]
  -- two terms of one sign cancel only where both are zeros
  have hsame : n1 = true → n2 = true → m1 = 0 ∧ m2 = 0 := by
    rintro rfl rfl
    have h1 : (0 : ℚ) ≤ m1 * 2 ^ e1 := by positivity
    have h2 : (0 : ℚ) ≤ m2 * 2 ^ e2 := by positivity
    have h0 : (m1 * 2 ^ e1 : ℚ) = 0 ∧ (m2 * 2 ^ e2 : ℚ) = 0 := by
      simp only [dyadic, signOf, if_true] at hx
      constructor <;> linarith
    simpa [zpow_ne_zero] using h0
  cases n1 <;> cases n2 <;> simp_all

variable {a b c : Word} (flush : Bool)

theorem fAdd_finite (ha : fpFinite a) (hb : fpFinite b) :
    (fpRead flush a + fpRead flush b ≠ 0 → RoundsTo flush (fpRead flush a + fpRead flush b) (fAdd flush a b)) ∧
      (fpRead flush a + fpRead flush b = 0 → fAdd flush a b = ⟨if bitAt a 31 && bitAt b 31 then 0x80000000 else 0, 0⟩) := by
  obtain ⟨m1, e1, h1, hv1⟩ := read_finite ha flush
  obtain ⟨m2, e2, h2, hv2⟩ := read_finite hb flush
  rw [fAdd, h1, h2, ← hv1, ← hv2]
  exact addFin_rounded flush _ _ m1 m2 e1 e2

theorem fMul_finite (ha : fpFinite a) (hb : fpFinite b) :
    (fpRead flush a * fpRead flush b ≠ 0 → RoundsTo flush (fpRead flush a * fpRead flush b) (fMul flush a b)) ∧
      (fpRead flush a * fpRead flush b = 0 → fMul flush a b = ⟨if bitAt a 31 != bitAt b 31 then 0x80000000 else 0, 0⟩) := by
  obtain ⟨m1, e1, h1, hv1⟩ := read_finite ha flush
  obtain ⟨m2, e2, h2, hv2⟩ := read_finite hb flush
  rw [fMul, h1, h2, ← hv1, ← hv2]
  exact roundDy_value flush _ _ _ (dyadic_mul _ _ m1 m2 e1 e2)

theorem fFma_finite (ha : fpFinite a) (hb : fpFinite b) (hc : fpFinite c) :
    (fpRead flush a * fpRead flush b + fpRead flush c ≠ 0 →
        RoundsTo flush (fpRead flush a * fpRead flush b + fpRead flush c) (fFma flush a b c)) ∧
      (fpRead flush a * fpRead flush b + fpRead flush c = 0 →
        fFma flush a b c = ⟨if (bitAt a 31 != bitAt b 31) && bitAt c 31 then 0x80000000 else 0, 0⟩) := by
  obtain ⟨m1, e1, h1, hv1⟩ := read_finite ha flush
  obtain ⟨m2, e2, h2, hv2⟩ := read_finite hb flush
  obtain ⟨m3, e3, h3, hv3⟩ := read_finite hc flush
  rw [fFma, h1, h2, h3, ← hv1, ← hv2, ← hv3, ← dyadic_mul]
  exact addFin_rounded flush _ _ (m1 * m2) m3 (e1 + e2) e3

/-- Settles O14: each instruction is an operation of the lanes that raises flags; a finite operand reads as a dyadic number, so that a sum
or product is one as well, rounded once. -/
theorem laneFloats : Obligations.LaneFloats := by
  unfold Obligations.LaneFloats
  refine ⟨fun s n d a b c q v r t u y hc => ?_, fun flush a b c ha hb hc => ?_, fun neg num den hd => ?_⟩
  · have ha : ∀ x ∈ srcRes a, x ∈ srcRes a ++ srcRes b ++ srcRes c := fun _ h => List.mem_append_left _ (List.mem_append_left _ h)
    have hab : ∀ x ∈ srcRes a ++ srcRes b, x ∈ srcRes a ++ srcRes b ++ srcRes c := fun _ h => List.mem_append_left _ h
    refine ⟨flagOp2_gives hc hab rfl, flagOp2_gives (f := fSub) hc hab rfl, flagOp2_gives hc hab rfl, flagOp2_gives hc hab rfl,
      flagOp2_gives hc hab rfl, ?_, flagOp1_gives hc ha rfl, flagOp1_gives hc ha rfl, flagOp2_gives (f := fun _ => fq4 y) hc hab rfl,
      flagOp2_gives (f := fun _ => fdq4 y) hc hab rfl⟩
    exact (laneOp_gives (f := fun w => .flagged d (fFma (bitAt w.w.trec.flags 0) (w.src 0 a) (w.src 1 b) (w.src 2 c))) rfl hc
      (fun _ _ _ h => h) (fun _ _ => LaneRes.plain_flagged _ _) (Or.inl fun _ _ => rfl)).congr (fun _ _ => LaneRes.effect_flagged _ _)
  · obtain ⟨h1, h2⟩ := fAdd_finite flush ha hb
    obtain ⟨h3, h4⟩ := fMul_finite flush ha hb
    obtain ⟨h5, h6⟩ := fFma_finite flush ha hb hc
    exact ⟨h1, h2, h3, h4, h5, h6⟩
  · obtain ⟨hz, hp, hn⟩ := roundInt_directed neg num hd
    exact ⟨roundInt_nearest neg num hd, hz, hp, hn⟩

end Sys2Proof.Machine
end

section
/-! SUPPORT. NaNs, infinities and zeros as operands (05_formats.md R109, R115), the order of FP32 operands, and obligation O15. -/

namespace Sys2Proof.Machine

/-! ## Words whose operands are special -/

/-- A word from its sign, exponent and significand. -/
theorem word_of_fields {a : Word} {neg : Bool} {e m : Nat} (hs : bitAt a 31 = neg) (he : a.toNat / 2 ^ 23 % 256 = e)
    (hm : a.toNat % 2 ^ 23 = m) : a = BitVec.ofNat 32 (neg.toNat * 2 ^ 31 + e * 2 ^ 23 + m) := by
  apply BitVec.eq_of_toNat_eq
  have hlt := a.isLt
  rw [bitAt_sign] at hs
  rw [BitVec.toNat_ofNat]
  subst hs he hm
  by_cases h : a.toNat / 2 ^ 31 % 2 = 1
  · rw [decide_eq_true h, Bool.toNat_true]
    omega
  · rw [decide_eq_false h, Bool.toNat_false]
    omega

theorem read_eq_nan_iff {flush : Bool} {a : Word} : flFP32.read flush a.toNat = .nan ↔ fpNan a := by
  refine ⟨fun h => ?_, fun h => read_nan h flush⟩
  by_contra hn
  by_cases hf : fpFinite a
  · obtain ⟨m, e, hr, -⟩ := read_finite hf flush
    rw [hr] at h
    cases h
  · rw [read_inf hf hn] at h
    cases h

theorem isNan_read (flush : Bool) (a : Word) : (flFP32.read flush a.toNat).isNan = true ↔ fpNan a := by
  rw [← read_eq_nan_iff (flush := flush)]
  cases flFP32.read flush a.toNat <;> simp [FNum.isNan]

theorem infinity_of_read {flush neg : Bool} {a : Word} (h : flFP32.read flush a.toNat = .inf neg) :
    a = if neg then 0xFF800000 else 0x7F800000 := by
  by_cases hf : fpFinite a
  · obtain ⟨m, e, hr, -⟩ := read_finite hf flush
    rw [hr] at h
    cases h
  · by_cases hn : fpNan a
    · rw [read_nan hn] at h
      cases h
    · rw [read_inf hf hn] at h
      have he : a.toNat / 2 ^ 23 % 256 = 255 := not_not.mp hf
      rw [word_of_fields (FNum.inf.inj h) he (not_not.mp fun hm => hn ⟨he, hm⟩)]
      cases neg <;> rfl

theorem zero_of_read {neg : Bool} {e : Int} {a : Word} (h : flFP32.read false a.toNat = .fin neg 0 e) :
    a = if neg then 0x80000000 else 0 := by
  have hd : flFP32.read false a.toNat = flFP32.decode a.toNat := by
    unfold Fl.read
    cases flFP32.decode a.toNat <;> rfl
  rw [hd, decode_fp32] at h
  split at h
  · rename_i he
    obtain ⟨hs, hm, -⟩ := FNum.fin.inj h
    rw [word_of_fields hs he hm]
    cases neg <;> rfl
  · split at h
    · split at h <;> cases h
    · have := (FNum.fin.inj h).2.1
      omega

theorem flushWord_false (a : Word) : flushWord false a = a := by
  unfold flushWord
  split
  · rename_i n e h
    rw [zero_of_read h]
    cases n <;> rfl
  · rfl

/-! ## Results of special operands -/

variable {a b c : Word} (flush : Bool)

theorem nan_operand (h : fpNan a ∨ fpNan b) : fAdd flush a b = ⟨0x7FC00000, 0⟩ ∧ fMul flush a b = ⟨0x7FC00000, 0⟩ := by
  rw [fAdd, fMul]
  rcases h with h | h
  · rw [read_nan h]
    exact ⟨rfl, rfl⟩
  · rw [read_nan h]
    cases flFP32.read flush a.toNat <;> exact ⟨rfl, rfl⟩

theorem fFma_nan_addend (hc : fpNan c) (h1 : ¬((a = 0x7F800000 ∨ a = 0xFF800000) ∧ (b = 0 ∨ b = 0x80000000)))
    (h2 : ¬((a = 0 ∨ a = 0x80000000) ∧ (b = 0x7F800000 ∨ b = 0xFF800000))) : fFma false a b c = ⟨0x7FC00000, 0⟩ := by
  have inf : ∀ {x : Word} {n}, flFP32.read false x.toNat = .inf n → x = 0x7F800000 ∨ x = 0xFF800000 := fun h => by
    rw [infinity_of_read h]
    split <;> simp
  have zero : ∀ {x : Word} {n e}, flFP32.read false x.toNat = .fin n 0 e → x = 0 ∨ x = 0x80000000 := fun h => by
    rw [zero_of_read h]
    split <;> simp
  rw [fFma, read_nan hc]
  cases ha : flFP32.read false a.toNat with
  | nan => rfl
  | inf n1 =>
    cases hb : flFP32.read false b.toNat with
    | nan => rfl
    | inf n2 => rfl
    | fin n2 m2 e2 => exact if_neg fun h : m2 = 0 => h1 ⟨inf ha, zero (h ▸ hb)⟩
  | fin n1 m1 e1 =>
    cases hb : flFP32.read false b.toNat with
    | nan => rfl
    | inf n2 => exact if_neg fun h : m1 = 0 => h2 ⟨zero (h ▸ ha), inf hb⟩
    | fin n2 m2 e2 => rfl

theorem fMinMax_nan (wantMax : Bool) (ha : fpNan a) (hb : ¬fpNan b) : fMinMax wantMax false a b = ⟨b, 0⟩ := by
  have ha' : (flFP32.read false a.toNat).isNan = true := (isNan_read false a).mpr ha
  have hb' : (flFP32.read false b.toNat).isNan = false := Bool.eq_false_iff.mpr (mt (isNan_read false b).mp hb)
  simp [fMinMax, ha', hb', flushWord_false]

theorem fMinMax_nans (wantMax : Bool) (ha : fpNan a) (hb : fpNan b) : fMinMax wantMax flush a b = ⟨0x7FC00000, 0⟩ := by
  rw [fMinMax]
  simp only [read_nan ha, read_nan hb]
  rfl

theorem sfu_nan (f : SfuFn) (ha : fpNan a) : sfu f flush a = ⟨0x7FC00000, 0⟩ := by
  rw [sfu, read_nan ha]
  rfl

/-! ## The order of operands (07_lane_arith.md R163) -/

/-- The value of a number, an infinity standing for 2^128 of its sign. -/
def FNum.rat : FNum → ℚ
  | .nan => 0
  | .inf n => signOf n * 2 ^ 128
  | .fin n m e => dyadic n m e

/-- Below the infinities. -/
def FNum.Bounded : FNum → Prop
  | .fin n m e => |dyadic n m e| < 2 ^ 128
  | _ => True

/-- An operand that is no NaN reads as a number of its value. -/
theorem read_rat (h : ¬fpNan a) : (flFP32.read flush a.toNat).rat = fpRead flush a ∧ (flFP32.read flush a.toNat).Bounded := by
  by_cases hf : fpFinite a
  · obtain ⟨m, e, hr, hv⟩ := read_finite hf flush
    rw [hr]
    refine ⟨hv, ?_⟩
    change |dyadic _ _ _| < _
    rw [hv, fpRead]
    split
    · norm_num
    · exact abs_fpValue_lt hf
  · have he : a.toNat / 2 ^ 23 % 256 = 255 := not_not.mp hf
    have hm : a.toNat % 2 ^ 23 = 0 := not_not.mp fun hm => h ⟨he, hm⟩
    rw [read_inf hf h, fpRead, if_neg (by rw [abs_fpValue_lt_iff]; omega), fpValue_of_normal (by omega), hm, he, FNum.rat, dyadic]
    exact ⟨by norm_num [mul_assoc], trivial⟩

theorem numLt_iff {x y : FNum} (hx : x ≠ .nan) (hy : y ≠ .nan) (bx : x.Bounded) (by_ : y.Bounded) : numLt x y = true ↔ x.rat < y.rat := by
  cases x with
  | nan => exact absurd rfl hx
  | inf n1 =>
    cases y with
    | nan => exact absurd rfl hy
    | inf n2 => cases n1 <;> cases n2 <;> norm_num [numLt, FNum.rat, signOf]
    | fin n2 m2 e2 =>
      obtain ⟨h1, h2⟩ := abs_lt.mp by_
      cases n1
      · simpa [numLt, FNum.rat, signOf] using h2.le
      · simpa [numLt, FNum.rat, signOf] using h1
  | fin n1 m1 e1 =>
    obtain ⟨h1, h2⟩ := abs_lt.mp bx
    cases y with
    | nan => exact absurd rfl hy
    | inf n2 =>
      cases n2
      · simpa [numLt, FNum.rat, signOf] using h2
      · simpa [numLt, FNum.rat, signOf] using h1.le
    | fin n2 m2 e2 =>
      rw [numLt, decide_eq_true_eq, FNum.rat, FNum.rat, ← alignTo_value n1 m1 (min_le_left e1 e2), ← alignTo_value n2 m2 (min_le_right e1 e2),
        mul_lt_mul_iff_left₀ (by positivity)]
      exact_mod_cast Iff.rfl

/-- With a NaN no order holds. -/
theorem numLt_nan (x y : FNum) (h : x = .nan ∨ y = .nan) : numLt x y = false := by
  rcases h with rfl | rfl
  · rfl
  · cases x <;> rfl

/-- Each relation of fcmp, and its flags, by whether an operand is a NaN and by the operands' values. -/
theorem fCompare_spec (a b : Word) :
    let un := fpNan a ∨ fpNan b
    let x := fpRead flush a
    let y := fpRead flush b
    let f := fun (c : FloatCond) => fCompare c flush a b
    ((f .eq).val = true ↔ ¬un ∧ x = y) ∧ ((f .ne).val = true ↔ un ∨ x ≠ y) ∧
    ((f .lt).val = true ↔ ¬un ∧ x < y) ∧ ((f .le).val = true ↔ ¬un ∧ x ≤ y) ∧
    ((f .gt).val = true ↔ ¬un ∧ y < x) ∧ ((f .ge).val = true ↔ ¬un ∧ y ≤ x) ∧
    ((f .un).val = true ↔ un) ∧ ((f .ord).val = true ↔ ¬un) ∧
    (∀ c ∈ [FloatCond.lt, .le, .gt, .ge], (un → (f c).flags = fNV) ∧ (¬un → (f c).flags = 0)) ∧
    (∀ c ∈ [FloatCond.eq, .ne, .un, .ord], (f c).flags = 0) := by
  intro un x y f
  have hun : ((flFP32.read flush a.toNat).isNan || (flFP32.read flush b.toNat).isNan) = true ↔ un := by
    rw [Bool.or_eq_true, isNan_read, isNan_read]
  by_cases h : un
  · have hn : flFP32.read flush a.toNat = .nan ∨ flFP32.read flush b.toNat = .nan :=
      h.imp (fun h => read_nan h flush) (fun h => read_nan h flush)
    simp [f, fCompare, hun.mpr h, h, numLt_nan _ _ hn, numLt_nan _ _ hn.symm]
  · obtain ⟨ha, hb⟩ := not_or.mp h
    obtain ⟨hva, hba⟩ := read_rat flush ha
    obtain ⟨hvb, hbb⟩ := read_rat flush hb
    have hlt : numLt (flFP32.read flush a.toNat) (flFP32.read flush b.toNat) = decide (x < y) := by
      rw [Bool.eq_iff_iff, numLt_iff (mt read_eq_nan_iff.mp ha) (mt read_eq_nan_iff.mp hb) hba hbb, hva, hvb, decide_eq_true_eq]
    have hgt : numLt (flFP32.read flush b.toNat) (flFP32.read flush a.toNat) = decide (y < x) := by
      rw [Bool.eq_iff_iff, numLt_iff (mt read_eq_nan_iff.mp hb) (mt read_eq_nan_iff.mp ha) hbb hba, hva, hvb, decide_eq_true_eq]
    have heq : y ≤ x ∧ x ≤ y ↔ x = y := and_comm.trans le_antisymm_iff.symm
    simp [f, fCompare, Bool.eq_false_iff.mpr (mt hun.mp h), h, hlt, hgt, heq]

/-- Settles O15: a NaN, an infinity and a zero read as such, and so decide the result before anything is rounded; two numbers compare as their
values; the manual's conversions are evaluated. -/
theorem floatSpecialsAndConversions : Obligations.FloatSpecialsAndConversions := by
  unfold Obligations.FloatSpecialsAndConversions
  refine ⟨fun flush a b c => ?_, fCompare_spec, by decide⟩
  refine ⟨nan_operand flush, ?_, ?_, fun hc h1 h2 hf => hf ▸ fFma_nan_addend hc h1 h2,
    fun ha hb hf => ⟨hf ▸ fMinMax_nan false ha hb, hf ▸ fMinMax_nan true ha hb⟩,
    fun ha hb => ⟨fMinMax_nans flush false ha hb, fMinMax_nans flush true ha hb⟩, fun ha f => sfu_nan flush f ha, ?_, ?_, ?_⟩
  · rintro (rfl | rfl) (rfl | rfl) <;> cases flush <;> rfl
  · rintro (rfl | rfl) (rfl | rfl) <;> cases flush <;> exact ⟨rfl, rfl, rfl, rfl⟩
  · rintro (rfl | rfl) <;> cases flush <;> exact ⟨rfl, rfl, rfl, rfl, rfl, rfl⟩
  · rintro (rfl | rfl) <;> cases flush <;> exact ⟨rfl, rfl, rfl⟩
  · cases flush <;> exact ⟨rfl, rfl, rfl⟩

end Sys2Proof.Machine
end

section
/-! SUPPORT. The completion of a strait lease's copy, with a copy of its status word's line in the L2 of the issuer's die: a byte number
beyond the physical addresses has the key of that copy (09_tensor_instr.md R212, 10_memory.md R255, 11_ordering.md R284, R288), and
obligation O54. -/

namespace Sys2Proof.Machine

/-- A performed store of slot 16384, the first of die 1, by the copy engine of the cluster lent to it; its status word belongs at address
0 (09_tensor_instr.md R229). -/
def straitCopy : EngOp :=
  { kind := .tcopy, warp := 16384, lid := 0, taskId := 0, num := 0, q := 2, st := .performed, code := 1
    pb := bytesOf 24 0 ++ bytesOf 4 1 ++ bytesOf 4 (2 ^ 28) }

/-- The page of the status word. -/
def straitPage : TlbEnt := { die := 0, space := 0, vpage := 0, bits := 16, pbase := 0, rd := true, wr := true, ex := true }

/-- That operation at the head of its queue, cluster 0 of die 0 lent to its group. The L2 of each die holds the first line of the stacks,
whose home is die 0. -/
def straitDone : State :=
  { State.reset with
    warps := [(16384, { slot := .board, trec := { groups := [0x8000] }, queues := [(2, [straitCopy])] })]
    clusters := [(64, { leases := [{ lid := 0, grp := 0, rows := 1, cols := 1, strait := true, origin := 0, clu := 64, lent := some 0, cores := [],
                                     st := .held }] })]
    launches := [(0, { Launch.dflt with wrote := [0] })]
    regs := [(pkgBlk 0x10000, 0xC000000000000000)]
    mem := { l2 := [(lineKey 0 0, ⟨0, 0, 0, 0, 0⟩), (lineKey 1 0, ⟨0, 0, 0, 0, 0⟩)], tlb := [straitPage] }
    cur := { warp := 16384, q := 2 } }

theorem straitDone_plain : straitDone.mem.Plain := ⟨rfl, rfl, ⟨rfl, rfl, rfl⟩, rfl, rfl⟩

theorem straitDone_within :
    (straitDone.updMem (fun x => x.bump (straitDone.opMaster straitCopy).die)).Within (straitDone.opMaster straitCopy) 0 .write 0 :=
  State.within_alone (l := 0) (L := { Launch.dflt with wrote := [0] }) (e := straitPage) (by decide) (by decide +kernel) rfl rfl
    (by decide +kernel) (by decide) ⟨rfl, rfl, rfl⟩ rfl (by decide +kernel) (by decide +kernel) (by decide +kernel)

/-- The status word arrives on die 1, whose copy of the line takes it; byte 2 ^ 48 of die 0 has the key of that copy. -/
theorem straitDone_look :
    straitDone.mem.look 0 (2 ^ 48) = 0 ∧
      (match exec .engineCompletion straitDone with
        | .next t => t.mem.look 0 (2 ^ 48)
        | _ => 0) = 1 := by decide +kernel

/-- Refutes O54: the completion of a copy that a strait lease of the issuer's die performs on die 0 brings the status word into the line
that die 1's L2 holds. The statement says of every natural number beyond the word that die 0 reads there what it read before, 2 ^ 48 and
above among them, which are no physical addresses: the model finds the lines of an L2 under die * 2 ^ 41 + line, so that byte 2 ^ 48
of die 0 is a byte of die 1's line 0, and it changes. -/
theorem not_engineEvents : ¬ Obligations.EngineEvents := by
  unfold Obligations.EngineEvents
  intro h
  obtain ⟨-, hcompletion, -⟩ := h straitDone straitCopy
  have hdie : (straitDone.opMaster straitCopy).die = 0 := by decide +kernel
  have hfrozen : straitDone.opStopped straitCopy = false := by decide +kernel
  obtain ⟨t, ht, -, -, hframe, -⟩ := hcompletion [] 0 (by decide) rfl rfl rfl ⟨rfl, by decide +kernel, rfl⟩ hfrozen straitDone_plain
    straitDone_within (by decide +kernel) (by decide)
  obtain ⟨hbefore, hafter⟩ := straitDone_look
  rw [ht] at hafter
  have hsame := hframe (2 ^ 48) (Or.inr (by decide))
  rw [hdie, hbefore] at hsame
  exact absurd (hafter.symm.trans hsame) (by decide)

end Sys2Proof.Machine
end

section
/-! SUPPORT. The 144 bytes of a tile record and the record they hold, zero elements, and transposition (06_square_tiles.md R127 to R129,
R137, R138, 07_lane_arith.md R167), and obligation O55. -/

namespace Sys2Proof.Machine

/-! ## Lists by index -/

theorem getD_map_range {α : Type} (f : Nat → α) (d : α) {k n : Nat} (h : k < n) : ((List.range n).map f).getD k d = f k := by
  rw [List.getD_eq_getElem _ _ (by simpa using h), List.getElem_map, List.getElem_range]

theorem ext_getD {l r : List Nat} {n : Nat} (hl : l.length = n) (hr : r.length = n) (h : ∀ k < n, l.getD k 0 = r.getD k 0) : l = r := by
  apply List.ext_getElem (hl.trans hr.symm)
  intro k hk hk'
  rw [← List.getD_eq_getElem _ 0 hk, ← List.getD_eq_getElem _ 0 hk', h k (hl ▸ hk)]

/-- A bound on the elements of a list holds of those read beyond its end, which are 0. -/
theorem getD_lt_of_lt {l : List Nat} {n m : Nat} (hl : l.length = n) (hm : 0 < m) (h : ∀ k < n, l.getD k 0 < m) (k : Nat) :
    l.getD k 0 < m := by
  rcases Nat.lt_or_ge k n with hk | hk
  · exact h k hk
  · rwa [List.getD_eq_default _ _ (hl ▸ hk)]

theorem getD_append_add {α : Type} {a b : List α} (d : α) {n : Nat} (hn : a.length = n) (k : Nat) :
    (a ++ b).getD (n + k) d = b.getD k d := by
  rw [List.getD_append_right _ _ _ _ (by omega), hn, Nat.add_sub_cancel_left]

theorem toNat_getD_bytesOf (n v : Nat) {k : Nat} (h : k < n) : ((bytesOf n v).getD k 0).toNat = v / 256 ^ k % 256 := by
  induction n generalizing v k with
  | zero => omega
  | succ n ih =>
    cases k with
    | zero => rw [bytesOf, List.getD_cons_zero, BitVec.toNat_ofNat, pow_zero, Nat.div_one]
    | succ k => rw [bytesOf, List.getD_cons_succ, ih _ (by omega), Nat.div_div_eq_div_mul, ← pow_succ']

/-! ## Micro-exponents, four to a byte -/

/-- Half of a micro word: the micro-exponents of 16 rows or columns, two bits each (06_square_tiles.md R128). -/
def microWord (l : List Nat) : Nat := (List.range 16).foldl (fun a j => a + l.getD j 0 * 4 ^ j) 0

/-- The digits of a number that is summed up from its digits to the base 4. -/
theorem base4_digits {d : Nat → Nat} (hd : ∀ j, d j < 4) (n : Nat) :
    (List.range n).foldl (fun a j => a + d j * 4 ^ j) 0 < 4 ^ n ∧
      ∀ k < n, (List.range n).foldl (fun a j => a + d j * 4 ^ j) 0 / 4 ^ k % 4 = d k := by
  induction n with
  | zero => exact ⟨by simp, fun k hk => absurd hk (Nat.not_lt_zero k)⟩
  | succ n ih =>
    rw [List.range_succ, List.foldl_append, List.foldl_cons, List.foldl_nil]
    generalize (List.range n).foldl _ 0 = low at ih ⊢
    obtain ⟨hlow, hdigit⟩ := ih
    have hdn := hd n
    have htop : d n * 4 ^ n ≤ 3 * 4 ^ n := Nat.mul_le_mul_right _ (Nat.le_of_lt_succ hdn)
    refine ⟨by rw [pow_succ]; omega, fun k hk => ?_⟩
    rcases Nat.lt_succ_iff_lt_or_eq.mp hk with hkn | rfl
    · obtain ⟨e, rfl⟩ := Nat.exists_eq_add_of_lt hkn
      have hsplit : d (k + e + 1) * 4 ^ (k + e + 1) = 4 ^ k * (4 * (d (k + e + 1) * 4 ^ e)) := by ring
      rw [hsplit, Nat.add_mul_div_left _ _ (by positivity), Nat.add_mul_mod_self_left, hdigit k hkn]
    · rw [Nat.add_mul_div_right _ _ (by positivity), Nat.div_eq_of_lt hlow, Nat.zero_add, Nat.mod_eq_of_lt hdn]

/-- Micro-exponent j stands in byte j / 4 of its half, in bits 2 (j mod 4) and the next. -/
theorem microWord_byte {l : List Nat} (hl : ∀ j, l.getD j 0 < 4) {j : Nat} (hj : j < 16) :
    microWord l / 256 ^ (j / 4) % 256 / 4 ^ (j % 4) % 4 = l.getD j 0 := by
  have hdigit : microWord l / 4 ^ j % 4 = l.getD j 0 := (base4_digits hl 16).2 j hj
  have hbyte (v : Nat) {m : Nat} (hm : m < 4) : v % 256 / 4 ^ m % 4 = v / 4 ^ m % 4 := by
    interval_cases m <;> omega
  rw [hbyte _ (Nat.mod_lt _ (by decide)), Nat.div_div_eq_div_mul, show (256 : Nat) = 4 ^ 4 from rfl, ← pow_mul, ← pow_add, Nat.div_add_mod,
    hdigit]

/-! ## The bytes of a record -/

/-- Codes two to a byte, the even one low (06_square_tiles.md R127). -/
def packCodes (l : List Nat) : List Byte :=
  (List.range (l.length / 2)).map (fun k => BitVec.ofNat 8 (l.getD (2 * k) 0 + 16 * l.getD (2 * k + 1) 0))

theorem TileRec.bytes_eq (r : TileRec) :
    r.bytes = packCodes r.codes ++ (bytesOf 4 (microWord r.rows) ++ (bytesOf 4 (microWord r.cols) ++
      (bytesOf 1 (64 * r.type + r.exp) ++ bytesOf 7 0))) := by
  simp only [← List.append_assoc]
  rfl

/-- The fields of a record have the sizes that its bytes provide (06_square_tiles.md R123, R125, R127). -/
structure TileRec.Fits (r : TileRec) : Prop where
  codes : r.codes.length = 256
  code : ∀ k, r.codes.getD k 0 < 16
  rows : r.rows.length = 16
  row : ∀ i, r.rows.getD i 0 < 4
  cols : r.cols.length = 16
  col : ∀ j, r.cols.getD j 0 < 4
  type : r.type < 4
  exp : r.exp < 64

section
variable {r : TileRec} (h : r.Fits)
include h

theorem TileRec.Fits.length_packCodes : (packCodes r.codes).length = 128 := by
  rw [packCodes, List.length_map, List.length_range, h.codes]

theorem TileRec.Fits.codeByte {k : Nat} (hk : k < 128) :
    (r.bytes.getD k 0).toNat = r.codes.getD (2 * k) 0 + 16 * r.codes.getD (2 * k + 1) 0 := by
  have hlow := h.code (2 * k)
  have hhigh := h.code (2 * k + 1)
  rw [TileRec.bytes_eq, List.getD_append _ _ _ _ (by rw [h.length_packCodes]; exact hk), packCodes,
    getD_map_range _ _ (by rw [h.codes]; exact hk), BitVec.toNat_ofNat]
  omega

theorem TileRec.Fits.rowByte {k : Nat} (hk : k < 4) : (r.bytes.getD (128 + k) 0).toNat = microWord r.rows / 256 ^ k % 256 := by
  rw [TileRec.bytes_eq, getD_append_add 0 h.length_packCodes, List.getD_append _ _ _ _ (by rw [length_bytesOf]; exact hk),
    toNat_getD_bytesOf _ _ hk]

theorem TileRec.Fits.colByte {k : Nat} (hk : k < 4) : (r.bytes.getD (132 + k) 0).toNat = microWord r.cols / 256 ^ k % 256 := by
  rw [TileRec.bytes_eq, show 132 + k = 128 + (4 + k) by omega, getD_append_add 0 h.length_packCodes, getD_append_add 0 (length_bytesOf 4 _),
    List.getD_append _ _ _ _ (by rw [length_bytesOf]; exact hk), toNat_getD_bytesOf _ _ hk]

theorem TileRec.Fits.scaleByte : (r.bytes.getD 136 0).toNat = 64 * r.type + r.exp := by
  have htype := h.type
  have hexp := h.exp
  rw [TileRec.bytes_eq, show 136 = 128 + (4 + (4 + 0)) from rfl, getD_append_add 0 h.length_packCodes, getD_append_add 0 (length_bytesOf 4 _),
    getD_append_add 0 (length_bytesOf 4 _), List.getD_append _ _ _ _ (by rw [length_bytesOf]; exact Nat.one_pos),
    toNat_getD_bytesOf _ _ Nat.one_pos]
  omega

theorem TileRec.Fits.transpose : r.transpose.Fits where
  codes := by simp [TileRec.transpose]
  code := getD_lt_of_lt (n := 256) (by simp [TileRec.transpose]) (by decide) fun k hk => by
    rw [TileRec.transpose, getD_map_range _ _ hk]
    exact h.code _
  rows := h.cols
  row := h.col
  cols := h.rows
  col := h.row
  type := h.type
  exp := h.exp

end

/-! ## The record that bytes hold -/

theorem TileRec.code_ofBytes (b : List Byte) {k : Nat} (hk : k < 256) :
    (TileRec.ofBytes b).codes.getD k 0 = (b.getD (k / 2) 0).toNat / 16 ^ (k % 2) % 16 := by
  rw [TileRec.ofBytes, getD_map_range _ _ hk]
  rcases Nat.mod_two_eq_zero_or_one k with h | h <;> simp [h]

theorem TileRec.row_ofBytes (b : List Byte) {i : Nat} (hi : i < 16) :
    (TileRec.ofBytes b).rows.getD i 0 = (b.getD (128 + i / 4) 0).toNat / 4 ^ (i % 4) % 4 := getD_map_range _ _ hi

theorem TileRec.col_ofBytes (b : List Byte) {j : Nat} (hj : j < 16) :
    (TileRec.ofBytes b).cols.getD j 0 = (b.getD (132 + j / 4) 0).toNat / 4 ^ (j % 4) % 4 := getD_map_range _ _ hj

theorem TileRec.type_ofBytes (b : List Byte) : (TileRec.ofBytes b).type = (b.getD 136 0).toNat / 64 := rfl

theorem TileRec.exp_ofBytes (b : List Byte) : (TileRec.ofBytes b).exp = (b.getD 136 0).toNat % 64 := rfl

theorem TileRec.fits_ofBytes (b : List Byte) : (TileRec.ofBytes b).Fits where
  codes := by simp [TileRec.ofBytes]
  code := getD_lt_of_lt (n := 256) (by simp [TileRec.ofBytes]) (by decide) fun k hk => by
    rw [TileRec.code_ofBytes b hk]
    exact Nat.mod_lt _ (by decide)
  rows := by simp [TileRec.ofBytes]
  row := getD_lt_of_lt (n := 16) (by simp [TileRec.ofBytes]) (by decide) fun i hi => by
    rw [TileRec.row_ofBytes b hi]
    exact Nat.mod_lt _ (by decide)
  cols := by simp [TileRec.ofBytes]
  col := getD_lt_of_lt (n := 16) (by simp [TileRec.ofBytes]) (by decide) fun j hj => by
    rw [TileRec.col_ofBytes b hj]
    exact Nat.mod_lt _ (by decide)
  type := by
    have hbyte := (b.getD 136 0).isLt
    rw [TileRec.type_ofBytes]
    omega
  exp := Nat.mod_lt _ (by decide)

/-- A record is read back from its bytes. -/
theorem TileRec.ofBytes_bytes {r : TileRec} (h : r.Fits) : TileRec.ofBytes r.bytes = r := by
  have hread := TileRec.fits_ofBytes r.bytes
  have hcodes : (TileRec.ofBytes r.bytes).codes = r.codes := ext_getD hread.codes h.codes fun k hk => by
    obtain ⟨q, hq⟩ := Nat.even_or_odd' k
    have hlow := h.code (2 * q)
    have hhigh := h.code (2 * q + 1)
    rw [TileRec.code_ofBytes _ hk, h.codeByte (by omega), show k / 2 = q by omega]
    rcases hq with rfl | rfl
    · rw [Nat.mul_mod_right]
      omega
    · rw [Nat.mul_add_mod, Nat.one_mod, pow_one]
      omega
  have hrows : (TileRec.ofBytes r.bytes).rows = r.rows := ext_getD hread.rows h.rows fun i hi => by
    rw [TileRec.row_ofBytes _ hi, h.rowByte (by omega), microWord_byte h.row hi]
  have hcols : (TileRec.ofBytes r.bytes).cols = r.cols := ext_getD hread.cols h.cols fun j hj => by
    rw [TileRec.col_ofBytes _ hj, h.colByte (by omega), microWord_byte h.col hj]
  have hfit := h.exp
  have htype : (TileRec.ofBytes r.bytes).type = r.type := by
    rw [TileRec.type_ofBytes, h.scaleByte]
    omega
  have hexp : (TileRec.ofBytes r.bytes).exp = r.exp := by
    rw [TileRec.exp_ofBytes, h.scaleByte]
    omega
  calc TileRec.ofBytes r.bytes
    _ = ⟨(TileRec.ofBytes r.bytes).codes, (TileRec.ofBytes r.bytes).rows, (TileRec.ofBytes r.bytes).cols,
          (TileRec.ofBytes r.bytes).type, (TileRec.ofBytes r.bytes).exp⟩ := rfl
    _ = r := by rw [hcodes, hrows, hcols, htype, hexp]

/-! ## Elements -/

/-- The FP32 bits of element (i, j) of a record (06_square_tiles.md R125). -/
def TileRec.element (r : TileRec) (i j : Nat) : Word :=
  (fdq4 (codeTypeOf r.type) (BitVec.ofNat 32 (r.codes.getD (16 * i + j) 0))
    (BitVec.ofInt 32 ((r.exp : Int) - 32 - (r.rows.getD i 0 : Nat) - (r.cols.getD j 0 : Nat)))).val

/-- The FP32 bits of element (i, j) of 144 bytes, each field read where R127 and R128 put it. -/
def elementAt (b : List Byte) (i j : Nat) : Word :=
  (fdq4 (codeTypeOf ((b.getD 136 0).toNat / 64)) (BitVec.ofNat 32 ((b.getD (8 * i + j / 2) 0).toNat / 16 ^ (j % 2) % 16))
    (BitVec.ofInt 32 ((((b.getD 136 0).toNat % 64 : Nat) : Int) - 32 - ((b.getD (128 + i / 4) 0).toNat / 4 ^ (i % 4) % 4 : Nat) -
      ((b.getD (132 + j / 4) 0).toNat / 4 ^ (j % 4) % 4 : Nat)))).val

section
variable {i j : Nat} (hi : i < 16) (hj : j < 16)
include hi hj

theorem elementAt_eq_element (b : List Byte) : elementAt b i j = (TileRec.ofBytes b).element i j := by
  rw [TileRec.element, TileRec.code_ofBytes b (by omega), TileRec.row_ofBytes b hi, TileRec.col_ofBytes b hj,
    show (16 * i + j) / 2 = 8 * i + j / 2 by omega, show (16 * i + j) % 2 = j % 2 by omega]
  rfl

/-- The code of element (j, i) of the transposed record is that of (i, j), and E - r - c is symmetric (06_square_tiles.md R138). -/
theorem TileRec.element_transpose (r : TileRec) : r.transpose.element j i = r.element i j := by
  have hcode : r.transpose.codes.getD (16 * j + i) 0 = r.codes.getD (16 * i + j) 0 := by
    rw [TileRec.transpose, getD_map_range _ _ (by omega), show (16 * j + i) % 16 = i by omega, show (16 * j + i) / 16 = j by omega]
  rw [TileRec.element, TileRec.element, hcode, show r.transpose.rows = r.cols from rfl, show r.transpose.cols = r.rows from rfl,
    show r.transpose.type = r.type from rfl, show r.transpose.exp = r.exp from rfl, sub_right_comm]

theorem elementAt_transpose (b : List Byte) : elementAt (TileRec.ofBytes b).transpose.bytes j i = elementAt b i j := by
  rw [elementAt_eq_element hj hi, TileRec.ofBytes_bytes (TileRec.fits_ofBytes b).transpose, TileRec.element_transpose hi hj,
    elementAt_eq_element hi hj]

end

/-- Code 0 is +0 under every type and at every scale (06_square_tiles.md R124, R129). -/
theorem fdq4_zero (t : CodeType) (b : Word) : fdq4 t 0 b = ⟨0, 0⟩ := by
  have hvalue : q4Value t 0 = (false, 0) := by cases t <;> rfl
  have hround := roundDy_zero true false (max (-400) (min 400 (b.toInt - 6)))
  rw [fdq4, show (0 : Word).toNat % 16 = 0 from rfl, hvalue]
  exact hround

/-- An element whose code's byte is 0 is +0. -/
theorem elementAt_zero {b : List Byte} {i j : Nat} (h : b.getD (8 * i + j / 2) 0 = 0) : elementAt b i j = 0 := by
  rw [elementAt, h, show (0 : Byte).toNat = 0 from rfl, Nat.zero_div, Nat.zero_mod, show BitVec.ofNat 32 0 = 0 from rfl, fdq4_zero]

/-! ## The copy engine -/

theorem EngOp.convert_transpose {o : EngOp} (hcvt : o.cvt = 0) (hfmt : o.fmt = 7) (htrans : o.rtrans = true) {b : List Byte}
    (hb : b.length = 144) : o.convert (Sys2Proof.ofBytes b) = ((TileRec.ofBytes b).transpose.bytes, 0) := by
  have hback : bytesOf 144 (Sys2Proof.ofBytes b) = b := hb ▸ bytesOf_ofBytes b
  rw [EngOp.convert, hcvt]
  simp only [hfmt, htrans, hback, and_self, if_true]

/-- Settles O55: a transposed record is read back whole from its bytes, and its element (j, i) has the code of (i, j) and the same
scale. -/
theorem tileRecords : Obligations.TileRecords := by
  unfold Obligations.TileRecords
  intro b i j hb hi hj
  refine ⟨fun hzero _ _ => ?_, elementAt_transpose hi hj b, fun o hcvt hfmt htrans => EngOp.convert_transpose hcvt hfmt htrans hb⟩
  exact elementAt_zero (hzero _ (by omega))

end Sys2Proof.Machine
end

section
/-! SUPPORT. Words as numbers and as bits: what the operations of the lanes and of the strand give, at every width (07_lane_arith.md
R150, R151, R178). -/

namespace Sys2Proof.Machine

section
variable {w : Nat} (x y : BitVec w) (z : Int) (k : Nat)

/-! ## Sums and products modulo 2^w -/

theorem ofInt_toNat : BitVec.ofInt w x.toNat = x := by rw [BitVec.ofInt_natCast, BitVec.ofNat_toNat, BitVec.setWidth_eq]

theorem sub_eq_ofInt : x - y = BitVec.ofInt w ((x.toNat : Int) - y.toNat) := by
  rw [Int.sub_eq_add_neg, BitVec.ofInt_add, BitVec.ofInt_neg, ofInt_toNat, ofInt_toNat, BitVec.sub_eq_add_neg]

theorem mul_eq_ofNat : x * y = BitVec.ofNat w (x.toNat * y.toNat) := by
  rw [BitVec.ofNat_mul, BitVec.ofNat_toNat, BitVec.ofNat_toNat, BitVec.setWidth_eq, BitVec.setWidth_eq]

theorem add_ofInt : x + BitVec.ofInt w z = BitVec.ofInt w (x.toNat + z) := by rw [BitVec.ofInt_add, ofInt_toNat]

theorem mul_ofInt : x * BitVec.ofInt w z = BitVec.ofInt w (x.toNat * z) := by rw [BitVec.ofInt_mul, ofInt_toNat]

theorem neg_eq_ofInt : 0 - x = BitVec.ofInt w (-(x.toNat : Int)) := by
  rw [BitVec.ofInt_neg, ofInt_toNat]
  exact zero_sub x

/-! ## Shifts -/

theorem shl_eq_ofNat : x <<< k = BitVec.ofNat w (x.toNat * 2 ^ k) := by
  apply BitVec.eq_of_toNat_eq
  rw [BitVec.toNat_shiftLeft, BitVec.toNat_ofNat, Nat.shiftLeft_eq]

theorem shr_eq_ofNat : x >>> k = BitVec.ofNat w (x.toNat / 2 ^ k) := by
  apply BitVec.eq_of_toNat_eq
  rw [BitVec.toNat_ushiftRight, BitVec.toNat_ofNat, Nat.shiftRight_eq_div_pow,
    Nat.mod_eq_of_lt (Nat.lt_of_le_of_lt (Nat.div_le_self _ _) x.isLt)]

theorem sar_eq_ofInt : x.sshiftRight k = BitVec.ofInt w (x.toInt / 2 ^ k) := by
  unfold BitVec.sshiftRight
  rw [Int.shiftRight_eq_div_pow, Nat.cast_pow, Nat.cast_ofNat]

end

/-! ## Two words one after the other -/

theorem append_eq_ofNat {v w : Nat} (x : BitVec v) (y : BitVec w) : x ++ y = BitVec.ofNat (v + w) (x.toNat * 2 ^ w + y.toNat) := by
  apply BitVec.eq_of_toNat_eq
  rw [← Nat.mod_eq_of_lt (x ++ y).isLt, BitVec.toNat_append, ← Nat.shiftLeft_add_eq_or_of_lt y.isLt, Nat.shiftLeft_eq, BitVec.toNat_ofNat]

theorem append_words (hi lo : Word) : (hi ++ lo : Word64) = BitVec.ofNat 64 (hi.toNat * 2 ^ 32 + lo.toNat) := append_eq_ofNat hi lo

theorem toNat_append_words (hi lo : Word) : (hi ++ lo : Word64).toNat = hi.toNat * 2 ^ 32 + lo.toNat := by
  rw [append_words, BitVec.toNat_ofNat, Nat.mod_eq_of_lt (by omega)]

theorem append_halves (hi lo : BitVec 16) : (hi ++ lo : Word) = BitVec.ofNat 32 (hi.toNat * 2 ^ 16 + lo.toNat) := append_eq_ofNat hi lo

/-! ## Minima and maxima -/

section
variable {α β : Type} [LinearOrder β] {f : α → β} (hf : Function.Injective f) (x y : α)
include hf

theorem ite_lt_min : (if f x < f y then x else y) = if f x ≤ f y then x else y := by
  rcases lt_trichotomy (f x) (f y) with h | h | h
  · rw [if_pos h, if_pos h.le]
  · rw [hf h, ite_self, ite_self]
  · rw [if_neg h.not_gt, if_neg h.not_ge]

theorem ite_lt_max : (if f x < f y then y else x) = if f x ≤ f y then y else x := by
  rcases lt_trichotomy (f x) (f y) with h | h | h
  · rw [if_pos h, if_pos h.le]
  · rw [hf h, ite_self, ite_self]
  · rw [if_neg h.not_gt, if_neg h.not_ge]

end

section
variable {w : Nat} (x y : BitVec w)

theorem toInt_injective : Function.Injective (BitVec.toInt (n := w)) := fun _ _ => BitVec.eq_of_toInt_eq

theorem slt_min : (if x.slt y then x else y) = if x.toInt ≤ y.toInt then x else y := by
  rw [← ite_lt_min toInt_injective, BitVec.slt_eq_decide]
  simp only [decide_eq_true_eq]

theorem slt_max : (if x.slt y then y else x) = if x.toInt ≤ y.toInt then y else x := by
  rw [← ite_lt_max toInt_injective, BitVec.slt_eq_decide]
  simp only [decide_eq_true_eq]

theorem ult_min : (if x.ult y then x else y) = if x.toNat ≤ y.toNat then x else y := by
  rw [← ite_lt_min BitVec.toNat_injective, BitVec.ult_eq_decide]
  simp only [decide_eq_true_eq]

theorem ult_max : (if x.ult y then y else x) = if x.toNat ≤ y.toNat then y else x := by
  rw [← ite_lt_max BitVec.toNat_injective, BitVec.ult_eq_decide]
  simp only [decide_eq_true_eq]

end

theorem not_slt {w : Nat} (x y : BitVec w) : (!y.slt x) = decide (x.toInt ≤ y.toInt) := by
  rw [BitVec.slt_eq_decide, ← decide_not, decide_eq_decide, not_lt]

theorem not_ult {w : Nat} (x y : BitVec w) : (!y.ult x) = decide (x.toNat ≤ y.toNat) := by
  rw [BitVec.ult_eq_decide, ← decide_not, decide_eq_decide, not_lt]

/-! ## Bits of a lane's word -/

/-- A word is the one that a test of each of its bits gives. -/
theorem eq_maskOf {x : Word} {f : Nat → Bool} (h : ∀ i < 32, bitAt x i = f i) : x = maskOf f := by
  apply bit_ext
  intro i hi
  rw [h i hi, bitAt_maskOf, decide_eq_true hi, Bool.true_and]

theorem and_eq_maskOf (x y : Word) : x &&& y = maskOf (fun k => bitAt x k && bitAt y k) := eq_maskOf fun _ _ => BitVec.getLsbD_and

theorem or_eq_maskOf (x y : Word) : x ||| y = maskOf (fun k => bitAt x k || bitAt y k) := eq_maskOf fun _ _ => BitVec.getLsbD_or

theorem xor_eq_maskOf (x y : Word) : x ^^^ y = maskOf (fun k => bitAt x k != bitAt y k) := eq_maskOf fun _ _ => BitVec.getLsbD_xor

theorem not_eq_maskOf (x : Word) : ~~~x = maskOf (fun k => !bitAt x k) :=
  eq_maskOf fun i hi => by rw [bitAt, BitVec.getLsbD_not, decide_eq_true hi, Bool.true_and, bitAt]

theorem andn_eq_maskOf (x y : Word) : x &&& ~~~y = maskOf (fun k => bitAt x k && !bitAt y k) := by
  refine eq_maskOf fun i hi => ?_
  rw [bitAt, BitVec.getLsbD_and, BitVec.getLsbD_not, decide_eq_true hi, Bool.true_and, bitAt, bitAt]

/-- Bit k of a word rotated left by r < 32 stood r places lower, counted around. -/
theorem rotl_eq_maskOf (x : Word) {r : Nat} (hr : r < 32) : x.rotateLeft r = maskOf (fun k => bitAt x ((k + 32 - r) % 32)) := by
  refine eq_maskOf fun i hi => ?_
  rw [bitAt, BitVec.getLsbD_rotateLeft, Nat.mod_eq_of_lt hr, decide_eq_true hi, Bool.true_and, bitAt]
  by_cases h : i < r
  · rw [decide_eq_true h, cond_true, show (i + 32 - r) % 32 = 32 - r + i by omega]
  · rw [decide_eq_false h, cond_false, show (i + 32 - r) % 32 = i - r by omega]

/-! ## The high half of a product (07_lane_arith.md R150) -/

theorem mulh32_eq (x y : Word) : mulh32 x y = BitVec.ofInt 32 (x.toInt * y.toInt / 2 ^ 32) := by
  have hp : x.signExtend 64 * y.signExtend 64 = BitVec.ofInt 64 (x.toInt * y.toInt) := (BitVec.ofInt_mul _ _).symm
  apply BitVec.eq_of_toNat_eq
  rw [mulh32, hp, BitVec.toNat_setWidth, BitVec.toNat_ushiftRight, BitVec.toNat_ofInt, BitVec.toNat_ofInt, Nat.shiftRight_eq_div_pow]
  generalize x.toInt * y.toInt = p
  omega

theorem mulhu32_eq (x y : Word) : mulhu32 x y = BitVec.ofNat 32 (x.toNat * y.toNat / 2 ^ 32) := by
  have hp : x.toNat * y.toNat < 2 ^ 64 :=
    calc x.toNat * y.toNat < 2 ^ 32 * 2 ^ 32 := Nat.mul_lt_mul'' x.isLt y.isLt
      _ = 2 ^ 64 := by norm_num
  apply BitVec.eq_of_toNat_eq
  rw [mulhu32, BitVec.toNat_setWidth, BitVec.toNat_ushiftRight, BitVec.toNat_mul, BitVec.toNat_setWidth_of_le (by decide),
    BitVec.toNat_setWidth_of_le (by decide), Nat.mod_eq_of_lt hp, Nat.shiftRight_eq_div_pow, BitVec.toNat_ofNat]

end Sys2Proof.Machine
end

section
/-! SUPPORT. Words with one source, and bit fields (07_lane_arith.md R151 to R155). -/

namespace Sys2Proof.Machine

/-! ## Absolute value, sums with a product or a shifted word -/

theorem bitAt_31 (x : Word) : bitAt x 31 = decide (2 ^ 31 ≤ x.toNat) := by
  rw [bitAt, ← BitVec.msb_eq_getLsbD_last x, BitVec.msb_eq_decide]

theorem abs32_eq (x : Word) : abs32 x = BitVec.ofNat 32 x.toInt.natAbs := by
  have hx := x.isLt
  apply BitVec.eq_of_toNat_eq
  rw [abs32, bitAt_31, BitVec.toInt_eq_toNat_cond, BitVec.toNat_ofNat]
  by_cases h : 2 ^ 31 ≤ x.toNat
  · rw [decide_eq_true h, if_pos rfl, BitVec.toNat_sub, if_neg (by omega), show (0 : Word).toNat = 0 from rfl]
    omega
  · rw [decide_eq_false h, if_neg Bool.false_ne_true, if_pos (by omega)]
    omega

theorem mul_add_eq_ofNat (x y z : Word) : x * y + z = BitVec.ofNat 32 (x.toNat * y.toNat + z.toNat) := by
  rw [BitVec.ofNat_add, ← mul_eq_ofNat, BitVec.ofNat_toNat, BitVec.setWidth_eq]

theorem add_shl_eq_ofNat (x y : Word) (k : Nat) : x + y <<< k = BitVec.ofNat 32 (x.toNat + y.toNat * 2 ^ k) := by
  rw [BitVec.ofNat_add, ← shl_eq_ofNat, BitVec.ofNat_toNat, BitVec.setWidth_eq]

/-! ## Counts of bits -/

theorem length_takeWhile_not {α : Type} (p : α → Bool) (l : List α) : (l.takeWhile (fun a => !p a)).length = l.findIdx p := by
  simp only [List.takeWhile_eq_take_findIdx_not, List.length_take, Nat.min_eq_left List.findIdx_le_length, Bool.not_not]

/-- The highest one bit of a word other than 0 is that of its logarithm. -/
theorem clz32_eq (x : Word) : clz32 x = BitVec.ofNat 32 (laneList.takeWhile (fun k => !bitAt x (31 - k))).length := by
  rw [clz32, length_takeWhile_not]
  congr 1
  by_cases h : x = 0
  · rw [if_pos h, eq_comm]
    exact List.findIdx_eq_length.mpr (fun k _ => by rw [h]; exact BitVec.getLsbD_zero)
  · have hn : x.toNat ≠ 0 := fun h0 => h (BitVec.eq_of_toNat_eq h0)
    have hlog : x.toNat.log2 < 32 := (Nat.log2_lt hn).mpr x.isLt
    have hlen : 31 - x.toNat.log2 < laneList.length := by rw [laneList, List.length_range]; omega
    rw [if_neg h, eq_comm, List.findIdx_eq hlen]
    refine ⟨?_, fun j hj => ?_⟩
    · simp only [laneList, List.getElem_range]
      rw [show 31 - (31 - x.toNat.log2) = x.toNat.log2 by omega]
      exact Nat.testBit_log2 hn
    · simp only [laneList, List.getElem_range]
      exact Nat.testBit_lt_two_pow ((Nat.log2_lt hn).mp (by omega))

theorem foldl_count (p : Nat → Bool) (l : List Nat) (c : Nat) :
    l.foldl (fun n i => if p i then n + 1 else n) c = c + (l.filter p).length := by
  induction l generalizing c with
  | nil => rfl
  | cons i l ih =>
    rw [List.foldl_cons, ih, List.filter_cons]
    split
    · rw [List.length_cons]; omega
    · rfl

theorem popc_eq (x : Word) : popc x = (laneList.filter (bitAt x)).length := by rw [popc, foldl_count, Nat.zero_add]

/-! ## Bit fields (07_lane_arith.md R155) -/

theorem bfxVal_zero_fill (x : Word) (p l : BitVec 5) :
    bfxVal false p.toNat (l.toNat + 1) x = BitVec.ofNat 32 (x.toNat / 2 ^ p.toNat % 2 ^ (l.toNat + 1)) := by
  simp only [bfxVal, Bool.false_and, Bool.false_eq_true, if_false]
  rw [BitVec.toNat_ushiftRight, BitVec.toNat_setWidth_of_le (by decide), Nat.shiftRight_eq_div_pow]

/-- Of a number extended with its sign to 64 bits a field within them reads as it does in the number itself. -/
theorem signExtend_field (x : Word) {p len : Nat} (h : p + len ≤ 64) :
    (((x.signExtend 64 >>> p).toNat % 2 ^ len : Nat) : Int) = x.toInt / 2 ^ p % (2 ^ len : Nat) := by
  have hx : ((x.signExtend 64).toNat : Int) = x.toInt % 2 ^ 64 := by
    rw [BitVec.signExtend, BitVec.toNat_ofInt]
    exact Int.toNat_of_nonneg (Int.emod_nonneg _ (by decide))
  have hpow : (2 : Int) ^ 64 = 2 ^ p * (2 ^ len * 2 ^ (64 - p - len)) := by
    rw [← pow_add, ← pow_add]
    congr 1
    omega
  have hmod : x.toInt % 2 ^ 64 = x.toInt + 2 ^ p * (2 ^ len * (2 ^ (64 - p - len) * -(x.toInt / 2 ^ 64))) := by
    rw [Int.emod_def]
    generalize x.toInt / 2 ^ 64 = q
    rw [hpow]
    ring
  rw [BitVec.toNat_ushiftRight, Nat.shiftRight_eq_div_pow]
  push_cast
  rw [hx, hmod, Int.add_mul_ediv_left _ _ (by positivity), Int.add_mul_emod_self_left]

theorem bfxVal_sign (x : Word) (p l : BitVec 5) :
    bfxVal true p.toNat (l.toNat + 1) x = BitVec.ofInt 32 ((x.toInt / 2 ^ p.toNat).bmod (2 ^ (l.toNat + 1))) := by
  have hf := signExtend_field x (p := p.toNat) (len := l.toNat + 1) (by omega)
  have hle : 2 ^ (l.toNat + 1) ≤ 2 ^ 32 := Nat.pow_le_pow_right (by decide) (by omega)
  simp only [bfxVal, if_true, Bool.true_and, decide_eq_true_eq, Nat.add_sub_cancel, Int.bmod]
  rw [← hf]
  generalize (x.signExtend 64 >>> p.toNat).toNat % 2 ^ (l.toNat + 1) = f
  rw [pow_succ 2 l.toNat] at hle ⊢
  generalize 2 ^ l.toNat = m at hle ⊢
  rw [show ((m * 2 : Nat) + 1 : Int) / 2 = m by omega]
  apply BitVec.eq_of_toNat_eq
  split
  · rw [if_neg (by omega), BitVec.toNat_ofNat, BitVec.toNat_ofInt]
    omega
  · rw [if_pos (by omega), BitVec.toNat_ofNat, BitVec.toNat_ofInt]
    omega

theorem bfiVal_eq (x y : Word) (p l : Nat) :
    bfiVal p (l + 1) x y = maskOf (fun j => if p ≤ j ∧ j ≤ p + l then bitAt y (j - p) else bitAt x j) := by
  simp only [bfiVal, ← Nat.add_assoc, Nat.lt_succ_iff]

end Sys2Proof.Machine
end

section
/-! SUPPORT. Integer instructions of the lanes (07_lane_arith.md R145 to R158), and obligations O9, O10 and O11. -/

namespace Sys2Proof.Machine

/-- Settles O9: each instruction is an operation of the lanes on two sources, and its function the one of the table. -/
theorem laneInteger : Obligations.LaneInteger := by
  unfold Obligations.LaneInteger
  intro s n d a b hc
  have hr : ∀ r ∈ srcRes a ++ srcRes b, r ∈ srcRes a ++ srcRes b := fun _ h => h
  have hm (y : Word) : y.toNat % 32 < 32 := Nat.mod_lt _ (by decide)
  exact ⟨laneOp2_gives _ hc hr rfl fun x y => BitVec.add_def x y, laneOp2_gives _ hc hr rfl fun x y => sub_eq_ofInt x y,
    laneOp2_gives _ hc hr rfl fun x y => mul_eq_ofNat x y, laneOp2_gives _ hc hr rfl mulh32_eq, laneOp2_gives _ hc hr rfl mulhu32_eq,
    laneOp2_gives _ hc hr rfl and_eq_maskOf, laneOp2_gives _ hc hr rfl or_eq_maskOf, laneOp2_gives _ hc hr rfl xor_eq_maskOf,
    laneOp2_gives _ hc hr rfl andn_eq_maskOf, laneOp2_gives _ hc hr rfl fun x y => shl_eq_ofNat x _,
    laneOp2_gives _ hc hr rfl fun x y => shr_eq_ofNat x _, laneOp2_gives _ hc hr rfl fun x y => sar_eq_ofInt x _,
    laneOp2_gives _ hc hr rfl fun x y => rotl_eq_maskOf x (hm y), laneOp2_gives _ hc hr rfl slt_min, laneOp2_gives _ hc hr rfl slt_max,
    laneOp2_gives _ hc hr rfl ult_min, laneOp2_gives _ hc hr rfl ult_max⟩

theorem toInt_imm11 (im : BitVec 11) : (imm11 im).toInt = im.toInt := by
  rw [imm11, BitVec.toInt_signExtend_of_le (by decide)]

/-- Settles O10: each instruction is an operation of the lanes on one source, the other operand being that of its encoding. -/
theorem laneImmediate : Obligations.LaneImmediate := by
  unfold Obligations.LaneImmediate
  intro s n d a im p hc
  have hr : ∀ r ∈ srcRes a, r ∈ srcRes a := fun _ h => h
  have hp : (p.setWidth 32).toNat % 32 = p.toNat := by
    rw [BitVec.toNat_setWidth_of_le (by decide), Nat.mod_eq_of_lt p.isLt]
  refine ⟨laneOp1_gives (f := fun x => x + imm11 im) _ hc hr rfl fun x => add_ofInt x _,
    laneOp1_gives (f := fun x => x * imm11 im) _ hc hr rfl fun x => mul_ofInt x _,
    laneOp1_gives (f := fun x => x &&& imm11 im) _ hc hr rfl fun x => and_eq_maskOf x _,
    laneOp1_gives (f := fun x => x ||| imm11 im) _ hc hr rfl fun x => or_eq_maskOf x _,
    laneOp1_gives (f := fun x => x ^^^ imm11 im) _ hc hr rfl fun x => xor_eq_maskOf x _,
    laneOp1_gives (f := fun x => shl32 x (p.setWidth 32)) _ hc hr rfl fun x => ?_,
    laneOp1_gives (f := fun x => shr32 x (p.setWidth 32)) _ hc hr rfl fun x => ?_,
    laneOp1_gives (f := fun x => sar32 x (p.setWidth 32)) _ hc hr rfl fun x => ?_,
    laneOp1_gives (f := fun x => rotl32 x (p.setWidth 32)) _ hc hr rfl fun x => ?_,
    laneOp1_gives (f := fun x => sMin32 x (imm11 im)) _ hc hr rfl fun x => ?_,
    laneOp1_gives (f := fun x => sMax32 x (imm11 im)) _ hc hr rfl fun x => ?_⟩
  · rw [shl32, hp, shl_eq_ofNat]
  · rw [shr32, hp, shr_eq_ofNat]
  · rw [sar32, hp, sar_eq_ofInt]
  · rw [rotl32, hp, rotl_eq_maskOf x p.isLt]
  · rw [sMin32, slt_min, toInt_imm11]; rfl
  · rw [sMax32, slt_max, toInt_imm11]; rfl

/-- An instruction whose one result goes to d. -/
theorem laneOp_gives_value {s : State} {i : Instr} {n : Stall} {len lat : Nat} {u : Nat × Nat} {reads rs : List LRes} {d : Dst} {f g : View → Word}
    (hc : s.Clear rs) (hr : ∀ r ∈ reads, r ∈ rs) (hx : exec i s = laneOp n len lat u (fun _ => reads) (fun v => .val d (f v)) s)
    (hg : ∀ v, f v = g v) : s.Gives i n len (fun v => result d (g v)) :=
  (laneOp_gives hx hc (fun _ _ => hr) (fun _ _ => LaneRes.plain_val _ _) (.inl fun _ _ => rfl)).congr
    (fun _ _ => by rw [LaneRes.effect_val, hg])

theorem srcRes_dstSrc (d : Dst) : srcRes (dstSrc d) = dstRes d := by cases d <;> rfl

/-- The two halves of the sum of addw are one result, of which the low one enters the result history (07_lane_arith.md R153). -/
theorem addw_gives {s : State} {rs : List LRes} {a b : Src} (hc : s.Clear rs) (hr : ∀ q ∈ pairRes a ++ pairRes b, q ∈ rs) (n : Stall)
    (r : BitVec 4) : s.Gives (.addw n (.o r) a b) n 4 (fun v =>
      { o := [(r.toNat, BitVec.ofNat 32 (v.pair 0 a + v.pair 2 b).toNat), (r.toNat + 1, BitVec.ofNat 32 ((v.pair 0 a + v.pair 2 b).toNat / 2 ^ 32))]
        hist := some (BitVec.ofNat 32 (v.pair 0 a + v.pair 2 b).toNat) }) := by
  have hx : exec (.addw n (.o r) a b) s = laneOp n 4 3 (1, 1) (fun _ => pairRes a ++ pairRes b) (fun v =>
      { d := some (.o r, (v.pair 0 a + v.pair 2 b).setWidth 32), wide := true
        wr := [(.o (r.toNat + 1), ((v.pair 0 a + v.pair 2 b) >>> 32).setWidth 32)] }) s := rfl
  refine (laneOp_gives hx hc (fun _ _ => hr) (fun _ _ => ?_) (.inl fun _ _ => rfl)).congr (fun j _ => ?_)
  · simp [LaneRes.Plain]
  · generalize (s.view j).pair 0 a + (s.view j).pair 2 b = t
    have hlow : t.setWidth 32 = BitVec.ofNat 32 t.toNat := (BitVec.ofNat_toNat 32 t).symm
    have hhigh : (t >>> 32).setWidth 32 = BitVec.ofNat 32 (t.toNat / 2 ^ 32) := by
      rw [← BitVec.ofNat_toNat, BitVec.toNat_ushiftRight, Nat.shiftRight_eq_div_pow]
    rw [hlow, hhigh]
    rfl

/-- Settles O11: each instruction but addw is an operation of the lanes with one result; the sum of addw is written as two words of one
result. -/
theorem laneUnaryAndFields : Obligations.LaneUnaryAndFields := by
  unfold Obligations.LaneUnaryAndFields
  refine ⟨fun s n d a b c h hc => ?_, fun s n d r a b l p k im x hc => ?_⟩
  · have ha : ∀ r ∈ srcRes a, r ∈ srcRes a ++ srcRes b ++ srcRes c := fun _ h => List.mem_append_left _ (List.mem_append_left _ h)
    have hab : ∀ r ∈ srcRes a ++ srcRes b, r ∈ srcRes a ++ srcRes b ++ srcRes c := fun _ h => List.mem_append_left _ h
    exact ⟨laneOp1_gives _ hc ha rfl fun x => neg_eq_ofInt x, laneOp1_gives _ hc ha rfl abs32_eq, laneOp1_gives _ hc ha rfl not_eq_maskOf,
      laneOp1_gives _ hc ha rfl clz32_eq, laneOp1_gives _ hc ha rfl fun x => congrArg _ (popc_eq x), laneOp1_gives _ hc ha rfl fun _ => rfl,
      laneOp1_gives (f := fun x => x) _ hc ha rfl fun _ => rfl,
      laneOp3_gives _ hc (fun _ h => h) rfl mul_add_eq_ofNat, laneOp2_gives _ hc hab rfl fun x y => add_shl_eq_ofNat x y _⟩
  · generalize hrs : LRes.mk k.toNat :: dstRes d ++ srcRes a ++ srcRes b ++ pairRes a ++ pairRes b = rs at hc
    have hd : ∀ q ∈ srcRes (dstSrc d), q ∈ rs := fun q h => by rw [srcRes_dstSrc] at h; simp [← hrs, h]
    have ha : ∀ q ∈ srcRes a, q ∈ rs := fun q h => by simp [← hrs, h]
    have hda : ∀ q ∈ srcRes (dstSrc d) ++ srcRes a, q ∈ rs := fun q h => (List.mem_append.mp h).elim (hd q) (ha q)
    have hkab : ∀ q ∈ LRes.mk k.toNat :: srcRes a ++ srcRes b, q ∈ rs := fun q h => by
      rw [← hrs]
      simp only [List.mem_append, List.mem_cons] at h ⊢
      tauto
    have hpairs : ∀ q ∈ pairRes a ++ pairRes b, q ∈ rs := fun q h => by
      rw [← hrs, List.append_assoc]
      exact List.mem_append_right _ h
    intro pair sum
    have hpair (v : View) (j : Nat) (q : Src) : (v.pair j q).toNat = pair v j q := by
      cases q with
      | o c => exact toNat_append_words _ _
      | _ => rfl
    have hsum (v : View) : (v.pair 0 a + v.pair 2 b).toNat = sum v := by rw [BitVec.toNat_add, hpair, hpair]
    exact ⟨laneOp_gives_value (f := fun v => bfxVal false p.toNat (l.toNat + 1) (v.src 0 a)) hc ha rfl fun v => bfxVal_zero_fill _ p l,
      laneOp_gives_value (f := fun v => bfxVal true p.toNat (l.toNat + 1) (v.src 0 a)) hc ha rfl fun v => bfxVal_sign _ p l,
      laneOp_gives_value (f := fun v => bfiVal p.toNat (l.toNat + 1) (v.src 0 (dstSrc d)) (v.src 1 a)) hc hda rfl fun v => bfiVal_eq _ _ _ _,
      laneOp_gives_value (f := fun v => if v.maskBit 2 k.toNat then v.src 0 a else v.src 1 b) hc hkab rfl fun _ => rfl,
      laneOp_gives_value (f := fun _ => imm11 im) hc (List.nil_subset _) rfl fun _ => rfl,
      laneOp_gives_value (f := fun _ => x) hc (List.nil_subset _) rfl fun _ => rfl,
      (addw_gives hc hpairs n r).congr (fun j _ => by rw [hsum])⟩

end Sys2Proof.Machine
end

section
/-! SUPPORT. Packed halves (07_lane_arith.md R159, R160), and obligation O12. -/

namespace Sys2Proof.Machine

/-- A half of a word: 0 the low one, 1 the high one. -/
def halfOf (x : Word) (h : Nat) : BitVec 16 := BitVec.ofNat 16 (x.toNat / 2 ^ (16 * h))

theorem extract_half (x : Word) (h : Nat) : x.extractLsb' (16 * h) 16 = halfOf x h := by
  rw [halfOf, BitVec.extractLsb', Nat.shiftRight_eq_div_pow]

/-- No half of the sources reaches the other half of the result. -/
theorem halves_eq {f g : BitVec 16 → BitVec 16 → BitVec 16} (hfg : ∀ x y, f x y = g x y) (x y : Word) :
    halves f x y = BitVec.ofNat 32 ((g (halfOf x 1) (halfOf y 1)).toNat * 2 ^ 16 + (g (halfOf x 0) (halfOf y 0)).toNat) := by
  rw [← append_halves, ← hfg, ← hfg, ← extract_half, ← extract_half, ← extract_half, ← extract_half]
  rfl

/-- An instruction on the halves of two sources. -/
theorem halves_gives {s : State} {i : Instr} {n : Stall} {lat : Nat} {u : Nat × Nat} {d : Dst} {a b : Src} {f : BitVec 16 → BitVec 16 → BitVec 16}
    (g : BitVec 16 → BitVec 16 → BitVec 16) (hc : s.Clear (srcRes a ++ srcRes b)) (hx : exec i s = laneOp2 n lat u d a b (halves f) s)
    (hfg : ∀ x y, f x y = g x y) :
    s.Gives2 n d a b i (fun x y => BitVec.ofNat 32 ((g (halfOf x 1) (halfOf y 1)).toNat * 2 ^ 16 + (g (halfOf x 0) (halfOf y 0)).toNat)) :=
  laneOp2_gives _ hc (fun _ h => h) hx (halves_eq hfg)

theorem toNat_half_low (x : Word) : (halfOf x 0).toNat = field x 15 0 := BitVec.toNat_ofNat _ _

theorem toNat_half_high (x : Word) : (halfOf x 1).toNat = field x 31 16 := BitVec.toNat_ofNat _ _

/-- One half of acs2: the smaller sum, and whether it is the second one. -/
theorem acsHalf_eq (p m q r : Nat) : acsHalf p m q r =
    (min (min 65535 (p + m)) (min 65535 (q + r)), decide (min 65535 (q + r) < min 65535 (p + m))) := by
  simp only [acsHalf]
  generalize min 65535 (p + m) = x
  generalize min 65535 (q + r) = y
  split
  · rename_i h
    rw [Nat.min_eq_left h, decide_eq_false h.not_gt]
  · rename_i h
    rw [Nat.min_eq_right (Nat.le_of_not_le h), decide_eq_true (Nat.lt_of_not_le h)]

theorem effect_result_mkb (d : Dst) (x : Word) (qs : List (Nat × Bool)) :
    ({ d := some (d, x), mkb := qs } : LaneRes).effect = { result d x with mkb := qs.reverse } := by
  cases d <;> rfl

/-- acs2 gives the smaller sums of the two halves, and which they are. -/
theorem acs2_gives {s : State} {a b : Src} (hc : s.Clear (srcRes a ++ srcRes b)) (hcalm : s.Calm) (n : Stall) (d : Dst) (k : BitVec 4) :
    s.Gives (.acs2 n d a b k) n 4 (fun v =>
      let h0 := acsHalf (halfOf (v.src 0 a) 0).toNat (halfOf (v.src 1 b) 0).toNat (halfOf (v.src 0 a) 1).toNat (halfOf (v.src 1 b) 1).toNat
      let h1 := acsHalf (halfOf (v.src 0 a) 0).toNat (halfOf (v.src 1 b) 1).toNat (halfOf (v.src 0 a) 1).toNat (halfOf (v.src 1 b) 0).toNat
      { result d (BitVec.ofNat 32 (h1.1 * 2 ^ 16 + h0.1)) with mkb := [(k.toNat + 1, h1.2), (k.toNat, h0.2)] }) := by
  have hx : exec (.acs2 n d a b k) s = laneOp n 4 2 (6, 1) (fun _ => srcRes a ++ srcRes b) (fun v =>
      let h0 := acsHalf (field (v.src 0 a) 15 0) (field (v.src 1 b) 15 0) (field (v.src 0 a) 31 16) (field (v.src 1 b) 31 16)
      let h1 := acsHalf (field (v.src 0 a) 15 0) (field (v.src 1 b) 31 16) (field (v.src 0 a) 31 16) (field (v.src 1 b) 15 0)
      { d := some (d, BitVec.ofNat 32 (h1.1 * 2 ^ 16 + h0.1)), mkb := [(k.toNat, h0.2), (k.toNat + 1, h1.2)] }) s := rfl
  simp only [← toNat_half_low, ← toNat_half_high] at hx
  refine (laneOp_gives hx hc (fun _ _ _ h => h) (fun _ _ => ?_) (.inr hcalm)).congr (fun j _ => effect_result_mkb _ _ _)
  simp [LaneRes.Plain]

/-- Settles O12: each instruction but acs2 is a function of each half; acs2 is a result with two bits of masks. -/
theorem packedHalves : Obligations.PackedHalves := by
  unfold Obligations.PackedHalves
  intro s n d a b k hc half both each clamp
  exact ⟨halves_gives (fun x y => BitVec.ofNat 16 (x.toNat + y.toNat)) hc rfl fun x y => BitVec.add_def x y,
    halves_gives (fun x y => BitVec.ofInt 16 ((x.toNat : Int) - y.toNat)) hc rfl fun x y => sub_eq_ofInt x y,
    halves_gives (fun x y => clamp (x.toInt + y.toInt)) hc rfl fun _ _ => rfl,
    halves_gives (fun x y => clamp (x.toInt - y.toInt)) hc rfl fun _ _ => rfl,
    halves_gives (fun x y => if x.toInt ≤ y.toInt then x else y) hc rfl slt_min,
    halves_gives (fun x y => if x.toInt ≤ y.toInt then y else x) hc rfl slt_max,
    halves_gives (fun x y => if x.toNat ≤ y.toNat then x else y) hc rfl ult_min,
    halves_gives (fun x y => if x.toNat ≤ y.toNat then y else x) hc rfl ult_max,
    fun hcalm => (acs2_gives hc hcalm n d k).congr (fun j _ => by rw [acsHalf_eq, acsHalf_eq]; rfl)⟩

end Sys2Proof.Machine
end

section
/-! SUPPORT. Comparisons and instructions on masks (07_lane_arith.md R157, R163, 14_control_instr.md R388), and obligation O13. -/

namespace Sys2Proof.Machine

/-- The lowest lane of a mask, 32 for none, is the number of the lanes before it. -/
theorem headD_lanesOf (m : Word) : (lanesOf m).headD 32 = (laneList.takeWhile (fun i => !bitAt m i)).length := by
  rw [length_takeWhile_not, lanesOf, List.headD_eq_head?_getD, List.head?_filter, List.find?_eq_getElem?_findIdx]
  simp only [laneList]
  rcases Nat.lt_or_ge ((List.range 32).findIdx (bitAt m)) 32 with h | h
  · rw [List.getElem?_range h]
    rfl
  · have hle : (List.range 32).findIdx (bitAt m) ≤ (List.range 32).length := List.findIdx_le_length
    rw [List.length_range] at hle
    rw [Nat.le_antisymm hle h]
    rfl

/-- The relation that cmp tests (07_lane_arith.md R157). -/
def intHolds (c : IntCond) (x y : Word) : Prop :=
  match c with
  | .eq => x = y
  | .ne => x ≠ y
  | .lt => x.toInt < y.toInt
  | .le => x.toInt ≤ y.toInt
  | .gt => y.toInt < x.toInt
  | .ge => y.toInt ≤ x.toInt
  | .ltu => x.toNat < y.toNat
  | .leu => x.toNat ≤ y.toNat
  | .gtu => y.toNat < x.toNat
  | .geu => y.toNat ≤ x.toNat

theorem intCompare_iff (c : IntCond) (x y : Word) : intCompare c x y = true ↔ intHolds c x y := by
  cases c with
  | eq => exact decide_eq_true_iff
  | ne => exact (Bool.eq_iff_iff.mp decide_not.symm).trans decide_eq_true_iff
  | lt => exact BitVec.slt_iff_toInt_lt
  | le => exact (Bool.eq_iff_iff.mp (not_slt x y)).trans decide_eq_true_iff
  | gt => exact BitVec.slt_iff_toInt_lt
  | ge => exact (Bool.eq_iff_iff.mp (not_slt y x)).trans decide_eq_true_iff
  | ltu => exact BitVec.ult_iff_lt
  | leu => exact (Bool.eq_iff_iff.mp (not_ult x y)).trans decide_eq_true_iff
  | gtu => exact BitVec.ult_iff_lt
  | geu => exact (Bool.eq_iff_iff.mp (not_ult y x)).trans decide_eq_true_iff

/-- An instruction that writes each executing lane's own bit of a mask, and raises flags. -/
theorem laneOp_gives_bit {s : State} {i : Instr} {n : Stall} {lat k : Nat} {u : Nat × Nat} {reads rs : List LRes} (f : View → Bool)
    (g : View → Nat) (hk : s.Calm) (hc : s.Clear rs) (hr : ∀ r ∈ reads, r ∈ rs)
    (hx : exec i s = laneOp n 4 lat u (fun _ => reads) (fun v => { mkb := [(k, f v)], flags := g v }) s) :
    s.Gives i n 4 (fun v => { mkb := [(k, f v)], flags := g v }) :=
  laneOp_gives hx hc (fun _ _ => hr) (fun _ _ => ⟨rfl, rfl, rfl, rfl, rfl, rfl, nofun⟩) (.inr hk)

/-- Settles O13: the instructions that write masks write one bit in each lane; mpop and mfirst give one result. -/
theorem maskInstructions : Obligations.MaskInstructions := by
  unfold Obligations.MaskInstructions
  intro s n d a b k j l c f hk hc holds
  generalize hrs : LRes.mk j.toNat :: LRes.mk l.toNat :: srcRes a ++ srcRes b = rs at hc
  have hj : ∀ r ∈ [LRes.mk j.toNat], r ∈ rs := by simp [← hrs]
  have hjl : ∀ r ∈ [LRes.mk j.toNat, LRes.mk l.toNat], r ∈ rs := by simp [← hrs]
  have ha : ∀ r ∈ srcRes a, r ∈ rs := fun r h => by simp [← hrs, h]
  have hab : ∀ r ∈ srcRes a ++ srcRes b, r ∈ rs := fun r h => hrs ▸ List.mem_cons_of_mem _ (List.mem_cons_of_mem _ h)
  exact ⟨⟨_, laneOp_gives_bit (fun v => intCompare c (v.src 0 a) (v.src 1 b)) (fun _ => 0) hk hc hab rfl,
      fun v => ⟨_, rfl, intCompare_iff c _ _⟩⟩,
    laneOp_gives_bit (fun v => (fCompare f (bitAt v.w.trec.flags 0) (v.src 0 a) (v.src 1 b)).val)
      (fun v => (fCompare f (bitAt v.w.trec.flags 0) (v.src 0 a) (v.src 1 b)).flags) hk hc hab rfl,
    laneOp_gives_bit _ (fun _ => 0) hk hc hjl rfl, laneOp_gives_bit _ (fun _ => 0) hk hc hjl rfl,
    laneOp_gives_bit _ (fun _ => 0) hk hc hj rfl, laneOp_gives_bit _ (fun _ => 0) hk hc ha rfl,
    laneOp_gives_value hc (List.nil_subset _) rfl fun v => congrArg _ (popc_eq _),
    laneOp_gives_value hc hj rfl fun v => congrArg _ (headD_lanesOf _)⟩

end Sys2Proof.Machine
end

section
/-! SUPPORT. Uniform arithmetic (07_lane_arith.md R178 to R180), and obligation O22. -/

namespace Sys2Proof.Machine

theorem State.StrandClear.mono {s : State} {rs rs' : List Nat} (h : s.StrandClear rs) (hr : ∀ r ∈ rs', r ∈ rs) : s.StrandClear rs' := by
  obtain ⟨hconv, htold, hg, hgap⟩ := h
  exact ⟨hconv, htold, hg, fun hchk p hp hm => hgap hchk p hp (hr _ hm)⟩

section
variable {s : State} {i : Instr} {n : Stall} {len lat kind : Nat} {u : Nat × Nat} {d a b : BitVec 6} {rs : List Nat} {v : Word64}

/-- A uniform instruction with one result, whose sources are among the registers outside their gaps. -/
theorem strandOp_gives_value {f : State → Word64} {reads : List Nat} (h : s.StrandClear rs) (hr : ∀ r ∈ reads, r ∈ rs)
    (hx : exec i s = strandOp u reads (fun s => s.putS n.toNat len lat d.toNat (f s)) s) (hv : f s = v) :
    s.StrandGives i n len { s := [(d.toNat, v)] } :=
  hv ▸ strandOp_gives hx (h.mono hr)

/-- A uniform instruction on two s-registers. -/
theorem sOp2_gives {f : Word64 → Word64 → Word64} (h : s.StrandClear rs) (hr : ∀ r ∈ [a.toNat, b.toNat], r ∈ rs)
    (hx : exec i s = sOp2 n lat kind d a b f s) (hv : f (s.sval s.cur.warp 0 a.toNat) (s.sval s.cur.warp 1 b.toNat) = v) :
    s.StrandGives i n 4 { s := [(d.toNat, v)] } :=
  strandOp_gives_value h hr hx hv

/-- A uniform instruction on one s-register. -/
theorem sOp1_gives {f : Word64 → Word64} (h : s.StrandClear rs) (hr : ∀ r ∈ [a.toNat], r ∈ rs)
    (hx : exec i s = sOp1 n 4 lat kind d a f s) (hv : f (s.sval s.cur.warp 0 a.toNat) = v) : s.StrandGives i n 4 { s := [(d.toNat, v)] } :=
  strandOp_gives_value h hr hx hv

end

theorem toInt_imm9 (im : BitVec 9) : (imm9 im).toInt = im.toInt := by
  rw [imm9, BitVec.toInt_signExtend_of_le (by decide)]

/-- Settles O22: each instruction is an operation of the strand with one result. -/
theorem strandArithmetic : Obligations.StrandArithmetic := by
  unfold Obligations.StrandArithmetic
  refine ⟨fun s n d a b c h => ?_, fun s n d a p im lo hi h => ?_⟩
  · have hab : ∀ r ∈ [a.toNat, b.toNat], r ∈ [a.toNat, b.toNat, c.toNat] := List.sublist_append_left [a.toNat, b.toNat] [c.toNat] |>.subset
    have ha : ∀ r ∈ [a.toNat], r ∈ [a.toNat, b.toNat, c.toNat] := List.sublist_append_left [a.toNat] [b.toNat, c.toNat] |>.subset
    intro r x y gives nat int flag
    have cmp (k : SCond) (q : Prop) [Decidable q] (hq : sCompare k x y = decide q) : gives (.scmp n d a b k) (flag (decide q)) :=
      sOp2_gives (f := fun x y => if sCompare k x y then 1 else 0) h hab rfl (by rw [← hq])
    refine ⟨sOp2_gives h hab rfl (BitVec.add_def x y), sOp2_gives h hab rfl (sub_eq_ofInt x y), sOp2_gives h hab rfl (mul_eq_ofNat x y),
      sOp2_gives h hab rfl rfl, sOp2_gives h hab rfl rfl, sOp2_gives h hab rfl rfl, sOp2_gives h hab rfl (slt_min x y),
      sOp2_gives h hab rfl (slt_max x y), sOp2_gives h hab rfl (ult_min x y), sOp2_gives h hab rfl (ult_max x y),
      sOp2_gives h hab rfl (shl_eq_ofNat x _), sOp2_gives h hab rfl (shr_eq_ofNat x _), sOp2_gives h hab rfl (sar_eq_ofInt x _),
      sOp1_gives (f := fun x => x) h ha rfl rfl, cmp .eq _ rfl, cmp .ne _ decide_not.symm, cmp .lt _ BitVec.slt_eq_decide, cmp .le _ (not_slt x y),
      cmp .ltu _ BitVec.ult_eq_decide, cmp .leu _ (not_ult x y), ?_⟩
    exact strandOp_gives_value (f := fun s => if s.sval s.cur.warp 2 c.toNat = 0 then s.sval s.cur.warp 1 b.toNat else s.sval s.cur.warp 0 a.toNat)
      h (fun _ h => h) rfl (ite_not _ _ _).symm
  · have ha : ∀ r ∈ [a.toNat], r ∈ [a.toNat] := fun _ h => h
    have hp : (p.setWidth 64).toNat % 64 = p.toNat := by rw [BitVec.toNat_setWidth_of_le (by decide), Nat.mod_eq_of_lt p.isLt]
    intro x y gives
    refine ⟨sOp1_gives (f := fun x => x + imm9 im) h ha rfl (add_ofInt x _),
      sOp1_gives (f := fun x => x * imm9 im) h ha rfl (mul_ofInt x _), sOp1_gives (f := fun x => x &&& imm9 im) h ha rfl rfl,
      sOp1_gives (f := fun x => x ||| imm9 im) h ha rfl rfl, sOp1_gives (f := fun x => x ^^^ imm9 im) h ha rfl rfl,
      sOp1_gives (f := fun x => sMin64 x (imm9 im)) h ha rfl ?_,
      sOp1_gives (f := fun x => sMax64 x (imm9 im)) h ha rfl ?_,
      sOp1_gives (f := fun x => shl64 x (p.setWidth 64)) h ha rfl ?_, sOp1_gives (f := fun x => shr64 x (p.setWidth 64)) h ha rfl ?_,
      sOp1_gives (f := fun x => sar64 x (p.setWidth 64)) h ha rfl ?_, strandOp_gives_value (f := fun _ => imm9 im) h (List.nil_subset _) rfl rfl,
      strandOp_gives_value (f := fun _ => lo.signExtend 64) h (List.nil_subset _) rfl rfl,
      strandOp_gives_value (f := fun _ => hi ++ lo) h (List.nil_subset _) rfl (append_words hi lo)⟩
    · rw [sMin64, slt_min, toInt_imm9]; rfl
    · rw [sMax64, slt_max, toInt_imm9]; rfl
    · rw [shl64, hp, shl_eq_ofNat]
    · rw [shr64, hp, shr_eq_ofNat]
    · rw [sar64, hp, sar_eq_ofInt]

end Sys2Proof.Machine
end

section
/-! SUPPORT. Rounds of which every lane has come: shfl, vote and wred (07_lane_arith.md R168 to R171). -/

namespace Sys2Proof.Machine

/-! ## A round that is complete at once -/

/-- The executing lanes are the present lanes of a mask, and each reads its own bit so. -/
structure State.WholeRound (s : State) (mk : Nat) : Prop where
  present : ∀ i, i ∈ s.execLanes ↔ i ∈ lanesOf ((s.warp s.cur.warp).maskSeen s.cur.second mk &&& (s.warp s.cur.warp).live)
  inside : ∀ i ∈ s.execLanes, s.inRound mk i = true

theorem Warp.waiters_calm {w : Warp} (h : ∀ i ∈ lanesOf w.live, (w.lane i).wait = .none) (mk : Nat) (pc : Addr) : w.waiters mk pc = [] := by
  refine List.filter_eq_nil_iff.mpr (fun i hi => ?_)
  rw [h i hi]
  simp

theorem filter_contains_lanesOf (m : Word) : laneList.filter (fun i => (lanesOf m).contains i) = lanesOf m := by
  refine List.filter_congr (fun i hi => ?_)
  rw [Bool.eq_iff_iff, List.contains_iff_mem, mem_lanesOf]
  exact and_iff_right (List.mem_range.mp hi)

/-- Why an arriving lane is turned away from a round, if it is (07_lane_arith.md R168). -/
def State.turnedBy (s : State) (u : Nat × Nat) (mk : Nat) (reads : View → List LRes) (i : Nat) : Option Nat :=
  match { s with glitch := none }.laneCheck u reads i with
  | some c => some c
  | none => if s.inRound mk i then none else some 0x06

/-- The lanes that are at a round once the executing lanes have arrived. -/
def State.cameTo (s : State) (u : Nat × Nat) (mk : Nat) (reads : View → List LRes) : List Nat :=
  s.execLanes.filter (fun i => (s.turnedBy u mk reads i).isNone) ++ (s.warp s.cur.warp).waiters mk s.groupPc

theorem State.arrive_eq (s : State) (u : Nat × Nat) (mk : Nat) (reads : View → List LRes) : s.arrive u mk reads =
    { turned := s.execLanes.filterMap (fun i => (s.turnedBy u mk reads i).map (fun c => (i, c)))
      inst := laneList.filter (fun i => (s.cameTo u mk reads).contains i)
      complete := (lanesOf ((s.warp s.cur.warp).maskSeen s.cur.second mk &&& (s.warp s.cur.warp).live)).all
        (fun i => (s.cameTo u mk reads).contains i) } := rfl

section
variable {s : State} {mk : Nat} {u : Nat × Nat} {reads rs : List LRes}

theorem State.turnedBy_none (hr : s.WholeRound mk) (hc : s.Clear rs) (hreads : ∀ r ∈ reads, r ∈ rs) {i : Nat} (hi : i ∈ s.execLanes) :
    s.turnedBy u mk (fun _ => reads) i = none := by
  have hcheck : State.laneCheck { s with glitch := none } u (fun _ => reads) i = none :=
    State.laneCheck_clear (s := { s with glitch := none }) (rs := fun _ => rs) ⟨rfl, hc.2⟩ u _ i hi hreads
  rw [State.turnedBy, hcheck]
  exact if_pos (hr.inside i hi)

/-- Nobody is turned away, and nobody has to be waited for. -/
theorem State.arrive_whole (hr : s.WholeRound mk) (hk : s.Calm) (hc : s.Clear rs) (hreads : ∀ r ∈ reads, r ∈ rs) :
    s.arrive u mk (fun _ => reads) = ⟨[], s.execLanes, true⟩ := by
  have hnone (i : Nat) (hi : i ∈ s.execLanes) : s.turnedBy u mk (fun _ => reads) i = none := State.turnedBy_none hr hc hreads hi
  have hcame : s.cameTo u mk (fun _ => reads) = s.execLanes := by
    rw [State.cameTo, Warp.waiters_calm hk, List.append_nil]
    exact List.filter_eq_self.mpr (fun i hi => by rw [hnone i hi]; rfl)
  rw [State.arrive_eq, hcame]
  congr 1
  · exact List.filterMap_eq_nil_iff.mpr (fun i hi => by rw [hnone i hi]; rfl)
  · exact filter_contains_lanesOf _
  · exact List.all_eq_true.mpr (fun i hi => List.contains_iff_mem.mpr ((hr.present i).mpr hi))

theorem roundOp_whole (hr : s.WholeRound mk) (hk : s.Calm) (hc : s.Clear rs) (hreads : ∀ r ∈ reads, r ∈ rs) (n : Stall) (lat : Nat)
    (f : List Nat → Nat → LaneRes) : roundOp n lat u mk (fun _ => reads) f s =
      .next (s.finishLanes s.cur.warp 4 lat n.toNat u (s.execLanes.map (fun i => (i, f s.execLanes i)))) := by
  have hin : s.execLanes.filter (fun i => s.inRound mk i) = s.execLanes := List.filter_eq_self.mpr hr.inside
  have hout : s.execLanes.filter (fun i => !s.inRound mk i) = [] := List.filter_eq_nil_iff.mpr (fun i hi => by rw [hr.inside i hi]; simp)
  unfold roundOp
  rw [State.arrive_whole hr hk hc hreads]
  simp only [hin, hout, hc.1, if_true, Option.isSome_none, Bool.false_eq_true, if_false, List.map_nil, List.append_nil]

/-- An instruction whose round is complete at once gives each lane its result over all. -/
theorem roundOp_gives {i : Instr} {n : Stall} {lat : Nat} {f : List Nat → Nat → LaneRes} (hr : s.WholeRound mk) (hk : s.Calm) (hc : s.Clear rs)
    (hreads : ∀ r ∈ reads, r ∈ rs) (hx : exec i s = roundOp n lat u mk (fun _ => reads) f s) (hp : ∀ j, (f s.execLanes j).Plain) :
    s.Gives i n 4 (fun v => (f s.execLanes v.i).effect) :=
  ⟨_, hx.trans (roundOp_whole hr hk hc hreads n lat f), State.finishLanes_plain s 4 lat n u (f s.execLanes) (fun j _ => hp j) (.inr hk)⟩

end

/-! ## shfl (07_lane_arith.md R169) -/

/-- The lane that shfl names, if it is one. -/
def shflLane (m : ShflMode) (i : Nat) (b : Word) : Int :=
  match m with
  | .idx => b.toNat
  | .up => (i : Int) - b.toNat
  | .down => i + b.toNat
  | .xor => (BitVec.ofNat 32 i ^^^ b).toNat

theorem shflFrom_eq (m : ShflMode) {i : Nat} (hi : i < 32) (b : Word) :
    shflFrom m i b = if 0 ≤ shflLane m i b then some (shflLane m i b).toNat else none := by
  cases m with
  | idx => exact (if_pos (Int.natCast_nonneg _)).symm
  | up =>
    change (if b.toNat ≤ i then some (i - b.toNat) else none) = if 0 ≤ (i : Int) - b.toNat then some ((i : Int) - b.toNat).toNat else none
    by_cases h : b.toNat ≤ i
    · rw [if_pos h, if_pos (by omega)]
      congr 1
      omega
    · rw [if_neg h, if_neg (by omega)]
  | down => exact (if_pos (Int.natCast_nonneg (i + b.toNat))).symm
  | xor =>
    have hx : (BitVec.ofNat 32 i ^^^ b).toNat = i ^^^ b.toNat := by
      rw [BitVec.toNat_xor, BitVec.toNat_ofNat, Nat.mod_eq_of_lt (by omega)]
    simp only [shflFrom, shflLane, hx]
    exact (if_pos (Int.natCast_nonneg _)).symm

/-- The lane whose value lane i takes where some lanes take part. -/
def shflSource (m : ShflMode) (i : Nat) (b : Word) (is : List Nat) : Nat :=
  match shflFrom m i b with
  | some j => if is.contains j then j else i
  | none => i

theorem shflSource_eq (m : ShflMode) {i : Nat} (hi : i < 32) (b : Word) (is : List Nat) : shflSource m i b is =
    if 0 ≤ shflLane m i b ∧ (shflLane m i b).toNat ∈ is then (shflLane m i b).toNat else i := by
  rw [shflSource, shflFrom_eq m hi]
  by_cases h : 0 ≤ shflLane m i b
  · simp only [h, if_true, true_and, List.contains_iff_mem]
  · simp only [h, if_false, false_and]

/-! ## vote (07_lane_arith.md R170) -/

/-- The word 1 where something holds, and 0 where it does not. -/
def Tells (e : Word) (p : Prop) : Prop := (e = 0 ∨ e = 1) ∧ (e = 1 ↔ p)

theorem tells_of_iff {b : Bool} {p : Prop} (h : b = true ↔ p) : Tells (if b then 1 else 0) p := by
  cases b with
  | false => exact ⟨.inl rfl, by simpa using h⟩
  | true => exact ⟨.inr rfl, by simpa using h⟩

section
variable (is : List Nat) (f : Nat → Word)

theorem vote_all : Tells (voteOf .all (is.map (fun j => (j, f j)))) (∀ j ∈ is, f j ≠ 0) := tells_of_iff (by simp)

theorem vote_any : Tells (voteOf .any (is.map (fun j => (j, f j)))) (∃ j ∈ is, f j ≠ 0) := tells_of_iff (by simp)

/-- That all agree with the first is that any two agree. -/
theorem vote_uni : Tells (voteOf .uni (is.map (fun j => (j, f j)))) (∀ i ∈ is, ∀ j ∈ is, f i = f j) := by
  refine tells_of_iff ?_
  cases is with
  | nil => simp
  | cons k is =>
    have hall : (is.map (fun j => (j, f j))).all (fun q => decide (q.2 = f k)) = true ↔ ∀ j ∈ is, f j = f k := by simp
    refine hall.trans ⟨fun h => ?_, fun h j hj => h j (List.mem_cons_of_mem _ hj) k List.mem_cons_self⟩
    have hk : ∀ j ∈ k :: is, f j = f k := List.forall_mem_cons.mpr ⟨rfl, h⟩
    exact fun i hi j hj => (hk i hi).trans (hk j hj).symm

/-- Bits set one after the other, each to a value of its own. -/
theorem bitAt_foldl_setBit (p : Nat → Bool) (l : List Nat) (hl : ∀ j ∈ l, j < 32) (m : Word) (i : Nat) :
    bitAt (l.foldl (fun v j => setBit v j (p j)) m) i = if i ∈ l then p i else bitAt m i := by
  induction l generalizing m with
  | nil => rfl
  | cons a l ih =>
    rw [List.foldl_cons, ih (fun j hj => hl j (List.mem_cons_of_mem _ hj)), bitAt_setBit]
    by_cases h : i = a
    · subst h
      simp [hl i List.mem_cons_self]
    · simp [h]

/-- A ballot sets the bits of the lanes whose value is not 0. -/
theorem vote_ballot (hl : ∀ j ∈ is, j < 32) :
    voteOf .ballot (is.map (fun j => (j, f j))) = maskOf (fun j => decide (j ∈ is) && !decide (f j = 0)) := by
  refine eq_maskOf (fun i _ => ?_)
  have hv : voteOf .ballot (is.map (fun j => (j, f j))) = is.foldl (fun v j => setBit v j (!decide (f j = 0))) 0 := List.foldl_map
  rw [hv, bitAt_foldl_setBit _ is hl]
  by_cases h : i ∈ is
  · rw [if_pos h, decide_eq_true h, Bool.true_and]
  · rw [if_neg h, decide_eq_false h, Bool.false_and]
    exact BitVec.getLsbD_zero

end

end Sys2Proof.Machine
end

section
/-! SUPPORT. What the fixed tree of a reduction computes (05_formats.md R121). -/

namespace Sys2Proof.Machine

/-! ## The tree, level by level -/

/-- Two neighbours of a level combine, and an absent one is skipped. -/
def treeJoin (op : Word → Word → Flagged Word) : Option (Flagged Word) → Option (Flagged Word) → Option (Flagged Word)
  | some l, some r => some ⟨(op l.val r.val).val, l.flags ||| r.flags ||| (op l.val r.val).flags⟩
  | some l, none => some l
  | none, r => r

section
variable (op : Word → Word → Flagged Word)

theorem treeLevel_cons_cons (l r : Option (Flagged Word)) (rest : List (Option (Flagged Word))) :
    treeLevel op (l :: r :: rest) = treeJoin op l r :: treeLevel op rest := by
  cases l with
  | none => rfl
  | some l =>
    cases r with
    | none => rfl
    | some r => rfl

theorem treeNode_succ (v : Nat → Option Word) (d j : Nat) :
    treeNode op v (d + 1) j = treeJoin op (treeNode op v d (2 * j)) (treeNode op v d (2 * j + 1)) := by
  rw [treeNode]
  cases treeNode op v d (2 * j) with
  | none => rfl
  | some l =>
    cases treeNode op v d (2 * j + 1) with
    | none => rfl
    | some r => rfl

/-- A level of 2n nodes makes one of n. -/
theorem treeLevel_range (n : Nat) (f : Nat → Option (Flagged Word)) : treeLevel op ((List.range (2 * n)).map f) =
    (List.range n).map (fun j => treeJoin op (f (2 * j)) (f (2 * j + 1))) := by
  induction n generalizing f with
  | zero => rfl
  | succ n ih =>
    rw [show 2 * (n + 1) = 2 * n + 1 + 1 by omega, List.range_succ_eq_map, List.range_succ_eq_map, List.map_cons, List.map_cons, List.map_cons,
      treeLevel_cons_cons, List.map_map, List.map_map, ih, List.range_succ_eq_map, List.map_cons, List.map_map]
    rfl

theorem treeLevel_nodes (v : Nat → Option Word) (n d : Nat) :
    treeLevel op ((List.range (2 * n)).map (treeNode op v d)) = (List.range n).map (treeNode op v (d + 1)) := by
  rw [treeLevel_range]
  exact List.map_congr_left (fun j _ => (treeNode_succ op v d j).symm)

/-- A reduction is the top node of the tree of lanes 0 to 31. -/
theorem treeReduce_eq (vals : List (Nat × Word)) : treeReduce op vals =
    (treeNode op (fun i => (vals.find? (fun p => decide (p.1 = i))).map (fun p => p.2)) 5 0).getD ⟨0, 0⟩ := by
  have hleaf : laneList.map (fun i => (vals.find? (fun p => decide (p.1 = i))).map (fun p => ({ val := p.2, flags := 0 } : Flagged Word))) =
      (List.range (2 * 16)).map (treeNode op (fun i => (vals.find? (fun p => decide (p.1 = i))).map (fun p => p.2)) 0) :=
    List.map_congr_left (fun i _ => by rw [treeNode, Option.map_map]; rfl)
  rw [treeReduce, hleaf, treeLevel_nodes, treeLevel_nodes op _ 8, treeLevel_nodes op _ 4, treeLevel_nodes op _ 2, treeLevel_nodes op _ 1]
  change (match [treeNode op _ 5 0] with | some r :: _ => r | _ => _) = _
  cases treeNode op (fun i => (vals.find? (fun p => decide (p.1 = i))).map (fun p => p.2)) 5 0 with
  | none => rfl
  | some r => rfl

end

/-! ## What a node computes from the lanes below it -/

/-- The values of the lanes below a node, in their order. -/
def leavesOf (v : Nat → Option Word) (d j : Nat) : List Word := (List.range' (2 ^ d * j) (2 ^ d)).filterMap v

theorem leavesOf_succ (v : Nat → Option Word) (d j : Nat) : leavesOf v (d + 1) j = leavesOf v d (2 * j) ++ leavesOf v d (2 * j + 1) := by
  have hpow : 2 ^ (d + 1) = 2 ^ d + 2 ^ d := by rw [pow_succ, Nat.mul_two]
  have hleft : 2 ^ (d + 1) * j = 2 ^ d * (2 * j) := by rw [pow_succ, Nat.mul_assoc]
  have hright : 2 ^ d * (2 * j + 1) = 2 ^ d * (2 * j) + 2 ^ d := Nat.mul_succ _ _
  rw [leavesOf, leavesOf, leavesOf, ← List.filterMap_append, hleft, hright, hpow, List.range'_append_1]

section
variable {op : Word → Word → Flagged Word} {P : List Word → Flagged Word → Prop}

/-- What holds of one lane, and of two neighbours combined, holds of every node that is not absent. -/
theorem treeNode_induct (one : ∀ x, P [x] ⟨x, 0⟩)
    (join : ∀ l r a b, P l a → P r b → P (l ++ r) ⟨(op a.val b.val).val, a.flags ||| b.flags ||| (op a.val b.val).flags⟩)
    (v : Nat → Option Word) (d j : Nat) :
    (treeNode op v d j = none ∧ leavesOf v d j = []) ∨ ∃ r, treeNode op v d j = some r ∧ P (leavesOf v d j) r := by
  induction d generalizing j with
  | zero =>
    have hl : leavesOf v 0 j = (v j).toList := by
      rw [leavesOf, pow_zero, Nat.one_mul, List.range'_one]
      cases hv : v j <;> simp [hv]
    rw [hl, treeNode]
    cases v j with
    | none => exact .inl ⟨rfl, rfl⟩
    | some x => exact .inr ⟨_, rfl, one x⟩
  | succ d ih =>
    rw [treeNode_succ, leavesOf_succ]
    rcases ih (2 * j) with ⟨hl, hle⟩ | ⟨a, hl, ha⟩ <;> rcases ih (2 * j + 1) with ⟨hr, hre⟩ | ⟨b, hr, hb⟩ <;> rw [hl, hr]
    · exact .inl ⟨rfl, by rw [hle, hre]; rfl⟩
    · exact .inr ⟨b, rfl, by rw [hle]; exact hb⟩
    · exact .inr ⟨a, rfl, by rw [hre, List.append_nil]; exact ha⟩
    · exact .inr ⟨_, rfl, join _ _ a b ha hb⟩

end

/-! ## The lanes that take part -/

section
variable {is : List Nat} (f : Nat → Word)

theorem find_lane (is : List Nat) (i : Nat) : ((is.map (fun j => (j, f j))).find? (fun p => decide (p.1 = i))).map (fun p => p.2) =
    if i ∈ is then some (f i) else none := by
  induction is with
  | nil => rfl
  | cons j is ih =>
    rw [List.map_cons, List.find?_cons]
    by_cases h : j = i
    · subst h
      simp
    · simp only [h, decide_false, ih, List.mem_cons, Ne.symm h, false_or]

theorem filterMap_sublist {l : List Nat} (h : is.Sublist l) (hn : l.Nodup) :
    l.filterMap (fun j => if j ∈ is then some (f j) else none) = is.map f := by
  induction h with
  | slnil => rfl
  | cons a hs ih =>
    obtain ⟨ha, hn⟩ := List.nodup_cons.mp hn
    rw [List.filterMap_cons, if_neg (fun hm => ha (hs.subset hm))]
    exact ih hn
  | cons_cons a hs ih =>
    obtain ⟨ha, hn⟩ := List.nodup_cons.mp hn
    rw [List.filterMap_cons, if_pos List.mem_cons_self, List.map_cons, ← ih hn]
    refine congrArg (f a :: ·) (List.filterMap_congr (fun j hj => ?_))
    have hne : j ≠ a := fun h => ha (h ▸ hj)
    simp only [List.mem_cons, hne, false_or]

theorem leavesOf_top (h : is.Sublist laneList) : leavesOf (fun j => if j ∈ is then some (f j) else none) 5 0 = is.map f := by
  rw [leavesOf, Nat.mul_zero, ← List.range_eq_range']
  exact filterMap_sublist f h List.nodup_range

variable {op : Word → Word → Flagged Word} (h : is.Sublist laneList) (hne : is ≠ [])
include h hne

/-- What holds of one lane, and of two neighbours combined, holds of a reduction, which is the top node. -/
theorem treeReduce_induct {P : List Word → Flagged Word → Prop} (one : ∀ x, P [x] ⟨x, 0⟩)
    (join : ∀ l r a b, P l a → P r b → P (l ++ r) ⟨(op a.val b.val).val, a.flags ||| b.flags ||| (op a.val b.val).flags⟩) :
    some (treeReduce op (is.map (fun j => (j, f j)))) = treeNode op (fun j => if j ∈ is then some (f j) else none) 5 0 ∧
    P (is.map f) (treeReduce op (is.map (fun j => (j, f j)))) := by
  simp only [treeReduce_eq, find_lane]
  rcases treeNode_induct one join (fun j => if j ∈ is then some (f j) else none) 5 0 with ⟨-, hnil⟩ | ⟨r, hr, hP⟩
  · rw [leavesOf_top f h] at hnil
    exact absurd (List.map_eq_nil_iff.mp hnil) hne
  · rw [leavesOf_top f h] at hP
    rw [hr]
    exact ⟨rfl, hP⟩

/-- The same for a step that raises no flags. -/
theorem treeReduce_exact {g : Word → Word → Word} {Q : List Word → Word → Prop} (hop : ∀ a b, op a b = ⟨g a b, 0⟩) (one : ∀ x, Q [x] x)
    (join : ∀ l r a b, Q l a → Q r b → Q (l ++ r) (g a b)) :
    (treeReduce op (is.map (fun j => (j, f j)))).flags = 0 ∧ Q (is.map f) (treeReduce op (is.map (fun j => (j, f j)))).val := by
  refine (treeReduce_induct f h hne (P := fun l r => r.flags = 0 ∧ Q l r.val) (fun x => ⟨rfl, one x⟩) (fun l r a b ha hb => ?_)).2
  rw [hop, ha.1, hb.1]
  exact ⟨by simp only [Nat.or_self], join l r _ _ ha.2 hb.2⟩

/-- A step that takes the smaller of two values by some order leaves a smallest one. -/
theorem treeReduce_least {g : Word → Word → Word} (le : Word → Word → Prop) (hop : ∀ a b, op a b = ⟨g a b, 0⟩) (hrefl : ∀ x, le x x)
    (htrans : ∀ x y z, le x y → le y z → le x z) (hg : ∀ a b, (g a b = a ∧ le a b) ∨ (g a b = b ∧ le b a)) :
    (∃ j ∈ is, (treeReduce op (is.map (fun j => (j, f j)))).val = f j) ∧
    ∀ j ∈ is, le (treeReduce op (is.map (fun j => (j, f j)))).val (f j) := by
  have hQ := (treeReduce_exact f h hne (Q := fun l x => x ∈ l ∧ ∀ y ∈ l, le x y) hop
    (fun x => ⟨List.mem_singleton_self x, by simpa using hrefl x⟩) (fun l r a b ha hb => ?_)).2
  · obtain ⟨hmem, hle⟩ := hQ
    obtain ⟨j, hj, hval⟩ := List.mem_map.mp hmem
    exact ⟨⟨j, hj, hval.symm⟩, fun j hj => hle _ (List.mem_map_of_mem hj)⟩
  · rcases hg a b with ⟨hgab, hab⟩ | ⟨hgab, hba⟩ <;> rw [hgab]
    · exact ⟨List.mem_append_left _ ha.1, fun y hy => (List.mem_append.mp hy).elim (ha.2 y) (fun hy => htrans _ _ _ hab (hb.2 y hy))⟩
    · exact ⟨List.mem_append_right _ hb.1, fun y hy => (List.mem_append.mp hy).elim (fun hy => htrans _ _ _ hba (ha.2 y hy)) (hb.2 y)⟩

end

end Sys2Proof.Machine
end

section
/-! SUPPORT. Reductions over lanes, one by one (07_lane_arith.md R171, 05_formats.md R121), and obligation O16. -/

namespace Sys2Proof.Machine

theorem odd_add (m n : Nat) : (decide (m % 2 = 1) != decide (n % 2 = 1)) = decide ((m + n) % 2 = 1) := by
  rw [Bool.eq_iff_iff, bne_iff_ne, ne_eq, decide_eq_decide, decide_eq_true_iff]
  omega

section
variable {is : List Nat} (f : Nat → Word) (h : is.Sublist laneList) (hne : is ≠ [])
include h hne

theorem reduce_add : treeReduce (wredStep .add false) (is.map (fun j => (j, f j))) =
    ⟨BitVec.ofNat 32 ((is.map (fun j => (f j).toNat)).sum), 0⟩ := by
  obtain ⟨hflags, hval⟩ := treeReduce_exact f h hne (op := wredStep .add false) (Q := fun l x => x = BitVec.ofNat 32 (l.map BitVec.toNat).sum)
    (fun _ _ => rfl) (fun x => by simp) (fun l r a b ha hb => by rw [ha, hb, List.map_append, List.sum_append, BitVec.ofNat_add])
  rw [List.map_map] at hval
  generalize treeReduce (wredStep .add false) (is.map (fun j => (j, f j))) = r at hflags hval ⊢
  cases r
  simp only at hflags hval
  rw [hflags, hval]
  rfl

theorem reduce_and (k : Nat) : bitAt (treeReduce (wredStep .and false) (is.map (fun j => (j, f j)))).val k = is.all (fun j => bitAt (f j) k) := by
  have hval := (treeReduce_exact f h hne (op := wredStep .and false) (Q := fun l x => bitAt x k = l.all (fun y => bitAt y k)) (fun _ _ => rfl)
    (fun x => by simp) (fun l r a b ha hb => by rw [List.all_append, ← ha, ← hb]; exact BitVec.getLsbD_and)).2
  rw [hval, List.all_map]
  rfl

theorem reduce_or (k : Nat) : bitAt (treeReduce (wredStep .or false) (is.map (fun j => (j, f j)))).val k = is.any (fun j => bitAt (f j) k) := by
  have hval := (treeReduce_exact f h hne (op := wredStep .or false) (Q := fun l x => bitAt x k = l.any (fun y => bitAt y k)) (fun _ _ => rfl)
    (fun x => by simp) (fun l r a b ha hb => by rw [List.any_append, ← ha, ← hb]; exact BitVec.getLsbD_or)).2
  rw [hval, List.any_map]
  rfl

theorem reduce_xor (k : Nat) : bitAt (treeReduce (wredStep .xor false) (is.map (fun j => (j, f j)))).val k =
    decide ((is.filter (fun j => bitAt (f j) k)).length % 2 = 1) := by
  have hval := (treeReduce_exact f h hne (op := wredStep .xor false)
    (Q := fun l x => bitAt x k = decide ((l.filter (fun y => bitAt y k)).length % 2 = 1)) (fun _ _ => rfl) (fun x => ?_) (fun l r a b ha hb => ?_)).2
  · rw [hval, List.filter_map, List.length_map]
    rfl
  · cases hx : bitAt x k <;> simp [hx]
  · have hx : bitAt (a ^^^ b) k = (bitAt a k != bitAt b k) := BitVec.getLsbD_xor
    rw [hx, ha, hb, List.filter_append, List.length_append, odd_add]

variable {β : Type} [LinearOrder β] {op : Word → Word → Flagged Word} (key : Word → β)

/-- A step that keeps the value with the smaller key. -/
theorem reduce_min (hop : ∀ a b, op a b = ⟨if key a ≤ key b then a else b, 0⟩) :
    (∃ j ∈ is, (treeReduce op (is.map (fun j => (j, f j)))).val = f j) ∧
    ∀ j ∈ is, key (treeReduce op (is.map (fun j => (j, f j)))).val ≤ key (f j) := by
  refine treeReduce_least f h hne (fun x y => key x ≤ key y) hop (fun _ => le_rfl) (fun _ _ _ => le_trans) (fun a b => ?_)
  by_cases hab : key a ≤ key b
  · exact .inl ⟨if_pos hab, hab⟩
  · exact .inr ⟨if_neg hab, le_of_not_ge hab⟩

/-- A step that keeps the value with the larger key. -/
theorem reduce_max (hop : ∀ a b, op a b = ⟨if key a ≤ key b then b else a, 0⟩) :
    (∃ j ∈ is, (treeReduce op (is.map (fun j => (j, f j)))).val = f j) ∧
    ∀ j ∈ is, key (f j) ≤ key (treeReduce op (is.map (fun j => (j, f j)))).val := by
  refine treeReduce_least f h hne (fun x y => key y ≤ key x) hop (fun _ => le_rfl) (fun _ _ _ hxy hyz => le_trans hyz hxy) (fun a b => ?_)
  by_cases hab : key a ≤ key b
  · exact .inr ⟨if_pos hab, hab⟩
  · exact .inl ⟨if_neg hab, le_of_not_ge hab⟩

end

/-- A lane alone gives its value. -/
theorem reduce_alone (op : Word → Word → Flagged Word) {i : Nat} (hi : i < 32) (x : Word) : treeReduce op [(i, x)] = ⟨x, 0⟩ := by
  have hsub : [i].Sublist laneList := List.singleton_sublist.mpr (List.mem_range.mpr hi)
  have hP := (treeReduce_induct (fun _ => x) hsub (List.cons_ne_nil _ _) (op := op) (P := fun l r => l ≠ [] ∧ ∀ y, l = [y] → r = ⟨y, 0⟩)
    (fun y => ⟨List.cons_ne_nil _ _, fun z hz => by rw [List.cons.inj hz |>.1]⟩) (fun l r a b ha hb => ?_)).2
  · exact hP.2 x rfl
  · refine ⟨fun hnil => ha.1 (List.append_eq_nil_iff.mp hnil).1, fun y hy => ?_⟩
    rcases List.append_eq_singleton_iff.mp hy with ⟨hl, -⟩ | ⟨-, hr⟩
    · exact absurd hl ha.1
    · exact absurd hr hb.1

/-- The manual's example: 1 and 2^24 round to 2^24 with NX, and adding the 2 of the other two lanes is exact. -/
theorem reduce_fadd_example : treeReduce (wredStep .fadd false) [(0, 0x3F800000), (1, 0x4B800000), (2, 0x3F800000), (3, 0x3F800000)] =
    ⟨0x4B800001, fNX⟩ := by
  decide

/-- Settles O16: the executing lanes are a round that is complete at once; what a reduction gives is what holds of one lane and of two
neighbours combined. -/
theorem warpData : Obligations.WarpData := by
  unfold Obligations.WarpData
  refine ⟨fun s n d a b k m p hk hc hpres hin => ?_, fun f is h hne => ?_, fun p flush f is h hne => ?_, fun flush => ⟨rfl, rfl, rfl⟩,
    fun p flush i x hi => reduce_alone _ hi x, reduce_fadd_example⟩
  · have hround : s.WholeRound k.toNat := ⟨hpres, hin⟩
    have hab : ∀ r ∈ LRes.mk k.toNat :: srcRes a ++ srcRes b, r ∈ LRes.mk k.toNat :: srcRes a ++ srcRes b := fun _ h => h
    have ha : ∀ r ∈ LRes.mk k.toNat :: srcRes a, r ∈ LRes.mk k.toNat :: srcRes a ++ srcRes b := fun _ h => List.mem_append_left _ h
    intro own
    have vote (q : VoteKind) : s.Gives (.vote n d a q k) n 4 (fun _ => result d (voteOf q (s.execLanes.map (fun j => (j, own j))))) :=
      (roundOp_gives (f := fun inst _ => .val d (voteOf q (inst.map (fun j => (j, own j))))) hround hk hc ha rfl
        (fun _ => LaneRes.plain_val _ _)).congr (fun _ _ => LaneRes.effect_val _ _)
    have reduce : s.Gives (.wred n d a p k) n 4 (fun v =>
        flagged d (treeReduce (wredStep p (bitAt v.w.trec.flags 0)) (s.execLanes.map (fun j => (j, own j))))) :=
      (roundOp_gives (f := fun inst _ => .flagged d (treeReduce (wredStep p (bitAt (s.warp s.cur.warp).trec.flags 0)) (inst.map (fun j => (j, own j)))))
        hround hk hc ha rfl (fun _ => LaneRes.plain_flagged _ _)).congr (fun _ _ => LaneRes.effect_flagged _ _)
    refine ⟨?_, ⟨_, vote .all, vote_all _ _⟩, ⟨_, vote .any, vote_any _ _⟩, ⟨_, vote .uni, vote_uni _ _⟩,
      (vote .ballot).congr (fun _ _ => by rw [vote_ballot _ _ (fun _ => State.execLanes_lt)]), reduce⟩
    refine (roundOp_gives (f := fun inst i => .val d (own (shflSource m i ((s.view i).src 1 b) inst))) hround hk hc hab rfl
      (fun _ => LaneRes.plain_val _ _)).congr (fun i hi => ?_)
    rw [LaneRes.effect_val, shflSource_eq m (i := (s.view i).i) (State.execLanes_lt hi)]
    rfl
  · intro red
    exact ⟨reduce_add f h hne, fun k _ => reduce_and f h hne k, fun k _ => reduce_or f h hne k, fun k _ => reduce_xor f h hne k,
      reduce_min f h hne BitVec.toInt (fun a b => congrArg (Flagged.mk · 0) (slt_min a b)),
      reduce_max f h hne BitVec.toInt (fun a b => congrArg (Flagged.mk · 0) (slt_max a b)),
      reduce_min f h hne BitVec.toNat (fun a b => congrArg (Flagged.mk · 0) (ult_min a b)),
      reduce_max f h hne BitVec.toNat (fun a b => congrArg (Flagged.mk · 0) (ult_max a b))⟩
  · exact (treeReduce_induct f h hne (P := fun _ _ => True) (fun _ => trivial) (fun _ _ _ _ _ _ => trivial)).1

end Sys2Proof.Machine
end

section
/-! SUPPORT. The manual's worked encodings, and obligation O3. -/

namespace Sys2Proof

/-- Settles O3: the decoder's row for the opcode of each word reads its fields. -/
theorem decodeOfSpecWords : Obligations.DecodeOfSpecWords := by
  unfold Obligations.DecodeOfSpecWords
  decide

end Sys2Proof
end

section
/-! SUPPORT. The halt of a pre-emption where two entries of the cluster map bear one number: the lease that only the second lists
(16_recovery.md R439, R453, R454, R466), and obligation O52. -/

namespace Sys2Proof.Machine

/-- A matrix operation of launch 0 with one sum on its way to word 0 of core 0. -/
def straySums : EngOp :=
  { kind := .mma, warp := 0, lid := 0, taskId := 0, num := 0, st := .running
    late := [{ arrives := 0, core := 0, word := 0, sum := 0, replace := false }] }

/-- Launch 0 is about to be halted. The number 0 stands twice in the cluster map, and only the second entry lists the lease whose q0 has
that operation at its head; the accumulator word that its sum is added to holds an error. -/
def strayHalt : State :=
  { State.reset with
    launches := [(0, Launch.dflt)]
    clusters := [(0, Cluster.dflt),
                 (0, { leases := [{ lid := 0, grp := 0, rows := 1, cols := 1, strait := false, origin := 0, clu := 0, lent := none, cores := [0],
                                    st := .held, q0 := [straySums] }] })]
    mem := { badAcc := [0] }
    sys := { preempt := some ([0], false) } }

/-- The cluster of a number is the first entry of it, so that no cluster is seen to hold the lease. -/
theorem strayHalt_leases (g : Nat) : (strayHalt.cluster g).leases = [] := by
  by_cases hg : 0 = g
  · subst hg
    rfl
  · have hfind : strayHalt.clusters.find? g = none := by simp [strayHalt, SMap.find?, hg]
    rw [State.cluster, SMap.get, hfind]
    rfl

/-- The rows that have begun update their words first (R454), which consumes the error: launch 0 is rolled back and not halted. -/
theorem strayHalt_rolledBack :
    (match exec .preemptHalt strayHalt with
      | .next t => (t.launch? 0).map (·.st)
      | _ => none) = some .rolledBack := by decide +kernel

/-- Refutes O52: a halt first lands the sums of the launch's matrix operations, those of every lease that any entry of the cluster map
lists. The statement rules out such operations in the leases of s.cluster g, the first entry of the number g, and permits a second
entry of that number: the operation of a lease that stands there meets an error in its accumulator word, and its launch is rolled
back. -/
theorem not_preemption : ¬ Obligations.Preemption := by
  unfold Obligations.Preemption
  intro h
  obtain ⟨-, hhalt, -⟩ := h strayHalt 0 0 0
  have hidle : ∀ w, (strayHalt.warp w).lid = 0 → (strayHalt.core (w / 16)).castle = none ∧ ∀ q, (strayHalt.warp w).queues.get [] q = [] :=
    fun _ _ => ⟨rfl, fun _ => rfl⟩
  have hcores : ∀ c, ∀ o ∈ (strayHalt.core c).q0, o.lid ≠ 0 := fun _ _ ho => absurd ho List.not_mem_nil
  have hleases : ∀ g, ∀ l ∈ (strayHalt.cluster g).leases, ∀ o ∈ l.q0, o.lid ≠ 0 := by
    intro g l hl
    rw [strayHalt_leases] at hl
    exact absurd hl List.not_mem_nil
  obtain ⟨t, ht, -, hlaunch, -⟩ := hhalt Launch.dflt rfl rfl rfl rfl hidle hcores hleases
  have hst := strayHalt_rolledBack
  rw [ht] at hst
  simp only [hlaunch, Option.map_some] at hst
  exact absurd hst (by decide)

end Sys2Proof.Machine
end

section
/-! SUPPORT. What a request for a lease answers, what a grant changes, and the release of a lease (08_bonds.md R189 to R196,
09_tensor_instr.md R237, R238), and obligation O39. -/

namespace Sys2Proof.Machine

/-! ## The cores of a bond -/

/-- An aligned block of a row or column of four, by the quotients of its places. -/
theorem aligned_block {a r : Nat} (ha : a = 1 ∨ a = 2 ∨ a = 4) (hr : r < 4) (y : Nat) :
    (∃ i < a, r / a * a + i = y) ↔ y < 4 ∧ y / a = r / a := by
  constructor
  · rintro ⟨i, hi, rfl⟩
    rcases ha with rfl | rfl | rfl <;> omega
  · rintro ⟨hy, hq⟩
    refine ⟨y - r / a * a, ?_, ?_⟩ <;> rcases ha with rfl | rfl | rfl <;> omega

theorem mem_rectCores {a b : Nat} (ha : a = 1 ∨ a = 2 ∨ a = 4) (hb : b = 1 ∨ b = 2 ∨ b = 4) (c x : Nat) :
    x ∈ rectCores c a b ↔ x / 16 = c / 16 ∧ x % 16 / 4 / a = c % 16 / 4 / a ∧ x % 4 / b = c % 4 / b := by
  have hrow := aligned_block ha (show c % 16 / 4 < 4 by omega)
  have hcol := aligned_block hb (show c % 4 < 4 by omega)
  simp only [rectCores, cluOf, List.mem_flatMap, List.mem_map, List.mem_range]
  constructor
  · rintro ⟨i, hi, j, hj, rfl⟩
    obtain ⟨hr, hrq⟩ := (hrow _).mp ⟨i, hi, rfl⟩
    obtain ⟨hc, hcq⟩ := (hcol _).mp ⟨j, hj, rfl⟩
    rw [Nat.add_assoc]
    generalize c % 16 / 4 / a * a + i = row at hr hrq ⊢
    generalize c % 4 / b * b + j = col at hc hcq ⊢
    rw [← hrq, ← hcq]
    refine ⟨by omega, ?_, ?_⟩ <;> congr 1 <;> omega
  · rintro ⟨hclu, hr, hc⟩
    obtain ⟨i, hi, hri⟩ := (hrow (x % 16 / 4)).mpr ⟨by omega, hr⟩
    obtain ⟨j, hj, hcj⟩ := (hcol (x % 4)).mpr ⟨by omega, hc⟩
    exact ⟨i, hi, j, hj, by omega⟩

/-- Every core of a cluster is in its rectangle of 4 × 4. -/
theorem mem_rectCores_whole (c x : Nat) : x ∈ rectCores c 4 4 ↔ x / 16 = c / 16 := by
  rw [mem_rectCores (by decide) (by decide)]
  omega

theorem mem_clusterRange (g x : Nat) : x ∈ (List.range 16).map (fun j => 16 * g + j) ↔ x / 16 = g := by
  simp only [List.mem_map, List.mem_range]
  constructor
  · rintro ⟨j, hj, rfl⟩
    omega
  · rintro rfl
    exact ⟨x % 16, by omega, by omega⟩

theorem mem_straitCores (g h x : Nat) : x ∈ straitCores g h ↔ x / 16 = g ∨ x / 16 = h := by
  simp only [straitCores, List.mem_flatMap, List.mem_append, List.mem_map, List.mem_range]
  constructor
  · rintro ⟨i, hi, ⟨j, hj, rfl⟩ | ⟨j, hj, rfl⟩⟩ <;> omega
  · rintro (rfl | rfl)
    · exact ⟨x % 16 / 4, by omega, .inl ⟨x % 4, by omega, by omega⟩⟩
    · exact ⟨x % 16 / 4, by omega, .inr ⟨x % 4, by omega, by omega⟩⟩

/-- The cores that a strait bond borrows: those of the other cluster of its seam pair (08_bonds.md R191). -/
def seamCores (g : Nat) : List Nat :=
  match seamOf g with
  | some (h, _) => (List.range 16).map (fun j => 16 * h + j)
  | none => []

theorem seamCores_some {g h i : Nat} (hs : seamOf g = some (h, i)) : seamCores g = (List.range 16).map (fun j => 16 * h + j) := by
  rw [seamCores, hs]

theorem mem_seamCores (g x : Nat) : x ∈ seamCores g ↔ ∃ h i, seamOf g = some (h, i) ∧ x / 16 = h := by
  cases hs : seamOf g with
  | none => simp [seamCores, hs]
  | some p =>
    obtain ⟨h, i⟩ := p
    rw [seamCores_some hs, mem_clusterRange]
    exact ⟨fun hx => ⟨h, i, rfl, hx⟩, fun ⟨_, _, he, hx⟩ => by cases he; exact hx⟩

theorem forall_seamCores_some {g h i : Nat} {P : Nat → Prop} (hs : seamOf g = some (h, i)) (hP : ∀ x, x / 16 = h → P x) :
    ∀ x ∈ seamCores g, P x := by
  intro x hx
  rw [seamCores_some hs, mem_clusterRange] at hx
  exact hP x hx

theorem forall_seamCores_none {g : Nat} {P : Nat → Prop} (hs : seamOf g = none) : ∀ x ∈ seamCores g, P x := by
  rw [seamCores, hs]
  exact fun _ hx => absurd hx List.not_mem_nil

/-! ## The answer to a request -/

theorem State.hasMember_iff (s : State) (lid grp c : Nat) : s.hasMember lid grp c = true ↔
    ∃ u, u / 16 = c ∧ (s.warp u).slot ≠ .free ∧ (s.warp u).lid = lid ∧ grp ∈ (s.warp u).groupNos := by
  simp only [State.hasMember, State.residents, Warp.resident, List.any_eq_true, List.mem_filter, mem_clusterRange, Bool.and_eq_true,
    Bool.not_eq_true', decide_eq_false_iff_not, decide_eq_true_eq, List.contains_iff_mem]
  exact ⟨fun ⟨u, ⟨hc, hr⟩, hl, hg⟩ => ⟨u, hc, hr, hl, hg⟩, fun ⟨u, hc, hr, hl, hg⟩ => ⟨u, ⟨hc, hr⟩, hl, hg⟩⟩

/-- The answer of a request whose cores own hold a member each and whose cores, with those borrowed, are free; before it NOT_RESIDENT
and BUSY (09_tensor_instr.md R237). -/
def State.coverCode (s : State) (lid grp : Nat) (own lent : List Nat) (r : Nat × List Nat) : Nat × List Nat :=
  if own.any (fun x => !s.hasMember lid grp x) then (3, [])
  else if (own ++ lent).any (fun x => (s.leaseAt x).isSome) then (4, [])
  else r

section
variable {s : State} {lid grp : Nat} {own lent : List Nat} {r : Nat × List Nat}

theorem State.coverCode_missing (h : ∃ x ∈ own, ¬s.hasMember lid grp x = true) : (s.coverCode lid grp own lent r).1 = 3 := by
  obtain ⟨x, hx, hm⟩ := h
  rw [State.coverCode, if_pos (List.any_eq_true.mpr ⟨x, hx, by simpa using hm⟩)]

theorem State.coverCode_of_members (h : ∀ x ∈ own, s.hasMember lid grp x = true) : s.coverCode lid grp own lent r =
    if (own ++ lent).any (fun x => (s.leaseAt x).isSome) then (4, []) else r := by
  rw [State.coverCode, if_neg]
  simpa using h

theorem State.coverCode_leased (hm : ∀ x ∈ own, s.hasMember lid grp x = true) (h : ∃ x ∈ own ++ lent, ¬(s.leaseAt x).isNone = true) :
    (s.coverCode lid grp own lent r).1 = 4 := by
  obtain ⟨x, hx, hl⟩ := h
  rw [State.coverCode_of_members hm, if_pos (List.any_eq_true.mpr ⟨x, hx, by simpa [Option.isSome_iff_ne_none] using hl⟩)]

theorem State.coverCode_free (hm : ∀ x ∈ own, s.hasMember lid grp x = true) (h : ∀ x ∈ own ++ lent, (s.leaseAt x).isNone = true) :
    s.coverCode lid grp own lent r = r := by
  rw [State.coverCode_of_members hm, if_neg]
  rw [List.any_eq_true]
  rintro ⟨x, hx, hl⟩
  have hn := h x hx
  rw [Option.isNone_iff_eq_none] at hn
  rw [hn] at hl
  cases hl

end

/-- What a strait request answers where its own cluster and the borrowed cores are in order (09_tensor_instr.md R237). -/
def State.seamCode (s : State) (g : Nat) : Nat × List Nat :=
  match seamOf g with
  | none => (5, [])
  | some (h, i) =>
    if s.seamMap / 2 ^ i % 2 = 0 then (5, [])
    else if s.cpart g ≠ s.cpart h ∨ s.regulator g ≠ s.regulator h then (6, [])
    else if (List.range 16).any (fun j => !(s.residents (16 * h + j)).isEmpty) then (7, [])
    else (0, if g < 64 then straitCores g h else straitCores h g)

section
variable {s : State} {g h i : Nat}

theorem State.seamCode_none (hs : seamOf g = none) : (s.seamCode g).1 = 5 := by
  rw [State.seamCode, hs]

theorem State.seamCode_unusable (hs : seamOf g = some (h, i)) (hm : s.seamMap / 2 ^ i % 2 = 0) : (s.seamCode g).1 = 5 := by
  simp only [State.seamCode, hs, hm, if_true]

theorem State.seamCode_usable (hs : seamOf g = some (h, i)) (hm : s.seamMap / 2 ^ i % 2 = 1) : s.seamCode g =
    if s.cpart g ≠ s.cpart h ∨ s.regulator g ≠ s.regulator h then (6, [])
    else if (List.range 16).any (fun j => !(s.residents (16 * h + j)).isEmpty) then (7, [])
    else (0, if g < 64 then straitCores g h else straitCores h g) := by
  simp only [State.seamCode, hs, hm, one_ne_zero, if_false]

theorem State.seamCode_apart (hs : seamOf g = some (h, i)) (hm : s.seamMap / 2 ^ i % 2 = 1)
    (hd : s.cpart g ≠ s.cpart h ∨ s.regulator g ≠ s.regulator h) : (s.seamCode g).1 = 6 := by
  rw [State.seamCode_usable hs hm, if_pos hd]

theorem State.seamCode_together (hs : seamOf g = some (h, i)) (hm : s.seamMap / 2 ^ i % 2 = 1) (hp : s.cpart g = s.cpart h)
    (hr : s.regulator g = s.regulator h) : s.seamCode g =
    if (List.range 16).any (fun j => !(s.residents (16 * h + j)).isEmpty) then (7, [])
    else (0, if g < 64 then straitCores g h else straitCores h g) := by
  rw [State.seamCode_usable hs hm, if_neg]
  exact not_or.mpr ⟨not_not.mpr hp, not_not.mpr hr⟩

theorem State.seamCode_occupied (hs : seamOf g = some (h, i)) (hm : s.seamMap / 2 ^ i % 2 = 1) (hp : s.cpart g = s.cpart h)
    (hr : s.regulator g = s.regulator h) (ho : ∃ x, x / 16 = h ∧ s.residents x ≠ []) : (s.seamCode g).1 = 7 := by
  obtain ⟨x, rfl, hx⟩ := ho
  rw [State.seamCode_together hs hm hp hr, if_pos]
  refine List.any_eq_true.mpr ⟨x % 16, List.mem_range.mpr (Nat.mod_lt _ (by decide)), ?_⟩
  rw [Nat.div_add_mod]
  simpa using hx

theorem State.seamCode_granted (hs : seamOf g = some (h, i)) (hm : s.seamMap / 2 ^ i % 2 = 1) (hp : s.cpart g = s.cpart h)
    (hr : s.regulator g = s.regulator h) (ho : ∀ x, x / 16 = h → s.residents x = []) :
    s.seamCode g = (0, if g < 64 then straitCores g h else straitCores h g) := by
  rw [State.seamCode_together hs hm hp hr, if_neg]
  rw [List.any_eq_true]
  rintro ⟨j, hj, hx⟩
  rw [ho _ (by have := List.mem_range.mp hj; omega)] at hx
  exact absurd hx (by decide)

end

/-- The task is a member, by a slot of its record, of a cluster-bound group that holds no lease and bears no mark. -/
def State.MayBond (s : State) (w k grp : Nat) : Prop :=
  (s.warp w).trec.group? k = some grp ∧ ((s.launch (s.warp w).lid).group grp).place = 2 ∧
  (s.leaseOf (s.warp w).lid grp).isNone = true ∧ ((s.launch (s.warp w).lid).gstate grp).revoked = false

section
variable {s : State} {w k grp : Nat}

theorem State.bondCode_unnamed (h : (s.warp w).trec.group? k = none) (strait : Bool) (a b : Nat) : (s.bondCode w k strait a b).1 = 1 := by
  simp only [State.bondCode, h]

theorem State.bondCode_held (hg : (s.warp w).trec.group? k = some grp) (hp : ((s.launch (s.warp w).lid).group grp).place = 2)
    (hl : (s.leaseOf (s.warp w).lid grp).isSome = true) (strait : Bool) (a b : Nat) : (s.bondCode w k strait a b).1 = 2 := by
  simp only [State.bondCode, hg, hp, hl, ne_eq, not_true_eq_false, Bool.true_or, if_false, if_true]

theorem State.bondCode_plain (h : s.MayBond w k grp) (a b : Nat) : s.bondCode w k false a b =
    s.coverCode (s.warp w).lid grp (rectCores (coreOf w) a b) [] (0, rectCores (coreOf w) a b) := by
  obtain ⟨hg, hp, hl, hr⟩ := h
  rw [Option.isNone_iff_eq_none] at hl
  simp only [State.bondCode, State.coverCode, hg, hp, hl, hr, ne_eq, not_true_eq_false, Option.isSome_none, Bool.or_self, Bool.not_false,
    Bool.false_eq_true, if_false, if_true]

theorem State.bondCode_strait (h : s.MayBond w k grp) (a b : Nat) : s.bondCode w k true a b =
    s.coverCode (s.warp w).lid grp (rectCores (coreOf w) 4 4) (seamCores (warpClu w)) (s.seamCode (warpClu w)) := by
  obtain ⟨hg, hp, hl, hr⟩ := h
  rw [Option.isNone_iff_eq_none] at hl
  cases hs : seamOf (warpClu w) with
  | none =>
    have hs' : seamOf (cluOf (coreOf w)) = none := hs
    simp only [State.bondCode, State.coverCode, State.seamCode, seamCores, hg, hp, hl, hr, hs, hs', ne_eq, not_true_eq_false,
      Option.isSome_none, Bool.or_self, Bool.not_true, Bool.false_eq_true, if_false, if_true]
  | some p =>
    have hs' : seamOf (cluOf (coreOf w)) = some p := hs
    simp only [State.bondCode, State.coverCode, State.seamCode, seamCores, hg, hp, hl, hr, hs, hs', ne_eq, not_true_eq_false,
      Option.isSome_none, Bool.or_self, Bool.not_true, Bool.false_eq_true, if_false, if_true]
    rfl

/-- The request for a rectangle is granted, or answers NOT_RESIDENT or BUSY. -/
theorem State.bondCode_plain_granted (h : s.MayBond w k grp) {a b : Nat}
    (hall : ∀ x ∈ rectCores (coreOf w) a b, s.hasMember (s.warp w).lid grp x = true ∧ (s.leaseAt x).isNone = true) :
    s.bondCode w k false a b = (0, rectCores (coreOf w) a b) := by
  rw [State.bondCode_plain h, State.coverCode_free (fun x hx => (hall x hx).1)]
  rw [List.append_nil]
  exact fun x hx => (hall x hx).2

theorem State.bondCode_plain_missing (h : s.MayBond w k grp) {a b : Nat}
    (hm : ∃ x ∈ rectCores (coreOf w) a b, ¬s.hasMember (s.warp w).lid grp x = true) : (s.bondCode w k false a b).1 = 3 := by
  rw [State.bondCode_plain h, State.coverCode_missing hm]

theorem State.bondCode_plain_leased (h : s.MayBond w k grp) {a b : Nat}
    (hm : ∀ x ∈ rectCores (coreOf w) a b, s.hasMember (s.warp w).lid grp x = true)
    (hl : ∃ x ∈ rectCores (coreOf w) a b, ¬(s.leaseAt x).isNone = true) : (s.bondCode w k false a b).1 = 4 := by
  rw [State.bondCode_plain h, State.coverCode_leased hm]
  rwa [List.append_nil]

/-- The strait request answers NOT_RESIDENT or BUSY, or else what its seam gives. -/
theorem State.bondCode_strait_missing (h : s.MayBond w k grp) (a b : Nat)
    (hm : ∃ x, x / 16 = warpClu w ∧ ¬s.hasMember (s.warp w).lid grp x = true) : (s.bondCode w k true a b).1 = 3 := by
  obtain ⟨x, hx, hn⟩ := hm
  rw [State.bondCode_strait h, State.coverCode_missing ⟨x, (mem_rectCores_whole _ x).mpr hx, hn⟩]

theorem State.bondCode_strait_leased (h : s.MayBond w k grp) (a b : Nat)
    (hm : ∀ x, x / 16 = warpClu w → s.hasMember (s.warp w).lid grp x = true)
    (hl : ∃ x, (x / 16 = warpClu w ∨ ∃ g i, seamOf (warpClu w) = some (g, i) ∧ x / 16 = g) ∧ ¬(s.leaseAt x).isNone = true) :
    (s.bondCode w k true a b).1 = 4 := by
  obtain ⟨x, hx, hn⟩ := hl
  have hin : x ∈ rectCores (coreOf w) 4 4 ++ seamCores (warpClu w) := by
    rw [List.mem_append, mem_rectCores_whole, mem_seamCores]
    exact hx
  rw [State.bondCode_strait h, State.coverCode_leased (fun x hx => hm x ((mem_rectCores_whole _ x).mp hx)) ⟨x, hin, hn⟩]

theorem State.bondCode_strait_free (h : s.MayBond w k grp) (a b : Nat)
    (hall : ∀ x, x / 16 = warpClu w → s.hasMember (s.warp w).lid grp x = true ∧ (s.leaseAt x).isNone = true)
    (hlent : ∀ x ∈ seamCores (warpClu w), (s.leaseAt x).isNone = true) : s.bondCode w k true a b = s.seamCode (warpClu w) := by
  have hown : ∀ x ∈ rectCores (coreOf w) 4 4, s.hasMember (s.warp w).lid grp x = true ∧ (s.leaseAt x).isNone = true :=
    fun x hx => hall x ((mem_rectCores_whole _ x).mp hx)
  rw [State.bondCode_strait h, State.coverCode_free (fun x hx => (hown x hx).1)]
  exact fun x hx => (List.mem_append.mp hx).elim (fun hx => (hown x hx).2) (hlent x)

end

/-! ## The request and the release as operations of the strand -/

section
variable {s : State} {j : Instr} {n : Stall} {d : BitVec 6} {k : BitVec 2} {strait : Bool} {a b : Nat}

/-- A request that is refused answers its code, and nothing else changes. -/
theorem bondOp_refused (hc : s.StrandClear []) (hx : exec j s = bondOp n d k strait a b s) {v : Nat}
    (hv : (s.bondCode s.cur.warp k.toNat strait a b).1 = v) (h0 : v ≠ 0) :
    s.StrandGives j n 4 { s := [(d.toNat, BitVec.ofNat 64 v)] } := by
  refine ⟨s.putS n.toNat 4 0 d.toNat (BitVec.ofNat 64 v), ?_, State.putS_only ..⟩
  rw [hx, bondOp, strandOp_clear hc _ _ (fun _ hr => hr)]
  simp only [hv, h0, if_false]

/-- A request that is granted makes the lease and answers 0. -/
theorem bondOp_grants (hc : s.StrandClear []) (hx : exec j s = bondOp n d k strait a b s) {cores : List Nat}
    (hv : s.bondCode s.cur.warp k.toNat strait a b = (0, cores)) :
    exec j s = .next ((s.grantLease s.cur.warp k.toNat a b strait cores).putS n.toNat 4 0 d.toNat 0) := by
  rw [hx, bondOp, strandOp_clear hc _ _ (fun _ hr => hr)]
  simp only [hv, if_true]
  rfl

end

/-! ## A grant -/

/-- The lease that a grant makes on cores whose queues q0 are empty. -/
def State.newLease (s : State) (w k a b : Nat) (strait : Bool) (cores : List Nat) : Lease :=
  { lid := (s.warp w).lid, grp := ((s.warp w).trec.group? k).getD 0, rows := a, cols := b, strait := strait
    origin := (cores.find? (fun c => decide (cluOf c = warpClu w))).getD 0 % 16, clu := warpClu w
    lent := if strait then (seamOf (warpClu w)).map (·.1) else none, cores := cores, st := .held, num := s.clock }

/-- The cluster of a task lists one more lease. -/
def State.withLease (s : State) (w : Nat) (y : Lease) : State :=
  ({ s with clock := s.clock + 1 } : State).updCluster (warpClu w) (fun x => { x with leases := x.leases ++ [y] })

section
variable {s : State} {w k a b : Nat} {cores : List Nat}

theorem any_busy (h : ∀ x ∈ cores, (s.core x).q0 = []) : cores.any (fun c => !(s.core c).q0.isEmpty) = false := by
  rw [List.any_eq_false]
  intro x hx
  rw [h x hx]
  decide

theorem State.grantLease_plain (h : ∀ x ∈ cores, (s.core x).q0 = []) :
    s.grantLease w k a b false cores = s.withLease w (s.newLease w k a b false cores) := by
  simp only [State.grantLease, any_busy h, State.withLease, State.newLease, Bool.false_eq_true, if_false]

theorem State.grantLease_strait {g i : Nat} (h : ∀ x ∈ cores, (s.core x).q0 = []) (hs : seamOf (warpClu w) = some (g, i)) :
    s.grantLease w k a b true cores = (List.range 16).foldl (fun s j => s.setWays (16 * g + j) (s.core (16 * warpClu w + j)).ways)
      (s.withLease w (s.newLease w k a b true cores)) := by
  simp only [State.grantLease, any_busy h, State.withLease, State.newLease, hs, Option.map_some, Bool.false_eq_true, if_false, if_true]

end

/-- No line of L1 leaves where none stands in a way that does. -/
theorem State.setWays_keeping {s : State} {c ways : Nat} (h : ∀ p ∈ (s.core c).l1, ways ≤ p.2.way) : s.setWays c ways =
    s.updCore c (fun k => { k with ways := ways, spad := k.spad.filter (fun p => decide (p.1 < 32768 * min (s.core c).ways ways)) }) := by
  have hnone : (s.core c).l1.filter (fun p => decide (p.2.way < ways)) = [] := by
    rw [List.filter_eq_nil_iff]
    intro p hp hw
    have := h p hp
    have := of_decide_eq_true hw
    omega
  rw [State.setWays, hnone, List.foldl_nil]

/-- The cores of a lent cluster have the ways of those that borrow them, and L1 holds no line elsewhere. -/
def State.SameWays (s : State) (g h j : Nat) : Prop :=
  (s.core (16 * h + j)).ways = (s.core (16 * g + j)).ways ∧ ∀ p ∈ (s.core (16 * h + j)).l1, (s.core (16 * h + j)).ways ≤ p.2.way

theorem State.SameWays.after {s : State} {g h i j : Nat} (hi : s.SameWays g h i) (hj : s.SameWays g h j) :
    (s.setWays (16 * h + i) (s.core (16 * g + i)).ways).SameWays g h j := by
  obtain ⟨hways, hlines⟩ := hi
  have hkept : ∀ c, ((s.setWays (16 * h + i) (s.core (16 * g + i)).ways).core c).ways = (s.core c).ways ∧
      ((s.setWays (16 * h + i) (s.core (16 * g + i)).ways).core c).l1 = (s.core c).l1 := by
    intro c
    rw [State.setWays_keeping (hways ▸ hlines), State.core_updCore]
    split
    · rename_i hc
      subst hc
      exact ⟨hways.symm, rfl⟩
    · exact ⟨rfl, rfl⟩
  simpa only [State.SameWays, hkept] using hj

/-- Bringing the lent cores to the ways that they have changes cores alone. -/
theorem foldl_setWays_rest {g h : Nat} (js : List Nat) {s : State} (hs : ∀ j ∈ js, s.SameWays g h j) :
    ∃ cs, js.foldl (fun s j => s.setWays (16 * h + j) (s.core (16 * g + j)).ways) s = { s with cores := cs } := by
  induction js generalizing s with
  | nil => exact ⟨_, rfl⟩
  | cons i r ih =>
    have hi := hs i List.mem_cons_self
    obtain ⟨cs, hcs⟩ := ih (fun j hj => hi.after (hs j (List.mem_cons_of_mem _ hj)))
    refine ⟨cs, ?_⟩
    rw [List.foldl_cons, hcs, State.setWays_keeping (hi.1 ▸ hi.2)]
    rfl

/-- What a grant changes: the cluster of the task lists one more lease, of the task's group, which has joined and has no operation
(08_bonds.md R191, R193). -/
def State.Granted (s s1 : State) (grp : Nat) (ok : Lease → Prop) : Prop :=
  (∀ x, x ≠ warpClu s.cur.warp → s1.cluster x = s.cluster x) ∧
  s1 = { s with clusters := s1.clusters, cores := s1.cores, clock := s1.clock } ∧
  ∃ y, (s1.cluster (warpClu s.cur.warp)).leases = (s.cluster (warpClu s.cur.warp)).leases ++ [y] ∧
    y.lid = (s.warp s.cur.warp).lid ∧ y.grp = grp ∧ y.st = .held ∧ y.q0 = [] ∧ ok y

section
variable {s : State} {k a b grp : Nat} {strait : Bool} {cores : List Nat} {ok : Lease → Prop}

theorem State.withLease_granted (hg : (s.warp s.cur.warp).trec.group? k = some grp)
    (hok : ok (s.newLease s.cur.warp k a b strait cores)) :
    s.Granted (s.withLease s.cur.warp (s.newLease s.cur.warp k a b strait cores)) grp ok := by
  refine ⟨fun x hx => ?_, rfl, _, ?_, rfl, ?_, rfl, rfl, hok⟩
  · rw [State.withLease, State.cluster_updCluster, if_neg (Ne.symm hx)]
    rfl
  · rw [State.withLease, State.cluster_updCluster, if_pos rfl]
    rfl
  · simp only [State.newLease, hg, Option.getD_some]

theorem State.Granted.withCores {s1 : State} (h : s.Granted s1 grp ok) (cs : SMap Core) : s.Granted { s1 with cores := cs } grp ok := by
  obtain ⟨hothers, hrest, hlease⟩ := h
  exact ⟨hothers, congrArg (fun t : State => { t with cores := cs }) hrest, hlease⟩

theorem State.grantLease_plain_granted (hg : (s.warp s.cur.warp).trec.group? k = some grp) (hq : ∀ x ∈ cores, (s.core x).q0 = [])
    (hok : ok (s.newLease s.cur.warp k a b false cores)) : s.Granted (s.grantLease s.cur.warp k a b false cores) grp ok := by
  rw [State.grantLease_plain hq]
  exact State.withLease_granted hg hok

theorem State.grantLease_strait_granted {h i : Nat} (hg : (s.warp s.cur.warp).trec.group? k = some grp)
    (hq : ∀ x ∈ cores, (s.core x).q0 = []) (hs : seamOf (warpClu s.cur.warp) = some (h, i))
    (hw : ∀ j < 16, s.SameWays (warpClu s.cur.warp) h j) (hok : ok (s.newLease s.cur.warp k a b true cores)) :
    s.Granted (s.grantLease s.cur.warp k a b true cores) grp ok := by
  have hsame : ∀ j ∈ List.range 16, (s.withLease s.cur.warp (s.newLease s.cur.warp k a b true cores)).SameWays (warpClu s.cur.warp) h j :=
    fun j hj => hw j (List.mem_range.mp hj)
  obtain ⟨cs, hcs⟩ := foldl_setWays_rest _ hsame
  rw [State.grantLease_strait hq hs, hcs]
  exact (State.withLease_granted hg hok).withCores cs

end

/-! ## unbond -/

section
variable {s : State} {n : Stall} {k : BitVec 2} {grp : Nat} {l : Lease}

theorem unbond_unnamed (hc : s.StrandClear []) (hg : (s.warp s.cur.warp).trec.group? k.toNat = none) :
    s.StrandGives (.unbond n k) n 4 {} := by
  refine ⟨s.passU n.toNat 4, ?_, State.passU_only s n 4 _ rfl⟩
  have hx : exec (.unbond n k) s = execUnbond n k s := rfl
  rw [hx, execUnbond, strandOp_clear hc _ _ (fun _ hr => hr)]
  simp only [hg]

/-- The leases of a group are gone from every cluster. -/
def State.withoutLease (s : State) (lid grp : Nat) : State :=
  { s with clusters := mapVals (fun _ g =>
      { g with leases := g.leases.filter (fun x => !(decide (x.lid = lid) && decide (x.grp = grp))) }) s.clusters }

theorem State.cluster_withoutLease (s : State) (lid grp x : Nat) : (s.withoutLease lid grp).cluster x =
    { s.cluster x with leases := (s.cluster x).leases.filter (fun y => !(decide (y.lid = lid) && decide (y.grp = grp))) } := by
  rw [State.cluster, State.withoutLease, SMap.get_mapVals _ _ _ _ rfl]
  rfl

theorem State.mem_withoutLease (s : State) (lid grp x : Nat) (y : Lease) :
    y ∈ ((s.withoutLease lid grp).cluster x).leases ↔ y ∈ (s.cluster x).leases ∧ ¬(y.lid = lid ∧ y.grp = grp) := by
  rw [State.cluster_withoutLease]
  simp only [List.mem_filter, Bool.not_eq_true', Bool.and_eq_false_iff, decide_eq_false_iff_not, not_and_or]

theorem unbond_idle (hc : s.StrandClear []) (hg : (s.warp s.cur.warp).trec.group? k.toNat = some grp)
    (hr : ((s.launch (s.warp s.cur.warp).lid).gstate grp).revoked = false) {g : Nat}
    (hl : s.leaseOf (s.warp s.cur.warp).lid grp = some (g, l)) (hq : l.q0 = []) (hst : l.st = .held)
    (hw : (s.warp s.cur.warp).waitOn = none) :
    exec (.unbond n k) s = .next ((s.withoutLease (s.warp s.cur.warp).lid grp).passU n.toNat 4) := by
  have hx : exec (.unbond n k) s = execUnbond n k s := rfl
  rw [hx, execUnbond, strandOp_clear hc _ _ (fun _ hr => hr)]
  simp [hg, hr, hl, hq, hst, hw, State.withoutLease]

end

/-! ## O39 -/

theorem shapeOf_eq (x : BitVec 2) : shapeOf x.toNat = if x = 0 then 1 else if x = 1 then 2 else 4 := by
  revert x
  decide

theorem shapeOf_cases (x : BitVec 2) : shapeOf x.toNat = 1 ∨ shapeOf x.toNat = 2 ∨ shapeOf x.toNat = 4 := by
  revert x
  decide

section
variable {s : State} {n : Stall} {d : BitVec 6} {k cc rc : BitVec 2}

theorem exec_bond (hcc : cc ≠ 3) (hrc : rc ≠ 3) : exec (.bond n d k cc rc) s = bondOp n d k false (shapeOf rc.toNat) (shapeOf cc.toNat) s := by
  have hx : exec (.bond n d k cc rc) s = execBond n d k cc rc s := rfl
  rw [hx, execBond, if_neg (not_or.mpr ⟨hcc, hrc⟩)]

theorem bond_badShape_traps (hc : s.StrandClear []) (h : cc = 3 ∨ rc = 3) (hh : s.Handled) (hl : (s.warp s.cur.warp).live ≠ 0) :
    s.StrandTraps (.bond n d k cc rc) 0x01 := by
  have hx : exec (.bond n d k cc rc) s = execBond n d k cc rc s := rfl
  refine State.strandTrap_traps hh hc.1 hl (by decide) ?_
  rw [hx, execBond, if_pos h, strandOp_clear hc _ _ (fun _ hr => hr)]

end

/-- Settles O39: a request's code is decided by its group, then by the members and leases of its cores, then by the seam; code 0 makes the
lease. -/
theorem bonds : Obligations.Bonds := by
  unfold Obligations.Bonds
  intro s n d k cc rc g h i l w c cl shape L answers member free granted inRect hc
  have hrect (x : Nat) : x ∈ rectCores c (shapeOf rc.toNat) (shapeOf cc.toNat) ↔ inRect (shape rc) (shape cc) x := by
    rw [mem_rectCores (shapeOf_cases rc) (shapeOf_cases cc), shapeOf_eq, shapeOf_eq]
  have hmember (x : Nat) : s.hasMember w.lid g x = true ↔ member x := s.hasMember_iff w.lid g x
  have hstrait : exec (.bondStrait n d k) s = bondOp n d k true 4 8 s := rfl
  have grants {j : Instr} {strait : Bool} {a b : Nat} {cores : List Nat} {ok : Lease → Prop} (hx : exec j s = bondOp n d k strait a b s)
      (hv : s.bondCode s.cur.warp k.toNat strait a b = (0, cores))
      (hgr : s.Granted (s.grantLease s.cur.warp k.toNat a b strait cores) g ok) : granted j ok := by
    obtain ⟨hothers, hrest, hlease⟩ := hgr
    exact ⟨_, _, bondOp_grants hc hx hv, State.putS_only .., hothers, hrest, hlease⟩
  refine ⟨?_, ?_, ?_, ?_, ?_, ?_, ?_, ?_⟩
  · intro hcc hrc hg
    exact ⟨bondOp_refused hc (exec_bond hcc hrc) (State.bondCode_unnamed hg ..) one_ne_zero,
      bondOp_refused hc hstrait (State.bondCode_unnamed hg ..) one_ne_zero⟩
  · intro hcc hrc hg hp hl
    exact ⟨bondOp_refused hc (exec_bond hcc hrc) (State.bondCode_held hg hp hl ..) two_ne_zero,
      bondOp_refused hc hstrait (State.bondCode_held hg hp hl ..) two_ne_zero⟩
  · intro hcc hrc hg hp hl hr hall
    have hin : ∀ x ∈ rectCores c (shapeOf rc.toNat) (shapeOf cc.toNat), member x ∧ free x ∧ (s.core x).q0 = [] :=
      fun x hx => hall x ((hrect x).mp hx)
    exact grants (exec_bond hcc hrc)
      (State.bondCode_plain_granted ⟨hg, hp, hl, hr⟩ (fun x hx => ⟨(hmember x).mpr (hin x hx).1, (hin x hx).2.1⟩))
      (State.grantLease_plain_granted hg (fun x hx => (hin x hx).2.2) ⟨shapeOf_eq rc, shapeOf_eq cc, rfl, hrect⟩)
  · intro hcc hrc hg hp hl hr rect both
    have hmay : s.MayBond s.cur.warp k.toNat g := ⟨hg, hp, hl, hr⟩
    refine ⟨fun ⟨x, hx, hm⟩ => ?_, fun ⟨x, hx, hm⟩ => ?_, fun hall ⟨x, hx, hf⟩ => ?_, fun hall hf => ?_⟩
    · exact bondOp_refused hc (exec_bond hcc hrc)
        (State.bondCode_plain_missing hmay ⟨x, (hrect x).mpr hx, fun h => hm ((hmember x).mp h)⟩) (by decide)
    · exact bondOp_refused hc hstrait (State.bondCode_strait_missing hmay 4 8 ⟨x, hx, fun h => hm ((hmember x).mp h)⟩) (by decide)
    · exact bondOp_refused hc (exec_bond hcc hrc)
        (State.bondCode_plain_leased hmay (fun x hx => (hmember x).mpr (hall x ((hrect x).mp hx))) ⟨x, (hrect x).mpr hx, hf⟩) (by decide)
    · exact bondOp_refused hc hstrait (State.bondCode_strait_leased hmay 4 8 (fun x hx => (hmember x).mpr (hall x hx)) hf) (by decide)
  · intro hg hp hl hr hall
    have hcode (hlent : ∀ x ∈ seamCores cl, free x) : s.bondCode s.cur.warp k.toNat true 4 8 = s.seamCode cl :=
      State.bondCode_strait_free ⟨hg, hp, hl, hr⟩ 4 8 (fun x hx => ⟨(hmember x).mpr (hall x hx).1, (hall x hx).2.1⟩) hlent
    have refused {v : Nat} (hlent : ∀ x ∈ seamCores cl, free x) (hv : (s.seamCode cl).1 = v) (h0 : v ≠ 0) : answers (.bondStrait n d k) v :=
      bondOp_refused hc hstrait ((congrArg Prod.fst (hcode hlent)).trans hv) h0
    refine ⟨fun hs => ?_, fun hs hm hf => ?_, fun hs hm hf => ⟨fun hd => ?_, fun hpart hreg ho => ?_⟩, fun hs hm hpart hreg hf hw => ?_⟩
    · exact refused (forall_seamCores_none hs) (State.seamCode_none hs) (by decide)
    · exact refused (forall_seamCores_some hs hf) (State.seamCode_unusable hs hm) (by decide)
    · exact refused (forall_seamCores_some hs hf) (State.seamCode_apart hs hm hd) (by decide)
    · exact refused (forall_seamCores_some hs hf) (State.seamCode_occupied hs hm hpart hreg ho) (by decide)
    · have hcores (x : Nat) : x ∈ (if cl < 64 then straitCores cl h else straitCores h cl) ↔ x / 16 = cl ∨ x / 16 = h := by
        split
        · exact mem_straitCores ..
        · rw [mem_straitCores, or_comm]
      refine grants hstrait ((hcode (forall_seamCores_some hs (fun x hx => (hf x hx).1))).trans
        (State.seamCode_granted hs hm hpart hreg (fun x hx => (hf x hx).2.2)))
        (State.grantLease_strait_granted hg ?_ hs hw ⟨rfl, rfl, rfl, congrArg (Option.map Prod.fst) hs, hcores⟩)
      exact fun x hx => ((hcores x).mp hx).elim (fun hx => (hall x hx).2.2) (fun hx => (hf x hx).2.1)
  · exact fun h3 hh hl => bond_badShape_traps hc h3 hh hl
  · intro hg hr hl hq hst hw
    exact ⟨s.withoutLease w.lid g, _, unbond_idle hc hg hr hl hq hst hw, State.passU_only _ n 4 _ rfl, rfl,
      fun x => ⟨by rw [State.cluster_withoutLease], s.mem_withoutLease w.lid g x⟩⟩
  · exact fun hg => unbond_unnamed hc hg

end Sys2Proof.Machine
end

section
/-! SUPPORT. A qwait of a strand whose core's L1 lists a line twice, first as it came and then written (10_memory.md R265,
11_ordering.md R282, 09_tensor_instr.md R302), and obligation O40. -/

namespace Sys2Proof.Machine

/-- A line of L1 with byte 0 written. -/
def writtenLine : L1Line := { data := 0, dirty := 1, tid := 0, part := 0, next := false }

/-- The reset state with line 0 twice in the L1 of core 0, first without a byte written there and then with byte 0 written. -/
def twiceInL1 : State :=
  { State.reset with cores := [(0, { Core.dflt with l1 := [(0, { writtenLine with dirty := 0 }), (0, writtenLine)] })] }

theorem twiceInL1_clear : twiceInL1.StrandClear [] := ⟨rfl, by decide, rfl, nofun⟩

/-- Each line of the L1 reads as one without a byte written there: the first entry hides the second. -/
theorem twiceInL1_clean (k : Nat) (l : L1Line) (h : (twiceInL1.core 0).l1? k = some l) : l.dirty = 0 := by
  rcases Nat.eq_zero_or_pos k with rfl | hk
  · cases h
    rfl
  · have hnone : (twiceInL1.core 0).l1? k = none := by
      show SMap.find? [(0, _), (0, _)] k = none
      simp only [SMap.find?, if_neg hk.ne]
    exact nomatch hnone.symm.trans h

/-- qwait drops the first entry, and the second has its line fetched into the L2 of the die. -/
theorem twiceInL1_fetches :
    twiceInL1.mem.l2 = [] ∧
      (match exec (.qwait 0 1) twiceInL1 with
        | .next t => t.mem.l2.isEmpty
        | _ => true) = false := by decide +kernel

/-- Refutes O40: the L1 of the core lists line 0 twice, first clean and then written. The statement's hypothesis that each written line
stands in the L2 looks at the entry found first, so that it holds without such a line; qwait takes every clean entry out of the L1 and
refreshes the written one that is left, whose line it fetches into the L2. The statement leaves the L2 as it was. (The operations and the
fence that it also speaks of, any at all, play no part.) -/
theorem not_engineQueuesAndFences : ¬ Obligations.EngineQueuesAndFences := by
  unfold Obligations.EngineQueuesAndFences
  rintro ⟨-, h⟩
  have hops : twiceInL1.opsOf twiceInL1.cur.warp = [] := by decide +kernel
  obtain ⟨-, hwait, -⟩ := h twiceInL1 0 1 straitCopy straitCopy ⟨0, 0⟩ twiceInL1_clear
  rw [hops] at hwait
  obtain ⟨s1, t, ht, honly, -, hs1, -⟩ := hwait (List.forall_mem_nil _) (fun k l hl hd => absurd (twiceInL1_clean k l hl) hd) rfl
  obtain ⟨hbefore, hafter⟩ := twiceInL1_fetches
  have hl2 : t.mem.l2 = [] := by rw [honly.rest, hs1]; exact hbefore
  rw [ht] at hafter
  exact nomatch ((congrArg List.isEmpty hl2).symm.trans hafter : true = false)

end Sys2Proof.Machine
end

section
/-! SUPPORT. A copy engine's store whose tile the tile table lists twice (09_tensor_instr.md R216, R217, R231), and obligation O53. -/

namespace Sys2Proof.Machine

/-- A store of one byte of the first tile to address 0 in progress, which has read nothing yet. -/
def byteStore : EngOp :=
  { kind := .tcopy, warp := 0, lid := 0, taskId := 0, num := 0, q := 2, st := .running
    pb := bytesOf 24 0 ++ bytesOf 4 21 ++ bytesOf 4 0 ++ bytesOf 4 1, reads := [(0, 5)] }

/-- An entry that is freed while one operation reads it. -/
def freedEntry : Tile :=
  { st := .draining, owner := .task 0, base := 0, size := 1, expect := 0, tfmt := 5, swz := 0, freeing := true, readers := 1 }

/-- That store at the head of its queue. The tile table of its core lists the tile twice. -/
def twiceStored : State :=
  { State.reset with
    warps := [(0, { slot := .board, queues := [(2, [byteStore])] })]
    cores := [(0, { Core.dflt with tiles := [(5, freedEntry), (5, freedEntry)] })]
    launches := [(0, { Launch.dflt with wrote := [0] })]
    regs := [(pkgBlk 0x10000, 0xC000000000000000)]
    mem := { l2 := [(lineKey 0 0, ⟨0, 0, 0, 0, 0⟩)], tlb := [straitPage] }
    cur := { warp := 0, q := 2 } }

theorem twiceStored_plain : twiceStored.mem.Plain := ⟨rfl, rfl, ⟨rfl, rfl, rfl⟩, rfl, rfl⟩

/-- The byte is written to address 0. -/
theorem twiceStored_within : twiceStored.Within (twiceStored.copyMaster byteStore) 0 .write 0 :=
  State.within_alone (l := 0) (L := { Launch.dflt with wrote := [0] }) (e := straitPage) (by decide) (by decide +kernel) rfl rfl
    (by decide +kernel) (by decide) ⟨rfl, rfl, rfl⟩ rfl (by decide +kernel) (by decide +kernel) (by decide +kernel)

/-- The byte that the tile holds. -/
theorem twiceStored_byte :
    (byteStore.convert (ofBytes (getBytes (twiceStored.core 0).spad (16 * freedEntry.base + byteStore.tileOff) (fmtSize byteStore.fmt)))).1 = [0] := by
  decide +kernel

/-- The store takes the first entry out of the table, and the second is found. -/
theorem twiceStored_keeps :
    (match exec .tcopyStore twiceStored with
      | .next t => t.tile? 0 5
      | _ => none) = some freedEntry := by decide +kernel

/-- Refutes O53: the tile table of the core lists the tile of a store twice, freed and read by the store alone. With the store's last byte
the entry found goes, as R217 has it; the statement says that none is found then, but the second one is. -/
theorem not_copiesAndGathers : ¬ Obligations.CopiesAndGathers := by
  unfold Obligations.CopiesAndGathers
  intro h
  obtain ⟨-, -, -, -, hwrites, -⟩ := h twiceStored byteStore (fun _ _ => 0) (by decide +kernel)
  obtain ⟨hstore, -⟩ := hwrites ⟨rfl, rfl, by decide +kernel, rfl, rfl, rfl, rfl, ⟨rfl, rfl, rfl⟩, rfl⟩
    ⟨by decide +kernel, by decide +kernel⟩ rfl (by decide +kernel) (by decide +kernel) twiceStored_plain
  have hreach : ∀ u ∈ units 1, twiceStored.Within (twiceStored.copyMaster byteStore) (0 + u.1) .write 0 := fun u hu => by
    cases List.mem_singleton.mp hu
    exact twiceStored_within
  obtain ⟨t, p, ht, -, -, -, -, htile⟩ := hstore 0 5 freedEntry (by decide +kernel) (by decide +kernel) rfl rfl rfl
    (by rw [twiceStored_byte]; exact hreach) (by decide +kernel) (by decide +kernel)
  have hkeeps := twiceStored_keeps
  rw [ht] at hkeeps
  exact nomatch (hkeeps.symm.trans htile : some freedEntry = none)

end Sys2Proof.Machine
end

section
/-! SUPPORT. Keyed lists whose keys rise, and the entries of a list after an update. -/

namespace Sys2Proof

section
variable {α : Type}

theorem SMap.rising_cons {k : Nat} {v : α} {r : SMap α} (h : SMap.rising ((k, v) :: r) = true) :
    SMap.rising r = true ∧ ∀ p ∈ r, k < p.1 := by
  induction r generalizing k v with
  | nil => exact ⟨rfl, nofun⟩
  | cons q r ih =>
    obtain ⟨j, w⟩ := q
    rw [SMap.rising, Bool.and_eq_true, decide_eq_true_eq] at h
    obtain ⟨hkj, hr⟩ := h
    refine ⟨hr, fun p hp => ?_⟩
    rcases List.mem_cons.mp hp with rfl | hp
    · exact hkj
    · exact hkj.trans ((ih hr).2 p hp)

theorem SMap.find?_eq_none {m : SMap α} {k : Nat} (h : ∀ p ∈ m, p.1 ≠ k) : SMap.find? m k = none := by
  induction m with
  | nil => rfl
  | cons p r ih =>
    obtain ⟨j, w⟩ := p
    rw [SMap.find?, if_neg (h (j, w) List.mem_cons_self)]
    exact ih (fun q hq => h q (List.mem_cons_of_mem _ hq))

theorem SMap.mem_of_find? {m : SMap α} {k : Nat} {v : α} (h : SMap.find? m k = some v) : (k, v) ∈ m := by
  induction m with
  | nil => exact nomatch h
  | cons p r ih =>
    obtain ⟨j, w⟩ := p
    rw [SMap.find?] at h
    split at h
    · rename_i hj
      cases h
      exact hj ▸ List.mem_cons_self
    · exact List.mem_cons_of_mem _ (ih h)

theorem SMap.mem_set {m : SMap α} {k : Nat} {v : α} {p : Nat × α} (h : p ∈ SMap.set m k v) : p ∈ m ∨ p = (k, v) := by
  induction m with
  | nil => exact .inr (List.mem_singleton.mp h)
  | cons q r ih =>
    obtain ⟨j, w⟩ := q
    rw [SMap.set] at h
    split at h
    · exact (List.mem_cons.mp h).symm
    · split at h
      · exact (List.mem_cons.mp h).symm.imp_left (List.mem_cons_of_mem _)
      · rcases List.mem_cons.mp h with rfl | h
        · exact .inl List.mem_cons_self
        · exact (ih h).imp_left (List.mem_cons_of_mem _)

theorem SMap.find?_del_other (m : SMap α) {k j : Nat} (h : k ≠ j) : SMap.find? (SMap.del m k) j = SMap.find? m j := by
  induction m with
  | nil => rfl
  | cons p r ih =>
    obtain ⟨a, w⟩ := p
    rw [SMap.del, SMap.find?]
    split
    · rename_i hk
      rw [if_neg (hk ▸ h)]
    · rw [SMap.find?, ih]

/-- An entry that is put and taken out again is gone, where no key is listed twice. -/
theorem SMap.find?_del_set {m : SMap α} (hm : m.rising = true) (k : Nat) (v : α) :
    SMap.find? (SMap.del (SMap.set m k v) k) k = none := by
  induction m with
  | nil => rw [SMap.set, SMap.del, if_pos rfl, SMap.find?]
  | cons p r ih =>
    obtain ⟨a, w⟩ := p
    obtain ⟨hr, habove⟩ := SMap.rising_cons hm
    rw [SMap.set]
    split
    · rename_i hka
      rw [SMap.del, if_pos rfl]
      refine SMap.find?_eq_none (fun q hq => ?_)
      rcases List.mem_cons.mp hq with rfl | hq
      · exact hka.ne'
      · exact (hka.trans (habove q hq)).ne'
    · split
      · rename_i hka
        rw [SMap.del, if_pos rfl]
        exact SMap.find?_eq_none (fun q hq => hka ▸ (habove q hq).ne')
      · rename_i hka
        rw [SMap.del, if_neg hka, SMap.find?, if_neg (Ne.symm hka)]
        exact ih hr

end

end Sys2Proof
end

section
/-! SUPPORT. The tile table: descriptors, what a change of an entry leaves as it was, waits on an entry, and reads of a ready one
(09_tensor_instr.md R214 to R223); tensor ids (10_memory.md R260, R261); and obligation O37. -/

namespace Sys2Proof.Machine

/-! ## Waits on a tile -/

/-- No lane listed in a slot waits in a given way. -/
def Warp.NoneAt (w : Warp) (x : LaneWait) : Prop := ∀ p ∈ w.lanes, p.2.wait ≠ x

section
variable {w : Warp} {x : LaneWait}

theorem Warp.NoneAt.lane (h : w.NoneAt x) (hx : x ≠ .none) (i : Nat) : (w.lane i).wait ≠ x := by
  unfold Warp.lane SMap.get
  cases hf : SMap.find? w.lanes i with
  | none => exact hx.symm
  | some l => exact h _ (SMap.mem_of_find? hf)

theorem Warp.NoneAt.updLanes (h : w.NoneAt x) (hx : x ≠ .none) {f : Nat → Lane → Lane} (hf : ∀ i l, (f i l).wait = l.wait) (is : List Nat) :
    (w.updLanes is f).NoneAt x := by
  unfold Warp.updLanes
  induction is generalizing w with
  | nil => exact h
  | cons i r ih =>
    refine ih (fun p hp => ?_)
    rcases SMap.mem_set hp with hp | rfl
    · exact h p hp
    · exact (hf i _).symm ▸ h.lane hx i

theorem Warp.NoneAt.passU (h : w.NoneAt x) (hx : x ≠ .none) (n : Nat) (p : Addr) : (w.passU n p).NoneAt x :=
  h.updLanes hx (f := fun _ l => { l with pc := p }) (fun _ _ => rfl) _

end

/-- A tile of which no lane of a slot waits wakes none there. -/
theorem State.wakeTile_warp {s : State} {t k : Nat} (h : (s.warp k).NoneAt (.tile t)) (c : Nat) : (s.wakeTile c t).warp k = s.warp k := by
  unfold State.wakeTile State.warp
  dsimp only
  refine SMap.get_mapVals_fixed _ _ _ _ ?_
  refine if_neg ?_
  simp only [Bool.and_eq_true, List.any_eq_true, decide_eq_true_eq, not_and, not_exists]
  exact fun _ p hp => h p hp

/-! ## Changes of an entry -/

/-- One tile entry of a core has changed; no lane waited for it, so that every slot reads as before. -/
structure State.TilesOnly (s u : State) (c t : Nat) : Prop where
  rest : u = { s with warps := u.warps, cores := u.cores }
  warp : ∀ k, u.warp k = s.warp k
  others : ∀ k, k ≠ c → u.core k = s.core k
  core : u.core c = { s.core c with tiles := (u.core c).tiles }
  entries : ∀ k, k ≠ t → (u.core c).tiles.find? k = (s.core c).tiles.find? k

theorem State.TilesOnly.trans {s u v : State} {c t : Nat} (h : s.TilesOnly u c t) (g : u.TilesOnly v c t) : s.TilesOnly v c t := by
  refine ⟨?_, fun k => (g.warp k).trans (h.warp k), fun k hk => (g.others k hk).trans (h.others k hk), ?_,
    fun k hk => (g.entries k hk).trans (h.entries k hk)⟩
  · conv_lhs => rw [g.rest, h.rest]
  · conv_lhs => rw [g.core, h.core]

section
variable {s : State} {c t : Nat}

theorem State.core_setTile (v : Option Tile) (k : Nat) : (s.setTile c t v).core k =
    if c = k then { s.core c with tiles := v.elim ((s.core c).tiles.del t) ((s.core c).tiles.set t) } else s.core k := by
  cases v <;> exact SMap.get_set _ _ _ _ _

theorem State.setTile_tiles (v : Option Tile) :
    ((s.setTile c t v).core c).tiles = v.elim ((s.core c).tiles.del t) ((s.core c).tiles.set t) := by
  rw [State.core_setTile, if_pos rfl]

theorem State.setTile_only (h : ∀ k, (s.warp k).NoneAt (.tile t)) (v : Option Tile) : s.TilesOnly (s.setTile c t v) c t := by
  refine ⟨rfl, fun k => State.wakeTile_warp (s := s.updCore c _) (h k) c, fun k hk => ?_, ?_, fun k hk => ?_⟩
  · rw [State.core_setTile, if_neg (Ne.symm hk)]
  · rw [State.core_setTile, if_pos rfl]
  · rw [State.setTile_tiles]
    cases v with
    | none => exact SMap.find?_del_other _ (Ne.symm hk)
    | some x => exact (SMap.find?_set _ _ _ _).trans (if_neg (Ne.symm hk))

/-- An entry that nothing fills or reads goes, where it is marked for release (R217). -/
theorem State.settleTile_of_find? {e : Tile} (h : (s.core c).tiles.find? t = some e) (hf : e.freeing = true) :
    s.settleTile c t = if e.fills = 0 ∧ e.readers = 0 then s.setTile c t none else s := by
  simp only [State.settleTile, h, hf, Bool.true_and, Bool.and_eq_true, decide_eq_true_eq]

/-- An entry of a table without repetitions is marked for release, and taken out at once where nothing fills or reads it (R217). -/
theorem State.freeTile_only (h : ∀ k, (s.warp k).NoneAt (.tile t)) (hr : (s.core c).tiles.rising = true) (e : Tile) :
    let u := (s.setTile c t (some { e with freeing := true })).settleTile c t
    s.TilesOnly u c t ∧ (u.core c).tiles.find? t = if e.fills = 0 ∧ e.readers = 0 then none else some { e with freeing := true } := by
  have hset := State.setTile_only (c := c) h (some { e with freeing := true })
  have htiles : ((s.setTile c t (some { e with freeing := true })).core c).tiles = (s.core c).tiles.set t { e with freeing := true } :=
    State.setTile_tiles _
  have hfind : ((s.setTile c t (some { e with freeing := true })).core c).tiles.find? t = some { e with freeing := true } := by
    rw [htiles, SMap.find?_set, if_pos rfl]
  have hwarps : ∀ k, ((s.setTile c t (some { e with freeing := true })).warp k).NoneAt (.tile t) := fun k => hset.warp k ▸ h k
  rw [State.settleTile_of_find? hfind rfl]
  by_cases hidle : e.fills = 0 ∧ e.readers = 0
  · simp only [if_pos hidle]
    rw [State.setTile_tiles, htiles]
    exact ⟨hset.trans (State.setTile_only hwarps none), SMap.find?_del_set hr _ _⟩
  · simp only [if_neg hidle]
    exact ⟨hset, hfind⟩

end

/-- The strand goes on, and beside it one tile entry of a core has changed. -/
theorem State.TilesOnly.strandOnly {s u : State} {n : Stall} {c t : Nat} (h : (s.passU n.toNat 4).TilesOnly u c t) :
    ({ s with cores := u.cores } : State).StrandOnly u n 4 {} := by
  obtain ⟨-, hothers, hshared, hlane, hreg⟩ := State.passU_only s n 4 _ rfl
  refine ⟨h.rest, fun k hk => (h.warp k).trans (hothers k hk), ?_, fun j => ?_, fun k => ?_⟩ <;> rw [h.warp]
  · exact hshared
  · exact hlane j
  · exact hreg k

section
variable {s : State} {n : Stall} {t a : BitVec 6} {e : Tile}

/-- What talloc and tfree do: the strand goes on, and one entry of the issuer's core is as given. -/
def State.Retiles (s : State) (i : Instr) (n : Stall) (t : Nat) (v : Option Tile) : Prop :=
  ∃ s1 u : State, exec i s = .next u ∧ s1.StrandOnly u n 4 {} ∧
    (s1 = { s with cores := s1.cores } ∧ (∀ k, k ≠ coreOf s.cur.warp → s1.core k = s.core k) ∧
      s1.core (coreOf s.cur.warp) = { s.core (coreOf s.cur.warp) with tiles := (s1.core (coreOf s.cur.warp)).tiles } ∧
      ∀ k, k ≠ t → (s1.core (coreOf s.cur.warp)).tiles.find? k = (s.core (coreOf s.cur.warp)).tiles.find? k) ∧
    (s1.core (coreOf s.cur.warp)).tiles.find? t = v

theorem State.TilesOnly.retiles {u : State} {i : Instr} {k : Nat} {v : Option Tile} (hx : exec i s = .next u)
    (h : (s.passU n.toNat 4).TilesOnly u (coreOf s.cur.warp) k) (hv : (u.core (coreOf s.cur.warp)).tiles.find? k = v) : s.Retiles i n k v :=
  ⟨_, u, hx, h.strandOnly, ⟨rfl, h.others, h.core, h.entries⟩, hv⟩

theorem State.noneAt_passU {x : LaneWait} (h : ∀ k, (s.warp k).NoneAt x) (hx : x ≠ .none) (n len k : Nat) :
    ((s.passU n len).warp k).NoneAt x := by
  unfold State.passU
  rw [State.warp_updWarp]
  split
  · exact (h _).passU hx _ _
  · exact h k

theorem talloc_retiles (hc : s.StrandClear [a.toNat]) (hw : ∀ k, (s.warp k).NoneAt (.tile t.toNat))
    (he : s.tileOf s.cur.warp t.toNat (s.sval s.cur.warp 0 a.toNat) = .inr e) : s.Retiles (.talloc n t a) n t.toNat (some e) := by
  have hx : exec (.talloc n t a) s = execTalloc n t a s := rfl
  rw [execTalloc, strandOp_clear hc _ _ (fun _ hr => hr)] at hx
  simp only [he] at hx
  refine State.TilesOnly.retiles hx (State.setTile_only (State.noneAt_passU hw nofun _ _) _) ?_
  rw [State.setTile_tiles]
  exact (SMap.find?_set _ _ _ _).trans (if_pos rfl)

theorem tfree_retiles (hc : s.StrandClear []) (hw : ∀ k, (s.warp k).NoneAt (.tile t.toNat))
    (hf : (s.core (coreOf s.cur.warp)).tiles.find? t.toNat = some e) (ho : e.owner = .task s.cur.warp) (hn : e.freeing = false)
    (hr : (s.core (coreOf s.cur.warp)).tiles.rising = true) :
    s.Retiles (.tfree n t) n t.toNat (if e.fills = 0 ∧ e.readers = 0 then none else some { e with freeing := true }) := by
  have hmay : s.mayName s.cur.warp e = true := by simp [State.mayName, ho, Warp.speaksFor]
  have hx : exec (.tfree n t) s = execTfree n t s := rfl
  rw [execTfree, strandOp_clear hc _ _ (fun _ hr => hr)] at hx
  simp only [hf, hn, hmay, Bool.not_true, Bool.or_self, Bool.false_eq_true, if_false] at hx
  obtain ⟨honly, hfind⟩ := State.freeTile_only (s := s.passU n.toNat 4) (c := coreOf s.cur.warp) (State.noneAt_passU hw nofun _ _) hr e
  exact honly.retiles hx hfind

end

/-! ## Descriptors -/

/-- A descriptor of a tile that the task alone is to own (09_tensor_instr.md R220). -/
def tileDesc (base size expect fmt swz : Nat) : Word64 :=
  BitVec.ofNat 64 (base + size * 2 ^ 14 + expect * 2 ^ 28 + fmt * 2 ^ 42 + swz * 2 ^ 46)

section
variable {base size expect fmt swz : Nat}

/-- The fields of a descriptor. -/
theorem tileDesc_fields (hb : base < 2 ^ 14) (hs : size < 2 ^ 14) (he : expect < 2 ^ 14) (hf : fmt < 2 ^ 4) (hz : swz < 2 ^ 3) :
    let x := tileDesc base size expect fmt swz
    field x 13 0 = base ∧ field x 27 14 = size ∧ field x 41 28 = expect ∧ field x 45 42 = fmt ∧ field x 48 46 = swz ∧
      bitAt x 51 = false ∧ field x 63 52 = 0 := by
  intro x
  have hlt : base + size * 2 ^ 14 + expect * 2 ^ 28 + fmt * 2 ^ 42 + swz * 2 ^ 46 < 2 ^ 49 := by omega
  have hx : x.toNat = base + size * 2 ^ 14 + expect * 2 ^ 28 + fmt * 2 ^ 42 + swz * 2 ^ 46 := by
    rw [show x = tileDesc base size expect fmt swz from rfl, tileDesc, BitVec.toNat_ofNat, Nat.mod_eq_of_lt (by omega)]
  have h51 : bitAt x 51 = false := by
    rw [bitAt_eq_testBit, hx]
    exact Nat.testBit_lt_two_pow (by omega)
  simp only [field, hx, h51, Nat.reduceAdd, Nat.reduceSub, Nat.reducePow]
  refine ⟨?_, ?_, ?_, ?_, ?_, trivial, ?_⟩ <;> omega

/-- A descriptor whose tile fits its scratchpad beside the others makes an entry of the task (09_tensor_instr.md R216, R220). -/
theorem State.tileOf_tileDesc {s : State} {w t : Nat} (ht : (s.core (coreOf w)).tiles.find? t = none) (hb : base < 2 ^ 14) (hs : 0 < size)
    (hs2 : size ≤ 14336) (he : expect ≤ size) (hf : fmt < 8) (hz : swz < 7) (hroom : (base + size) * 16 ≤ 32768 * (s.core (coreOf w)).ways)
    (hfree : ∀ p ∈ (s.core (coreOf w)).tiles, base + size ≤ p.2.base ∨ p.2.base + p.2.size ≤ base)
    (hswz : swz ≠ 0 → base * 16 % 2 ^ (swz + 3) = 0 ∧ size * 16 % 2 ^ (swz + 3) = 0) :
    s.tileOf w t (tileDesc base size expect fmt swz) =
      .inr { st := if expect = 0 then .ready else .filling, owner := .task w, base := base, size := size, expect := expect, tfmt := fmt,
             swz := swz } := by
  obtain ⟨hbase, hsize, hexpect, hfmt, hsw, hgroup, hrest⟩ :=
    tileDesc_fields hb (size := size) (by omega) (expect := expect) (by omega) (fmt := fmt) (by omega) (swz := swz) (by omega)
  have hapart : (s.core (coreOf w)).tiles.any (fun p => extentsMeet base size p.2.base p.2.size) = false := by
    rw [List.any_eq_false]
    intro p hp
    have := hfree p hp
    simp only [extentsMeet, Bool.and_eq_true, decide_eq_true_eq]
    omega
  have haligned : ¬(1 ≤ swz ∧ (base * 16 % 2 ^ (swz + 3) ≠ 0 ∨ size * 16 % 2 ^ (swz + 3) ≠ 0)) := fun ⟨h1, h2⟩ =>
    h2.elim (· (hswz (by omega)).1) (· (hswz (by omega)).2)
  have hfits : ¬((s.core (coreOf w)).spadBytes < (base + size) * 16 ∨ False) := not_or.mpr ⟨Nat.not_lt.mpr hroom, not_false⟩
  simp only [State.tileOf, ht, hbase, hsize, hexpect, hfmt, hsw, hgroup, hrest, Option.isSome_none, Bool.false_eq_true, if_false, hapart]
  rw [if_neg (by omega), if_neg hfits, if_neg haligned]

end

/-! ## Waits and traps at an entry -/

section
variable (s : State) (w : Nat) (long : Bool)

/-- A slot comes to stall at most. -/
theorem State.stallIf_rest : s.stallIf w long = { s with warps := (s.stallIf w long).warps, clock := (s.stallIf w long).clock } := by
  unfold State.stallIf
  split <;> rfl

theorem State.stallIf_warp : (s.stallIf w long).warp w =
    { s.warp w with slot := ((s.stallIf w long).warp w).slot, since := ((s.stallIf w long).warp w).since } := by
  unfold State.stallIf
  split
  · have hw : ({ s.updWarp w (fun v => { v with slot := .boardStalled, since := s.clock }) with clock := s.clock + 1 } : State).warp w =
        { s.warp w with slot := .boardStalled, since := s.clock } := (SMap.get_set _ _ _ _ _).trans (if_pos rfl)
    rw [hw]
  · rfl

theorem State.stallIf_others {k : Nat} (hk : k ≠ w) : (s.stallIf w long).warp k = s.warp k := by
  unfold State.stallIf
  split
  · exact (SMap.get_set _ _ _ _ _).trans (if_neg (Ne.symm hk))
  · rfl

end

/-- The held operations of a task depend on its queues, the queues of its core and the leases. -/
theorem State.untolds_congr {s t : State} {w : Nat} (hcore : t.cores = s.cores) (hclu : t.clusters = s.clusters)
    (hq : (t.warp w).queues = (s.warp w).queues) (hl : (t.warp w).lid = (s.warp w).lid) (hi : (t.warp w).taskId = (s.warp w).taskId) :
    t.untolds w = s.untolds w := by
  simp only [State.untolds, State.core, hcore, hclu, hq, hl, hi]

theorem State.heldToWaiters_none {s : State} {w : Nat} (h : s.untolds w = []) : s.heldToWaiters w = s := by
  rw [State.heldToWaiters, h]
  rfl

section
variable {s : State} {rs : View → List LRes}

theorem State.ClearBy.nothing (h : s.ClearBy rs) : s.ClearBy (fun _ => []) := ⟨h.1, fun _ _ _ _ hr => nomatch hr⟩

/-- No executing lane reads a resource within its gap. -/
theorem State.ClearBy.no_gap (h : s.ClearBy rs) {i : Nat} (hi : i ∈ s.execLanes) :
    ((s.view i).w.seenChk (s.view i).second && (rs (s.view i)).any (fun r => (pendOf (s.view i).ln.pend r).isSome)) = false := by
  rw [Bool.and_eq_false_iff, or_iff_not_imp_left, Bool.not_eq_false]
  intro hchk
  rw [List.any_eq_false]
  intro r hr
  have hnone : pendOf (s.view i).ln.pend r = none := h.2 hchk i hi r hr
  simp [hnone]

/-- The group waits for a tile, and nothing else changes but whether its slot stalls. -/
def State.WaitsForTile (s u : State) (t : Nat) : Prop :=
  u = { s with warps := u.warps, clock := u.clock } ∧
    (∀ j ∈ s.execLanes, (u.warp s.cur.warp).lane j = { (s.warp s.cur.warp).lane j with wait := .tile t }) ∧
    ∀ j, j ∉ s.execLanes → (u.warp s.cur.warp).lane j = (s.warp s.cur.warp).lane j

/-- The lanes of a group come to wait for a tile, where no held operation of the task waits to be told. -/
theorem State.waitsForTile (hg : s.glitch = none) (hu : s.untolds s.cur.warp = []) (t : Nat) :
    let w := s.cur.warp
    let s1 := s.updWarp w (fun v => v.updLanes s.execLanes (fun _ l => { l with wait := .tile t }))
    s.WaitsForTile { ((s1.finishLanes w 4 0 0 (0, 0) []).stallIfWaiting w).heldToWaiters w with glitch := s.glitch } t := by
  intro w s1
  let s2 := s1.finishLanes w 4 0 0 (0, 0) []
  let s3 := s2.stallIfWaiting w
  have hrest2 : s2 = { s with warps := s2.warps } := by
    show { s with warps := s2.warps, glitch := none } = _
    rw [← hg]
  have hwarp2 : s2.warp w = ((s.warp w).updLanes s.execLanes (fun _ l => { l with wait := .tile t })).settle := by
    show (s1.updWarp w (fun v => v.settle)).warp w = _
    rw [State.warp_updWarp_same, State.warp_updWarp_same]
  have hrest3 : s3 = { s with warps := s3.warps, clock := s3.clock } :=
    (State.stallIf_rest ..).trans (congrArg (fun u : State => { u with warps := s3.warps, clock := s3.clock }) hrest2)
  have hwarp3 : s3.warp w = { s2.warp w with slot := (s3.warp w).slot, since := (s3.warp w).since } := State.stallIf_warp ..
  have hnone : s3.untolds w = [] := by
    rw [← hu]
    refine State.untolds_congr (by rw [hrest3]) (by rw [hrest3]) ?_ ?_ ?_ <;>
      rw [hwarp3, hwarp2, Warp.settle_rest, Warp.updLanes_rest]
  have hlane (j : Nat) : (s3.warp w).lane j = if j ∈ s.execLanes then { (s.warp w).lane j with wait := .tile t } else (s.warp w).lane j := by
    rw [hwarp3]
    show (s2.warp w).lane j = _
    rw [hwarp2, Warp.settle_lane, Warp.lane_updLanes _ s.execLanes_nodup]
  show s.WaitsForTile { s3.heldToWaiters w with glitch := s.glitch } t
  rw [State.heldToWaiters_none hnone]
  refine ⟨?_, fun j hj => (hlane j).trans (if_pos hj), fun j hj => (hlane j).trans (if_neg hj)⟩
  exact congrArg (fun u : State => { u with glitch := s.glitch }) hrest3

end

section
variable {s : State} {t : BitVec 6} {e : Tile} {reads : View → List LRes} {body : Tile → State → Answer}

theorem tileOp_ready (hf : (s.core (coreOf s.cur.warp)).tiles.find? t.toNat = some e) (ho : e.owner = .task s.cur.warp)
    (hn : e.freeing = false) (hl : e.fail = false) (hr : e.st = .ready) : tileOp t reads body s = body e s := by
  simp only [tileOp, hf, hn, hl, hr, State.mayName, ho, Warp.speaksFor, decide_true, Bool.not_true, Bool.or_self, Bool.false_eq_true,
    if_false, if_true]

theorem tileOp_empty (hf : (s.core (coreOf s.cur.warp)).tiles.find? t.toNat = none) :
    tileOp t reads body s = laneOp 0 4 0 (1, 1) reads (fun _ => .trapped 0x0B) s := by
  simp only [tileOp, hf]

theorem tileOp_waits {i : Instr} (hx : exec i s = tileOp t reads body s) (hc : s.ClearBy reads)
    (hf : (s.core (coreOf s.cur.warp)).tiles.find? t.toNat = some e) (ho : e.owner = .task s.cur.warp) (hn : e.freeing = false)
    (hl : e.fail = false) (hr : e.st ≠ .ready) (hu : s.untold s.cur.warp = none) :
    ∃ u, exec i s = .next u ∧ s.WaitsForTile u t.toNat := by
  have hnone : s.untolds s.cur.warp = [] := List.head?_eq_none_iff.mp hu
  have hgo : s.execLanes.filter (fun i => !((s.view i).w.seenChk (s.view i).second &&
      (reads (s.view i)).any (fun r => (pendOf (s.view i).ln.pend r).isSome))) = s.execLanes :=
    List.filter_eq_self.mpr (fun i hi => by rw [hc.no_gap hi]; rfl)
  have hbad : s.execLanes.filter (fun i => (s.view i).w.seenChk (s.view i).second &&
      (reads (s.view i)).any (fun r => (pendOf (s.view i).ln.pend r).isSome)) = [] :=
    List.filter_eq_nil_iff.mpr (fun i hi => by rw [hc.no_gap hi]; exact Bool.false_ne_true)
  simp only [tileOp, hf, hn, hl, hr, State.mayName, ho, Warp.speaksFor, decide_true, Bool.not_true, Bool.or_self, Bool.false_eq_true,
    if_false, hgo, hbad] at hx
  exact ⟨_, hx, State.waitsForTile hc.1 hnone t.toNat⟩

end

/-! ## Reads of a ready tile -/

theorem getBytes_eq_map (m : List Host.Cell) (a n : Nat) : getBytes m a n = (List.range n).map (fun k => cellGet m (a + k)) := by
  induction n generalizing a with
  | zero => rfl
  | succ n ih =>
    rw [getBytes, ih, List.range_succ_eq_map, List.map_cons, List.map_map]
    simp only [Function.comp_def, Nat.add_zero, Nat.add_assoc, Nat.succ_eq_add_one, Nat.add_comm 1]

/-- Accesses of lanes that change nothing. -/
theorem performLanes_reads {perform : State → Nat → Nat → State × Option LaneRes} {s : State} {r : Nat → LaneRes}
    (h : ∀ i a, perform s i a = (s, some (r a))) (l : List (Nat × Nat)) :
    performLanes perform l s = (s, some (l.map (fun p => (p.1, r p.2)))) := by
  induction l with
  | nil => rfl
  | cons p l ih => simp only [performLanes, h, ih, List.map_cons]

/-- An instruction whose lanes each read local memory, none of which traps. -/
theorem localOp_gives {s : State} {i : Instr} {n : Stall} {reads : View → List LRes} {addr : View → Nat ⊕ Nat} {off : View → Nat}
    {perform : State → Nat → Nat → State × Option LaneRes} {r : Nat → LaneRes} {rs : View → List LRes}
    (hx : exec i s = localOp n reads addr perform s) (hc : s.ClearBy rs) (hr : ∀ j ∈ s.execLanes, ∀ x ∈ reads (s.view j), x ∈ rs (s.view j))
    (ha : ∀ j ∈ s.execLanes, addr (s.view j) = .inr (off (s.view j))) (h : ∀ i a, perform s i a = (s, some (r a)))
    (hp : ∀ a, (r a).Plain) (hm : ∀ a, (r a).mkb = []) : s.Gives i n 4 (fun v => (r (off v)).effect) := by
  have hl : localOp n reads addr perform s =
      .next (s.finishLanes s.cur.warp 4 0 n.toNat (1, 1) (s.execLanes.map (fun j => (j, r (off (s.view j)))))) := by
    unfold localOp
    simp only [performLanes_reads h]
    refine congrArg (fun l => Host.Outcome.next (s.finishLanes s.cur.warp 4 0 n.toNat (1, 1) l)) ?_
    rw [List.filterMap_congr (g := fun j => some (j, off (s.view j))), List.filterMap_eq_map', List.map_map, List.filterMap_eq_nil_iff.mpr,
      List.append_nil]
    · rfl
    · exact fun j hj => by simp only [State.laneCheck_clear hc _ _ j hj (hr j hj), ha j hj]
    · exact fun j hj => by simp only [State.laneCheck_clear hc _ _ j hj (hr j hj), ha j hj]
  exact ⟨_, hx.trans hl, State.finishLanes_plain s 4 0 n (1, 1) (fun j => r (off (s.view j))) (fun _ _ => hp _) (.inl (fun _ _ => hm _))⟩

theorem State.spadBad_clean {s : State} (h : s.mem.badSpad = []) (c a n : Nat) : s.spadBad c a n = false := by
  rw [State.spadBad, h]
  rfl

section
variable {s : State} {n : Stall} {d : Dst} {q : Src} {t : BitVec 6} {e : Tile}

theorem exec_twait : exec (.twait n t) s =
    tileOp t (fun _ => []) (fun _ => laneOp n 4 0 (0, 0) (fun _ => []) (fun _ => {})) s := rfl

theorem exec_ldt : exec (.ldt n d q t) s = execLdt n d q t s := rfl

theorem execLdt_tileOp : ∃ body, execLdt n d q t s = tileOp t (fun _ => srcRes q) body s := by
  unfold execLdt
  exact ⟨_, rfl⟩

theorem twait_gives (hc : s.Clear (srcRes q)) (hf : (s.core (coreOf s.cur.warp)).tiles.find? t.toNat = some e)
    (ho : e.owner = .task s.cur.warp) (hn : e.freeing = false) (hl : e.fail = false) (hr : e.st = .ready) :
    s.Gives (.twait n t) n 4 (fun _ => {}) := by
  have hx := exec_twait (s := s) (n := n) (t := t)
  rw [tileOp_ready hf ho hn hl hr] at hx
  exact laneOp_gives hx hc.nothing (fun _ _ _ h => h) (fun _ _ => ⟨rfl, rfl, rfl, rfl, rfl, rfl, nofun⟩) (.inl (fun _ _ => rfl))

/-- Both trap with code 0x0B on an empty entry (09_tensor_instr.md R218). -/
theorem tileOp_empty_splits {i : Instr} {reads : View → List LRes} {body : Tile → State → Answer} (hx : exec i s = tileOp t reads body s)
    (hc : s.ClearBy reads) (hh : s.Handled) (hk : s.Calm) (hf : (s.core (coreOf s.cur.warp)).tiles.find? t.toNat = none) (n : Stall) :
    s.Splits i n 4 (fun _ => {}) (fun v => some (0x0B, 0, v.ln.pc)) := by
  rw [tileOp_empty hf, laneOp_clear hc _ _ _ _ _ (fun _ _ _ h => h)] at hx
  exact ⟨_, hx, State.finishLanes_allTrap hh hk hc.1 n 0 4 0 (1, 1) (by decide)⟩

theorem ldt_gives (hc : s.Clear (srcRes q)) (hf : (s.core (coreOf s.cur.warp)).tiles.find? t.toNat = some e) (ho : e.owner = .task s.cur.warp)
    (hn : e.freeing = false) (hl : e.fail = false) (hr : e.st = .ready) (hb : s.mem.badSpad = [])
    (hoff : ∀ i ∈ s.execLanes, ((s.view i).src 0 q).toNat % 4 = 0 ∧ ((s.view i).src 0 q).toNat + 4 ≤ 16 * e.size) :
    s.Gives (.ldt n d q t) n 4 (fun v => result d (BitVec.ofNat 32 (ofBytes ((List.range 4).map (fun k =>
      cellGet (s.core (coreOf s.cur.warp)).spad (16 * e.base + (v.src 0 q).toNat + k)))))) := by
  have hx := exec_ldt (s := s) (n := n) (d := d) (q := q) (t := t)
  rw [execLdt, tileOp_ready hf ho hn hl hr] at hx
  refine (localOp_gives (off := fun v => e.base * 16 + (v.src 0 q).toNat)
    (r := fun a => loaded d .w32 ((s.core (coreOf s.cur.warp)).spadGet a 4)) hx hc (fun _ _ _ h => h) (fun j hj => ?_) (fun i a => ?_)
    (fun a => LaneRes.plain_val _ _) (fun a => rfl)).congr (fun j _ => ?_)
  · obtain ⟨haligned, hin⟩ := hoff j hj
    simp only [haligned, ne_eq, not_true_eq_false, if_false]
    rw [if_neg (by omega)]
  · rw [State.spadBad_clean hb]
    rfl
  · simp only [loaded, LaneRes.effect_val, Core.spadGet, getBytes_eq_map, Nat.mul_zero, pow_zero, Nat.div_one, Nat.mul_comm e.base]

end

/-! ## Tensor ids -/

section
variable {s : State} {n : Stall} {a : BitVec 6}

theorem field_low_12 (x : Word64) : field x 11 0 = x.toNat % 4096 := by
  simp only [field, pow_zero, Nat.div_one, Nat.reduceAdd, Nat.reducePow, Nat.sub_zero]

/-- The task of the issuing strand takes a tensor id. -/
def State.withTid (s : State) (k : Nat) : State := s.updWarp s.cur.warp (fun v => { v with tid := k })

theorem State.withTid_warp (s : State) (k : Nat) : (s.withTid k).warp s.cur.warp = { s.warp s.cur.warp with tid := k } :=
  State.warp_updWarp_same s s.cur.warp _

theorem State.withTid_cur (s : State) (k : Nat) : (s.withTid k).cur = s.cur := rfl

/-- The strand goes on, under another tensor id. -/
theorem State.withTid_only (s : State) (n : Stall) (k : Nat) : (s.withTid k).StrandOnly ((s.passU n.toNat 4).withTid k) n 4 {} := by
  have hwarp : ((s.passU n.toNat 4).withTid k).warp s.cur.warp =
      { (s.warp s.cur.warp).passU n.toNat ((s.warp s.cur.warp).spc + BitVec.ofNat 56 4) with tid := k } :=
    (State.withTid_warp (s.passU n.toNat 4) k).trans (congrArg (fun v : Warp => { v with tid := k }) (State.warp_updWarp_same s s.cur.warp _))
  refine ⟨rfl, fun j hj => ?_, ?_, fun j => ?_, fun r => ?_⟩
  · replace hj : s.cur.warp ≠ j := Ne.symm hj
    exact ((State.warp_updWarp _ _ _ _).trans (if_neg hj)).trans (((State.warp_updWarp _ _ _ _).trans (if_neg hj)).trans
      ((State.warp_updWarp _ _ _ _).trans (if_neg hj)).symm)
  · rw [State.withTid_cur, hwarp, State.withTid_warp, Warp.passU_rest]
    rfl
  · rw [State.withTid_cur, hwarp, State.withTid_warp]
    exact Warp.passU_lane (s.warp s.cur.warp) n.toNat ((s.warp s.cur.warp).spc + BitVec.ofNat 56 4) j
  · rw [State.withTid_cur, hwarp, State.withTid_warp, Warp.passU_rest]
    rfl

theorem ttag_sets (hc : s.StrandClear [a.toNat]) (hq : s.mem.syncReqs = []) :
    ∃ t, exec (.ttag n a) s = .next t ∧
      (s.withTid ((s.sval s.cur.warp 0 a.toNat).toNat % 4096)).StrandOnly t n 4 {} := by
  have hx : exec (.ttag n a) s = execTtag n a s := rfl
  rw [execTtag, strandOp_clear hc _ _ (fun _ hr => hr)] at hx
  simp only [State.syncAll_none hq, field_low_12] at hx
  exact ⟨_, hx, State.withTid_only s n _⟩

theorem tdisc_discards (hc : s.StrandClear [a.toNat]) (hq : s.mem.syncReqs = []) :
    ∃ t, exec (.tdisc n a) s = .next t ∧
      (s.discardTag (s.warp s.cur.warp).part ((s.sval s.cur.warp 0 a.toNat).toNat % 4096)).StrandOnly t n 4 {} := by
  have hx : exec (.tdisc n a) s = execTdisc n a s := rfl
  rw [execTdisc, strandOp_clear hc _ _ (fun _ hr => hr)] at hx
  simp only [State.syncAll_none hq, field_low_12] at hx
  exact ⟨_, hx, State.passU_only _ n 4 _ rfl⟩

theorem State.discardTag_zero (s : State) (part : Nat) : s.discardTag part 0 = s := rfl

theorem State.discardTag_rest (s : State) (part id : Nat) :
    let u := s.discardTag part id
    u = { s with cores := u.cores, mem := { s.mem with l2 := u.mem.l2, strait := u.mem.strait, granules := u.mem.granules } } := by
  unfold State.discardTag
  split <;> rfl

/-- A table from which the entries of an id and partition are taken. -/
theorem mem_keepVals_tag {α : Type} (m : SMap α) (tid part : α → Nat) (id p k : Nat) (x : α) :
    (k, x) ∈ keepVals (fun _ x => !(decide (tid x = id) && decide (part x = p))) m ↔ (k, x) ∈ m ∧ ¬(tid x = id ∧ part x = p) := by
  rw [keepVals, List.mem_filter, Bool.not_eq_true', Bool.and_eq_false_iff, decide_eq_false_iff_not, decide_eq_false_iff_not, not_and_or]

section
variable {part id : Nat} (hid : id ≠ 0)
include hid

theorem State.discardTag_core (c : Nat) : (s.discardTag part id).core c =
    { s.core c with l1 := keepVals (fun _ l => !(decide (l.tid = id) && decide (l.part = part))) (s.core c).l1 } := by
  unfold State.discardTag State.core
  rw [if_neg hid, SMap.get_mapVals _ _ _ _ rfl]

theorem State.discardTag_l2 : (s.discardTag part id).mem.l2 =
    keepVals (fun _ l => !(decide (l.tid = id) && decide (l.part = part))) s.mem.l2 := by
  rw [State.discardTag, if_neg hid]

theorem State.discardTag_granules : (s.discardTag part id).mem.granules =
    keepVals (fun _ g => !(decide (g.tid = id) && decide (g.part = part))) s.mem.granules := by
  rw [State.discardTag, if_neg hid]

end

theorem State.discardTag_l1 (s : State) (part id c : Nat) :
    (s.discardTag part id).core c = { s.core c with l1 := ((s.discardTag part id).core c).l1 } := by
  rcases eq_or_ne id 0 with rfl | hid
  · rfl
  · rw [State.discardTag_core hid]

end

/-! ## O37 -/

/-- Settles O37: talloc and tfree change one entry, of which no lane waits; twait and ldt go by what the entry holds; tdisc keeps the lines
and granules of every other id and partition. -/
theorem tilesAndTensorIds : Obligations.TilesAndTensorIds := by
  unfold Obligations.TilesAndTensorIds
  refine ⟨fun s n t a d q e base size expect fmt swz => ?_, fun s n a hc hq => ?_⟩
  · intro c w tiles unwatched changed off
    refine ⟨fun hc hw hf hd hb hs hs2 he hfm hz hroom hfree hswz => ?_, tfree_retiles, fun hc hf ho hn hl => ⟨twait_gives hc hf ho hn hl, ?_⟩,
      ldt_gives, fun hh hk hc hf i hi => ?_⟩
    · exact talloc_retiles hc hw (hd ▸ State.tileOf_tileDesc hf hb hs hs2 he hfm hz hroom hfree hswz)
    · intro hr hu i hi
      obtain ⟨body, hldt⟩ := execLdt_tileOp (s := s) (n := n) (d := d) (q := q) (t := t)
      rcases List.mem_pair.mp hi with rfl | rfl
      · exact tileOp_waits exec_twait hc.nothing hf ho hn hl hr hu
      · exact tileOp_waits (exec_ldt.trans hldt) hc hf ho hn hl hr hu
    · obtain ⟨body, hldt⟩ := execLdt_tileOp (s := s) (n := n) (d := d) (q := q) (t := t)
      rcases List.mem_pair.mp hi with rfl | rfl
      · exact tileOp_empty_splits exec_twait hc.nothing hh hk hf n
      · exact tileOp_empty_splits (exec_ldt.trans hldt) hc hh hk hf n
  · intro id part
    obtain ⟨t, hx, honly⟩ := tdisc_discards (n := n) hc hq
    refine ⟨ttag_sets hc hq, s.discardTag part id, t, hx, honly, fun h0 => by rw [h0, State.discardTag_zero],
      State.discardTag_rest s part id, State.discardTag_l1 s part id, fun hid => ⟨fun c k l => ?_, fun k l => ?_, fun k g => ?_⟩⟩
    · rw [State.discardTag_core hid]
      exact mem_keepVals_tag _ L1Line.tid L1Line.part ..
    · rw [State.discardTag_l2 hid]
      exact mem_keepVals_tag _ L2Line.tid L2Line.part ..
    · rw [State.discardTag_granules hid]
      exact mem_keepVals_tag _ Granule.tid Granule.part ..

end Sys2Proof.Machine
end

section
/-! SUPPORT. Accumulator grants: the free ranges, the request of a task, how it is served, and what afree releases (09_tensor_instr.md R235,
R236, 13_scheduling.md R372); and obligation O38. -/

namespace Sys2Proof.Machine

/-! ## Free ranges -/

theorem pickOf_mem (tick : Nat) {l : List Nat} (h : l ≠ []) : ∃ b ∈ l, pickOf tick l = some b := by
  match l, h with
  | [b], _ => exact ⟨b, List.mem_singleton_self b, rfl⟩
  | b :: c :: r, _ =>
    have hlt : Config.freeDelay tick % (b :: c :: r).length < (b :: c :: r).length := Nat.mod_lt _ (by simp)
    exact ⟨_, List.getElem_mem hlt, List.getElem?_eq_getElem hlt⟩

theorem extentsMeet_eq_false {b1 n1 b2 n2 : Nat} : extentsMeet b1 n1 b2 n2 = false ↔ b1 + n1 ≤ b2 ∨ b2 + n2 ≤ b1 := by
  rw [extentsMeet, Bool.and_eq_false_iff, decide_eq_false_iff_not, decide_eq_false_iff_not, Nat.not_lt, Nat.not_lt, or_comm]

/-- The bases at which a range is free on a core. -/
theorem State.mem_grantBases {s : State} {size c b : Nat} : b ∈ s.grantBases size [c] ↔
    (∃ k < 128, 256 * k = b) ∧ b + size ≤ 32768 ∧ ∀ x ∈ (s.core c).grants, b + size ≤ x.base ∨ x.base + x.size ≤ b := by
  simp only [State.grantBases, List.mem_filter, List.mem_map, List.mem_range, Bool.and_eq_true, decide_eq_true_eq, List.all_cons, List.all_nil,
    Bool.and_true, Bool.not_eq_true', List.any_eq_false, Bool.not_eq_true, extentsMeet_eq_false]

/-! ## Requests -/

section
variable {s : State} {k : Nat}

theorem State.holderOf_alone (h : (s.warp s.cur.warp).trec.group? k = none) : s.holderOf s.cur.warp k = .task s.cur.warp := by
  simp only [State.holderOf, h]

theorem State.holdsGrant_iff (h : Holder) : s.holdsGrant h = true ↔ ∃ p ∈ s.cores, ∃ x ∈ p.2.grants, x.holder = h := by
  simp only [State.holdsGrant, List.any_eq_true, decide_eq_true_eq]

theorem State.asksGrant_iff (h : Holder) : s.asksGrant h = true ↔ ∃ p ∈ s.clusters, ∃ x ∈ p.2.areqs, x.holder = h := by
  simp only [State.asksGrant, List.any_eq_true, decide_eq_true_eq]

end

/-- A slot whose stall clears keeps all else. -/
theorem Warp.clearStall_rest (w : Warp) (clock : Nat) :
    w.clearStall clock = { w with slot := (w.clearStall clock).slot, since := (w.clearStall clock).since } := by
  unfold Warp.clearStall
  split
  · rfl
  · split <;> rfl

/-- A warp goes past the instruction at which it waited. -/
theorem Warp.goPast_rest (w : Warp) :
    w.goPast = { w with lanes := w.goPast.lanes, spc := w.spc + 4, dq := [], swait := .none, sfailed := [] } := by
  rw [Warp.goPast, Warp.follow_rest]

/-- What a warp reads of itself once it has received a value at which it waited. -/
theorem Warp.received (w : Warp) (d clock : Nat) (v : Word64) :
    let x := (w.goPast.putS 0 0 d v).clearStall clock
    (∀ r, x.sreg r = if r = d then v else w.sreg r) ∧ x.spc = w.spc + 4 ∧ x.swait = .none := by
  intro x
  have hx : x = { w.goPast.putS 0 0 d v with slot := x.slot, since := x.since } := Warp.clearStall_rest _ _
  refine ⟨fun r => ?_, ?_, ?_⟩
  · have hreg : (w.goPast.putS 0 0 d v).sreg r = if d = r then v else w.goPast.sreg r := Warp.sreg_setSreg _ _ _ _
    rw [hx]
    refine hreg.trans ?_
    rw [Warp.goPast_rest]
    simp only [eq_comm]
    rfl
  · rw [hx, Warp.goPast_rest]
    rfl
  · rw [hx, Warp.goPast_rest]
    rfl

/-- The task of the issuing strand requests, and its strand waits. -/
def State.requested (s : State) (n d : Nat) (r : AReq) : State :=
  (s.updCluster (warpClu s.cur.warp) (fun g => { g with areqs := g.areqs ++ [r] })).updWarp s.cur.warp (fun v =>
    { v.holdU n with swait := .aalloc d })

/-- The same once its slot has come to stall. -/
def State.asking (s : State) (n d : Nat) (r : AReq) : State := (s.requested n d r).stallIfWaiting s.cur.warp

section
variable (s : State) (n d : Nat) (r : AReq)

theorem State.asking_rest : s.asking n d r = { s with
    warps := (s.asking n d r).warps, clusters := (s.requested n d r).clusters, clock := (s.asking n d r).clock } :=
  State.stallIf_rest (s.requested n d r) _ _

theorem State.asking_cur : (s.asking n d r).cur = s.cur := by rw [State.asking_rest]

theorem State.asking_core (j : Nat) : (s.asking n d r).core j = s.core j := by
  rw [State.asking_rest]
  rfl

theorem State.asking_others {k : Nat} (hk : k ≠ s.cur.warp) : (s.asking n d r).warp k = s.warp k :=
  (State.stallIf_others _ _ _ hk).trans ((State.warp_updWarp _ _ _ _).trans (if_neg (Ne.symm hk)))

theorem State.requested_warp : (s.requested n d r).warp s.cur.warp = { (s.warp s.cur.warp).holdU n with swait := .aalloc d } :=
  State.warp_updWarp_same _ _ _

/-- The waiting strand's warp reads as before. -/
theorem State.asking_warp : let v := (s.asking n d r).warp s.cur.warp
    v.swait = .aalloc d ∧ v.spc = (s.warp s.cur.warp).spc ∧ ∀ k, v.sreg k = (s.warp s.cur.warp).sreg k := by
  intro v
  have hv : v = { (s.requested n d r).warp s.cur.warp with slot := v.slot, since := v.since } := State.stallIf_warp _ _ _
  rw [hv, State.requested_warp]
  exact ⟨rfl, rfl, fun _ => rfl⟩

theorem State.asking_areqs : ((s.asking n d r).cluster (warpClu s.cur.warp)).areqs = (s.cluster (warpClu s.cur.warp)).areqs ++ [r] := by
  have hclu : (s.requested n d r).cluster (warpClu s.cur.warp) =
      { s.cluster (warpClu s.cur.warp) with areqs := (s.cluster (warpClu s.cur.warp)).areqs ++ [r] } :=
    (SMap.get_set _ _ _ _ _).trans (if_pos rfl)
  rw [State.asking_rest]
  exact congrArg Cluster.areqs hclu

end

/-! ## Service -/

section
variable {u : State} {g c d b : Nat} {r : AReq}

/-- The only request of a cluster is served where a range is free. -/
theorem State.serveAllocs_only (h : (u.cluster g).areqs = [r]) (hb : b ∈ u.grantBases r.size r.cores) :
    ∃ b' ∈ u.grantBases r.size r.cores, u.serveAllocs g = u.serveOne g r b' := by
  obtain ⟨b', hb', hpick⟩ := pickOf_mem u.tick (List.ne_nil_of_mem hb)
  refine ⟨b', hb', ?_⟩
  have hnone : r.cores.any ([] : List Nat).contains = false := List.any_eq_false.mpr (fun _ _ => Bool.false_ne_true)
  rw [State.serveAllocs, h]
  simp only [List.foldl_cons, List.foldl_nil, hnone, hpick, Bool.false_eq_true, if_false]

/-- A grant of a range to the holder of a request, which waits no longer. -/
def State.withGrant (u : State) (g c : Nat) (r : AReq) (b : Nat) : State :=
  (({ u with clock := u.clock + 1 } : State).updCore c (fun k =>
    { k with grants := k.grants ++ [{ holder := r.holder, base := b, size := r.size, num := u.clock }] })).updCluster g (fun x =>
      { x with areqs := x.areqs.erase r })

/-- A request on one core is served: the grant, and the handle in the s-register that the strand waits for. -/
theorem State.serveOne_on (hc : r.cores = [c]) (hd : (u.warp r.warp).swait = .aalloc d) : u.serveOne g r b =
    (u.withGrant g c r b).updWarp r.warp (fun w => (w.goPast.putS 0 0 d (BitVec.ofNat 64 (b + r.size * 2 ^ 16))).clearStall u.clock) := by
  unfold State.serveOne
  rw [hc]
  dsimp only [List.foldl_cons, List.foldl_nil]
  split
  · rename_i hd'
    cases hd.symm.trans hd'
    rfl
  · rename_i hother
    exact absurd hd (hother d)

theorem State.withGrant_grants : ((u.withGrant g c r b).core c).grants =
    (u.core c).grants ++ [{ holder := r.holder, base := b, size := r.size, num := u.clock }] :=
  congrArg Core.grants ((SMap.get_set _ _ _ _ _).trans (if_pos rfl))

theorem State.withGrant_others {j : Nat} (hj : j ≠ c) : (u.withGrant g c r b).core j = u.core j :=
  (SMap.get_set _ _ _ _ _).trans (if_neg (Ne.symm hj))

theorem State.withGrant_areqs : ((u.withGrant g c r b).cluster g).areqs = (u.cluster g).areqs.erase r :=
  congrArg Cluster.areqs ((SMap.get_set _ _ _ _ _).trans (if_pos rfl))

end

/-- The request of a task that is the holder alone. -/
def State.ownRequest (s : State) (size : Nat) : AReq :=
  { warp := s.cur.warp, holder := .task s.cur.warp, size := size, cores := [coreOf s.cur.warp] }

theorem State.asking_ownRequest (s : State) (n d size : Nat) (r : AReq) : (s.asking n d r).ownRequest size = s.ownRequest size := by
  rw [State.ownRequest, State.asking_cur]
  rfl

/-- The issuer's task has one more grant on its core and its handle in an s-register, its strand has gone on, and no request waits in its
cluster; nothing else has changed but the clock and its slot. -/
structure State.Receives (s t : State) (d size base num : Nat) : Prop where
  grants : (t.core (coreOf s.cur.warp)).grants =
    (s.core (coreOf s.cur.warp)).grants ++ [{ holder := .task s.cur.warp, base := base, size := size, num := num }]
  sreg : ∀ r, (t.warp s.cur.warp).sreg r = if r = d then BitVec.ofNat 64 (base + size * 2 ^ 16) else (s.warp s.cur.warp).sreg r
  spc : (t.warp s.cur.warp).spc = (s.warp s.cur.warp).spc + 4
  swait : (t.warp s.cur.warp).swait = .none
  areqs : (t.cluster (warpClu s.cur.warp)).areqs = []
  rest : t = { s with warps := t.warps, cores := t.cores, clusters := t.clusters, clock := t.clock }
  cores : ∀ j, j ≠ coreOf s.cur.warp → t.core j = s.core j
  warps : ∀ j, j ≠ s.cur.warp → t.warp j = s.warp j

/-- The issuer's request is served, the only one of its cluster. -/
theorem State.serveAllocs_receives {u : State} {d size b : Nat} (hq : (u.cluster (warpClu u.cur.warp)).areqs = [u.ownRequest size])
    (hw : (u.warp u.cur.warp).swait = .aalloc d) (hb : b ∈ u.grantBases size [coreOf u.cur.warp]) :
    ∃ base num, base ∈ u.grantBases size [coreOf u.cur.warp] ∧ u.Receives (u.serveAllocs (warpClu u.cur.warp)) d size base num := by
  obtain ⟨base, hbase, hserve⟩ := State.serveAllocs_only hq hb
  refine ⟨base, u.clock, hbase, ?_⟩
  rw [hserve, State.serveOne_on (c := coreOf u.cur.warp) rfl hw]
  obtain ⟨hreg, hpc, hwait⟩ := Warp.received (u.warp u.cur.warp) d u.clock (BitVec.ofNat 64 (base + size * 2 ^ 16))
  have hwarp : ((u.withGrant (warpClu u.cur.warp) (coreOf u.cur.warp) (u.ownRequest size) base).updWarp u.cur.warp (fun w =>
      (w.goPast.putS 0 0 d (BitVec.ofNat 64 (base + size * 2 ^ 16))).clearStall u.clock)).warp u.cur.warp =
      ((u.warp u.cur.warp).goPast.putS 0 0 d (BitVec.ofNat 64 (base + size * 2 ^ 16))).clearStall u.clock := State.warp_updWarp_same _ _ _
  refine ⟨State.withGrant_grants (g := warpClu u.cur.warp), fun r => ?_, ?_, ?_, ?_, rfl,
    fun j hj => State.withGrant_others (g := warpClu u.cur.warp) hj, fun j hj => ?_⟩
  · exact (congrArg (fun w : Warp => w.sreg r) hwarp).trans (hreg r)
  · exact (congrArg Warp.spc hwarp).trans hpc
  · exact (congrArg Warp.swait hwarp).trans hwait
  · exact State.withGrant_areqs.trans (by rw [hq, List.erase_cons_head])
  · exact (State.warp_updWarp _ _ _ _).trans (if_neg (Ne.symm hj))

/-- A task whose strand has come to wait receives what its request receives. -/
theorem State.Receives.of_asking {s t : State} {n d size base num : Nat}
    (h : (s.asking n d (s.ownRequest size)).Receives t d size base num) : s.Receives t d size base num := by
  obtain ⟨-, hspc, hsreg⟩ := State.asking_warp s n d (s.ownRequest size)
  obtain ⟨hg, hr, hp, hw, ha, ht, hc, ho⟩ := h
  simp only [State.asking_cur, State.asking_core, hsreg, hspc] at hg hr hp hw ha hc ho
  refine ⟨hg, hr, hp, hw, ha, ht.trans ?_, hc, fun j hj => (ho j hj).trans (State.asking_others s n d _ hj)⟩
  exact congrArg (fun x : State => { x with warps := t.warps, cores := t.cores, clusters := t.clusters, clock := t.clock })
    (State.asking_rest s n d (s.ownRequest size))

/-! ## aalloc -/

section
variable {s : State} {n : Stall} {d a : BitVec 6} {k : BitVec 2}

theorem exec_aalloc (hc : s.StrandClear [a.toNat]) (hg : (s.warp s.cur.warp).trec.group? k.toNat = none) :
    let h : Holder := .task s.cur.warp
    let size := (s.sval s.cur.warp 0 a.toNat).toNat
    exec (.aalloc n d a k) s = .next (
      if s.holdsGrant h || s.asksGrant h then s.strandTrap s.cur.warp 0x0A (s.warp s.cur.warp).spc
      else if size < 256 ∨ 32768 < size ∨ size % 256 ≠ 0 then s.putS n.toNat 4 0 d.toNat (BitVec.ofNat 64 (2 ^ 63 + 0x0B))
      else (s.asking n.toNat d.toNat (s.ownRequest size)).serveAllocs (warpClu s.cur.warp)) := by
  have hx : exec (.aalloc n d a k) s = execAalloc n d a k s := rfl
  rw [execAalloc, strandOp_clear hc _ _ (fun _ hr => hr)] at hx
  simp only [State.holderOf_alone hg] at hx
  exact hx

/-- Neither a grant nor a request of the task stands. -/
def State.Ungranted (s : State) : Prop :=
  (∀ p ∈ s.cores, ∀ x ∈ p.2.grants, ¬x.holder = .task s.cur.warp) ∧ ∀ p ∈ s.clusters, ∀ x ∈ p.2.areqs, x.holder ≠ .task s.cur.warp

theorem State.Ungranted.free (h : s.Ungranted) : (s.holdsGrant (.task s.cur.warp) || s.asksGrant (.task s.cur.warp)) = false := by
  obtain ⟨hgrants, hasks⟩ := h
  rw [Bool.or_eq_false_iff, ← Bool.not_eq_true, ← Bool.not_eq_true, State.holdsGrant_iff, State.asksGrant_iff]
  exact ⟨fun ⟨p, hp, x, hx, hm⟩ => hgrants p hp x hx hm, fun ⟨p, hp, x, hx, hm⟩ => hasks p hp x hx hm⟩

/-- A legal size of which a range is free on the core (09_tensor_instr.md R235). -/
theorem aalloc_grants (hc : s.StrandClear [a.toNat]) (hg : (s.warp s.cur.warp).trec.group? k.toNat = none) (hu : s.Ungranted) {size b : Nat}
    (hs : (s.sval s.cur.warp 0 a.toNat).toNat = size) (hlegal : ¬(size < 256 ∨ 32768 < size ∨ size % 256 ≠ 0))
    (hq : (s.cluster (warpClu s.cur.warp)).areqs = []) (hb : b ∈ s.grantBases size [coreOf s.cur.warp]) :
    ∃ (t : State) (base num : Nat), exec (.aalloc n d a k) s = .next t ∧ base ∈ s.grantBases size [coreOf s.cur.warp] ∧
      s.Receives t d.toNat size base num := by
  have hx := exec_aalloc (n := n) (d := d) hc hg
  simp only [hu.free, hs, if_neg hlegal, Bool.false_eq_true, if_false] at hx
  have hbases : (s.asking n.toNat d.toNat (s.ownRequest size)).grantBases size [coreOf s.cur.warp] =
      s.grantBases size [coreOf s.cur.warp] := by simp only [State.grantBases, State.asking_core]
  have hareqs := State.asking_areqs s n.toNat d.toNat (s.ownRequest size)
  rw [hq, List.nil_append] at hareqs
  obtain ⟨hswait, -, -⟩ := State.asking_warp s n.toNat d.toNat (s.ownRequest size)
  obtain ⟨base, num, hbase, hreceives⟩ := State.serveAllocs_receives (u := s.asking n.toNat d.toNat (s.ownRequest size)) (size := size)
    (by rw [State.asking_cur, State.asking_ownRequest]; exact hareqs) (by rw [State.asking_cur]; exact hswait)
    (by rw [State.asking_cur, hbases]; exact hb)
  rw [State.asking_cur] at hbase hreceives
  exact ⟨_, base, num, hx, hbases ▸ hbase, hreceives.of_asking⟩

theorem aalloc_refuses (hc : s.StrandClear [a.toNat]) (hg : (s.warp s.cur.warp).trec.group? k.toNat = none) (hu : s.Ungranted)
    (h : (s.sval s.cur.warp 0 a.toNat).toNat < 256 ∨ 32768 < (s.sval s.cur.warp 0 a.toNat).toNat ∨
      (s.sval s.cur.warp 0 a.toNat).toNat % 256 ≠ 0) :
    s.StrandGives (.aalloc n d a k) n 4 { s := [(d.toNat, BitVec.ofNat 64 (2 ^ 63 + 0x0B))] } := by
  have hx := exec_aalloc (n := n) (d := d) hc hg
  simp only [hu.free, if_pos h, Bool.false_eq_true, if_false] at hx
  exact ⟨_, hx, State.putS_only s n 4 0 d.toNat _⟩

theorem aalloc_again_traps (hc : s.StrandClear [a.toNat]) (hg : (s.warp s.cur.warp).trec.group? k.toNat = none)
    (h : ∃ p ∈ s.cores, ∃ x ∈ p.2.grants, x.holder = .task s.cur.warp) (hh : s.Handled) (hl : (s.warp s.cur.warp).live ≠ 0) :
    s.StrandTraps (.aalloc n d a k) 0x0A := by
  have hx := exec_aalloc (n := n) (d := d) hc hg
  simp only [(s.holdsGrant_iff _).mpr h, Bool.true_or, if_true] at hx
  exact State.strandTrap_traps hh hc.1 hl (by decide) hx

end

/-! ## afree -/

/-- The grants of a holder are gone from every core. -/
def State.withoutGrants (s : State) (h : Holder) : State :=
  { s with cores := mapVals (fun _ c => { c with grants := c.grants.filter (fun g => !decide (g.holder = h)) }) s.cores }

theorem State.core_withoutGrants (s : State) (h : Holder) (j : Nat) : (s.withoutGrants h).core j =
    { s.core j with grants := (s.core j).grants.filter (fun g => !decide (g.holder = h)) } := by
  rw [State.core, State.withoutGrants, SMap.get_mapVals _ _ _ _ rfl]
  rfl

theorem State.mem_withoutGrants (s : State) (h : Holder) (j : Nat) (x : Grant) :
    x ∈ ((s.withoutGrants h).core j).grants ↔ x ∈ (s.core j).grants ∧ ¬x.holder = h := by
  rw [State.core_withoutGrants]
  simp only [List.mem_filter, Bool.not_eq_true', decide_eq_false_iff_not]

section
variable {s : State} {n : Stall} {k : BitVec 2}

/-- A holder without a grant loses none. -/
theorem State.withoutGrants_none {h : Holder} (hn : s.grantsOf h = []) : s.withoutGrants h = s := by
  have hcores : mapVals (fun _ c => { c with grants := c.grants.filter (fun g => !decide (g.holder = h)) }) s.cores = s.cores := by
    rw [State.grantsOf, List.flatMap_eq_nil_iff] at hn
    refine (List.map_congr_left (fun p hp => ?_)).trans (List.map_id _)
    have hkept : p.2.grants.filter (fun g => !decide (g.holder = h)) = p.2.grants := List.filter_eq_self.mpr (fun g hg => by
      have hnone := List.filter_eq_nil_iff.mp (List.map_eq_nil_iff.mp (hn p hp)) g hg
      rw [decide_eq_true_eq] at hnone
      rw [decide_eq_false hnone, Bool.not_false])
    exact congrArg (fun gs => (p.1, { p.2 with grants := gs })) hkept
  rw [State.withoutGrants, hcores]

/-- Without an operation in a q0 nothing writes into a grant. -/
theorem State.grantBusy_idle (hq : ∀ p ∈ s.cores, p.2.q0 = []) (hl : ∀ p ∈ s.clusters, p.2.leases = []) (c : Nat) (g : Grant) :
    s.grantBusy c g = false := by
  have hq0 : (s.core c).q0 = [] := by
    rw [State.core, SMap.get]
    cases hf : SMap.find? s.cores c with
    | none => rfl
    | some v => exact hq _ (SMap.mem_of_find? hf)
  rw [State.grantBusy, hq0, List.any_nil, Bool.false_or, List.any_eq_false]
  intro p hp
  rw [hl p hp, List.any_nil]
  exact Bool.false_ne_true

theorem afree_releases (hc : s.StrandClear []) (hg : (s.warp s.cur.warp).trec.group? k.toNat = none) (hq : ∀ p ∈ s.cores, p.2.q0 = [])
    (hl : ∀ p ∈ s.clusters, p.2.leases = []) (hw : (s.warp s.cur.warp).waitOn = none) :
    exec (.afree n k) s = .next ((s.withoutGrants (.task s.cur.warp)).passU n.toNat 4) := by
  have hx : exec (.afree n k) s = execAfree n k s := rfl
  rw [execAfree, strandOp_clear hc _ _ (fun _ hr => hr)] at hx
  simp only [State.holderOf_alone hg] at hx
  rw [hx]
  split
  · rename_i hnone
    rw [State.withoutGrants_none hnone]
  · have hidle (l : List (Nat × Grant)) : l.any (fun p => s.grantBusy p.1 p.2) = false :=
      List.any_eq_false.mpr (fun p _ => by rw [State.grantBusy_idle hq hl]; exact Bool.false_ne_true)
    simp only [hw, Option.getD_none, decide_true, Bool.not_true, Bool.false_eq_true, if_false, hidle]
    rfl

end

/-! ## O38 -/

/-- Settles O38: the task's request is the only one of its cluster, so that it is served at once where a range is free. -/
theorem grants : Obligations.Grants := by
  unfold Obligations.Grants
  intro s n d a k size b c w g mine asked hc hg
  refine ⟨fun hgrants hasks => ⟨?_, fun h => aalloc_refuses hc hg ⟨hgrants, hasks⟩ h⟩, fun h hh hl => aalloc_again_traps hc hg h hh hl,
    fun hq hl hw => ?_⟩
  · intro hs hmin hmax hmod hnone hb hroom hfree _
    have hbase : b ∈ s.grantBases size [c] := State.mem_grantBases.mpr ⟨⟨b / 256, by omega, by omega⟩, hroom, hfree⟩
    obtain ⟨t, base, num, hx, hin, hgr, hreg, hpc, hwait, hareqs, hrest, hcores, hwarps⟩ :=
      aalloc_grants (n := n) (d := d) hc hg ⟨hgrants, hasks⟩ hs (by omega) hnone hbase
    obtain ⟨⟨j, -, rfl⟩, hfit, hapart⟩ := State.mem_grantBases.mp hin
    exact ⟨t, _, num, hx, Nat.mul_mod_right .., hfit, hapart, hgr, hreg, hpc, hwait, hareqs, hrest, hcores, hwarps⟩
  · exact ⟨s.withoutGrants (.task s.cur.warp), _, afree_releases (hc.mono nofun) hg hq hl hw, State.passU_only _ n 4 _ rfl, rfl, fun j =>
      ⟨by rw [State.core_withoutGrants], s.mem_withoutGrants _ j⟩⟩

end Sys2Proof.Machine
end

section
/-! SUPPORT. The machine after reset (obligation O57). -/

namespace Sys2Proof.Machine

/-- After reset a device register holds its reset value. -/
theorem State.reg_reset (a : Nat) : State.reset.reg a = regReset a := rfl

theorem regReset_clusterMap {d l : Nat} (hd : d < 2) (hl : l < 64) : regReset (dieBlk d (8 * l)) = BitVec.ofNat 64 l := by
  unfold regReset dieBlk
  interval_cases d
  · rw [if_pos (by omega)]
    congr 1
    omega
  · rw [if_neg (by omega), if_pos (by omega)]
    congr 1
    omega

theorem regReset_partition {d l : Nat} (hd : d < 2) (hl : l < 64) : regReset (dieBlk d (0x1000 + 8 * l)) = 0 := by
  unfold regReset dieBlk pkgBlk
  interval_cases d <;> rw [if_neg (by omega), if_neg (by omega), if_neg (by omega), if_neg (by omega)]

theorem regReset_cellMask {d j k : Nat} (hd : d < 2) (hj : j < 68) (hk : k < 16) : regReset (dieBlk d (0x8000 + 8 * (16 * j + k))) = 8 := by
  unfold regReset dieBlk
  interval_cases d <;> rw [if_neg (by omega), if_neg (by omega), if_pos (by omega)]

theorem regReset_regsel {c : Nat} (hc : c < 128) : regReset (pkgBlk (0x1000 + 8 * c)) = BitVec.ofNat 64 (c % 4) := by
  unfold regReset dieBlk pkgBlk
  rw [if_neg (by omega), if_neg (by omega), if_neg (by omega), if_pos (by omega)]
  congr 1
  omega

/-- DONE of INV, LEASEREV, PRECTL, RESTORE and KILLCTL reads 1. -/
theorem reset_done : ∀ a ∈ [pkgBlk 0x80000, pkgBlk 0x80020, pkgBlk 0x80028, dieBlk 0 0x3000, dieBlk 0 0x3100, dieBlk 1 0x3000, dieBlk 1 0x3100],
    bitAt (BitVec.ofNat 64 (State.reset.regRead a)) 63 = true := by decide +kernel

/-- Settles O57: the maps and masks are the reset values of their registers, and nothing else is listed. -/
theorem resetState : Obligations.ResetState := by
  unfold Obligations.ResetState
  dsimp only
  refine ⟨⟨reset_bytes_wf.1, reset_bytes_wf.2, nofun⟩, rfl, rfl, rfl, rfl, rfl, fun d hd l hl => ?_, fun d hd j hj k hk => ?_, fun c hc => ?_,
    fun _ => ⟨rfl, rfl⟩, fun _ => rfl, fun _ => rfl, fun _ _ => rfl, reset_done⟩
  · rw [State.reg_reset, State.reg_reset]
    exact ⟨regReset_clusterMap hd hl, regReset_partition hd hl⟩
  · rw [State.reg_reset]
    exact regReset_cellMask hd hj hk
  · rw [State.reg_reset]
    exact regReset_regsel hc

end Sys2Proof.Machine
end

section
/-! SUPPORT. A message of die 1 for a line number beyond the stacks (10_memory.md R255, R256, R262), and obligation O48. -/

namespace Sys2Proof.Machine

/-- A line of quarter 00 whose home is die 1. -/
def farLine : Nat := 2 ^ 32

/-- A line number beyond the physical addresses, whose key at die 0 is that of the far line at die 1. -/
def strayLine : Nat := 2 ^ 41 + farLine

/-- The far line stands in the L2 of die 1, and a write of die 1 to the stray line is on its way to die 0. -/
def strayPost : State :=
  { State.reset with mem := { ({} : Mem) with
      l2 := [(lineKey 1 farLine, { data := 0, dirty := 0, tid := 0, part := 0, clk := 0 })]
      strait := [{ src := 1, line := strayLine, data := 1, mask := 1, k := 0, k2 := 0, q := syncMaster 1 }] } }

theorem strayPost_overwrites :
    (match exec (.remoteWriteApply 0 0) strayPost with
      | .next t => t.mem.look 0 (128 * farLine)
      | _ => 0) = 1 := by decide +kernel

/-- Refutes O48: the L2s are kept in one list by die × 2^41 + line, and the statement bounds no line number, so that the line that a
message names may have at die 0 the key of another line at die 1. The message then overwrites that line, which die 0 reads, and of which
the statement says that it stays. (A line number below 2^41, as every physical address has, has a key of its own.) -/
theorem not_memoryTraffic : ¬ Obligations.MemoryTraffic := by
  unfold Obligations.MemoryTraffic
  intro h
  obtain ⟨-, -, -, -, -, -, -, -, -, -, -, -, hpost⟩ := h strayPost 0 0 0 0 0 0
  obtain ⟨t, ht, -, hlook⟩ := hpost _ rfl (by decide) rfl rfl (by decide +kernel)
  have hafter := strayPost_overwrites
  rw [ht] at hafter
  have hkeeps := hlook (128 * farLine)
  rw [if_neg (by decide +kernel)] at hkeeps
  exact absurd (hafter.symm.trans hkeeps) (by decide +kernel)

end Sys2Proof.Machine
end

section
/-! SUPPORT. An acquiring load on a core whose L1 lists a line twice, first clean and then written (10_memory.md R255, 11_ordering.md R286;
log entry 22), and obligation O29. -/

namespace Sys2Proof.Machine

/-- The task of `crowded`, with line 0 in the L2 of its die and line 1 twice in the L1 of its core. -/
def twiceAcquired : State := crowded 0 (twice 1) [(0, lineWithout)] [] {}

/-- An acquire at device scope. -/
def acquiring : MemExt := ⟨0, 0, .device, .acquire, .normal, 0, 0⟩

theorem twiceAcquired_reach : twiceAcquired.LanesReach .zero acquiring 1 .read (fun _ => 0) := by
  refine ⟨rfl, fun i hi => ?_⟩
  rw [twiceAcquired, crowded_execLanes, List.mem_singleton] at hi
  subst hi
  exact ⟨rfl, by decide, by decide, by decide +kernel, by decide +kernel, by decide, crowded_sound, rfl, nofun⟩

/-- Each line of the L1 reads as clean: the first entry hides the second. -/
theorem twiceAcquired_clean (k : Nat) (l : L1Line) (h : (twiceAcquired.core 0).l1? k = some l) : l.dirty = 0 := by
  by_cases hk : 1 = k
  · subst hk
    cases h
    rfl
  · exact nomatch (twice_find (Ne.symm hk)).symm.trans h

/-- The acquire drops the clean entry, and reads the line of the written one that is left anew: the L2 of the die takes it in. -/
theorem twiceAcquired_fetches :
    (match exec (.ld 0 (.o 1) .zero .u8 acquiring) twiceAcquired with
      | .next t => t.mem.l2.length
      | _ => 0) = 2 := by decide +kernel

/-- Refutes O29: the L1 of the core lists line 1 twice, first clean and then written. The statement's hypothesis that each written line
stands in the L2 looks at the entry found first, so that it holds without such a line; the acquire takes every clean entry out of the L1
and refreshes the written one that is left, whose line it fetches into the L2. The statement leaves the L2 as it was. -/
theorem not_loadsAtL2 : ¬ Obligations.LoadsAtL2 := by
  unfold Obligations.LoadsAtL2
  intro h
  obtain ⟨s1, t, ht, ⟨⟨hrest, -⟩, -⟩, hs1, -⟩ := h twiceAcquired 0 (.o 1) .zero .u8 acquiring (fun _ => 0) ⟨rfl, nofun⟩
    (by decide +kernel) twiceAcquired_reach (fun _ _ => rfl) rfl rfl (fun k l hl hd => absurd (twiceAcquired_clean k l hl) hd)
    (.inl ⟨rfl, by decide⟩) (fun _ _ => ⟨by decide +kernel, by decide +kernel⟩)
  have hl2 : t.mem.l2 = [(0, lineWithout)] := by
    rw [hrest, hs1]
    rfl
  have hafter := twiceAcquired_fetches
  rw [ht] at hafter
  exact absurd ((congrArg List.length hl2).symm.trans hafter) (by decide)

end Sys2Proof.Machine
end

section
/-! SUPPORT. phase, perf, carve and esc, and what the kill of a launch leaves of it (14_control_instr.md R402 to R404,
16_recovery.md R466, 17_system_instr.md R486). -/

namespace Sys2Proof.Machine

/-! ## What a run changes -/

/-- Nothing differs but device registers, the system's own data and the clock. -/
def State.Aside (s t : State) : Prop := t = { s with regs := t.regs, sys := t.sys, clock := t.clock }

theorem State.Aside.refl (s : State) : s.Aside s := rfl

theorem State.Aside.trans {s t u : State} (h : s.Aside t) (k : t.Aside u) : s.Aside u :=
  calc
    u = { t with regs := u.regs, sys := u.sys, clock := u.clock } := k
    _ = { s with regs := u.regs, sys := u.sys, clock := u.clock } := by rw [h]

theorem State.Aside.setReg {s t : State} (h : s.Aside t) (a : Nat) (v : Word64) : s.Aside (t.setReg a v) :=
  h.trans (show t.Aside (t.setReg a v) from rfl)

theorem State.Aside.setSys {s t : State} (h : s.Aside t) (y : Sys) : s.Aside { t with sys := y } :=
  h.trans (show t.Aside { t with sys := y } from rfl)

theorem State.endRun_aside (s : State) (p : Nat) : s.Aside (s.endRun p) := by
  unfold State.endRun
  split
  · exact .refl s
  · dsimp only
    split
    · exact (State.Aside.refl s).setSys _
    · split
      · exact (((State.Aside.refl s).setSys _).setReg _ _).setReg _ _
      · exact (State.Aside.refl s).setSys _

theorem State.recallEntry_aside (s : State) (d p kernel phase : Nat) : s.Aside (s.recallEntry d p kernel phase).1 := by
  unfold State.recallEntry
  split <;> rfl

/-- The use of a recall entry touches no phase marker. -/
theorem State.recallEntry_markers (s : State) (d p kernel phase : Nat) :
    (s.recallEntry d p kernel phase).1.sys.markers = s.sys.markers := by
  unfold State.recallEntry
  split <;> rfl

theorem State.startRun_aside (s : State) (lid p kernel phase : Nat) : s.Aside (s.startRun lid p kernel phase) := by
  unfold State.startRun
  dsimp only
  split
  · exact (s.endRun_aside p).setSys _
  · exact (((s.endRun_aside p).setSys _).trans (State.recallEntry_aside _ _ _ _ _)).setSys _

theorem State.startRun_marker (s : State) (lid p kernel phase : Nat) : (s.startRun lid p kernel phase).sys.markers.get 0 p = phase := by
  unfold State.startRun
  dsimp only
  split
  · exact SMap.get_set_same 0 _ p phase
  · dsimp only
    rw [State.recallEntry_markers]
    exact SMap.get_set_same 0 _ p phase

/-! ## The strand goes on in a state that differs beside its warp -/

/-- The strand goes on, its warp changed in one place. -/
theorem State.passU_then_only (s : State) (n : Stall) (x : Option Nat) :
    (s.updWarp s.cur.warp (fun w => { w with perf := x })).StrandOnly ((s.passU n.toNat 4).updWarp s.cur.warp (fun w => { w with perf := x })) n 4 {} := by
  have hs : (s.updWarp s.cur.warp (fun w => { w with perf := x })).warp s.cur.warp = { s.warp s.cur.warp with perf := x } :=
    State.warp_updWarp_same s s.cur.warp _
  have ht : ((s.passU n.toNat 4).updWarp s.cur.warp (fun w => { w with perf := x })).warp s.cur.warp =
      { (s.warp s.cur.warp).passU n.toNat ((s.warp s.cur.warp).spc + BitVec.ofNat 56 4) with perf := x } :=
    (State.warp_updWarp_same _ s.cur.warp _).trans (congrArg (fun v : Warp => { v with perf := x }) (State.warp_updWarp_same s s.cur.warp _))
  have hcur : (s.updWarp s.cur.warp (fun w => { w with perf := x })).cur = s.cur := rfl
  refine ⟨rfl, fun j hj => ?_, ?_, fun j => ?_, fun r => ?_⟩
  · replace hj : s.cur.warp ≠ j := Ne.symm hj
    exact ((State.warp_updWarp _ _ _ _).trans (if_neg hj)).trans (((State.warp_updWarp _ _ _ _).trans (if_neg hj)).trans
      ((State.warp_updWarp _ _ _ _).trans (if_neg hj)).symm)
  · rw [hcur, ht, hs, Warp.passU_rest]
    rfl
  · rw [hcur, ht, hs]
    exact Warp.passU_lane (s.warp s.cur.warp) n.toNat ((s.warp s.cur.warp).spc + BitVec.ofNat 56 4) j
  · rw [hcur, ht, hs, Warp.passU_rest]
    rfl

section
variable {s : State} {n : Stall} {v : BitVec 8} {k : BitVec 3}

theorem exec_phase (hc : s.StrandClear []) : let w := s.warp s.cur.warp
    let u := (s.passU n.toNat 4).updCluster (s.cur.warp / 16 / 16) (fun g => { g with phase := v })
    exec (.phase n v) s =
      .next (if u.sys.markers.get 0 w.part = v.toNat then u else u.startRun w.lid w.part (s.launch w.lid).kernel v.toNat) := by
  have hx : exec (.phase n v) s = execPhase n v s := rfl
  rw [hx, execPhase, strandOp_clear hc _ _ (fun _ h => h)]
  rfl

/-- phase sets the markers of its cluster and of its partition. -/
theorem phase_sets (hc : s.StrandClear []) : let s0 := s.updCluster (s.cur.warp / 16 / 16) (fun g => { g with phase := v })
    ∃ (s1 t : State), exec (.phase n v) s = .next t ∧ s1.StrandOnly t n 4 {} ∧
      s1 = { s0 with regs := s1.regs, sys := s1.sys, clock := s1.clock } ∧
      s1.sys.markers.get 0 (s.warp s.cur.warp).part = v.toNat ∧
      (s.sys.markers.get 0 (s.warp s.cur.warp).part = v.toNat → s1 = s0) := by
  intro s0
  have hx := exec_phase (n := n) (v := v) hc
  dsimp only at hx
  by_cases hm : s.sys.markers.get 0 (s.warp s.cur.warp).part = v.toNat
  · rw [if_pos (show SMap.get 0 ((s.passU n.toNat 4).updCluster _ _).sys.markers _ = _ from hm)] at hx
    exact ⟨s0, _, hx, s0.passU_only n 4 _ rfl, rfl, hm, fun _ => rfl⟩
  · rw [if_neg (show ¬ SMap.get 0 ((s.passU n.toNat 4).updCluster _ _).sys.markers _ = _ from hm)] at hx
    have ha := State.startRun_aside ((s.passU n.toNat 4).updCluster (s.cur.warp / 16 / 16) (fun g => { g with phase := v }))
      (s.warp s.cur.warp).lid (s.warp s.cur.warp).part (s.launch (s.warp s.cur.warp).lid).kernel v.toNat
    generalize ht : State.startRun _ _ _ _ _ = t at ha hx
    refine ⟨{ s0 with regs := t.regs, sys := t.sys, clock := t.clock }, t, hx, ?_, rfl, ?_, fun h => absurd h hm⟩
    · have hp := State.passU_only { s0 with regs := t.regs, sys := t.sys, clock := t.clock } n 4 _ rfl
      rw [ha]
      exact hp
    · exact ht ▸ State.startRun_marker _ _ _ _ _

/-- The size codes of carve. -/
theorem carve_code (k : BitVec 3) : (k = 0 ∨ 6 ≤ k.toNat) ↔ ¬(1 ≤ k.toNat ∧ k.toNat ≤ 5) := by
  have h0 : k = 0 ↔ k.toNat = 0 := by rw [BitVec.toNat_eq]; rfl
  rw [h0]
  omega

/-- The strand going on leaves every slot as full as it was. -/
theorem State.passU_residents (s : State) (m len c : Nat) : (s.passU m len).residents c = s.residents c := by
  unfold State.residents
  refine List.filter_congr (fun j _ => ?_)
  unfold Warp.resident
  rw [State.passU, State.warp_updWarp, Warp.passU_rest]
  split
  · rename_i h; rw [← h]
  · rfl

theorem exec_carve (hc : s.StrandClear []) : exec (.carve n k) s = .next
    (if k = 0 ∨ 6 ≤ k.toNat then s.strandTrap s.cur.warp 0x01 (s.warp s.cur.warp).spc
      else (s.passU n.toNat 4).requestCarve (s.cur.warp / 16) (k.toNat + 2) none) := by
  have hx : exec (.carve n k) s = execCarve n k s := rfl
  rw [hx, execCarve, strandOp_clear hc _ _ (fun _ h => h)]
  rfl

theorem carve_idle (hc : s.StrandClear []) (ha : 1 ≤ k.toNat ∧ k.toNat ≤ 5) (hw : (s.core (s.cur.warp / 16)).ways = k.toNat + 2)
    (he : (s.core (s.cur.warp / 16)).carves = []) : s.StrandGives (.carve n k) n 4 {} := by
  have hsame : (s.passU n.toNat 4).requestCarve (s.cur.warp / 16) (k.toNat + 2) none = s.passU n.toNat 4 := by
    rw [State.requestCarve, if_pos]
    exact ⟨hw, by rw [show ((s.passU n.toNat 4).core (s.cur.warp / 16)).carves = [] from he]; rfl, rfl⟩
  exact ⟨s.passU n.toNat 4, by rw [exec_carve hc, if_neg (fun h => (carve_code k).mp h ha), hsame], s.passU_only n 4 _ rfl⟩

theorem carve_asks (hc : s.StrandClear []) (ha : 1 ≤ k.toNat ∧ k.toNat ≤ 5)
    (hw : (s.core (s.cur.warp / 16)).ways ≠ k.toNat + 2 ∨ (s.core (s.cur.warp / 16)).carves ≠ []) :
    ∃ t, exec (.carve n k) s = .next t ∧ (s.updCore (s.cur.warp / 16) (fun x =>
      { x with carves := x.carves ++ [{ ways := k.toNat + 2, residents := s.residents (s.cur.warp / 16), trec := none }] })).StrandOnly t n 4 {} := by
  have hcore : (s.passU n.toNat 4).core (s.cur.warp / 16) = s.core (s.cur.warp / 16) := rfl
  refine ⟨_, by rw [exec_carve hc, if_neg (fun h => (carve_code k).mp h ha)], ?_⟩
  rw [State.requestCarve, if_neg, State.passU_residents]
  · exact State.passU_only (s.updCore _ _) n 4 _ rfl
  · rw [hcore, List.isEmpty_iff]
    exact fun h => hw.elim (fun hn => hn h.1) (fun hn => hn h.2.1)

theorem carve_traps (hc : s.StrandClear []) (ha : ¬(1 ≤ k.toNat ∧ k.toNat ≤ 5)) (hh : s.Handled) (hl : (s.warp s.cur.warp).live ≠ 0) :
    s.StrandTraps (.carve n k) 0x01 :=
  State.strandTrap_traps hh hc.1 hl (by decide) (by rw [exec_carve hc, if_pos ((carve_code k).mpr ha)])

theorem perf_asks (p : BitVec 4) (hc : s.StrandClear []) : ∃ t, exec (.perf n p) s = .next t ∧
    (s.updWarp s.cur.warp (fun x => { x with perf := some p.toNat })).StrandOnly t n 4 {} := by
  have hx : exec (.perf n p) s = execPerf n p s := rfl
  exact ⟨_, by rw [hx, execPerf, strandOp_clear hc _ _ (fun _ h => h)], s.passU_then_only n _⟩

end

/-! ## The kill of a launch -/

/-- No slot holds a task of a launch. -/
def State.Rid (s : State) (lid : Nat) : Prop := ∀ j, (s.warp j).slot ≠ .free → (s.warp j).lid ≠ lid

theorem State.wakeStrands_warp (s : State) (j : Nat) :
    (s.wakeStrands.warp j).slot = (s.warp j).slot ∧ (s.wakeStrands.warp j).lid = (s.warp j).lid := by
  unfold State.wakeStrands State.warp
  rw [SMap.get_mapVals _ _ _ _ (by rfl)]
  split <;> exact ⟨rfl, rfl⟩

theorem State.vanish_launches (s : State) (k : Nat) : (s.vanish k).launches = s.launches := rfl

/-- A slot after the kill of a launch: free, or as full as before and of another launch. -/
theorem State.vanish_warp (s : State) (k j : Nat) : ((s.vanish k).warp j).slot = .free ∨
    (((s.vanish k).warp j).slot = (s.warp j).slot ∧ ((s.vanish k).warp j).lid = (s.warp j).lid ∧ (s.warp j).lid ≠ k) := by
  have hw := State.wakeStrands_warp { (s.vanish k) with
    warps := mapVals (fun _ v => if v.resident && decide (v.lid = k) then Warp.dflt else v) s.warps } j
  have hv : (s.vanish k).warp j = (({ (s.vanish k) with
    warps := mapVals (fun _ v => if v.resident && decide (v.lid = k) then Warp.dflt else v) s.warps } : State).wakeStrands).warp j := rfl
  rw [hv, hw.1, hw.2, State.warp, SMap.get_mapVals _ _ _ _ (by rfl)]
  by_cases hf : (s.warp j).slot = .free
  · left
    change (if (s.warp j).resident && decide ((s.warp j).lid = k) then Warp.dflt else s.warp j).slot = _
    split
    · rfl
    · exact hf
  · have hr : (s.warp j).resident = true := by rw [Warp.resident, decide_eq_false hf]; rfl
    change (if (s.warp j).resident && decide ((s.warp j).lid = k) then Warp.dflt else s.warp j).slot = _ ∨ 
      ((if (s.warp j).resident && decide ((s.warp j).lid = k) then Warp.dflt else s.warp j).slot = _ ∧
      (if (s.warp j).resident && decide ((s.warp j).lid = k) then Warp.dflt else s.warp j).lid = _ ∧ _)
    rw [hr, Bool.true_and]
    by_cases hk : (s.warp j).lid = k
    · rw [decide_eq_true hk]
      exact .inl rfl
    · rw [decide_eq_false hk]
      exact .inr ⟨rfl, rfl, hk⟩

theorem State.vanish_rid (s : State) (k : Nat) : (s.vanish k).Rid k := fun j hj =>
  match s.vanish_warp k j with
  | .inl h => absurd h hj
  | .inr ⟨_, hl, hk⟩ => hl ▸ hk

theorem State.Rid.vanish {s : State} {lid : Nat} (h : s.Rid lid) (k : Nat) : (s.vanish k).Rid lid := fun j hj =>
  match s.vanish_warp k j with
  | .inl hf => absurd hf hj
  | .inr ⟨hs, hl, _⟩ => hl ▸ h j (hs ▸ hj)

/-- What the rollback of a launch makes of a member of its rollback set. -/
def Launch.rolled (L : Launch) (f : FaultRec) : Launch := { L with st := .rolledBack, roll := true, fault := some f }

/-- The kill of one member of a rollback set. -/
def State.killMember (lid : Nat) (f : FaultRec) (s : State) (k : Nat) : State :=
  if (s.launch k).alive then (s.updLaunch k (fun x => x.rolled (if k = lid then f else f.asDep))).vanish k else s

theorem State.beginRollback_running {s : State} {lid : Nat} {L : Launch} (h : s.launch? lid = some L) (hr : L.st = .running) (f : FaultRec) :
    s.beginRollback lid f = (s.rollSet [lid]).foldl (State.killMember lid f) s := by
  have ha : L.alive = true := by rw [Launch.alive, hr]; rfl
  rw [State.beginRollback, h]
  dsimp only
  rw [ha]
  rfl

theorem State.updLaunch_launch? (s : State) (k lid : Nat) (g : Launch → Launch) :
    (s.updLaunch k g).launch? lid = if k = lid then (s.launch? lid).map g else s.launch? lid := by
  unfold State.updLaunch State.launch?
  by_cases hk : k = lid
  · subst hk
    rw [if_pos rfl]
    cases h : SMap.find? s.launches k with
    | none => exact h
    | some l => rw [Option.map_some]; exact (SMap.find?_set _ _ _ _).trans (if_pos rfl)
  · rw [if_neg hk]
    cases h : SMap.find? s.launches k with
    | none => rfl
    | some l => exact (SMap.find?_set _ _ _ _).trans (if_neg hk)

/-- The kill of another launch leaves one as it is. -/
theorem State.killMember_other {s : State} {lid k : Nat} (f : FaultRec) (h : k ≠ lid) : (s.killMember lid f k).launch? lid = s.launch? lid := by
  unfold State.killMember
  split
  · exact (State.updLaunch_launch? s k lid _).trans (if_neg h)
  · rfl

theorem State.Rid.killMember {s : State} {lid : Nat} (h : s.Rid lid) (f : FaultRec) (k : Nat) : (s.killMember lid f k).Rid lid := by
  unfold State.killMember
  split
  · refine State.Rid.vanish (fun j => ?_) k
    rw [State.warp, State.updLaunch_warps]
    exact h j
  · exact h

/-- A launch that is rolled back stays so, and gone from every slot, as the rest of its rollback set is killed. -/
theorem State.foldl_killMember_rolled (lid : Nat) (f : FaultRec) {R : Launch} (hR : R.alive = false) : ∀ (ks : List Nat) (s : State),
    s.launch? lid = some R → s.Rid lid → (ks.foldl (State.killMember lid f) s).launch? lid = some R ∧ (ks.foldl (State.killMember lid f) s).Rid lid
  | [], _, hl, hr => ⟨hl, hr⟩
  | k :: ks, s, hl, hr => by
    refine State.foldl_killMember_rolled lid f hR ks _ ?_ (hr.killMember f k)
    by_cases hk : k = lid
    · subst hk
      rw [State.killMember, State.launch, SMap.get, show SMap.find? s.launches k = some R from hl, Option.getD_some, hR]
      exact hl
    · rw [State.killMember_other f hk, hl]

/-- The member of the rollback set that the rollback is for, while it is alive. -/
theorem State.killMember_self {s : State} {lid : Nat} {L : Launch} (hL : L.alive = true) (hl : s.launch? lid = some L) (f : FaultRec) :
    s.killMember lid f lid = (s.updLaunch lid (fun x => x.rolled f)).vanish lid := by
  have hlaunch : s.launch lid = L := by
    rw [State.launch, SMap.get, show SMap.find? s.launches lid = some L from hl, Option.getD_some]
  rw [State.killMember, hlaunch, if_pos hL]
  simp only [if_true]

/-- The launch that a rollback is for is rolled back with its own fault, and gone from every slot. -/
theorem State.foldl_killMember_running (lid : Nat) (f : FaultRec) {L : Launch} (hL : L.alive = true) (ks : List Nat) :
    ∀ s : State, lid ∈ ks → s.launch? lid = some L →
    (ks.foldl (State.killMember lid f) s).launch? lid = some (L.rolled f) ∧ (ks.foldl (State.killMember lid f) s).Rid lid := by
  induction ks with
  | nil => exact fun _ hm => absurd hm List.not_mem_nil
  | cons k ks ih =>
    intro s hm hl
    by_cases hk : k = lid
    · subst hk
      have hself := State.killMember_self hL hl f
      have hroll : (s.killMember k f k).launch? k = some (L.rolled f) := by
        rw [hself, State.launch?, State.vanish_launches]
        exact (State.updLaunch_launch? s k k _).trans (by rw [if_pos rfl, hl, Option.map_some])
      exact State.foldl_killMember_rolled k f (R := L.rolled f) rfl ks _ hroll (hself ▸ State.vanish_rid _ k)
    · exact ih _ ((List.mem_cons.mp hm).resolve_left (Ne.symm hk)) ((State.killMember_other f hk).trans hl)

/-- Closing a set under dependence takes nothing out of it. -/
theorem State.subset_closeOnce (s : State) (l : List Nat) : l ⊆ s.closeOnce l := by
  unfold State.closeOnce
  suffices h : ∀ (ps : SMap Launch) (r : List Nat), r ⊆ ps.foldl (fun r p =>
      if r.contains p.1 then r
      else if p.2.deps.any r.contains || s.launches.any (fun q => r.contains q.1 && q.2.deps.contains p.1) then r ++ [p.1]
      else r) r from h _ l
  intro ps
  induction ps with
  | nil => exact fun r => List.Subset.refl r
  | cons p ps ih =>
    intro r
    refine List.Subset.trans ?_ (ih _)
    dsimp only
    split
    · exact List.Subset.refl r
    · split
      · exact List.subset_append_left r _
      · exact List.Subset.refl r

theorem State.mem_rollSet (s : State) (lid : Nat) : lid ∈ s.rollSet [lid] := by
  unfold State.rollSet
  suffices h : ∀ (ks r : List Nat), lid ∈ r → lid ∈ ks.foldl (fun r _ => s.closeOnce r) r from h _ _ List.mem_cons_self
  intro ks
  induction ks with
  | nil => exact fun _ h => h
  | cons k ks ih => exact fun r h => ih _ (s.subset_closeOnce r h)

/-- A running launch that is rolled back. -/
theorem State.beginRollback_kills {s : State} {lid : Nat} {L : Launch} (h : s.launch? lid = some L) (hr : L.st = .running) (f : FaultRec) :
    (s.beginRollback lid f).launch? lid = some (L.rolled f) ∧ (s.beginRollback lid f).Rid lid := by
  rw [State.beginRollback_running h hr]
  exact State.foldl_killMember_running lid f (by rw [Launch.alive, hr]; rfl) _ s (s.mem_rollSet lid) h

/-! ## The lanes that execute esc -/

/-- The executing lanes of a calm warp come to wait for nothing that a mask completes: no launch changes. -/
theorem laneOp_halts {s : State} (hc : s.Clear []) (hk : s.Calm) (n : Stall) {x : LaneWait}
    (hx : ∀ mk, x ≠ .join mk ∧ x ≠ .meet mk ∧ x ≠ .round mk ∧ x ≠ .tile mk) :
    ∃ t, laneOp n 4 0 (0, 0) (fun _ => []) (fun _ => { hold := some x }) s = .next t ∧ t.launches = s.launches := by
  refine ⟨_, laneOp_clear hc n 4 0 (0, 0) _ (fun _ _ _ h => h), ?_⟩
  obtain ⟨ls, h1, h2⟩ := foldl_applyRes_quiet (s.warp s.cur.warp).mks 4 0 n (fun _ => { hold := some x }) s.execLanes s.execLanes_nodup
    (fun _ _ => ⟨rfl, rfl⟩) (s.warp s.cur.warp)
  have hv : s.Holds ({ s.warp s.cur.warp with lanes := ls } : Warp).settle n x :=
    ⟨(Warp.beside_lanes _ ls).trans (Warp.beside_settle _), fun j => by rw [Warp.settle_lane]; exact h2 j⟩
  have honly := hv.only (fun i hi _ => .inl (hk i hi))
  have hs := State.wake_nothing ((State.SlotIs.refl s s.cur.warp).setWarp _)
    (fun mk => Warp.nothingAt_of honly (hx mk).1 (hx mk).2.1 (hx mk).2.2.1)
  have hstir := hs.stir (fun i hi m => (honly i hi).elim (fun h => h ▸ nofun) (fun h => h ▸ (hx m).2.2.2))
  unfold State.finishLanes
  simp only [State.updWarp, h1]
  rw [trapsOf_plain _ _ _ _ _ (fun _ _ => rfl)]
  split
  · change (State.stir _ s.cur.warp).launches = _
    rw [State.takeTraps]
    have hrest := congrArg State.launches hstir.rest
    exact hrest
  · rfl

/-- esc rolls the launch back. -/
theorem esc_rolls {s : State} (n : Stall) (v : BitVec 8) {L : Launch} (hc : s.Clear []) (hk : s.Calm)
    (hl : s.launch? (s.warp s.cur.warp).lid = some L) (hr : L.st = .running) :
    ∃ t, exec (.esc n v) s = .next t ∧ t.Rid (s.warp s.cur.warp).lid ∧ t.launch? (s.warp s.cur.warp).lid =
      some (L.rolled { code := 0x0C, task := (s.warp s.cur.warp).taskId, where_ := s.cur.warp / 16, escr := v.toNat }) := by
  obtain ⟨u, hu, hlaunch⟩ := laneOp_halts hc hk n (x := .esc) (fun _ => ⟨nofun, nofun, nofun, nofun⟩)
  have hx : exec (.esc n v) s = execEsc n v s := rfl
  rw [execEsc, hu] at hx
  have hul : u.launch? (s.warp s.cur.warp).lid = some L := by rw [State.launch?, hlaunch]; exact hl
  obtain ⟨h1, h2⟩ := State.beginRollback_kills hul hr
    { code := 0x0C, task := (s.warp s.cur.warp).taskId, where_ := s.cur.warp / 16, escr := v.toNat }
  exact ⟨_, hx, h2, h1⟩

/-- Settles O44. -/
theorem systemInstructions : Obligations.SystemInstructions := by
  intro s n v p k L
  exact ⟨phase_sets, perf_asks p, carve_idle, carve_asks, carve_traps, esc_rolls n v⟩

end Sys2Proof.Machine
end

section
/-! SUPPORT. Accesses of lanes in ascending order, said once: which lane's value a place ends up with, and what a loaded value is to the
registers (12_memory_instr.md R309, R313, R314, 11_ordering.md R281). -/

namespace Sys2Proof.Machine

/-! ## One access after another -/

/-- Accesses that each go through, as long as something stays so: their changes are made one after another. -/
theorem performLanes_folds {perform : State → Nat → Nat → State × Option LaneRes} {P : State → Prop} {upd : State → Nat × Nat → State}
    {r : Nat × Nat → LaneRes} : ∀ (l : List (Nat × Nat)) (s : State), P s →
    (∀ t, P t → ∀ p ∈ l, perform t p.1 p.2 = (upd t p, some (r p)) ∧ P (upd t p)) →
    performLanes perform l s = (l.foldl upd s, some (l.map (fun p => (p.1, r p)))) ∧ P (l.foldl upd s)
  | [], _, hs, _ => ⟨rfl, hs⟩
  | p :: l, s, hs, h => by
    obtain ⟨hp, hP⟩ := h s hs p List.mem_cons_self
    obtain ⟨hl, hQ⟩ := performLanes_folds l _ hP (fun t ht q hq => h t ht q (List.mem_cons_of_mem _ hq))
    refine ⟨?_, hQ⟩
    rw [performLanes, hp]
    dsimp only
    rw [hl]
    rfl

/-- What a place holds after writes in order is the value of the last one that covers it. -/
theorem foldl_last_prevails {σ α β : Type} {P : σ → Prop} {upd : σ → α → σ} {get : σ → β} {cov : α → Bool} {val : α → β} :
    ∀ (l : List α) (s : σ), P s → (∀ t, P t → ∀ a ∈ l, P (upd t a) ∧ get (upd t a) = if cov a then val a else get t) →
    get (l.foldl upd s) = ((l.filter cov).getLast?).elim (get s) val
  | [], _, _, _ => rfl
  | a :: l, s, hs, h => by
    obtain ⟨hP, hg⟩ := h s hs a List.mem_cons_self
    rw [List.foldl_cons, foldl_last_prevails l _ hP (fun t ht b hb => h t ht b (List.mem_cons_of_mem _ hb)), List.filter_cons]
    cases hc : cov a with
    | false => rw [hg, hc]; rfl
    | true =>
      rw [if_pos rfl, List.getLast?_cons]
      cases (l.filter cov).getLast? with
      | none => rw [hg, hc]; rfl
      | some b => rfl

/-- The same where the writes are those of lanes, each at its own place. -/
theorem foldl_lanes_last {σ β : Type} {P : σ → Prop} {upd : σ → Nat × Nat → σ} {get : σ → β} {cov : Nat → Bool} {val : Nat → β}
    (off : Nat → Nat) (is : List Nat) (s : σ) (hs : P s)
    (h : ∀ t, P t → ∀ i ∈ is, P (upd t (i, off i)) ∧ get (upd t (i, off i)) = if cov i then val i else get t) :
    get ((is.map (fun i => (i, off i))).foldl upd s) = ((is.filter cov).getLast?).elim (get s) val := by
  rw [List.foldl_map]
  exact foldl_last_prevails is s hs h

/-! ## Loaded values -/

/-- Effects that differ in the order of their o-registers alone do the same. -/
theorem State.Given.congr_o {s t : State} {n : Stall} {len : Nat} {e e' : View → Effect} (h : s.Given t n len e)
    (he : ∀ j ∈ s.execLanes, e' (s.view j) = { e (s.view j) with o := (e' (s.view j)).o })
    (ho : ∀ j ∈ s.execLanes, ∀ k, (e (s.view j)).o.lookup k = (e' (s.view j)).o.lookup k) : s.Given t n len e' := by
  obtain ⟨hl, hb, hm, hf⟩ := h
  refine ⟨hl, fun j hj => ?_, fun k j => ?_, ?_⟩
  · obtain ⟨b1, b2, b3, b4, b5, b6⟩ := hb j hj
    have hj' := he j hj
    refine ⟨by rw [hj']; exact b1, fun k => by rw [← ho j hj k]; exact b2 k, ?_, ?_, ?_, ?_⟩
    all_goals rw [hj']; assumption
  · rw [hm k j]
    by_cases hj : j ∈ s.execLanes
    · rw [if_pos hj, if_pos hj, he j hj]
    · rw [if_neg hj, if_neg hj]
  · rw [hf]
    congr 3
    exact List.map_congr_left (fun j hj => by rw [he j hj])

/-- A number as signed bits: its residue of least absolute value. -/
theorem signExtend_ofNat (w v : Nat) : (BitVec.ofNat w v).signExtend 32 = BitVec.ofInt 32 ((v : Int).bmod (2 ^ w)) :=
  congrArg (BitVec.ofInt 32) (BitVec.toInt_ofNat' ..)

theorem LaneRes.plain_consecutive (d : Dst) (x : Word) (r c : Nat) (f : Nat → Word) :
    ({ d := some (d, x), wr := (List.range c).map (fun k => (.o (r + k + 1), f k)) } : LaneRes).Plain := by
  refine ⟨rfl, rfl, rfl, rfl, rfl, rfl, fun p hp => ?_⟩
  obtain ⟨k, -, rfl⟩ := List.mem_map.mp hp
  exact ⟨nofun, nofun⟩

theorem LaneRes.plain_loaded (d : Dst) (w : Width) (v : Nat) : (loaded d w v).Plain := by
  cases w with
  | w64 | w128 =>
    cases d with
    | zero => exact LaneRes.plain_val .zero _
    | o r => exact LaneRes.plain_consecutive _ _ _ _ _
  | _ => exact LaneRes.plain_val _ _

theorem loaded_mkb (d : Dst) (w : Width) (v : Nat) : (loaded d w v).mkb = [] := by cases w <;> rfl

/-- Consecutive o-registers. -/
theorem wrO_consecutive (r c : Nat) (f : Nat → Word) :
    wrO ((List.range c).map (fun k => (LRes.o (r + k + 1), f k))) = ((List.range c).map (fun k => (r + k + 1, f k))).reverse := by
  unfold wrO
  rw [← List.map_reverse, ← List.map_reverse, List.filterMap_map]
  exact congrFun List.filterMap_eq_map _

theorem wr_consecutive_only_o (r c : Nat) (f : Nat → Word) :
    wrM ((List.range c).map (fun k => (LRes.o (r + k + 1), f k))) = [] ∧ wrX ((List.range c).map (fun k => (LRes.o (r + k + 1), f k))) = [] := by
  unfold wrM wrX
  rw [← List.map_reverse, List.filterMap_map, List.filterMap_map]
  exact ⟨List.filterMap_eq_nil_iff.mpr (fun _ _ => rfl), List.filterMap_eq_nil_iff.mpr (fun _ _ => rfl)⟩

/-- A value of several registers. -/
theorem loaded_wide (r : BitVec 4) (c : Nat) (f : Nat → Word) (x : Word) :
    let l : LaneRes := { d := some (.o r, x), wr := (List.range c).map (fun k => (.o (r.toNat + k + 1), f k)) }
    let e : Effect := { result (.o r) x with o := (result (.o r) x).o ++ (List.range c).map (fun k => (r.toNat + k + 1, f k)) }
    e = { l.effect with o := e.o } ∧ ∀ k, l.effect.o.lookup k = e.o.lookup k := by
  obtain ⟨hm, hx⟩ := wr_consecutive_only_o r.toNat c f
  refine ⟨?_, fun k => ?_⟩
  · simp only [LaneRes.effect, hm, hx]
    rfl
  · have hnd : (((List.range c).map (fun k => (r.toNat + k + 1, f k))).map Prod.fst).Nodup := by
      rw [List.map_map]
      exact List.nodup_range.map (fun a b h => by simp only [Function.comp_apply] at h; omega)
    simp only [LaneRes.effect, wrO_consecutive, result, List.lookup_append, lookup_reverse_of_nodup _ _ hnd]

/-- A loaded value of every width is to the registers what R313 and R314 say. -/
theorem loaded_effect (d : Dst) (w : Width) (v : Nat) :
    loadEffect d w v = { (loaded d w v).effect with o := (loadEffect d w v).o } ∧
      ∀ k, (loaded d w v).effect.o.lookup k = (loadEffect d w v).o.lookup k := by
  have hval : ∀ x, loadEffect d w v = result d x → loaded d w v = .val d x →
      loadEffect d w v = { (loaded d w v).effect with o := (loadEffect d w v).o } ∧
        ∀ k, (loaded d w v).effect.o.lookup k = (loadEffect d w v).o.lookup k := by
    intro x he hl
    rw [he, hl, LaneRes.effect_val]
    exact ⟨rfl, fun _ => rfl⟩
  cases w with
  | u8 => exact hval _ rfl rfl
  | s8 => exact hval _ (congrArg (result d) (signExtend_ofNat 8 v).symm) rfl
  | u16 => exact hval _ rfl rfl
  | s16 => exact hval _ (congrArg (result d) (signExtend_ofNat 16 v).symm) rfl
  | w32 => exact hval _ rfl rfl
  | w64 | w128 =>
    cases d with
    | zero => exact ⟨rfl, fun _ => rfl⟩
    | o r => exact loaded_wide r _ (fun k => BitVec.ofNat 32 (v / 2 ^ (32 * (k + 1)))) _

/-- Each executing lane has received a loaded value. -/
theorem State.finishLanes_loaded (s : State) (n : Stall) (len lat : Nat) (u : Nat × Nat) (d : Dst) (w : Width) (f : Nat → Nat) :
    s.Given (s.finishLanes s.cur.warp len lat n.toNat u (s.execLanes.map (fun i => (i, loaded d w (f i))))) n len
      (fun v => loadEffect d w (f v.i)) := by
  have h : s.Given _ n len (fun v => (loaded d w (f v.i)).effect) :=
    State.finishLanes_plain s len lat n u (fun i => loaded d w (f i)) (fun _ _ => LaneRes.plain_loaded _ _ _) (.inl fun _ _ => loaded_mkb _ _ _)
  exact h.congr_o (fun j _ => (loaded_effect d w (f j)).1) (fun j _ => (loaded_effect d w (f j)).2)

/-- Each executing lane has passed an instruction that gives it no result. -/
theorem State.finishLanes_passed (s : State) (n : Stall) (len lat : Nat) (u : Nat × Nat) :
    s.Given (s.finishLanes s.cur.warp len lat n.toNat u (s.execLanes.map (fun i => (i, {})))) n len (fun _ => {}) :=
  State.finishLanes_plain s len lat n u (fun _ => {}) (fun _ _ => ⟨rfl, rfl, rfl, rfl, rfl, rfl, nofun⟩) (.inl fun _ _ => rfl)

/-- The same from a state with the warps of another. -/
theorem State.finishLanes_passed_of {s u : State} (hw : u.warps = s.warps) (hc : u.cur = s.cur) (n : Stall) (len lat : Nat) (k : Nat × Nat) :
    u.Given (u.finishLanes s.cur.warp len lat n.toNat k (s.execLanes.map (fun i => (i, {})))) n len (fun _ => {}) := by
  have he : u.execLanes = s.execLanes := by simp only [State.execLanes, State.warp, hw, hc]
  have hg := u.finishLanes_passed n len lat k
  rw [he, hc] at hg
  exact hg

end Sys2Proof.Machine
end

section
/-! SUPPORT. lds, sts, lda and sta (10_memory.md R246, R247, R249, 09_tensor_instr.md R235, 12_memory_instr.md R321 to R323). -/

namespace Sys2Proof.Machine

/-! ## The lanes of a local access -/

/-- The trap of a lane before its local access, or the place that it accesses. -/
def State.localVerdict (s : State) (reads : View → List LRes) (addr : View → Nat ⊕ Nat) (i : Nat) : Nat ⊕ Nat :=
  match s.laneCheck (1, 1) reads i with
  | some c => .inl c
  | none => addr (s.view i)

theorem State.localVerdict_clear {s : State} {rs reads : View → List LRes} (hc : s.ClearBy rs) {j : Nat} (hj : j ∈ s.execLanes)
    (hr : ∀ x ∈ reads (s.view j), x ∈ rs (s.view j)) (addr : View → Nat ⊕ Nat) : s.localVerdict reads addr j = addr (s.view j) := by
  rw [State.localVerdict, State.laneCheck_clear hc _ _ j hj hr]

theorem localOp_eq (n : Stall) (reads : View → List LRes) (addr : View → Nat ⊕ Nat) (perform : State → Nat → Nat → State × Option LaneRes) (s : State) :
    localOp n reads addr perform s =
      match performLanes perform (s.execLanes.filterMap (fun i => (s.localVerdict reads addr i).elim (fun _ => none) (fun a => some (i, a)))) s with
      | (t, none) => .next t
      | (t, some rs) => .next (t.finishLanes s.cur.warp 4 0 n.toNat (1, 1)
          (rs ++ s.execLanes.filterMap (fun i => (s.localVerdict reads addr i).elim (fun c => some (i, LaneRes.trapped c)) (fun _ => none)))) := by
  have hgo : (fun i => (s.localVerdict reads addr i).elim (fun _ => none) (fun a => some (i, a))) =
      fun i => match s.localVerdict reads addr i with
        | .inl _ => none
        | .inr a => some (i, a) := by
    funext i
    cases s.localVerdict reads addr i <;> rfl
  have hturned : (fun i => (s.localVerdict reads addr i).elim (fun c => some (i, LaneRes.trapped c)) (fun _ => none)) =
      fun i => match s.localVerdict reads addr i with
        | .inl c => some (i, LaneRes.trapped c)
        | .inr _ => none := by
    funext i
    cases s.localVerdict reads addr i <;> rfl
  rw [hgo, hturned]
  rfl

/-- No executing lane traps, and every access goes through as long as something stays so: the changes are made one after another. -/
theorem localOp_folds {s : State} {rs : View → List LRes} (hc : s.ClearBy rs) (n : Stall) {reads : View → List LRes} {addr : View → Nat ⊕ Nat}
    {off : View → Nat} {perform : State → Nat → Nat → State × Option LaneRes} {P : State → Prop} {upd : State → Nat × Nat → State}
    {r : Nat × Nat → LaneRes} (hr : ∀ j ∈ s.execLanes, ∀ x ∈ reads (s.view j), x ∈ rs (s.view j))
    (ha : ∀ j ∈ s.execLanes, addr (s.view j) = .inr (off (s.view j))) (hs : P s)
    (hp : ∀ t, P t → ∀ j ∈ s.execLanes, perform t j (off (s.view j)) = (upd t (j, off (s.view j)), some (r (j, off (s.view j)))) ∧
      P (upd t (j, off (s.view j)))) :
    let t := (s.execLanes.map (fun j => (j, off (s.view j)))).foldl upd s
    P t ∧ localOp n reads addr perform s =
      .next (t.finishLanes s.cur.warp 4 0 n.toNat (1, 1) (s.execLanes.map (fun j => (j, r (j, off (s.view j)))))) := by
  have hgo : ∀ j ∈ s.execLanes, s.localVerdict reads addr j = .inr (off (s.view j)) :=
    fun j hj => (State.localVerdict_clear hc hj (hr j hj) addr).trans (ha j hj)
  obtain ⟨hl, hP⟩ := performLanes_folds (perform := perform) (r := r) (s.execLanes.map (fun j => (j, off (s.view j)))) s hs (fun t ht p hm => by
    obtain ⟨j, hj, rfl⟩ := List.mem_map.mp hm
    exact hp t ht j hj)
  refine ⟨hP, ?_⟩
  rw [localOp_eq, List.filterMap_congr (g := fun j => some (j, off (s.view j))) (fun j hj => by rw [hgo j hj]; rfl), List.filterMap_eq_map', hl,
    List.filterMap_eq_nil_iff.mpr (fun j hj => by rw [hgo j hj]; rfl)]
  dsimp only
  rw [List.append_nil, List.map_map]
  rfl

/-- Every executing lane traps before its access. -/
theorem localOp_splits {s : State} {i : Instr} {n : Stall} {reads : View → List LRes} {addr : View → Nat ⊕ Nat} {code : View → Nat}
    {perform : State → Nat → Nat → State × Option LaneRes} {rs : View → List LRes} (hx : exec i s = localOp n reads addr perform s)
    (hc : s.ClearBy rs) (hr : ∀ j ∈ s.execLanes, ∀ x ∈ reads (s.view j), x ∈ rs (s.view j)) (hk : s.Calm) (hh : s.Handled)
    (ha : ∀ j ∈ s.execLanes, addr (s.view j) = .inl (code (s.view j)))
    (hcode : ∀ j ∈ s.execLanes, code (s.view j) ≠ 0x10 ∧ code (s.view j) ≠ 0x11 ∧ code (s.view j) ≠ 0x12) :
    s.Splits i n 4 (fun _ => {}) (fun v => some (code v, 0, v.ln.pc)) := by
  have hgo : ∀ j ∈ s.execLanes, s.localVerdict reads addr j = .inl (code (s.view j)) :=
    fun j hj => (State.localVerdict_clear hc hj (hr j hj) addr).trans (ha j hj)
  rw [localOp_eq, List.filterMap_eq_nil_iff.mpr (fun j hj => by rw [hgo j hj]; rfl),
    List.filterMap_congr (g := fun j => some (j, LaneRes.trapped (code (s.view j)))) (fun j hj => by rw [hgo j hj]; rfl), List.filterMap_eq_map'] at hx
  have hs : s.Split _ n 4 _ _ := State.finishLanes_split s 4 0 n (1, 1) (fun j => .trapped (code (s.view j))) hk hh hc.1
    (fun j hj => ⟨⟨rfl, rfl⟩, nofun, fun h => (hcode j hj).1 (Option.some.inj h)⟩)
  exact ⟨_, hx, hs.congr (fun j hj => by
    change (LaneRes.trapped (code (s.view j))).trap.map _ = _
    simp only [LaneRes.trapped, Option.map_some, not_or.mpr (hcode j hj).2, if_false]) (fun _ _ h => nomatch h)⟩

/-! ## Scratchpad -/

/-- Where a lane's access lies in the memory of its core (12_memory_instr.md R321, R322). -/
def localPlace (a b : Src) (v : View) : Nat := (v.src 0 a + v.src 1 b).toNat

/-- The trap of an lds or sts. -/
def spadTrap (a b : Src) (size room : Nat) (v : View) : Option Nat :=
  if localPlace a b v % size ≠ 0 then some 0x0C else if room < localPlace a b v + size then some 0x0B else none

theorem spadAddr_fits {a b : Src} {v : View} {size room : Nat} (h : localPlace a b v % size = 0 ∧ localPlace a b v + size ≤ room) :
    spadAddr a b size v room = .inr (localPlace a b v) :=
  (if_neg (not_not.mpr h.1)).trans (if_neg (Nat.not_lt.mpr h.2))

theorem spadAddr_traps {a b : Src} {v : View} {size room c : Nat} (h : spadTrap a b size room v = some c) : spadAddr a b size v room = .inl c := by
  unfold spadTrap at h
  split at h
  · rename_i hm
    exact (if_pos hm).trans (congrArg Sum.inl (Option.some.inj h))
  · rename_i hm
    split at h
    · rename_i hr
      exact (if_neg hm).trans ((if_pos hr).trans (congrArg Sum.inl (Option.some.inj h)))
    · cases h

theorem spadTrap_codes {a b : Src} {v : View} {size room c : Nat} (h : spadTrap a b size room v = some c) : c ≠ 0x10 ∧ c ≠ 0x11 ∧ c ≠ 0x12 := by
  unfold spadTrap at h
  split at h
  · rw [← Option.some.inj h]; decide
  · split at h
    · rw [← Option.some.inj h]; decide
    · cases h

/-- The trap as a statement writes it. -/
theorem spadTrap_map (a b : Src) (size room : Nat) (v : View) : (spadTrap a b size room v).map (fun c => (c, 0, v.ln.pc)) =
    if localPlace a b v % size ≠ 0 then some (0x0C, 0, v.ln.pc)
    else if room < localPlace a b v + size then some (0x0B, 0, v.ln.pc) else none := by
  unfold spadTrap
  split
  · rfl
  · split <;> rfl

/-- Every executing lane of an lds or sts traps for its offset. -/
theorem spad_splits {s : State} {i : Instr} {n : Stall} {a b : Src} {reads : View → List LRes}
    {perform : State → Nat → Nat → State × Option LaneRes} {rs : View → List LRes} {size room : Nat}
    (hx : exec i s = localOp n reads (fun v => spadAddr a b size v room) perform s) (hc : s.ClearBy rs)
    (hr : ∀ j ∈ s.execLanes, ∀ x ∈ reads (s.view j), x ∈ rs (s.view j)) (hk : s.Calm) (hh : s.Handled)
    (ht : ∀ j ∈ s.execLanes, ((spadTrap a b size room (s.view j)).map (fun c => (c, 0, (s.view j).ln.pc))).isSome) :
    s.Splits i n 4 (fun _ => {}) (fun v => (spadTrap a b size room v).map (fun c => (c, 0, v.ln.pc))) := by
  have hcode : ∀ j ∈ s.execLanes, spadTrap a b size room (s.view j) = some ((spadTrap a b size room (s.view j)).getD 0) :=
    fun j hj => by
      have hj' := ht j hj
      rw [Option.isSome_map] at hj'
      obtain ⟨c, hcd⟩ := Option.isSome_iff_exists.mp hj'
      rw [hcd]
      rfl
  refine (localOp_splits (code := fun v => (spadTrap a b size room v).getD 0) hx hc hr hk hh (fun j hj => spadAddr_traps (hcode j hj))
    (fun j hj => spadTrap_codes (hcode j hj))).congr (fun j hj => ?_) (fun _ _ h => nomatch h)
  conv_rhs => rw [hcode j hj]
  rfl

section
variable {s : State} {n : Stall} {d : Dst} {q a b : Src} {w : Width}

theorem lds_gives (hc : s.Clear (srcRes a ++ srcRes b)) (hf : ∀ i ∈ s.execLanes, localPlace a b (s.view i) % widthSize w = 0 ∧
      localPlace a b (s.view i) + widthSize w ≤ 32768 * (s.core (s.cur.warp / 16)).ways)
    (hb : s.mem.badSpad = []) : s.Gives (.lds n d a b w) n 4 (fun v => loadEffect d w (ofBytes ((List.range (widthSize w)).map
      (fun k => cellGet (s.core (s.cur.warp / 16)).spad (localPlace a b v + k))))) := by
  have hx : exec (.lds n d a b w) s = execLds n d a b w s := rfl
  obtain ⟨-, hl⟩ := localOp_folds hc n (reads := fun _ => srcRes a ++ srcRes b) (P := fun t => t = s) (upd := fun t _ => t)
    (addr := fun v => spadAddr a b (widthSize w) v (s.core (coreOf s.cur.warp)).spadBytes) (off := localPlace a b)
    (perform := fun t _ off => if t.spadBad (coreOf s.cur.warp) off (widthSize w) then
      (t.consume (some (s.warp s.cur.warp).lid) 0 1 (coreOf s.cur.warp), none)
      else (t, some (loaded d w ((t.core (coreOf s.cur.warp)).spadGet off (widthSize w)))))
    (r := fun p => loaded d w ((s.core (s.cur.warp / 16)).spadGet p.2 (widthSize w)))
    (fun _ _ _ h => h) (fun j hj => spadAddr_fits (hf j hj)) rfl
    (fun t ht p _ => by subst ht; rw [State.spadBad_clean hb]; exact ⟨rfl, rfl⟩)
  rw [List.foldl_fixed] at hl
  have hg := State.finishLanes_loaded s n 4 0 (1, 1) d w
    (fun i => (s.core (s.cur.warp / 16)).spadGet (localPlace a b (s.view i)) (widthSize w))
  simp only [← getBytes_eq_map]
  exact ⟨_, hx.trans hl, hg⟩

/-- A write to the scratchpad of a core that holds no error. -/
theorem State.spadPut_clean {s : State} (h : s.mem.badSpad = []) (c a n v : Nat) :
    s.spadPut c a n v = s.updCore c (fun k => { k with spad := putBytes k.spad a (bytesOf n v) }) := by
  rw [State.spadPut, State.mendSpad, h]
  rfl

/-- Nothing differs from a state but the scratchpad of a core. -/
structure State.SpadOnly (s t : State) (c : Nat) : Prop where
  rest : t = { s with cores := t.cores }
  others : ∀ k, k ≠ c → t.core k = s.core k
  here : t.core c = { s.core c with spad := (t.core c).spad }
  wf : cellsWf (t.core c).spad = true

theorem State.SpadOnly.put {s t : State} {c : Nat} (h : s.SpadOnly t c) (a n v : Nat) :
    s.SpadOnly (t.updCore c (fun k => { k with spad := putBytes k.spad a (bytesOf n v) })) c := by
  refine ⟨?_, fun k hk => ?_, ?_, ?_⟩
  · conv_lhs => rw [h.rest]
    rfl
  · rw [State.core_updCore, if_neg (Ne.symm hk), h.others k hk]
  · rw [State.core_updCore_same, h.here]
  · rw [State.core_updCore_same]
    exact putBytes_wf h.wf a _

/-- A byte of a stored value. -/
theorem getD_bytesOf (n v : Nat) {k : Nat} (h : k < n) : (bytesOf n v).getD k 0 = BitVec.ofNat 8 (v / 2 ^ (8 * k)) := by
  apply BitVec.eq_of_toNat_eq
  rw [toNat_getD_bytesOf n v h, BitVec.toNat_ofNat, show 256 = 2 ^ 8 from rfl, ← pow_mul]

/-- Some bytes lie over an address. -/
def covers (off size k : Nat) : Bool := decide (off ≤ k) && decide (k < off + size)

theorem covers_iff {off size k : Nat} : covers off size k = true ↔ off ≤ k ∧ k < off + size := by
  rw [covers, Bool.and_eq_true, decide_eq_true_eq, decide_eq_true_eq]

/-- A byte of a scratchpad after a write. -/
theorem State.SpadOnly.put_byte {s t : State} {c : Nat} (h : s.SpadOnly t c) (a n v k : Nat) :
    cellGet ((t.updCore c (fun x => { x with spad := putBytes x.spad a (bytesOf n v) })).core c).spad k =
      if covers a n k then BitVec.ofNat 8 (v / 2 ^ (8 * (k - a))) else cellGet (t.core c).spad k := by
  rw [State.core_updCore_same, cellGet_putBytes h.wf, length_bytesOf]
  simp only [covers_iff]
  split
  · exact getD_bytesOf n v (by omega)
  · rfl

/-- The store of one lane to its core's scratchpad. -/
def State.storeSpad (s : State) (q : Src) (w : Width) (t : State) (p : Nat × Nat) : State :=
  t.updCore (s.cur.warp / 16) (fun k => { k with spad := putBytes k.spad p.2 (bytesOf (widthSize w) (stored (s.view p.1) 2 q w)) })

theorem sts_gives (hc : s.Clear (srcRes a ++ srcRes b ++ storedRes q w)) (hf : ∀ i ∈ s.execLanes, localPlace a b (s.view i) % widthSize w = 0 ∧
      localPlace a b (s.view i) + widthSize w ≤ 32768 * (s.core (s.cur.warp / 16)).ways)
    (hb : s.mem.badSpad = []) (hw : cellsWf (s.core (s.cur.warp / 16)).spad = true) :
    ∃ (s1 t : State), exec (.sts n q a b w) s = .next t ∧ s1.Given t n 4 (fun _ => {}) ∧ s.SpadOnly s1 (s.cur.warp / 16) ∧
      ∀ k, cellGet (s1.core (s.cur.warp / 16)).spad k =
        ((s.execLanes.filter (fun i => covers (localPlace a b (s.view i)) (widthSize w) k)).getLast?).elim
          (cellGet (s.core (s.cur.warp / 16)).spad k)
          (fun i => BitVec.ofNat 8 (stored (s.view i) 2 q w / 2 ^ (8 * (k - localPlace a b (s.view i))))) := by
  have hx : exec (.sts n q a b w) s = execSts n q a b w s := rfl
  have hself : s.SpadOnly s (s.cur.warp / 16) := ⟨rfl, fun _ _ => rfl, rfl, hw⟩
  obtain ⟨hP, hl⟩ := localOp_folds hc n (reads := fun _ => srcRes a ++ srcRes b ++ storedRes q w) (P := fun t => s.SpadOnly t (s.cur.warp / 16))
    (addr := fun v => spadAddr a b (widthSize w) v (s.core (coreOf s.cur.warp)).spadBytes) (off := localPlace a b)
    (perform := fun t i off => (t.spadPut (coreOf s.cur.warp) off (widthSize w) (stored (s.view i) 2 q w), some {}))
    (upd := s.storeSpad q w) (r := fun _ => {}) (fun _ _ _ h => h) (fun j hj => spadAddr_fits (hf j hj)) hself
    (fun t ht j _ => ⟨by rw [State.spadPut_clean (by rw [ht.rest]; exact hb)]; rfl, ht.put _ _ _⟩)
  exact ⟨_, _, hx.trans hl, State.finishLanes_passed_of (by rw [hP.rest]) (by rw [hP.rest]) n 4 0 (1, 1), hP, fun k =>
    foldl_lanes_last (P := fun t => s.SpadOnly t (s.cur.warp / 16)) (get := fun t => cellGet (State.core t (s.cur.warp / 16)).spad k) _ s.execLanes s hself
      (fun t ht i _ => ⟨ht.put _ _ _, ht.put_byte _ _ _ k⟩)⟩

/-! ## Accumulator memory -/

/-- A word lies in a grant of the task of the issuer's slot. -/
def State.ownGrant (s : State) (v : Nat) : Prop :=
  ∃ g ∈ (s.core (s.cur.warp / 16)).grants, g.holder = .task s.cur.warp ∧ g.base ≤ v ∧ v < g.base + g.size

theorem State.granted_own {v : Nat} (h : s.ownGrant v) : s.granted s.cur.warp (s.cur.warp / 16) v = true := by
  obtain ⟨g, hg, hh, hb, hl⟩ := h
  refine List.any_eq_true.mpr ⟨g, hg, ?_⟩
  rw [hh, Bool.and_eq_true, Bool.and_eq_true, decide_eq_true_eq, decide_eq_true_eq]
  exact ⟨⟨decide_eq_true rfl, hb⟩, hl⟩

theorem State.granted_outside {v : Nat} (h : ∀ g ∈ (s.core (s.cur.warp / 16)).grants, v < g.base ∨ g.base + g.size ≤ v) :
    s.granted s.cur.warp (s.cur.warp / 16) v = false := by
  refine List.any_eq_false.mpr (fun g hg => ?_)
  rw [Bool.and_eq_true, Bool.and_eq_true, decide_eq_true_eq, decide_eq_true_eq]
  rintro ⟨⟨-, hb⟩, hl⟩
  exact (h g hg).elim (fun h => absurd hb (Nat.not_le.mpr h)) (fun h => absurd hl (Nat.not_lt.mpr h))

theorem accAddr_granted {v : View} (h : localPlace a b v < 32768 ∧ s.ownGrant (localPlace a b v)) : accAddr s a b v = .inr (localPlace a b v) :=
  (if_neg (Nat.not_le.mpr h.1)).trans (if_pos (State.granted_own h.2))

theorem accAddr_outside {v : View} (h : 32768 ≤ localPlace a b v ∨
    ∀ g ∈ (s.core (s.cur.warp / 16)).grants, localPlace a b v < g.base ∨ g.base + g.size ≤ localPlace a b v) : accAddr s a b v = .inl 0x0B := by
  by_cases hv : 32768 ≤ localPlace a b v
  · exact if_pos hv
  · refine (if_neg hv).trans (if_neg ?_)
    change ¬ s.granted s.cur.warp (s.cur.warp / 16) (localPlace a b v) = true
    rw [State.granted_outside (h.resolve_left hv)]
    exact Bool.false_ne_true

theorem lda_gives (hc : s.Clear (srcRes a ++ srcRes b))
    (hf : ∀ i ∈ s.execLanes, localPlace a b (s.view i) < 32768 ∧ s.ownGrant (localPlace a b (s.view i)))
    (hb : s.mem.badAcc = []) :
    s.Gives (.lda n d a b) n 4 (fun v => result d ((s.core (s.cur.warp / 16)).acc.get 0 (localPlace a b v))) := by
  have hx : exec (.lda n d a b) s = execLda n d a b s := rfl
  obtain ⟨-, hl⟩ := localOp_folds hc n (reads := fun _ => srcRes a ++ srcRes b) (P := fun t => t = s) (upd := fun t _ => t)
    (addr := accAddr s a b) (off := localPlace a b)
    (perform := fun t _ w => if t.mem.badAcc.contains (coreOf s.cur.warp * 2 ^ 20 + w) then
      (t.consume (some (s.warp s.cur.warp).lid) 0 3 (coreOf s.cur.warp), none)
      else (t, some (.val d ((t.core (coreOf s.cur.warp)).acc.get 0 w))))
    (r := fun p => .val d ((s.core (s.cur.warp / 16)).acc.get 0 p.2))
    (fun _ _ _ h => h) (fun j hj => accAddr_granted (hf j hj)) rfl
    (fun t ht p _ => by subst ht; rw [hb]; exact ⟨rfl, rfl⟩)
  rw [List.foldl_fixed] at hl
  have hg : s.Given _ n 4 (fun v => (LaneRes.val d ((s.core (s.cur.warp / 16)).acc.get 0 (localPlace a b (s.view v.i)))).effect) :=
    State.finishLanes_plain s 4 0 n (1, 1) (fun i => .val d ((s.core (s.cur.warp / 16)).acc.get 0 (localPlace a b (s.view i))))
      (fun _ _ => LaneRes.plain_val _ _) (.inl fun _ _ => rfl)
  simp only [LaneRes.effect_val] at hg
  exact ⟨_, hx.trans hl, hg⟩

/-- Nothing differs from a state but the accumulator memory of a core. -/
structure State.AccOnly (s t : State) (c : Nat) : Prop where
  rest : t = { s with cores := t.cores }
  others : ∀ k, k ≠ c → t.core k = s.core k
  here : t.core c = { s.core c with acc := (t.core c).acc }

theorem State.AccOnly.put {s t : State} {c : Nat} (h : s.AccOnly t c) (a : Nat) (v : Word) :
    s.AccOnly (t.updCore c (fun k => { k with acc := k.acc.set a v })) c := by
  refine ⟨?_, fun k hk => ?_, ?_⟩
  · conv_lhs => rw [h.rest]
    rfl
  · rw [State.core_updCore, if_neg (Ne.symm hk), h.others k hk]
  · rw [State.core_updCore_same, h.here]

theorem State.mendAcc_clean {s : State} (h : s.mem.badAcc = []) (c a : Nat) : s.mendAcc c a = s := by
  rw [State.mendAcc, h]
  rfl

/-- The store of one lane to its core's accumulator memory. -/
def State.storeAcc (s : State) (q : Src) (t : State) (p : Nat × Nat) : State :=
  t.updCore (s.cur.warp / 16) (fun k => { k with acc := k.acc.set p.2 ((s.view p.1).src 2 q) })

theorem State.storeAcc_word (s : State) (q : Src) (t : State) (p : Nat × Nat) (k : Nat) :
    ((s.storeAcc q t p).core (s.cur.warp / 16)).acc.get 0 k =
      if decide (p.2 = k) then (s.view p.1).src 2 q else (t.core (s.cur.warp / 16)).acc.get 0 k := by
  rw [State.storeAcc, State.core_updCore_same, SMap.get_set]
  simp only [decide_eq_true_eq]

theorem sta_gives (hc : s.Clear (srcRes a ++ srcRes b ++ srcRes q))
    (hf : ∀ i ∈ s.execLanes, localPlace a b (s.view i) < 32768 ∧ s.ownGrant (localPlace a b (s.view i)))
    (hb : s.mem.badAcc = []) :
    ∃ (s1 t : State), exec (.sta n q a b) s = .next t ∧ s1.Given t n 4 (fun _ => {}) ∧ s.AccOnly s1 (s.cur.warp / 16) ∧
      ∀ k, (s1.core (s.cur.warp / 16)).acc.get 0 k =
        ((s.execLanes.filter (fun i => decide (localPlace a b (s.view i) = k))).getLast?).elim
          ((s.core (s.cur.warp / 16)).acc.get 0 k) (fun i => (s.view i).src 2 q) := by
  have hx : exec (.sta n q a b) s = execSta n q a b s := rfl
  have hself : s.AccOnly s (s.cur.warp / 16) := ⟨rfl, fun _ _ => rfl, rfl⟩
  obtain ⟨hP, hl⟩ := localOp_folds hc n (reads := fun _ => srcRes a ++ srcRes b ++ srcRes q) (P := fun t => s.AccOnly t (s.cur.warp / 16))
    (addr := accAddr s a b) (off := localPlace a b)
    (perform := fun t i w => ((t.mendAcc (coreOf s.cur.warp) w).updCore (coreOf s.cur.warp)
      (fun k => { k with acc := k.acc.set w ((s.view i).src 2 q) }), some {}))
    (upd := s.storeAcc q) (r := fun _ => {}) (fun _ _ _ h => h) (fun j hj => accAddr_granted (hf j hj)) hself
    (fun t ht j _ => ⟨by rw [State.mendAcc_clean (by rw [ht.rest]; exact hb)]; rfl, ht.put _ _⟩)
  exact ⟨_, _, hx.trans hl, State.finishLanes_passed_of (by rw [hP.rest]) (by rw [hP.rest]) n 4 0 (1, 1), hP, fun k =>
    foldl_lanes_last (P := fun t => s.AccOnly t (s.cur.warp / 16)) (get := fun t => SMap.get 0 (State.core t (s.cur.warp / 16)).acc k) _ s.execLanes s hself
      (fun t ht i _ => ⟨ht.put _ _, s.storeAcc_word q t _ k⟩)⟩

/-- Every executing lane of an lda or sta traps for its word. -/
theorem acc_splits {i : Instr} {reads : View → List LRes} {perform : State → Nat → Nat → State × Option LaneRes} {rs : View → List LRes}
    (hx : exec i s = localOp n reads (accAddr s a b) perform s) (hc : s.ClearBy rs)
    (hr : ∀ j ∈ s.execLanes, ∀ x ∈ reads (s.view j), x ∈ rs (s.view j)) (hk : s.Calm) (hh : s.Handled)
    (ho : ∀ j ∈ s.execLanes, 32768 ≤ localPlace a b (s.view j) ∨ ∀ g ∈ (s.core (s.cur.warp / 16)).grants,
      localPlace a b (s.view j) < g.base ∨ g.base + g.size ≤ localPlace a b (s.view j)) :
    s.Splits i n 4 (fun _ => {}) (fun v => some (0x0B, 0, v.ln.pc)) :=
  localOp_splits (code := fun _ => 0x0B) hx hc hr hk hh (fun j hj => accAddr_outside (ho j hj)) (fun _ _ => by decide)

end

/-- Settles O36. -/
theorem localMemory : Obligations.LocalMemory := by
  refine ⟨fun s n d q a b w => ⟨lds_gives, fun hc hf hb hw => ?_, fun hh hk hc ht => ?_, fun hh hk hc ht => ?_⟩,
    fun s n d q a b => ⟨lda_gives, fun hc hf hb => ?_, fun hh hk ho => ⟨fun hc => ?_, fun hc => ?_⟩⟩⟩
  · obtain ⟨s1, t, hx, hg, hs, hbyte⟩ := sts_gives (n := n) hc hf hb hw
    refine ⟨s1, t, hx, hg, hs.rest, hs.others, hs.here, fun k => (hbyte k).trans ?_⟩
    split
    all_goals
      rename_i hl
      exact congrArg (fun o : Option Nat => o.elim _ _) hl
  · have hx : exec (.lds n d a b w) s = execLds n d a b w s := rfl
    exact (spad_splits hx hc (fun _ _ _ h => h) hk hh (fun j hj => by rw [spadTrap_map]; exact ht j hj)).congr
      (fun j _ => spadTrap_map a b _ _ _) (fun _ _ _ => rfl)
  · have hx : exec (.sts n q a b w) s = execSts n q a b w s := rfl
    exact (spad_splits hx hc (fun _ _ _ h => h) hk hh (fun j hj => by rw [spadTrap_map]; exact ht j hj)).congr
      (fun j _ => spadTrap_map a b _ _ _) (fun _ _ _ => rfl)
  · obtain ⟨s1, t, hx, hg, hs, hword⟩ := sta_gives (n := n) hc hf hb
    refine ⟨s1, t, hx, hg, hs.rest, hs.others, hs.here, fun k => (hword k).trans ?_⟩
    split
    all_goals
      rename_i hl
      exact congrArg (fun o : Option Nat => o.elim _ _) hl
  · have hx : exec (.lda n d a b) s = execLda n d a b s := rfl
    exact acc_splits hx hc (fun _ _ _ h => h) hk hh ho
  · have hx : exec (.sta n q a b) s = execSta n q a b s := rfl
    exact acc_splits hx hc (fun _ _ _ h => h) hk hh ho

end Sys2Proof.Machine
end

section
/-! SUPPORT. Accesses of lanes to memory that all land, said once (12_memory_instr.md R309 to R313). -/

namespace Sys2Proof.Machine

/-! ## A state whose warps read the same -/

/-- Nothing differs but how the warps are listed. -/
structure State.Alike (s u : State) : Prop where
  rest : u = { s with warps := u.warps }
  warp : ∀ k, u.warp k = s.warp k

/-- A state whose warps read the same sees the same results. -/
theorem State.Given.of_alike {s u t : State} {n : Stall} {len : Nat} {e : View → Effect} (h : s.Alike u) (hg : u.Given t n len e) : s.Given t n len e := by
  obtain ⟨hs, hw⟩ := h
  have hc : u.cur = s.cur := by rw [hs]
  have he : u.execLanes = s.execLanes := by simp only [State.execLanes, hc, hw]
  have hv : u.view = s.view := by
    funext i
    simp only [State.view, hc, hw]
    rw [show u.tick = s.tick by rw [hs]]
  obtain ⟨⟨h1, h2, h3, h4⟩, h5, h6, h7⟩ := hg
  rw [hs] at h1
  rw [hc] at h2 h3 h4 h5 h6 h7
  rw [he] at h4 h5 h6 h7
  rw [hv] at h5 h6 h7
  rw [hw] at h3 h6 h7
  exact ⟨⟨h1, fun k hk => by rw [h2 k hk, hw], h3, fun i hi => by rw [h4 i hi, hw]⟩, fun j hj => by rw [← hw s.cur.warp]; exact h5 j hj, h6, h7⟩

/-! ## The course of a memory instruction after its checks -/

/-- The lanes whose translations fault, and those behind their own reds, wait at the instruction. -/
def State.lanesStay (s : State) (w : Nat) (xs : List (Nat × Xl)) (behind : List Nat) : State :=
  (s.lanesWait xs).updWarp w (fun v => v.updLanes behind (fun _ l => { l with wait := .q6 }))

/-- What a memory instruction does with the addresses of its lanes (12_memory_instr.md R310, R311). -/
def State.accessLanes (s : State) (w : Nat) (n : Stall) (len : Nat) (k : AccKind) (own : Nat) (m : Master) (perform : State → Nat → Nat → State × Option LaneRes)
    (go : List (Nat × Nat)) (direct turned : List (Nat × LaneRes)) : Answer :=
  let t := s.translateLanes m k go
  let found := t.2.filterMap (fun p =>
    match p.2 with
    | .ok pa => some (p.1, pa)
    | _ => none)
  let behind := if own = 0 then [] else (found.filter (fun p => t.1.redHolds w p.1 p.2 own)).map (fun p => p.1)
  let hit := turned.any (fun p => decide (p.2.trap = some 0x10))
  if (s.warp w).converged && !hit && ((firstWait t.2).isSome || !behind.isEmpty) then .next { (t.1.lanesStay w t.2 behind) with glitch := none }
  else if t.2.any (fun p => decide (p.2 = .frozen)) then .next t.1
  else
      let t := (t.1.lanesStay w t.2 behind, t.2)
      let pas := found.filter (fun p => !behind.contains p.1)
      let faulted := t.2.filterMap (fun p =>
        match p.2 with
        | .failed => some (p.1, LaneRes.trapped 0x0D)
        | _ => none)
      match pas.find? (fun p => !t.1.paAllowed m.part p.2 k) with
      | some p => .next (t.1.freeze m p.2 k)
      | none =>
        match performLanes (fun s i pa => perform (if own = 0 then s else s.redFlush w i pa own) i pa) pas t.1 with
        | (s2, none) => .next s2
        | (s2, some rs) => .next (s2.finishLanes w len 0 n.toNat (1, 1) (rs ++ direct ++ turned ++ faulted))

/-- The trap of a lane before its access. -/
def State.memVerdict (s : State) (reads : View → List LRes) (ea : View → LaneRes ⊕ Addr) (size i : Nat) : Option Nat :=
  match s.laneCheck (1, 1) reads i with
  | some c => some c
  | none =>
    match ea (s.view i) with
    | .inl _ => none
    | .inr a => if a.toNat % size ≠ 0 then some 0x0C else none

theorem memOp_eq (n : Stall) (len : Nat) (reads : View → List LRes) (ea : View → LaneRes ⊕ Addr) (size : Nat) (k : AccKind) (own : Nat) (m : Master)
    (perform : State → Nat → Nat → State × Option LaneRes) (s : State) : memOp n len reads ea size k own m perform s =
    s.syncAll.accessLanes s.cur.warp n len k own m perform
      ((s.syncAll.execLanes.filter (fun i => (s.syncAll.memVerdict reads ea size i).isNone)).filterMap (fun i =>
        match ea (s.syncAll.view i) with
        | .inl _ => none
        | .inr a => some (i, a.toNat)))
      ((s.syncAll.execLanes.filter (fun i => (s.syncAll.memVerdict reads ea size i).isNone)).filterMap (fun i =>
        match ea (s.syncAll.view i) with
        | .inl r => some (i, r)
        | .inr _ => none))
      (s.syncAll.execLanes.filterMap (fun i => (s.syncAll.memVerdict reads ea size i).map (fun c => (i, LaneRes.trapped c)))) := rfl

/-- No executing lane traps before its access. -/
theorem memOp_clear {s : State} {rs reads : View → List LRes} (hq : s.mem.syncReqs = []) (hc : s.ClearBy rs) (n : Stall) (len : Nat)
    {ea : View → LaneRes ⊕ Addr} {va : Nat → Addr} {size : Nat} (k : AccKind) (own : Nat) (m : Master)
    (perform : State → Nat → Nat → State × Option LaneRes) (hr : ∀ j ∈ s.execLanes, ∀ x ∈ reads (s.view j), x ∈ rs (s.view j))
    (ha : ∀ j ∈ s.execLanes, ea (s.view j) = .inr (va j) ∧ (va j).toNat % size = 0) :
    memOp n len reads ea size k own m perform s =
      s.accessLanes s.cur.warp n len k own m perform (s.execLanes.map (fun j => (j, (va j).toNat))) [] [] := by
  have hv : ∀ j ∈ s.execLanes, s.memVerdict reads ea size j = none := fun j hj => by
    rw [State.memVerdict, State.laneCheck_clear hc _ _ j hj (hr j hj), (ha j hj).1]
    exact if_neg (not_not.mpr (ha j hj).2)
  rw [memOp_eq, State.syncAll_none hq, List.filter_eq_self.mpr (fun j hj => by rw [hv j hj]; rfl),
    List.filterMap_congr (g := fun j => some (j, (va j).toNat)) (fun j hj => by rw [(ha j hj).1]), List.filterMap_eq_map',
    List.filterMap_eq_nil_iff.mpr (fun j hj => by rw [(ha j hj).1]), List.filterMap_eq_nil_iff.mpr (fun j hj => by rw [hv j hj]; rfl)]

/-! ## Translations that are held -/

theorem State.translateLanes_ok {s : State} {m : Master} {k : AccKind} {va : Nat → Addr} {pa : Nat → Nat} : ∀ is : List Nat,
    (∀ i ∈ is, s.translate m (va i).toNat k ((s.warp s.cur.warp).lane i).failed = (s, .ok (pa i))) →
    s.translateLanes m k (is.map (fun i => (i, (va i).toNat))) = (s, is.map (fun i => (i, .ok (pa i))))
  | [], _ => rfl
  | i :: is, h => by
    rw [List.map_cons, State.translateLanes, h i List.mem_cons_self]
    dsimp only
    rw [State.translateLanes_ok is (fun j hj => h j (List.mem_cons_of_mem _ hj))]
    rfl

/-- A state after the waiting of no lane. -/
def State.relisted (s : State) : State := (s.updWarp s.cur.warp (fun w => w)).updWarp s.cur.warp (fun w => w)

theorem State.alike_relisted (s : State) : s.Alike s.relisted := by
  refine ⟨rfl, fun k => ?_⟩
  have h : ∀ t : State, (t.updWarp s.cur.warp (fun w => w)).warp k = t.warp k := fun t => by
    rw [State.warp_updWarp]
    split
    · rename_i hk; rw [hk]
    · rfl
  exact (h _).trans (h _)

theorem State.lanesStay_ok (s : State) (is : List Nat) (pa : Nat → Nat) :
    s.lanesStay s.cur.warp (is.map (fun i => (i, Xl.ok (pa i)))) [] = s.relisted := by
  unfold State.lanesStay State.lanesWait State.relisted
  simp only [List.foldl_map, List.foldl_fixed]
  rfl

theorem firstWait_ok (pa : Nat → Nat) : ∀ is : List Nat, firstWait (is.map (fun i => (i, Xl.ok (pa i)))) = none
  | [] => rfl
  | _ :: is => firstWait_ok pa is

/-- Every access of the lanes lands where it may: they are performed one after another. -/
theorem State.accessLanes_ok {s : State} (n : Stall) (len : Nat) {k : AccKind} {own : Nat} {m : Master}
    (perform : State → Nat → Nat → State × Option LaneRes) {va : Nat → Addr} {pa : Nat → Nat} (is : List Nat)
    (ht : ∀ i ∈ is, s.translate m (va i).toNat k ((s.warp s.cur.warp).lane i).failed = (s, .ok (pa i)))
    (hpa : ∀ i ∈ is, s.paAllowed m.part (pa i) k = true)
    (hred : own = 0 ∨ ∀ i ∈ is, redUpTo ((s.warp s.cur.warp).queues.get [] 6) i (pa i) own = 0) :
    s.accessLanes s.cur.warp n len k own m perform (is.map (fun i => (i, (va i).toNat))) [] [] =
      match performLanes (fun u i pa => perform (if own = 0 then u else u.redFlush s.cur.warp i pa own) i pa) (is.map (fun i => (i, pa i))) s.relisted with
      | (s2, none) => .next s2
      | (s2, some rs) => .next (s2.finishLanes s.cur.warp len 0 n.toNat (1, 1) rs) := by
  have hfound : (is.map (fun i => (i, Xl.ok (pa i)))).filterMap (fun p =>
      match p.2 with
      | .ok pa => some (p.1, pa)
      | _ => none) = is.map (fun i => (i, pa i)) := by
    rw [List.filterMap_map]
    exact congrFun List.filterMap_eq_map _
  have hbehind : (if own = 0 then [] else ((is.map (fun i => (i, pa i))).filter (fun p => s.redHolds s.cur.warp p.1 p.2 own)).map (fun p => p.1)) = [] := by
    rcases hred with h0 | h
    · exact if_pos h0
    · rw [List.filter_eq_nil_iff.mpr, List.map_nil, ite_self]
      intro p hp
      obtain ⟨i, hi, rfl⟩ := List.mem_map.mp hp
      simp only [State.redHolds, h i hi, List.take_zero, List.any_nil, Bool.false_eq_true, not_false_eq_true]
  have hfrozen : (is.map (fun i => (i, Xl.ok (pa i)))).any (fun p => decide (p.2 = .frozen)) = false := by
    rw [List.any_map]
    exact List.any_eq_false.mpr (fun _ _ => by simp)
  have hfault : (is.map (fun i => (i, Xl.ok (pa i)))).filterMap (fun p =>
      match p.2 with
      | .failed => some (p.1, LaneRes.trapped 0x0D)
      | _ => none) = [] := by
    rw [List.filterMap_map]
    exact List.filterMap_eq_nil_iff.mpr (fun _ _ => rfl)
  unfold State.accessLanes
  rw [State.translateLanes_ok is ht]
  dsimp only
  have hnone : (is.map (fun i => (i, pa i))).find? (fun p => !s.relisted.paAllowed m.part p.2 k) = none := by
    refine List.find?_eq_none.mpr (fun p hp => ?_)
    obtain ⟨i, hi, rfl⟩ := List.mem_map.mp hp
    rw [show s.relisted.paAllowed m.part (pa i) k = true from hpa i hi]
    exact Bool.false_ne_true
  have hkeep : (is.map (fun i => (i, pa i))).filter (fun p => !([] : List Nat).contains p.1) = is.map (fun i => (i, pa i)) :=
    List.filter_eq_self.mpr (fun _ _ => rfl)
  rw [hfound, hbehind, firstWait_ok, hfrozen, hfault, State.lanesStay_ok, hkeep, hnone]
  simp only [Option.isSome_none, List.isEmpty_nil, Bool.not_true, Bool.or_self, Bool.and_false, Bool.false_eq_true, if_false, List.append_nil]

theorem State.redFlush_none {s : State} {w i pa own : Nat} (h : redUpTo ((s.warp w).queues.get [] 6) i pa own = 0) : s.redFlush w i pa own = s := by
  rw [State.redFlush, h]
  rfl

/-! ## Lanes that all reach their bytes -/

theorem setWidth_ofInt_64 (z : Int) : (BitVec.ofInt 64 z).setWidth 56 = BitVec.ofInt 56 z := by
  apply BitVec.eq_of_toNat_eq
  rw [BitVec.toNat_setWidth, BitVec.toNat_ofInt, BitVec.toNat_ofInt]
  omega

/-- The effective address as the statements write it (12_memory_instr.md R313). -/
theorem effAddr_eq (a : Src) (x : MemExt) (v : View) : effAddr a x v = lanePlace a x v := by
  have hbase : v.w.sreg x.base.toNat = BitVec.ofInt 64 (v.w.sreg x.base.toNat).toNat := by
    rw [BitVec.ofInt_natCast, BitVec.ofNat_toNat, BitVec.setWidth_eq]
  unfold effAddr lanePlace
  rw [hbase, BitVec.signExtend, BitVec.signExtend, ← BitVec.ofInt_add, ← BitVec.ofInt_add, setWidth_ofInt_64, ← hbase]

section
variable {s : State} {rs reads : View → List LRes} {a : Src} {x : MemExt} {size : Nat} {k : AccKind} {pa : Nat → Nat} {own : Nat}
  {perform : State → Nat → Nat → State × Option LaneRes}

/-- Executing lanes that all reach their bytes, and owe no red: what is left are their accesses. -/
theorem memOp_reaches (hc : s.ClearBy rs) (hr : ∀ j ∈ s.execLanes, ∀ y ∈ reads (s.view j), y ∈ rs (s.view j)) (hl : s.LanesReach a x size k pa)
    (n : Stall) (len : Nat) (hred : own = 0 ∨ s.NoRedOwed own pa) :
    memOp n len reads (memEa a x) size k own (s.laneMaster s.cur.warp x) perform s =
      match performLanes (fun u i b => perform (if own = 0 then u else u.redFlush s.cur.warp i b own) i b)
        (s.execLanes.map (fun j => (j, pa j))) s.relisted with
      | (s2, none) => .next s2
      | (s2, some rs) => .next (s2.finishLanes s.cur.warp len 0 n.toNat (1, 1) rs) := by
  obtain ⟨hq, hlanes⟩ := hl
  rw [memOp_clear hq hc n len k own _ perform hr (va := fun j => lanePlace a x (s.view j))
      (fun j hj => ⟨congrArg Sum.inr (effAddr_eq a x (s.view j)), (hlanes j hj).2.1⟩)]
  refine State.accessLanes_ok n len perform s.execLanes (fun j hj => ?_) (fun j hj => ?_) hred
  · obtain ⟨hfail, -, -, htr, -⟩ := hlanes j hj
    rw [hfail]
    exact htr
  · exact (hlanes j hj).2.2.2.2.1

/-- No red is performed before the access of a lane that owes none. -/
theorem State.redFlush_owing (hred : own = 0 ∨ s.NoRedOwed own pa) {u : State}
    (hu : own = 0 ∨ (u.warp s.cur.warp).queues = (s.warp s.cur.warp).queues) {j : Nat} (hj : j ∈ s.execLanes) :
    (if own = 0 then u else u.redFlush s.cur.warp j (pa j) own) = u := by
  by_cases h0 : own = 0
  · exact if_pos h0
  · rw [if_neg h0, State.redFlush_none]
    rw [hu.resolve_left h0]
    exact hred.resolve_left h0 j hj

/-- Their accesses are performed one after another, from a state whose warps read the same. -/
theorem memOp_folds (hc : s.ClearBy rs) (hr : ∀ j ∈ s.execLanes, ∀ y ∈ reads (s.view j), y ∈ rs (s.view j)) (hl : s.LanesReach a x size k pa)
    (n : Stall) (len own : Nat) (hred : own = 0 ∨ s.NoRedOwed own pa)
    {perform : State → Nat → Nat → State × Option LaneRes} {P : State → Prop} {upd : State → Nat × Nat → State} {r : Nat × Nat → LaneRes}
    (hs : ∀ u, s.Alike u → P u) (hown : own = 0 ∨ ∀ u, P u → (u.warp s.cur.warp).queues = (s.warp s.cur.warp).queues)
    (hp : ∀ u, P u → ∀ j ∈ s.execLanes, perform u j (pa j) = (upd u (j, pa j), some (r (j, pa j))) ∧ P (upd u (j, pa j))) :
    ∃ u, s.Alike u ∧ P ((s.execLanes.map (fun j => (j, pa j))).foldl upd u) ∧
      memOp n len reads (memEa a x) size k own (s.laneMaster s.cur.warp x) perform s =
        .next (((s.execLanes.map (fun j => (j, pa j))).foldl upd u).finishLanes s.cur.warp len 0 n.toNat (1, 1)
          (s.execLanes.map (fun j => (j, r (j, pa j))))) := by
  obtain ⟨hf, hQ⟩ := performLanes_folds (perform := fun u i b => perform (if own = 0 then u else u.redFlush s.cur.warp i b own) i b) (r := r)
    (s.execLanes.map (fun j => (j, pa j))) s.relisted (hs _ s.alike_relisted) (fun u hu p hm => by
      obtain ⟨j, hj, rfl⟩ := List.mem_map.mp hm
      dsimp only
      rw [State.redFlush_owing hred (hown.imp_right (fun h => h u hu)) hj]
      exact hp u hu j hj)
  refine ⟨s.relisted, s.alike_relisted, hQ, ?_⟩
  rw [memOp_reaches hc hr hl n len hred, hf]
  dsimp only
  rw [List.map_map]
  rfl

/-- One lane alone makes its access. -/
theorem memOp_one (hc : s.ClearBy rs) (hr : ∀ j ∈ s.execLanes, ∀ y ∈ reads (s.view j), y ∈ rs (s.view j)) (hl : s.LanesReach a x size k pa)
    (n : Stall) (len own : Nat) (hred : own = 0 ∨ s.NoRedOwed own pa) {j : Nat} (hj : s.execLanes = [j])
    (perform : State → Nat → Nat → State × Option LaneRes) :
    ∃ u, s.Alike u ∧ ∀ v r, perform u j (pa j) = (v, some r) → memOp n len reads (memEa a x) size k own (s.laneMaster s.cur.warp x) perform s =
      .next (v.finishLanes s.cur.warp len 0 n.toNat (1, 1) [(j, r)]) := by
  refine ⟨s.relisted, s.alike_relisted, fun v r hp => ?_⟩
  have hflush := State.redFlush_owing (u := s.relisted) hred (.inr (by rw [s.alike_relisted.warp])) (hj ▸ List.mem_cons_self)
  rw [memOp_reaches hc hr hl n len hred, hj, List.map_cons, List.map_nil, performLanes, hflush, hp]
  rfl

end

end Sys2Proof.Machine
end

section
/-! SUPPORT. Loads and stores whose lines L1 holds (10_memory.md R253, 11_ordering.md R281, 12_memory_instr.md R310, R313, R314). -/

namespace Sys2Proof.Machine

/-! ## Pages that a launch has touched before -/

/-- What a launch depends on is a matter of the launches alone. -/
theorem State.depend_launches (s : State) (lid page : Nat) : s.depend lid page = { s with launches := (s.depend lid page).launches } := by
  unfold State.depend State.updLaunch
  dsimp only
  split <;> rfl

theorem State.depend_same {s u : State} {lid page : Nat} (h : s.depend lid page = s) (hl : u.launches = s.launches) : u.depend lid page = u := by
  have he : (u.depend lid page).launches = (s.depend lid page).launches := by
    unfold State.depend State.updLaunch
    dsimp only
    rw [hl]
    split
    · rfl
    · exact hl
  rw [State.depend_launches, he, h, ← hl]

theorem State.updLaunch_self {s : State} {lid : Nat} {L : Launch} (h : s.launch? lid = some L) (g : Launch → Launch) :
    (s.updLaunch lid g).launch? lid = some (g L) := by
  rw [State.updLaunch_launch?, if_pos rfl, h, Option.map_some]

theorem State.depend_launch? (s : State) (lid page : Nat) {L : Launch} (h : s.launch? lid = some L) :
    ∃ d, (s.depend lid page).launch? lid = some { L with deps := d } :=
  ⟨_, State.updLaunch_self h _⟩

/-- A write that leaves a state as it is concerns no launch, or a page that it has written before. -/
theorem State.snapshot_wrote (s : State) {lid page : Nat} {L : Launch} (h : s.launch? lid = some L) (hp : page ∉ L.wrote) :
    ∃ M, (s.snapshot lid page).launch? lid = some M ∧ page ∈ M.wrote := by
  have hc : L.wrote.contains page = false := by rw [List.contains_eq_mem, decide_eq_false hp]
  have hkeep : ∀ t : State, (∃ M, t.launch? lid = some M) →
      ∃ M, (t.updLaunch lid (fun l => { l with wrote := l.wrote ++ [page] })).launch? lid = some M ∧ page ∈ M.wrote := by
    rintro t ⟨M, hM⟩
    exact ⟨_, State.updLaunch_self hM _, List.mem_append_right _ List.mem_cons_self⟩
  unfold State.snapshot
  rw [h]
  simp only [hc, Bool.false_eq_true, if_false]
  refine hkeep _ ?_
  split
  · exact ⟨_, State.updLaunch_self (s := s.updMem _) h _⟩
  · exact ⟨_, State.updLaunch_self h _⟩

/-- A page that adds nothing to what its launch has written adds nothing later either. -/
theorem State.trackWrite_same {s u : State} {lid : Option Nat} {a : Nat} (h : s.trackWrite lid a = s) (hl : u.launches = s.launches) :
    u.trackWrite lid a = u := by
  cases lid with
  | none => rfl
  | some l =>
    have hul : u.launch? l = s.launch? l := by rw [State.launch?, hl]; rfl
    change (s.depend l (a / 65536)).snapshot l (a / 65536) = s at h
    change (u.depend l (a / 65536)).snapshot l (a / 65536) = u
    cases hL : s.launch? l with
    | none =>
      have hnone : ∀ t : State, t.launch? l = none → (t.depend l (a / 65536)).snapshot l (a / 65536) = t := fun t ht => by
        have hd : t.depend l (a / 65536) = t := by
          unfold State.depend State.updLaunch
          rw [show SMap.find? t.launches l = none from ht]
        rw [hd, State.snapshot, ht]
      exact hnone u (hul.trans hL)
    | some L =>
      obtain ⟨d, hd⟩ := s.depend_launch? l (a / 65536) hL
      have hw : a / 65536 ∈ L.wrote := by
        by_contra hn
        obtain ⟨M, hM, hm⟩ := State.snapshot_wrote _ hd hn
        rw [h, hL] at hM
        exact hn (Option.some.inj hM ▸ hm)
      rw [State.snapshot_written hd hw] at h
      rw [State.depend_same h hl]
      exact State.snapshot_written (hul.trans hL) hw

theorem State.trackRead_same {s u : State} {lid : Option Nat} {a : Nat} (h : s.trackRead lid a = s) (hl : u.launches = s.launches) :
    u.trackRead lid a = u := by
  cases lid with
  | none => rfl
  | some l => exact State.depend_same h hl

/-! ## L1 of one core -/

/-- Nothing differs but L1 of a core and how the warps are listed, and that L1 holds the same lines. -/
structure State.L1Only (s u : State) (c : Nat) : Prop where
  rest : u = { s with warps := u.warps, cores := u.cores }
  warp : ∀ k, u.warp k = s.warp k
  others : ∀ k, k ≠ c → u.core k = s.core k
  here : u.core c = { s.core c with l1 := (u.core c).l1 }
  held : ∀ k, ((u.core c).l1? k).isSome = ((s.core c).l1? k).isSome

theorem State.Alike.l1Only {s u : State} (h : s.Alike u) (c : Nat) : s.L1Only u c := by
  have hcore : ∀ k, u.core k = s.core k := fun k => by rw [h.rest]; rfl
  refine ⟨?_, h.warp, fun k _ => hcore k, ?_, fun k => by rw [hcore]⟩
  · conv_lhs => rw [h.rest]
    rw [h.rest]
  · rw [hcore]

/-- A line of a core's L1 is changed. -/
def State.putL1 (s : State) (c k : Nat) (l : L1Line) : State := s.updCore c (fun x => { x with l1 := x.l1.set k l })

theorem State.putL1_l1? (s : State) (c k j : Nat) (l : L1Line) :
    ((s.putL1 c k l).core c).l1? j = if k = j then some l else (s.core c).l1? j := by
  rw [State.putL1, State.core_updCore_same]
  exact SMap.find?_set _ _ _ _

theorem State.L1Only.setLine {s u : State} {c k : Nat} (h : s.L1Only u c) (hk : ((s.core c).l1? k).isSome = true) (l : L1Line) :
    s.L1Only (u.putL1 c k l) c := by
  refine ⟨?_, h.warp, fun j hj => ?_, ?_, fun j => ?_⟩
  · conv_lhs => rw [h.rest]
    rfl
  · rw [State.putL1, State.core_updCore, if_neg (Ne.symm hj), h.others j hj]
  · rw [State.putL1, State.core_updCore_same]
    conv_lhs => rw [h.here]
  · rw [State.putL1_l1?]
    split
    · rename_i hj
      subst hj
      exact hk.symm
    · exact h.held j

/-! ## A store to a line that L1 holds -/

/-- A line of L1 after a store of n bytes. -/
def L1Line.stored (l : L1Line) (m : Master) (a n v : Nat) : L1Line :=
  { l with data := lineMerge l.data (runData (a % 128) (v % 2 ^ (8 * n))) (runMask (a % 128) n), dirty := l.dirty ||| runMask (a % 128) n,
           lid := m.lid, cls := m.cls, slack := m.slack, who := l.wroteBy m (runMask (a % 128) n) }.retag m

theorem State.l1Mend_clean {s : State} (h : s.mem.upsets = []) (c line : Nat) (mask : BitVec 128) : s.l1Mend c line mask = s := by
  rw [State.l1Mend, Mem.l1Bad, h]
  rfl

theorem State.laneWrite_l1 {s : State} {m : Master} {c a n v : Nat} {cache : CacheMode} {l : L1Line} (hcache : cache ≠ .l2only)
    (hl : (s.core c).l1? (a / 128) = some l) (ht : s.trackWrite m.lid a = s) (hu : s.mem.upsets = []) :
    s.laneWrite m c a n v cache false = s.putL1 c (a / 128) (l.stored m a n v) := by
  have hfill : ∀ q next, s.l1Fill q c (a / 128) next = s := fun q next => by rw [State.l1Fill, hl]
  have hw : ∀ k, (k : CacheMode) ≠ .l2only → s.laneWrite m c a n v k false = s.putL1 c (a / 128) (l.stored m a n v) := by
    intro k hk
    cases k with
    | l2only => exact absurd rfl hk
    | _ =>
      unfold State.laneWrite
      simp only [Bool.false_eq_true, if_false, hfill, ht, hl]
      exact State.l1Mend_clean (s := s.updCore c _) hu c _ _
  exact hw cache hcache

theorem L1Line.retag_data (l : L1Line) (m : Master) : (l.retag m).data = l.data ∧ (l.retag m).dirty = l.dirty := by
  unfold L1Line.retag
  split <;> exact ⟨rfl, rfl⟩

/-- A byte of a line and whether it is dirty. -/
def L1Line.byteAt (l : L1Line) (k : Nat) : Byte × Bool := (lineGet l.data k, bitAt l.dirty k)

/-- A byte of a run of bytes of a line, cut to their number. -/
theorem lineGet_runData_cut {k n v j : Nat} (hj : k ≤ j) (hn : j < k + n) (hl : j < 128) :
    lineGet (runData k (v % 2 ^ (8 * n))) j = BitVec.ofNat 8 (v / 2 ^ (8 * (j - k))) := by
  obtain ⟨i, rfl⟩ := Nat.exists_eq_add_of_le hj
  rw [lineGet_runData k _ hl, Nat.add_sub_cancel_left, show (256 : Nat) = 2 ^ 8 from rfl, ← pow_mul]
  apply BitVec.eq_of_toNat_eq
  have hpow : 2 ^ (8 * n) = 2 ^ (8 * i) * 2 ^ (8 * (n - i)) := by rw [← pow_add]; congr 1; omega
  rw [BitVec.toNat_ofNat, BitVec.toNat_ofNat, hpow, Nat.mod_mul_right_div_self, Nat.mod_mod_of_dvd]
  exact pow_dvd_pow 2 (by omega)

/-- What a store does to each byte of the line. -/
theorem L1Line.stored_byteAt (l : L1Line) (m : Master) {a n v k : Nat} (hk : k < 128) : (l.stored m a n v).byteAt k =
    if covers (a % 128) n k then (BitVec.ofNat 8 (v / 2 ^ (8 * (k - a % 128))), true) else l.byteAt k := by
  obtain ⟨hd, hy⟩ := L1Line.retag_data { l with
    data := lineMerge l.data (runData (a % 128) (v % 2 ^ (8 * n))) (runMask (a % 128) n), dirty := l.dirty ||| runMask (a % 128) n,
    lid := m.lid, cls := m.cls, slack := m.slack, who := l.wroteBy m (runMask (a % 128) n) } m
  have hmask : bitAt (runMask (a % 128) n) k = covers (a % 128) n k := by
    rw [bitAt_runMask, Bool.eq_iff_iff, decide_eq_true_eq, covers_iff]
    omega
  unfold L1Line.byteAt L1Line.stored
  rw [hd, hy, lineGet_lineMerge _ _ _ hk, bitAt_or, hmask]
  split
  · rename_i hc
    obtain ⟨h1, h2⟩ := covers_iff.mp hc
    rw [lineGet_runData_cut h1 h2 hk, hc, Bool.or_true]
  · rename_i hc
    rw [Bool.eq_false_of_not_eq_true hc, Bool.or_false]

/-- An aligned access covers the bytes of one line. -/
theorem covers_line {a : Nat} {w : Width} (h : a % widthSize w = 0) (b : Nat) :
    covers a (widthSize w) b = true ↔ a / 128 = b / 128 ∧ covers (a % 128) (widthSize w) (b % 128) = true := by
  rw [covers_iff, covers_iff]
  cases w <;> simp only [widthSize] at h ⊢ <;> omega

/-- The byte that a core's L1 holds at an address, and whether it is dirty. -/
def State.l1At (s : State) (c b : Nat) : Option (Byte × Bool) := ((s.core c).l1? (b / 128)).map (fun l => l.byteAt (b % 128))

theorem State.l1Byte_eq (s : State) (c b : Nat) : s.l1Byte c b = (s.l1At c b).map Prod.fst := by
  rw [State.l1Byte, State.l1At, Option.map_map]
  rfl

theorem State.l1Dirty_eq (s : State) (c b : Nat) : ((s.core c).l1? (b / 128)).any (fun l => bitAt l.dirty (b % 128)) = (s.l1At c b).any Prod.snd := by
  rw [State.l1At, Option.any_map]
  rfl

theorem State.l1At_store {s : State} {m : Master} {c a v b : Nat} {w : Width} {l : L1Line} (hl : (s.core c).l1? (a / 128) = some l)
    (ha : a % widthSize w = 0) :
    (s.putL1 c (a / 128) (l.stored m a (widthSize w) v)).l1At c b =
      if covers a (widthSize w) b then some (BitVec.ofNat 8 (v / 2 ^ (8 * (b - a))), true) else s.l1At c b := by
  have hfind : ((s.putL1 c (a / 128) (l.stored m a (widthSize w) v)).core c).l1? (b / 128) =
      if a / 128 = b / 128 then some (l.stored m a (widthSize w) v) else (s.core c).l1? (b / 128) := s.putL1_l1? ..
  rw [State.l1At, hfind]
  by_cases hb : a / 128 = b / 128
  · rw [if_pos hb, Option.map_some, L1Line.stored_byteAt l m (Nat.mod_lt _ (by decide))]
    by_cases hc : covers a (widthSize w) b = true
    · rw [if_pos hc, if_pos ((covers_line ha b).mp hc).2]
      have hle := (covers_iff.mp hc).1
      rw [show b % 128 - a % 128 = b - a by omega]
    · rw [if_neg hc, if_neg (fun h => hc ((covers_line ha b).mpr ⟨hb, h⟩)), State.l1At, ← hb, hl, Option.map_some]
  · rw [if_neg hb, if_neg (fun h => hb ((covers_line ha b).mp h).1)]
    rfl

/-! ## Plain stores -/

theorem semRel_plain : semRel .plain = false := rfl

theorem memExtAtL2_plain {x : MemExt} (h : x.sem = .plain) : MemExtAtL2 x = false := by rw [MemExtAtL2, h]; rfl

/-- A plain store to memory is a write of its bytes. -/
theorem State.stOne_plain {x : MemExt} (hx : x.sem = .plain) {pa : Nat} (hq : quarter pa < 2) (s : State) (m : Master) (c n v : Nat) :
    s.stOne m c x n pa v = s.laneWrite m c (canonPa pa) n v x.cache false := by
  have hq3 : quarter pa ≠ 3 := by omega
  unfold State.stOne
  simp only [hx, semRel_plain, Bool.false_eq_true, if_false, if_neg hq3, memExtAtL2_plain hx]

/-- Lanes have passed an instruction in a state whose warps are listed in another way. -/
theorem State.finishLanes_passed_alike {s u : State} (h : s.Alike u) (n : Stall) (len lat : Nat) (k : Nat × Nat) :
    s.Given (u.finishLanes s.cur.warp len lat n.toNat k (s.execLanes.map (fun i => (i, {})))) n len (fun _ => {}) := by
  have hc : u.cur = s.cur := by rw [h.rest]
  have he : u.execLanes = s.execLanes := by simp only [State.execLanes, hc, h.warp]
  have hg := u.finishLanes_passed n len lat k
  rw [he, hc] at hg
  exact hg.of_alike h

theorem State.L1Only.alike {s u : State} {c : Nat} (h : s.L1Only u c) : State.Alike { s with cores := u.cores } u := ⟨h.rest, h.warp⟩

/-- The store of one lane to memory. -/
def State.storeMem (s : State) (d : Src) (w : Width) (x : MemExt) (u : State) (p : Nat × Nat) : State :=
  u.stOne ((s.laneMaster s.cur.warp x).by s.cur.warp p.1) (coreOf s.cur.warp) x (widthSize w) p.2 (stored (s.view p.1) 1 d w)

section
variable {s : State} {n : Stall} {d a : Src} {w : Width} {x : MemExt} {pa : Nat → Nat}

/-- A store changes the line that its core's L1 holds. -/
theorem State.storeMem_line (hsem : x.sem = .plain) (hcache : x.cache ≠ .l2only) (hreach : s.LanesReach a x (widthSize w) .write pa)
    (hheld : ∀ i ∈ s.execLanes, ((s.core (coreOf s.cur.warp)).l1? (canonPa (pa i) / 128)).isSome = true) {u : State}
    (hu : s.L1Only u (coreOf s.cur.warp)) {j : Nat} (hj : j ∈ s.execLanes) :
    ∃ l, (u.core (coreOf s.cur.warp)).l1? (canonPa (pa j) / 128) = some l ∧
      s.storeMem d w x u (j, pa j) = u.putL1 (coreOf s.cur.warp) (canonPa (pa j) / 128)
        (l.stored ((s.laneMaster s.cur.warp x).by s.cur.warp j) (canonPa (pa j)) (widthSize w) (stored (s.view j) 1 d w)) := by
  obtain ⟨-, -, -, -, -, hq, ⟨-, -, hup⟩, -, htr⟩ := hreach.2 j hj
  obtain ⟨l, hl⟩ := Option.isSome_iff_exists.mp ((hu.held _).trans (hheld j hj))
  refine ⟨l, hl, ?_⟩
  rw [State.storeMem, State.stOne_plain hsem hq]
  exact State.laneWrite_l1 hcache hl (State.trackWrite_same (htr rfl) (by rw [hu.rest])) (by rw [hu.rest]; exact hup)

/-- A plain store by lanes whose lines their core's L1 holds: what that L1 then holds. -/
theorem st_l1 (hc : s.Clear (srcRes a ++ storedRes d w)) (hsem : x.sem = .plain) (hcache : x.cache ≠ .l2only)
    (hreach : s.LanesReach a x (widthSize w) .write pa)
    (hheld : ∀ i ∈ s.execLanes, ((s.core (coreOf s.cur.warp)).l1? (canonPa (pa i) / 128)).isSome = true) :
    ∃ (s1 t : State), exec (.st n d a w x) s = .next t ∧ s1.Given t n 8 (fun _ => {}) ∧ s1 = { s with cores := s1.cores } ∧
      s.L1Only s1 (coreOf s.cur.warp) ∧
      ∀ b, s1.l1At (coreOf s.cur.warp) b = ((s.execLanes.filter (fun i => covers (canonPa (pa i)) (widthSize w) b)).getLast?).elim
        (s.l1At (coreOf s.cur.warp) b)
        (fun i => some (BitVec.ofNat 8 (stored (s.view i) 1 d w / 2 ^ (8 * (b - canonPa (pa i)))), true)) := by
  have hx : exec (.st n d a w x) s = execSt n d a w x s := rfl
  have hkeep : ∀ u, s.L1Only u (coreOf s.cur.warp) → ∀ j ∈ s.execLanes, s.L1Only (s.storeMem d w x u (j, pa j)) (coreOf s.cur.warp) := by
    intro u hu j hj
    obtain ⟨l, -, he⟩ := State.storeMem_line (d := d) hsem hcache hreach hheld hu hj
    rw [he]
    exact hu.setLine (hheld j hj) _
  obtain ⟨u0, hu0, hP, hm⟩ := memOp_folds hc (reads := fun _ => srcRes a ++ storedRes d w) (fun _ _ _ h => h) hreach n 8 0 (.inl rfl)
    (perform := fun t i p => (t.stOne ((s.laneMaster s.cur.warp x).by s.cur.warp i) (coreOf s.cur.warp) x (widthSize w) p (stored (s.view i) 1 d w), some {}))
    (P := fun u => s.L1Only u (coreOf s.cur.warp)) (upd := s.storeMem d w x) (r := fun _ => {}) (fun u hu => hu.l1Only _) (.inl rfl)
    (fun u hu j hj => ⟨rfl, hkeep u hu j hj⟩)
  refine ⟨_, _, hx.trans hm, State.finishLanes_passed_alike hP.alike n 8 0 (1, 1), rfl,
    ⟨rfl, fun _ => rfl, hP.others, hP.here, hP.held⟩, fun b => ?_⟩
  have hfirst : s.l1At (coreOf s.cur.warp) b = u0.l1At (coreOf s.cur.warp) b := by rw [hu0.rest]; rfl
  rw [hfirst]
  exact foldl_lanes_last (P := fun u => s.L1Only u (coreOf s.cur.warp)) (get := fun u => State.l1At u (coreOf s.cur.warp) b)
    (cov := fun i => covers (canonPa (pa i)) (widthSize w) b) pa s.execLanes u0 (hu0.l1Only _) (fun u hu j hj => by
      obtain ⟨l, hl, he⟩ := State.storeMem_line (d := d) hsem hcache hreach hheld hu hj
      refine ⟨hkeep u hu j hj, ?_⟩
      rw [he]
      exact State.l1At_store hl (hreach.2 j hj).2.2.1)

end

/-- Settles O28. -/
theorem storesToL1 : Obligations.StoresToL1 := by
  intro s n d a w x pa c hc hsem hcache hreach hheld
  obtain ⟨s1, t, hx, hg, hrest, hl1, hbyte⟩ := st_l1 (n := n) hc hsem hcache hreach hheld
  refine ⟨s1, t, hx, hg, hrest, hl1.others, hl1.here, fun b => ?_⟩
  replace hbyte : s1.l1At c b = _ := hbyte b
  dsimp only
  split
  · rename_i hl
    replace hl : (s.execLanes.filter (fun i => covers (canonPa (pa i)) (widthSize w) b)).getLast? = none := hl
    rw [State.l1Byte_eq, State.l1Byte_eq, hbyte, hl]
    rfl
  · rename_i i hl
    replace hl : (s.execLanes.filter (fun i => covers (canonPa (pa i)) (widthSize w) b)).getLast? = some i := hl
    rw [State.l1Byte_eq, State.l1Dirty_eq, hbyte, hl]
    exact ⟨rfl, rfl⟩

end Sys2Proof.Machine
end

section
/-! SUPPORT. Loads whose lines L1 holds (10_memory.md R253, 12_memory_instr.md R310, R313, R314). -/

namespace Sys2Proof.Machine

/-! ## Bytes of a line as a number -/

theorem lineRun_succ (d : BitVec 1024) (k n : Nat) : lineRun d k (n + 1) = (lineGet d k).toNat + 256 * lineRun d (k + 1) n := by
  unfold lineRun lineGet
  rw [BitVec.extractLsb'_toNat, Nat.shiftRight_eq_div_pow, show 2 ^ (8 * (n + 1)) = 256 * 2 ^ (8 * n) by rw [Nat.mul_succ, pow_add, mul_comm]; rfl,
    Nat.mod_mul, Nat.div_div_eq_div_mul, show 2 ^ (8 * (k + 1)) = 2 ^ (8 * k) * 256 by rw [Nat.mul_succ, pow_add]; rfl]

theorem lineRun_eq (d : BitVec 1024) (k n : Nat) : lineRun d k n = ofBytes ((List.range n).map (fun i => lineGet d (k + i))) := by
  induction n generalizing k with
  | zero => rw [lineRun, Nat.mul_zero, pow_zero, Nat.mod_one]; rfl
  | succ n ih =>
    rw [lineRun_succ, ih, List.range_succ_eq_map, List.map_cons, List.map_map, ofBytes]
    simp only [Function.comp_def, Nat.add_zero, Nat.succ_eq_add_one, Nat.add_assoc, Nat.add_comm 1]

/-! ## A read of a line that L1 holds -/

theorem State.l1Meets_clean {s : State} (h : s.mem.upsets = []) (d c a n : Nat) : s.l1Meets d c a n = (s, none) := by
  unfold State.l1Meets
  have hbad : s.mem.l1Bad c (a / 128) (runMask (a % 128) n) = [] := by rw [Mem.l1Bad, h]; rfl
  rw [hbad]
  split <;> rfl

theorem State.meetsMem_sound {s : State} (h : s.mem.Sound) (a n : Nat) : s.meetsMem a n = (s, none) := by
  obtain ⟨hb, hh, -⟩ := h
  have hbad : s.meetsBad a n = (s, false) := by rw [State.meetsBad, hb]; rfl
  rw [State.meetsMem, hbad, Mem.halfBad, hh]
  rfl

/-- Reading tells no more of a line than who knows of it. -/
theorem State.KnowsMore.data {s t : State} (h : s.KnowsMore t) {c k : Nat} {l : L1Line} (hl : (s.core c).l1? k = some l) :
    ∃ l', (t.core c).l1? k = some l' ∧ l'.data = l.data := by
  have hmap := h.line c k
  rw [hl, Option.map_some] at hmap
  obtain ⟨l', hl', he⟩ := Option.map_eq_some_iff.mp hmap
  exact ⟨l', hl', (congrArg L1Line.data he : _)⟩

theorem State.laneRead_l1 {s : State} {m : Master} {c a n : Nat} {l : L1Line} (cache : CacheMode) (hl : (s.core c).l1? (a / 128) = some l)
    (ht : s.trackRead m.lid a = s) (hs : s.mem.Sound) :
    s.laneRead m c a n cache false = (s.observe m c (a / 128) (runMask (a % 128) n),
      some (ofBytes ((List.range n).map (fun k => lineGet l.data (a % 128 + k))))) := by
  have hfill : ∀ next, s.l1Fill m c (a / 128) next = s := fun next => by rw [State.l1Fill, hl]
  obtain ⟨l', hl', hd⟩ := (s.observe_knows m c (a / 128) (runMask (a % 128) n)).data hl
  unfold State.laneRead
  simp only [Bool.false_eq_true, if_false, hl, Option.isSome_some, Bool.true_eq_false, and_false, if_true, State.l1Meets_clean hs.2.2,
    State.meetsMem_sound hs, ite_self, hfill, ht, hl', Option.map_some, lineRun_eq, hd]

/-- Lanes have received what they loaded, in a state whose warps are listed in another way. -/
theorem State.finishLanes_loaded_alike {s u : State} (h : s.Alike u) (n : Stall) (len lat : Nat) (k : Nat × Nat) (d : Dst) (w : Width) (f : Nat → Nat) :
    s.Given (u.finishLanes s.cur.warp len lat n.toNat k (s.execLanes.map (fun i => (i, loaded d w (f i))))) n len
      (fun v => loadEffect d w (f v.i)) := by
  have hc : u.cur = s.cur := by rw [h.rest]
  have he : u.execLanes = s.execLanes := by simp only [State.execLanes, hc, h.warp]
  have hg := u.finishLanes_loaded n len lat k d w f
  rw [he, hc] at hg
  exact hg.of_alike h

/-! ## Lanes that have loaded -/

/-- Nothing differs but which unseen bytes are known of, and that the issuer's warp may have loads outstanding. -/
structure State.Loading (s u : State) : Prop where
  knows : s.KnowsMore { u with warps := s.warps }
  others : ∀ k, k ≠ s.cur.warp → u.warp k = s.warp k
  here : { u.warp s.cur.warp with loadOut := true } = { s.warp s.cur.warp with loadOut := true }

theorem State.Alike.loading {s u : State} (h : s.Alike u) : s.Loading u := by
  refine ⟨?_, fun k _ => h.warp k, by rw [h.warp]⟩
  rw [h.rest]
  exact .refl s

/-- The lane's load is outstanding. -/
def State.loadsOut (s : State) (w : Nat) : State := s.updWarp w (fun v => { v with loadOut := true })

theorem State.loadsOut_warp (s : State) (w k : Nat) : (s.loadsOut w).warp k = if w = k then { s.warp k with loadOut := true } else s.warp k := by
  rw [State.loadsOut, State.warp_updWarp]
  split
  · rename_i h; rw [h]
  · rfl

theorem State.KnowsMore.relist {s t : State} (h : s.KnowsMore t) (ws : SMap Warp) :
    State.KnowsMore { s with warps := ws } { t with warps := ws } := by
  refine ⟨?_, h.unseen, h.core, h.line⟩
  rw [h.rest]

theorem State.Loading.launches {s u : State} (h : s.Loading u) : u.launches = s.launches := by
  have hl := congrArg State.launches h.knows.rest
  exact hl

theorem State.Loading.sound {s u : State} (h : s.Loading u) (hs : s.mem.Sound) : u.mem.Sound := by
  have hm := congrArg State.mem h.knows.rest
  rw [show u.mem = _ from hm]
  exact hs

theorem State.Loading.queues {s u : State} (h : s.Loading u) : (u.warp s.cur.warp).queues = (s.warp s.cur.warp).queues := by
  have hq := congrArg Warp.queues h.here
  exact hq

theorem State.Loading.observe {s u : State} (h : s.Loading u) (m : Master) (c line : Nat) (mask : BitVec 128) :
    s.Loading ((u.observe m c line mask).loadsOut s.cur.warp) := by
  have hk := u.observe_knows m c line mask
  have hw : ∀ k, (u.observe m c line mask).warp k = u.warp k := fun k => by rw [hk.rest]; rfl
  refine ⟨h.knows.trans (hk.relist s.warps), fun k hk' => ?_, ?_⟩
  · rw [State.loadsOut_warp, if_neg (Ne.symm hk'), hw, h.others k hk']
  · rw [State.loadsOut_warp, if_pos rfl, hw]
    exact h.here

/-- Lanes of which one at least has loaded. -/
theorem State.Loading.alike {s u : State} (h : s.Loading u) (ho : (u.warp s.cur.warp).loadOut = true) :
    State.Alike (State.loadsOut { u with warps := s.warps } s.cur.warp) u := by
  refine ⟨rfl, fun k => ?_⟩
  rw [State.loadsOut_warp]
  split
  · rename_i hk
    subst hk
    rw [show ({ u with warps := s.warps } : State).warp s.cur.warp = s.warp s.cur.warp from rfl, ← h.here, ← ho]
  · rename_i hk
    exact h.others k (Ne.symm hk)

/-- Lanes have received what they loaded. -/
theorem State.Loading.received {s u : State} (h : s.Loading u) (ho : (u.warp s.cur.warp).loadOut = true) (n : Stall) (len lat : Nat) (k : Nat × Nat)
    (d : Dst) (w : Width) (f : Nat → Nat) : State.Given (State.loadsOut { u with warps := s.warps } s.cur.warp)
      (u.finishLanes s.cur.warp len lat n.toNat k (s.execLanes.map (fun i => (i, loaded d w (f i))))) n len (fun v => loadEffect d w (f v.i)) := by
  have hcur : (State.loadsOut { u with warps := s.warps } s.cur.warp).cur = s.cur := by
    have hc := congrArg State.cur h.knows.rest
    exact hc
  have hexec : (State.loadsOut { u with warps := s.warps } s.cur.warp).execLanes = s.execLanes := by
    rw [State.execLanes, hcur, State.loadsOut_warp, if_pos rfl]
    rfl
  have hg := State.finishLanes_loaded_alike (h.alike ho) n len lat k d w f
  rw [hexec, hcur] at hg
  exact hg

theorem State.ldOne_plain {x : MemExt} (hx : x.sem = .plain) {pa : Nat} (hq : quarter pa < 2) (s : State) (m : Master) (c n : Nat) :
    s.ldOne m c x n pa = s.laneRead m c (canonPa pa) n x.cache false := by
  have hq3 : quarter pa ≠ 3 := by omega
  have hacq : semAcq .plain = false := rfl
  unfold State.ldOne
  simp only [hx, hacq, Bool.false_eq_true, if_false, if_neg hq3, memExtAtL2_plain hx]

section
variable {s : State} {d : Dst} {a : Src} {w : Width} {x : MemExt} {pa : Nat → Nat} {l : Nat → L1Line}

/-- What a lane loads from its line. -/
def L1Line.runAt (l : L1Line) (p n : Nat) : Nat := ofBytes ((List.range n).map (fun k => lineGet l.data (canonPa p % 128 + k)))

/-- A lane's load from its line tells it who wrote the bytes. -/
def State.loadL1 (s : State) (x : MemExt) (w : Width) (u : State) (p : Nat × Nat) : State :=
  (u.observe ((s.laneMaster s.cur.warp x).by s.cur.warp p.1) (coreOf s.cur.warp) (canonPa p.2 / 128)
    (runMask (canonPa p.2 % 128) (widthSize w))).loadsOut s.cur.warp

theorem State.Loading.ldOne {u : State} (hu : s.Loading u) (hsem : x.sem = .plain) (hreach : s.LanesReach a x (widthSize w) .read pa)
    (hline : ∀ i ∈ s.execLanes, (s.core (s.cur.warp / 16)).l1? (canonPa (pa i) / 128) = some (l i)) {j : Nat} (hj : j ∈ s.execLanes) :
    let r := u.ldOne ((s.laneMaster s.cur.warp x).by s.cur.warp j) (coreOf s.cur.warp) x (widthSize w) (pa j)
    (r.1.loadsOut s.cur.warp, r.2.map (loaded d w)) =
      (s.loadL1 x w u (j, pa j), some (loaded d w ((l j).runAt (pa j) (widthSize w)))) := by
  obtain ⟨-, -, -, -, -, hq, hsound, htr, -⟩ := hreach.2 j hj
  obtain ⟨l', hl', hd⟩ := hu.knows.data (hline j hj)
  have hread := State.laneRead_l1 (s := u) (m := (s.laneMaster s.cur.warp x).by s.cur.warp j) (c := coreOf s.cur.warp) (n := widthSize w)
    x.cache hl' (State.trackRead_same htr hu.launches) (hu.sound hsound)
  dsimp only
  rw [State.ldOne_plain hsem hq, hread, hd]
  rfl

end

/-- Settles O27. -/
theorem loadsFromL1 : Obligations.LoadsFromL1 := by
  intro s n d a w x pa l hc hne hsem hreach hred hline
  have hx : exec (.ld n d a w x) s = execLd n d a w x s := rfl
  obtain ⟨u0, -, hP, hm⟩ := memOp_folds hc (reads := fun _ => srcRes a) (fun _ _ _ h => h) hreach n 8 (widthSize w) (.inr hred)
    (perform := fun t i p =>
      let r := t.ldOne ((s.laneMaster s.cur.warp x).by s.cur.warp i) (coreOf s.cur.warp) x (widthSize w) p
      (r.1.updWarp s.cur.warp (fun v => { v with loadOut := true }), r.2.map (loaded d w)))
    (P := s.Loading) (upd := s.loadL1 x w) (r := fun p => loaded d w ((l p.1).runAt p.2 (widthSize w)))
    (fun u hu => hu.loading) (.inr fun u hu => hu.queues)
    (fun u hu j hj => ⟨hu.ldOne hsem hreach hline hj, hu.observe _ _ _ _⟩)
  have hout := (foldl_lanes_last (P := fun _ => True) (upd := s.loadL1 x w) (get := fun u => (State.warp u s.cur.warp).loadOut)
    (cov := fun _ => true) (val := fun _ => true) pa s.execLanes u0 trivial
    (fun u _ j _ => ⟨trivial, by rw [State.loadL1, State.loadsOut_warp, if_pos rfl]; rfl⟩)).trans (by
      rw [List.filter_true, List.getLast?_eq_some_getLast hne, Option.elim_some])
  exact ⟨_, _, hx.trans hm, hP.knows, hP.received hout n 8 0 (1, 1) d w (fun i => (l i).runAt (pa i) (widthSize w))⟩

end Sys2Proof.Machine
end

section
/-! SUPPORT. Writes at the L2 of the home die of a line that it holds: the line takes the bytes, a message for it goes to the other die, and
what the die sees of every other byte stays (10_memory.md R255, R256, 11_ordering.md R284 to R287). -/

namespace Sys2Proof.Machine

/-! ## What a die sees of a byte -/

theorem Mem.look_eq (m : Mem) (d q : Nat) :
    m.look d q =
      if homeOf q = d then ((m.granule? q).map (fun g => g.byte q)).getD (m.under q)
      else (m.onWay d q).getD (((m.granule? q).map (fun g => g.byte q)).getD
        (((m.line? d (q / 128)).map (fun l => lineGet l.data (q % 128))).getD (m.under q))) := by
  unfold Mem.look Mem.atHome
  cases m.granule? q <;> cases m.onWay d q <;> cases m.line? d (q / 128) <;> rfl

/-- A die sees the same byte where the engines, the writes on their way, the two L2s and the stacks hold the same of it. -/
theorem Mem.look_congr {m m' : Mem} {d q : Nat} (hg : (m'.granule? q).map (fun g => g.byte q) = (m.granule? q).map (fun g => g.byte q))
    (hw : homeOf q ≠ d → m'.onWay d q = m.onWay d q)
    (hl : ∀ e, e = d ∨ e = homeOf q → (m'.line? e (q / 128)).map (fun l => l.data) = (m.line? e (q / 128)).map (fun l => l.data))
    (hs : m'.stackGet q = m.stackGet q) : m'.look d q = m.look d q := by
  have hbyte : ∀ e, e = d ∨ e = homeOf q → (m'.line? e (q / 128)).map (fun l => lineGet l.data (q % 128)) =
      (m.line? e (q / 128)).map (fun l => lineGet l.data (q % 128)) := fun e he => by
    have h := congrArg (Option.map (fun b => lineGet b (q % 128))) (hl e he)
    rwa [Option.map_map, Option.map_map] at h
  have hunder : m'.under q = m.under q := by rw [Mem.under_eq, Mem.under_eq, hbyte _ (.inr rfl), hs]
  rw [Mem.look_eq, Mem.look_eq, hg, hbyte d (.inl rfl), hunder]
  split
  · rfl
  · rename_i hq
    rw [hw hq]

/-- A message for one line does not change what is on its way to another. -/
theorem Mem.onWay_sent {m m' : Mem} {g : Msg} (hs : m'.strait = m.strait ++ [g]) {q : Nat} (h : g.line ≠ q / 128) (d : Nat) :
    m'.onWay d q = m.onWay d q := by
  unfold Mem.onWay
  rw [hs, List.foldl_append, List.foldl_cons, List.foldl_nil, if_neg (fun hc => h hc.2.1)]

/-- What the home die of a line sees when the line has new bytes, and a message for it goes to the other die. -/
theorem Mem.look_sent {m m' : Mem} {d line : Nat} {x : L2Line} {g : Msg} (hd : homeOf (128 * line) = d) (hg : m.granules = [])
    (hg' : m'.granules = []) (hs : m'.strait = m.strait ++ [g]) (hline : g.line = line)
    (hl : ∀ e k, m'.line? e k = if lineKey d line = lineKey e k then some x else m.line? e k)
    (hst : ∀ o, m'.stackGet o = m.stackGet o) (q : Nat) :
    m'.look d q = if q / 128 = line then lineGet x.data (q % 128) else m.look d q := by
  by_cases hq : q / 128 = line
  · have hqd : homeOf q = d := by rw [← homeOf_line q, hq, hd]
    rw [if_pos hq, Mem.look_at_home hg' hqd, Mem.under_eq, hl, hqd, hq, if_pos rfl]
    rfl
  · have hkey : ∀ e, e = d ∨ e = homeOf q → lineKey d line ≠ lineKey e (q / 128) := by
      rintro e (rfl | rfl) hk
      · exact hq (by unfold lineKey at hk; omega)
      · refine hq ((lineKey_home (a := 128 * line) (q := q) ?_).trans (Nat.mul_div_cancel_left line (by decide)))
        rw [hd, Nat.mul_div_cancel_left line (by decide), hk]
    rw [if_neg hq]
    refine Mem.look_congr (by rw [Mem.granule?_of_none hg', Mem.granule?_of_none hg])
      (fun _ => Mem.onWay_sent hs (fun h => hq (h.symm.trans hline)) d) (fun e he => ?_) (hst q)
    rw [hl, if_neg (hkey e he)]

/-! ## A write at the home L2 -/

/-- The message that a write on a die sends to the other one. -/
def Mem.sends (m : Mem) (q : Master) (line : Nat) (mask : BitVec 128) (data : BitVec 1024) : Msg :=
  { src := q.die, line := line, data := data, mask := mask, k := m.epoch q.die, k2 := m.appliedTo q.die, q := q, rec_ := 0 }

/-- The line of the home L2 after a write of some of its bytes. -/
def L2Line.written (l : L2Line) (q : Master) (k : Nat) (mask : BitVec 128) (data : BitVec 1024) : L2Line :=
  L2Line.retag { l with data := lineMerge l.data data mask, dirty := l.dirty ||| mask, clk := max l.clk k } q

theorem Mem.put_sends {m : Mem} {q : Master} {line : Nat} {l : L2Line} (hg : m.granules = []) (hd : homeOf (128 * line) = q.die)
    (hl : m.line? q.die line = some l) {mask : BitVec 128} (hm : mask ≠ 0) (data : BitVec 1024) :
    m.put q line mask data =
      { m.setLine q.die line (l.written q (m.epoch q.die) mask data) with strait := m.strait ++ [m.sends q line mask data] } := by
  have hrest : mask &&& ~~~(0 : BitVec 128) = mask := by
    rw [show ~~~(0 : BitVec 128) = BitVec.allOnes 128 by decide, BitVec.and_allOnes]
  have h0 : (0 : BitVec 128) &&& mask = 0 := BitVec.zero_and
  have hl' : m.line? (homeOf (128 * line)) line = some l := by rw [hd, hl]
  unfold Mem.put
  simp only [m.heldMask_of_none hg, h0, hrest, if_true, if_neg hm, hd, true_or]
  rw [Mem.writeHome_held hl', hd]
  rfl

/-- The same but for the lines on their way from clusters, and for what the host does not see. -/
def State.beside (s : State) (ts : SMap (List (Option Nat))) (us : List Unseen) : State :=
  { s with mem := { s.mem with toSlice := ts, unseen := us } }

/-- A line of a die's L2 is changed, and a message goes to the other die. -/
def State.linePut (s : State) (ts : SMap (List (Option Nat))) (us : List Unseen) (d line : Nat) (x : L2Line) (g : Msg) : State :=
  { s with mem := { s.mem.setLine d line x with toSlice := ts, unseen := us, strait := s.mem.strait ++ [g] } }

/-- A write of some bytes of a line has been made at the L2 of its home die. -/
structure State.PutAt (s u : State) (d line : Nat) (mask : BitVec 128) (data : BitVec 1024) : Prop where
  rest : u = { s with cmdQueues := u.cmdQueues
                      mem := { s.mem with l2 := u.mem.l2, strait := u.mem.strait, toSlice := u.mem.toSlice, unseen := u.mem.unseen } }
  told : s.OnlyTold u
  held : ∀ k, (s.mem.line? d k).isSome = true → (u.mem.line? d k).isSome = true
  sent : ∃ g, u.mem.strait = s.mem.strait ++ [g] ∧ g.src = d ∧ g.line = line ∧ g.k = s.mem.epoch d ∧ g.rec_ = 0
  seen : ∀ q, u.mem.look d q = if q / 128 = line ∧ bitAt mask (q % 128) = true then lineGet data (q % 128) else s.mem.look d q

theorem Mem.line?_of_home {m : Mem} (hg : m.granules = []) {d q : Nat} {l : L2Line} (hq : homeOf q = d) (hl : m.line? d (q / 128) = some l) :
    m.look d q = lineGet l.data (q % 128) := by
  rw [Mem.look_at_home hg hq, Mem.under_eq, hq, hl]
  rfl

section
variable {s : State} {q : Master} {line : Nat} {mask : BitVec 128}

/-- A write at the home L2, with a line on its way from the cluster, and with what the host does not see of it. -/
theorem State.putAt_told (hg : s.mem.granules = []) (hd : homeOf (128 * line) = q.die) (hl : (s.mem.line? q.die line).isSome = true)
    (hm : mask ≠ 0) (data : BitVec 1024) (ts : SMap (List (Option Nat))) (us : List Unseen) (f : Nat → Bool) :
    s.PutAt (((s.beside ts us).updMem (fun x => x.put q line mask data)).tellQueues f) q.die line mask data := by
  obtain ⟨l, hl⟩ := Option.isSome_iff_exists.mp hl
  have hput : (s.beside ts us).updMem (fun x => x.put q line mask data) =
      s.linePut ts us q.die line (l.written q (s.mem.epoch q.die) mask data) (s.mem.sends q line mask data) :=
    congrArg (fun x => ({ s with mem := x } : State)) (Mem.put_sends (m := (s.beside ts us).mem) hg hd hl hm data)
  rw [hput]
  generalize hu : s.linePut ts us q.die line (l.written q (s.mem.epoch q.die) mask data) (s.mem.sends q line mask data) = u
  have hmem : (u.tellQueues f).mem =
      (s.linePut ts us q.die line (l.written q (s.mem.epoch q.die) mask data) (s.mem.sends q line mask data)).mem := by rw [State.tellQueues_only, ← hu]
  have hline : ∀ e k, (u.tellQueues f).mem.line? e k =
      if lineKey q.die line = lineKey e k then some (l.written q (s.mem.epoch q.die) mask data) else s.mem.line? e k := fun e k => by
    rw [hmem]
    exact s.mem.line?_setLine q.die line e k _
  refine ⟨?_, fun k => ?_, fun k hk => ?_, ⟨s.mem.sends q line mask data, by rw [hmem]; rfl, rfl, rfl, rfl, rfl⟩, fun o => ?_⟩
  · rw [State.tellQueues_only, ← hu]
    rfl
  · have htold := State.tellQueues_told u f k
    rwa [show u.cmdQueue k = s.cmdQueue k by rw [← hu]; rfl] at htold
  · rw [hline]
    split
    · rfl
    · exact hk
  · refine (Mem.look_sent (m := s.mem) hd hg (by rw [hmem]; exact hg) (by rw [hmem]; rfl) rfl hline (fun _ => by rw [hmem]; rfl) o).trans ?_
    by_cases ho : o / 128 = line
    · have hlook := Mem.line?_of_home hg (by rw [← homeOf_line o, ho, hd]) (ho ▸ hl)
      rw [if_pos ho, L2Line.written, L2Line.retag_data, lineGet_lineMerge _ _ _ (Nat.mod_lt o (by decide)), hlook]
      simp only [ho, true_and]
    · rw [if_neg ho, if_neg (fun h => ho h.1)]

end

/-! ## What stands before and after the write -/

theorem State.ferryLine_out (s : State) (m : Master) (a : Nat) :
    ∃ ts, s.ferryLine m a true = s.beside ts s.mem.unseen := by
  unfold State.ferryLine
  split
  · exact ⟨s.mem.toSlice, rfl⟩
  · exact ⟨_, rfl⟩

theorem State.veil_beside (s : State) (ts : SMap (List (Option Nat))) (us : List Unseen) (who : Option Agent) (line : Nat) (mask : BitVec 128) :
    ∃ vs, (s.beside ts us).veil who line mask = s.beside ts vs := by
  unfold State.veil
  cases who with
  | none => exact ⟨_, rfl⟩
  | some a =>
    obtain ⟨vs, hvs⟩ := (s.beside ts us).mem.hide_unseen s.onDie line { lid := a.1, by_ := a.2, mask := mask }
    exact ⟨vs, congrArg (fun m => ({ s with mem := m } : State)) hvs⟩

theorem State.foldl_syncTouch_none {s : State} (h : s.mem.granules = []) (mask : BitVec 128) (line : Nat) (r : List Nat) :
    r.foldl (fun t k => if mask &&& runMask (8 * k) 8 = 0 then t else t.syncTouch (128 * line + 8 * k) 8) s = s := by
  induction r with
  | nil => rfl
  | cons k r ih => rw [List.foldl_cons, State.syncTouch_none h, ite_self, ih]

/-- The page of a line is that of each of its bytes. -/
theorem State.trackWrite_line (s : State) (lid : Option Nat) (a : Nat) : s.trackWrite lid (128 * (a / 128)) = s.trackWrite lid a := by
  unfold State.trackWrite
  rw [show 128 * (a / 128) / 65536 = a / 65536 by omega]

section
variable {s : State} {m : Master}

/-- A write at L2 on the home die of a line that its L2 holds. -/
theorem State.l2Put_at {line : Nat} {mask : BitVec 128} (hg : s.mem.granules = []) (hsound : s.mem.Sound) (ht : s.trackWrite m.lid (128 * line) = s)
    (hd : homeOf (128 * line) = m.die) (hl : (s.mem.line? m.die line).isSome = true) (hm : mask ≠ 0) (data : BitVec 1024) :
    s.PutAt (s.l2Put m line mask data) m.die line mask data := by
  obtain ⟨ts, hts⟩ := s.ferryLine_out m (128 * line)
  have hmend := State.mendSectors_sound (s := s.beside ts s.mem.unseen) hsound line mask
  obtain ⟨us, hus⟩ := s.veil_beside ts s.mem.unseen m.who line mask
  have hin : (s.beside ts us).l2In m line true = s.beside ts us := State.updMem_same _ (Mem.l2In_held (m := (s.beside ts us).mem) hl true)
  unfold State.l2Put
  simp only [ht, hts, hmend, State.foldl_syncTouch_none (s := s.beside ts s.mem.unseen) hg, hus, hin]
  exact State.putAt_told hg hd hl hm data ts us _

/-- A write of an aligned access at L2, as its die sees it. -/
theorem State.l2Write_at {a v : Nat} {w : Width} (ha : a % widthSize w = 0) (hg : s.mem.granules = []) (hsound : s.mem.Sound)
    (ht : s.trackWrite m.lid a = s) (hd : homeOf a = m.die) (hl : (s.mem.line? m.die (a / 128)).isSome = true) :
    (∃ mask data, s.PutAt (s.l2Write m a (widthSize w) v) m.die (a / 128) mask data) ∧
      ∀ q, (s.l2Write m a (widthSize w) v).mem.look m.die q =
        if covers a (widthSize w) q then BitVec.ofNat 8 (v / 2 ^ (8 * (q - a))) else s.mem.look m.die q := by
  have hput := State.l2Put_at (m := m) hg hsound ((s.trackWrite_line m.lid a).trans ht) (by rw [homeOf_line, hd]) hl
    (runMask_ne_zero (k := a % 128) (n := widthSize w) (Nat.mod_lt a (by decide)) (by cases w <;> decide))
    (runData (a % 128) (v % 2 ^ (8 * widthSize w)))
  refine ⟨⟨_, _, hput⟩, fun q => (hput.seen q).trans ?_⟩
  have hmask : bitAt (runMask (a % 128) (widthSize w)) (q % 128) = covers (a % 128) (widthSize w) (q % 128) := by
    rw [bitAt_runMask, Bool.eq_iff_iff, decide_eq_true_eq, covers_iff]
    omega
  have hcov := covers_line ha q
  by_cases hc : covers a (widthSize w) q = true
  · obtain ⟨hq, hin⟩ := hcov.mp hc
    obtain ⟨h1, h2⟩ := covers_iff.mp hin
    have hle := (covers_iff.mp hc).1
    rw [if_pos hc, if_pos ⟨hq.symm, hmask.trans hin⟩, lineGet_runData_cut h1 h2 (Nat.mod_lt q (by decide)), show q % 128 - a % 128 = q - a by omega]
  · rw [if_neg hc, if_neg (fun h => hc (hcov.mpr ⟨h.1.symm, hmask.symm.trans h.2⟩))]

end

end Sys2Proof.Machine
end

section
/-! SUPPORT. Plain stores that bypass L1 (10_memory.md R256, 11_ordering.md R281, 12_memory_instr.md R312 to R314). -/

namespace Sys2Proof.Machine

theorem State.OnlyTold.trans {s t u : State} (h : s.OnlyTold t) (k : t.OnlyTold u) : s.OnlyTold u := fun c => by
  conv_lhs => rw [k c, h c]

theorem State.PutAt.core {s u : State} {d line : Nat} {mask : BitVec 128} {data : BitVec 1024} (h : s.PutAt u d line mask data) (k : Nat) :
    u.core k = s.core k := by
  rw [h.rest]
  rfl

/-- Lanes have passed an instruction in a state whose warps are those of another, listed in another way. -/
theorem State.finishLanes_passed_relisted {s u : State} (hcur : u.cur = s.cur) (hw : ∀ k, u.warp k = s.warp k) (n : Stall) (len lat : Nat) (k : Nat × Nat) :
    State.Given { u with warps := s.warps } (u.finishLanes s.cur.warp len lat n.toNat k (s.execLanes.map (fun i => (i, {})))) n len (fun _ => {}) := by
  have hg := State.finishLanes_passed_alike (s := { u with warps := s.warps }) (u := u) ⟨rfl, hw⟩ n len lat k
  have he : State.execLanes { u with warps := s.warps } = s.execLanes := by
    unfold State.execLanes State.warp
    rw [hcur]
  rw [he] at hg
  rw [← hcur]
  exact hg

/-! ## Stores one after another at L2 -/

/-- Nothing differs but what writes at the L2 of a die change, and how the warps are listed. -/
structure State.L2Only (s u : State) (d : Nat) : Prop where
  rest : u = { s with warps := u.warps, cmdQueues := u.cmdQueues
                      mem := { s.mem with l2 := u.mem.l2, strait := u.mem.strait, toSlice := u.mem.toSlice, unseen := u.mem.unseen } }
  warp : ∀ k, u.warp k = s.warp k
  told : s.OnlyTold u
  held : ∀ k, (s.mem.line? d k).isSome = true → (u.mem.line? d k).isSome = true

theorem State.Alike.l2Only {s u : State} (h : s.Alike u) (d : Nat) : s.L2Only u d := by
  refine ⟨?_, h.warp, fun k => ?_, fun k hk => ?_⟩
  · conv_lhs => rw [h.rest]
    rw [h.rest]
  · rw [h.rest]
    rfl
  · rw [h.rest]
    exact hk

theorem State.L2Only.put {s u v : State} {d line : Nat} {mask : BitVec 128} {data : BitVec 1024} (h : s.L2Only u d) (hp : u.PutAt v d line mask data) :
    s.L2Only v d := by
  refine ⟨?_, fun k => ?_, h.told.trans hp.told, fun k hk => hp.held k (h.held k hk)⟩
  · conv_lhs => rw [hp.rest, h.rest]
    rw [show v.warps = u.warps by rw [hp.rest]]
  · rw [show v.warp k = u.warp k by rw [hp.rest]; rfl]
    exact h.warp k

/-- A write that bypasses L1, of a line that L1 does not hold. -/
theorem State.laneWrite_bypass {s : State} {m : Master} {c a n v : Nat} {d line : Nat} {mask : BitVec 128} {data : BitVec 1024}
    (hp : s.PutAt (s.l2Write m a n v) d line mask data) (hl : (s.core c).l1? (a / 128) = none) :
    s.laneWrite m c a n v .l2only false = s.l2Write m a n v := by
  unfold State.laneWrite
  simp only [Bool.false_eq_true, if_false, hp.core, hl]

section
variable {s : State} {n : Stall} {d a : Src} {w : Width} {x : MemExt} {pa : Nat → Nat}

/-- A store that bypasses L1 is a write at L2. -/
theorem State.storeMem_bypass (hsem : x.sem = .plain) (hcache : x.cache = .l2only) (hreach : s.LanesReach a x (widthSize w) .write pa)
    (hg : s.mem.granules = [])
    (hplace : ∀ i ∈ s.execLanes, (s.core (coreOf s.cur.warp)).l1? (canonPa (pa i) / 128) = none ∧ homeOf (canonPa (pa i)) = warpDie s.cur.warp ∧
      (s.mem.line? (warpDie s.cur.warp) (canonPa (pa i) / 128)).isSome = true)
    {u : State} (hu : s.L2Only u (warpDie s.cur.warp)) {j : Nat} (hj : j ∈ s.execLanes) :
    s.L2Only (s.storeMem d w x u (j, pa j)) (warpDie s.cur.warp) ∧
      ∀ b, (s.storeMem d w x u (j, pa j)).mem.look (warpDie s.cur.warp) b = if covers (canonPa (pa j)) (widthSize w) b
        then BitVec.ofNat 8 (stored (s.view j) 1 d w / 2 ^ (8 * (b - canonPa (pa j)))) else u.mem.look (warpDie s.cur.warp) b := by
  obtain ⟨-, -, halign, -, -, hq, hsound, -, htr⟩ := hreach.2 j hj
  obtain ⟨hl1, hhome, hl2⟩ := hplace j hj
  obtain ⟨⟨mask, data, hput⟩, hseen⟩ := State.l2Write_at (s := u) (m := (s.laneMaster s.cur.warp x).by s.cur.warp j) (v := stored (s.view j) 1 d w)
    halign (by rw [hu.rest]; exact hg) (by rw [hu.rest]; exact hsound) (State.trackWrite_same (htr rfl) (by rw [hu.rest])) hhome (hu.held _ hl2)
  have hst : s.storeMem d w x u (j, pa j) =
      u.l2Write ((s.laneMaster s.cur.warp x).by s.cur.warp j) (canonPa (pa j)) (widthSize w) (stored (s.view j) 1 d w) := by
    rw [State.storeMem, State.stOne_plain hsem hq, hcache]
    exact State.laneWrite_bypass hput (by rw [show u.core _ = s.core _ by rw [hu.rest]; rfl]; exact hl1)
  rw [hst]
  exact ⟨hu.put hput, hseen⟩

/-- Plain stores that bypass L1: what their die then sees. -/
theorem st_bypass (hc : s.Clear (srcRes a ++ storedRes d w)) (hsem : x.sem = .plain) (hcache : x.cache = .l2only)
    (hreach : s.LanesReach a x (widthSize w) .write pa) (hg : s.mem.granules = [])
    (hplace : ∀ i ∈ s.execLanes, (s.core (coreOf s.cur.warp)).l1? (canonPa (pa i) / 128) = none ∧ homeOf (canonPa (pa i)) = warpDie s.cur.warp ∧
      (s.mem.line? (warpDie s.cur.warp) (canonPa (pa i) / 128)).isSome = true) :
    ∃ u t, exec (.st n d a w x) s = .next t ∧ s.L2Only u (warpDie s.cur.warp) ∧ State.Given { u with warps := s.warps } t n 8 (fun _ => {}) ∧
      ∀ b, u.mem.look (warpDie s.cur.warp) b = ((s.execLanes.filter (fun i => covers (canonPa (pa i)) (widthSize w) b)).getLast?).elim
        (s.mem.look (warpDie s.cur.warp) b) (fun i => BitVec.ofNat 8 (stored (s.view i) 1 d w / 2 ^ (8 * (b - canonPa (pa i))))) := by
  have hx : exec (.st n d a w x) s = execSt n d a w x s := rfl
  obtain ⟨u0, hu0, hP, hm⟩ := memOp_folds hc (reads := fun _ => srcRes a ++ storedRes d w) (fun _ _ _ h => h) hreach n 8 0 (.inl rfl)
    (perform := fun t i p => (t.stOne ((s.laneMaster s.cur.warp x).by s.cur.warp i) (coreOf s.cur.warp) x (widthSize w) p (stored (s.view i) 1 d w), some {}))
    (P := fun u => s.L2Only u (warpDie s.cur.warp)) (upd := s.storeMem d w x) (r := fun _ => {}) (fun u hu => hu.l2Only _) (.inl rfl)
    (fun u hu j hj => ⟨rfl, (State.storeMem_bypass hsem hcache hreach hg hplace hu hj).1⟩)
  generalize hv : (s.execLanes.map (fun j => (j, pa j))).foldl (s.storeMem d w x) u0 = v at hP hm
  have hcur : v.cur = s.cur := by rw [hP.rest]
  refine ⟨v, _, hx.trans hm, hP, ?_, fun b => ?_⟩
  · exact State.finishLanes_passed_relisted hcur hP.warp n 8 0 (1, 1)
  · have hfirst : s.mem.look (warpDie s.cur.warp) b = u0.mem.look (warpDie s.cur.warp) b := by rw [hu0.rest]
    rw [hfirst, ← hv]
    exact foldl_lanes_last (P := fun u => s.L2Only u (warpDie s.cur.warp)) (get := fun u => u.mem.look (warpDie s.cur.warp) b)
      (cov := fun i => covers (canonPa (pa i)) (widthSize w) b) pa s.execLanes u0 (hu0.l2Only _)
      (fun u hu j hj => ⟨(State.storeMem_bypass (d := d) hsem hcache hreach hg hplace hu hj).1,
        (State.storeMem_bypass hsem hcache hreach hg hplace hu hj).2 b⟩)

end

end Sys2Proof.Machine
end

section
/-! SUPPORT. Releases of a core whose L1 holds one line, a dirty one: the line is written at L2, and then the epoch closes (11_ordering.md R286,
R287, R290, R293). -/

namespace Sys2Proof.Machine

/-! ## What is known of unseen bytes alone -/

/-- Nothing changes but what is recorded of bytes that the host does not see. -/
def State.Hushed (s u : State) : Prop := u = { s with mem := { s.mem with unseen := u.mem.unseen } }

theorem State.Hushed.refl (s : State) : s.Hushed s := rfl

theorem State.Hushed.trans {s t u : State} (h : s.Hushed t) (k : t.Hushed u) : s.Hushed u := by
  rw [State.Hushed]
  conv_lhs => rw [show u = _ from k, show t = _ from h]

theorem State.tellWho_hushed {s : State} {c : Nat} (h : (s.core c).l1.all (fun p => p.2.who.isEmpty) = true) (f : Wrote → Wrote) :
    s.Hushed (s.tellWho c f) := by
  have hun : s.Hushed (if s.mem.unseen.isEmpty then s
      else s.updMem (fun x => { x with unseen := x.unseen.map (fun u => { u with w := f u.w }) })) := by split <;> rfl
  unfold State.tellWho
  dsimp only
  generalize (if s.mem.unseen.isEmpty then s
    else s.updMem (fun x => { x with unseen := x.unseen.map (fun u => { u with w := f u.w }) })) = s1 at hun ⊢
  have hcore : s1.core c = s.core c := by rw [hun]; rfl
  rw [hcore, h, if_pos rfl]
  exact hun

theorem State.released_hushed (s : State) (m : Master) (sc : Scope) : s.Hushed (s.released m sc) := by
  unfold State.released
  split
  · split <;> rfl
  · rfl

/-! ## Lines that L1 does not hold -/

theorem SMap.del_missing {α : Type} {m : SMap α} {k : Nat} (h : SMap.find? m k = none) : SMap.del m k = m := by
  induction m with
  | nil => rfl
  | cons p r ih =>
    obtain ⟨j, v⟩ := p
    unfold SMap.find? at h
    unfold SMap.del
    by_cases hj : j = k
    · rw [if_pos hj] at h
      exact absurd h (Option.some_ne_none v)
    · rw [if_neg hj] at h
      rw [if_neg (Ne.symm hj), ih h]

/-- Only the list of the cores differs, not what any core is. -/
def State.Recored (s u : State) : Prop := u = { s with cores := u.cores } ∧ ∀ k, u.core k = s.core k

theorem State.l1Drop_missing {s : State} {c line : Nat} (hu : s.mem.upsets = []) (h : (s.core c).l1? line = none) (d : Nat) :
    s.Recored (s.l1Drop d c line) := by
  have hclean : s.l1Clean d c line = s := by rw [State.l1Clean, h]
  have hclear : ∀ p, s.mem.clear p = s.mem := fun p => by rw [Mem.clear, hu]; rfl
  have he : s.l1Drop d c line = s.updCore c (fun k => { k with l1 := k.l1.del line }) := by
    unfold State.l1Drop
    rw [hclean]
    exact State.updMem_same (s.updCore c _) (hclear _)
  rw [he]
  refine ⟨rfl, fun k => ?_⟩
  rw [State.core_updCore]
  split
  · rename_i hk
    subst hk
    rw [SMap.del_missing h]
  · rfl

/-! ## A dirty line is written -/

/-- A line of L1 that has been written back. -/
def L1Line.cleaned (l : L1Line) : L1Line := { l with dirty := 0, lid := none, who := [] }

/-- L1 of a core holds one line, a dirty one, whose home is a die and which the L2 of the die holds. -/
structure State.OneDirty (s : State) (d c line : Nat) (l : L1Line) : Prop where
  sound : s.mem.Sound
  gran : s.mem.granules = []
  l1 : (s.core c).l1 = [(line, l)]
  dirty : l.dirty ≠ 0
  home : homeOf (128 * line) = d
  held : (s.mem.line? d line).isSome = true

theorem State.foldl_hide (who : List Wrote) (s : State) (ts : SMap (List (Option Nat))) (us : List Unseen) (line : Nat) :
    ∃ vs, who.foldl (fun s x => s.updMem (fun y => y.hide s.onDie line x)) (s.beside ts us) = s.beside ts vs := by
  induction who generalizing us with
  | nil => exact ⟨us, rfl⟩
  | cons x r ih =>
    obtain ⟨vs, hvs⟩ := (s.beside ts us).mem.hide_unseen s.onDie line x
    obtain ⟨ws, hws⟩ := ih vs
    refine ⟨ws, ?_⟩
    rw [List.foldl_cons, ← hws]
    exact congrArg (fun m => List.foldl _ ({ s with mem := m } : State) r) hvs

section
variable {s : State} {d c line : Nat} {l : L1Line}

theorem State.OneDirty.find (h : s.OneDirty d c line l) (k : Nat) : (s.core c).l1? k = if line = k then some l else none := by
  rw [Core.l1?, h.l1]
  rfl

/-- The dirty bytes are written at L2, and the line is clean. -/
theorem State.OneDirty.l1Clean (h : s.OneDirty d c line l) :
    ∃ v, s.PutAt v d line l.dirty l.data ∧ s.l1Clean d c line = v.putL1 c line l.cleaned := by
  obtain ⟨ts, hts⟩ := s.ferryLine_out (l.master d c) (128 * line)
  have hmend := State.mendSectors_sound (s := s.beside ts s.mem.unseen) h.sound line l.dirty
  obtain ⟨us, hus⟩ := State.foldl_hide l.who s ts s.mem.unseen line
  have hin : (s.beside ts us).l2In (l.master d c) line true = s.beside ts us :=
    State.updMem_same _ (Mem.l2In_held (m := (s.beside ts us).mem) (q := l.master d c) h.held true)
  have hlost : s.mem.l1Bad c line l.dirty = [] := by rw [Mem.l1Bad, h.sound.2.2]; rfl
  have hput := State.putAt_told (q := l.master d c) h.gran h.home h.held h.dirty l.data ts us (inLine line l.dirty)
  have hclear : ((s.beside ts us).updMem (fun m => (m.put (l.master d c) line l.dirty l.data).clear (fun u => false))) =
      (s.beside ts us).updMem (fun m => m.put (l.master d c) line l.dirty l.data) := by
    have hup := congrArg (fun u => u.mem.upsets) hput.rest
    rw [State.tellQueues_only] at hup
    refine congrArg (fun m => ({ s with mem := m } : State)) (?_ : Mem.clear _ _ = _)
    rw [Mem.clear, show (Mem.put _ (l.master d c) line l.dirty l.data).upsets = [] from hup.trans h.sound.2.2]
    rfl
  refine ⟨_, hput, ?_⟩
  unfold State.l1Clean
  simp only [h.find, if_true, if_neg h.dirty, hlost, List.any_nil, List.foldl_nil, hts, hmend,
    State.foldl_syncTouch_none (s := s.beside ts s.mem.unseen) h.gran, hus, hin, hclear]
  rfl

end

/-- The one line of a core's L1 has been written back; far: the epoch of its die has closed since. -/
structure State.ReleasedAt (s u : State) (d c line : Nat) (l : L1Line) (far : Bool) (outs : List Out) : Prop where
  rest : u = { s with cores := u.cores, cmdQueues := u.cmdQueues, outs := outs
                      mem := { s.mem with l2 := u.mem.l2, strait := u.mem.strait, toSlice := u.mem.toSlice, unseen := u.mem.unseen,
                                          e0 := u.mem.e0, e1 := u.mem.e1 } }
  told : s.OnlyTold u
  l1 : (u.core c).l1 = [(line, l.cleaned)]
  others : ∀ k, k ≠ c → u.core k = s.core k
  held : ∀ k, (s.mem.line? d k).isSome = true → (u.mem.line? d k).isSome = true
  epoch : ∀ e < 2, u.mem.epoch e = s.mem.epoch e + if far = true ∧ e = d then 1 else 0
  sent : ∃ g, u.mem.strait = s.mem.strait ++ [g] ∧ g.src = d ∧ g.line = line ∧ g.k = s.mem.epoch d ∧ g.rec_ = 0
  seen : ∀ q, u.mem.look d q = if q / 128 = line ∧ bitAt l.dirty (q % 128) = true then lineGet l.data (q % 128) else s.mem.look d q

section
variable {s u : State} {d c line : Nat} {l : L1Line} {far : Bool} {outs : List Out}

theorem State.OneDirty.l1Release (h : s.OneDirty d c line l) : s.ReleasedAt (s.l1Release d c) d c line l false s.outs := by
  obtain ⟨v, hv, he⟩ := h.l1Clean
  have hr : s.l1Release d c = v.putL1 c line l.cleaned := by
    unfold State.l1Release
    rw [h.l1]
    exact he
  rw [hr]
  refine ⟨?_, hv.told, ?_, fun k hk => ?_, hv.held, fun e _ => ?_, hv.sent, hv.seen⟩
  · have hcores : ∀ cs, ({ v with cores := cs } : State) = { s with
        cores := cs, cmdQueues := v.cmdQueues, outs := s.outs,
        mem := { s.mem with l2 := v.mem.l2, strait := v.mem.strait, toSlice := v.mem.toSlice, unseen := v.mem.unseen, e0 := v.mem.e0, e1 := v.mem.e1 } } :=
      fun cs => by rw [hv.rest]
    exact hcores _
  · rw [State.putL1, State.core_updCore_same, hv.core, h.l1]
    dsimp only
    rw [SMap.set, if_neg (Nat.lt_irrefl line), if_pos rfl]
  · rw [State.putL1, State.core_updCore, if_neg (Ne.symm hk), hv.core]
  · rw [if_neg (fun h => Bool.false_ne_true h.1), Nat.add_zero]
    change v.mem.epoch e = _
    rw [hv.rest]
    rfl

theorem State.ReleasedAt.bump (h : s.ReleasedAt u d c line l false outs) (hd : d < 2) :
    s.ReleasedAt (u.updMem (fun m => m.bump d)) d c line l true outs := by
  have hrest : u.mem.bump d = { u.mem with e0 := (u.mem.bump d).e0, e1 := (u.mem.bump d).e1 } := by unfold Mem.bump; split <;> rfl
  refine ⟨?_, h.told, h.l1, h.others, fun k hk => ?_, fun e he => ?_, ?_, fun q => (u.mem.look_bump d d q).trans (h.seen q)⟩
  · have hepochs : ∀ a b, ({ u with mem := { u.mem with e0 := a, e1 := b } } : State) =
        { s with cores := u.cores, cmdQueues := u.cmdQueues, outs := outs,
                 mem := { s.mem with l2 := u.mem.l2, strait := u.mem.strait, toSlice := u.mem.toSlice, unseen := u.mem.unseen, e0 := a, e1 := b } } :=
      fun a b => by rw [h.rest]
    have hstate : u.updMem (fun m => m.bump d) = { u with mem := { u.mem with e0 := (u.mem.bump d).e0, e1 := (u.mem.bump d).e1 } } :=
      congrArg (fun m => ({ u with mem := m } : State)) hrest
    rw [hstate]
    exact hepochs _ _
  · rw [Mem.line?, show (u.updMem (fun m => m.bump d)).mem.l2 = u.mem.l2 from u.mem.bump_l2 d]
    exact h.held k hk
  · have hep := h.epoch e he
    rw [if_neg (fun h => Bool.false_ne_true h.1), Nat.add_zero] at hep
    simp only [true_and, ← hep]
    exact u.mem.epoch_bump hd he
  · rw [show (u.updMem (fun m => m.bump d)).mem.strait = u.mem.strait from congrArg (fun m => m.strait) hrest]
    exact h.sent

theorem State.ReleasedAt.hushed {v : State} (h : s.ReleasedAt u d c line l far outs) (hv : u.Hushed v) : s.ReleasedAt v d c line l far outs := by
  rw [show v = _ from hv]
  refine ⟨?_, h.told, h.l1, h.others, h.held, h.epoch, h.sent, h.seen⟩
  conv_lhs => rw [h.rest]

theorem State.ReleasedAt.marked (h : s.ReleasedAt u d c line l far outs) (m : Master) :
    s.ReleasedAt (u.marked m) d c line l far (outs ++ [.release m.agent]) := by
  refine ⟨?_, h.told, h.l1, h.others, h.held, h.epoch, h.sent, h.seen⟩
  unfold State.marked
  conv_lhs => rw [h.rest]

/-- A release at cluster scope or wider. -/
theorem State.OneDirty.releaseBy {m : Master} (h : s.OneDirty m.die c line l) (hd : m.die < 2) {sc : Scope} (hw : scopeWide sc = true) :
    s.ReleasedAt (s.releaseBy m c sc) m.die c line l (scopeFar sc) (if sc = .system then s.outs ++ [.release m.agent] else s.outs) := by
  have hfar : s.ReleasedAt (if scopeFar sc then (s.l1Release m.die c).updMem (fun x => x.bump m.die) else s.l1Release m.die c)
      m.die c line l (scopeFar sc) s.outs := by
    cases scopeFar sc with
    | false => exact h.l1Release
    | true => exact h.l1Release.bump hd
  have hoffer : s.ReleasedAt (s.release m.die c sc m.who) m.die c line l (scopeFar sc) s.outs := by
    unfold State.release
    simp only [hw, if_true]
    split
    · exact hfar.hushed (State.tellWho_hushed (by rw [hfar.l1]; rfl) _)
    · exact hfar
  unfold State.releaseBy
  dsimp only
  split
  · exact hoffer.marked m
  · exact hoffer

end

end Sys2Proof.Machine
end

section
/-! SUPPORT. Stores with release semantics (11_ordering.md R286, R287, R290, 12_memory_instr.md R312). -/

namespace Sys2Proof.Machine

theorem scopeWide_iff (sc : Scope) : scopeWide sc = true ↔ sc ∈ [Scope.cluster, .die, .device, .system] := by cases sc <;> decide
theorem scopeFar_iff (sc : Scope) : scopeFar sc = true ↔ sc ∈ [Scope.device, .system] := by cases sc <;> decide

/-- A store with release semantics is a release, and then a write at L2. -/
theorem State.stOne_release {x : MemExt} (hsem : x.sem = .release) (hwide : scopeWide x.scope = true) {pa : Nat} (hq : quarter pa < 2)
    (s : State) (m : Master) (c n v : Nat) : s.stOne m c x n pa v =
      (((s.releaseBy m c x.scope).l1Drop m.die c (canonPa pa / 128)).l2Write m (canonPa pa) n v).released m x.scope := by
  have hq3 : quarter pa ≠ 3 := by omega
  have hrel : semRel .release = true := rfl
  have hl2 : MemExtAtL2 x = true := by rw [MemExtAtL2, hsem, hwide]; rfl
  unfold State.stOne State.laneWrite
  simp only [hsem, hrel, if_true, if_neg hq3, hl2]

section
variable {s u : State} {m : Master} {d c line : Nat} {l : L1Line} {far : Bool} {outs : List Out}

theorem State.ReleasedAt.find (h : s.ReleasedAt u d c line l far outs) (k : Nat) : (u.core c).l1? k = if line = k then some l.cleaned else none := by
  rw [Core.l1?, h.l1]
  rfl

theorem State.ReleasedAt.recored {v : State} (h : s.ReleasedAt u d c line l far outs) (hv : u.Recored v) : s.ReleasedAt v d c line l far outs := by
  obtain ⟨hrest, hcore⟩ := hv
  rw [hrest] at hcore ⊢
  refine ⟨?_, h.told, by rw [hcore]; exact h.l1, fun k hk => by rw [hcore]; exact h.others k hk, h.held, h.epoch, h.sent, h.seen⟩
  conv_lhs => rw [h.rest]

/-- What a store with release semantics leaves: the line written back, its own bytes written, and both writes on their way to the other
die. -/
structure State.StoredAt (s u : State) (d c line own : Nat) (l : L1Line) (far : Bool) (outs : List Out) (cov : Nat → Bool) (val : Nat → Byte) :
    Prop where
  rest : u = { s with cores := u.cores, cmdQueues := u.cmdQueues, outs := outs
                      mem := { s.mem with l2 := u.mem.l2, strait := u.mem.strait, toSlice := u.mem.toSlice, unseen := u.mem.unseen,
                                          e0 := u.mem.e0, e1 := u.mem.e1 } }
  told : s.OnlyTold u
  l1 : (u.core c).l1 = [(line, l.cleaned)]
  others : ∀ k, k ≠ c → u.core k = s.core k
  epoch : ∀ e < 2, u.mem.epoch e = s.mem.epoch e + if far = true ∧ e = d then 1 else 0
  sent : ∃ g h, u.mem.strait = s.mem.strait ++ [g, h] ∧ (g.src = d ∧ g.line = line ∧ g.k = s.mem.epoch d) ∧
    h.src = d ∧ h.line = own ∧ h.k = u.mem.epoch d
  seen : ∀ q, u.mem.look d q = if cov q then val q else if q / 128 = line ∧ bitAt l.dirty (q % 128) = true then lineGet l.data (q % 128) else s.mem.look d q

theorem State.ReleasedAt.put {v : State} {own : Nat} {mask : BitVec 128} {data : BitVec 1024} {cov : Nat → Bool} {val : Nat → Byte}
    (h : s.ReleasedAt u d c line l far outs) (hp : u.PutAt v d own mask data)
    (hseen : ∀ q, v.mem.look d q = if cov q then val q else u.mem.look d q) : s.StoredAt v d c line own l far outs cov val := by
  have hepoch : ∀ e, v.mem.epoch e = u.mem.epoch e := fun e => by rw [hp.rest]; rfl
  obtain ⟨g, hg, hgsrc, hgline, hgk, -⟩ := h.sent
  obtain ⟨y, hy, hysrc, hyline, hyk, -⟩ := hp.sent
  refine ⟨?_, h.told.trans hp.told, by rw [hp.core, h.l1], fun k hk => by rw [hp.core, h.others k hk],
    fun e he => (hepoch e).trans (h.epoch e he), ⟨g, y, ?_, ⟨hgsrc, hgline, hgk⟩, hysrc, hyline, hyk.trans (hepoch d).symm⟩,
    fun q => (hseen q).trans (by rw [h.seen])⟩
  · conv_lhs => rw [hp.rest, h.rest]
    rw [show v.cores = u.cores by rw [hp.rest], show v.mem.e0 = u.mem.e0 by rw [hp.rest], show v.mem.e1 = u.mem.e1 by rw [hp.rest]]
  · rw [hy, hg, List.append_assoc]
    rfl

theorem State.StoredAt.hushed {v : State} {own : Nat} {cov : Nat → Bool} {val : Nat → Byte} (h : s.StoredAt u d c line own l far outs cov val)
    (hv : u.Hushed v) : s.StoredAt v d c line own l far outs cov val := by
  rw [show v = _ from hv]
  refine ⟨?_, h.told, h.l1, h.others, h.epoch, h.sent, h.seen⟩
  conv_lhs => rw [h.rest]

/-- A store with release semantics at cluster scope or wider. -/
theorem State.OneDirty.stOne {x : MemExt} {pa v : Nat} {w : Width} (h : s.OneDirty m.die c line l) (hd : m.die < 2) (hsem : x.sem = .release)
    (hwide : scopeWide x.scope = true) (hq : quarter pa < 2) (halign : canonPa pa % widthSize w = 0) (htr : s.trackWrite m.lid (canonPa pa) = s)
    (hhome : homeOf (canonPa pa) = m.die) (hne : canonPa pa / 128 ≠ line) (hl2 : (s.mem.line? m.die (canonPa pa / 128)).isSome = true) :
    s.StoredAt (s.stOne m c x (widthSize w) pa v) m.die c line (canonPa pa / 128) l (scopeFar x.scope)
      (if x.scope = .system then s.outs ++ [.release m.agent] else s.outs)
      (fun q => covers (canonPa pa) (widthSize w) q) (fun q => BitVec.ofNat 8 (v / 2 ^ (8 * (q - canonPa pa)))) := by
  have hr := h.releaseBy hd hwide
  have hsound : (s.releaseBy m c x.scope).mem.Sound := by rw [hr.rest]; exact h.sound
  have hrec := State.l1Drop_missing hsound.2.2 (by rw [hr.find, if_neg (Ne.symm hne)]) m.die (c := c) (line := canonPa pa / 128)
  have hr2 := hr.recored hrec
  rw [State.stOne_release hsem hwide hq]
  generalize (s.releaseBy m c x.scope).l1Drop m.die c (canonPa pa / 128) = u at hr2 ⊢
  obtain ⟨⟨mask, data, hput⟩, hseen⟩ := State.l2Write_at (s := u) (m := m) (v := v) halign (by rw [hr2.rest]; exact h.gran)
    (by rw [hr2.rest]; exact h.sound) (State.trackWrite_same htr (by rw [hr2.rest])) hhome (hr2.held _ hl2)
  exact (hr2.put hput hseen).hushed (State.released_hushed _ _ _)

end

end Sys2Proof.Machine
end

section
/-! SUPPORT. An atomic at an engine that holds no granule: the granule that it takes in, and what the home die of the granule sees
(11_ordering.md R296, 12_memory_instr.md R317). -/

namespace Sys2Proof.Machine

/-! ## Bytes of a granule's value -/

/-- Byte k of a granule's value. -/
def granuleByte (v : Word64) (k : Nat) : Byte := v.extractLsb' (8 * k) 8

/-- A granule's value with the n bytes of an operand at an address put into it. -/
def granulePut (v : Word64) (a n : Nat) (x : Word64) : Word64 :=
  (v &&& ~~~((BitVec.ofNat 64 (2 ^ (8 * n) - 1) : Word64) <<< (8 * (a % 8)))) ||| (BitVec.ofNat 64 (x.toNat % 2 ^ (8 * n)) <<< (8 * (a % 8)))

theorem bitAt_granuleByte (v : Word64) (k : Nat) {i : Nat} (hi : i < 8) : bitAt (granuleByte v k) i = bitAt v (8 * k + i) := by
  rw [granuleByte, bitAt, BitVec.getLsbD_extractLsb', decide_eq_true hi, Bool.true_and]
  rfl

theorem granuleByte_ofNat (z : Nat) {k : Nat} (hk : k < 8) : granuleByte (BitVec.ofNat 64 z) k = BitVec.ofNat 8 (z / 2 ^ (8 * k)) := by
  refine word_ext fun i hi => ?_
  rw [bitAt_granuleByte _ _ hi, bitAt_ofNat, bitAt_ofNat, Nat.testBit_div_two_pow, decide_eq_true hi, decide_eq_true (by omega : 8 * k + i < 64),
    Nat.add_comm]

/-- A byte of a granule after an operand is put into it. -/
theorem granuleByte_put (v x : Word64) {a n k : Nat} (hk : k < 8) :
    granuleByte (granulePut v a n x) k =
      if a % 8 ≤ k ∧ k < a % 8 + n then BitVec.ofNat 8 (x.toNat / 2 ^ (8 * (k - a % 8))) else granuleByte v k := by
  refine word_ext fun i hi => ?_
  have hmask : bitAt ((BitVec.ofNat 64 (2 ^ (8 * n) - 1) : Word64) <<< (8 * (a % 8))) (8 * k + i) = decide (a % 8 ≤ k ∧ k < a % 8 + n) := by
    rw [bitAt_shiftLeft, bitAt_ofNat, Nat.testBit_two_pow_sub_one, ← Bool.decide_and, ← Bool.decide_and, ← Bool.decide_and, decide_eq_decide]
    omega
  have hdata : bitAt ((BitVec.ofNat 64 (x.toNat % 2 ^ (8 * n)) : Word64) <<< (8 * (a % 8))) (8 * k + i) =
      (decide (a % 8 ≤ k ∧ k < a % 8 + n) && x.toNat.testBit (8 * k + i - 8 * (a % 8))) := by
    rw [bitAt_shiftLeft, bitAt_ofNat, Nat.testBit_mod_two_pow, ← Bool.and_assoc, ← Bool.and_assoc, ← Bool.and_assoc, ← Bool.decide_and,
      ← Bool.decide_and, ← Bool.decide_and]
    congr 1
    rw [decide_eq_decide]
    omega
  rw [bitAt_granuleByte _ _ hi, granulePut, bitAt_or, bitAt_and, bitAt_not, hmask, hdata]
  split
  · rename_i hin
    rw [bitAt_ofNat, Nat.testBit_div_two_pow, decide_eq_true hin, decide_eq_true hi, show 8 * k + i - 8 * (a % 8) = i + 8 * (k - a % 8) by omega]
    simp
  · rename_i hin
    rw [bitAt_granuleByte _ _ hi, decide_eq_false hin, decide_eq_true (by omega : 8 * k + i < 64)]
    simp

/-- The operand in a granule is its bytes. -/
theorem granuleGet_eq (v : Word64) {a n : Nat} (hn : a % 8 + n ≤ 8) :
    granuleGet v a n = BitVec.ofNat 64 (ofBytes ((List.range n).map (fun k => granuleByte v (a % 8 + k)))) := by
  have hbytes : (List.range n).map (fun k => granuleByte v (a % 8 + k)) = bytesOf n (v.toNat / 2 ^ (8 * (a % 8))) := by
    refine List.ext_getElem (by rw [List.length_map, List.length_range, length_bytesOf]) fun k hk hk' => ?_
    rw [List.length_map, List.length_range] at hk
    have hb := getD_bytesOf n (v.toNat / 2 ^ (8 * (a % 8))) hk
    rw [List.getD_eq_getElem _ _ hk', Nat.div_div_eq_div_mul, ← pow_add, ← Nat.mul_add] at hb
    rw [List.getElem_map, List.getElem_range, hb, ← granuleByte_ofNat _ (by omega), BitVec.ofNat_toNat, BitVec.setWidth_eq]
  rw [granuleGet, hbytes, ofBytes_bytesOf, show (256 : Nat) = 2 ^ 8 from rfl, ← pow_mul]

/-! ## What a die sees of a granule -/

theorem Mem.granule?_one {m : Mem} {c : Nat} {g : Granule} (h : m.granules = [(c, g)]) (q : Nat) :
    m.granule? q = if c = q / 8 then some g else none := by
  rw [Mem.granule?, h]
  rfl

theorem homeOf_granule {a q : Nat} (h : q / 8 = a / 8) : homeOf q = homeOf a := by
  rw [← homeOf_line q, ← homeOf_line a, show q / 128 = a / 128 by omega]

/-- What the home die of a granule sees once the engine holds it. -/
theorem Mem.look_granule {m m' : Mem} {a : Nat} {g : Granule} (hg : m.granules = []) (hg' : m'.granules = [(a / 8, g)])
    (hs : m'.strait = m.strait) (hl : ∀ e k, (m'.line? e k).map (fun l => l.data) = (m.line? e k).map (fun l => l.data))
    (hst : ∀ o, m'.stackGet o = m.stackGet o) (q : Nat) :
    m'.look (homeOf a) q = if q / 8 = a / 8 then granuleByte g.val (q % 8) else m.look (homeOf a) q := by
  by_cases hq : q / 8 = a / 8
  · rw [if_pos hq, Mem.look, if_pos (homeOf_granule hq), Mem.atHome, Mem.granule?_one hg', if_pos hq.symm]
    rfl
  · rw [if_neg hq]
    refine Mem.look_congr ?_ (fun _ => by rw [Mem.onWay, hs]; rfl) (fun e _ => hl e _) (hst q)
    rw [Mem.granule?_one hg', if_neg (Ne.symm hq), Mem.granule?_of_none hg]

/-- The bytes of a granule as its home die sees them. -/
def Mem.granuleOf (m : Mem) (a : Nat) : Word64 := BitVec.ofNat 64 (ofBytes ((List.range 8).map (fun k => m.under (a / 8 * 8 + k))))

theorem Mem.granuleByte_of {m : Mem} (hg : m.granules = []) {a q : Nat} (hq : q / 8 = a / 8) :
    granuleByte (m.granuleOf a) (q % 8) = m.look (homeOf a) q := by
  have hk : q % 8 < 8 := Nat.mod_lt q (by decide)
  rw [Mem.granuleOf, granuleByte_ofNat _ hk, pow_mul, show (2 : Nat) ^ 8 = 256 from rfl, ofNat_ofBytes, Mem.look_at_home hg (homeOf_granule hq),
    List.getD_eq_getElem _ _ (by rw [List.length_map, List.length_range]; exact hk), List.getElem_map, List.getElem_range,
    show a / 8 * 8 + q % 8 = q by omega]

theorem Mem.lookN_eq (m : Mem) (d a n : Nat) : m.lookN d a n = (List.range n).map (fun k => m.look d (a + k)) := by
  induction n generalizing a with
  | zero => rfl
  | succ n ih =>
    rw [Mem.lookN, ih, List.range_succ_eq_map, List.map_cons, List.map_map]
    simp only [Function.comp_def, Nat.add_zero, Nat.succ_eq_add_one, Nat.add_assoc, Nat.add_comm 1]

/-- The operand of an aligned atomic in the granule that its engine takes in. -/
theorem Mem.granuleGet_of {m : Mem} (hg : m.granules = []) {a n : Nat} (hn : a % 8 + n ≤ 8) :
    granuleGet (m.granuleOf a) a n = BitVec.ofNat 64 (ofBytes (m.lookN (homeOf a) a n)) := by
  rw [granuleGet_eq _ hn, Mem.lookN_eq]
  congr 2
  refine List.map_congr_left fun k hk => ?_
  have hk' := List.mem_range.mp hk
  rw [← Mem.granuleByte_of hg (show (a + k) / 8 = a / 8 by omega), show (a + k) % 8 = a % 8 + k by omega]

/-! ## The engine -/

/-- The engines hold one granule. -/
def Mem.holding (m : Mem) (a : Nat) (g : Granule) : Mem := { m with granules := [(a / 8, g)] }

/-- The engine takes a granule in, where nothing of a tile record is on its way. -/
theorem Mem.grab_fresh {m : Mem} (hg : m.granules = []) (hu : m.upsets = []) (hrec : ∀ g ∈ m.strait, g.rec_ = 0) (a stamp tid part : Nat) :
    ∃ g : Granule, g.val = m.granuleOf a ∧ g.area = none ∧ m.grab a stamp tid part = m.holding a g := by
  have hno : ∀ d, m.strait.any (fun g => decide (g.src = d) && decide (g.line = a / 128) && !decide (g.rec_ = 0)) = false := fun d =>
    List.any_eq_false.mpr fun g hm => by rw [hrec g hm]; simp
  refine ⟨{ val := m.granuleOf a, clk0 := if homeOf a = 0 then m.homeClk (a / 128) else 0, clk1 := if homeOf a = 0 then 0 else m.homeClk (a / 128)
            used := stamp, tid := (((m.line? (homeOf a) (a / 128)).map (fun l => (l.tid, l.part))).getD (tid, part)).1
            part := (((m.line? (homeOf a) (a / 128)).map (fun l => (l.tid, l.part))).getD (tid, part)).2 }, rfl, rfl, ?_⟩
  unfold Mem.grab
  rw [Mem.granule?_of_none hg]
  simp only [hno, Bool.false_eq_true, if_false, hu, List.contains_nil, Mem.clear, List.isEmpty_nil, if_true, Mem.setGranule, hg, SMap.set,
    Mem.holding, Mem.granuleOf]

/-- Nothing of the other die is on its way: an acquire waits for nothing. -/
theorem Mem.acquireAt_own {m : Mem} {d : Nat} (hd : d < 2) (h : ∀ g ∈ m.strait, g.src = d) (a : Nat) : m.acquireAt d a = m := by
  have hdrain : ∀ k, m.drain (1 - d) k = m := fun k => by
    unfold Mem.drain Mem.applyAll
    have hne : ¬ d = 1 - d := by omega
    rw [List.filter_eq_nil_iff.mpr (fun g hg => by rw [h g hg, decide_eq_false hne]; simp)]
    rfl
  unfold Mem.acquireAt
  split
  · exact hdrain _
  · rfl

/-- The tag of a line does not change its bytes. -/
theorem Mem.retagHome_data (m : Mem) (line tid part : Nat) :
    ∃ l2, m.retagHome line tid part = { m with l2 := l2 } ∧
      ∀ e k, (Mem.line? { m with l2 := l2 } e k).map (fun l => l.data) = (m.line? e k).map (fun l => l.data) := by
  unfold Mem.retagHome
  split
  · rename_i l hl
    split
    · exact ⟨m.l2, rfl, fun _ _ => rfl⟩
    · refine ⟨_, rfl, fun e k => ?_⟩
      have hset := m.line?_setLine (homeOf (128 * line)) line e k { l with tid := tid, part := part }
      refine (congrArg (Option.map (fun l => l.data)) hset).trans ?_
      split
      · rename_i hk
        rw [show m.line? e k = some l by rw [Mem.line?, ← hk]; exact hl]
        rfl
      · rfl
  · exact ⟨m.l2, rfl, fun _ _ => rfl⟩

theorem Granule.stamp_val (g : Granule) (d k : Nat) : (g.stamp d k).val = g.val ∧ (g.stamp d k).area = g.area := by
  unfold Granule.stamp
  split <;> exact ⟨rfl, rfl⟩

theorem Granule.retag_val (g : Granule) (tid part : Nat) : (g.retag tid part).val = g.val ∧ (g.retag tid part).area = g.area := by
  unfold Granule.retag
  split <;> exact ⟨rfl, rfl⟩

/-- The value of a granule after an atomic whose new value is given, none for one that writes nothing. -/
def granuleAfter (v : Word64) (a n : Nat) (new : Option Word64) : Word64 := (new.map (granulePut v a n)).getD v

/-- An atomic at an engine that holds no granule. -/
theorem Mem.atomic_fresh_any {m : Mem} {d a : Nat} (hh : homeOf a = d) (hd : d < 2) (hg : m.granules = []) (hu : m.upsets = [])
    (hrec : ∀ g ∈ m.strait, g.src = d ∧ g.rec_ = 0) (stamp : Nat) (op : AtomOp) (b c : Word64) (acq : Bool) (tid part : Nat) :
    ∃ (g : Granule) (l2 : SMap L2Line), m.atomic d a stamp op b c acq tid part =
        ({ m.holding a g with l2 := l2 }, granuleGet (m.granuleOf a) a (atomSize op)) ∧ g.area = none ∧
      g.val = granuleAfter (m.granuleOf a) a (atomSize op) (atomNew op (granuleGet (m.granuleOf a) a (atomSize op)) b c) ∧
      ∀ e k, (Mem.line? { m.holding a g with l2 := l2 } e k).map (fun l => l.data) = (m.line? e k).map (fun l => l.data) := by
  obtain ⟨g, hval, harea, hgrab⟩ := Mem.grab_fresh hg hu (fun g hm => (hrec g hm).2) a stamp tid part
  have hacq : (if acq = true then (m.holding a g).acquireAt d a else m.holding a g) = m.holding a g := by
    rw [Mem.acquireAt_own (m := m.holding a g) hd (fun g hm => (hrec g hm).1), ite_self]
  have hfind : (m.holding a g).granule? a = some g := by rw [Mem.granule?_one (m := m.holding a g) rfl, if_pos rfl]
  unfold Mem.atomic
  simp only [hh, if_true, hgrab, hacq, hfind, hval]
  cases hnew : atomNew op (granuleGet (m.granuleOf a) a (atomSize op)) b c with
  | none => exact ⟨g, m.l2, rfl, harea, hval, fun _ _ => rfl⟩
  | some x =>
    obtain ⟨h1, h2⟩ := Granule.retag_val (({ g with val := granulePut (m.granuleOf a) a (atomSize op) x } : Granule).stamp d (m.epoch d)) tid part
    obtain ⟨h3, h4⟩ := Granule.stamp_val { g with val := granulePut (m.granuleOf a) a (atomSize op) x } d (m.epoch d)
    have hset : ∀ g', (m.holding a g).setGranule a g' = m.holding a g' := fun g' => by
      simp only [Mem.setGranule, Mem.holding, SMap.set, Nat.lt_irrefl, if_false, if_true]
    obtain ⟨l2, hl2, hdata⟩ := (m.holding a ((({ g with val := granulePut (m.granuleOf a) a (atomSize op) x } : Granule).stamp d
      (m.epoch d)).retag tid part)).retagHome_data (a / 128) tid part
    refine ⟨_, l2, ?_, h2.trans (h4.trans harea), h1.trans h3, hdata⟩
    rw [← hl2]
    dsimp only
    rw [hset]
    rfl

end Sys2Proof.Machine
end

section
/-! SUPPORT. An atomic of a lane at an engine that holds no granule, from its checks to what its die then sees (11_ordering.md R296, R298,
12_memory_instr.md R317). -/

namespace Sys2Proof.Machine

/-! ## What an atomic leaves behind its granule -/

/-- Reading bytes of a line that the core's L1 does not hold tells the reader who wrote them, and nothing else. -/
theorem State.observe_hushed {s : State} {c line : Nat} (h : (s.core c).l1? line = none) (m : Master) (mask : BitVec 128) :
    s.Hushed (s.observe m c line mask) := by
  unfold State.observe
  split
  · exact .refl s
  · rename_i a _
    dsimp only
    have hun : s.Hushed (if s.mem.unseen.isEmpty then s
        else s.updMem (fun x => { x with unseen := x.unseen.map (fun u =>
          if u.line = line then { u with w := if u.w.mask &&& mask = 0 then u.w else u.w.seen a } else u) })) := by split <;> rfl
    generalize (if s.mem.unseen.isEmpty then s
      else s.updMem (fun x => { x with unseen := x.unseen.map (fun u =>
        if u.line = line then { u with w := if u.w.mask &&& mask = 0 then u.w else u.w.seen a } else u) })) = s1 at hun ⊢
    have hl1 : (s1.core c).l1.find? line = none := by rw [show s1.core c = s.core c by rw [hun]; rfl]; exact h
    rw [hl1]
    exact hun

/-- An engine that holds one granule has room for it. -/
theorem State.syncUse_alone {s : State} {c : Nat} {g : Granule} (h : s.mem.granules = [(c, g)]) (ha : g.area = none) :
    s.syncUse c = { s with mem := { s.mem with granules := [(c, { g with used := s.clock, area := none, touched := false })] }, clock := s.clock + 1 } := by
  have hfind : s.mem.granules.find? c = some g := by rw [h, SMap.find?, if_pos rfl]
  have hset : ∀ g', s.mem.setGranule (8 * c) g' = { s.mem with granules := [(c, g')] } := fun g' => by
    rw [Mem.setGranule, h, Nat.mul_div_cancel_left c (by decide), SMap.set, if_neg (Nat.lt_irrefl c), if_pos rfl]
  have hroom : ∀ (t : State) (g' : Granule), t.mem.granules = [(c, g')] → t.syncMakeRoom (homeOf (8 * c)) c = t := fun t g' ht => by
    have hlen : ¬ syncRoom < (t.mem.inSram (homeOf (8 * c))).length := by
      have hle := List.length_filter_le (fun p : Nat × Granule => decide (homeOf (8 * p.1) = homeOf (8 * c)) && p.2.area.isNone) t.mem.granules
      rw [ht, List.length_singleton] at hle
      unfold Mem.inSram syncRoom
      rw [ht]
      omega
    unfold State.syncMakeRoom
    simp only [decide_eq_false hlen, Bool.not_false, if_true]
  unfold State.syncUse
  rw [hfind]
  simp only [ha, hset]
  exact hroom _ _ rfl

/-- Nothing differs but the engines' granules, the tag of a line, the requests of a cluster, and what the host sees. -/
def State.AtomicAt (s u : State) : Prop :=
  u = { s with clock := u.clock, cmdQueues := u.cmdQueues
               mem := { s.mem with granules := u.mem.granules, l2 := u.mem.l2, toSlice := u.mem.toSlice, unseen := u.mem.unseen } }

theorem State.AtomicAt.told {s y : State} (h : s.AtomicAt y) (f : Nat → Bool) : s.AtomicAt (y.tellQueues f) := by
  have hqueues : ∀ qs, ({ y with cmdQueues := qs } : State) =
      { s with clock := y.clock, cmdQueues := qs,
               mem := { s.mem with granules := y.mem.granules, l2 := y.mem.l2, toSlice := y.mem.toSlice, unseen := y.mem.unseen } } :=
    fun qs => by rw [show y = _ from h]
  have ht := y.tellQueues_only f
  generalize y.tellQueues f = z at ht ⊢
  rw [ht]
  exact hqueues _

/-- The new value of an atomic, the old one where it writes nothing (12_memory_instr.md R317). -/
def atomValue (op : AtomOp) (old b c : Word64) : Word64 := (atomNew op old b c).getD old

theorem atomSize_fits {op : AtomOp} {a : Nat} (h : a % atomSize op = 0) : a % 8 + atomSize op ≤ 8 ∧ 0 < atomSize op := by
  cases op <;> simp only [atomSize] at h ⊢ <;> omega

/-- A few bytes make a 64-bit value. -/
theorem ofBytes_lookN_lt (m : Mem) (d a : Nat) {n : Nat} (hn : n ≤ 8) : ofBytes (m.lookN d a n) < 2 ^ 64 := by
  have hlt := ofBytes_lt (m.lookN d a n)
  rw [length_lookN] at hlt
  exact hlt.trans_le (by rw [show (256 : Nat) = 2 ^ 8 from rfl, ← pow_mul]; exact Nat.pow_le_pow_right (by decide) (by omega))

/-- What the home die of a granule sees after an atomic there. -/
theorem granuleAfter_seen {m : Mem} (hg : m.granules = []) {op : AtomOp} {a : Nat} (ha : a % atomSize op = 0) (b c : Word64) {q : Nat} (hq : q / 8 = a / 8) :
    let old := BitVec.ofNat 64 (ofBytes (m.lookN (homeOf a) a (atomSize op)))
    granuleByte (granuleAfter (m.granuleOf a) a (atomSize op) (atomNew op old b c)) (q % 8) =
      if covers a (atomSize op) q then BitVec.ofNat 8 ((atomValue op old b c).toNat / 2 ^ (8 * (q - a))) else m.look (homeOf a) q := by
  obtain ⟨hfit, -⟩ := atomSize_fits ha
  have hcov : covers a (atomSize op) q = true ↔ a % 8 ≤ q % 8 ∧ q % 8 < a % 8 + atomSize op := by
    rw [covers_iff]
    omega
  dsimp only
  cases hnew : atomNew op (BitVec.ofNat 64 (ofBytes (m.lookN (homeOf a) a (atomSize op)))) b c with
  | some x =>
    rw [granuleAfter, Option.map_some, Option.getD_some, granuleByte_put _ _ (Nat.mod_lt q (by decide)), atomValue, hnew, Option.getD_some,
      m.granuleByte_of hg hq]
    by_cases hc : covers a (atomSize op) q = true
    · rw [if_pos hc, if_pos (hcov.mp hc), show q % 8 - a % 8 = q - a by have := covers_iff.mp hc; omega]
    · rw [if_neg hc, if_neg (fun h => hc (hcov.mpr h))]
  | none =>
    rw [granuleAfter, Option.map_none, Option.getD_none, m.granuleByte_of hg hq, atomValue, hnew, Option.getD_none]
    split
    · rename_i hc
      obtain ⟨h1, h2⟩ := covers_iff.mp hc
      have h64 := ofBytes_lookN_lt m (homeOf a) a (n := atomSize op) (by omega)
      rw [BitVec.toNat_ofNat, Nat.mod_eq_of_lt h64, pow_mul, show (2 : Nat) ^ 8 = 256 from rfl, ofNat_ofBytes, Mem.lookN_eq,
        List.getD_eq_getElem _ _ (by rw [List.length_map, List.length_range]; omega), List.getElem_map, List.getElem_range,
        Nat.add_sub_cancel' h1]
    · rfl

section
variable {s : State} {m : Master} {a : Nat} {op : AtomOp}

/-- An atomic of a lane on the home die of its line, at an engine that holds no granule. -/
theorem State.atomic_fresh (hg : s.mem.granules = []) (hsound : s.mem.Sound) (hheld : s.mem.held = []) (hd : m.die < 2)
    (hrec : ∀ g ∈ s.mem.strait, g.src = m.die ∧ g.rec_ = 0) (htr : s.trackRead m.lid a = s) (htw : s.trackWrite m.lid a = s)
    (hhome : homeOf a = m.die) (hl2 : (s.mem.line? m.die (a / 128)).isSome = true) (ha : a % atomSize op = 0)
    (hl1 : (s.core m.code).l1? (a / 128) = none) (b c : Word64) (acq : Bool) :
    let old := BitVec.ofNat 64 (ofBytes (s.mem.lookN m.die a (atomSize op)))
    ∃ u, s.atomic m a op b c acq = (u, some old) ∧ s.AtomicAt u ∧
      ∀ q, u.mem.look m.die q = if covers a (atomSize op) q then BitVec.ofNat 8 ((atomValue op old b c).toNat / 2 ^ (8 * (q - a)))
        else s.mem.look m.die q := by
  obtain ⟨hfit, -⟩ := atomSize_fits ha
  have hmeet : ∀ x, s.meetUnit x m = (s, false) := fun x => by rw [State.meetUnit, hsound.2.2]; rfl
  obtain ⟨ts, hts⟩ := s.ferryLine_out m a
  obtain ⟨us, hus⟩ : ∃ us, (s.beside ts s.mem.unseen).observe m m.code (a / 128) (runMask (a % 128) (atomSize op)) = s.beside ts us :=
    ⟨_, State.observe_hushed (s := s.beside ts s.mem.unseen) hl1 m _⟩
  have hreq : ∀ q : Master, (s.beside ts us).updMem (fun y => if (y.granule? a).isSome || (y.line? m.die (a / 128)).isSome then y
      else y.request q a (atomSize op) false) = s.beside ts us :=
    fun q => State.updMem_same _ (if_pos ((Bool.or_eq_true _ _).mpr (.inr hl2)))
  have hold : (List.range (atomSize op)).map (fun k => (s.beside ts us).mem.atHome (a + k)) = s.mem.lookN m.die a (atomSize op) := by
    rw [Mem.lookN_eq]
    refine List.map_congr_left fun k hk => ?_
    have hk' := List.mem_range.mp hk
    rw [Mem.look, if_pos (by rw [← hhome]; exact homeOf_granule (by omega))]
    rfl
  obtain ⟨vs, hvs⟩ : ∃ vs, (if (atomNew op (BitVec.ofNat 64 (ofBytes (s.mem.lookN m.die a (atomSize op)))) b c).isSome then
      ((s.beside ts us).trackWrite m.lid a).veil m.who (a / 128) (runMask (a % 128) (atomSize op)) else s.beside ts us) = s.beside ts vs := by
    split
    · rw [State.trackWrite_same (u := s.beside ts us) htw rfl]
      exact s.veil_beside ts us _ _ _
    · exact ⟨us, rfl⟩
  obtain ⟨g, l2, hat, harea, hval, hdata⟩ := Mem.atomic_fresh_any (m := (s.beside ts vs).mem) hhome hd hg hsound.2.2 hrec s.clock op b c acq m.tid m.part
  have hofs : (s.beside ts vs).mem.granuleOf a = s.mem.granuleOf a := rfl
  have hget : granuleGet ((s.beside ts vs).mem.granuleOf a) a (atomSize op) = BitVec.ofNat 64 (ofBytes (s.mem.lookN m.die a (atomSize op))) := by
    rw [hofs, Mem.granuleGet_of hg hfit, hhome]
  rw [hget] at hat hval
  have huse := State.syncUse_alone (s := { s.beside ts vs with mem := { (s.beside ts vs).mem.holding a g with l2 := l2 } }) rfl harea
  generalize hy : ({ s.beside ts vs with mem := { (s.beside ts vs).mem.holding a g with l2 := l2 } } : State).syncUse (a / 8) = y at huse
  have hyat : s.AtomicAt y := by rw [huse]; rfl
  have hyseen : ∀ q, y.mem.look m.die q = if covers a (atomSize op) q
      then BitVec.ofNat 8 ((atomValue op (BitVec.ofNat 64 (ofBytes (s.mem.lookN m.die a (atomSize op)))) b c).toNat / 2 ^ (8 * (q - a)))
      else s.mem.look m.die q := by
    intro q
    rw [← hhome] at hval ⊢
    refine (Mem.look_granule (m := s.mem) (m' := y.mem) hg (by rw [huse]) (by rw [huse]; rfl) (by rw [huse]; exact hdata) (by rw [huse]; exact fun _ => rfl)
      q).trans ?_
    by_cases hq : q / 8 = a / 8
    · rw [if_pos hq]
      exact (congrArg (fun v => granuleByte v (q % 8)) hval).trans (granuleAfter_seen hg ha b c hq)
    · rw [if_neg hq, if_neg (fun h => hq (by have := covers_iff.mp h; omega))]
  have hafter : y.afterAtomic a = y := by
    have hh : y.mem.held = [] := by rw [huse]; exact hheld
    rw [State.afterAtomic, hh]
    rfl
  refine ⟨if (atomNew op (BitVec.ofNat 64 (ofBytes (s.mem.lookN m.die a (atomSize op)))) b c).isSome then
    y.tellQueues (inLine (a / 128) (runMask (a % 128) (atomSize op))) else y, ?_, ?_, ?_⟩
  · unfold State.atomic
    simp only [htr, hmeet, State.meets_sound hsound, Bool.false_eq_true, if_false, hts, hus, hhome, if_true, hreq, hold, hvs, hat, hy, hafter]
  · split
    · exact hyat.told _
    · exact hyat
  · split
    · rw [State.tellQueues_only]
      exact hyseen
    · exact hyseen

end

end Sys2Proof.Machine
end

section
/-! SUPPORT. Atomics and reds with release semantics (11_ordering.md R286, R287, R293, 12_memory_instr.md R317, R318). -/

namespace Sys2Proof.Machine

/-! ## An acquire of a core whose L1 is clean -/

/-- An acquire at cluster scope or wider leaves nothing of a clean L1. -/
theorem State.acquire_clean {s : State} {c : Nat} (h : ∀ p ∈ (s.core c).l1, p.2.dirty = 0) {sc : Scope} (hw : scopeWide sc = true) (d : Nat)
    (who : Option Agent) : (s.updCore c (fun k => { k with l1 := [] })).Hushed (s.acquire d c sc who) := by
  have hkeep : keepVals (fun _ l => !decide (l.dirty = 0)) (s.core c).l1 = [] := List.filter_eq_nil_iff.mpr fun p hp => by
    simp only [h p hp, decide_true, Bool.not_true, Bool.false_eq_true, not_false_eq_true]
  have hdrop : s.l1Acquire d c = s.updCore c (fun k => { k with l1 := [] }) := by
    unfold State.l1Acquire State.updCore
    simp only [hkeep]
    rw [show ((s.setCore c { s.core c with l1 := [] }).core c).l1 = [] from congrArg Core.l1 (s.core_updCore_same c (fun k => { k with l1 := [] }))]
    rfl
  unfold State.acquire
  simp only [hw, if_true, hdrop]
  split
  · exact State.tellWho_hushed (by rw [State.core_updCore_same]; rfl) _
  · exact .refl _

/-! ## An atomic that releases and acquires -/

theorem State.atomOne_both {x : MemExt} (hsem : x.sem = .acqRel) {pa : Nat} (hq : quarter pa < 2) (s : State) (m : Master) (c : Nat) (p : AtomOp)
    (b b2 : Word64) {u : State} {old : Option Word64}
    (h : ((s.releaseBy m c x.scope).l1Drop m.die c (canonPa pa / 128)).atomic m (canonPa pa) p b b2 (scopeFar x.scope) = (u, old)) :
    s.atomOne m c x pa p b b2 = ((u.released m x.scope).acquire m.die c x.scope m.who, old.map (fun v => v.toNat)) := by
  have hq3 : quarter pa ≠ 3 := by omega
  have hrel : semRel .acqRel = true := rfl
  have hacq : semAcq .acqRel = true := rfl
  unfold State.atomOne
  simp only [hsem, hrel, hacq, if_true, if_neg hq3, Bool.true_and, h]

/-- What an atomic that releases and acquires leaves: an L1 that holds nothing, the bytes of its dirty line and of the operand written. -/
structure State.AtomedAt (s u : State) (d c line : Nat) (l : L1Line) (far : Bool) (outs : List Out) (cov : Nat → Bool) (val : Nat → Byte) : Prop where
  warps : u.warps = s.warps
  cur : u.cur = s.cur
  outs : u.outs = outs
  l1 : (u.core c).l1 = []
  others : ∀ k, k ≠ c → u.core k = s.core k
  epoch : ∀ e < 2, u.mem.epoch e = s.mem.epoch e + if far = true ∧ e = d then 1 else 0
  seen : ∀ q, u.mem.look d q = if cov q then val q else if q / 128 = line ∧ bitAt l.dirty (q % 128) = true then lineGet l.data (q % 128) else s.mem.look d q

section
variable {s u : State} {m : Master} {d c line : Nat} {l : L1Line} {far : Bool} {outs : List Out}

theorem State.ReleasedAt.acquired {v z : State} {sc : Scope} {cov : Nat → Bool} {val : Nat → Byte} (h : s.ReleasedAt u d c line l far outs)
    (hv : u.AtomicAt v) (hw : scopeWide sc = true) (hz : v.Hushed z)
    (hseen : ∀ q, v.mem.look d q = if cov q then val q else u.mem.look d q) (who : Option Agent) :
    s.AtomedAt (z.acquire d c sc who) d c line l far outs cov val := by
  have hcore : ∀ k, z.core k = u.core k := fun k => by
    rw [show z = _ from hz, show v = _ from hv]
    rfl
  have hq := State.acquire_clean (s := z) (c := c) (by rw [hcore, h.l1]; exact fun p hp => by rw [List.mem_singleton.mp hp]; rfl) hw d who
  have hmem : ∀ q, (z.acquire d c sc who).mem.look d q = v.mem.look d q := fun q => by
    rw [show z.acquire d c sc who = _ from hq, show z = _ from hz]
    rfl
  have hepoch : ∀ e, (z.acquire d c sc who).mem.epoch e = u.mem.epoch e := fun e => by
    rw [show z.acquire d c sc who = _ from hq, show z = _ from hz, show v = _ from hv]
    rfl
  have hcores : ∀ k, (z.acquire d c sc who).core k = if c = k then { u.core c with l1 := [] } else u.core k := fun k => by
    rw [← hcore, ← hcore, show z.acquire d c sc who = _ from hq]
    exact z.core_updCore c k (fun k => { k with l1 := [] })
  refine ⟨?_, ?_, ?_, by rw [hcores, if_pos rfl], fun k hk => by rw [hcores, if_neg (Ne.symm hk), h.others k hk],
    fun e he => (hepoch e).trans (h.epoch e he), fun q => (hmem q).trans ((hseen q).trans (by rw [h.seen]))⟩
  all_goals rw [show z.acquire d c sc who = _ from hq, show z = _ from hz, show v = _ from hv, h.rest]; rfl

/-- An atomic with both semantics at cluster scope or wider, on a line that L1 does not hold. -/
theorem State.OneDirty.atomOne {x : MemExt} {pa : Nat} {op : AtomOp} (h : s.OneDirty m.die c line l) (hstrait : s.mem.strait = []) (hheld : s.mem.held = [])
    (hd : m.die < 2) (hcode : m.code = c) (hsem : x.sem = .acqRel) (hwide : scopeWide x.scope = true) (hq : quarter pa < 2)
    (halign : canonPa pa % atomSize op = 0) (htr : s.trackRead m.lid (canonPa pa) = s) (htw : s.trackWrite m.lid (canonPa pa) = s)
    (hhome : homeOf (canonPa pa) = m.die) (hne : canonPa pa / 128 ≠ line) (hl2 : (s.mem.line? m.die (canonPa pa / 128)).isSome = true)
    (b b2 : Word64) :
    let old := ofBytes (s.mem.lookN m.die (canonPa pa) (atomSize op))
    ∃ z, s.atomOne m c x pa op b b2 = (z, some old) ∧
      s.AtomedAt z m.die c line l (scopeFar x.scope) (if x.scope = .system then s.outs ++ [.release m.agent] else s.outs)
        (fun q => covers (canonPa pa) (atomSize op) q)
        (fun q => BitVec.ofNat 8 ((atomValue op (BitVec.ofNat 64 old) b b2).toNat / 2 ^ (8 * (q - canonPa pa)))) := by
  obtain ⟨hfit, -⟩ := atomSize_fits halign
  have hr := h.releaseBy hd hwide
  have hsound : (s.releaseBy m c x.scope).mem.Sound := by rw [hr.rest]; exact h.sound
  have hrec := State.l1Drop_missing hsound.2.2 (by rw [hr.find, if_neg (Ne.symm hne)]) m.die (c := c) (line := canonPa pa / 128)
  have hr2 := hr.recored hrec
  have hone := @State.atomOne_both x hsem pa hq s m c op b b2
  generalize (s.releaseBy m c x.scope).l1Drop m.die c (canonPa pa / 128) = u at hr2 hone
  obtain ⟨g, hg, hgsrc, -, -, hgrec⟩ := hr2.sent
  obtain ⟨v, hat, hv, hseen⟩ := State.atomic_fresh (s := u) (m := m) (a := canonPa pa) (op := op) (by rw [hr2.rest]; exact h.gran)
    (by rw [hr2.rest]; exact h.sound) (by rw [hr2.rest]; exact hheld) hd
    (by rw [hg, hstrait]; exact fun y hy => by rw [List.mem_singleton.mp hy]; exact ⟨hgsrc, hgrec⟩)
    (State.trackRead_same htr (by rw [hr2.rest])) (State.trackWrite_same htw (by rw [hr2.rest])) hhome (hr2.held _ hl2) halign
    (by rw [hcode, hr2.find, if_neg (Ne.symm hne)]) b b2 (scopeFar x.scope)
  have hold : u.mem.lookN m.die (canonPa pa) (atomSize op) = s.mem.lookN m.die (canonPa pa) (atomSize op) := by
    rw [Mem.lookN_eq, Mem.lookN_eq]
    refine List.map_congr_left fun k hk => ?_
    have hk' := List.mem_range.mp hk
    rw [hr2.seen, if_neg (fun hc => hne (by omega))]
  rw [hold] at hat hseen
  refine ⟨_, (hone hat).trans (Prod.ext rfl ?_), hr2.acquired hv hwide (State.released_hushed _ _ _) hseen _⟩
  have h64 := ofBytes_lookN_lt s.mem m.die (canonPa pa) (n := atomSize op) (by omega)
  exact congrArg some ((BitVec.toNat_ofNat ..).trans (Nat.mod_eq_of_lt h64))

end

/-! ## A red that releases -/

/-- An operation takes the next place of a warp's q6. -/
def State.queueRed (s : State) (w : Nat) (o : EngOp) : State :=
  s.updWarp w (fun v => { v with queues := v.queues.set 6 (v.queues.get [] 6 ++ [{ o with num := v.opNum, q := 6 }]), opNum := v.opNum + 1 })

/-- A red finds room in q6. -/
theorem State.redPush_room {s : State} {w : Nat} (h : ((s.warp w).queues.get [] 6).length < 16) (o : EngOp) : s.redPush w o = s.queueRed w o := by
  unfold State.redPush
  simp only [h, if_true]
  rfl

theorem State.queueRed_queue (s : State) (w : Nat) (o : EngOp) : ((s.queueRed w o).warp w).queues.get [] 6 =
    (s.warp w).queues.get [] 6 ++ [{ o with num := (s.warp w).opNum, q := 6 }] := by
  rw [State.queueRed, State.warp_updWarp_same]
  exact SMap.get_set_same _ _ _ _

/-- A place in q6 makes no lane live or dead. -/
theorem State.queueRed_execLanes (s : State) (w : Nat) (o : EngOp) : (s.queueRed w o).execLanes = s.execLanes := by
  have hlive : ∀ k, ((s.queueRed w o).warp k).live = (s.warp k).live := fun k => by
    rw [State.queueRed, State.warp_updWarp]
    split
    · rename_i hk
      subst hk
      rfl
    · rfl
  exact congrArg (fun m => lanesOf (s.cur.lanes &&& m)) (hlive _)

theorem State.redStuck_room {s : State} {w : Nat} (h : ((s.warp w).queues.get [] 6).length < 16) : s.redStuck w 1 = false := by
  unfold State.redStuck
  dsimp only
  rw [show ((s.warp w).queues.get [] 6).length + 1 - 16 = 0 by omega]
  rfl

end Sys2Proof.Machine
end

section
/-! SUPPORT. One lane whose core's L1 holds one dirty line: its store, atomic or red with release semantics (11_ordering.md R286, R287, R290,
R293, 12_memory_instr.md R312, R317, R318), and obligation O30. -/

namespace Sys2Proof.Machine

/-! ## The state before -/

/-- One lane executes, its core's L1 holds one dirty line, the home of that line and of the lane's own is its die, whose L2 holds both, and
the release is at cluster scope or wider. -/
structure State.ReleaseLane (s : State) (x : MemExt) (pa j line : Nat) (l : L1Line) : Prop where
  wide : scopeWide x.scope = true
  gran : s.mem.granules = []
  strait : s.mem.strait = []
  ctrs : s.mem.held = []
  l1 : (s.core (coreOf s.cur.warp)).l1 = [(line, l)]
  dirty : l.dirty ≠ 0
  home : homeOf (128 * line) = warpDie s.cur.warp
  held : (s.mem.line? (warpDie s.cur.warp) line).isSome = true
  lane : s.execLanes = [j]
  ownHome : homeOf (canonPa pa) = warpDie s.cur.warp
  ne : canonPa pa / 128 ≠ line
  own : (s.mem.line? (warpDie s.cur.warp) (canonPa pa / 128)).isSome = true

theorem State.ReleaseLane.oneDirty {s u : State} {x : MemExt} {pa j line : Nat} {l : L1Line} (h : s.ReleaseLane x pa j line l) (hs : s.mem.Sound)
    (hu : s.Alike u) : u.OneDirty (warpDie s.cur.warp) (coreOf s.cur.warp) line l := by
  rw [hu.rest]
  exact ⟨hs, h.gran, h.l1, h.dirty, h.home, h.held⟩

theorem State.ReleaseLane.die_lt {s : State} {x : MemExt} {pa j line : Nat} {l : L1Line} (h : s.ReleaseLane x pa j line l) : warpDie s.cur.warp < 2 :=
  h.home ▸ homeOf_lt _

/-- Where a release at system scope is sent out. -/
def State.releaseOuts (s : State) (x : MemExt) (j : Nat) : List Out :=
  if x.scope = .system then s.outs ++ [.release (64 * s.cur.warp + j)] else s.outs

theorem State.execLanes_alike {s u : State} (hcur : u.cur = s.cur) (hw : ∀ k, u.warp k = s.warp k) : u.execLanes = s.execLanes := by
  simp only [State.execLanes, hcur, hw]

/-- A relisting of the warps does not change what a store leaves. -/
theorem State.StoredAt.relisted {s u z : State} {d c line own : Nat} {l : L1Line} {far : Bool} {outs : List Out} {cov : Nat → Bool} {val : Nat → Byte}
    (h : u.StoredAt z d c line own l far outs cov val) (hu : s.Alike u) :
    s.StoredAt { z with warps := s.warps } d c line own l far outs cov val := by
  obtain ⟨hrest, htold, hl1, hothers, hepoch, hsent, hseen⟩ := h
  have hsame : u.mem = s.mem ∧ u.cmdQueues = s.cmdQueues ∧ u.cores = s.cores := by rw [hu.rest]; exact ⟨rfl, rfl, rfl⟩
  obtain ⟨hmem, hqueues, hcores⟩ := hsame
  have hcore : ∀ k, u.core k = s.core k := fun k => by rw [State.core, hcores]; rfl
  have hqueue : ∀ k, u.cmdQueue k = s.cmdQueue k := fun k => by rw [State.cmdQueue, hqueues]; rfl
  rw [hmem] at hepoch hsent hseen
  have hstate : ∀ ws, ({ z with warps := ws } : State) =
      { s with warps := ws, cores := z.cores, cmdQueues := z.cmdQueues, outs := outs,
               mem := { s.mem with l2 := z.mem.l2, strait := z.mem.strait, toSlice := z.mem.toSlice, unseen := z.mem.unseen,
                                   e0 := z.mem.e0, e1 := z.mem.e1 } } := fun ws => by
    rw [hrest, hu.rest]
  exact ⟨hstate _, fun k => (htold k).trans (by rw [hqueue]; rfl), hl1, fun k hk => (hothers k hk).trans (hcore k), hepoch, hsent, hseen⟩

section
variable {s : State} {n : Stall} {a : Src} {x : MemExt} {pa j line : Nat} {l : L1Line}

/-- A store with release semantics. -/
theorem st_release {d : Src} {w : Width} (h : s.ReleaseLane x pa j line l) (hc : s.Clear (srcRes a ++ storedRes d w)) (hsem : x.sem = .release)
    (hreach : s.LanesReach a x (widthSize w) .write (fun _ => pa)) :
    ∃ (s1 t : State), exec (.st n d a w x) s = .next t ∧ s1.Given t n 8 (fun _ => {}) ∧
      s.StoredAt s1 (warpDie s.cur.warp) (coreOf s.cur.warp) line (canonPa pa / 128) l (scopeFar x.scope) (s.releaseOuts x j)
        (fun q => covers (canonPa pa) (widthSize w) q) (fun q => BitVec.ofNat 8 (stored (s.view j) 1 d w / 2 ^ (8 * (q - canonPa pa)))) := by
  have hx : exec (.st n d a w x) s = execSt n d a w x s := rfl
  obtain ⟨-, -, halign, -, -, hq, hsound, -, htr⟩ := hreach.2 j (by rw [h.lane]; exact List.mem_cons_self)
  obtain ⟨u, hu, hgo⟩ := memOp_one hc (reads := fun _ => srcRes a ++ storedRes d w) (fun _ _ _ h => h) hreach n 8 0 (.inl rfl) h.lane
    (fun t i p => (t.stOne ((s.laneMaster s.cur.warp x).by s.cur.warp i) (coreOf s.cur.warp) x (widthSize w) p (stored (s.view i) 1 d w), some {}))
  have hst := (h.oneDirty hsound hu).stOne (m := (s.laneMaster s.cur.warp x).by s.cur.warp j) (v := stored (s.view j) 1 d w)
    h.die_lt hsem h.wide hq halign (State.trackWrite_same (htr rfl) (by rw [hu.rest])) h.ownHome h.ne (by rw [hu.rest]; exact h.own)
  rw [show u.outs = s.outs by rw [hu.rest]] at hst
  refine ⟨_, _, hx.trans (hgo _ _ rfl), ?_, hst.relisted hu⟩
  have hg := State.finishLanes_passed_relisted (s := s) (u := u.stOne ((s.laneMaster s.cur.warp x).by s.cur.warp j) (coreOf s.cur.warp) x (widthSize w) pa
    (stored (s.view j) 1 d w)) (by rw [hst.rest, hu.rest]) (fun k => by rw [← hu.warp, hst.rest]; rfl) n 8 0 (1, 1)
  rwa [h.lane] at hg

/-- An atomic with acquire and release semantics. -/
theorem atom_both {r : BitVec 4} {b : Src} {op : AtomOp} (h : s.ReleaseLane x pa j line l) (hc : s.Clear (srcRes a ++ atomRes op b)) (hsem : x.sem = .acqRel)
    (hreach : s.LanesReach a x (atomSize op) .atomic (fun _ => pa)) (hred : s.NoRedOwed (atomSize op) (fun _ => pa)) :
    let old := ofBytes (s.mem.lookN (warpDie s.cur.warp) (canonPa pa) (atomSize op))
    let args := atomArgs (s.view j) op b
    ∃ (s1 t : State), exec (.atom n (.o r) a b op x) s = .next t ∧
      s1.Given t n 8 (fun _ => loadEffect (.o r) (if atomSize op = 8 then .w64 else .w32) old) ∧
      ∃ u, s.Alike u ∧ u.AtomedAt s1 (warpDie s.cur.warp) (coreOf s.cur.warp) line l (scopeFar x.scope) (s.releaseOuts x j)
        (fun q => covers (canonPa pa) (atomSize op) q)
        (fun q => BitVec.ofNat 8 ((atomValue op (BitVec.ofNat 64 old) args.1 args.2).toNat / 2 ^ (8 * (q - canonPa pa)))) := by
  have hx : exec (.atom n (.o r) a b op x) s = execAtom n (.o r) a b op x s := rfl
  obtain ⟨-, -, halign, -, -, hq, hsound, hrd, htr⟩ := hreach.2 j (by rw [h.lane]; exact List.mem_cons_self)
  have hplain : ∀ p, ¬(Dst.o r = .zero ∧ x.sem = .plain ∧ quarter p < 3) := fun _ hp => Dst.noConfusion hp.1
  obtain ⟨u, hu, hgo⟩ := memOp_one hc (reads := fun _ => srcRes a ++ atomRes op b) (fun _ _ _ h => h) hreach n 8 (atomSize op) (.inr hred) h.lane
    (fun t i p =>
      let z := t.atomOne ((s.laneMaster s.cur.warp x).by s.cur.warp i) (coreOf s.cur.warp) x p op (atomArgs (s.view i) op b).1 (atomArgs (s.view i) op b).2
      (z.1, z.2.map (atomLoaded (.o r) op)))
  obtain ⟨z, hz, hat⟩ := (h.oneDirty hsound hu).atomOne (m := (s.laneMaster s.cur.warp x).by s.cur.warp j) (by rw [hu.rest]; exact h.strait)
    (by rw [hu.rest]; exact h.ctrs) h.die_lt rfl hsem h.wide hq halign (State.trackRead_same hrd (by rw [hu.rest]))
    (State.trackWrite_same (htr rfl) (by rw [hu.rest])) h.ownHome h.ne (by rw [hu.rest]; exact h.own) (atomArgs (s.view j) op b).1 (atomArgs (s.view j) op b).2
  rw [show u.outs = s.outs by rw [hu.rest], show u.mem = s.mem by rw [hu.rest]] at hat
  rw [show u.mem = s.mem by rw [hu.rest]] at hz
  have hcur : z.cur = s.cur := hat.cur.trans (by rw [hu.rest])
  have hexec : z.execLanes = [j] := (State.execLanes_alike hcur (fun k => by rw [← hu.warp, State.warp, hat.warps]; rfl)).trans h.lane
  have hrun : exec (.atom n (.o r) a b op x) s = .next (z.finishLanes s.cur.warp 8 0 n.toNat (1, 1)
      [(j, loaded (.o r) (if atomSize op = 8 then .w64 else .w32) (ofBytes (s.mem.lookN (warpDie s.cur.warp) (canonPa pa) (atomSize op))))]) := by
    rw [hx, execAtom]
    simp only [hplain, if_false]
    exact hgo z _ (by rw [hz]; rfl)
  have hg := z.finishLanes_loaded n 8 0 (1, 1) (.o r) (if atomSize op = 8 then .w64 else .w32)
    (fun _ => ofBytes (s.mem.lookN (warpDie s.cur.warp) (canonPa pa) (atomSize op)))
  rw [hexec, hcur] at hg
  exact ⟨z, _, hrun, hg, u, hu, hat⟩

/-- The operation that a red with release semantics places in q6. -/
def State.redOp (s : State) (x : MemExt) (op : AtomOp) (b : Src) (j pa : Nat) : EngOp :=
  { kind := .red, warp := s.cur.warp, lid := (s.warp s.cur.warp).lid, taskId := (s.warp s.cur.warp).taskId, num := (s.warp s.cur.warp).opNum, q := 6,
    redAddr := pa, redOp := op, redVal := (atomArgs (s.view j) op b).1, redScope := some x.scope, tid := (s.warp s.cur.warp).tid, lane := j,
    cls := (s.laneMaster s.cur.warp x).cls, slack := (s.laneMaster s.cur.warp x).slack }

/-- What a red does as it enters q6. -/
def State.enterRed (s : State) (x : MemExt) (op : AtomOp) (b : Src) (t : State) (i pa : Nat) : State :=
  let c := coreOf s.cur.warp
  let t1 := if semRel x.sem ∧ scopeWide x.scope then t.l1Release (warpDie s.cur.warp) c else t
  let t2 := if quarter pa = 3 then t1 else t1.l1Drop (warpDie s.cur.warp) c (canonPa pa / 128)
  t2.redPush s.cur.warp { s.redOp x op b i pa with num := 0, q := 0, redScope := if semRel x.sem then some x.scope else none }

/-- A red with release semantics: L1 is written back as it enters q6. -/
theorem red_release {b : Src} {op : AtomOp} (h : s.ReleaseLane x pa j line l) (hc : s.Clear (srcRes a ++ atomRes op b)) (hsem : x.sem = .release)
    (hreach : s.LanesReach a x (atomSize op) .atomic (fun _ => pa)) (hroom : ((s.warp s.cur.warp).queues.get [] 6).length < 16) :
    ∃ (s1 t : State), exec (.red n a b op x) s = .next t ∧ s1.Given t n 8 (fun _ => {}) ∧
      (s1.warp s.cur.warp).queues.get [] 6 = (s.warp s.cur.warp).queues.get [] 6 ++ [s.redOp x op b j pa] ∧
      ∃ u z, s.Alike u ∧ u.ReleasedAt z (warpDie s.cur.warp) (coreOf s.cur.warp) line l false s.outs ∧ s1 = { z with warps := s1.warps } := by
  obtain ⟨-, -, -, -, -, hq, hsound, -⟩ := hreach.2 j (by rw [h.lane]; exact List.mem_cons_self)
  have hq3 : quarter pa ≠ 3 := Nat.ne_of_lt (Nat.lt_trans hq (by decide))
  have hrel : semRel x.sem = true ∧ scopeWide x.scope = true := ⟨by rw [hsem]; rfl, h.wide⟩
  obtain ⟨u, hu, hgo⟩ := memOp_one hc (reads := fun _ => srcRes a ++ atomRes op b) (fun _ _ _ h => h) hreach n 8 0 (.inl rfl) h.lane
    (fun t i p => (s.enterRed x op b t i p, some {}))
  have hx : exec (.red n a b op x) s = .next ((s.enterRed x op b u j pa).finishLanes s.cur.warp 8 0 n.toNat (1, 1) [(j, {})]) := by
    refine Eq.trans ?_ (hgo _ _ rfl)
    have hstuck : s.redStuck s.cur.warp s.execLanes.length = false := by
      rw [h.lane]
      exact State.redStuck_room hroom
    change execRed n a b op x s = _
    unfold execRed
    rw [hstuck]
    rfl
  have hr := (h.oneDirty hsound hu).l1Release
  have hz := hr.recored (State.l1Drop_missing (by rw [hr.rest, hu.rest]; exact hsound.2.2) (by rw [hr.find, if_neg (Ne.symm h.ne)])
    (warpDie s.cur.warp) (c := coreOf s.cur.warp) (line := canonPa pa / 128))
  have henter : s.enterRed x op b u j pa = ((u.l1Release (warpDie s.cur.warp) (coreOf s.cur.warp)).l1Drop (warpDie s.cur.warp) (coreOf s.cur.warp)
      (canonPa pa / 128)).redPush s.cur.warp { s.redOp x op b j pa with num := 0, q := 0 } := by
    unfold State.enterRed
    simp only [if_pos hrel, if_neg hq3, if_pos hrel.1]
    rfl
  generalize (u.l1Release (warpDie s.cur.warp) (coreOf s.cur.warp)).l1Drop (warpDie s.cur.warp) (coreOf s.cur.warp) (canonPa pa / 128) = z at hz henter
  rw [show u.outs = s.outs by rw [hu.rest]] at hz
  have hwarp : ∀ k, z.warp k = s.warp k := fun k => by rw [← hu.warp, hz.rest]; rfl
  have hcur : z.cur = s.cur := by rw [hz.rest, hu.rest]
  rw [State.redPush_room (by rw [hwarp]; exact hroom)] at henter
  rw [henter] at hx
  refine ⟨z.queueRed s.cur.warp { s.redOp x op b j pa with num := 0, q := 0 }, _, hx, ?_, ?_, u, z, hu, hz, rfl⟩
  · have hg := (z.queueRed s.cur.warp { s.redOp x op b j pa with num := 0, q := 0 }).finishLanes_passed n 8 0 (1, 1)
    rw [State.queueRed_execLanes, State.execLanes_alike hcur hwarp, h.lane, show (z.queueRed s.cur.warp _).cur = s.cur from hcur] at hg
    exact hg
  · rw [State.queueRed_queue, hwarp]
    rfl

end

/-! ## The statement -/

theorem State.L2Only.relisted {s u : State} {d : Nat} (h : s.L2Only u d) (ws : SMap Warp) : ({ u with warps := ws } : State) =
    { s with warps := ws, cmdQueues := u.cmdQueues,
             mem := { s.mem with l2 := u.mem.l2, strait := u.mem.strait, toSlice := u.mem.toSlice, unseen := u.mem.unseen } } := by
  rw [h.rest]

/-- The bytes of an access and other bytes, told apart. -/
theorem seen_cases {a n q : Nat} {p : Prop} [Decidable p] {y v e f : Byte} (hy : y = if covers a n q then v else if p then e else f)
    (hp : covers a n q = true → ¬p) : (a ≤ q ∧ q < a + n → y = v) ∧ (p → y = e) ∧ (¬(a ≤ q ∧ q < a + n) → ¬p → y = f) := by
  refine ⟨fun h => ?_, fun h => ?_, fun h h' => ?_⟩
  · rw [hy, if_pos (covers_iff.mpr h)]
  · rw [hy, if_neg (fun hc => hp hc h), if_pos h]
  · rw [hy, if_neg (fun hc => h (covers_iff.mp hc)), if_neg h']

/-- A line that has been written back is the only one, and clean. -/
theorem L1Line.cleaned_only {c : Core} {line : Nat} {l : L1Line} (h : c.l1 = [(line, l.cleaned)]) : ∀ k m, c.l1? k = some m → m.dirty = 0 := by
  intro k m hm
  rw [Core.l1?, h, SMap.find?] at hm
  split at hm
  · rw [← Option.some.inj hm]
    rfl
  · exact absurd hm (Option.some_ne_none m).symm

theorem scopeFar_ite (sc : Scope) (p : Prop) [Decidable p] :
    (if scopeFar sc = true ∧ p then 1 else 0 : Nat) = if sc ∈ [Scope.device, .system] ∧ p then 1 else 0 :=
  if_congr (and_congr_left' (scopeFar_iff sc)) rfl rfl

/-- Settles O30. -/
theorem storesAtL2 : Obligations.StoresAtL2 := by
  refine ⟨?_, ?_⟩
  · intro s n d a w x pa c die hc hsem hcache hreach hg hplace
    obtain ⟨u, t, hx, hu, hgiven, hseen⟩ := st_bypass (n := n) hc hsem hcache hreach hg
      (fun i hi => ⟨(hplace i hi).1, (hplace i hi).2.1, (hplace i hi).2.2.2⟩)
    refine ⟨{ u with warps := s.warps }, t, hx, hgiven, hu.relisted _, hu.told, fun b => ?_⟩
    have hb := hseen b
    dsimp only
    split
    · rename_i hl
      exact hb.trans (congrArg (fun o : Option Nat => o.elim _ _) hl)
    · rename_i i hl
      exact hb.trans (congrArg (fun o : Option Nat => o.elim _ _) hl)
  · intro s n r d a b v x pa j line l c die far w hscope hg hstrait hheld hl1 hdirty hhome hline hlane hown _ hne hownl dirty outs
    have h : s.ReleaseLane x pa j line l := ⟨(scopeWide_iff _).mpr hscope, hg, hstrait, hheld, hl1, hdirty, by rw [Nat.mul_comm]; exact hhome,
      hline, hlane, hown, hne, hownl⟩
    have hj : j ∈ s.execLanes := by rw [hlane]; exact List.mem_cons_self
    refine ⟨fun hc hsem hreach => ?_, fun op hc hsem hreach hred => ?_, fun op hc hsem hreach hroom => ?_⟩
    · obtain ⟨s1, t, hx, hgiven, hst⟩ := st_release (n := n) h hc hsem hreach
      obtain ⟨g, y, hsent, ⟨hgsrc, hgline, hgk⟩, hysrc, hyline, hyk⟩ := hst.sent
      refine ⟨s1, t, hx, hgiven, hst.rest, hst.told, L1Line.cleaned_only hst.l1, hst.others, fun e he => ?_, fun z hz => ?_, fun q => ?_⟩
      · exact (hst.epoch e he).trans (by rw [scopeFar_ite])
      · rw [hsent, hstrait, List.nil_append, List.mem_cons, List.mem_singleton] at hz
        rcases hz with rfl | rfl
        · exact ⟨hgsrc, fun _ => hgk, fun hz => absurd (hz.symm.trans hgline) hne⟩
        · exact ⟨hysrc, fun hz => absurd (hyline.symm.trans hz) hne, fun _ => hyk⟩
      · exact seen_cases (hst.seen q) (fun hcov hq => hne (((covers_line (hreach.2 j hj).2.2.1 q).mp hcov).1.trans hq.1))
    · intro old args new
      obtain ⟨s1, t, hx, hgiven, u, hu, hat⟩ := atom_both (n := n) (r := r) h hc hsem hreach hred
      have hcore : ∀ k, u.core k = s.core k := fun k => by rw [hu.rest]; rfl
      have hmem : u.mem = s.mem := by rw [hu.rest]
      refine ⟨s1, t, hx, hgiven, hat.l1, fun k hk => (hat.others k hk).trans (hcore k), hat.outs, fun e he => ?_, fun q => ?_⟩
      · exact (hat.epoch e he).trans (by rw [scopeFar_ite, hmem])
      · have hseen := hat.seen q
        rw [hmem] at hseen
        refine seen_cases hseen (fun hcov hq => hne ?_)
        have hin := covers_iff.mp hcov
        have hfit := (atomSize_fits (a := canonPa pa) (hreach.2 j hj).2.2.1).1
        have hql := hq.1
        omega
    · obtain ⟨s1, t, hx, hgiven, hqueue, u, z, hu, hz, hs1⟩ := red_release (n := n) h hc hsem hreach hroom
      have hcores : ∀ k, s1.core k = z.core k := fun k => by rw [hs1]; rfl
      have hmem : s1.mem = z.mem := by rw [hs1]
      refine ⟨s1, t, hx, hgiven, L1Line.cleaned_only (by rw [hcores, hz.l1]), fun k hk => ?_, ?_, fun e he => ?_, ⟨_, hqueue, rfl, rfl, rfl, rfl, rfl, rfl, rfl⟩, fun q => ?_⟩
      · rw [hcores, hz.others k hk, hu.rest]
        rfl
      · rw [hs1, hz.rest]
      · rw [hmem, hz.epoch e he, hu.rest]
        simp
      · rw [hmem, hz.seen, hu.rest]

end Sys2Proof.Machine
end
